-- ==== Sys2Proof/Word.lean ====
section
/-! DEFINITION. The word, byte and sparse-table types of the model. -/

namespace Sys2Proof

/-- A register: 32 bits, little-endian (R18). -/
abbrev Word := BitVec 32

/-- One byte of memory, of a frame or of a packet. -/
abbrev Byte := BitVec 8

/-- A sparse table: keys strictly rising, no entry equal to what an unlisted key reads as. -/
abbrev Tab (α : Type) := List (Nat × α)

end Sys2Proof
end

