-- ==== Sys2Proof/Syntax.lean ====
section
/-! DEFINITION. The commands of the part: one constructor for each row of spec/opcode_table.json, with the operands
the row's step needs. A row of a command packet names the ring and slot of the command Mason holds; a row of an
outside event carries what the outside world brings. -/

namespace Sys2Proof

inductive Instr where
  /-- REGISTER_WRITE (R37): A write to a register that has no row of its own takes effect in its block in arrival order. -/
  | registerWrite (m addr : Nat) (data : List Byte)
  /-- SYS_FENCE_READ (R45): A read of SYS.FENCE waits for the reader's outstanding register writes and returns its WAITED and DROPPED counts. -/
  | sysFenceRead (m waited : Nat)
  /-- FENCE_TIMEOUT (R49): A SYS.FENCE read reaches its 100 µs limit, returns TIMED_OUT and raises FENCE_TIMEOUT. -/
  | fenceTimeout (m waited : Nat)
  /-- RING_DOORBELL (R589): A write of CMD_TAIL by the ring owner advances the command tail, or is ignored and sets BAD_DB. -/
  | ringDoorbell (m n : Nat) (v : Word)
  /-- RING_ENABLE (R81): A write of RING_CTRL.EN = 1 checks the ring configuration and enables fetching or sets FAULT. -/
  | ringEnable (m n : Nat)
  /-- RING_DISABLE (R82): A write of RING_CTRL.EN = 0 stops fetching and aborts fetched commands not yet started. -/
  | ringDisable (m n : Nat)
  /-- RING_RESET (R82): A write of RING_CTRL.RESET while the ring is idle sets its four indices to zero. -/
  | ringReset (m n : Nat)
  /-- CMD_TIMEOUT_WRITE (R71): A write of CMD.TIMEOUT.LIMIT_US is clamped to 100–1,000,000 µs. -/
  | cmdTimeoutWrite (m : Nat) (v : Word)
  /-- COMMAND_FETCH (R75): Mason fetches a command from a ready ring when its fetch conditions hold and copies it into its SRAM. -/
  | commandFetch
  /-- COMMAND_TIMEOUT (R71): A command waiting at its admission point longer than CMD.TIMEOUT completes with TIMEOUT and no effect. -/
  | commandTimeout (ring slot : Nat)
  /-- COMMAND_REPLY (R76): Mason writes a completed command's reply in completion order, advances RSP_TAIL and raises the completion event. -/
  | commandReply
  /-- COMPLETION_EVENT_TIMER (R76): The oldest unannounced reply reaches COAL_TIME and the ring's completion event is raised. -/
  | completionEventTimer (n : Nat)
  /-- NOP (R84): General opcode that does nothing and replies OK. -/
  | nop (ring slot : Nat)
  /-- FENCE (R44): Completes once every earlier command and register write of the same master has taken effect. -/
  | fence (ring slot : Nat)
  /-- ECHO (R84): Returns the payload bytes inline and their CRC-32C in DETAIL.VALUE. -/
  | echo (ring slot : Nat)
  /-- GET_VARIANT (R15): Returns SYS.VARIANT_ID. -/
  | getVariant (ring slot : Nat)
  /-- NCP_COMMAND_FRAME (R96): A command frame arriving on port IM is authenticated and placed in ring 31, or dropped and counted in NCP_DROP. -/
  | ncpCommandFrame
  /-- NCP_CTRL_WRITE (R98): A write of CMD.NCP_CTRL enables the port only with a suitable key slot, and a KEY_SLOT write zeroes NCP_SEQ. -/
  | ncpCtrlWrite (m : Nat) (v : Word)
  /-- ACL_SET_ENTRY (R92): Writes a master's rights and instance mask in a block's access table. -/
  | aclSetEntry (ring slot : Nat)
  /-- ACL_GET_ENTRY (R92): Returns a master's rights and instance mask in a block's access table. -/
  | aclGetEntry (ring slot : Nat)
  /-- ACL_LOCK (R91): Locks an access table or the window set until the next reset that clears ACL. -/
  | aclLock (ring slot : Nat)
  /-- ACL_SET_WINDOW (R92): Writes one memory window of a master. -/
  | aclSetWindow (ring slot : Nat)
  /-- ACL_GET_WINDOW (R92): Returns one memory window of a master. -/
  | aclGetWindow (ring slot : Nat)
  /-- ACL_WINDOW_WRITE (R90): A write in the ACL register window changes an entry or window only with WRITE and ACL_ADMIN. -/
  | aclWindowWrite (m off : Nat) (v : Word)
  /-- ACL_LOCK_WRITE (R591): A write of ACL.LOCK sets, bit by bit, the lock bits the writer may set. -/
  | aclLockWrite (m : Nat) (v : Word)
  /-- TIME_NS_READ (R103): A read of TIM.TIME_NS returns NS and latches SEC and FRAC for the reading master. -/
  | timeNsRead (m : Nat)
  /-- INCR_COMMIT (R107): A write of TIM.INCR_HI commits the 40-bit INCR, limited to ±500 ppm, from the next tick. -/
  | incrCommit (m : Nat) (v : Word)
  /-- STEP_COMMIT (R108): A write of TIM.STEP_HI steps SEC and NS by the signed offset on one tick. -/
  | stepCommit (m : Nat) (v : Word)
  /-- TIM_GET_TIME (R128): Returns the counter and TIM.STATUS on the tick Mason executes it. -/
  | timGetTime (ring slot : Nat)
  /-- TIM_STEP (R108): Steps the network-time counter by a signed offset. -/
  | timStep (ring slot : Nat)
  /-- TIM_SET_INCR (R107): Sets INCR. -/
  | timSetIncr (ring slot : Nat)
  /-- TIM_SET_SERVO (R592): Writes TIM.SERVO_CFG after checking its form. -/
  | timSetServo (ring slot : Nat)
  /-- TIM_GPTP_CFG (R116): Configures a gPTP domain and its port roles, or clears its EN. -/
  | timGptpCfg (ring slot : Nat)
  /-- TIM_PULSE_CFG (R122): Configures and enables a timed pulse output. -/
  | timPulseCfg (ring slot : Nat)
  /-- TIM_CAPTURE_CFG (R128): Writes a time capture input's TCI_CTRL word. -/
  | timCaptureCfg (ring slot : Nat)
  /-- SYNC_ACCEPTED (R111): An accepted Sync of the governing domain gives an offset that the servo steps or corrects by. -/
  | syncAccepted (domain : Nat) (offset : Int)
  /-- SYNC_RECEIPT_TIMEOUT (R113): No Sync within 3 sync intervals puts the servo into HOLDOVER. -/
  | syncReceiptTimeout
  /-- GM_CHANGE (R114): The module becomes grandmaster of the governing domain and the servo enters GM. -/
  | gmChange
  /-- TPO_ENABLE_WRITE (R123): A write of TPO_CTRL.EN starts the pulse output or drives it inactive at the next tick. -/
  | tpoEnableWrite (m k : Nat) (v : Word)
  /-- TPO_EDGE (R122): A timed pulse output reaches an active or inactive edge time; a one-shot clears EN at its inactive edge. -/
  | tpoEdge (k : Nat)
  /-- TCI_CAPTURE (R125): A filtered edge on a capture input is timestamped into its FIFO, or dropped when the FIFO is full. -/
  | tciCapture (k : Nat) (falling : Bool)
  /-- TCI_POP (R126): A read of TCI_NS pops the oldest capture and latches its SEC. -/
  | tciPop (m k : Nat)
  /-- FRAME_RECEIVE (R285): A frame received on a port is checked by the MAC and MACsec and written into tiles by SWC. -/
  | frameReceive (p : Nat) (wire : List Byte) (ago : Nat)
  /-- FRAME_TAKE (R173): An idle context, or one with an empty second window buffer, takes the next frame from the ingress FIFOs. -/
  | frameTake (c : Nat) (bad : Bool)
  /-- ADD (R183): Addan instruction g[D] = g[A] + X. -/
  | addG (c : Nat)
  /-- SUB (R183): Addan instruction g[D] = g[A] − X. -/
  | subG (c : Nat)
  /-- AND (R183): Addan instruction g[D] = g[A] AND X. -/
  | andG (c : Nat)
  /-- OR (R183): Addan instruction g[D] = g[A] OR X. -/
  | orG (c : Nat)
  /-- XOR (R183): Addan instruction g[D] = g[A] XOR X. -/
  | xorG (c : Nat)
  /-- SHL (R183): Addan instruction shifting g[A] left by X[4:0]. -/
  | shlG (c : Nat)
  /-- SHR (R183): Addan instruction shifting g[A] right logically by X[4:0]. -/
  | shrG (c : Nat)
  /-- MOVI (R183): Addan instruction loading IMM16 into g[D]. -/
  | movi (c : Nat)
  /-- MOVHI (R183): Addan instruction loading IMM16 into the high half of g[D]. -/
  | movhi (c : Nat)
  /-- EXT (R183): Addan instruction extracting a bit field of g[A]. -/
  | extG (c : Nat)
  /-- CMP (R183): Addan instruction setting Z and C from comparing g[A] with X. -/
  | cmpG (c : Nat)
  /-- LD (R179): Addan instruction loading 1, 2 or 4 window bytes at CURSOR + X. -/
  | ldG (c : Nat)
  /-- ADV (R183): Addan instruction advancing CURSOR by X. -/
  | adv (c : Nat)
  /-- LDM (R180): Addan instruction loading a metadata field. -/
  | ldm (c : Nat)
  /-- STM (R180): Addan instruction writing a RW metadata field. -/
  | stm (c : Nat)
  /-- PUTK (R183): Addan instruction writing a key buffer word. -/
  | putk (c : Nat)
  /-- LKF (R185): Addan instruction starting a flow-table lookup under the frame's pour. -/
  | lkf (c : Nat)
  /-- LKA (R185): Addan instruction starting a ternary ACL lookup under the frame's pour. -/
  | lka (c : Nat)
  /-- SCAN (R188): Addan instruction starting a payload pattern scan. -/
  | scan (c : Nat)
  /-- VLOAD (R191): Addan instruction copying a verdict table entry's set fields into the record. -/
  | vload (c : Nat)
  /-- VSET (R191): Addan instruction writing or clearing one verdict record field. -/
  | vset (c : Nat)
  /-- CNT (R183): Addan instruction incrementing a user counter. -/
  | cnt (c : Nat)
  /-- DONE (R193): Addan instruction handing the verdict record to SWC and ending the frame. -/
  | doneG (c : Nat)
  /-- BR (R184): Addan branch to TARGET when its condition holds. -/
  | brG (c : Nat)
  /-- LOOKUP_RESULT (R186): A flow-table or ACL lookup result lands in its destination register. -/
  | lookupResult (c : Nat)
  /-- SCAN_RESULT (R188): A pattern unit finishes a scan and its result word lands. -/
  | scanResult (c : Nat) (bad : Option Nat)
  /-- WATCHDOG_STOP (R194): The 513th instruction of a frame would issue and the watchdog stops the frame. -/
  | watchdogStop (c : Nat)
  /-- EXPRESS_OVER (R195): An express frame exceeds its instruction, lookup or scan budget and is counted, or stopped when enforced. -/
  | expressOver (c : Nat)
  /-- PRS_PROG_LOAD (R201): Loads instruction words into an inactive, idle program bank. -/
  | prsProgLoad (ring slot : Nat)
  /-- PRS_PROG_ACTIVATE (R199): Activates a bank after checking its CRC, for frames whose parse start follows. -/
  | prsProgActivate (ring slot : Nat)
  /-- PRS_PROG_READ (R201): Returns instruction words of a bank. -/
  | prsProgRead (ring slot : Nat)
  /-- PRS_SET_CFG (R201): Writes PRS.CFG. -/
  | prsSetCfg (ring slot : Nat)
  /-- PRS_COUNTERS (R201): Returns and clears an engine's counters. -/
  | prsCounters (ring slot : Nat)
  /-- VERDICT_ACT (R227): SWC acts on a verdict: FRER recovery, policer, admission of each copy, holes and rewrite copy. -/
  | verdictAct
  /-- LANE_RELEASE (R151): A resequencer lane holding item E releases it to its queue or discards the hole. -/
  | laneRelease (p stream : Nat)
  /-- RESEQ_TIMEOUT (R152): A lane waiting for item E reaches TIMEOUT_US and advances to the lowest number it holds. -/
  | reseqTimeout (p stream : Nat)
  /-- FRER_RESET (R163): No frame passes an FRER stream for RESET_MS and its history resets. -/
  | frerReset (stream : Nat)
  /-- TRANSMIT_SELECT (R239): At a start instant TMG chooses the next eligible queue of the port, or the port idles. -/
  | transmitSelect (p : Nat) (bad : Option Nat)
  /-- COPY_TRANSMITTED (R149): A copy finishes leaving its egress port and the frame's reference count falls. -/
  | copyTransmitted (p : Nat) (bad : Option Nat) (ago : Nat)
  /-- LINKDOWN_FLUSH_WRITE (R164): A write of LINKDOWN_FLUSH = 1 while the link is down flushes the port's queues. -/
  | linkdownFlushWrite (m p : Nat) (v : Word)
  /-- SWC_SET_SHARED (R143): Sets the shared area size, ingress area and resequencer timeout. -/
  | swcSetShared (ring slot : Nat)
  /-- SWC_SET_QUEUE (R143): Sets a queue's reserve and limit. -/
  | swcSetQueue (ring slot : Nat)
  /-- SWC_FLUSH_QUEUE (R165): Flushes a queue and returns the copies and tiles released. -/
  | swcFlushQueue (ring slot : Nat)
  /-- SWC_SET_PORT (R167): Writes a port's PORT_CFG and PCP map. -/
  | swcSetPort (ring slot : Nat)
  /-- SWC_FDB_WRITE (R157): Writes or replaces a static FDB entry. -/
  | swcFdbWrite (ring slot : Nat)
  /-- SWC_FDB_DELETE (R157): Deletes a static FDB entry. -/
  | swcFdbDelete (ring slot : Nat)
  /-- SWC_FDB_READ (R167): Returns the port set of an FDB entry. -/
  | swcFdbRead (ring slot : Nat)
  /-- SWC_VLAN_WRITE (R156): Writes a VLAN table entry. -/
  | swcVlanWrite (ring slot : Nat)
  /-- SWC_FRER_WRITE (R162): Writes an FRER stream entry and resets its history. -/
  | swcFrerWrite (ring slot : Nat)
  /-- SWC_FRER_COUNTERS (R163): Returns and clears an FRER stream's counters. -/
  | swcFrerCounters (ring slot : Nat)
  /-- SWC_PORT_COUNTERS (R167): Returns a port's SWC counters. -/
  | swcPortCounters (ring slot : Nat)
  /-- RUL_POUR_OPEN (R208): Stages the next pour and makes the issuer its owner. -/
  | rulPourOpen (ring slot : Nat)
  /-- RUL_POUR_COMMIT (R214): Commits the staged pour into a free slot, or waits for the oldest OLD pour to retire. -/
  | rulPourCommit (ring slot : Nat)
  /-- RUL_POUR_ABANDON (R217): Frees the staged pour's new entries and ends the staging. -/
  | rulPourAbandon (ring slot : Nat)
  /-- RUL_POUR_STATUS (R234): Returns pour, staging and slot status. -/
  | rulPourStatus (ring slot : Nat)
  /-- RUL_FLOW_ADD (R210): Adds or replaces a flow entry in the staged pour. -/
  | rulFlowAdd (ring slot : Nat)
  /-- RUL_FLOW_DELETE (R210): Deletes a flow entry in the staged pour. -/
  | rulFlowDelete (ring slot : Nat)
  /-- RUL_FLOW_READ (R234): Returns a flow entry visible under a given pour. -/
  | rulFlowRead (ring slot : Nat)
  /-- RUL_ACL_WRITE (R222): Writes a ternary ACL entry in the staged pour. -/
  | rulAclWrite (ring slot : Nat)
  /-- RUL_ACL_DELETE (R210): Deletes a ternary ACL entry in the staged pour. -/
  | rulAclDelete (ring slot : Nat)
  /-- RUL_PATTERN_WRITE (R223): Writes a pattern entry in the staged pour. -/
  | rulPatternWrite (ring slot : Nat)
  /-- RUL_PATTERN_DELETE (R210): Deletes a pattern entry in the staged pour. -/
  | rulPatternDelete (ring slot : Nat)
  /-- RUL_VERDICT_WRITE (R225): Writes a verdict table entry in the staged pour. -/
  | rulVerdictWrite (ring slot : Nat)
  /-- RUL_VERDICT_DELETE (R210): Deletes a verdict table entry in the staged pour. -/
  | rulVerdictDelete (ring slot : Nat)
  /-- RUL_REWRITE_WRITE (R229): Writes a rewrite entry in the staged pour. -/
  | rulRewriteWrite (ring slot : Nat)
  /-- RUL_REWRITE_DELETE (R210): Deletes a rewrite entry in the staged pour. -/
  | rulRewriteDelete (ring slot : Nat)
  /-- RUL_SET_LAYOUT (R221): Sets K for a flow-key layout with no entry. -/
  | rulSetLayout (ring slot : Nat)
  /-- RUL_COUNTERS (R234): Returns and clears RUL's counters. -/
  | rulCounters (ring slot : Nat)
  /-- POUR_RETIRE (R215): An OLD pour with no holder and no older live pour retires and frees its slot. -/
  | pourRetire
  /-- LOG_SWEEP (R216): RUL sweeps a pour's log, freeing dead entries and clearing birth marks. -/
  | logSweep
  /-- COURSE_BOUNDARY (R240): A port's course list reaches the start of its next course and the gates and hold state change. -/
  | courseBoundary (p : Nat)
  /-- LIST_SWITCHED (R242): A pending gate switch reaches its instant and the named bank or OFF takes force. -/
  | listSwitched (p : Nat)
  /-- VERIFY_TIMER (R253): The preemption verify timer expires and verification retries, succeeds or fails. -/
  | verifyTimer (p : Nat) (ok : Bool)
  /-- LATENCY_SAMPLE (R260): Every INTERVAL_US TMG samples each queue's depth and sojourn into its bins. -/
  | latencySample
  /-- TMG_SET_PORT (R263): Writes a port's TMG PORT_CFG and GATE_MARGIN. -/
  | tmgSetPort (ring slot : Nat)
  /-- TMG_COURSES_LOAD (R240): Loads courses into a bank neither in force nor pending. -/
  | tmgCoursesLoad (ring slot : Nat)
  /-- TMG_GATE_SWITCH (R242): Sets a pending switch to a bank or OFF at a computed instant. -/
  | tmgGateSwitch (ring slot : Nat)
  /-- TMG_GATE_STATUS (R263): Returns a port's gate status. -/
  | tmgGateStatus (ring slot : Nat)
  /-- TMG_SET_QUEUE (R248): Writes a queue's shaper, group membership and quantum. -/
  | tmgSetQueue (ring slot : Nat)
  /-- TMG_SET_GROUP (R250): Writes a shaper group. -/
  | tmgSetGroup (ring slot : Nat)
  /-- TMG_SET_POLICER (R258): Writes a policer entry, filling its buckets and clearing its block. -/
  | tmgSetPolicer (ring slot : Nat)
  /-- TMG_POLICER_COUNTERS (R263): Returns and clears a policer entry's counters. -/
  | tmgPolicerCounters (ring slot : Nat)
  /-- TMG_SET_STREAM_GATE (R259): Loads and enables a stream gate schedule, or clears its EN. -/
  | tmgSetStreamGate (ring slot : Nat)
  /-- TMG_SET_LATENCY (R260): Writes TMG.LAT_CFG. -/
  | tmgSetLatency (ring slot : Nat)
  /-- TMG_LAT_READ (R261): Returns and clears a queue's latency bins and maxima. -/
  | tmgLatRead (ring slot : Nat)
  /-- TMG_PORT_COUNTERS (R263): Returns a port's TMG counters. -/
  | tmgPortCounters (ring slot : Nat)
  /-- PORT_CTRL_WRITE (R276): A write of PORT_CTRL starts or powers down the PHY and sets TX_EN. -/
  | portCtrlWrite (m p : Nat) (v : Word)
  /-- LINK_CHANGE (R276): A port's link comes up or goes down and ETH reports it to SWC and TMG in the same cycle. -/
  | linkChange (p : Nat) (up : Bool) (mbps addFrag : Nat) (offer : Bool × Bool)
  /-- RT_MARKER_TIMEOUT (R279): The partner does not return the retained-start marker within 2 ms and the PHY falls back to full training. -/
  | rtMarkerTimeout (p : Nat)
  /-- TC10_SLEEP_ACK (R281): The partner acknowledges the sleep request and the link goes to TC10 sleep. -/
  | tc10SleepAck (p : Nat)
  /-- TC10_SLEEP_TIMEOUT (R281): No acknowledgement within 16 ms and the link stays up with TC10_REFUSED. -/
  | tc10SleepTimeout (p : Nat)
  /-- TC10_WAKE (R281): A wake-up pulse on a sleeping link restarts the PHY. -/
  | tc10Wake (p : Nat)
  /-- TC10_WUR (R281): A wake-up request on an active link raises TC10_WUR. -/
  | tc10Wur (p : Nat)
  /-- PLCA_CYCLE (R283): The coordinator sends the beacon and uses its transmit opportunity for up to MAX_BC + 1 frames. -/
  | plcaCycle (p coll : Nat)
  /-- PODL_CFG_WRITE (R284): A write of PODL_CFG.EN starts classification or power, or turns the source off. -/
  | podlCfgWrite (m p : Nat) (v : Word)
  /-- PODL_CLASSIFIED (R284): The node's SCCP class is read and power is applied or refused. -/
  | podlClassified (p cls : Nat)
  /-- PODL_CLASS_TIMEOUT (R284): No SCCP answer within 50 ms turns the source off. -/
  | podlClassTimeout (p : Nat)
  /-- PODL_TRIP (R284): Current limited for more than 2 ms trips the source off. -/
  | podlTrip (p : Nat)
  /-- PODL_RETRY (R284): The 1,000 ms retry time ends and the source retries or latches. -/
  | podlRetry (p : Nat)
  /-- PODL_TRIPS_CLEAR (R284): 10 s without a trip set PODL_STATUS.TRIPS to 0. -/
  | podlTripsClear (p : Nat)
  /-- TXTS_POP (R287): A read of TXTS_NS pops the oldest egress timestamp and latches its SEC and TS_TAG. -/
  | txtsPop (m p : Nat)
  /-- IC_TX_DOORBELL (R294): A write of an IC transmit ring's TAIL makes ETH take frames from its slots into the switch. -/
  | icTxDoorbell (m n : Nat) (v : Word)
  /-- ETH_SET_PORT (R277): Writes a disabled port's configuration. -/
  | ethSetPort (ring slot : Nat)
  /-- ETH_PORT_ENABLE (R276): Sets a port's EN and TX_EN. -/
  | ethPortEnable (ring slot : Nat)
  /-- ETH_LINK_STATUS (R298): Returns a port's link and PoDL status. -/
  | ethLinkStatus (ring slot : Nat)
  /-- ETH_TC10 (R281): Sends a TC10 sleep request or a wake-up pulse. -/
  | ethTc10 (ring slot : Nat)
  /-- ETH_RT_SAVE (R280): Writes changed retained-training records to flash. -/
  | ethRtSave (ring slot : Nat)
  /-- ETH_RT_CLEAR (R280): Deletes a port's retained record in SRAM and flash. -/
  | ethRtClear (ring slot : Nat)
  /-- ETH_PLCA_CFG (R283): Writes a T1S port's PLCA configuration. -/
  | ethPlcaCfg (ring slot : Nat)
  /-- ETH_PODL (R284): Writes a T1S port's PoDL configuration. -/
  | ethPodl (ring slot : Nat)
  /-- ETH_SA_INSTALL (R298): Installs a MACsec SA naming a Crucible key slot. -/
  | ethSaInstall (ring slot : Nat)
  /-- ETH_SA_TX_SWITCH (R293): Switches the active transmit SA at the start of the next frame. -/
  | ethSaTxSwitch (ring slot : Nat)
  /-- ETH_SA_DELETE (R293): Deletes an SA that is not the active transmit SA. -/
  | ethSaDelete (ring slot : Nat)
  /-- ETH_SA_STATUS (R298): Returns an SA's PN and state. -/
  | ethSaStatus (ring slot : Nat)
  /-- ETH_PORT_COUNTERS (R298): Returns a port's ETH counters. -/
  | ethPortCounters (ring slot : Nat)
  /-- INTEGRATION_DONE (R308): A CAN channel sees 11 recessive bits while INTEGRATING and enters RUN. -/
  | integrationDone (ch : Nat)
  /-- CAN_FRAME_RECEIVED (R317): A CAN frame ends without error in RUN and is filtered and written to its sprue FIFO. -/
  | canFrameReceived (ch fmt id : Nat) (ide rr esi : Bool) (data : List Byte) (sdt vcid : Nat) (sec : Bool) (af ago : Nat)
  /-- CAN_TX_START (R312): With the bus idle the controller starts the pending buffer that would win arbitration. -/
  | canTxStart (sof : Nat × Bool)
  /-- CAN_TX_DONE (R310): A buffer's frame is sent without error and the buffer becomes DONE. -/
  | canTxDone (ch : Nat)
  /-- CAN_BUS_ERROR (R307): An error on the bus updates TEC and REC and ends a transmission, which is retried or abandoned. -/
  | canBusError (ch kind at_ : Nat) (alt : Bool)
  /-- BUS_OFF_EXIT (R308): The 128th occurrence of 11 recessive bits in RECOVERING returns the channel to RUN. -/
  | busOffExit (ch : Nat)
  /-- TX_SCHEDULE_TIME (R311): A WAITING buffer reaches its schedule time and becomes PENDING. -/
  | txScheduleTime (ch buf : Nat)
  /-- TX_CYCLE_OCCURRENCE (R311): A cyclic buffer reaches base + n × PERIOD and starts a new occurrence or skips it. -/
  | txCycleOccurrence (ch buf : Nat)
  /-- TXD_TIMEOUT (R321): TXD held dominant for 2 ms makes the transceiver release the bus. -/
  | txdTimeout (ch : Nat)
  /-- CAN_WAKE_DETECT (R322): A standby or sleeping CAN transceiver detects a WUP, WUF or frame-error wake. -/
  | canWakeDetect (ch what : Nat) (ide : Bool) (id : Nat) (data : Nat × List Byte)
  /-- LIN_SLOT_START (R325): A LIN schedule slot begins and its header is sent, with a pending switch or stop taking effect. -/
  | linSlotStart (m : Nat)
  /-- LIN_SLOT_END (R327): A LIN slot's response ends or times out and the subscribed record is delivered. -/
  | linSlotEnd (m : Nat) (data : List Byte) (chk : Option Nat) (framing bitErr : Bool)
  /-- LIN_WAKE_DETECT (R328): A sleeping LIN channel detects a dominant pulse longer than 150 µs. -/
  | linWakeDetect (m : Nat)
  /-- LIN_WAKE_DONE (R328): 100 ms after its wake pulse the channel replies to CLN_LIN_POWER WAKE. -/
  | linWakeDone (m : Nat)
  /-- CLN_CAN_CONFIG (R302): Writes a channel's control word and bit timings while MODE is OFF. -/
  | clnCanConfig (ring slot : Nat)
  /-- CLN_CAN_MODE (R308): Sets a CAN channel's MODE and transceiver state. -/
  | clnCanMode (ring slot : Nat)
  /-- CLN_CAN_TX_LOAD (R310): Loads a software transmit buffer. -/
  | clnCanTxLoad (ring slot : Nat)
  /-- CLN_CAN_TX_ABORT (R314): Aborts a transmit buffer, waiting for a frame on the bus to end. -/
  | clnCanTxAbort (ring slot : Nat)
  /-- CLN_CAN_TX_STATUS (R329): Returns a transmit buffer's state. -/
  | clnCanTxStatus (ring slot : Nat)
  /-- CLN_CAN_FILTER (R317): Writes a receive filter. -/
  | clnCanFilter (ring slot : Nat)
  /-- CLN_CAN_RECOVER (R308): Starts bus-off recovery with BOFF_AUTO = 0. -/
  | clnCanRecover (ring slot : Nat)
  /-- CLN_CAN_WAKE_CFG (R322): Sets a CAN channel's wake configuration. -/
  | clnCanWakeCfg (ring slot : Nat)
  /-- CLN_CAN_COUNTERS (R329): Returns a CAN channel's counters. -/
  | clnCanCounters (ring slot : Nat)
  /-- CLN_LIN_CONFIG (R323): Writes a disabled LIN channel's configuration. -/
  | clnLinConfig (ring slot : Nat)
  /-- CLN_LIN_SCHED_LOAD (R324): Loads LIN schedule entries outside the running range. -/
  | clnLinSchedLoad (ring slot : Nat)
  /-- CLN_LIN_RUN (R325): Runs or stops a range of LIN schedule entries from a switch instant. -/
  | clnLinRun (ring slot : Nat)
  /-- CLN_LIN_DATA (R326): Writes a LIN publish buffer and marks it updated. -/
  | clnLinData (ring slot : Nat)
  /-- CLN_LIN_POWER (R328): Puts a LIN cluster to sleep or wakes it. -/
  | clnLinPower (ring slot : Nat)
  /-- CLN_LIN_COUNTERS (R329): Returns a LIN channel's counters. -/
  | clnLinCounters (ring slot : Nat)
  /-- SPRUE_RECORD (R334): GWY takes a whole record from a sprue FIFO, looks up its route and handles the message. -/
  | sprueRecord (n : Nat) (par : Bool)
  /-- AUTH_RESULT (R342): A route's CMAC job completes and the message is verified, generated or dropped. -/
  | authResult (unit : Nat)
  /-- RELEASE_TIME (R352): A held copy reaches its release time and is handed on. -/
  | releaseTime
  /-- GW_BUFFER_LOAD (R348): GWY loads a free gateway buffer with the queued copy that would win arbitration. -/
  | gwBufferLoad (ch : Nat)
  /-- BUNDLE_TIMEOUT (R356): A tunnel bundle reaches TIMEOUT_US and is sent through IG. -/
  | bundleTimeout (t : Nat)
  /-- TUNNEL_FRAME_IN (R357): An inbound tunnel frame from IG is checked and its ACF messages taken in order. -/
  | tunnelFrameIn
  /-- INJECT_DOORBELL (R360): A write of I_TAIL makes GWY read injection slots as messages. -/
  | injectDoorbell (m n : Nat) (v : Word)
  /-- HOSTQ_CFG_WRITE (R360): A write of a host queue's CFG.EN = 1 takes effect only with a valid configuration. -/
  | hostqCfgWrite (m n : Nat) (v : Word)
  /-- GWY_ROUTE_WRITE (R338): Writes or replaces a route. -/
  | gwyRouteWrite (ring slot : Nat)
  /-- GWY_ROUTE_DELETE (R362): Deletes a route. -/
  | gwyRouteDelete (ring slot : Nat)
  /-- GWY_ROUTE_READ (R362): Returns a route and its freshness value. -/
  | gwyRouteRead (ring slot : Nat)
  /-- GWY_SET_SOURCE (R337): Sets a source's default route key. -/
  | gwySetSource (ring slot : Nat)
  /-- GWY_TUNNEL_CFG (R353): Configures a disabled tunnel or clears EN, sending the open bundle. -/
  | gwyTunnelCfg (ring slot : Nat)
  /-- GWY_AUTH_PROFILE (R340): Writes an authentication profile. -/
  | gwyAuthProfile (ring slot : Nat)
  /-- GWY_FRESH_SET (R343): Sets a route's freshness value. -/
  | gwyFreshSet (ring slot : Nat)
  /-- GWY_COUNTERS (R362): Returns and clears GWY's counters. -/
  | gwyCounters (ring slot : Nat)
  /-- NM_PDU_RECEIVED (R509): An NM engine takes a received PDU from its channel or IG and acts on it. -/
  | nmPduReceived (e : Nat)
  /-- NM_REPEAT_TIMEOUT (R512): T_REPEAT expires and the engine goes to NORMAL_OPERATION or READY_SLEEP. -/
  | nmRepeatTimeout (e : Nat)
  /-- NM_TIMEOUT (R512): T_NM expires, restarting in NORMAL_OPERATION or entering PREPARE_BUS_SLEEP. -/
  | nmTimeout (e : Nat)
  /-- NM_WAIT_TIMEOUT (R512): T_WAIT expires and the engine enters BUS_SLEEP. -/
  | nmWaitTimeout (e : Nat)
  /-- NM_MSG_TIMER (R512): T_MSG expires and an active engine sends its PDU. -/
  | nmMsgTimer (e : Nat)
  /-- NM_CFG_WRITE (R512): A write of NM_CFG.EN enables the engine into BUS_SLEEP or clears it to OFF. -/
  | nmCfgWrite (m e : Nat) (v : Word)
  /-- GWY_NM_CFG (R519): Configures a disabled NM engine or clears its EN. -/
  | gwyNmCfg (ring slot : Nat)
  /-- GWY_NM_REQUEST (R512): Requests, releases or repeats on an NM engine. -/
  | gwyNmRequest (ring slot : Nat)
  /-- GWY_NM_STATUS (R519): Returns an NM engine's status and counts. -/
  | gwyNmStatus (ring slot : Nat)
  /-- GWY_NM_UDATA (R519): Sets the user data of later PDUs. -/
  | gwyNmUdata (ring slot : Nat)
  /-- QRY_POOL_CFG (R365): Configures and enables or disables a pool. -/
  | qryPoolCfg (ring slot : Nat)
  /-- QRY_REQ_CFG (R368): Sets a requester's quotas. -/
  | qryReqCfg (ring slot : Nat)
  /-- QRY_ALLOC (R369): Allocates a block for a requester. -/
  | qryAlloc (ring slot : Nat)
  /-- QRY_FREE (R372): Frees a block after checking it. -/
  | qryFree (ring slot : Nat)
  /-- QRY_STATUS (R384): Returns pool free counts and clears QRY counters. -/
  | qryStatus (ring slot : Nat)
  /-- SPR_CFG (R602): Configures a software sprue FIFO or clears its EN, emptying it. -/
  | sprCfg (ring slot : Nat)
  /-- POOL_CFG_WRITE (R366): A write of POOL_CFG.EN enables a pool or is refused while blocks are allocated. -/
  | poolCfgWrite (m p : Nat) (v : Word)
  /-- ALLOC_READ (R369): A read of ALLOC_LO allocates a block and returns its address. -/
  | allocRead (m r : Nat)
  /-- FREE_COMMIT (R372): A write of FREE_HI commits a free. -/
  | freeCommit (m r : Nat) (v : Word)
  /-- SCRUB_DONE (R371): A freed block of a ZERO pool finishes zeroing and becomes FREE. -/
  | scrubDone (p k : Nat)
  /-- QRY_ERR_POP (R373): A read of QRY.ERR_POP_LO pops the oldest error log entry. -/
  | qryErrPop (m : Nat)
  /-- SPRUE_PUSH_DATA (R381): PUSH_CMD OP DATA pushes a word into a software FIFO, or overflows. -/
  | spruePushData (m n : Nat)
  /-- SPRUE_PUSH_END (R381): PUSH_CMD OP END pushes the last word of a packet. -/
  | spruePushEnd (m n : Nat)
  /-- SPRUE_PUSH_POISON (R381): PUSH_CMD OP POISON closes the packet with a POISON word. -/
  | spruePushPoison (m n : Nat)
  /-- SPRUE_REWIND (R379): PUSH_CMD OP REWIND removes the open packet's words or replaces them with POISON. -/
  | sprueRewind (m n : Nat)
  /-- SPRUE_POP (R382): A read of POP_LO by the consumer takes the word in stage 0. -/
  | spruePop (m n : Nat) (bad : Bool)
  /-- SPRUE_DROP_REST (R380): A write of CONS_CTRL.DROP_REST discards the rest of the packet being taken. -/
  | sprueDropRest (m n : Nat)
  /-- CRU_KEY_LOAD (R392): Loads a clear key into an empty slot. -/
  | cruKeyLoad (ring slot : Nat)
  /-- CRU_KEY_UNWRAP (R392): Unwraps a blob into an empty slot. -/
  | cruKeyUnwrap (ring slot : Nat)
  /-- CRU_KEY_WRAP (R393): Returns the blob of an exportable slot. -/
  | cruKeyWrap (ring slot : Nat)
  /-- CRU_KEY_ERASE (R394): Erases a key slot. -/
  | cruKeyErase (ring slot : Nat)
  /-- CRU_KEY_STATUS (R413): Returns a slot's attributes and use counts. -/
  | cruKeyStatus (ring slot : Nat)
  /-- CRU_ERASE_ALL (R410): Erases every user key slot and core state. -/
  | cruEraseAll (ring slot : Nat)
  /-- CRU_COUNTERS (R413): Returns and clears Crucible's counters. -/
  | cruCounters (ring slot : Nat)
  /-- JOB_RING_CTRL_WRITE (R397): A write of a Crucible ring's CFG.EN enables or disables it as a command ring would be. -/
  | jobRingCtrlWrite (m n : Nat) (v : Word)
  /-- JOB_DOORBELL (R396): A write of a Crucible ring's J_TAIL makes new jobs available. -/
  | jobDoorbell (m n : Nat) (v : Word)
  /-- JOB_START (R399): A core takes a ring's next job, checks it and counts a key use. -/
  | jobStart (core : Nat)
  /-- JOB_COMPLETE (R400): A job finishes; its completion record is written and the event delivered. -/
  | jobComplete (ring : Nat)
  /-- CRU_ALARM (R409): An alarm source whose erasure is enabled fires at Crucible. -/
  | cruAlarm (src : Nat)
  /-- LOCKSTEP_MISMATCH (R428): The comparator finds Cope's and Drag's outputs differ and the domain faults. -/
  | lockstepMismatch (d iface : Nat) (pc : Word)
  /-- FAULT_RESET_TIMEOUT (R428): 50 µs after a fault with FAULT_ACTION RESET the domain leaves reset in HELD. -/
  | faultResetTimeout (d : Nat)
  /-- SYNC_CHECK_PERIODIC (R429): Every SYNC_MS the two copies hash their state and compare. -/
  | syncCheckPeriodic (d : Nat) (cope drag : List Word)
  /-- ACTIVATION (R434): An activation timer reaches its instant and sets its D_IRQ_PEND bit. -/
  | activation (d k : Nat)
  /-- DEBUG_HALT (R431): The debug module halts a domain, which enters DEBUG. -/
  | debugHalt (d : Nat)
  /-- DEBUG_RESUME (R431): The debug module resumes a domain, which enters HELD after a SYNC_CHECK. -/
  | debugResume (d : Nat) (cope drag : List Word)
  /-- LSC_STATUS (R439): Returns a domain's status, fault cause, fault pc and hash. -/
  | lscStatus (ring slot : Nat)
  /-- LSC_SET_CFG (R439): Writes a domain's D_CFG and split pc. -/
  | lscSetCfg (ring slot : Nat)
  /-- LSC_RELEASE (R431): Moves a HELD domain to RUN after a passing SYNC_CHECK. -/
  | lscRelease (ring slot : Nat) (cope drag : List Word)
  /-- LSC_SYNC_CHECK (R429): Runs a SYNC_CHECK on demand and returns the hash. -/
  | lscSyncCheck (ring slot : Nat) (cope drag : List Word)
  /-- LSC_SPLIT (R436): Splits a domain so Drag runs as an independent core. -/
  | lscSplit (ring : Nat) (slot : Nat × Option (Nat × Word))
  /-- LSC_JOIN (R437): Rejoins a split domain by copying Cope's state into Drag. -/
  | lscJoin (ring slot : Nat) (cope drag : List Word)
  /-- LSC_RESTART (R431): Resets a domain and replies on entry to HELD. -/
  | lscRestart (ring slot : Nat)
  /-- LSC_INJECT (R439): Inverts a bit of Drag's next compared output to drive a fault. -/
  | lscInject (ring slot : Nat)
  /-- LSC_ACT_CFG (R434): Configures an activation timer or clears its EN. -/
  | lscActCfg (ring slot : Nat)
  /-- O_SEND (R443): A write of O_SEND sends, queues or discards an output message by port state. -/
  | oSend (m d : Nat) (v : Word)
  /-- O_CTRL_GO (R444): A write of O_CTRL.GO in ALIGNING makes the port LIVE. -/
  | oCtrlGo (m d : Nat)
  /-- O_CTRL_REJOIN (R444): A write of O_CTRL.REJOIN in ISOLATED with the mirror present returns the port to ALIGNING. -/
  | oCtrlRejoin (m d : Nat)
  /-- STATUS_FRAME_SEND (R446): Every 10 µs a port sends a status frame on its output link and the mirror link. -/
  | statusFrameSend (d : Nat) (bad : Bool)
  /-- MIRROR_LOST (R447): A port receives no valid mirror frame for 50 µs with the peer line deasserted. -/
  | mirrorLost (d : Nat)
  /-- COPY_ARRIVAL (R449): A frame's CRC word arrives at ORD and the copy enters its skew stage or is discarded. -/
  | copyArrival (l : Nat) (bad : Bool)
  /-- COPY_JUDGE (R451): An eligible copy is judged and accepted, counted as duplicate or stale, or discarded. -/
  | copyJudge (l entry : Nat)
  /-- CAN_RECORD_WRITE (R464): ORD writes a held safety CAN record into sprue FIFO 24 when it has room. -/
  | canRecordWrite
  /-- FAULT_LINE_CHANGE (R448): ORD acts on a fault line change, updating admission, charge and hold-off. -/
  | faultLineChange (d : Nat) (wireOpen : Bool)
  /-- ORD_LINK_TIMEOUT (R449): A link has no valid status frame for 30 µs and goes down. -/
  | ordLinkTimeout (l : Nat)
  /-- HOLDOFF_EXPIRY (R456): The hold-off of HOLDOFF_MS elapses and link A is admitted. -/
  | holdoffExpiry
  /-- SWAP_TEST_END (R463): A swap test reaches DURATION_MS and A is first again. -/
  | swapTestEnd
  /-- ORD_SET_CFG (R466): Writes ORD.CFG. -/
  | ordSetCfg (ring slot : Nat)
  /-- ORD_STATUS (R466): Returns ORD status, hold-off remaining and swap information. -/
  | ordStatus (ring slot : Nat)
  /-- ORD_SWAP_TEST (R463): Starts a swap test making link B first. -/
  | ordSwapTest (ring slot : Nat)
  /-- ORD_SWAP_CANCEL (R463): Ends a running swap test. -/
  | ordSwapCancel (ring slot : Nat)
  /-- ORD_COUNTERS (R466): Returns and clears ORD's counters. -/
  | ordCounters (ring slot : Nat)
  /-- CHANNEL_SET (R476): An ORD-passed SET command sets a channel's target OFF, ON or PWM. -/
  | channelSet
  /-- CHANNEL_MASK (R474): An ORD-passed MASK command sets the target MODE of every masked channel. -/
  | channelMask
  /-- CHANNEL_CLEAR (R488): An ORD-passed CLEAR returns a LATCHED channel to READY. -/
  | channelClear
  /-- HOLD_EXPIRY (R493): The HOLD window expires and HOLD and UNCOMMANDED channels take their fail-safe targets. -/
  | holdExpiry
  /-- ARM_WRITE (R492): A write of LCH.CTRL.ARM starts the HOLD window while CHARGE is NONE. -/
  | armWrite (m : Nat) (v : Word)
  /-- PWM_PERIOD_START (R480): At each timebase period start LCH computes the compensated duty. -/
  | pwmPeriodStart (t v1 v2 : Nat)
  /-- PWM_EDGE (R478): A PWM on-interval starts or ends at its network time. -/
  | pwmEdge (c : Nat) (start : Bool)
  /-- INRUSH_END (R483): INRUSH_MS elapses and the channel's limit changes to ILIM_RUN. -/
  | inrushEnd (c : Nat)
  /-- SHORT_DETECT (R484): A short criterion is met and the channel stops and latches. -/
  | shortDetect (hit : Nat × Bool)
  /-- OC_WARN (R485): Current above OC_WARN for 100 µs sets the warning flag. -/
  | ocWarn (c : Nat)
  /-- THERMAL_TRIP (R486): A conducting channel reaches its ΔT or absolute limit and trips. -/
  | thermalTrip (c dT : Nat) (hot : Bool)
  /-- THERMAL_READY (R486): A tripped channel cools enough to restart and returns to READY. -/
  | thermalReady (c dT : Nat)
  /-- RESTARTS_CLEAR (R486): 60 s in READY without a trip sets RESTARTS to 0. -/
  | restartsClear (c : Nat)
  /-- RAIL_UNDERVOLTAGE (R487): A rail below 5.5 V for 5 µs stops every channel on it. -/
  | railUndervoltage (r mv : Nat)
  /-- RAIL_RECOVERY (R487): A rail at or above 6.0 V for 100 µs returns its channels to their previous states. -/
  | railRecovery (r mv : Nat)
  /-- OPEN_LOAD_ON (R489): Low current in the on state for 10 ms or 8 PWM samples sets OL_ON. -/
  | openLoadOn (c : Nat) (low : Bool)
  /-- OPEN_LOAD_OFF (R489): An off output above 4.0 V for 1 ms under pull-up sets OL_OFF. -/
  | openLoadOff (c : Nat) (high : Bool)
  /-- LCH_CHAN_CFG (R495): Configures a channel whose target is OFF. -/
  | lchChanCfg (ring slot : Nat)
  /-- LCH_PROFILE (R481): Writes a user load profile slot. -/
  | lchProfile (ring slot : Nat)
  /-- LCH_TIMEBASE (R477): Sets a PWM timebase no channel uses. -/
  | lchTimebase (ring slot : Nat)
  /-- LCH_SET_HOLD (R492): Sets HOLD_MS. -/
  | lchSetHold (ring slot : Nat)
  /-- LCH_CHAN_STATUS (R495): Returns a channel's state, flags and target. -/
  | lchChanStatus (ring slot : Nat)
  /-- LCH_COUNTERS (R495): Returns and clears channel or block counters. -/
  | lchCounters (ring slot : Nat)
  /-- WAKE_SOURCE_FIRE (R503): A wake source fires, starting power-up while OFF, latching during power-off, or logging while ON. -/
  | wakeSourceFire (src sub levels : Nat)
  /-- VALIDATION_END (R506): The validation window ends with no valid source, making a false wake. -/
  | validationEnd
  /-- AUTO_SLEEP_BEGIN (R513): With AUTO_SLEEP the sleep conditions hold and power-off begins. -/
  | autoSleepBegin
  /-- POWER_OFF_DONE (R514): Mason signals done and the power die stops channels, PoDL and transceivers. -/
  | powerOffDone
  /-- POWER_OFF_COMPLETE (R514): 1 ms after done the regulators turn off and the module is OFF. -/
  | powerOffComplete
  /-- BROWN_OUT (R516): VBAT_L below 5.2 V for 20 µs takes the module OFF at once. -/
  | brownOut
  /-- KEYSTONE_POR (R543): VBAT_L below Keystone's power-on threshold resets the whole module. -/
  | keystonePor
  /-- RAILS_GOOD (R517): The rails become good and the logic-die reset is released, starting Ladle. -/
  | railsGood
  /-- MODULE_RESET_RELEASE (R544): The 10 µs MODULE reset ends and Ladle runs. -/
  | moduleResetRelease
  /-- LADLE_POUR_COMPLETE (R552): Ladle's pour completes and the held writes, enables and releases take effect together. -/
  | ladlePourComplete
  /-- LATE_LOAD (R553): Mason loads the LATE sections and acts on CLUSTER_START, or raises LATE_FAIL. -/
  | lateLoad
  /-- RECOVERY_TIMEOUT (R554): In recovery, no debug connection within 60 s begins power-off. -/
  | recoveryTimeout
  /-- KEY_STATUS (R518): Returns Keystone status, causes, lockouts and KSEC. -/
  | keyStatus (ring slot : Nat)
  /-- KEY_SET_CFG (R518): Writes Keystone configuration, source enables, wake configuration and timer. -/
  | keySetCfg (ring slot : Nat)
  /-- KEY_SLEEP (R513): Begins power-off when the sleep conditions hold or FORCE = 1. -/
  | keySleep (ring slot : Nat)
  /-- KEY_WAKE_VALID (R505): Makes every source in CAUSE_SET valid. -/
  | keyWakeValid (ring slot : Nat)
  /-- KEY_UNLOCK (R507): Clears the lockouts of the named sources. -/
  | keyUnlock (ring slot : Nat)
  /-- KEY_LOG_READ (R518): Returns the wake log. -/
  | keyLogRead (ring slot : Nat)
  /-- KEY_COUNTERS (R518): Returns and clears Keystone counters. -/
  | keyCounters (ring slot : Nat)
  /-- INBOUND_REQUEST (R526): An inbound TLP at a function's aperture is translated, checked and passed to the fabric. -/
  | inboundRequest (f space off : Nat) (wr : Bool) (data : List Byte) (len tag : Nat) (poison : Bool)
  /-- OUTBOUND_WRITE (R531): An internal write in an outbound region is sent with a flushing read. -/
  | outboundWrite (m addr : Nat) (data : List Byte)
  /-- OUTBOUND_READ (R530): An internal read in an outbound region is sent as a PCIe read. -/
  | outboundRead (m addr len : Nat)
  /-- COMPLETION_ARRIVAL (R531): A PCIe completion arrives and the initiator gets its response. -/
  | completionArrival (tag status : Nat) (data : List Byte)
  /-- COMPLETION_TIMEOUT (R532): No completion within CPL_TIMEOUT_US and the initiator gets an error response. -/
  | completionTimeout (tag : Nat)
  /-- MSIX_SEND (R535): An event's MSI-X message is sent once its data and earlier writes are visible. -/
  | msixSend
  /-- SIDEBAND_WRITE (R536): The bridge writes a group's PEND and SEQ to host memory. -/
  | sidebandWrite (f g : Nat)
  /-- SIDEBAND_POLL (R536): Every POLL_US the bridge reads ACK and clears acknowledged bits. -/
  | sidebandPoll (f g : Nat)
  /-- GRP_MODE_WRITE (R534): A write of GRP_MODE delivers pending bits under the new mode. -/
  | grpModeWrite (f : Nat) (v : Word)
  /-- PCIE_LINK_UP (R537): The PCIe link comes up. -/
  | pcieLinkUp (speed width : Nat)
  /-- PCIE_LINK_RESET (R537): PERST#, hot reset or link down resets every function. -/
  | pcieLinkReset
  /-- FUNCTION_LEVEL_RESET (R538): An FLR resets a function and disables the rings and queues it owns. -/
  | functionLevelReset (f : Nat)
  /-- HBR_ERR_POP (R373): A read of HBR.ERR_POP_LO pops the oldest bridge log entry. -/
  | hbrErrPop (m : Nat)
  /-- HBR_SET_REGION (R530): Configures an outbound region or clears its EN. -/
  | hbrSetRegion (ring slot : Nat)
  /-- HBR_LINK_STATUS (R540): Returns HBR.INFO and HBR.CFG. -/
  | hbrLinkStatus (ring slot : Nat)
  /-- HBR_FN_STATUS (R540): Returns a function's group modes and pending events. -/
  | hbrFnStatus (ring slot : Nat)
  /-- HBR_LOG_READ (R540): Pops and returns the bridge log entries. -/
  | hbrLogRead (ring slot : Nat)
  /-- HBR_COUNTERS (R540): Returns and clears the bridge counters. -/
  | hbrCounters (ring slot : Nat)
  /-- HBR_SET_CFG (R540): Writes HBR.CFG. -/
  | hbrSetCfg (ring slot : Nat)
  /-- SYS_RESET (R545): Starts a MODULE reset, or resets one block with optional reload. -/
  | sysReset (ring slot : Nat)
  /-- SYS_FLASH_READ (R562): Reads bytes of a flash area. -/
  | sysFlashRead (ring slot : Nat)
  /-- SYS_FLASH_ERASE (R547): Erases 64 KiB blocks of a writable flash area. -/
  | sysFlashErase (ring slot : Nat)
  /-- SYS_FLASH_WRITE (R547): Writes and verifies bytes of a writable flash area. -/
  | sysFlashWrite (ring slot : Nat)
  /-- SYS_IMAGE_CHECK (R550): Checks an image slot without applying it. -/
  | sysImageCheck (ring slot : Nat)
  /-- SYS_ERR_POP (R31): A read of SYS.ERR_POP_LO pops the oldest bus error entry. -/
  | sysErrPop (m : Nat)
  /-- HLT_STATUS (R562): Returns alarms, margin, guard band and ratios. -/
  | hltStatus (ring slot : Nat)
  /-- HLT_SET_CFG (R555): Writes HLT.CFG and configurable alarm reactions. -/
  | hltSetCfg (ring slot : Nat)
  /-- HLT_ECC_READ (R557): Returns and clears ECC counts and the first UE address. -/
  | hltEccRead (ring slot : Nat)
  /-- HLT_LIFE_READ (R563): Returns the life report. -/
  | hltLifeRead (ring slot : Nat)
  /-- HLT_LIFE_SAVE (R561): Saves the life record to flash. -/
  | hltLifeSave (ring slot : Nat)
  /-- ALARM_RAISE (R556): An alarm condition occurs and HLT applies the strongest reaction. -/
  | alarmRaise (set : Nat)
  /-- DEBUG_ATTACH (R580): TRST_N rises and the debug port connects. -/
  | debugAttach
  /-- ECC_ERROR (R557): An ECC error is corrected and counted, or returns an error response and raises ECC_UE. -/
  | eccError (mem : Nat) (ue : Bool) (at_ : Nat × Option Nat)
  /-- PATROL_SCRUB (R557): HLT scrubs memories every SCRUB_S seconds and DRAM every 24 h. -/
  | patrolScrub
  /-- HEALTH_MEASURE (R558): Every ON second HLT takes margin, voltage, temperature, ratio and stress measurements. -/
  | healthMeasure (margin vdd : Nat) (temp : Int) (ratios : List (Nat × Nat)) (rth : Nat) (swing : Bool)
  /-- HOURLY_EVALUATION (R559): Every ON hour HLT re-plans GUARD_MV and the channel derating and saves the life record. -/
  | hourlyEvaluation
  /-- GPTP_SYNC_SEND (R116): On each MASTER port of an enabled domain Mason sends a two-step Sync every logSyncInterval, and Pdelay every logPdelayReqInterval. -/
  | gptpSyncSend (domain port : Nat) (pdelay : Bool)
  /-- RT_MARKER_RECEIVED (R279): The partner returns the retained-start marker and the PHY probes the channel against the signature, loading coefficients or falling back at step 3. -/
  | rtMarkerReceived (p : Nat) (agrees : Bool)
  /-- RETAINED_START_LIMIT (R279): The link is not up by the retained limit of R278 and the attempt falls back to full training at step 4. -/
  | retainedStartLimit (p : Nat)
  /-- TC10_SLEEP_REFUSED (R281): The partner refuses a TC10 low-power-sleep request, the link stays up and TC10_REFUSED is raised. -/
  | tc10SleepRefused (p : Nat)
  /-- LATCHED_WAKE_POWER_UP (R515): 1 ms after power-off completes with a wake latched, Keystone starts the power-up. -/
  | latchedWakePowerUp
  /-- WAKE_SUPPLY_GOOD (R574): A wake held while VBAT_L was below 6.0 V starts power-up once VBAT_L has stayed at or above 6.0 V for 1 ms. -/
  | wakeSupplyGood
  /-- WAKE_IGNORE_EXPIRY (R556): 10 s after an OFF reaction Keystone stops ignoring wake sources other than POWER_ON and KL15. -/
  | wakeIgnoreExpiry
  /-- DEBUG_DETACH (R580): TRST_N falls and the debug port counts as no longer connected. -/
  | debugDetach
  /-- PCIE_CONFIG_WRITE (R523): A host configuration write sets VF Enable, NumVFs, Bus Master Enable or a D-state, creating or removing VFs and enabling or disabling a function's BARs and mastering. -/
  | pcieConfigWrite (f : Nat) (w : Nat × Word)
  deriving DecidableEq, Repr

end Sys2Proof
end

