-- ==== Sys2Proof/WellFormed.lean ====
section
/-! DEFINITION. Which commands name an object the part can have: each operand that is a number of something lies below
the count of such things. A command of any other form changes nothing or is refused by its own meaning. -/

namespace Sys2Proof

/-- A command ring, IC transmit ring or Quarry requester. -/
def ringOk (n : Nat) : Bool := decide (n < 32)

/-- A slot of a ring. -/
def slotOk (n : Nat) : Bool := decide (n < 4096)

/-- A master ID. -/
def masterOk (n : Nat) : Bool := decide (n < 128)

/-- A port. -/
def portOk (n : Nat) : Bool := decide (n < 21)

/-- A CAN channel. -/
def canOk (n : Nat) : Bool := decide (n < 16)

/-- A LIN channel. -/
def linOk (n : Nat) : Bool := decide (n < 8)

/-- An NM engine. -/
def nmOk (n : Nat) : Bool := decide (n < 20)

/-- One of two: a safety domain, an output link, a gPTP domain or a power rail. -/
def domOk (n : Nat) : Bool := decide (n < 2)

/-- A PCIe function. -/
def fnOk (n : Nat) : Bool := decide (n < 8)

/-- A host queue or job ring. -/
def queueOk (n : Nat) : Bool := decide (n < 16)

/-- A sprue FIFO. -/
def fifoOk (n : Nat) : Bool := decide (n < 48)

/-- One of eight: a pool, pulse output, activation timer, timebase or memory of the ECC counters. -/
def octetOk (n : Nat) : Bool := decide (n < 8)

/-- One of four: a capture input or event group. -/
def quadOk (n : Nat) : Bool := decide (n < 4)

/-- One of Crucible's alarm sources. -/
def crAlarmOk (n : Nat) : Bool := decide (n < 5)

/-- A wake source. -/
def wakeOk (n : Nat) : Bool := decide (n < 50)

/-- A load channel. -/
def chanOk (n : Nat) : Bool := decide (n < 40)

/-- A parse context. -/
def ctxOk (n : Nat) : Bool := decide (n < 64)

/-- The words of two copies of a safety domain: R430 names 98 of each. -/
def copiesOk (cope drag : List Word) : Bool := cope.length == 98 && drag.length == 98

/-- Every operand of a command lies in its range. -/
def Instr.wellFormed : Instr → Bool
  | .registerWrite m _ _ => masterOk m
  | .sysFenceRead m _ => masterOk m
  | .fenceTimeout m _ => masterOk m
  | .ringDoorbell m n _ => masterOk m && ringOk n
  | .ringEnable m n => masterOk m && ringOk n
  | .ringDisable m n => masterOk m && ringOk n
  | .ringReset m n => masterOk m && ringOk n
  | .cmdTimeoutWrite m _ => masterOk m
  | .commandFetch => true
  | .commandTimeout ring slot => ringOk ring && slotOk slot
  | .commandReply => true
  | .completionEventTimer n => ringOk n
  | .nop ring slot => ringOk ring && slotOk slot
  | .fence ring slot => ringOk ring && slotOk slot
  | .echo ring slot => ringOk ring && slotOk slot
  | .getVariant ring slot => ringOk ring && slotOk slot
  | .ncpCommandFrame => true
  | .ncpCtrlWrite m _ => masterOk m
  | .aclSetEntry ring slot => ringOk ring && slotOk slot
  | .aclGetEntry ring slot => ringOk ring && slotOk slot
  | .aclLock ring slot => ringOk ring && slotOk slot
  | .aclSetWindow ring slot => ringOk ring && slotOk slot
  | .aclGetWindow ring slot => ringOk ring && slotOk slot
  | .aclWindowWrite m _ _ => masterOk m
  | .aclLockWrite m _ => masterOk m
  | .timeNsRead m => masterOk m
  | .incrCommit m _ => masterOk m
  | .stepCommit m _ => masterOk m
  | .timGetTime ring slot => ringOk ring && slotOk slot
  | .timStep ring slot => ringOk ring && slotOk slot
  | .timSetIncr ring slot => ringOk ring && slotOk slot
  | .timSetServo ring slot => ringOk ring && slotOk slot
  | .timGptpCfg ring slot => ringOk ring && slotOk slot
  | .timPulseCfg ring slot => ringOk ring && slotOk slot
  | .timCaptureCfg ring slot => ringOk ring && slotOk slot
  | .syncAccepted domain _ => domOk domain
  | .syncReceiptTimeout => true
  | .gmChange => true
  | .tpoEnableWrite m k _ => masterOk m && octetOk k
  | .tpoEdge k => octetOk k
  | .tciCapture k _ => quadOk k
  | .tciPop m k => masterOk m && quadOk k
  | .frameReceive p _ _ => portOk p
  | .frameTake c _ => ctxOk c
  | .addG c => ctxOk c
  | .subG c => ctxOk c
  | .andG c => ctxOk c
  | .orG c => ctxOk c
  | .xorG c => ctxOk c
  | .shlG c => ctxOk c
  | .shrG c => ctxOk c
  | .movi c => ctxOk c
  | .movhi c => ctxOk c
  | .extG c => ctxOk c
  | .cmpG c => ctxOk c
  | .ldG c => ctxOk c
  | .adv c => ctxOk c
  | .ldm c => ctxOk c
  | .stm c => ctxOk c
  | .putk c => ctxOk c
  | .lkf c => ctxOk c
  | .lka c => ctxOk c
  | .scan c => ctxOk c
  | .vload c => ctxOk c
  | .vset c => ctxOk c
  | .cnt c => ctxOk c
  | .doneG c => ctxOk c
  | .brG c => ctxOk c
  | .lookupResult c => ctxOk c
  | .scanResult c _ => ctxOk c
  | .watchdogStop c => ctxOk c
  | .expressOver c => ctxOk c
  | .prsProgLoad ring slot => ringOk ring && slotOk slot
  | .prsProgActivate ring slot => ringOk ring && slotOk slot
  | .prsProgRead ring slot => ringOk ring && slotOk slot
  | .prsSetCfg ring slot => ringOk ring && slotOk slot
  | .prsCounters ring slot => ringOk ring && slotOk slot
  | .verdictAct => true
  | .laneRelease p _ => portOk p
  | .reseqTimeout p _ => portOk p
  | .frerReset _ => true
  | .transmitSelect p _ => portOk p
  | .copyTransmitted p _ _ => portOk p
  | .linkdownFlushWrite m p _ => masterOk m && portOk p
  | .swcSetShared ring slot => ringOk ring && slotOk slot
  | .swcSetQueue ring slot => ringOk ring && slotOk slot
  | .swcFlushQueue ring slot => ringOk ring && slotOk slot
  | .swcSetPort ring slot => ringOk ring && slotOk slot
  | .swcFdbWrite ring slot => ringOk ring && slotOk slot
  | .swcFdbDelete ring slot => ringOk ring && slotOk slot
  | .swcFdbRead ring slot => ringOk ring && slotOk slot
  | .swcVlanWrite ring slot => ringOk ring && slotOk slot
  | .swcFrerWrite ring slot => ringOk ring && slotOk slot
  | .swcFrerCounters ring slot => ringOk ring && slotOk slot
  | .swcPortCounters ring slot => ringOk ring && slotOk slot
  | .rulPourOpen ring slot => ringOk ring && slotOk slot
  | .rulPourCommit ring slot => ringOk ring && slotOk slot
  | .rulPourAbandon ring slot => ringOk ring && slotOk slot
  | .rulPourStatus ring slot => ringOk ring && slotOk slot
  | .rulFlowAdd ring slot => ringOk ring && slotOk slot
  | .rulFlowDelete ring slot => ringOk ring && slotOk slot
  | .rulFlowRead ring slot => ringOk ring && slotOk slot
  | .rulAclWrite ring slot => ringOk ring && slotOk slot
  | .rulAclDelete ring slot => ringOk ring && slotOk slot
  | .rulPatternWrite ring slot => ringOk ring && slotOk slot
  | .rulPatternDelete ring slot => ringOk ring && slotOk slot
  | .rulVerdictWrite ring slot => ringOk ring && slotOk slot
  | .rulVerdictDelete ring slot => ringOk ring && slotOk slot
  | .rulRewriteWrite ring slot => ringOk ring && slotOk slot
  | .rulRewriteDelete ring slot => ringOk ring && slotOk slot
  | .rulSetLayout ring slot => ringOk ring && slotOk slot
  | .rulCounters ring slot => ringOk ring && slotOk slot
  | .pourRetire => true
  | .logSweep => true
  | .courseBoundary p => portOk p
  | .listSwitched p => portOk p
  | .verifyTimer p _ => portOk p
  | .latencySample => true
  | .tmgSetPort ring slot => ringOk ring && slotOk slot
  | .tmgCoursesLoad ring slot => ringOk ring && slotOk slot
  | .tmgGateSwitch ring slot => ringOk ring && slotOk slot
  | .tmgGateStatus ring slot => ringOk ring && slotOk slot
  | .tmgSetQueue ring slot => ringOk ring && slotOk slot
  | .tmgSetGroup ring slot => ringOk ring && slotOk slot
  | .tmgSetPolicer ring slot => ringOk ring && slotOk slot
  | .tmgPolicerCounters ring slot => ringOk ring && slotOk slot
  | .tmgSetStreamGate ring slot => ringOk ring && slotOk slot
  | .tmgSetLatency ring slot => ringOk ring && slotOk slot
  | .tmgLatRead ring slot => ringOk ring && slotOk slot
  | .tmgPortCounters ring slot => ringOk ring && slotOk slot
  | .portCtrlWrite m p _ => masterOk m && portOk p
  | .linkChange p _ _ _ _ => portOk p
  | .rtMarkerTimeout p => portOk p
  | .tc10SleepAck p => portOk p
  | .tc10SleepTimeout p => portOk p
  | .tc10Wake p => portOk p
  | .tc10Wur p => portOk p
  | .plcaCycle p _ => portOk p
  | .podlCfgWrite m p _ => masterOk m && portOk p
  | .podlClassified p _ => portOk p
  | .podlClassTimeout p => portOk p
  | .podlTrip p => portOk p
  | .podlRetry p => portOk p
  | .podlTripsClear p => portOk p
  | .txtsPop m p => masterOk m && portOk p
  | .icTxDoorbell m n _ => masterOk m && ringOk n
  | .ethSetPort ring slot => ringOk ring && slotOk slot
  | .ethPortEnable ring slot => ringOk ring && slotOk slot
  | .ethLinkStatus ring slot => ringOk ring && slotOk slot
  | .ethTc10 ring slot => ringOk ring && slotOk slot
  | .ethRtSave ring slot => ringOk ring && slotOk slot
  | .ethRtClear ring slot => ringOk ring && slotOk slot
  | .ethPlcaCfg ring slot => ringOk ring && slotOk slot
  | .ethPodl ring slot => ringOk ring && slotOk slot
  | .ethSaInstall ring slot => ringOk ring && slotOk slot
  | .ethSaTxSwitch ring slot => ringOk ring && slotOk slot
  | .ethSaDelete ring slot => ringOk ring && slotOk slot
  | .ethSaStatus ring slot => ringOk ring && slotOk slot
  | .ethPortCounters ring slot => ringOk ring && slotOk slot
  | .integrationDone ch => canOk ch
  | .canFrameReceived ch _ _ _ _ _ _ _ _ _ _ _ => canOk ch
  | .canTxStart sof => canOk sof.1
  | .canTxDone ch => canOk ch
  | .canBusError ch _ _ _ => canOk ch
  | .busOffExit ch => canOk ch
  | .txScheduleTime ch _ => canOk ch
  | .txCycleOccurrence ch _ => canOk ch
  | .txdTimeout ch => canOk ch
  | .canWakeDetect ch _ _ _ _ => canOk ch
  | .linSlotStart m => linOk m
  | .linSlotEnd m _ _ _ _ => linOk m
  | .linWakeDetect m => linOk m
  | .linWakeDone m => linOk m
  | .clnCanConfig ring slot => ringOk ring && slotOk slot
  | .clnCanMode ring slot => ringOk ring && slotOk slot
  | .clnCanTxLoad ring slot => ringOk ring && slotOk slot
  | .clnCanTxAbort ring slot => ringOk ring && slotOk slot
  | .clnCanTxStatus ring slot => ringOk ring && slotOk slot
  | .clnCanFilter ring slot => ringOk ring && slotOk slot
  | .clnCanRecover ring slot => ringOk ring && slotOk slot
  | .clnCanWakeCfg ring slot => ringOk ring && slotOk slot
  | .clnCanCounters ring slot => ringOk ring && slotOk slot
  | .clnLinConfig ring slot => ringOk ring && slotOk slot
  | .clnLinSchedLoad ring slot => ringOk ring && slotOk slot
  | .clnLinRun ring slot => ringOk ring && slotOk slot
  | .clnLinData ring slot => ringOk ring && slotOk slot
  | .clnLinPower ring slot => ringOk ring && slotOk slot
  | .clnLinCounters ring slot => ringOk ring && slotOk slot
  | .sprueRecord n _ => fifoOk n
  | .authResult _ => true
  | .releaseTime => true
  | .gwBufferLoad ch => canOk ch
  | .bundleTimeout _ => true
  | .tunnelFrameIn => true
  | .injectDoorbell m n _ => masterOk m && queueOk n
  | .hostqCfgWrite m n _ => masterOk m && queueOk n
  | .gwyRouteWrite ring slot => ringOk ring && slotOk slot
  | .gwyRouteDelete ring slot => ringOk ring && slotOk slot
  | .gwyRouteRead ring slot => ringOk ring && slotOk slot
  | .gwySetSource ring slot => ringOk ring && slotOk slot
  | .gwyTunnelCfg ring slot => ringOk ring && slotOk slot
  | .gwyAuthProfile ring slot => ringOk ring && slotOk slot
  | .gwyFreshSet ring slot => ringOk ring && slotOk slot
  | .gwyCounters ring slot => ringOk ring && slotOk slot
  | .nmPduReceived e => nmOk e
  | .nmRepeatTimeout e => nmOk e
  | .nmTimeout e => nmOk e
  | .nmWaitTimeout e => nmOk e
  | .nmMsgTimer e => nmOk e
  | .nmCfgWrite m e _ => masterOk m && nmOk e
  | .gwyNmCfg ring slot => ringOk ring && slotOk slot
  | .gwyNmRequest ring slot => ringOk ring && slotOk slot
  | .gwyNmStatus ring slot => ringOk ring && slotOk slot
  | .gwyNmUdata ring slot => ringOk ring && slotOk slot
  | .qryPoolCfg ring slot => ringOk ring && slotOk slot
  | .qryReqCfg ring slot => ringOk ring && slotOk slot
  | .qryAlloc ring slot => ringOk ring && slotOk slot
  | .qryFree ring slot => ringOk ring && slotOk slot
  | .qryStatus ring slot => ringOk ring && slotOk slot
  | .sprCfg ring slot => ringOk ring && slotOk slot
  | .poolCfgWrite m p _ => masterOk m && octetOk p
  | .allocRead m r => masterOk m && ringOk r
  | .freeCommit m r _ => masterOk m && ringOk r
  | .scrubDone p _ => octetOk p
  | .qryErrPop m => masterOk m
  | .spruePushData m n => masterOk m && fifoOk n
  | .spruePushEnd m n => masterOk m && fifoOk n
  | .spruePushPoison m n => masterOk m && fifoOk n
  | .sprueRewind m n => masterOk m && fifoOk n
  | .spruePop m n _ => masterOk m && fifoOk n
  | .sprueDropRest m n => masterOk m && fifoOk n
  | .cruKeyLoad ring slot => ringOk ring && slotOk slot
  | .cruKeyUnwrap ring slot => ringOk ring && slotOk slot
  | .cruKeyWrap ring slot => ringOk ring && slotOk slot
  | .cruKeyErase ring slot => ringOk ring && slotOk slot
  | .cruKeyStatus ring slot => ringOk ring && slotOk slot
  | .cruEraseAll ring slot => ringOk ring && slotOk slot
  | .cruCounters ring slot => ringOk ring && slotOk slot
  | .jobRingCtrlWrite m n _ => masterOk m && queueOk n
  | .jobDoorbell m n _ => masterOk m && queueOk n
  | .jobStart _ => true
  | .jobComplete ring => queueOk ring
  | .cruAlarm src => crAlarmOk src
  | .lockstepMismatch d _ _ => domOk d
  | .faultResetTimeout d => domOk d
  | .syncCheckPeriodic d cope drag => domOk d && copiesOk cope drag
  | .activation d k => domOk d && octetOk k
  | .debugHalt d => domOk d
  | .debugResume d cope drag => domOk d && copiesOk cope drag
  | .lscStatus ring slot => ringOk ring && slotOk slot
  | .lscSetCfg ring slot => ringOk ring && slotOk slot
  | .lscRelease ring slot cope drag => ringOk ring && slotOk slot && copiesOk cope drag
  | .lscSyncCheck ring slot cope drag => ringOk ring && slotOk slot && copiesOk cope drag
  | .lscSplit ring slot => ringOk ring && slotOk slot.1
  | .lscJoin ring slot cope drag => ringOk ring && slotOk slot && copiesOk cope drag
  | .lscRestart ring slot => ringOk ring && slotOk slot
  | .lscInject ring slot => ringOk ring && slotOk slot
  | .lscActCfg ring slot => ringOk ring && slotOk slot
  | .oSend m d _ => masterOk m && domOk d
  | .oCtrlGo m d => masterOk m && domOk d
  | .oCtrlRejoin m d => masterOk m && domOk d
  | .statusFrameSend d _ => domOk d
  | .mirrorLost d => domOk d
  | .copyArrival l _ => domOk l
  | .copyJudge l _ => domOk l
  | .canRecordWrite => true
  | .faultLineChange d _ => domOk d
  | .ordLinkTimeout l => domOk l
  | .holdoffExpiry => true
  | .swapTestEnd => true
  | .ordSetCfg ring slot => ringOk ring && slotOk slot
  | .ordStatus ring slot => ringOk ring && slotOk slot
  | .ordSwapTest ring slot => ringOk ring && slotOk slot
  | .ordSwapCancel ring slot => ringOk ring && slotOk slot
  | .ordCounters ring slot => ringOk ring && slotOk slot
  | .channelSet => true
  | .channelMask => true
  | .channelClear => true
  | .holdExpiry => true
  | .armWrite m _ => masterOk m
  | .pwmPeriodStart t _ _ => octetOk t
  | .pwmEdge c _ => chanOk c
  | .inrushEnd c => chanOk c
  | .shortDetect hit => chanOk hit.1
  | .ocWarn c => chanOk c
  | .thermalTrip c _ _ => chanOk c
  | .thermalReady c _ => chanOk c
  | .restartsClear c => chanOk c
  | .railUndervoltage r _ => domOk r
  | .railRecovery r _ => domOk r
  | .openLoadOn c _ => chanOk c
  | .openLoadOff c _ => chanOk c
  | .lchChanCfg ring slot => ringOk ring && slotOk slot
  | .lchProfile ring slot => ringOk ring && slotOk slot
  | .lchTimebase ring slot => ringOk ring && slotOk slot
  | .lchSetHold ring slot => ringOk ring && slotOk slot
  | .lchChanStatus ring slot => ringOk ring && slotOk slot
  | .lchCounters ring slot => ringOk ring && slotOk slot
  | .wakeSourceFire src _ _ => wakeOk src
  | .validationEnd => true
  | .autoSleepBegin => true
  | .powerOffDone => true
  | .powerOffComplete => true
  | .brownOut => true
  | .keystonePor => true
  | .railsGood => true
  | .moduleResetRelease => true
  | .ladlePourComplete => true
  | .lateLoad => true
  | .recoveryTimeout => true
  | .keyStatus ring slot => ringOk ring && slotOk slot
  | .keySetCfg ring slot => ringOk ring && slotOk slot
  | .keySleep ring slot => ringOk ring && slotOk slot
  | .keyWakeValid ring slot => ringOk ring && slotOk slot
  | .keyUnlock ring slot => ringOk ring && slotOk slot
  | .keyLogRead ring slot => ringOk ring && slotOk slot
  | .keyCounters ring slot => ringOk ring && slotOk slot
  | .inboundRequest f _ _ _ _ _ _ _ => fnOk f
  | .outboundWrite m _ _ => masterOk m
  | .outboundRead m _ _ => masterOk m
  | .completionArrival _ _ _ => true
  | .completionTimeout _ => true
  | .msixSend => true
  | .sidebandWrite f g => fnOk f && quadOk g
  | .sidebandPoll f g => fnOk f && quadOk g
  | .grpModeWrite f _ => fnOk f
  | .pcieLinkUp _ _ => true
  | .pcieLinkReset => true
  | .functionLevelReset f => fnOk f
  | .hbrErrPop m => masterOk m
  | .hbrSetRegion ring slot => ringOk ring && slotOk slot
  | .hbrLinkStatus ring slot => ringOk ring && slotOk slot
  | .hbrFnStatus ring slot => ringOk ring && slotOk slot
  | .hbrLogRead ring slot => ringOk ring && slotOk slot
  | .hbrCounters ring slot => ringOk ring && slotOk slot
  | .hbrSetCfg ring slot => ringOk ring && slotOk slot
  | .sysReset ring slot => ringOk ring && slotOk slot
  | .sysFlashRead ring slot => ringOk ring && slotOk slot
  | .sysFlashErase ring slot => ringOk ring && slotOk slot
  | .sysFlashWrite ring slot => ringOk ring && slotOk slot
  | .sysImageCheck ring slot => ringOk ring && slotOk slot
  | .sysErrPop m => masterOk m
  | .hltStatus ring slot => ringOk ring && slotOk slot
  | .hltSetCfg ring slot => ringOk ring && slotOk slot
  | .hltEccRead ring slot => ringOk ring && slotOk slot
  | .hltLifeRead ring slot => ringOk ring && slotOk slot
  | .hltLifeSave ring slot => ringOk ring && slotOk slot
  | .alarmRaise _ => true
  | .debugAttach => true
  | .eccError mem _ _ => octetOk mem
  | .patrolScrub => true
  | .healthMeasure _ _ _ _ _ _ => true
  | .hourlyEvaluation => true
  | .gptpSyncSend domain port _ => domOk domain && portOk port
  | .rtMarkerReceived p _ => portOk p
  | .retainedStartLimit p => portOk p
  | .tc10SleepRefused p => portOk p
  | .latchedWakePowerUp => true
  | .wakeSupplyGood => true
  | .wakeIgnoreExpiry => true
  | .debugDetach => true
  | .pcieConfigWrite f _ => fnOk f

end Sys2Proof
end

