-- ==== Sys2Proof/Decode.lean ====
section
/-! DEFINITION. The decoder of table words. The part is a block that takes commands; its opcode table gives no row any
bits, so no word spells a command. -/

namespace Sys2Proof

/-- The command a word of the opcode table's bits spells: none, for no row gives bits. -/
def decodeTableWord (_nbits _w : Nat) : Option Instr := none

end Sys2Proof
end

