-- ==== Sys2Proof/Machine/Bits.lean ====
section
/-! DEFINITION. Bit fields, byte order, saturation and CRC-32C. -/

namespace Sys2Proof.Machine

/-- Bits `hi:lo` of a word, as a number. -/
def fld (v : Word) (hi lo : Nat) : Nat := (v.toNat >>> lo) % 2 ^ (hi + 1 - lo)

/-- One bit of a word. -/
def bitOf (v : Word) (i : Nat) : Bool := v.getLsbD i

/-- A mask of bits `hi:lo`. -/
def maskOf (hi lo : Nat) : Word := BitVec.ofNat 32 ((2 ^ (hi + 1 - lo) - 1) <<< lo)

/-- The word with bits `hi:lo` set to `n`. -/
def setFld (v : Word) (hi lo n : Nat) : Word :=
  (v &&& ~~~ maskOf hi lo) ||| (BitVec.ofNat 32 ((n % 2 ^ (hi + 1 - lo)) <<< lo))

/-- The word with bit `i` set to `b`. -/
def setBit (v : Word) (i : Nat) (b : Bool) : Word := setFld v i i (if b then 1 else 0)

/-- A truth value as 0 or 1. -/
def b2n (b : Bool) : Nat := if b then 1 else 0

/-- Little-endian bytes as a number (R18, R63). -/
def leNat : List Byte → Nat
  | [] => 0
  | b :: r => b.toNat + 256 * leNat r

/-- The `k` little-endian bytes of a number. -/
def leBytes : Nat → Nat → List Byte
  | 0, _ => []
  | k + 1, n => BitVec.ofNat 8 n :: leBytes k (n / 256)

/-- Big-endian bytes as a number. -/
def beNat (bs : List Byte) : Nat := leNat bs.reverse

/-- The `k` big-endian bytes of a number. -/
def beBytes (k n : Nat) : List Byte := (leBytes k n).reverse

/-- `k` bytes of a list from offset `o`, zero past the end. -/
def slice (bs : List Byte) (o k : Nat) : List Byte :=
  let t := (bs.drop o).take k
  t ++ List.replicate (k - t.length) 0

/-- A little-endian number of `k` bytes at offset `o`. -/
def leAt (bs : List Byte) (o k : Nat) : Nat := leNat (slice bs o k)

/-- A big-endian number of `k` bytes at offset `o`. -/
def beAt (bs : List Byte) (o k : Nat) : Nat := beNat (slice bs o k)

/-- `bs` with the bytes at offset `o` replaced by `w` (the list keeps its length). -/
def patch (bs : List Byte) (o : Nat) (w : List Byte) : List Byte :=
  (bs.take o ++ w ++ bs.drop (o + w.length)).take bs.length

/-- Saturating sum. -/
def satAdd (limit a b : Nat) : Nat := min limit (a + b)

/-- A word read as a signed number. -/
def sInt (v : Word) : Int := v.toInt

/-- A signed number as a word (two's complement). -/
def ofSInt (i : Int) : Word := BitVec.ofInt 32 i

/-- One bit step of CRC-32C (Castagnoli, reflected). -/
def crcStep (c : Word) : Word :=
  if c.getLsbD 0 then (c >>> 1) ^^^ 0x82F63B78#32 else c >>> 1

/-- One byte step of CRC-32C. -/
def crcByte (c : Word) (b : Byte) : Word :=
  let x := c ^^^ b.setWidth 32
  crcStep (crcStep (crcStep (crcStep (crcStep (crcStep (crcStep (crcStep x)))))))

/-- CRC-32C over bytes: initial value and final inversion all ones. -/
def crc32c (bs : List Byte) : Word := ~~~ (bs.foldl crcByte 0xFFFFFFFF#32)

/-- Least index below `n` that satisfies `p`. -/
def firstBelow (p : Nat → Bool) (n : Nat) : Option Nat := (List.range n).find? p

/-- Least index at or after `a`, going round `n` places, that satisfies `p`. -/
def firstFrom (p : Nat → Bool) (a n : Nat) : Option Nat :=
  ((List.range n).map (fun i => (a + i) % n)).find? p

/-- Replace element `i` of a list. -/
def lset {α : Type} : List α → Nat → α → List α
  | [], _, _ => []
  | _ :: r, 0, v => v :: r
  | x :: r, i + 1, v => x :: lset r i v

/-- The bits of a mask below `n`, in rising order. -/
def bitsOf (m n : Nat) : List Nat := (List.range n).filter (fun i => m.testBit i)

end Sys2Proof.Machine
end

