-- ==== Sys2Proof/Machine/AddrMap.lean ====
section
/-! DEFINITION. The internal address map (R30). -/

namespace Sys2Proof.Machine

/-- The regions of R30. -/
inductive Region where
  | bootRom | sram | tcmA | tcmB | regs | cluster | dram | tile | pcie | none
  deriving DecidableEq, Repr

/-- The region an address lies in (R30). -/
def region (a : Nat) : Region :=
  if a ≤ 0x3FFFF then .bootRom
  else if 0x10000000 ≤ a ∧ a ≤ 0x107FFFFF then .sram
  else if 0x20000000 ≤ a ∧ a ≤ 0x200FFFFF then .tcmA
  else if 0x21000000 ≤ a ∧ a ≤ 0x210FFFFF then .tcmB
  else if 0x40000000 ≤ a ∧ a ≤ 0x412FFFFF then .regs
  else if 0x50000000 ≤ a ∧ a ≤ 0x50FFFFFF then .cluster
  else if 0x80000000 ≤ a ∧ a ≤ 0x17FFFFFFF then .dram
  else if 0x200000000 ≤ a ∧ a ≤ 0x20185FFFF then .tile
  else if 0x8000000000 ≤ a ∧ a ≤ 0xFFFFFFFFFF then .pcie
  else .none

end Sys2Proof.Machine
end

