-- ==== Sys2Proof/Machine/StateCpu.lean ====
section
/-! DEFINITION. State of the application cluster (R416–R423): its harts, their IMSIC files, the APLIC, the IOMMU and the
debug module. Layouts are PRESUMED from the RISC-V specifications that the chapter names (log entry 12). -/

namespace Sys2Proof.Machine

/-- An IMSIC file (R418): the pending and the enabled identities, as bits 1–255, and its two control registers. -/
structure ImsicFile where
  eip : Nat
  eie : Nat
  delivery : Nat
  threshold : Nat
  deriving DecidableEq, Repr, Inhabited

def ImsicFile.zero : ImsicFile := { eip := 0, eie := 0, delivery := 0, threshold := 0 }

/-- A cluster hart (R416): RV64GC with M, HS, U, VS and VU mode. -/
structure Hart where
  /-- Mason has started it (R549). -/
  started : Bool
  pc : Nat
  /-- x1–x31 and f0–f31, 64 bits each. -/
  x : Tab Nat
  f : Tab Nat
  /-- Privilege: 0 U, 1 S, 3 M; and V, which is 1 while a guest runs. -/
  priv : Nat
  virt : Bool
  /-- Control and status registers by CSR number: translation (satp, vsatp, hgatp), the 16 PMP entries, traps. -/
  csr : Tab Nat
  /-- IMSIC files: 0 machine level, 1 supervisor level, 1 + g guest g, 1–7 (R418). -/
  files : Tab ImsicFile
  /-- The debug module holds it halted; it has acknowledged a resume; it was reset since the debugger last asked. -/
  halted : Bool
  resumed : Bool
  haveReset : Bool
  deriving DecidableEq, Repr, Inhabited

/-- A hart in reset: M mode, every register zero (log entry 67). -/
def Hart.zero : Hart :=
  { started := false, pc := 0, x := [], f := [], priv := 3, virt := false, csr := [], files := [], halted := false,
    resumed := false, haveReset := true }

/-- A translation register keeps a mode that the hart has: 0 Bare, 8 Sv39 and 9 Sv48, or their G-stage forms. -/
def atpMode (v : Nat) : Nat :=
  let k := v / 2 ^ 60 % 16
  (if k = 8 ∨ k = 9 then k else 0) * 2 ^ 60

/-- hgatp as the hart holds it: VMIDLEN is 4 (R416). -/
def hgatpKeep (v : Nat) : Nat := v % 2 ^ 48 + atpMode v

/-- satp or vsatp as the hart holds it. -/
def satpKeep (v : Nat) : Nat := v % 2 ^ 60 + atpMode v

/-- The translation registers of a hart hold what they can hold. -/
def csrKeep (t : Tab Nat) : Tab Nat :=
  let put := fun (f : Nat → Nat) (n : Nat) (t : Tab Nat) => tput 0 t n (f (tget 0 t n))
  put satpKeep 0x280 (put satpKeep 0x180 (put hgatpKeep 0x680 t))

/-- A write of a control and status register. A mode that satp has not leaves it as it was. -/
def Hart.setCsr (x : Hart) (n v : Nat) : Hart :=
  let k := v / 2 ^ 60 % 16
  if n = 0x180 ∧ k ≠ 0 ∧ k ≠ 8 ∧ k ≠ 9 then x else { x with csr := csrKeep (tput 0 x.csr n v) }

/-- dcsr: version 4, the hart's mode, and the bits that the debugger set. -/
def Hart.dcsr (x : Hart) : Nat := 0x40000000 + tget 0 x.csr 0x7B0 + b2n x.virt * 32 + x.priv

/-- A write of dcsr: bits 17 to 15, 13 to 9 and 2 are writable, and mode 2 does not exist. -/
def Hart.setDcsr (x : Hart) (v : Nat) : Hart :=
  let p := if v % 4 = 2 then x.priv else v % 4
  { x with priv := p, virt := v.testBit 5 && p != 3,
           csr := tput 0 x.csr 0x7B0 ((v &&& 0x3BE04) + tget 0 x.csr 0x7B0 / 2 ^ 6 % 8 * 2 ^ 6) }

/-- The debug module halts the hart: cause 3 a request, 4 a step. -/
def Hart.stop (cause : Nat) (x : Hart) : Hart :=
  let d := tget 0 x.csr 0x7B0
  { x with halted := true, csr := tput 0 x.csr 0x7B0 (d / 2 ^ 9 * 2 ^ 9 + cause * 2 ^ 6 + d % 2 ^ 6) }

/-- Any contents `y` of a hart that has run, as far as they are legal: the debug module's flags and its bits of dcsr are
not its own; a guest runs in VS or VU mode (R416). -/
def Hart.keep (y x : Hart) : Hart :=
  let p := if y.priv = 0 ∨ y.priv = 1 then y.priv else 3
  { y with started := x.started, halted := x.halted, resumed := x.resumed, haveReset := x.haveReset, priv := p,
           virt := y.virt && p != 3, csr := tput 0 (csrKeep y.csr) 0x7B0 (tget 0 x.csr 0x7B0) }

/-- One interrupt domain of the APLIC (R418, R420). -/
structure Aplic where
  /-- domaincfg.IE. -/
  ie : Bool
  /-- sourcecfg and target, by source. -/
  source : Tab Nat
  target : Tab Nat
  /-- Pending and enabled sources, as bits. -/
  pend : Nat
  enabled : Nat
  deriving DecidableEq, Repr

def Aplic.zero : Aplic := { ie := false, source := [], target := [], pend := 0, enabled := 0 }

/-- The debug module (R423). -/
structure DebugModule where
  active : Bool
  hartsel : Nat
  /-- data0 and data1, and the program buffer's two words. -/
  data : Tab Word
  progbuf : Tab Word
  command : Word
  cmderr : Nat
  autoexec : Nat
  deriving DecidableEq, Repr

def DebugModule.zero : DebugModule :=
  { active := false, hartsel := 0, data := [], progbuf := [], command := 0, cmderr := 0, autoexec := 0 }

/-- The application cluster (R416–R423). -/
structure CpuState where
  harts : Tab Hart
  aplicM : Aplic
  aplicS : Aplic
  /-- Level sources as last sampled, as bits (R420). -/
  levels : Nat
  /-- IOMMU registers by offset. -/
  iommu : Tab Nat
  dm : DebugModule
  deriving DecidableEq, Repr

/-- The cluster after reset: every hart held, every source off, the IOMMU Off (log entry 67). -/
def CpuState.reset : CpuState :=
  { harts := [], aplicM := .zero, aplicS := .zero, levels := 0, iommu := [], dm := .zero }

end Sys2Proof.Machine
end

