-- ==== Sys2Proof/Machine/Iommu.lean ====
section
/-! DEFINITION. Address translation: the page-table walks of Sv39, Sv48 and their G-stage forms (R416), and the IOMMU's
translation of a device's address through its device context, two stages and the MSI page table (R421). Formats and
fault causes are PRESUMED from the RISC-V specifications that the manual names (log entry 12). -/

namespace Sys2Proof.Machine

/-- Why a translation faults: the cause, and the guest-physical address it stopped at. -/
structure XFault where
  cause : Nat
  gpa : Nat
  deriving DecidableEq, Repr

/-- What a walk answers: an address, or the fault. -/
abbrev Walk := Except XFault Nat

/-- The cause of a fault of a read or a write: each write cause is two above its read cause. -/
def xcause (read : Nat) (wr : Bool) : Nat := if wr then read + 2 else read

/-- `n` bytes of memory as a number. -/
def memNat (m : Tab Byte) (a n : Nat) : Nat := leNat ((List.range n).map (fun i => tget 0 m (a + i)))

/-- A leaf lets a user-mode access pass, as the G stage and a device's stages judge it: U and A, and R, or W and D. -/
def leafOk (wr : Bool) (pte : Nat) : Bool :=
  pte.testBit 4 && pte.testBit 6 && (if wr then pte.testBit 2 && pte.testBit 7 else pte.testBit 1)

/-- PPN of an entry or of an address-translation register. -/
def ppnOf (pte : Nat) : Nat := pte / 2 ^ 10 % 2 ^ 44

/-- A radix walk of `a` from `table`, `wide` index bits at this level and 9 below; `leaf` judges the leaf it ends in. -/
def pageWalk (rd : Nat → Walk) (bad : XFault) (leaf : Nat → Bool) : (level wide table a : Nat) → Walk
  | 0, _, _, _ => .error bad
  | level + 1, wide, table, a =>
    let k := 9 * level
    match rd (table + 8 * (a / 2 ^ (12 + k) % 2 ^ wide)) with
    | .error e => .error e
    | .ok pte =>
      if !pte.testBit 0 || (pte.testBit 2 && !pte.testBit 1) || pte / 2 ^ 54 ≠ 0 then .error bad
      else if pte.testBit 1 || pte.testBit 3 then
        if leaf pte && ppnOf pte % 2 ^ k == 0 then .ok (ppnOf pte * 4096 + a % 2 ^ (12 + k)) else .error bad
      else if pte.testBit 4 || pte.testBit 6 || pte.testBit 7 then .error bad
      else pageWalk rd bad leaf level 9 (ppnOf pte * 4096) a

/-- The G stage: mode in the top four bits of `atp`, 0 Bare, 8 Sv39x4, 9 Sv48x4. -/
def gStage (rd : Nat → Walk) (atp gpa : Nat) (wr : Bool) : Walk :=
  let bad : XFault := { cause := xcause 21 wr, gpa := gpa }
  let root := atp % 2 ^ 44 / 4 * 4 * 4096
  match atp / 2 ^ 60 with
  | 0 => .ok gpa
  | 8 => if gpa < 2 ^ 41 then pageWalk rd bad (leafOk wr) 3 11 root gpa else .error bad
  | 9 => if gpa < 2 ^ 50 then pageWalk rd bad (leafOk wr) 4 11 root gpa else .error bad
  | _ => .error bad

/-- An address is sign-extended from bit `n` − 1. -/
def canonical (n a : Nat) : Bool := decide (a < 2 ^ (n - 1)) || (decide (2 ^ 64 - 2 ^ (n - 1) ≤ a) && decide (a < 2 ^ 64))

/-- The first stage: 0 Bare, 8 Sv39, 9 Sv48. -/
def sStage (rd : Nat → Walk) (leaf : Nat → Bool) (atp a : Nat) (wr : Bool) : Walk :=
  let bad : XFault := { cause := xcause 13 wr, gpa := 0 }
  let root := atp % 2 ^ 44 * 4096
  match atp / 2 ^ 60 with
  | 0 => .ok a
  | 8 => if canonical 39 a then pageWalk rd bad leaf 3 9 root a else .error bad
  | 9 => if canonical 48 a then pageWalk rd bad leaf 4 9 root a else .error bad
  | _ => .error bad

/-! ### Device contexts -/

/-- Memory the IOMMU reads its tables in. -/
def tableRegion (a : Nat) : Bool := region a == .sram || region a == .dram

/-- A read of `n` bytes by the IOMMU itself; `cause` where there is no memory. -/
def ioRead (m : Tab Byte) (cause n a : Nat) : Walk :=
  if tableRegion a then .ok (memNat m a n) else .error { cause := cause, gpa := 0 }

/-- IOMMU registers. -/
def ioReg (t : Tab Nat) (off : Nat) : Nat := tget 0 t off

/-- A device context of the extended format. -/
structure DevCtx where
  tc : Nat
  iohgatp : Nat
  fsc : Nat
  msiptp : Nat
  msiMask : Nat
  msiPattern : Nat
  deriving DecidableEq, Repr

/-- The directory walk: bits 23:15, 14:6 and 5:0 of the device ID, from `levels`. -/
def ddtWalk (m : Tab Byte) (did : Nat) : (levels table : Nat) → Walk
  | 0, table => .ok (table + did % 64 * 64)
  | n + 1, table =>
    match ioRead m 257 8 (table + did / 2 ^ (6 + 9 * n) % 512 * 8) with
    | .error e => .error e
    | .ok e =>
      if !e.testBit 0 then .error { cause := 258, gpa := 0 }
      else if e % 2 ^ 10 ≠ 1 ∨ e / 2 ^ 54 ≠ 0 then .error { cause := 259, gpa := 0 }
      else ddtWalk m did n (ppnOf e * 4096)

/-- A context this IOMMU can take: no ATS, PRI or process contexts, and modes it has. -/
def devCtxOk (c : DevCtx) : Bool :=
  c.tc / 2 ^ 5 == 0 && c.tc % 16 / 2 == 0 && [0, 8, 9].contains (c.iohgatp / 2 ^ 60) && c.iohgatp % 4 == 0 &&
    [0, 8, 9].contains (c.fsc / 2 ^ 60) && [0, 1].contains (c.msiptp / 2 ^ 60)

/-- The context at an address. -/
def devCtxAt (m : Tab Byte) (a : Nat) : Except XFault DevCtx :=
  if !tableRegion a then .error { cause := 257, gpa := 0 }
  else
    let w := fun (i : Nat) => memNat m (a + 8 * i) 8
    let c : DevCtx := { tc := w 0, iohgatp := w 1, fsc := w 3, msiptp := w 4, msiMask := w 5, msiPattern := w 6 }
    if !c.tc.testBit 0 then .error { cause := 258, gpa := 0 }
    else if devCtxOk c && w 7 == 0 then .ok c else .error { cause := 259, gpa := 0 }

/-- The context of a device, under ddtp: 2 to 4 are directories of one to three levels. -/
def devCtx (m : Tab Byte) (ddtp did : Nat) : Except XFault DevCtx :=
  let levels := ddtp % 16 - 2
  if 2 ^ (6 + 9 * levels) ≤ did then .error { cause := 260, gpa := 0 }
  else match ddtWalk m did levels (ppnOf ddtp * 4096) with
    | .error e => .error e
    | .ok a => devCtxAt m a

/-! ### MSI page tables -/

/-- The bits of `v` where `mask` has ones, gathered. -/
def gather (v mask : Nat) : Nat := leNatBits ((List.range 52).filter (fun i => mask.testBit i)) where
  leNatBits : List Nat → Nat
    | [] => 0
    | i :: r => b2n (v.testBit i) + 2 * leNatBits r

/-- Whether a guest-physical address is of a virtual interrupt file. -/
def isMsi (c : DevCtx) (gpa : Nat) : Bool :=
  c.msiptp / 2 ^ 60 == 1 && (List.range 52).all (fun i => c.msiMask.testBit i || (gpa / 4096).testBit i == c.msiPattern.testBit i)

/-- A basic-mode entry of the MSI page table gives the page. -/
def msiStage (m : Tab Byte) (c : DevCtx) (gpa : Nat) : Walk :=
  match ioRead m 261 8 (c.msiptp % 2 ^ 44 * 4096 + gather (gpa / 4096) c.msiMask * 16) with
  | .error e => .error e
  | .ok pte =>
    if !pte.testBit 0 then .error { cause := 262, gpa := gpa }
    else if pte % 8 ≠ 7 ∨ pte / 2 ^ 54 ≠ 0 then .error { cause := 263, gpa := gpa }
    else .ok (ppnOf pte * 4096 + gpa % 4096)

/-! ### Translation -/

/-- Two stages and the MSI page table. -/
def ctxTranslate (m : Tab Byte) (c : DevCtx) (a : Nat) (wr : Bool) : Walk :=
  let rd := ioRead m (xcause 5 wr) 8
  let rdG := fun (p : Nat) =>
    match gStage rd c.iohgatp p false with
    | .error e => .error { e with gpa := e.gpa / 4 * 4 + 1 }
    | .ok x => rd x
  match sStage rdG (leafOk wr) c.fsc a wr with
  | .error e => .error e
  | .ok gpa => if isMsi c gpa then msiStage m c gpa else gStage rd c.iohgatp gpa wr

/-- The IOMMU's translation of address `a` of device `did`: ddtp mode 0 is Off, 1 Bare. An address past the 40 bits of
the map is an access fault. -/
def ioTranslate (m : Tab Byte) (regs : Tab Nat) (did a : Nat) (wr : Bool) : Walk :=
  let ddtp := ioReg regs 16
  let r : Walk :=
    if ddtp % 16 = 0 then .error { cause := 256, gpa := 0 }
    else if ddtp % 16 = 1 then .ok a
    else match devCtx m ddtp did with
      | .error e => .error e
      | .ok c => ctxTranslate m c a wr
  match r with
  | .ok p => if p < 2 ^ 40 then .ok p else .error { cause := xcause 5 wr, gpa := 0 }
  | .error e => .error e

/-- Whether a device's context says that its translation faults are not reported (tc.DTF). -/
def faultQuiet (m : Tab Byte) (regs : Tab Nat) (did : Nat) : Bool :=
  decide (2 ≤ ioReg regs 16 % 16) && (match devCtx m (ioReg regs 16) did with | .ok c => c.tc.testBit 4 | .error _ => false)

end Sys2Proof.Machine
end

