-- ==== Sys2Proof/Machine/CpuOps.lean ====
section
/-! DEFINITION. What the cluster's interrupt controllers do with their sources (R418, R420), and what its registers and
the IOMMU's faults leave. PRESUMED from the RISC-V advanced interrupt architecture (log entry 12). -/

namespace Sys2Proof.Machine

def CpuState.hart (c : CpuState) (h : Nat) : Hart := tget Hart.zero c.harts h
def CpuState.setHart (c : CpuState) (h : Nat) (x : Hart) : CpuState := { c with harts := tput Hart.zero c.harts h x }

/-! ### Protection of a hart's own accesses (R416) -/

/-- A leaf lets an access of the hart pass: A, and D for a write; U in user mode only, or with SUM; R, W, or X with MXR.
`st` is the status register of its stage: sstatus or vsstatus. -/
def Hart.leaf (x : Hart) (st : Nat) (wr : Bool) (pte : Nat) : Bool :=
  let v := tget 0 x.csr st
  pte.testBit 6 && (if wr then pte.testBit 2 && pte.testBit 7 else pte.testBit 1 || (pte.testBit 3 && v.testBit 19)) &&
    (if x.priv = 0 then pte.testBit 4 else !pte.testBit 4 || v.testBit 18)

/-- Configuration byte and address of PMP entry `i`. -/
def Hart.pmpCfg (x : Hart) (i : Nat) : Nat := tget 0 x.csr (if i < 8 then 0x3A0 else 0x3A2) / 2 ^ (i % 8 * 8) % 256
def Hart.pmpAddr (x : Hart) (i : Nat) : Nat := tget 0 x.csr (0x3B0 + i) % 2 ^ 54

/-- Trailing ones of an address register, which size its region. -/
def trailingOnes (v : Nat) : Nat := ((List.range 55).find? (fun i => !v.testBit i)).getD 55

/-- Whether PMP entry `i` holds address `a`: by A, 1 a range from the entry before, 2 four bytes, 3 a power of two. -/
def Hart.pmpHit (x : Hart) (i a : Nat) : Bool :=
  let e := x.pmpAddr i
  match x.pmpCfg i / 8 % 4 with
  | 1 => decide ((if i = 0 then 0 else x.pmpAddr (i - 1) * 4) ≤ a) && decide (a < e * 4)
  | 2 => a / 4 == e
  | 3 => a / 2 ^ (trailingOnes e + 3) == e / 2 ^ (trailingOnes e + 1)
  | _ => false

/-- The PMP lets an access in mode `p` pass: the first entry that holds the address decides, in M mode only where it is
locked; where none does, M mode alone passes. -/
def Hart.pmpOk (x : Hart) (p a : Nat) (wr : Bool) : Bool :=
  match (List.range 16).find? (fun i => x.pmpHit i a) with
  | some i => (p == 3 && !(x.pmpCfg i).testBit 7) || (x.pmpCfg i).testBit (b2n wr)
  | none => p == 3

/-! ### IMSIC -/

/-- A write of an identity to file `i` of hart `h` makes it pending: 1–255 (R418). -/
def imsicSet (h i n : Nat) (c : CpuState) : CpuState :=
  if 8 ≤ h ∨ 9 ≤ i ∨ n = 0 ∨ 256 ≤ n then c
  else
    let x := c.hart h
    let f := tget ImsicFile.zero x.files i
    c.setHart h { x with files := tput ImsicFile.zero x.files i { f with eip := f.eip ||| 2 ^ n } }

/-- Page `p` of the IMSIC region is file `i` of hart `h` (R418). -/
def imsicPage (off : Nat) : Option (Nat × Nat) :=
  if 0x100000 ≤ off ∧ off < 0x108000 then some ((off - 0x100000) / 0x1000, 0)
  else if 0x200000 ≤ off ∧ off < 0x240000 then some ((off - 0x200000) / 0x8000, 1 + off / 0x1000 % 8)
  else none

/-- The identity that a hart's file offers: the least that is pending, enabled and below the threshold. -/
def ImsicFile.top (f : ImsicFile) : Option Nat :=
  (List.range 256).find? (fun n => decide (1 ≤ n) && f.eip.testBit n && f.eie.testBit n &&
    (f.threshold == 0 || decide (n < f.threshold)) && f.delivery == 1)

/-! ### APLIC -/

/-- The domain that has source `n`: the machine-level one delegates it by bit 10 of its sourcecfg. -/
def aplicChild (c : CpuState) (n : Nat) : Bool := (tget 0 c.aplicM.source n).testBit 10
def aplicOf (c : CpuState) (child : Bool) : Aplic := if child then c.aplicS else c.aplicM
def setAplic (child : Bool) (x : Aplic) (c : CpuState) : CpuState := if child then { c with aplicS := x } else { c with aplicM := x }

/-- Source mode: 1 detached, 4 and 5 rising and falling edge, 6 and 7 high and low level; 0 inactive. -/
def sourceMode (c : CpuState) (child : Bool) (n : Nat) : Nat :=
  if aplicChild c n != child then 0
  else
    let v := tget 0 (aplicOf c child).source n
    if v.testBit 10 then 0 else v % 8

/-- A pending and enabled source sends its MSI, to the hart, guest and identity of its target, and is no longer pending. -/
def aplicSend (child : Bool) (n : Nat) (c : CpuState) : CpuState :=
  let x := aplicOf c child
  if x.ie && x.pend.testBit n && x.enabled.testBit n then
    let t := tget 0 x.target n
    imsicSet (t / 2 ^ 18) (if child then 1 + t / 2 ^ 12 % 64 else 0) (t % 2 ^ 11) (setAplic child { x with pend := x.pend - 2 ^ n } c)
  else c

/-- Source `n` becomes pending. -/
def aplicPend (child : Bool) (n : Nat) (c : CpuState) : CpuState :=
  let x := aplicOf c child
  aplicSend child n (setAplic child { x with pend := x.pend ||| 2 ^ n } c)

/-- Source `n` is pending no longer. -/
def aplicDrop (child : Bool) (n : Nat) (c : CpuState) : CpuState :=
  let x := aplicOf c child
  setAplic child { x with pend := if x.pend.testBit n then x.pend - 2 ^ n else x.pend } c

/-- The input of source `n` goes from `was` to `now`. -/
def aplicInput (n : Nat) (was now : Bool) (c : CpuState) : CpuState :=
  let child := aplicChild c n
  match sourceMode c child n with
  | 4 => if !was && now then aplicPend child n c else c
  | 5 => if was && !now then aplicPend child n c else c
  | 6 => if !was && now then aplicPend child n c else if was && !now then aplicDrop child n c else c
  | 7 => if was && !now then aplicPend child n c else if !was && now then aplicDrop child n c else c
  | _ => c

/-- An edge source pulses (R420). -/
def aplicPulse (n : Nat) (c : CpuState) : CpuState := aplicInput n true false (aplicInput n false true c)

/-! ### Interrupts and faults of the IOMMU -/

/-- ipsr, 84: bit 0 command queue, 1 fault queue. -/
def ioRaise (bit : Nat) (t : Tab Nat) : Tab Nat := tput 0 t 84 (ioReg t 84 ||| 2 ^ bit)

/-- The IOMMU's interrupt vector `v` is active: an ipsr bit names it by icvec, 760. -/
def ioVector (t : Tab Nat) (v : Nat) : Bool :=
  (List.range 4).any (fun i => (ioReg t 84).testBit i && ioReg t 760 / 2 ^ (4 * i) % 16 == v)

/-- The fault queue: base 40, head 48, tail 52, control 76, whose bits are 0 enable, 1 interrupt, 8 memory fault,
9 overflow, 16 on. -/
def ioFault (did a : Nat) (wr : Bool) (e : XFault) (m : Tab Byte) (t : Tab Nat) : Tab Byte × Tab Nat :=
  let cs := ioReg t 76
  let size := 2 ^ (ioReg t 40 % 32 + 1)
  let tail := ioReg t 52
  let irq := fun (t : Tab Nat) => if cs.testBit 1 then ioRaise 1 t else t
  if !cs.testBit 16 || cs.testBit 8 || cs.testBit 9 then (m, t)
  else if (tail + 1) % size = ioReg t 48 then (m, irq (tput 0 t 76 (cs ||| 2 ^ 9)))
  else
    let at_ := ppnOf (ioReg t 40) * 4096 + tail * 32
    if !tableRegion at_ then (m, irq (tput 0 t 76 (cs ||| 2 ^ 8)))
    else
      let rec_ := leBytes 8 (e.cause + (if wr then 3 else 2) * 2 ^ 34 + did * 2 ^ 40) ++ leBytes 8 0 ++ leBytes 8 a ++ leBytes 8 e.gpa
      let m := (List.range 32).foldl (fun m i => tput 0 m (at_ + i) (rec_.getD i 0)) m
      (m, irq (tput 0 t 52 ((tail + 1) % size)))

end Sys2Proof.Machine
end

