-- ==== Sys2Proof/Machine/StateHlt.lean ====
section
/-! DEFINITION. State of the health and weathering monitor (HLT) that its registers do not hold. -/

namespace Sys2Proof.Machine

/-- The life record (R561, R563). -/
structure Life where
  hours : Nat
  hotHours : Nat
  swings : Nat
  powerUps : Nat
  guard : Nat
  ilim : Nat
  dtReduce : Nat
  lowMargin : Nat
  ratioMax : Nat
  rth : Nat
  ratioChan : Nat
  tiles : Nat
  ues : Nat
  moduleResets : Nat
  offs : Nat
  saves : Nat
  deriving DecidableEq, Repr, Inhabited

/-- No valid copy of the life record (R561); no margin or ratio is measured yet. -/
def Life.zero : Life :=
  { hours := 0, hotHours := 0, swings := 0, powerUps := 0, guard := 60, ilim := 40, dtReduce := 30, lowMargin := 0xFFFF,
    ratioMax := 0, rth := 0, ratioChan := 0, tiles := 0, ues := 0, moduleResets := 0, offs := 0, saves := 0 }

/-- HLT (R555–R563). -/
structure HltState where
  life : Life
  /-- No valid copy was loaded, so the first evaluation may move every value (R561). -/
  first : Bool
  /-- The copy in area 3 the next save writes, 0 or 1 (R561). -/
  copy : Nat
  /-- Last on-resistance ratio measured of each channel, in 1/1,024 (R558). -/
  ratios : Tab Nat
  /-- Worst path margin of the present hour, ps (R558, R559). -/
  hourMargin : Option Nat
  /-- Seconds with the junction at or above 105 °C not yet counted as hours (R558). -/
  hotSecs : Nat
  /-- A UE address is logged and UE_ADDR_LO has not been read since (R557). -/
  ueLogged : Bool
  deriving DecidableEq, Repr, Inhabited

def HltState.reset : HltState :=
  { life := .zero, first := true, copy := 0, ratios := [], hourMargin := none, hotSecs := 0, ueLogged := false }

end Sys2Proof.Machine
end

