-- ==== Sys2Proof/Machine/StateCore.lean ====
section
/-! DEFINITION. State of SYS, Mason (CMD), the access tables (ACL) and the time base (TIM), and the records they
share. -/

namespace Sys2Proof.Machine

/-- What the logic die is doing. `off`: no power. `rising`: rails coming up. `ladle`: Ladle runs from boot ROM.
`running`: the pour is complete. `inReset`: the 10 µs of a MODULE reset. `stopping`: held in reset after
Mason's done, until power-off completes (R514). `recovery`: no image poured (R554).
`stuck`: fuse or bond mismatch, held in boot ROM (R16). -/
inductive Phase where
  | off | rising | ladle | running | inReset | stopping | recovery | stuck
  deriving DecidableEq, Repr, Inhabited

/-- One entry of an error log (SYS R31, QRY R373, HBR R528): the words a pop returns and latches. -/
structure LogEntry where
  lo : Word
  hi : Word
  info : Word
  deriving DecidableEq, Repr, Inhabited

/-- The empty latch. -/
def LogEntry.none : LogEntry := { lo := 0, hi := 0, info := 0 }

/-- What a read row returned to its reader: the words, and whether the response was an error (R31, R87). -/
structure ReadReply where
  master : Nat
  words : List Word
  error : Bool
  deriving DecidableEq, Repr

/-- SYS state that no register holds. -/
structure SysState where
  phase : Phase
  /-- The image a pour came from, where there is one (R547: its slot is not writable). -/
  slot : Option Nat
  /-- Whether Ladle's reach is open (R35). -/
  ladleReach : Bool
  /-- SYS bus error log, oldest first, at most 16 (R31). -/
  log : List LogEntry
  /-- Latch of the last popped entry, per reading master. -/
  latch : Tab LogEntry
  /-- Register writes dropped against each master, 0–255 (R46, R48). -/
  dropped : Tab Nat
  /-- Register reads refused, by block × 128 + master (R87). -/
  readRefused : Tab Nat
  /-- Image candidates that failed a check in this pour (R550). -/
  failed : List Nat
  /-- KSEC-independent local time, in TCLK ticks since power-on, for elapsed limits (R58). -/
  ticks : Nat
  /-- Times (ticks) of recent MODULE resets made by alarms (R546). -/
  alarmResets : List Nat
  /-- The debug port is connected (R580). -/
  debug : Bool
  /-- The 64 MiB of flash by address; an unlisted byte is erased, 0xFF (R547). -/
  flash : Tab Byte
  /-- The two copies of the life record in area 3 (R561). -/
  lifeFlash : Tab (Option Life)
  /-- Entry at which Mason started each cluster hart (R549). -/
  harts : Tab (Option Nat)
  /-- The record on the power die from which RESET_CAUSE is loaded (R556). -/
  cause : Word
  /-- Blocks whose state is in doubt, each with the master whose error caused it, oldest first (R22–R24). -/
  doubt : List (Nat × Nat)
  /-- LATE loading has begun and stands at this entry, all LATE sections' entries counted as one list (R553). -/
  late : Option Nat
  /-- Entries of the LATE sections that have loaded, counted the same way (R545). -/
  loaded : Nat
  /-- A reload that has begun: its block, and the number of its entries that have acted (R545). -/
  reload : Option (Nat × Nat)
  /-- The last read of TIM or of a queue register by each row, as the reader saw it (model's own). -/
  reads : List ReadReply
  deriving DecidableEq, Repr, Inhabited

/-- A command held in Mason's private SRAM: its slot's contents and where it came from (R62, R74). -/
structure Cmd where
  ring : Nat
  slot : Nat
  /-- Master ID of the ring's owner, under whose rights it runs (R77). -/
  issuer : Nat
  opcode : Nat
  ordered : Bool
  indirect : Bool
  noReply : Bool
  tag : Nat
  len : Nat
  inst : Nat
  bufSize : Nat
  bufAddr : Nat
  /-- Payload bytes: from the slot, or from the buffer once it is read (R63, R64). -/
  payload : List Byte
  /-- Order in which its doorbell reached CMD (R44). -/
  door : Nat
  /-- Started and not complete. -/
  running : Bool
  /-- What a change of a pour that waits for a sweep keeps of its start: K of its layout, plus 16 times the log entries
  it will take (R69, R213). -/
  kept : Nat := 0
  deriving DecidableEq, Repr, Inhabited

/-- The outcome of a completed command, waiting for Mason to write its reply (R65, R76). -/
structure Reply where
  ring : Nat
  slot : Nat
  issuer : Nat
  opcode : Nat
  tag : Nat
  noReply : Bool
  status : Nat
  code : Nat
  offset : Nat
  value : Nat
  resultLen : Nat
  result : List Byte
  doneNs : Nat
  doneSec : Nat
  door : Nat
  ordered : Bool
  deriving DecidableEq, Repr, Inhabited

/-- A command frame accepted on port IM: its slot bytes and what its reply frame needs (R95, R97). -/
structure NcpSlot where
  slot : Nat
  bytes : List Byte
  seq : Nat
  da : List Byte
  sa : List Byte
  vid : Nat
  pcp : Nat
  /-- The key slot it was authenticated under, and that slot's GENERATION. -/
  key : Nat
  gen : Nat
  /-- Order of its doorbell. -/
  door : Nat
  deriving DecidableEq, Repr

/-- A doorbell that reached CMD: ring, order of arrival, and the tail it wrote (R44). -/
structure Door where
  ring : Nat
  order : Nat
  tail : Nat
  /-- The master that rang it. -/
  master : Nat
  deriving DecidableEq, Repr

/-- An interrupt, MSI or function event delivered to a master (R83, R420, R433, R534). -/
structure Notice where
  master : Nat
  /-- 0 completion, 1 error, 2 host queue, 3 job ring, 4 IC ring pair. -/
  kind : Nat
  index : Nat
  deriving DecidableEq, Repr

/-- Mason (R67–R98). -/
structure MasonState where
  /-- Commands fetched and not completed, in fetch order (R75). -/
  cmds : List Cmd
  /-- Completed commands whose reply is not yet written, in completion order (R76). -/
  replies : List Reply
  /-- Doorbells whose slots are not all fetched, in order of arrival. -/
  doors : List Door
  /-- Doorbells counted so far. -/
  doorCount : Nat
  /-- Last ring served at each priority (R79). -/
  served : Tab Nat
  /-- Replies written and not yet announced, by ring (RING_EVENT). -/
  unannounced : Tab Nat
  /-- Network command port: commands accepted and not yet replied to (R94). -/
  ncp : List NcpSlot
  /-- Frames delivered through port IM, oldest first, with VID and priority (R94). -/
  imRx : List (List Byte × Nat × Nat)
  /-- NCP_SEQ_END stands: NCP_SEQ reached 0xFFFFFFFF (R98). -/
  seqEnd : Bool
  /-- gPTP frames delivered to Mason (R118), with their ingress timestamps: seconds, nanoseconds and the top 16 bits of
  FRAC (R120). -/
  gptpRx : List (List Byte × Nat × Nat × Nat)
  /-- Status and DETAIL (code, offset, value) of the image's command that completed last (R545, R549, R553). -/
  image : Nat × Nat × Nat × Nat
  /-- The firmware in Mason's SRAM, from offset 0 (R549). -/
  firmware : List Byte
  deriving DecidableEq, Repr, Inhabited

/-- One entry of an access table (R85). -/
structure AclEntry where
  rights : Word
  mask : BitVec 64
  deriving DecidableEq, Repr

/-- No right and no instance. -/
def AclEntry.zero : AclEntry := { rights := 0, mask := 0 }

/-- All rights and a full mask (R88). -/
def AclEntry.all : AclEntry := { rights := 0x1F, mask := BitVec.allOnes 64 }

/-- One memory window of a master (R89). -/
structure Window where
  base : BitVec 40
  size : BitVec 28
  read : Bool
  write : Bool
  deriving DecidableEq, Repr

/-- A disabled window. -/
def Window.none : Window := { base := 0, size := 0, read := false, write := false }

/-- Access tables: entry of block b, master m at key b × 128 + m; window w of master m at m × 8 + w (R85, R89). -/
structure AclState where
  entries : Tab AclEntry
  windows : Tab Window
  deriving DecidableEq, Repr

/-- The servo's state (R114). -/
inductive Servo where
  | free | locking | locked | holdover | gm
  deriving DecidableEq, Repr, Inhabited

/-- One capture of an input (R126). -/
structure Capture where
  sec : BitVec 48
  ns : Nat
  falling : Bool
  deriving DecidableEq, Repr

/-- A running timed pulse output: the pulse number it is at, whether the output is active (R122), and whether a forward
step skipped a one-shot's start (R56). -/
structure Pulse where
  n : Nat
  active : Bool
  late : Bool
  deriving DecidableEq, Repr

/-- A gPTP message Mason sent (R116). -/
structure GptpSent where
  domain : Nat
  port : Nat
  /-- A Pdelay request, or else a two-step Sync. -/
  pdelay : Bool
  at_ : Nat
  deriving DecidableEq, Repr

/-- Per-master latch of the counter (R103). -/
structure TimeLatch where
  sec : BitVec 48
  frac : Word
  deriving DecidableEq, Repr

/-- The time base (R99–R130). -/
structure TimState where
  sec : BitVec 48
  ns : Nat
  frac : Word
  /-- The committed INCR (R107). -/
  incr : BitVec 40
  latches : Tab TimeLatch
  /-- STEP_LO as last written (R108). -/
  stepLo : Word
  servo : Servo
  /-- Consecutive accepted Syncs within LOCK_NS (R112). -/
  lockCount : Nat
  /-- The servo has locked since reset (R111). -/
  everLocked : Bool
  /-- TCLK ticks of the present holdover millisecond. -/
  holdTicks : Nat
  /-- Capture FIFOs, oldest first, by input (R126). -/
  tci : Tab (List Capture)
  /-- Running pulse outputs (R122). -/
  tpo : Tab Pulse
  /-- Network time before and after the last step (R56). -/
  skipFrom : Nat
  skipTo : Nat
  gptpSent : List GptpSent
  deriving DecidableEq, Repr, Inhabited

end Sys2Proof.Machine
end

