-- ==== Sys2Proof/Machine/StateCru.lean ====
section
/-! DEFINITION. State of Crucible (CRU) and of the Ethernet ports (ETH) that their registers do not hold. -/

namespace Sys2Proof.Machine

/-- A key slot (R390). -/
structure KeySlot where
  /-- 0 none, 1 AES-128, 2 AES-192, 3 AES-256. -/
  typ : Nat
  /-- 0 EMPTY, 1 READY, 2 EXHAUSTED. -/
  st : Nat
  usage : Nat
  limit : Nat
  uses : Nat
  gen : Nat
  key : List Byte
  deriving DecidableEq, Repr

/-- An empty slot that was never loaded. -/
def KeySlot.zero : KeySlot := { typ := 0, st := 0, usage := 0, limit := 0, uses := 0, gen := 0, key := [] }

/-- The running value of a chained computation (R404). -/
structure Chain where
  /-- CBC's last block, or CMAC's chaining value. -/
  block : List Byte
  /-- Next counter block. -/
  counter : List Byte
  /-- GHASH accumulator. -/
  acc : BitVec 128
  /-- First counter block of GCM and GMAC. -/
  j0 : List Byte
  aadLen : Nat
  /-- Bytes processed so far. -/
  done : Nat
  /-- CMAC's block held back until more data or FINAL comes. -/
  held : List Byte
  deriving DecidableEq, Repr

/-- A job in flight (R399, R400). -/
structure Job where
  ring : Nat
  index : Nat
  core : Nat
  owner : Nat
  /-- Native slot of 64 bytes, or SZG1 slot of 32. -/
  slot : List Byte
  /-- The key the core holds. -/
  key : List Byte
  chain : Chain
  /-- Status and detail code of a check that failed; none where it passed. -/
  failed : Option (Nat × Nat)
  deriving DecidableEq, Repr

/-- Crucible (R387–R415). -/
structure CruState where
  /-- Slots 1–1,023, and the use count of slot 0. -/
  keys : Tab KeySlot
  /-- Jobs in flight, in start order. -/
  jobs : List Job
  /-- Draw of the present context key (R405). -/
  ctxKey : Nat
  /-- Last ring served at each priority (R408). -/
  served : Tab Nat
  deriving DecidableEq, Repr

/-- A MACsec secure association (R288–R293). -/
structure Sa where
  slot : Nat
  /-- Next PN to send, or next PN expected. -/
  pn : Nat
  /-- Lowest acceptable PN (receive). -/
  low : Nat
  ssci : Nat
  salt : List Byte
  sci : Nat
  stopped : Bool
  warned : Bool
  deriving DecidableEq, Repr

/-- A retained training record (R279): mode, role, the adapted coefficients and the channel signature, which come from
the channel, and the CRC-32C over them. -/
structure RtRecord where
  mode : Nat
  master : Bool
  coeff : Nat
  signature : Nat
  crc : Word
  deriving DecidableEq, Repr

/-- An egress timestamp (R287): seconds, nanoseconds and the top 16 bits of FRAC (R120), with its TS_TAG. -/
structure TxStamp where
  sec : Nat
  ns : Nat
  frac : Nat
  tag : Nat
  deriving DecidableEq, Repr

/-- A copy that left through port 19 for the gateway (R231, R357). -/
structure IgCopy where
  tunnel : Option Nat
  redirect : Bool
  user : Word
  bytes : List Byte
  inPort : Nat
  /-- Ingress timestamp, in nanoseconds. -/
  rx : Nat
  /-- A tile of it failed its check (R358). -/
  bad : Bool
  deriving DecidableEq, Repr

/-- MACsec work of a port with PATH = 1, which waits among Crucible's ring work (R291, R408): a received frame with its
ingress timestamp, or the copy in transmission. -/
inductive SharedWork where
  | rx (port : Nat) (wire : List Byte) (sec ns frac : Nat)
  | tx (port : Nat)
  deriving DecidableEq, Repr

/-- The bytes a port's verify buffer holds for it (R290). -/
def SharedWork.held (p : Nat) : SharedWork → Nat
  | .rx q wire _ _ _ => if q = p then wire.length else 0
  | .tx _ => 0

def SharedWork.port : SharedWork → Nat
  | .rx p _ _ _ _ => p
  | .tx p => p

/-- The Ethernet ports (R272–R300). -/
structure EthState where
  /-- Transmit SA of port p, AN a at p × 4 + a. -/
  txSa : Tab (Option Sa)
  /-- Active transmit AN of a port. -/
  txAn : Tab (Option Nat)
  /-- Receive SA of port p, channel c, AN a at p × 32 + c × 4 + a. -/
  rxSa : Tab (Option Sa)
  /-- Egress timestamp FIFOs, oldest first. -/
  txts : Tab (List TxStamp)
  /-- Retained records in SRAM, and those in flash. -/
  rt : Tab (Option RtRecord)
  rtFlash : Tab (Option RtRecord)
  /-- A retained start whose marker came back and whose probe agreed (R279 steps 2–3). -/
  rtProbed : Tab Bool
  /-- A sleep handshake is running (R281). -/
  sleeping : Tab Bool
  /-- A PoDL source waits for its retry time (R284). -/
  podlRetry : Tab Bool
  /-- A PoDL source is off because its port sleeps, and starts again as the port wakes (R284). -/
  podlAsleep : Tab Bool
  /-- Frames left in the present transmit opportunity of an S port (R283). -/
  plca : Tab Nat
  /-- Shared MACsec work, in arrival order (R408). -/
  shared : List SharedWork
  /-- Copies delivered to the gateway, oldest first. -/
  igRx : List IgCopy
  deriving DecidableEq, Repr, Inhabited

end Sys2Proof.Machine
end

