-- ==== Sys2Proof/Machine/StateFrame.lean ====
section
/-! DEFINITION. State of the frame path: the frame store (SWC), the parse engines (PRS), the rule tables (RUL) and the
traffic manager (TMG). -/

namespace Sys2Proof.Machine

/-! ### Frame store -/

/-- A frame in tiles: its stored bytes, its tiles, and its metadata (R131, R138, R140, R180). -/
structure Frame where
  id : Nat
  /-- The `L` stored bytes, destination address to FCS. -/
  bytes : List Byte
  tiles : List Nat
  port : Nat
  tc : Nat
  vid : Nat
  pcp : Nat
  tagged : Bool
  prio : Bool
  /-- Bytes of SecTAG and ICV removed after MACsec verification; zero where none was made (TAGS bit 2, R290). -/
  macsec : Nat
  seq : Nat
  rxSec : Nat
  rxNs : Nat
  rxFrac : Nat
  /-- Egress timestamps asked for by an IC descriptor, and its TS_TAG (R294). -/
  tsReq : Bool
  tsTag : Nat
  /-- FCLK count as its last tile was written (R258). -/
  fclk : Nat
  /-- Copies that still hold it (R149); none before its verdict. -/
  refs : Option Nat
  deriving DecidableEq, Repr

/-- One copy of a frame for an egress port, with what the egress path applies to it (R132, R593, R229). -/
structure Copy where
  frame : Nat
  port : Nat
  tc : Nat
  /-- Charged tiles N. -/
  n : Nat
  mirror : Bool
  /-- Egress VID (R593). -/
  vid : Nat
  /-- The copy leaves untagged (R159). -/
  untag : Bool
  /-- The rewrite entry copied into the descriptor (R227). -/
  rewrite : Option (List Byte)
  /-- The sequence number of an R-TAG to insert (R162). -/
  rtag : Option Nat
  /-- Remove the stored R-TAG (R162). -/
  pop : Bool
  /-- Leaves with DEI 1 (R256). -/
  dei : Bool
  tsReq : Bool
  /-- REASON and USER, for copies to ports 18–20 (R192). -/
  reason : Nat
  user : Word
  redirect : Bool
  tunnel : Option Nat
  /-- Ingress sequence number and stream, for its lane. -/
  seq : Nat
  stream : Nat
  /-- FCLK count of its release into the queue (R260). -/
  released : Nat
  /-- The association number of the transmit SA as the frame started (R293). -/
  an : Option Nat
  /-- FCLK count as its present fragment began, bytes sent in earlier fragments, and the bytes of the present one at
  which the MAC will cut it (R254). -/
  began : Nat
  gone : Nat
  cutLen : Option Nat
  deriving DecidableEq, Repr

/-- A resequencer lane: the expected number E, and the items held by number; none is a hole (R150, R151). -/
structure Lane where
  e : Nat
  items : List (Nat × Option Copy)
  deriving DecidableEq, Repr

/-- A lane of a stream that has given no number. -/
def Lane.zero : Lane := { e := 0, items := [] }

/-- A VLAN entry (R156): three port sets of 21 bits. -/
structure Vlan where
  member : Nat
  untag : Nat
  flood : Nat
  deriving DecidableEq, Repr

def Vlan.zero : Vlan := { member := 0, untag := 0, flood := 0 }

/-- A forwarding entry (R157). -/
structure Fdb where
  vid : Nat
  da : List Byte
  ports : Nat
  deriving DecidableEq, Repr

/-- An FRER stream (R162, R163). -/
structure Frer where
  word : Word
  resetMs : Nat
  /-- Next number of the sequence generator. -/
  gen : Nat
  /-- Recovery: last number, history bits (bit 0 the last number), and whether any number is taken next. -/
  recov : Nat
  history : Nat
  takeAny : Bool
  passed : Nat
  discarded : Nat
  outOfOrder : Nat
  rogue : Nat
  tagless : Nat
  resets : Nat
  deriving DecidableEq, Repr

def Frer.zero : Frer :=
  { word := 0, resetMs := 0, gen := 0, recov := 0, history := 0, takeAny := true, passed := 0, discarded := 0,
    outOfOrder := 0, rogue := 0, tagless := 0, resets := 0 }

/-- A verdict handed to SWC by a context or a stop (R193): the frame, its record, and the pour it was judged under. -/
structure Verdict where
  frame : Nat
  words : List Word
  pour : Option Nat
  /-- Context that handed it and the FCLK count of the hand-over, for R258's order. -/
  ctx : Nat
  at_ : Nat
  deriving DecidableEq, Repr

/-- A frame that left the part through a port (model's own record of what was sent). -/
structure Sent where
  port : Nat
  bytes : List Byte
  /-- The FCS was made invalid on purpose (R135). -/
  badFcs : Bool
  deriving DecidableEq, Repr

/-- SWC (R131–R170). -/
structure SwcState where
  frames : List Frame
  nextId : Nat
  suspect : List Nat
  /-- Suspect tiles that failed again and leave the free list when freed (R136). -/
  doomed : List Nat
  retired : List Nat
  /-- Next number of each stream, port × 8 + TC (R140). -/
  numbers : Tab Nat
  /-- Numbered frames waiting for a context, by port × 2, plus 1 for the express queue (R141, R173). -/
  fifo : Tab (List Nat)
  verdicts : List Verdict
  /-- Lane of egress port p and stream k at p × 168 + k. -/
  lanes : Tab Lane
  /-- Copies released into queue q, oldest first. -/
  queues : Tab (List Copy)
  vlans : Tab Vlan
  /-- Bucket × 4 + way. -/
  fdb : Tab (Option Fdb)
  frer : Tab Frer
  /-- The copy in transmission on a port (R149, R239). -/
  tx : Tab (Option Copy)
  /-- A preemptable copy that was cut and waits to resume (R254). -/
  cut : Tab (Option Copy)
  sent : List Sent
  deriving DecidableEq, Repr, Inhabited

/-! ### Parse engines -/

/-- Work of a context that has not landed (R185–R189). -/
inductive Pend where
  | look (d : Nat) (result : Word)
  /-- A scan, the `n`th of its frame. -/
  | scan (d n : Nat) (start group : Nat)
  deriving DecidableEq, Repr

/-- A frame a context holds: the frame, whether its header window failed its check, its pour slot and pour, and
whether it came from an express queue (R173–R176). -/
structure Taken where
  frame : Nat
  bad : Bool
  slot : Option Nat
  pour : Option Nat
  express : Bool
  /-- Program bank active at its parse start (R197). -/
  bank : Option Nat
  entry : Nat
  deriving DecidableEq, Repr

/-- The state of a context running a frame (R178). -/
structure Run where
  t : Taken
  pc : Nat
  g : List Word
  z : Bool
  c : Bool
  cursor : Nat
  kb : List Word
  words : List Word
  icount : Nat
  overread : Bool
  lookups : Nat
  scans : Nat
  pend : List Pend
  /-- The express budget was exceeded and counted (R195). -/
  overBudget : Bool
  deriving DecidableEq, Repr

/-- A context: the frame in progress and the second window buffer (R174). -/
structure Ctx where
  run : Option Run
  next : Option Taken
  deriving DecidableEq, Repr

def Ctx.idle : Ctx := { run := none, next := none }

/-- A scan handed to PRS: its context, its number within the frame, the cycles a pattern unit spends on it, and an FCLK
count: of its issue while it waits, of its end once a unit works on it (R188, R189). -/
structure Scan where
  ctx : Nat
  n : Nat
  cycles : Nat
  at_ : Nat
  deriving DecidableEq, Repr

/-- PRS (R171–R203). -/
structure PrsState where
  ctxs : Tab Ctx
  /-- Instruction i of bank b at b × 8192 + i. -/
  store : Tab Word
  /-- Round-robin pointers: the port last served, express and normal (R173). -/
  rrExpress : Nat
  rrNormal : Nat
  /-- Scans that pattern units work on, at most 4 (R188). -/
  units : List Scan
  /-- Scans that wait for a unit: express ones, then normal ones, in issue order (R189). -/
  waitExpress : List Scan
  waitNormal : List Scan
  deriving DecidableEq, Repr, Inhabited

/-! ### Rule tables -/

/-- Version marks of an entry (R205). -/
structure Marks where
  birth : Option Nat
  death : Option Nat
  deriving DecidableEq, Repr

/-- A versioned entry of a rule table: its content and its marks. -/
structure Entry (α : Type) where
  val : α
  marks : Marks
  deriving DecidableEq, Repr

/-- A flow entry (R221). -/
structure Flow where
  key : List Word
  result : Word
  deriving DecidableEq, Repr

/-- A ternary rule (R222): 320-bit value and mask. -/
structure Ternary where
  value : Nat
  mask : Nat
  result : Word
  deriving DecidableEq, Repr

/-- A pattern (R223). -/
structure Pattern where
  group : Nat
  len : Nat
  bytes : List Byte
  mask : Nat
  nocase : Bool
  deriving DecidableEq, Repr

/-- A verdict entry (R225): record words 0–5 and SET. -/
structure VerdictEntry where
  words : List Word
  set : Nat
  deriving DecidableEq, Repr

/-- A logged change of a pour (R210): table 0–4, key or index, and whether it is a BIRTH mark. -/
structure Change where
  table : Nat
  key : Nat
  birth : Bool
  deriving DecidableEq, Repr

/-- The staged pour (R208, R218). -/
structure Staging where
  pour : Nat
  owner : Nat
  log : List Change
  committing : Bool
  deriving DecidableEq, Repr

/-- RUL (R204–R236). -/
structure RulState where
  /-- Bucket × 4 + way. -/
  flow : Tab (Option (Entry Flow))
  acl : Tab (Option (Entry Ternary))
  pats : Tab (Option (Entry Pattern))
  verdicts : Tab (Option (Entry VerdictEntry))
  rewrites : Tab (Option (Entry (List Byte)))
  staged : Option Staging
  /-- Last committed pour (R208). -/
  last : Option Nat
  /-- Live pours, oldest first: slot and number; the last is CURRENT (R214). -/
  live : List (Nat × Nat)
  /-- Logs of committed pours not yet swept, in pour order (R216). -/
  logs : List (Nat × List Change)
  deriving DecidableEq, Repr, Inhabited

/-! ### Traffic manager -/

/-- A course (R240). -/
structure Course where
  gates : Nat
  op : Nat
  dur : Nat
  deriving DecidableEq, Repr

/-- The list in force on a port: its bank, the course in force and the instant it ends (R240). -/
structure InForce where
  bank : Nat
  base : Nat
  idx : Nat
  ends : Nat
  deriving DecidableEq, Repr

/-- A pending switch (R242): bank or OFF, and its instant. -/
structure Switch where
  bank : Option Nat
  at_ : Nat
  deriving DecidableEq, Repr

/-- A policer entry (R256–R258). Tokens are in 1/65,536 byte. -/
structure Policer where
  cfg : Word
  cir : Nat
  cbs : Nat
  pir : Nat
  pbs : Nat
  maxSdu : Nat
  blocked : Bool
  ctok : Nat
  ptok : Nat
  /-- Largest FCLK count judged (R258). -/
  last : Nat
  green : Nat
  yellow : Nat
  red : Nat
  gateClosed : Nat
  oversize : Nat
  deriving DecidableEq, Repr

def Policer.zero : Policer :=
  { cfg := 0, cir := 0, cbs := 0, pir := 0, pbs := 0, maxSdu := 0, blocked := false, ctok := 0, ptok := 0, last := 0,
    green := 0, yellow := 0, red := 0, gateClosed := 0, oversize := 0 }

/-- An entry of a stream gate schedule (R259). -/
structure GateEntry where
  word : Word
  dur : Nat
  deriving DecidableEq, Repr

/-- A stream gate schedule (R259). -/
structure StreamGate where
  en : Bool
  base : Nat
  /-- Its first instant: before it the schedule is idle (R54). -/
  first : Nat
  entries : List GateEntry
  deriving DecidableEq, Repr

def StreamGate.zero : StreamGate := { en := false, base := 0, first := 0, entries := [] }

/-- A token bucket: credit in 1/65,536 byte, and the FCLK count it was last brought up to date (R248). -/
structure Bucket where
  credit : Int
  stamp : Nat
  deriving DecidableEq, Repr

def Bucket.zero : Bucket := { credit := 0, stamp := 0 }

/-- TMG (R237–R271). -/
structure TmgState where
  /-- Course-list bank b of port p at p × 2 + b. -/
  banks : Tab (List Course)
  force : Tab (Option InForce)
  switch : Tab (Option Switch)
  /-- Shaper credit of a queue; committed credit of group g at 1000 + g, peak at 2000 + g. -/
  credits : Tab Bucket
  /-- DRR pointer of a port and visit marks of queues (R251). -/
  drr : Tab Nat
  visit : Tab Bool
  verifyTries : Tab Nat
  policers : Tab Policer
  gates : Tab StreamGate
  deriving DecidableEq, Repr, Inhabited

end Sys2Proof.Machine
end

