-- ==== Sys2Proof/Machine/StateCln.lean ====
section
/-! DEFINITION. State of the CAN and LIN channels (CLN) that their registers do not hold. -/

namespace Sys2Proof.Machine

/-- A CAN frame (R305): format 0 classical, 1 FD, 2 FD with BRS, 3 XL. -/
structure Can where
  fmt : Nat
  id : Nat
  ide : Bool
  /-- RTR of a classical frame, RRS of an FD or XL one. -/
  rr : Bool
  esi : Bool
  data : List Byte
  sdt : Nat
  vcid : Nat
  sec : Bool
  af : Nat
  deriving DecidableEq, Repr

/-- A classical frame of identifier 0 and no data. -/
def Can.zero : Can :=
  { fmt := 0, id := 0, ide := false, rr := false, esi := false, data := [], sdt := 0, vcid := 0, sec := false, af := 0 }

/-- A transmit buffer (R310–R316). -/
structure TxBuf where
  /-- 0 EMPTY, 1 WAITING, 2 PENDING, 3 TX, 4 DONE, 5 ABANDONED, 6 ABORTED. -/
  st : Nat
  frame : Can
  limit : Nat
  retries : Nat
  coll : Nat
  timing : Nat
  /-- Schedule time, or the instant of a cyclic buffer's next occurrence. -/
  at_ : Nat
  base : Nat
  period : Nat
  /-- Network time of the last SOF edge, in nanoseconds. -/
  sof : Nat
  /-- CLN_CAN_TX_ABORT waits for the frame to end. -/
  abort : Bool
  /-- A forward step skipped the schedule time (R56). -/
  late : Bool
  deriving DecidableEq, Repr

/-- A buffer never loaded. -/
def TxBuf.zero : TxBuf :=
  { st := 0, frame := Can.zero, limit := 0, retries := 0, coll := 0, timing := 0, at_ := 0, base := 0, period := 0,
    sof := 0, abort := false, late := false }

/-- A receive filter (R317). -/
structure Filter where
  en : Bool
  reject : Bool
  ide : Bool
  formats : Nat
  id : Nat
  mask : Nat
  deriving DecidableEq, Repr

def Filter.zero : Filter := { en := false, reject := false, ide := false, formats := 0, id := 0, mask := 0 }

/-- A channel's wake configuration (R322). -/
structure WakeCfg where
  mode : Nat
  rate : Nat
  ide : Bool
  dataMatch : Bool
  dlc : Nat
  id : Nat
  idMask : Nat
  dataMask : List Byte
  deriving DecidableEq, Repr

def WakeCfg.zero : WakeCfg :=
  { mode := 0, rate := 0, ide := false, dataMatch := false, dlc := 0, id := 0, idMask := 0, dataMask := [] }

/-- The running range of a LIN schedule (R325). -/
structure LinRun where
  first : Nat
  last : Nat
  /-- Entry in progress and the end of its slot. -/
  slot : Nat
  ends : Nat
  deriving DecidableEq, Repr

/-- What waits for the end of a slot: a switch to a range at an instant, a stop, or the go-to-sleep frame. -/
inductive LinNext where
  | switch (first last at_ : Nat)
  | stop
  | sleep
  deriving DecidableEq, Repr

/-- The frame a LIN channel has on its bus: the header's identifier, its entry's type and length, the response it
publishes (none for a subscribed one), the break start, and whether it is the go-to-sleep frame. -/
structure LinFrame where
  id : Nat
  typ : Nat
  len : Nat
  enhanced : Bool
  publish : Option (List Byte)
  start : Nat
  toSleep : Bool
  deriving DecidableEq, Repr

/-- A publish buffer (R326). -/
structure Publish where
  data : List Byte
  updated : Bool
  deriving DecidableEq, Repr

def Publish.zero : Publish := { data := List.replicate 8 0, updated := false }

/-- What a channel sent (model's own record of what left the part): a CAN frame, a dominant ACK slot (R599), an error
frame; a LIN header with its break and delimiter in bits and its protected identifier, a response with its checksum
(R323), a wake pulse (R328). -/
inductive BusSent where
  | can (ch : Nat) (frame : Can)
  | canAck (ch : Nat)
  | canError (ch : Nat)
  | linHeader (m brk delim pid : Nat)
  | linResponse (m id : Nat) (data : List Byte) (chk : Nat)
  | linPulse (m : Nat)
  deriving DecidableEq, Repr

/-- CLN (R301–R331). -/
structure ClnState where
  /-- Buffer i of channel ch at ch × 64 + i. -/
  bufs : Tab TxBuf
  filters : Tab Filter
  wake : Tab WakeCfg
  /-- Frame error counters of the transceivers (R322). -/
  wufErr : Tab Nat
  /-- Error counters (R307). -/
  tec : Tab Nat
  recv : Tab Nat
  /-- A change of MODE waits for the frame in progress (R308): the channel enters this state. -/
  modeNext : Tab (Option Nat)
  /-- A frame of another node is in progress on the channel's bus. -/
  busy : Tab Bool
  /-- Schedule entry i of LIN channel m at m × 64 + i: its two words. -/
  sched : Tab (Word × Word)
  runs : Tab (Option LinRun)
  next : Tab (Option LinNext)
  onBus : Tab (Option LinFrame)
  /-- Publish buffer of identifier i of channel m at m × 64 + i. -/
  publish : Tab Publish
  sent : List BusSent
  deriving DecidableEq, Repr, Inhabited

def ClnState.reset : ClnState :=
  { bufs := [], filters := [], wake := [], wufErr := [], tec := [], recv := [], modeNext := [], busy := [], sched := [], runs := [], next := [],
    onBus := [], publish := [], sent := [] }

end Sys2Proof.Machine
end

