-- ==== Sys2Proof/Machine/StateQry.lean ====
section
/-! DEFINITION. State of Quarry's pools and of the sprue FIFOs (QRY) that their registers do not hold. -/

namespace Sys2Proof.Machine

/-- An enabled pool: the blocks never allocated since the enable are those from `mark` on; `freed` are the blocks freed
since, oldest first; `held` are the ALLOCATED blocks with their owners; `scrub` those being zeroed (R366, R371). -/
structure Pool where
  mark : Nat
  freed : List Nat
  held : List (Nat × Nat)
  scrub : List Nat
  deriving DecidableEq, Repr

/-- A pool with nothing allocated. -/
def Pool.zero : Pool := { mark := 0, freed := [], held := [], scrub := [] }

/-- A word of a sprue FIFO: 64 data bits, TAG (0 DATA, 1 END, 2 GAP, 3 POISON) and its parity bit (R375). -/
structure SWord where
  data : Nat
  tag : Nat
  par : Bool
  deriving DecidableEq, Repr

/-- Even parity over the 66 data and tag bits. -/
def evenParity (data tag : Nat) : Bool :=
  (List.range 66).foldl (fun b i => b ^^ (data + tag * 2 ^ 64).testBit i) false

/-- A word as the FIFO takes it at the write: it computes the parity bit (R375). -/
def SWord.mk' (data tag : Nat) : SWord := { data := data, tag := tag, par := evenParity data tag }

/-- A word whose parity is wrong (R378). -/
def SWord.fails (w : SWord) : Bool := evenParity w.data w.tag != w.par

/-- A sprue FIFO (R375–R382): its 16 stages, stage 0 first. -/
structure Fifo where
  stages : List (Option SWord)
  /-- Words the producer has written of its open packet. -/
  written : Nat
  /-- The producer's words are discarded through END (R381). -/
  losing : Bool
  /-- Packets discarded since the last GAP. -/
  gaps : Nat
  /-- The consumer has taken the first word of a packet and not its last. -/
  mid : Bool
  /-- A DROP_REST is in force: the rest of the packet being taken is discarded at stage 0 (R380). -/
  dropping : Bool
  /-- The rest of a packet of which a word failed parity is discarded at stage 0 (R378). -/
  failing : Bool
  deriving DecidableEq, Repr

/-- An empty FIFO. -/
def Fifo.zero : Fifo :=
  { stages := List.replicate 16 none, written := 0, losing := false, gaps := 0, mid := false, dropping := false,
    failing := false }

/-- QRY (R365–R386, R602). -/
structure QryState where
  pools : Tab Pool
  fifos : Tab Fifo
  /-- Words that the producer of hardware FIFO n, 0–24, holds and has not written yet, by packet, oldest first: of the
  first it may have written some (R319, R376). -/
  hw : Tab (List (List SWord))
  log : List LogEntry
  latch : Tab LogEntry
  /-- ALLOC_HI as each master reads it, by master × 32 + requester. -/
  allocHi : Tab Word
  deriving DecidableEq, Repr, Inhabited

end Sys2Proof.Machine
end

