-- ==== Sys2Proof/Machine/StateGwy.lean ====
section
/-! DEFINITION. State of the gateway engine (GWY) and its network management engines that their registers do not
hold. -/

namespace Sys2Proof.Machine

/-- A message (R332, R333): a CAN or LIN frame as GWY takes it. -/
structure Msg where
  src : Nat
  bus : Nat
  frame : Can
  /-- A LIN message, of a LIN channel or of an ACF LIN message. -/
  lin : Bool
  rx : Nat
  release : Option Nat
  /-- Error flags of a LIN record: word 1 bits 17:13. -/
  errs : Nat
  authOk : Bool
  deriving DecidableEq, Repr

/-- A route (R338): its 48 bytes and its freshness value. -/
structure Route where
  bytes : List Byte
  fresh : Nat
  deriving DecidableEq, Repr

/-- An authentication profile (R340). -/
structure Profile where
  key : Nat
  macLen : Nat
  freshLen : Nat
  window : Nat
  deriving DecidableEq, Repr

/-- A profile never written. -/
def Profile.zero : Profile := { key := 0, macLen := 0, freshLen := 0, window := 0 }

/-- A CMAC job of a route's first waiting message: the profile and the key it started with, and its candidate
freshness. -/
structure AuthJob where
  profile : Profile
  key : List Byte
  cand : Nat
  deriving DecidableEq, Repr

/-- A message behind its route's lookup that waits for a job, with the entry as it was read (R337, R345). -/
structure AuthWait where
  msg : Msg
  route : Nat
  entry : List Byte
  job : Option AuthJob
  deriving DecidableEq, Repr

/-- A message held in a Quarry block (R344). -/
structure Held where
  id : Nat
  block : Nat
  req : Nat
  msg : Msg
  len : Nat
  maxAge : Nat
  route : Nat
  refs : Nat
  deriving DecidableEq, Repr

/-- A copy that waits for its release time (R352): the target's 8 bytes, and whether a forward step skipped its time
(R56). -/
structure Timed where
  at_ : Nat
  mid : Nat
  target : List Byte
  late : Bool
  deriving DecidableEq, Repr

/-- A copy in a channel's queue (R348): of a held message, or of an NM engine. -/
structure CanCopy where
  mid : Option Nat
  frame : Can
  limit : Nat
  deriving DecidableEq, Repr

/-- A tunnel (R353). -/
structure Tunnel where
  flags : Word
  da : List Byte
  vidPcp : Nat
  streamOut : List Byte
  streamIn : List Byte
  bundleMax : Nat
  maxPayload : Nat
  timeoutUs : Nat
  latencyUs : Nat
  /-- Next sequence_num sent, and the last received. -/
  seqOut : Nat
  seqIn : Option Nat
  /-- Messages of the open bundle. -/
  bundle : List (List Byte)
  deriving DecidableEq, Repr

def Tunnel.zero : Tunnel :=
  { flags := 0, da := [], vidPcp := 0, streamOut := [], streamIn := [], bundleMax := 0, maxPayload := 0, timeoutUs := 0,
    latencyUs := 0, seqOut := 0, seqIn := none, bundle := [] }

/-- GWY (R332–R364, R508–R512). -/
structure GwyState where
  /-- Bucket × 4 + way. -/
  routes : Tab (Option Route)
  /-- Default key of a source (R337). -/
  defaults : Tab (Option (List Byte))
  profiles : Tab Profile
  waits : List AuthWait
  held : List Held
  nextId : Nat
  timed : List Timed
  queues : Tab (List CanCopy)
  tunnels : Tab Tunnel
  /-- Bytes 2–7 of the last PDU an NM engine received. -/
  lastUdata : Tab (List Byte)
  /-- Packets taken whole from sprue FIFO n and not acted on, oldest first (R334). -/
  inbox : Tab (List (List SWord))
  /-- Words taken of the packet in progress of sprue FIFO n (R334, R601). -/
  taking : Tab (List SWord)
  /-- FIFOs whose packet in progress had begun before a reset of GWY: its rest is dropped. -/
  skip : List Nat
  /-- A reset of GWY lasts until the next tick: it takes no word (R601). -/
  stopped : Bool
  deriving DecidableEq, Repr, Inhabited

def GwyState.reset : GwyState :=
  { routes := [], defaults := [], profiles := [], waits := [], held := [], nextId := 0, timed := [], queues := [],
    tunnels := [], lastUdata := [], inbox := [], taking := [], skip := [], stopped := false }

end Sys2Proof.Machine
end

