-- ==== Sys2Proof/Machine/StateHbr.lean ====
section
/-! DEFINITION. State of the PCIe host bridge (HBR) that its registers do not hold. -/

namespace Sys2Proof.Machine

/-- One event group of a function: its pending bits and its side-band status area (R534, R536). -/
structure SbGroup where
  addr : Nat
  pend : Word
  seq : Word
  /-- The write that made PEND non-zero has completed: ACK is polled (R536 rule 2). -/
  ready : Bool
  /-- A status write is in flight. -/
  inFlight : Bool
  /-- A status write is due: an event or a clearance since the last one (R536 rule 1). -/
  want : Bool
  /-- The bits set in the last status write. -/
  written : Word
  /-- The bits an event set since the last status write was made. -/
  since : Word
  /-- An acknowledgement poll is outstanding. -/
  polling : Bool
  /-- A status write failed and is made again at the next poll. -/
  retry : Bool
  /-- Writes issued before the event that asked for the next status write have a lower number (R535). -/
  mark : Nat
  deriving DecidableEq, Repr

/-- A group with nothing pending. -/
def SbGroup.zero : SbGroup :=
  { addr := 0, pend := 0, seq := 0, ready := false, inFlight := false, want := false, written := 0, since := 0, polling := false, retry := false,
    mark := 0 }

/-- One PCIe function: its configuration and its function page (R523, R534, R535). -/
structure Fn where
  /-- A virtual function: SR-IOV has brought it into being. -/
  present : Bool
  /-- The dwords of its configuration space that are written, by offset; the others stand at their reset value (log
  entry 23). -/
  cfg : Tab Word
  grpMode : Word
  pollUs : Nat
  errVec : Nat
  /-- Groups 0–3. -/
  groups : Tab SbGroup
  /-- Vector of source s, by s. -/
  evtVec : Tab Nat
  /-- The MSI-X table, 512 bytes. -/
  msix : Tab Byte
  pba : Word
  deriving DecidableEq, Repr, Inhabited

/-- A function after reset: POLL_US 20, everything else zero. -/
def Fn.zero : Fn :=
  { present := false, cfg := [], grpMode := 0, pollUs := 20, errVec := 0, groups := [], evtVec := [], msix := [], pba := 0 }

/-! ### The configuration space (R522–R525; its addresses: log entry 23) -/

/-- Reset value of what the host may write in a configuration dword: Device Control enables relaxed ordering and no
snoop and reads of 512 bytes; AER's severities and correctable mask stand as PCI Express gives them. -/
def cfgReset (off : Nat) : Word :=
  if off = 0x68 then 0x2810 else if off = 0x10C then 0x00462030 else if off = 0x114 then 0x2000 else 0

/-- The writable part of a function's configuration dword. -/
def Fn.word (x : Fn) (off : Nat) : Word := tget (cfgReset off) x.cfg off

/-- A configuration dword replaced. -/
def Fn.setWord (x : Fn) (off : Nat) (v : Word) : Fn := { x with cfg := tput (cfgReset off) x.cfg off v }

/-- Bus Master Enable of the Command register. -/
def Fn.busMaster (x : Fn) : Bool := bitOf (x.word 0x04) 2
/-- D-state: 0 D0, 3 D3hot. -/
def Fn.dstate (x : Fn) : Nat := fld (x.word 0x44) 1 0
/-- MSI-X Enable and Function Mask. -/
def Fn.msixEn (x : Fn) : Bool := bitOf (x.word 0x50) 31
def Fn.msixMask (x : Fn) : Bool := bitOf (x.word 0x50) 30

/-- What an outbound PCIe request was made for (R530, R531, R536). A write is in flight as its flushing read. -/
inductive OutKind where
  | write | read | sbWrite (g : Nat) | sbPoll (g : Nat)
  deriving DecidableEq, Repr

/-- An outbound request in flight, or waiting for a tag (R530–R532). -/
structure OutReq where
  tag : Nat
  kind : OutKind
  initiator : Nat
  fn : Nat
  /-- Its region; 16 for the bridge's own. -/
  region : Nat
  addr : Nat
  pciAddr : Nat
  len : Nat
  data : List Byte
  /-- Order of issue. -/
  serial : Nat
  deriving DecidableEq, Repr

/-- A PCIe message the bridge sent: an outbound memory request, an MSI-X message, or a completion of an inbound
request (model's own record of what left the part). -/
inductive PcieSent where
  | memWrite (fn addr : Nat) (data : List Byte)
  | memRead (fn addr len : Nat)
  | msix (fn vector addr : Nat) (data : Word)
  | completion (fn tag status : Nat) (data : List Byte)
  /-- An ERR_NONFATAL message (R528). -/
  | errNonfatal (fn : Nat)
  deriving DecidableEq, Repr

/-- HBR (R522–R541). -/
structure HbrState where
  linkUp : Bool
  fns : Tab Fn
  /-- Requests in flight, at most 64, and those that wait for a tag, oldest first. -/
  requests : List OutReq
  waiting : List OutReq
  nextTag : Nat
  /-- Requests issued so far. -/
  serial : Nat
  log : List LogEntry
  latch : Tab LogEntry
  /-- MSI-X messages to be sent: function, vector, and the number of requests issued before the event (R535). -/
  msixQueue : List (Nat × Nat × Nat)
  sent : List PcieSent
  /-- Responses returned to initiators: master, error, data. -/
  responses : List (Nat × Bool × List Byte)
  /-- Vendor, Device, VF Device, Subsystem Vendor and Subsystem ID, two bytes each, of the image (R524, R548). -/
  ids : List Byte
  deriving DecidableEq, Repr, Inhabited

/-- Max payload size of outbound writes: 128 or 256 bytes, as PF0's Device Control has it (R522). -/
def HbrState.mps (h : HbrState) : Nat := if fld ((tget Fn.zero h.fns 0).word 0x68) 7 5 = 0 then 128 else 256

end Sys2Proof.Machine
end

