-- ==== Sys2Proof/Machine/StateKey.lean ====
section
/-! DEFINITION. State of Keystone (KEY) that its registers do not hold. -/

namespace Sys2Proof.Machine

/-- A wake-log entry (R518): SOURCE and SUB with VALID, FALSE and LATCHED, and KSEC. -/
structure WakeLog where
  word : Word
  ksec : Word
  deriving DecidableEq, Repr

/-- Keystone (R498–R521, R574). -/
structure KeyState where
  /-- Wake log, newest first, at most 16. -/
  log : List WakeLog
  /-- KSEC of a source's false wakes, newest first, at most 15 (R506, R507). -/
  history : Tab (List Nat)
  /-- TCLK ticks toward the next second of KSEC. -/
  ticks : Nat
  /-- Wakes latched during power-off, first one first: source and SUB (R515). -/
  latched : List (Nat × Nat)
  /-- Wakes held while VBAT_L is below 6.0 V (R574). -/
  held : List (Nat × Nat)
  /-- VBAT_L has not been seen below 6.0 V since it last stayed at or above it for 1 ms. -/
  supplyGood : Bool
  /-- Sources but POWER_ON and KL15 are ignored after an OFF reaction (R556). -/
  ignoring : Bool
  /-- The power-off under way is an OFF reaction (R556). -/
  offReaction : Bool
  /-- The wake timer runs (R502). -/
  timer : Bool
  /-- PCLK cycle of local time in which a source last fired while the module was ON (R513). -/
  fired : Option Nat
  /-- The battery was connected, or the power die reset, and no power-up has begun since (R500, R502). -/
  powerOn : Bool
  /-- A power-up has begun and its Ladle pour has not completed (R503). -/
  pouring : Bool
  /-- Ports that had TC10_EN = 1 at the last power-off, as bits (R282). -/
  armed : Nat
  deriving DecidableEq, Repr, Inhabited

def KeyState.reset : KeyState :=
  { log := [], history := [], ticks := 0, latched := [], held := [], supplyGood := true, ignoring := false, offReaction := false, timer := false, fired := none,
    powerOn := true, pouring := false, armed := 0 }

end Sys2Proof.Machine
end

