-- ==== Sys2Proof/Machine/StateOut.lean ====
section
/-! DEFINITION. State of the safety domains (LSC), the output-redundancy receiver (ORD) and the load channels (LCH) that
their registers do not hold. -/

namespace Sys2Proof.Machine

/-- A frame of an output link (R446): its header word, its body words and its CRC-32C word. -/
structure OFrame where
  header : Word
  body : List Word
  crc : Word
  /-- The link was cut while it was in transmission, so its CRC fails (R446). -/
  cut : Bool
  deriving DecidableEq, Repr

/-- SEQ, KIND and LEN of a frame's header: KIND 0 is a status frame. -/
def OFrame.seq (f : OFrame) : Nat := fld f.header 15 0
def OFrame.kind (f : OFrame) : Nat := fld f.header 19 16
def OFrame.len (f : OFrame) : Nat := fld f.header 24 20

/-- A safety domain and its output port (R424, R442–R447). -/
structure Dom where
  /-- LSC_INJECT waits for Drag's next compared output (R439). -/
  inject : Bool
  /-- A fault or LSC_RESTART put it in reset, which ends 50 µs later (R428, R431). -/
  resetting : Bool
  /-- Frames that wait for the link, in order; the messages among them are at most 16 (R443). -/
  queue : List OFrame
  /-- Architectural state of Cope and of Drag, or of the second core while split, at the last instruction boundary where
  it was taken: the words of R430 in their order. -/
  cope : List Word
  drag : List Word
  /-- Local time (ticks) of the domain's last reset, from which its cycle and time CSRs count (R424). -/
  born : Nat
  /-- dcsr of Cope, with its mode in bits 1:0 (0 U, 3 M), and of the second core (R423, R424; log entry 12). -/
  dcsr : Nat
  dcsr2 : Nat
  /-- While the domain is split, the debug module holds Cope, and the second core (R423). -/
  haltCope : Bool
  haltSecond : Bool
  deriving DecidableEq, Repr, Inhabited

/-- dcsr after reset: version 4, M mode. -/
def dcsrReset : Nat := 0x40000003

def Dom.zero : Dom :=
  { inject := false, resetting := false, queue := [], cope := [], drag := [], born := 0, dcsr := dcsrReset,
    dcsr2 := dcsrReset, haltCope := false, haltSecond := false }

/-- A core's words, as many as R430 names. -/
def copyWords (l : List Word) : List Word := (List.range 98).map (fun i => l.getD i 0)

/-- Architectural state of a domain's core as it starts at `pc`, in the order of R430: misa names RV32IMAFC with U mode
(R424), every other word is zero (log entry 65). -/
def coreStart (pc : Nat) : List Word :=
  BitVec.ofNat 32 pc :: List.replicate 65 0 ++ [0x40101125] ++ List.replicate 31 0

/-- LSC (R424–R441). -/
structure LscState where
  /-- Domain 0 is A, 1 is B. -/
  doms : Tab Dom
  /-- Next instant of activation timer k of domain d, by d × 8 + k (R434). -/
  act : Tab Nat
  deriving DecidableEq, Repr

def LscState.reset : LscState := { doms := [], act := [] }

/-- A copy in a skew stage (R450): `wait` is the PCLK cycles from its arrival to the cycle it is eligible in. -/
structure OCopy where
  frame : OFrame
  wait : Nat
  deriving DecidableEq, Repr

/-- ORD (R448–R464). -/
structure OrdState where
  /-- The frame in transmission on each link. -/
  air : Tab (Option OFrame)
  /-- Skew stages, oldest copy first. -/
  stage : Tab (List OCopy)
  /-- The 64 numbers most recently accepted, newest first (R451). -/
  seen : List Nat
  /-- O_STATUS.MIRROR as A last reported it (R459). -/
  aMirror : Bool
  /-- A TAKEOVER was accepted and B has not reported a state but ISOLATED since (R460). -/
  claimed : Bool
  /-- Safety CAN records held for FIFO 24, oldest first, at most 8 (R464). -/
  records : List (List Nat)
  /-- Local time (ticks) and length (ms) of the hold-off and of the swap test. -/
  holdStart : Nat
  holdMs : Nat
  swapStart : Nat
  swapMs : Nat
  deriving DecidableEq, Repr, Inhabited

def OrdState.reset : OrdState :=
  { air := [], stage := [], seen := [], aMirror := false, claimed := false, records := [], holdStart := 0, holdMs := 0,
    swapStart := 0, swapMs := 0 }

/-- A load channel (R471–R493). -/
structure Chan where
  /-- The profile's words as taken at the last profile start (R483). -/
  prof0 : Word
  prof1 : Word
  prof2 : Word
  /-- A profile start in PWM waits for its first rising edge. -/
  starting : Bool
  /-- Ends of the PWM on-intervals in progress, soonest first (R478). -/
  ends : List Nat
  /-- Start of the next PWM on-interval. -/
  next : Nat
  /-- The protection state left for UV_WAIT (R488). -/
  left : Nat
  /-- Local time (ticks) of the last switch-on, PWM rising edges included (R484). -/
  since : Nat
  /-- Length of the PWM on-interval that started last, ns, and the low samples in a row (R489). -/
  on : Nat
  low : Nat
  /-- The last stop by undervoltage or a thermal trip: its PCLK cycle, the registers it found, and whether it set the
  event bit 1 or 2 that was clear (R488). -/
  stopAt : Option Nat
  was : List Word
  setEvent : Nat
  deriving DecidableEq, Repr, Inhabited

/-- A channel after reset: profile slot 0 (R482). -/
def Chan.zero : Chan :=
  { prof0 := 0x18406032, prof1 := 0x00C80814, prof2 := 13200, starting := false, ends := [], next := 0, left := 0,
    since := 0, on := 0, low := 0, stopAt := none, was := [], setEvent := 0 }

/-- LCH (R469–R494). -/
structure LchState where
  chans : Tab Chan
  /-- Commands ORD passed and LCH has not applied, oldest first (R476). -/
  passed : List (List Word)
  /-- Next period start of each timebase (R477). -/
  tbNext : Tab Nat
  /-- Averages of VBATP1 and VBATP2 over each timebase's last period, mV (R480). -/
  avg : Tab (Nat × Nat)
  /-- The power die's own network time in 2^−32 ns, and its rate, while TIM does not distribute it (R494). -/
  clock : Option (Nat × Nat)
  /-- Local time (ticks) and length (ms) of the HOLD window. -/
  holdStart : Nat
  holdMs : Nat
  deriving DecidableEq, Repr

def LchState.reset : LchState :=
  { chans := [], passed := [], tbNext := [], avg := [], clock := none, holdStart := 0, holdMs := 0 }

end Sys2Proof.Machine
end

