-- ==== Sys2Proof/Config.lean ====
section
/-! DEFINITION. What one part fixes, and the free values: constants with no body, of which no proof can see the value. -/

namespace Sys2Proof.Config

/-- SYS.VARIANT_ID of the part modelled (R14): tier A, 40 channels, both steps 1. DESIGN CHOICE (log entry 3). -/
def variantId : Word := 0x000128A1

/-- A free value of the model, fresh for each value of the counter it is applied to (log entry 8). -/
opaque freeNat : Nat → Nat

/-- INCR after a proportional–integral correction; the gains are not given (R111). Log entry 10. -/
opaque piIncr : Nat → Int → BitVec 40

/-- Byte `i` of the fused device key in key slot 0 (R389): unique to each module. Log entry 8. -/
opaque deviceKey : Nat → Byte

/-- Byte `i` of draw `n` from Crucible's entropy source (R405). Log entry 8. -/
opaque entropy : Nat → Nat → Byte

/-- Byte of host memory that a read through an outbound region returns, by the number of requests issued before and the
internal address (log entry 8): the host's memory is no state of the part. -/
opaque hostByte : Nat → Nat → Byte

/-- Whether the host completes a request at a PCIe address well, by the number of requests issued before it (R532, log
entry 8). -/
opaque hostAnswers : Nat → Nat → Bool

/-- The requester ID of the host's root port, in the headers that AER logs (R528). Log entry 23. -/
opaque hostId : BitVec 16

/-- D′ of a channel, by its number, its DUTY and the next period start of its timebase, while no average of its rail is
above zero: the quotient of R480 has no value. Log entry 43. -/
opaque dutyNoRail : Nat → Nat → Nat → Nat

/-- The SECURE fuse of the part (R550). Log entry 8. -/
opaque secure : Bool

/-- The fused SHA-256 of the image key (R550). Log entry 8. -/
opaque keyHash : List Byte

/-! Contents of a block in doubt (R22): any, fresh for each value of the counter they are applied to (log entry 49). -/

open Sys2Proof.Machine

/-- A free truth value, by counter and number. -/
opaque coin : Nat → Nat → Bool

/-- Offsets of a block's registers and the values they take. -/
opaque anyRegs : Nat → List (Nat × Word)
opaque anySys : Nat → SysState
opaque anyMason : Nat → MasonState
opaque anyReply : Nat → Nat → Reply
opaque anyTim : Nat → TimState
opaque anySwc : Nat → SwcState
opaque anyPrs : Nat → PrsState
opaque anyRul : Nat → RulState
opaque anyTmg : Nat → TmgState
opaque anyEth : Nat → EthState
opaque anyCln : Nat → ClnState
opaque anyGwy : Nat → GwyState
opaque anyQry : Nat → QryState
opaque anyDom : Nat → Dom
opaque anyOrd : Nat → OrdState
opaque anyChan : Nat → Nat → Chan
opaque anyKey : Nat → KeyState
opaque anyHbr : Nat → HbrState
opaque anyHlt : Nat → HltState
opaque anyFn : Nat → Fn

/-- Bytes of memory and the values they take. -/
opaque anyMem : Nat → List (Nat × Byte)

/-- A word that an erring master reads, by counter and place in the reply. -/
opaque anyWord : Nat → Nat → Word

/-- What the part measures or samples of the world outside it and no row reports, by local time and the number of the
quantity (log entry 66). -/
opaque sense : Nat → Nat → Word

/-- A cluster hart that has run for a tick (log entry 21): the model executes none of its instructions. -/
opaque anyHart : Nat → Nat → Hart

end Sys2Proof.Config
end

