-- ==== Sys2Proof/Machine/RegMap.lean ====
section
/-! DEFINITION. The register map: every register of the 19 blocks, written out from the chapters' register tables:
where it stands, which bits software writes, clears, sets or only writes, which bits a read clears, which bits are
defined at all, and its reset value. -/

namespace Sys2Proof.Machine

/-- A register, or a field of like registers: `first` offset in its block, then `n1` places `s1` bytes apart and
within each `n2` places `s2` apart. The masks are the field types of R20; `known` are the bits the spec defines
(the rest is reserved, R21). -/
structure RegDesc where
  first : Nat
  n1 : Nat
  s1 : Nat
  n2 : Nat
  s2 : Nat
  rw : Nat
  w1c : Nat
  w1s : Nat
  wo : Nat
  rc : Nat
  known : Nat
  reset : Nat
  deriving DecidableEq, Repr

/-- Whether the descriptor covers a block offset. -/
def RegDesc.hit (d : RegDesc) (off : Nat) : Bool :=
  if off < d.first then false
  else
    let o := off - d.first
    let q1 := o / d.s1
    let r1 := o % d.s1
    decide (q1 < d.n1) && decide (r1 / d.s2 < d.n2) && decide (r1 % d.s2 = 0)

/-- Registers of SYS. -/
def regsSys : List RegDesc :=
  [⟨4, 1, 0, 1, 0, 0, 0, 0, 0, 0, 0xFFFFF, 0⟩,  -- VARIANT_ID
   ⟨0x10, 1, 0, 1, 0, 0, 0, 0, 0, 0xFF0000, 0x40FFFFFF, 0⟩,  -- FENCE
   ⟨0x50, 1, 0, 1, 0, 0xFFF, 0, 0, 0, 0, 0xFFF, 0⟩,  -- GIO_DIR
   ⟨0x54, 1, 0, 1, 0, 0xFFF, 0, 0, 0, 0, 0xFFF, 0⟩,  -- GIO_OUT
   ⟨0x58, 1, 0, 1, 0, 0, 0, 0, 0, 0, 0xFFF, 0⟩,  -- GIO_IN
   ⟨0x20, 1, 0, 1, 0, 0, 0, 0, 0, 0, 0xFFFFFFFF, 0⟩,  -- RESET_CAUSE
   ⟨0x24, 1, 0, 1, 0, 0, 0, 0, 0, 0, 0xFFFFFFFF, 0⟩,  -- BOOT_STATUS
   ⟨0x28, 1, 0, 1, 0, 0, 0, 0, 0, 0, 0xFFFFFFFF, 0⟩,  -- IMAGE_VERSION
   ⟨0x30, 1, 0, 1, 0, 0, 0, 0, 0, 0xFFFFFFFF, 0xFFFFFFFF, 0⟩,  -- ERR_POP_LO
   ⟨0x34, 1, 0, 1, 0, 0, 0, 0, 0, 0, 0xFFFFFFFF, 0⟩,  -- ERR_POP_HI
   ⟨0x38, 1, 0, 1, 0, 0, 0, 0, 0, 0xFFFF0000, 0xFFFF001F, 0⟩,  -- ERR_INFO
   ⟨0x40, 1, 0, 1, 0, 0, 7, 0, 0, 0, 7, 0⟩,  -- EVENT
   ⟨0x44, 1, 0, 1, 0, 7, 0, 0, 0, 0, 7, 0⟩]  -- EVENT_EN

/-- Registers of CMD. -/
def regsCmd : List RegDesc :=
  [⟨0x1000, 0x20, 0x40, 1, 0, 0xFFFFF000, 0, 0, 0, 0, 0xFFFFF000, 0⟩,  -- RING_BASE_LO
   ⟨0x1004, 0x20, 0x40, 1, 0, 0xFF, 0, 0, 0, 0, 0xFF, 0⟩,  -- RING_BASE_HI
   ⟨0x1008, 0x20, 0x40, 1, 0, 0x3F, 0, 0, 0, 0, 0x3F, 4⟩,  -- RING_CFG
   ⟨0x100C, 0x20, 0x40, 1, 0, 0x7F, 0, 0, 0, 0, 0x7F, 0⟩,  -- RING_OWNER
   ⟨0x1010, 0x20, 0x40, 1, 0, 1, 0, 0, 2, 0, 3, 0⟩,  -- RING_CTRL
   ⟨0x1014, 0x20, 0x40, 1, 0, 0xFFF, 0, 0, 0, 0, 0xFFF, 0⟩,  -- RING_CMD_TAIL
   ⟨0x1018, 0x20, 0x40, 1, 0, 0, 0, 0, 0, 0, 0xFFF, 0⟩,  -- RING_CMD_HEAD
   ⟨0x101C, 0x20, 0x40, 1, 0, 0, 0, 0, 0, 0, 0xFFF, 0⟩,  -- RING_RSP_TAIL
   ⟨0x1020, 0x20, 0x40, 1, 0, 0xFFF, 0, 0, 0, 0, 0xFFF, 0⟩,  -- RING_RSP_HEAD
   ⟨0x1024, 0x20, 0x40, 1, 0, 0, 0xE, 0, 0, 0, 0xF3F, 1⟩,  -- RING_STATUS
   ⟨0x1028, 0x20, 0x40, 1, 0, 0xFFFFFF, 0, 0, 0, 0, 0xFFFFFF, 1⟩,  -- RING_EVENT
   ⟨0x102C, 0x20, 0x40, 1, 0, 0, 0, 0, 0, 0xFFFFFFFF, 0xFFFFFFFF, 0⟩,  -- RING_ERRCNT
   ⟨0, 1, 0, 1, 0, 0, 0, 0, 0, 0, 0x1FFFF, 0⟩,  -- INFO
   ⟨8, 1, 0, 1, 0, 0xFFFFF, 0, 0, 0, 0, 0xFFFFF, 0x2710⟩,  -- TIMEOUT
   ⟨0x20, 1, 0, 1, 0, 0x3FF1, 0, 0, 0, 0, 0x3FF1, 0⟩,  -- NCP_CTRL
   ⟨0x24, 1, 0, 1, 0, 0xFFFF, 0, 0, 0, 0, 0xFFFF, 0x88B5⟩,  -- NCP_ETYPE
   ⟨0x28, 1, 0, 1, 0, 0, 0, 0, 0, 0, 0xFFFFFFFF, 0⟩,  -- NCP_SEQ
   ⟨0x2C, 1, 0, 1, 0, 0, 0, 0, 0, 0xFFFFFFFF, 0xFFFFFFFF, 0⟩]  -- NCP_DROP

/-- Registers of ACL. -/
def regsAcl : List RegDesc :=
  [⟨0, 1, 0, 1, 0, 0, 0, 0xFFFFF, 0, 0, 0xFFFFF, 0⟩]  -- LOCK

/-- Registers of TIM. -/
def regsTim : List RegDesc :=
  [⟨0, 1, 0, 1, 0, 0, 0, 0, 0, 0, 0x3FFFFFFF, 0⟩,  -- TIME_NS
   ⟨4, 1, 0, 1, 0, 0, 0, 0, 0, 0, 0xFFFFFFFF, 0⟩,  -- TIME_SEC_LO
   ⟨8, 1, 0, 1, 0, 0, 0, 0, 0, 0, 0xFFFF, 0⟩,  -- TIME_SEC_HI
   ⟨0xC, 1, 0, 1, 0, 0, 0, 0, 0, 0, 0xFFFFFFFF, 0⟩,  -- TIME_FRAC
   ⟨0x10, 1, 0, 1, 0, 0xFFFFFFFF, 0, 0, 0, 0, 0xFFFFFFFF, 0⟩,  -- INCR_LO
   ⟨0x14, 1, 0, 1, 0, 0xFF, 0, 0, 0, 0, 0xFF, 2⟩,  -- INCR_HI
   ⟨0x18, 1, 0, 1, 0, 0, 0, 0, 0xFFFFFFFF, 0, 0xFFFFFFFF, 0⟩,  -- STEP_LO
   ⟨0x1C, 1, 0, 1, 0, 0, 0, 0, 0xFFFFFFFF, 0, 0xFFFFFFFF, 0⟩,  -- STEP_HI
   ⟨0x20, 1, 0, 1, 0, 0, 0x10, 0, 0, 0xFF00, 0xFF1F, 0⟩,  -- STATUS
   ⟨0x24, 1, 0, 1, 0, 0x7FFFFF3, 0, 0, 0, 0, 0x7FFFFF3, 0x640010⟩,  -- SERVO_CFG
   ⟨0x28, 1, 0, 1, 0, 0, 0, 0, 0, 0, 0xFFFFFFFF, 0⟩,  -- HOLDOVER_MS
   ⟨0x2C, 1, 0, 1, 0, 0, 0, 0, 0, 0, 0xFFFFFFFF, 0⟩,  -- DOM_OFFSET
   ⟨0x30, 1, 0, 1, 0, 0, 0, 0, 0, 0xFFFFFFFF, 0xFFFFFFFF, 0⟩,  -- COUNTS
   ⟨0x34, 1, 0, 1, 0, 0, 0xFF7F, 0, 0, 0, 0xFF7F, 0⟩,  -- EVENT
   ⟨0x38, 1, 0, 1, 0, 0xFFFF, 0, 0, 0, 0, 0xFFFF, 0⟩,  -- EVENT_EN
   ⟨0x40, 1, 0, 1, 0, 0x7FFFFF03, 0, 0, 0, 0, 0x7FFFFF03, 0xDF800⟩,  -- GPTP_CFG0
   ⟨0x50, 1, 0, 1, 0, 0x7FFFFF03, 0, 0, 0, 0, 0x7FFFFF03, 0x10DF800⟩,  -- GPTP_CFG1
   ⟨0x44, 2, 0x10, 1, 0, 0xFFFFFFFF, 0, 0, 0, 0, 0xFFFFFFFF, 0⟩,  -- GPTP_ROLE_LO
   ⟨0x48, 2, 0x10, 1, 0, 0xF, 0, 0, 0, 0, 0xF, 0⟩,  -- GPTP_ROLE_HI
   ⟨0x100, 8, 0x20, 1, 0, 0xFFFF0003, 0, 0, 0, 0, 0xFFFF0003, 0⟩,  -- TPO_CTRL
   ⟨0x104, 8, 0x20, 1, 0, 0x3FFFFFFF, 0, 0, 0, 0, 0x3FFFFFFF, 0⟩,  -- TPO_START_NS
   ⟨0x108, 8, 0x20, 1, 0, 0xFFFFFFFF, 0, 0, 0, 0, 0xFFFFFFFF, 0⟩,  -- TPO_START_SEC_LO
   ⟨0x10C, 8, 0x20, 1, 0, 0xFFFFFFFF, 0, 0, 0, 0, 0xFFFFFFFF, 0⟩,  -- TPO_PERIOD
   ⟨0x110, 8, 0x20, 1, 0, 0xFFFFFFFF, 0, 0, 0, 0, 0xFFFFFFFF, 4⟩,  -- TPO_WIDTH
   ⟨0x200, 4, 0x20, 1, 0, 7, 0, 0, 0, 0, 7, 2⟩,  -- TCI_CTRL
   ⟨0x204, 4, 0x20, 1, 0, 0, 0, 0, 0, 0xFFFFFFFF, 0xFFFFFFFF, 0⟩,  -- TCI_NS
   ⟨0x208, 4, 0x20, 1, 0, 0, 0, 0, 0, 0, 0xFFFFFFFF, 0⟩,  -- TCI_SEC_LO
   ⟨0x20C, 4, 0x20, 1, 0, 0, 0, 0, 0, 0xFF00, 0xFFFFFF1F, 0⟩]  -- TCI_STATUS

/-- Registers of SWC. -/
def regsSwc : List RegDesc :=
  [⟨0, 1, 0, 1, 0, 0, 0, 0, 0, 0, 0x1FFFF, 0x18000⟩,  -- TILE_FREE
   ⟨4, 1, 0, 1, 0, 0, 0, 0, 0, 0, 0x1FFFF, 0⟩,  -- TILE_RETIRED
   ⟨8, 1, 0, 1, 0, 0, 0, 0, 0, 0, 0x1FFFF, 0⟩,  -- TILE_SUSPECT
   ⟨0x10, 1, 0, 1, 0, 0x1FFFF, 0, 0, 0, 0, 0x1FFFF, 0x15B00⟩,  -- SHARED_CFG
   ⟨0x14, 1, 0, 1, 0, 0x1FFFF, 0, 0, 0, 0, 0x1FFFF, 0x1000⟩,  -- INGRESS_CFG
   ⟨0x18, 1, 0, 1, 0, 0, 0, 0, 0, 0, 0x1FFFF, 0⟩,  -- SHARED_USED
   ⟨0x20, 1, 0, 1, 0, 0x3FF, 0, 0, 0, 0, 0x3FF, 8⟩,  -- RESEQ_CFG
   ⟨0x30, 1, 0, 1, 0, 0, 0x7F, 0, 0, 0, 0x7F, 0⟩,  -- EVENT
   ⟨0x34, 1, 0, 1, 0, 0x7F, 0, 0, 0, 0, 0x7F, 0⟩,  -- EVENT_EN
   ⟨0x1000, 0x15, 0x100, 1, 0, 0x7FFFF, 0, 0, 0, 0, 0x7FFFF, 1⟩,  -- PORT_CFG
   ⟨0x1004, 0x15, 0x100, 1, 0, 0xFFFFFF, 0, 0, 0, 0, 0xFFFFFF, 0xFAC688⟩,  -- PORT_PCP_MAP
   ⟨0x4000, 0xA8, 0x10, 1, 0, 0x1FFFF, 0, 0, 0, 0, 0x1FFFF, 0x20⟩,  -- QUEUE_RESERVE
   ⟨0x4004, 0xA8, 0x10, 1, 0, 0x1FFFF, 0, 0, 0, 0, 0x1FFFF, 0x4000⟩,  -- QUEUE_LIMIT
   ⟨0x4008, 0xA8, 0x10, 1, 0, 0, 0, 0, 0, 0, 0x1FFFF, 0⟩,  -- QUEUE_CHARGE
   ⟨0x400C, 0xA8, 0x10, 1, 0, 0, 0, 0, 0, 0, 0x1FFFF, 0⟩,  -- QUEUE_FRAMES
   ⟨0x1020, 0x15, 0x100, 1, 0, 0, 0, 0, 0, 0xFFFFFFFF, 0xFFFFFFFF, 0⟩,  -- RX_FRAMES
   ⟨0x1024, 0x15, 0x100, 1, 0, 0, 0, 0, 0, 0xFFFFFFFF, 0xFFFFFFFF, 0⟩,  -- TX_FRAMES
   ⟨0x1028, 0x15, 0x100, 1, 0, 0, 0, 0, 0, 0xFFFFFFFF, 0xFFFFFFFF, 0⟩,  -- INGRESS_FULL
   ⟨0x102C, 0x15, 0x100, 1, 0, 0, 0, 0, 0, 0xFFFFFFFF, 0xFFFFFFFF, 0⟩,  -- VLAN_INGRESS
   ⟨0x1030, 0x15, 0x100, 1, 0, 0, 0, 0, 0, 0xFFFFFFFF, 0xFFFFFFFF, 0⟩,  -- REFUSED_SHARED
   ⟨0x1034, 0x15, 0x100, 1, 0, 0, 0, 0, 0, 0xFFFFFFFF, 0xFFFFFFFF, 0⟩,  -- REFUSED_LIMIT
   ⟨0x1038, 0x15, 0x100, 1, 0, 0, 0, 0, 0, 0xFFFFFFFF, 0xFFFFFFFF, 0⟩,  -- REFUSED_POLICER
   ⟨0x103C, 0x15, 0x100, 1, 0, 0, 0, 0, 0, 0xFFFFFFFF, 0xFFFFFFFF, 0⟩,  -- REFUSED_LINKDOWN
   ⟨0x1040, 0x15, 0x100, 1, 0, 0, 0, 0, 0, 0xFFFFFFFF, 0xFFFFFFFF, 0⟩,  -- PUSHED_OUT
   ⟨0x1044, 0x15, 0x100, 1, 0, 0, 0, 0, 0, 0xFFFFFFFF, 0xFFFFFFFF, 0⟩,  -- TCW_DROP
   ⟨0x1048, 0x15, 0x100, 1, 0, 0, 0, 0, 0, 0xFFFFFFFF, 0xFFFFFFFF, 0⟩,  -- RESEQ_TIMEOUT
   ⟨0x104C, 0x15, 0x100, 1, 0, 0, 0, 0, 0, 0xFFFFFFFF, 0xFFFFFFFF, 0⟩,  -- RESEQ_LATE
   ⟨0x1050, 0x15, 0x100, 1, 0, 0, 0, 0, 0, 0xFFFFFFFF, 0xFFFFFFFF, 0⟩,  -- EGRESS_FILTER
   ⟨0x1054, 0x15, 0x100, 1, 0, 0, 0, 0, 0, 0xFFFFFFFF, 0xFFFFFFFF, 0⟩,  -- LINKDOWN_ABORT
   ⟨0x1058, 0x15, 0x100, 1, 0, 0, 0, 0, 0, 0xFFFFFFFF, 0xFFFFFFFF, 0⟩] ++  -- FLUSHED
  [⟨0x105C, 0x15, 0x100, 1, 0, 0, 0, 0, 0, 0xFFFFFFFF, 0xFFFFFFFF, 0⟩,  -- NOT_FITTED_DISC
   ⟨0x1060, 0x15, 0x100, 1, 0, 0, 0, 0, 0, 0xFFFFFFFF, 0xFFFFFFFF, 0⟩,  -- PUSHED_OUT_TC_LO
   ⟨0x1064, 0x15, 0x100, 1, 0, 0, 0, 0, 0, 0xFFFFFFFF, 0xFFFFFFFF, 0⟩]  -- PUSHED_OUT_TC_HI

/-- Registers of PRS. -/
def regsPrs : List RegDesc :=
  [⟨0, 1, 0, 1, 0, 0, 0, 0, 0, 0, 0x3FFF, 0x2408⟩,  -- INFO
   ⟨4, 1, 0, 1, 0, 0, 0, 0, 0, 0, 0x1FFF000F, 0⟩,  -- PROG_STATUS
   ⟨8, 1, 0, 1, 0, 3, 0, 0, 0, 0, 3, 0⟩,  -- CFG
   ⟨0xC, 1, 0, 1, 0, 0, 0, 0, 0, 0xFFFFFFFF, 0xFFFFFFFF, 0⟩,  -- NO_PROGRAM
   ⟨0x10, 1, 0, 1, 0, 0, 0x1F, 0, 0, 0, 0x1F, 0⟩,  -- EVENT
   ⟨0x14, 1, 0, 1, 0, 0x1F, 0, 0, 0, 0, 0x1F, 0⟩,  -- EVENT_EN
   ⟨0x2000, 0x100, 4, 1, 0, 0, 0, 0, 0, 0xFFFFFFFF, 0xFFFFFFFF, 0⟩,  -- USER_CNT
   ⟨0x1000, 8, 0x40, 1, 0, 0, 0, 0, 0, 0xFFFFFFFF, 0xFFFFFFFF, 0⟩,  -- FRAMES
   ⟨0x1004, 8, 0x40, 1, 0, 0, 0, 0, 0, 0xFFFFFFFF, 0xFFFFFFFF, 0⟩,  -- INSTR
   ⟨0x1008, 8, 0x40, 1, 0, 0, 0, 0, 0, 0xFFFFFFFF, 0xFFFFFFFF, 0⟩,  -- STALL
   ⟨0x100C, 8, 0x40, 1, 0, 0, 0, 0, 0, 0xFFFFFFFF, 0xFFFFFFFF, 0⟩,  -- WDOG
   ⟨0x1010, 8, 0x40, 1, 0, 0, 0, 0, 0, 0xFFFFFFFF, 0xFFFFFFFF, 0⟩,  -- ILLEGAL
   ⟨0x1014, 8, 0x40, 1, 0, 0, 0, 0, 0, 0xFFFFFFFF, 0xFFFFFFFF, 0⟩,  -- EXPRESS_OVER
   ⟨0x1018, 8, 0x40, 1, 0, 0, 0, 0, 0, 0xFFFFFFFF, 0xFFFFFFFF, 0⟩,  -- OVERREAD
   ⟨0x101C, 8, 0x40, 1, 0, 0, 0, 0, 0, 0xFFFFFFFF, 0xFFFFFFFF, 0⟩]  -- MAX_PATH

/-- Registers of RUL. -/
def regsRul : List RegDesc :=
  [⟨0, 1, 0, 1, 0, 0, 0, 0, 0, 0, 0xFFFFF, 0⟩,  -- POUR_STATUS
   ⟨4, 1, 0, 1, 0, 0, 0, 0, 0, 0, 0x7FFFFF, 0⟩,  -- STAGING
   ⟨8, 1, 0, 1, 0, 0, 0, 0, 0, 0, 0x7FFF, 0⟩,  -- LOG_USED
   ⟨0x10, 4, 4, 1, 0, 0, 0, 0, 0, 0, 0x3FFFFFF, 0⟩,  -- SLOT
   ⟨0x20, 1, 0, 1, 0, 0xFFFFFFF0, 0, 0, 0, 0, 0xFFFFFFF0, 0x4A40⟩,  -- LAYOUT_LO
   ⟨0x24, 1, 0, 1, 0, 0xFFFFFFFF, 0, 0, 0, 0, 0xFFFFFFFF, 0⟩,  -- LAYOUT_HI
   ⟨0x40, 1, 0, 1, 0, 0, 0x1F, 0, 0, 0, 0x1F, 0⟩,  -- EVENT
   ⟨0x44, 1, 0, 1, 0, 0x1F, 0, 0, 0, 0, 0x1F, 0⟩,  -- EVENT_EN
   ⟨0x1000, 0x100, 4, 1, 0, 0, 0, 0, 0, 0xFFFFFFFF, 0xFFFFFFFF, 0⟩,  -- DROP_REASON
   ⟨0x100, 1, 0, 1, 0, 0, 0, 0, 0, 0xFFFFFFFF, 0xFFFFFFFF, 0⟩,  -- FLOW_LOOKUPS
   ⟨0x104, 1, 0, 1, 0, 0, 0, 0, 0, 0xFFFFFFFF, 0xFFFFFFFF, 0⟩,  -- FLOW_HITS
   ⟨0x108, 1, 0, 1, 0, 0, 0, 0, 0, 0xFFFFFFFF, 0xFFFFFFFF, 0⟩,  -- ACL_LOOKUPS
   ⟨0x10C, 1, 0, 1, 0, 0, 0, 0, 0, 0xFFFFFFFF, 0xFFFFFFFF, 0⟩,  -- ACL_HITS
   ⟨0x110, 1, 0, 1, 0, 0, 0, 0, 0, 0xFFFFFFFF, 0xFFFFFFFF, 0⟩,  -- BAD_LAYOUT
   ⟨0x114, 1, 0, 1, 0, 0, 0, 0, 0, 0xFFFFFFFF, 0xFFFFFFFF, 0⟩,  -- VLOAD_EMPTY
   ⟨0x118, 1, 0, 1, 0, 0, 0, 0, 0, 0xFFFFFFFF, 0xFFFFFFFF, 0⟩,  -- REWRITE_EMPTY
   ⟨0x11C, 1, 0, 1, 0, 0, 0, 0, 0, 0xFFFFFFFF, 0xFFFFFFFF, 0⟩,  -- REWRITE_SKIP
   ⟨0x120, 1, 0, 1, 0, 0, 0, 0, 0, 0xFFFFFFFF, 0xFFFFFFFF, 0⟩]  -- COMMITS

/-- Registers of TMG. -/
def regsTmg : List RegDesc :=
  [⟨0, 1, 0, 1, 0, 0x7FF, 0, 0, 0, 0, 0x7FF, 0xC8⟩,  -- LAT_CFG
   ⟨0x10, 1, 0, 1, 0, 0, 0x1F, 0, 0, 0, 0x1F, 0⟩,  -- EVENT
   ⟨0x14, 1, 0, 1, 0, 0x1F, 0, 0, 0, 0, 0x1F, 0⟩,  -- EVENT_EN
   ⟨0x1000, 0x15, 0x100, 1, 0, 0xFF7FFF, 0, 0, 0, 0, 0xFF7FFF, 0xA3014⟩,  -- PORT_CFG
   ⟨0x1004, 0x15, 0x100, 1, 0, 0xFFFFF, 0, 0, 0, 0, 0xFFFFF, 0⟩,  -- GATE_MARGIN
   ⟨0x1008, 0x15, 0x100, 1, 0, 0, 0, 0, 0, 0, 0x3FFFFFF, 0⟩,  -- PORT_STATUS
   ⟨0x100C, 0x15, 0x100, 1, 0, 0, 0, 0, 0, 0, 0x3FF, 0⟩,  -- COURSE
   ⟨0x1020, 0x15, 0x100, 1, 0, 0, 0, 0, 0, 0xFFFFFFFF, 0xFFFFFFFF, 0⟩,  -- FIT_WAITS
   ⟨0x1024, 0x15, 0x100, 1, 0, 0, 0, 0, 0, 0xFFFFFFFF, 0xFFFFFFFF, 0⟩,  -- NEVER_FITS
   ⟨0x1028, 0x15, 0x100, 1, 0, 0, 0, 0, 0, 0xFFFFFFFF, 0xFFFFFFFF, 0⟩,  -- PREEMPTIONS
   ⟨0x102C, 0x15, 0x100, 1, 0, 0, 0, 0, 0, 0xFFFFFFFF, 0xFFFFFFFF, 0⟩,  -- VERIFY_FAILS
   ⟨0x1030, 0x15, 0x100, 1, 0, 0, 0, 0, 0, 0xFFFFFFFF, 0xFFFFFFFF, 0⟩,  -- LIST_SWITCHES
   ⟨0x3000, 0x20, 0x20, 1, 0, 0x1F01, 0, 0, 0, 0, 0x1F01, 0⟩,  -- G_CFG
   ⟨0x3004, 0x20, 0x20, 1, 0, 0xFFFFFFFF, 0, 0, 0, 0, 0xFFFFFFFF, 0xF4240⟩,  -- G_CIR
   ⟨0x3008, 0x20, 0x20, 1, 0, 0xFFFFFFFF, 0, 0, 0, 0, 0xFFFFFFFF, 0x2400⟩,  -- G_CBS
   ⟨0x300C, 0x20, 0x20, 1, 0, 0xFFFFFFFF, 0, 0, 0, 0, 0xFFFFFFFF, 0xF4240⟩,  -- G_PIR
   ⟨0x3010, 0x20, 0x20, 1, 0, 0xFFFFFFFF, 0, 0, 0, 0, 0xFFFFFFFF, 0x2400⟩,  -- G_PBS
   ⟨0x3014, 0x20, 0x20, 1, 0, 0, 0, 0, 0, 0, 0xFFFFFFFF, 0⟩,  -- G_CCREDIT
   ⟨0x3018, 0x20, 0x20, 1, 0, 0, 0, 0, 0, 0, 0xFFFFFFFF, 0⟩,  -- G_PCREDIT
   ⟨0x4000, 0xA8, 0x20, 1, 0, 0x7F, 0, 0, 0, 0, 0x7F, 0⟩,  -- Q_CFG
   ⟨0x4004, 0xA8, 0x20, 1, 0, 0xFFFFFFFF, 0, 0, 0, 0, 0xFFFFFFFF, 0xF4240⟩,  -- Q_CIR
   ⟨0x4008, 0xA8, 0x20, 1, 0, 0xFFFFFFFF, 0, 0, 0, 0, 0xFFFFFFFF, 0x2400⟩,  -- Q_CBS
   ⟨0x400C, 0xA8, 0x20, 1, 0, 0xFFFFFFFF, 0, 0, 0, 0, 0xFFFFFFFF, 0x800⟩,  -- Q_QUANTUM
   ⟨0x4010, 0xA8, 0x20, 1, 0, 0, 0, 0, 0, 0, 0xFFFFFFFF, 0⟩,  -- Q_CREDIT
   ⟨0x4014, 0xA8, 0x20, 1, 0, 0, 0, 0, 0, 0, 0xFFFFFFFF, 0⟩,  -- Q_DEFICIT
   ⟨0x8000, 0xA8, 0x80, 0x10, 4, 0, 0, 0, 0, 0xFFFFFFFF, 0xFFFFFFFF, 0⟩,  -- BIN0
   ⟨0x8040, 0xA8, 0x80, 1, 0, 0, 0, 0, 0, 0xFFFFFFFF, 0xFFFFFFFF, 0⟩,  -- MAX_SOJOURN
   ⟨0x8044, 0xA8, 0x80, 1, 0, 0, 0, 0, 0, 0xFFFFFFFF, 0xFFFFFFFF, 0⟩]  -- MAX_DEPTH

/-- Registers of ETH. -/
def regsEth : List RegDesc :=
  [⟨0x10, 1, 0, 1, 0, 0, 0xFFF, 0, 0, 0, 0xFFF, 0⟩,  -- EVENT
   ⟨0x14, 1, 0, 1, 0, 0xFFF, 0, 0, 0, 0, 0xFFF, 0⟩,  -- EVENT_EN
   ⟨0x18, 1, 0, 1, 0, 0, 0x3FFFF, 0, 0, 0, 0x3FFFF, 0⟩,  -- EVENT_PORT
   ⟨0x20, 1, 0, 1, 0, 0x1F, 0, 0, 0, 0, 0x1F, 0⟩,  -- IC_CFG
   ⟨0x24, 1, 0, 1, 0, 0x3FFFFFFF, 0, 0, 0, 0, 0x3FFFFFFF, 0⟩,  -- IC_RXMAP
   ⟨0x28, 1, 0, 1, 0, 0x3FF, 0, 0, 0, 0, 0x3FF, 0⟩,  -- IC_RXMAP_HI
   ⟨0x1000, 0x12, 0x100, 1, 0, 3, 0, 0, 0, 0, 3, 0⟩,  -- PORT_CTRL
   ⟨0x2200, 3, 0x100, 1, 0, 2, 0, 0, 0, 0, 2, 0⟩,  -- PORT_CTRL_INT
   ⟨0x1004, 4, 0x100, 1, 0, 0x1FF, 0, 0, 0, 0, 0x1FF, 0x100⟩,  -- PORT_CFG 0-3
   ⟨0x1404, 2, 0x100, 1, 0, 0x1FF, 0, 0, 0, 0, 0x1FF, 0x104⟩,  -- PORT_CFG 4-5
   ⟨0x1604, 8, 0x100, 1, 0, 0x1FF, 0, 0, 0, 0, 0x1FF, 0x108⟩,  -- PORT_CFG 6-13
   ⟨0x1E04, 4, 0x100, 1, 0, 0x1FF, 0, 0, 0, 0, 0x1FF, 0x10C⟩,  -- PORT_CFG 14-17
   ⟨0x1008, 0x12, 0x100, 1, 0, 0x3FFF3FFF, 0, 0, 0, 0, 0x3FFF3FFF, 0x24002400⟩,  -- PORT_MAX
   ⟨0x100C, 0x12, 0x100, 1, 0, 0, 0, 0, 0, 0, 0xFFFF00FF, 0⟩,  -- PORT_STATUS
   ⟨0x1E10, 4, 0x100, 1, 0, 0x1FFFFFF, 0, 0, 0, 0, 0x1FFFFFF, 0x1000408⟩,  -- PLCA_CFG
   ⟨0x1E14, 4, 0x100, 1, 0, 0x1FFF, 0, 0, 0, 0, 0x1FFF, 0xE⟩,  -- PODL_CFG
   ⟨0x1E18, 4, 0x100, 1, 0, 0, 0, 0, 0, 0, 0x1FF3, 0xF0⟩,  -- PODL_STATUS
   ⟨0x101C, 0xE, 0x100, 1, 0, 0x1FF, 0, 0, 0, 0, 0x1FF, 0x88⟩,  -- MACSEC_CFG
   ⟨0x1020, 0xE, 0x100, 1, 0, 0xFFFFFFFF, 0, 0, 0, 0, 0xFFFFFFFF, 0⟩,  -- REPLAY_WIN
   ⟨0x1024, 0xE, 0x100, 1, 0, 0xFFFFFFFF, 0, 0, 0, 0, 0xFFFFFFFF, 0⟩,  -- TX_SCI_LO
   ⟨0x1028, 0xE, 0x100, 1, 0, 0xFFFFFFFF, 0, 0, 0, 0, 0xFFFFFFFF, 0⟩,  -- TX_SCI_HI
   ⟨0x102C, 0x12, 0x100, 1, 0, 0, 0, 0, 0, 0xBFFFFFFF, 0xBFFFFFFF, 0⟩,  -- TXTS_NS
   ⟨0x1030, 0x12, 0x100, 1, 0, 0, 0, 0, 0, 0, 0xFFFFFFFF, 0⟩,  -- TXTS_SEC_LO
   ⟨0x1034, 0x12, 0x100, 1, 0, 0, 0, 0, 0, 0xF0000000, 0xFFFFFFFF, 0⟩,  -- TXTS_INFO
   ⟨0x1040, 0x12, 0x100, 1, 0, 0, 0, 0, 0, 0xFFFFFFFF, 0xFFFFFFFF, 0⟩,  -- RX_OK
   ⟨0x1044, 0x12, 0x100, 1, 0, 0, 0, 0, 0, 0xFFFFFFFF, 0xFFFFFFFF, 0⟩,  -- RX_FCS
   ⟨0x1048, 0x12, 0x100, 1, 0, 0, 0, 0, 0, 0xFFFFFFFF, 0xFFFFFFFF, 0⟩,  -- RX_RUNT
   ⟨0x104C, 0x12, 0x100, 1, 0, 0, 0, 0, 0, 0xFFFFFFFF, 0xFFFFFFFF, 0⟩,  -- RX_OVERSIZE
   ⟨0x1050, 0x12, 0x100, 1, 0, 0, 0, 0, 0, 0xFFFFFFFF, 0xFFFFFFFF, 0⟩,  -- RX_ICV_FAIL
   ⟨0x1054, 0x12, 0x100, 1, 0, 0, 0, 0, 0, 0xFFFFFFFF, 0xFFFFFFFF, 0⟩] ++  -- RX_NO_SA
  [⟨0x1058, 0x12, 0x100, 1, 0, 0, 0, 0, 0, 0xFFFFFFFF, 0xFFFFFFFF, 0⟩,  -- RX_REPLAY
   ⟨0x105C, 0x12, 0x100, 1, 0, 0, 0, 0, 0, 0xFFFFFFFF, 0xFFFFFFFF, 0⟩,  -- RX_UNTAGGED
   ⟨0x1060, 0x12, 0x100, 1, 0, 0, 0, 0, 0, 0xFFFFFFFF, 0xFFFFFFFF, 0⟩,  -- TX_OK
   ⟨0x1064, 0x12, 0x100, 1, 0, 0, 0, 0, 0, 0xFFFFFFFF, 0xFFFFFFFF, 0⟩,  -- TX_OVERSIZE
   ⟨0x1068, 0x12, 0x100, 1, 0, 0, 0, 0, 0, 0xFFFFFFFF, 0xFFFFFFFF, 0⟩,  -- TX_NO_SA
   ⟨0x106C, 0x12, 0x100, 1, 0, 0, 0, 0, 0, 0xFFFFFFFF, 0xFFFFFFFF, 0⟩,  -- PLCA_COLLISIONS
   ⟨0x1070, 0x12, 0x100, 1, 0, 0, 0, 0, 0, 0xFFFFFFFF, 0xFFFFFFFF, 0⟩,  -- RT_FALLBACKS
   ⟨0x1074, 0x12, 0x100, 1, 0, 0, 0, 0, 0, 0xFFFFFFFF, 0xFFFFFFFF, 0⟩,  -- LINK_DOWNS
   ⟨0x1078, 0x12, 0x100, 1, 0, 0, 0, 0, 0, 0xFFFFFFFF, 0xFFFFFFFF, 0⟩,  -- PODL_TRIPS
   ⟨0x107C, 0x12, 0x100, 1, 0, 0, 0, 0, 0, 0xFFFFFFFF, 0xFFFFFFFF, 0⟩,  -- TC10_WAKES
   ⟨0x8000, 2, 0x1000, 0x20, 0x40, 0xFFFFFFC0, 0, 0, 0, 0, 0xFFFFFFC0, 0⟩,  -- BASE_LO
   ⟨0x8004, 2, 0x1000, 0x20, 0x40, 0xFF, 0, 0, 0, 0, 0xFF, 0⟩,  -- BASE_HI
   ⟨0x8008, 2, 0x1000, 0x20, 0x40, 0xFFF1F, 0, 0, 0, 0, 0xFFF1F, 0⟩,  -- CFG
   ⟨0x800C, 2, 0x1000, 0x20, 0x40, 0, 0, 0, 0, 0, 0xFFFFFFFF, 0⟩,  -- HEAD
   ⟨0x8010, 2, 0x1000, 0x20, 0x40, 0xFFFF, 0, 0, 0, 0, 0xFFFF, 0⟩,  -- TAIL
   ⟨0x8014, 2, 0x1000, 0x20, 0x40, 0, 0, 0, 0, 0xFFFFFFFF, 0xFFFFFFFF, 0⟩]  -- DROPS

/-- Registers of CLN. -/
def regsCln : List RegDesc :=
  [⟨0, 1, 0, 1, 0, 0, 0, 0, 0, 0, 0x1FF, 0x110⟩,  -- INFO
   ⟨0x10, 1, 0, 1, 0, 0, 0xFFF, 0, 0, 0, 0xFFF, 0⟩,  -- EVENT
   ⟨0x14, 1, 0, 1, 0, 0xFFF, 0, 0, 0, 0, 0xFFF, 0⟩,  -- EVENT_EN
   ⟨0x18, 1, 0, 1, 0, 0, 0xFFFFFF, 0, 0, 0, 0xFFFFFF, 0⟩,  -- EVENT_CHAN
   ⟨0x1000, 0x10, 0x100, 1, 0, 0x7FFF, 0, 0, 0, 0, 0x7FFF, 0x2098⟩,  -- CAN_CTRL
   ⟨0x1004, 0x10, 0x100, 1, 0, 0x7FFFFFFF, 0, 0, 0, 0, 0x7FFFFFFF, 0x10103F02⟩,  -- CAN_NBT
   ⟨0x1008, 0x10, 0x100, 1, 0, 0xF0F1FFF, 0, 0, 0, 0, 0xF0F1FFF, 0xA0A1D01⟩,  -- CAN_DBT
   ⟨0x100C, 0x10, 0x100, 1, 0, 0xFFFF1FFF, 0, 0, 0, 0, 0xFFFF1FFF, 0x18220501⟩,  -- CAN_XBT
   ⟨0x1010, 0x10, 0x100, 1, 0, 0x17F, 0, 0, 0, 0, 0x17F, 0x11E⟩,  -- CAN_TDC
   ⟨0x1014, 0x10, 0x100, 1, 0, 0, 0, 0, 0, 0, 0x7FFFFFF, 0⟩,  -- CAN_STATUS
   ⟨0x1018, 0x10, 0x100, 1, 0, 0, 0, 0, 0, 0, 0x3FFFFFFF, 0⟩,  -- CAN_COLL_ID
   ⟨0x3000, 8, 0x100, 1, 0, 0xFFFF8001, 0, 0, 0, 0, 0xFFFF8001, 0x7D00000⟩,  -- L_CTRL
   ⟨0x3004, 8, 0x100, 1, 0, 0x1FF, 0, 0, 0, 0, 0x1FF, 0x12D⟩,  -- L_CFG
   ⟨0x3008, 8, 0x100, 1, 0, 0, 0, 0, 0, 0, 0x1FF, 0⟩,  -- L_STATUS
   ⟨0x1040, 0x10, 0x100, 1, 0, 0, 0, 0, 0, 0xFFFFFFFF, 0xFFFFFFFF, 0⟩,  -- TX_OK
   ⟨0x1044, 0x10, 0x100, 1, 0, 0, 0, 0, 0, 0xFFFFFFFF, 0xFFFFFFFF, 0⟩,  -- RX_OK
   ⟨0x1048, 0x10, 0x100, 1, 0, 0, 0, 0, 0, 0xFFFFFFFF, 0xFFFFFFFF, 0⟩,  -- BIT_ERR
   ⟨0x104C, 0x10, 0x100, 1, 0, 0, 0, 0, 0, 0xFFFFFFFF, 0xFFFFFFFF, 0⟩,  -- STUFF_ERR
   ⟨0x1050, 0x10, 0x100, 1, 0, 0, 0, 0, 0, 0xFFFFFFFF, 0xFFFFFFFF, 0⟩,  -- FORM_ERR
   ⟨0x1054, 0x10, 0x100, 1, 0, 0, 0, 0, 0, 0xFFFFFFFF, 0xFFFFFFFF, 0⟩,  -- CRC_ERR
   ⟨0x1058, 0x10, 0x100, 1, 0, 0, 0, 0, 0, 0xFFFFFFFF, 0xFFFFFFFF, 0⟩,  -- ACK_ERR
   ⟨0x105C, 0x10, 0x100, 1, 0, 0, 0, 0, 0, 0xFFFFFFFF, 0xFFFFFFFF, 0⟩,  -- BUS_OFFS
   ⟨0x1060, 0x10, 0x100, 1, 0, 0, 0, 0, 0, 0xFFFFFFFF, 0xFFFFFFFF, 0⟩,  -- BUS_OFFS_CLEARED
   ⟨0x1064, 0x10, 0x100, 1, 0, 0, 0, 0, 0, 0xFFFFFFFF, 0xFFFFFFFF, 0⟩,  -- ABANDONED
   ⟨0x1068, 0x10, 0x100, 1, 0, 0, 0, 0, 0, 0xFFFFFFFF, 0xFFFFFFFF, 0⟩,  -- ID_COLLISIONS
   ⟨0x106C, 0x10, 0x100, 1, 0, 0, 0, 0, 0, 0xFFFFFFFF, 0xFFFFFFFF, 0⟩,  -- RX_FILTERED
   ⟨0x1070, 0x10, 0x100, 1, 0, 0, 0, 0, 0, 0xFFFFFFFF, 0xFFFFFFFF, 0⟩,  -- RX_DROP
   ⟨0x1074, 0x10, 0x100, 1, 0, 0, 0, 0, 0, 0xFFFFFFFF, 0xFFFFFFFF, 0⟩,  -- CYCLE_SKIP
   ⟨0x1078, 0x10, 0x100, 1, 0, 0, 0, 0, 0, 0xFFFFFFFF, 0xFFFFFFFF, 0⟩,  -- LATE
   ⟨0x107C, 0x10, 0x100, 1, 0, 0, 0, 0, 0, 0xFFFFFFFF, 0xFFFFFFFF, 0⟩] ++  -- TXD_TIMEOUTS
  [⟨0x3040, 8, 0x100, 1, 0, 0, 0, 0, 0, 0xFFFFFFFF, 0xFFFFFFFF, 0⟩,  -- LIN_OK
   ⟨0x3044, 8, 0x100, 1, 0, 0, 0, 0, 0, 0xFFFFFFFF, 0xFFFFFFFF, 0⟩,  -- LIN_NO_RESP
   ⟨0x3048, 8, 0x100, 1, 0, 0, 0, 0, 0, 0xFFFFFFFF, 0xFFFFFFFF, 0⟩,  -- LIN_PARTIAL
   ⟨0x304C, 8, 0x100, 1, 0, 0, 0, 0, 0, 0xFFFFFFFF, 0xFFFFFFFF, 0⟩,  -- LIN_CHECKSUM
   ⟨0x3050, 8, 0x100, 1, 0, 0, 0, 0, 0, 0xFFFFFFFF, 0xFFFFFFFF, 0⟩,  -- LIN_FRAMING
   ⟨0x3054, 8, 0x100, 1, 0, 0, 0, 0, 0, 0xFFFFFFFF, 0xFFFFFFFF, 0⟩,  -- LIN_COLLISION
   ⟨0x3058, 8, 0x100, 1, 0, 0, 0, 0, 0, 0xFFFFFFFF, 0xFFFFFFFF, 0⟩,  -- LIN_BIT_ERR
   ⟨0x305C, 8, 0x100, 1, 0, 0, 0, 0, 0, 0xFFFFFFFF, 0xFFFFFFFF, 0⟩]  -- LIN_WAKES

/-- Registers of GWY. -/
def regsGwy : List RegDesc :=
  [⟨0, 1, 0, 1, 0, 0x1F1F, 0, 0, 0, 0, 0x1F1F, 0xF08⟩,  -- CFG
   ⟨4, 1, 0, 1, 0, 0x7F, 0, 0, 0, 0, 0x7F, 0⟩,  -- ACF_XL
   ⟨8, 1, 0, 1, 0, 0, 0, 0, 0, 0, 0xFFFFFF, 0xFFFFFF⟩,  -- BLOCKED
   ⟨0xC, 1, 0, 1, 0, 0xFFFFFFFF, 0, 0, 0, 0, 0xFFFFFFFF, 0⟩,  -- MAC_LO
   ⟨0x10, 1, 0, 1, 0, 0xFFFF, 0, 0, 0, 0, 0xFFFF, 0⟩,  -- MAC_HI
   ⟨0x20, 1, 0, 1, 0, 0, 0x1FF, 0, 0, 0, 0x1FF, 0⟩,  -- EVENT
   ⟨0x24, 1, 0, 1, 0, 0x1FF, 0, 0, 0, 0, 0x1FF, 0⟩,  -- EVENT_EN
   ⟨0x100, 1, 0, 1, 0, 0, 0, 0, 0, 0xFFFFFFFF, 0xFFFFFFFF, 0⟩,  -- MSG_IN
   ⟨0x104, 1, 0, 1, 0, 0, 0, 0, 0, 0xFFFFFFFF, 0xFFFFFFFF, 0⟩,  -- NO_ROUTE
   ⟨0x108, 1, 0, 1, 0, 0, 0, 0, 0, 0xFFFFFFFF, 0xFFFFFFFF, 0⟩,  -- POISON
   ⟨0x10C, 1, 0, 1, 0, 0, 0, 0, 0, 0xFFFFFFFF, 0xFFFFFFFF, 0⟩,  -- GAP
   ⟨0x110, 1, 0, 1, 0, 0, 0, 0, 0, 0xFFFFFFFF, 0xFFFFFFFF, 0⟩,  -- QRY_DROP
   ⟨0x114, 1, 0, 1, 0, 0, 0, 0, 0, 0xFFFFFFFF, 0xFFFFFFFF, 0⟩,  -- AUTH_FAIL
   ⟨0x118, 1, 0, 1, 0, 0, 0, 0, 0, 0xFFFFFFFF, 0xFFFFFFFF, 0⟩,  -- AUTH_KEY
   ⟨0x11C, 1, 0, 1, 0, 0, 0, 0, 0, 0xFFFFFFFF, 0xFFFFFFFF, 0⟩,  -- BLOCKED_CNT
   ⟨0x120, 1, 0, 1, 0, 0, 0, 0, 0, 0xFFFFFFFF, 0xFFFFFFFF, 0⟩,  -- QUEUE_FULL
   ⟨0x124, 1, 0, 1, 0, 0, 0, 0, 0, 0xFFFFFFFF, 0xFFFFFFFF, 0⟩,  -- REPLACED
   ⟨0x128, 1, 0, 1, 0, 0, 0, 0, 0, 0xFFFFFFFF, 0xFFFFFFFF, 0⟩,  -- STALE
   ⟨0x12C, 1, 0, 1, 0, 0, 0, 0, 0, 0xFFFFFFFF, 0xFFFFFFFF, 0⟩,  -- LATE
   ⟨0x130, 1, 0, 1, 0, 0, 0, 0, 0, 0xFFFFFFFF, 0xFFFFFFFF, 0⟩,  -- FORMAT_DROP
   ⟨0x134, 1, 0, 1, 0, 0, 0, 0, 0, 0xFFFFFFFF, 0xFFFFFFFF, 0⟩,  -- LIN_ERR_SKIP
   ⟨0x138, 1, 0, 1, 0, 0, 0, 0, 0, 0xFFFFFFFF, 0xFFFFFFFF, 0⟩,  -- TUNNEL_FORMAT
   ⟨0x13C, 1, 0, 1, 0, 0, 0, 0, 0, 0xFFFFFFFF, 0xFFFFFFFF, 0⟩,  -- TUNNEL_BAD
   ⟨0x140, 1, 0, 1, 0, 0, 0, 0, 0, 0xFFFFFFFF, 0xFFFFFFFF, 0⟩,  -- SEQ_GAP
   ⟨0x144, 1, 0, 1, 0, 0, 0, 0, 0, 0xFFFFFFFF, 0xFFFFFFFF, 0⟩,  -- HOSTQ_FULL
   ⟨0x148, 1, 0, 1, 0, 0, 0, 0, 0, 0xFFFFFFFF, 0xFFFFFFFF, 0⟩,  -- TUNNEL_OUT
   ⟨0x14C, 1, 0, 1, 0, 0, 0, 0, 0, 0xFFFFFFFF, 0xFFFFFFFF, 0⟩,  -- TUNNEL_IN
   ⟨0x1000, 0x10, 0x40, 1, 0, 0xFFFFFFC0, 0, 0, 0, 0, 0xFFFFFFC0, 0⟩,  -- D_BASE_LO
   ⟨0x1004, 0x10, 0x40, 1, 0, 0xFF, 0, 0, 0, 0, 0xFF, 0⟩,  -- D_BASE_HI
   ⟨0x1008, 0x10, 0x40, 1, 0, 0xFFFFFFC0, 0, 0, 0, 0, 0xFFFFFFC0, 0⟩] ++  -- I_BASE_LO
  [⟨0x100C, 0x10, 0x40, 1, 0, 0xFF, 0, 0, 0, 0, 0xFF, 0⟩,  -- I_BASE_HI
   ⟨0x1010, 0x10, 0x40, 1, 0, 0x7F01FF, 0, 0, 0, 0, 0x7F01FF, 0⟩,  -- HQ_CFG
   ⟨0x1014, 0x10, 0x40, 1, 0, 0xFFFF, 0, 0, 0, 0, 0xFFFF, 0⟩,  -- D_HEAD
   ⟨0x1018, 0x10, 0x40, 1, 0, 0, 0, 0, 0, 0, 0xFFFFFFFF, 0⟩,  -- D_TAIL
   ⟨0x101C, 0x10, 0x40, 1, 0, 0, 0, 0, 0, 0, 0xFFFFFFFF, 0⟩,  -- I_HEAD
   ⟨0x1020, 0x10, 0x40, 1, 0, 0xFFFF, 0, 0, 0, 0, 0xFFFF, 0⟩,  -- I_TAIL
   ⟨0x1024, 0x10, 0x40, 1, 0, 0, 0, 0, 0, 0xFFFFFFFF, 0xFFFFFFFF, 0⟩,  -- DROPS
   ⟨0x8000, 0x14, 0x40, 1, 0, 0x1FF0F, 0, 0, 0, 0, 0x1FF0F, 0⟩,  -- NM_CFG
   ⟨0x8004, 0x14, 0x40, 1, 0, 0x3FFFFFFF, 0, 0, 0, 0, 0x3FFFFFFF, 0⟩,  -- NM_TX_ID
   ⟨0x8008, 0x14, 0x40, 1, 0, 0x3FFFFFFF, 0, 0, 0, 0, 0x3FFFFFFF, 0⟩,  -- NM_RX_ID
   ⟨0x800C, 0x14, 0x40, 1, 0, 0x3FFFFFFF, 0, 0, 0, 0, 0x3FFFFFFF, 0⟩,  -- NM_RX_MASK
   ⟨0x8010, 0x14, 0x40, 1, 0, 0xFFFFFFFF, 0, 0, 0, 0, 0xFFFFFFFF, 0x5DC07D0⟩,  -- NM_T1
   ⟨0x8014, 0x14, 0x40, 1, 0, 0xFFFFFFFF, 0, 0, 0, 0, 0xFFFFFFFF, 0x6405DC⟩,  -- NM_T2
   ⟨0x8018, 0x14, 0x40, 1, 0, 0xFFFFFFFF, 0, 0, 0, 0, 0xFFFFFFFF, 0⟩,  -- NM_UDATA_LO
   ⟨0x801C, 0x14, 0x40, 1, 0, 0xFFFF, 0, 0, 0, 0, 0xFFFF, 0⟩,  -- NM_UDATA_HI
   ⟨0x8020, 0x14, 0x40, 1, 0, 0, 0, 0, 0, 0, 0xFFFF0F, 0⟩,  -- NM_STATUS
   ⟨0x8024, 0x14, 0x40, 1, 0, 0, 0, 0, 0, 0xFFFFFFFF, 0xFFFFFFFF, 0⟩,  -- NM_RX
   ⟨0x8028, 0x14, 0x40, 1, 0, 0, 0, 0, 0, 0xFFFFFFFF, 0xFFFFFFFF, 0⟩,  -- NM_TX
   ⟨0x842C, 4, 0x40, 1, 0, 0xFFFFFFFF, 0, 0, 0, 0, 0xFFFFFFFF, 0⟩,  -- NM_DST_IP
   ⟨0x8430, 4, 0x40, 1, 0, 0xFFFFFFFF, 0, 0, 0, 0, 0xFFFFFFFF, 0⟩,  -- NM_SRC_IP
   ⟨0x8434, 4, 0x40, 1, 0, 0xFFFFFFFF, 0, 0, 0, 0, 0xFFFFFFFF, 0⟩,  -- NM_DA_LO
   ⟨0x8438, 4, 0x40, 1, 0, 0xEFFFFFFF, 0, 0, 0, 0, 0xEFFFFFFF, 0⟩,  -- NM_DA_HI
   ⟨0x8800, 1, 0, 1, 0, 0, 0xFFFFF, 0, 0, 0, 0xFFFFF, 0⟩,  -- NM_EVENT
   ⟨0x8804, 1, 0, 1, 0, 0xFFFFF, 0, 0, 0, 0, 0xFFFFF, 0⟩,  -- NM_EVENT_EN
   ⟨0x8808, 1, 0, 1, 0, 0, 0, 0, 0, 0xFFFFFFFF, 0xFFFFFFFF, 0⟩,  -- NM_BAD
   ⟨0x880C, 1, 0, 1, 0, 0, 0, 0, 0, 0xFFFFFFFF, 0xFFFFFFFF, 0⟩]  -- NM_TIMEOUTS

/-- Registers of QRY. -/
def regsQry : List RegDesc :=
  [⟨0x10, 1, 0, 1, 0, 0, 0xF, 0, 0, 0, 0xF, 0⟩,  -- EVENT
   ⟨0x14, 1, 0, 1, 0, 0xF, 0, 0, 0, 0, 0xF, 0⟩,  -- EVENT_EN
   ⟨0x40, 1, 0, 1, 0, 0, 0, 0, 0, 0xFFFFFFFF, 0xFFFFFFFF, 0⟩,  -- ERR_POP_LO
   ⟨0x44, 1, 0, 1, 0, 0, 0, 0, 0, 0, 0xFFFF, 0⟩,  -- ERR_POP_HI
   ⟨0x48, 1, 0, 1, 0, 0, 0, 0, 0, 0xFFFF0000, 0xFFFF000F, 0⟩,  -- ERR_INFO
   ⟨0x80, 1, 0, 1, 0, 0, 0, 0, 0, 0xFFFFFFFF, 0xFFFFFFFF, 0⟩,  -- GRANTS
   ⟨0x84, 1, 0, 1, 0, 0, 0, 0, 0, 0xFFFFFFFF, 0xFFFFFFFF, 0⟩,  -- FREES
   ⟨0x88, 1, 0, 1, 0, 0, 0, 0, 0, 0xFFFFFFFF, 0xFFFFFFFF, 0⟩,  -- FALLBACKS
   ⟨0x8C, 1, 0, 1, 0, 0, 0, 0, 0, 0xFFFFFFFF, 0xFFFFFFFF, 0⟩,  -- REFUSED_QUOTA
   ⟨0x90, 1, 0, 1, 0, 0, 0, 0, 0, 0xFFFFFFFF, 0xFFFFFFFF, 0⟩,  -- REFUSED_EMPTY
   ⟨0x94, 1, 0, 1, 0, 0, 0, 0, 0, 0xFFFFFFFF, 0xFFFFFFFF, 0⟩,  -- NOT_BLOCK
   ⟨0x98, 1, 0, 1, 0, 0, 0, 0, 0, 0xFFFFFFFF, 0xFFFFFFFF, 0⟩,  -- DOUBLE_FREE
   ⟨0x9C, 1, 0, 1, 0, 0, 0, 0, 0, 0xFFFFFFFF, 0xFFFFFFFF, 0⟩,  -- WRONG_OWNER
   ⟨0xA0, 1, 0, 1, 0, 0, 0, 0, 0, 0xFFFFFFFF, 0xFFFFFFFF, 0⟩,  -- SCRUBS
   ⟨0x100, 8, 0x10, 1, 0, 0xFFFFFFC0, 0, 0, 0, 0, 0xFFFFFFC0, 0⟩,  -- POOL_BASE_LO
   ⟨0x104, 8, 0x10, 1, 0, 0xFF, 0, 0, 0, 0, 0xFF, 0⟩,  -- POOL_BASE_HI
   ⟨0x108, 8, 0x10, 1, 0, 0x301FFFF, 0, 0, 0, 0, 0x301FFFF, 0⟩,  -- POOL_CFG
   ⟨0x10C, 8, 0x10, 1, 0, 0, 0, 0, 0, 0, 0xFFFFFFFF, 0⟩,  -- POOL_FREE
   ⟨0x1000, 0x20, 0x80, 8, 4, 0x1FFFF, 0, 0, 0, 0, 0x1FFFF, 0⟩,  -- QUOTA0
   ⟨0x1020, 0x20, 0x80, 8, 4, 0, 0, 0, 0, 0, 0xFFFFFFFF, 0⟩,  -- USED0
   ⟨0x1040, 0x20, 0x80, 1, 0, 0x3FFF, 0, 0, 0, 0, 0x3FFF, 0⟩,  -- SIZE
   ⟨0x1044, 0x20, 0x80, 1, 0, 0, 0, 0, 0, 0, 0xFFFFFFFF, 0⟩,  -- ALLOC_LO
   ⟨0x1048, 0x20, 0x80, 1, 0, 0, 0, 0, 0, 0, 0xFFFF07FF, 0⟩,  -- ALLOC_HI
   ⟨0x104C, 0x20, 0x80, 1, 0, 0, 0, 0, 0xFFFFFFFF, 0, 0xFFFFFFFF, 0⟩,  -- FREE_LO
   ⟨0x1050, 0x20, 0x80, 1, 0, 0, 0, 0, 0xFF, 0, 0xFF, 0⟩,  -- FREE_HI
   ⟨0x4640, 0x17, 0x40, 1, 0, 0x7F7F01, 0, 0, 0, 0, 0x7F7F01, 0⟩,  -- CFG
   ⟨0x4004, 0x30, 0x40, 1, 0, 0, 0, 0, 0, 0, 0x7F, 0⟩,  -- STATUS
   ⟨0x4648, 0x17, 0x40, 1, 0, 0xFFFFFFFF, 0, 0, 0, 0, 0xFFFFFFFF, 0⟩,  -- PUSH_LO
   ⟨0x464C, 0x17, 0x40, 1, 0, 0xFFFFFFFF, 0, 0, 0, 0, 0xFFFFFFFF, 0⟩,  -- PUSH_HI
   ⟨0x4650, 0x17, 0x40, 1, 0, 0, 0, 0, 3, 0, 3, 0⟩] ++  -- PUSH_CMD
  [⟨0x4654, 0x17, 0x40, 1, 0, 0, 0, 0, 0, 0, 0xFFFFFFFF, 0⟩,  -- POP_LO
   ⟨0x4658, 0x17, 0x40, 1, 0, 0, 0, 0, 0, 0, 0xFFFFFFFF, 0⟩,  -- POP_HI
   ⟨0x465C, 0x17, 0x40, 1, 0, 0, 0, 0, 0, 0, 0x7, 0⟩,  -- POP_INFO
   ⟨0x4660, 0x17, 0x40, 1, 0, 0, 0, 0, 1, 0, 1, 0⟩,  -- CONS_CTRL
   ⟨0x4024, 0x30, 0x40, 1, 0, 0, 0, 0, 0, 0xFFFFFFFF, 0xFFFFFFFF, 0⟩,  -- PARITY
   ⟨0x4028, 0x30, 0x40, 1, 0, 0, 0, 0, 0, 0xFFFFFFFF, 0xFFFFFFFF, 0⟩,  -- OVERFLOW
   ⟨0x402C, 0x30, 0x40, 1, 0, 0, 0, 0, 0, 0xFFFFFFFF, 0xFFFFFFFF, 0⟩,  -- REWINDS
   ⟨0x4030, 0x30, 0x40, 1, 0, 0, 0, 0, 0, 0xFFFFFFFF, 0xFFFFFFFF, 0⟩]  -- DROPPED_REST

/-- Registers of CRU. -/
def regsCru : List RegDesc :=
  [⟨0, 1, 0, 1, 0, 0, 0, 0, 0, 0, 7, 6⟩,  -- INFO
   ⟨4, 1, 0, 1, 0, 3, 0, 0, 0, 0, 3, 1⟩,  -- CFG
   ⟨8, 1, 0, 1, 0, 0, 0x1F, 0, 0, 0, 0x1F, 0⟩,  -- ALARM
   ⟨0xC, 1, 0, 1, 0, 0x1F, 0, 0, 0, 0, 0x1F, 0x1F⟩,  -- ALARM_EN
   ⟨0x10, 1, 0, 1, 0, 0, 0, 0, 0, 0, 0x3FF, 0⟩,  -- WARN_SLOT
   ⟨0x20, 1, 0, 1, 0, 0, 0xF, 0, 0, 0, 0xF, 0⟩,  -- EVENT
   ⟨0x24, 1, 0, 1, 0, 0xF, 0, 0, 0, 0, 0xF, 0⟩,  -- EVENT_EN
   ⟨0x100, 1, 0, 1, 0, 0, 0, 0, 0, 0xFFFFFFFF, 0xFFFFFFFF, 0⟩,  -- JOBS_OK
   ⟨0x104, 1, 0, 1, 0, 0, 0, 0, 0, 0xFFFFFFFF, 0xFFFFFFFF, 0⟩,  -- JOBS_FAILED
   ⟨0x108, 1, 0, 1, 0, 0, 0, 0, 0, 0xFFFFFFFF, 0xFFFFFFFF, 0⟩,  -- TAG_FAILS
   ⟨0x10C, 1, 0, 1, 0, 0, 0, 0, 0, 0xFFFFFFFF, 0xFFFFFFFF, 0⟩,  -- KEY_REFUSED
   ⟨0x110, 1, 0, 1, 0, 0, 0, 0, 0, 0xFFFFFFFF, 0xFFFFFFFF, 0⟩,  -- ERASURES
   ⟨0x114, 1, 0, 1, 0, 0, 0, 0, 0, 0xFFFFFFFF, 0xFFFFFFFF, 0⟩,  -- UNWRAP_FAILS
   ⟨0x1000, 0x10, 0x40, 1, 0, 0xFFFFF000, 0, 0, 0, 0, 0xFFFFF000, 0⟩,  -- BASE_LO
   ⟨0x1004, 0x10, 0x40, 1, 0, 0xFF, 0, 0, 0, 0, 0xFF, 0⟩,  -- BASE_HI
   ⟨0x1008, 0x10, 0x40, 1, 0, 0x17F, 0, 0, 0, 0, 0x17F, 8⟩,  -- J_CFG
   ⟨0x100C, 0x10, 0x40, 1, 0, 0x7F, 0, 0, 0, 0, 0x7F, 0⟩,  -- OWNER
   ⟨0x1010, 0x10, 0x40, 1, 0, 0xFFFF, 0, 0, 0, 0, 0xFFFF, 0⟩,  -- J_TAIL
   ⟨0x1014, 0x10, 0x40, 1, 0, 0, 0, 0, 0, 0, 0xFFFFFFFF, 0⟩,  -- J_HEAD
   ⟨0x1018, 0x10, 0x40, 1, 0, 0, 0, 0, 0, 0, 0xFFFFFFFF, 0⟩,  -- C_TAIL
   ⟨0x101C, 0x10, 0x40, 1, 0, 0xFFFF, 0, 0, 0, 0, 0xFFFF, 0⟩,  -- C_HEAD
   ⟨0x1020, 0x10, 0x40, 1, 0, 0, 2, 0, 0, 0, 0xFFF3, 1⟩,  -- J_STATUS
   ⟨0x8000, 1, 0x20, 1, 0, 0, 0, 0, 0, 0, 0xFFFFFF0F, 0x1007⟩,  -- ATTR 0
   ⟨0x8000, 0x400, 0x20, 1, 0, 0, 0, 0, 0, 0, 0xFFFFFF0F, 0⟩,  -- ATTR
   ⟨0x8004, 0x400, 0x20, 1, 0, 0, 0, 0, 0, 0, 0xFFFFFFFF, 0⟩,  -- USES_LO
   ⟨0x8008, 0x400, 0x20, 1, 0, 0, 0, 0, 0, 0, 0xFFFFFFFF, 0⟩,  -- USES_HI
   ⟨0x800C, 0x400, 0x20, 1, 0, 0, 0, 0, 0, 0, 0xFFFFFFFF, 0⟩,  -- LIMIT_LO
   ⟨0x8010, 0x400, 0x20, 1, 0, 0, 0, 0, 0, 0, 0xFFFFFFFF, 0⟩]  -- LIMIT_HI

/-- Registers of LSC. -/
def regsLsc : List RegDesc :=
  [⟨0, 1, 0, 1, 0, 0, 0, 0, 0, 0, 0xFF, 0x88⟩,  -- STATE_ALL
   ⟨0x10, 1, 0, 1, 0, 0, 0x3F, 0, 0, 0, 0x3F, 0⟩,  -- EVENT
   ⟨0x14, 1, 0, 1, 0, 0x3F, 0, 0, 0, 0, 0x3F, 0⟩,  -- EVENT_EN
   ⟨0x1044, 2, 0x1000, 1, 0, 0, 0xFF080000, 0, 0, 0, 0xFF0FFFFF, 0⟩,  -- D_IRQ_PEND
   ⟨0x1000, 2, 0x1000, 1, 0, 0, 0, 0, 0, 0, 0x3F, 8⟩,  -- D_STATUS
   ⟨0x1004, 2, 0x1000, 1, 0, 0x3FF0F, 0, 0, 0, 0, 0x3FF0F, 0xA00⟩,  -- D_CFG
   ⟨0x1008, 1, 0, 1, 0, 0xFFFFFFFF, 0, 0, 0, 0, 0xFFFFFFFF, 0x20000000⟩,  -- D_SPLIT_PCA
   ⟨0x2008, 1, 0, 1, 0, 0xFFFFFFFF, 0, 0, 0, 0, 0xFFFFFFFF, 0x21000000⟩,  -- D_SPLIT_PCB
   ⟨0x100C, 2, 0x1000, 1, 0, 0, 0, 0, 0, 0, 0xF, 0⟩,  -- D_FAULT_CAUSE
   ⟨0x1010, 2, 0x1000, 1, 0, 0, 0, 0, 0, 0, 0xFFFFFFFF, 0⟩,  -- D_FAULT_PC
   ⟨0x1014, 2, 0x1000, 1, 0, 0, 0, 0, 0, 0, 0xFFFFFFFF, 0⟩,  -- D_SYNC_HASH
   ⟨0x1018, 2, 0x1000, 1, 0, 0, 0, 0, 0, 0, 0xFFFFFFFF, 0⟩,  -- D_SYNC_HASH_DRAG
   ⟨0x1020, 2, 0x1000, 1, 0, 0, 0, 0, 0, 0xFFFFFFFF, 0xFFFFFFFF, 0⟩,  -- D_FAULTS
   ⟨0x1024, 2, 0x1000, 1, 0, 0, 0, 0, 0, 0xFFFFFFFF, 0xFFFFFFFF, 0⟩,  -- D_SYNCS
   ⟨0x1028, 2, 0x1000, 1, 0, 0, 0, 0, 0, 0xFFFFFFFF, 0xFFFFFFFF, 0⟩,  -- D_OUT_DISCARD
   ⟨0x102C, 2, 0x1000, 1, 0, 0, 0, 0, 0, 0xFFFFFFFF, 0xFFFFFFFF, 0⟩,  -- D_ACT_OVR
   ⟨0x1048, 2, 0x1000, 1, 0, 0xFF0FFFFF, 0, 0, 0, 0, 0xFF0FFFFF, 0⟩,  -- D_IRQ_EN0
   ⟨0x104C, 2, 0x1000, 1, 0, 0xFF0FFFFF, 0, 0, 0, 0, 0xFF0FFFFF, 0⟩,  -- D_IRQ_EN1
   ⟨0x1100, 2, 0x1000, 8, 0x10, 0xFFFF0001, 0, 0, 0, 0, 0xFFFF0001, 0⟩,  -- ACT_CTRL
   ⟨0x1104, 2, 0x1000, 8, 0x10, 0x3FFFFFFF, 0, 0, 0, 0, 0x3FFFFFFF, 0⟩,  -- ACT_START_NS
   ⟨0x1108, 2, 0x1000, 8, 0x10, 0xFFFFFFFF, 0, 0, 0, 0, 0xFFFFFFFF, 0⟩,  -- ACT_START_SEC_LO
   ⟨0x110C, 2, 0x1000, 8, 0x10, 0xFFFFFFFF, 0, 0, 0, 0, 0xFFFFFFFF, 0⟩,  -- ACT_PERIOD
   ⟨0x1800, 2, 0x1000, 0x12, 4, 0xFFFFFFFF, 0, 0, 0, 0, 0xFFFFFFFF, 0⟩,  -- O_BODY0
   ⟨0x1880, 2, 0x1000, 1, 0, 0, 0, 0, 0x1F03, 0, 0x1F03, 0⟩,  -- O_SEND
   ⟨0x1884, 2, 0x1000, 1, 0, 0, 0, 0, 3, 0, 3, 0⟩,  -- O_CTRL
   ⟨0x1888, 2, 0x1000, 1, 0, 0, 0, 0, 0, 0, 0x7FF, 0⟩,  -- O_STATUS
   ⟨0x188C, 2, 0x1000, 1, 0, 0xFFFF, 0, 0, 0, 0, 0xFFFF, 0⟩,  -- O_NEXT_SEQ
   ⟨0x1890, 2, 0x1000, 1, 0, 0, 0, 0, 0, 0, 0xFFFF, 0⟩,  -- O_PEER_SEQ
   ⟨0x1894, 2, 0x1000, 1, 0, 0, 0, 0, 0, 0, 0x3FFFF, 0⟩,  -- O_CLAIM
   ⟨0x1898, 2, 0x1000, 1, 0, 0, 0, 0, 0, 0xFFFFFFFF, 0xFFFFFFFF, 0⟩] ++  -- O_SENT
  [⟨0x189C, 2, 0x1000, 1, 0, 0, 0, 0, 0, 0xFFFFFFFF, 0xFFFFFFFF, 0⟩,  -- O_DISCARD
   ⟨0x18A0, 2, 0x1000, 1, 0, 0, 0, 0, 0, 0xFFFFFFFF, 0xFFFFFFFF, 0⟩]  -- O_MIRROR_LOSSES

/-- Registers of ORD. -/
def regsOrd : List RegDesc :=
  [⟨0, 1, 0, 1, 0, 0x7FFF3FF, 0, 0, 0, 0, 0x7FFF3FF, 0x4064019⟩,  -- CFG
   ⟨4, 1, 0, 1, 0, 0, 0, 0, 0, 0, 0xFFFF03FF, 0x60⟩,  -- STATUS
   ⟨8, 1, 0, 1, 0, 0, 0, 0, 0, 0, 0x3FFF, 0⟩,  -- HOLDOFF_LEFT
   ⟨0xC, 1, 0, 1, 0, 0, 0, 0, 0, 0, 0x7FFFF, 0⟩,  -- SWAP_INFO
   ⟨0x10, 1, 0, 1, 0, 0, 0x7FF, 0, 0, 0, 0x7FF, 0⟩,  -- EVENT
   ⟨0x14, 1, 0, 1, 0, 0x7FF, 0, 0, 0, 0, 0x7FF, 0⟩,  -- EVENT_EN
   ⟨0x100, 1, 0, 1, 0, 0, 0, 0, 0, 0xFFFFFFFF, 0xFFFFFFFF, 0⟩,  -- ACCEPT_A
   ⟨0x104, 1, 0, 1, 0, 0, 0, 0, 0, 0xFFFFFFFF, 0xFFFFFFFF, 0⟩,  -- ACCEPT_B
   ⟨0x108, 1, 0, 1, 0, 0, 0, 0, 0, 0xFFFFFFFF, 0xFFFFFFFF, 0⟩,  -- DUP_A
   ⟨0x10C, 1, 0, 1, 0, 0, 0, 0, 0, 0xFFFFFFFF, 0xFFFFFFFF, 0⟩,  -- DUP_B
   ⟨0x110, 1, 0, 1, 0, 0, 0, 0, 0, 0xFFFFFFFF, 0xFFFFFFFF, 0⟩,  -- STALE
   ⟨0x114, 1, 0, 1, 0, 0, 0, 0, 0, 0xFFFFFFFF, 0xFFFFFFFF, 0⟩,  -- OUT_OF_WINDOW
   ⟨0x118, 1, 0, 1, 0, 0, 0, 0, 0, 0xFFFFFFFF, 0xFFFFFFFF, 0⟩,  -- FAULT_DISC
   ⟨0x11C, 1, 0, 1, 0, 0, 0, 0, 0, 0xFFFFFFFF, 0xFFFFFFFF, 0⟩,  -- HOLDOFF_DISC
   ⟨0x120, 1, 0, 1, 0, 0, 0, 0, 0, 0xFFFFFFFF, 0xFFFFFFFF, 0⟩,  -- LINK_CRC
   ⟨0x124, 1, 0, 1, 0, 0, 0, 0, 0, 0xFFFFFFFF, 0xFFFFFFFF, 0⟩,  -- SKEW_FULL
   ⟨0x128, 1, 0, 1, 0, 0, 0, 0, 0, 0xFFFFFFFF, 0xFFFFFFFF, 0⟩,  -- CLAIMS_OK
   ⟨0x12C, 1, 0, 1, 0, 0, 0, 0, 0, 0xFFFFFFFF, 0xFFFFFFFF, 0⟩,  -- CLAIMS_REFUSED
   ⟨0x130, 1, 0, 1, 0, 0, 0, 0, 0, 0xFFFFFFFF, 0xFFFFFFFF, 0⟩,  -- NONE_ENTRIES
   ⟨0x134, 1, 0, 1, 0, 0, 0, 0, 0, 0xFFFFFFFF, 0xFFFFFFFF, 0⟩,  -- TAKEBACKS
   ⟨0x138, 1, 0, 1, 0, 0, 0, 0, 0, 0xFFFFFFFF, 0xFFFFFFFF, 0⟩]  -- CAN_DROP

/-- Registers of LCH. -/
def regsLch : List RegDesc :=
  [⟨0, 1, 0, 1, 0, 0, 0, 0, 0, 0, 0xFF, 0x28⟩,  -- INFO
   ⟨4, 1, 0, 1, 0, 0x7FF0000, 0, 1, 0, 0, 0x7FF0001, 0x1F40000⟩,  -- CTRL
   ⟨8, 1, 0, 1, 0, 0, 0, 0, 0, 0, 0x7FF0003, 0⟩,  -- STATE
   ⟨0xC, 1, 0, 1, 0, 0, 0, 0, 0, 0, 0xFFFFFFFF, 0⟩,  -- RAIL
   ⟨0x10, 1, 0, 1, 0, 0, 0, 0, 0, 0, 0xFFFF0003, 0⟩,  -- RAIL_STATUS
   ⟨0x14, 1, 0, 1, 0, 0, 0, 0, 0, 0, 0x1F7F, 0x40⟩,  -- DERATE
   ⟨0x18, 1, 0, 1, 0, 0, 0, 0, 0, 0, 0xFFFFFFFF, 0⟩,  -- LAST_REJECT
   ⟨0x1C, 1, 0, 1, 0, 0, 0, 0, 0, 0, 0xF, 0⟩,  -- LAST_REASON
   ⟨0x20, 1, 0, 1, 0, 0, 0x3FF, 0, 0, 0, 0x3FF, 0⟩,  -- EVENT
   ⟨0x24, 1, 0, 1, 0, 0x3FF, 0, 0, 0, 0, 0x3FF, 0⟩,  -- EVENT_EN
   ⟨0x28, 1, 0, 1, 0, 0, 0xFFFFFFFF, 0, 0, 0, 0xFFFFFFFF, 0⟩,  -- EVENT_CHAN_LO
   ⟨0x2C, 1, 0, 1, 0, 0, 0xFF, 0, 0, 0, 0xFF, 0⟩,  -- EVENT_CHAN_HI
   ⟨0x100, 1, 0, 1, 0, 0, 0, 0, 0, 0xFFFFFFFF, 0xFFFFFFFF, 0⟩,  -- CMD_APPLIED
   ⟨0x104, 1, 0, 1, 0, 0, 0, 0, 0, 0xFFFFFFFF, 0xFFFFFFFF, 0⟩,  -- CMD_REJECT
   ⟨0x108, 1, 0, 1, 0, 0, 0, 0, 0, 0xFFFFFFFF, 0xFFFFFFFF, 0⟩,  -- NOT_FITTED_DISC
   ⟨0x10C, 1, 0, 1, 0, 0, 0, 0, 0, 0xFFFFFFFF, 0xFFFFFFFF, 0⟩,  -- HOLD_STARTS
   ⟨0x110, 1, 0, 1, 0, 0, 0, 0, 0, 0xFFFFFFFF, 0xFFFFFFFF, 0⟩,  -- HOLD_EXPIRIES
   ⟨0x114, 1, 0, 1, 0, 0, 0, 0, 0, 0xFFFFFFFF, 0xFFFFFFFF, 0⟩,  -- UV_P1
   ⟨0x118, 1, 0, 1, 0, 0, 0, 0, 0, 0xFFFFFFFF, 0xFFFFFFFF, 0⟩,  -- UV_P2
   ⟨0x1000, 0x28, 0x40, 1, 0, 0x7F073F, 0, 0, 0, 0, 0x7F073F, 0x3C0000⟩,  -- CH_CFG
   ⟨0x1004, 0x28, 0x40, 1, 0, 0x3FFF, 0, 0, 0, 0, 0x3FFF, 0⟩,  -- CH_FS_DUTY
   ⟨0x1008, 0x28, 0x40, 1, 0, 0, 0, 0, 0, 0, 0x3FFF000F, 0⟩,  -- CH_CMD
   ⟨0x100C, 0x28, 0x40, 1, 0, 0, 0, 0, 0, 0, 0x1FFFFFF, 0⟩,  -- CH_PHASE
   ⟨0x1010, 0x28, 0x40, 1, 0, 0, 0, 0, 0, 0, 0xFF0F37, 0⟩,  -- CH_STATE
   ⟨0x1014, 0x28, 0x40, 1, 0, 0, 0xFF, 0, 0, 0, 0xFF, 0⟩,  -- CH_FLAGS
   ⟨0x1018, 0x28, 0x40, 1, 0, 0, 0, 0, 0, 0, 0xFF3FFF, 0⟩,  -- CH_DUTY_EFF
   ⟨0x1020, 0x28, 0x40, 1, 0, 0, 0, 0, 0, 0xFFFFFFFF, 0xFFFFFFFF, 0⟩,  -- SHORTS
   ⟨0x1024, 0x28, 0x40, 1, 0, 0, 0, 0, 0, 0xFFFFFFFF, 0xFFFFFFFF, 0⟩,  -- THERMAL_TRIPS
   ⟨0x1028, 0x28, 0x40, 1, 0, 0, 0, 0, 0, 0xFFFFFFFF, 0xFFFFFFFF, 0⟩,  -- UV_OFFS
   ⟨0x102C, 0x28, 0x40, 1, 0, 0, 0, 0, 0, 0xFFFFFFFF, 0xFFFFFFFF, 0⟩] ++  -- OC_WARNS
  [⟨0x4000, 1, 0, 1, 0, 0, 0, 0, 0, 0, 0xFFFFFFFF, 0x18406032⟩,  -- P_WORD0 slot 0
   ⟨0x4010, 1, 0, 1, 0, 0, 0, 0, 0, 0, 0xFFFFFFFF, 0x14205005⟩,  -- P_WORD0 slot 1
   ⟨0x4020, 1, 0, 1, 0, 0, 0, 0, 0, 0, 0xFFFFFFFF, 0x1830012C⟩,  -- P_WORD0 slot 2
   ⟨0x4030, 1, 0, 1, 0, 0, 0, 0, 0, 0, 0xFFFFFFFF, 0x142877D0⟩,  -- P_WORD0 slot 3
   ⟨0x4040, 1, 0, 1, 0, 0, 0, 0, 0, 0, 0xFFFFFFFF, 0x14200014⟩,  -- P_WORD0 slot 4
   ⟨0x4050, 1, 0, 1, 0, 0, 0, 0, 0, 0, 0xFFFFFFFF, 0x14144000⟩,  -- P_WORD0 slot 5
   ⟨0x4060, 0xA, 0x10, 1, 0, 0x7F7F77FF, 0, 0, 0, 0, 0x7F7F77FF, 0x18406032⟩,  -- P_WORD0 slots 6-15
   ⟨0x4004, 1, 0, 1, 0, 0, 0, 0, 0, 0, 0xFFFFFFFF, 0xC80814⟩,  -- P_WORD1 slot 0
   ⟨0x4014, 1, 0, 1, 0, 0, 0, 0, 0, 0, 0xFFFFFFFF, 0x320212⟩,  -- P_WORD1 slot 1
   ⟨0x4024, 1, 0, 1, 0, 0, 0, 0, 0, 0, 0xFFFFFFFF, 0x1F40414⟩,  -- P_WORD1 slot 2
   ⟨0x4034, 1, 0, 1, 0, 0, 0, 0, 0, 0, 0xFFFFFFFF, 0x640812⟩,  -- P_WORD1 slot 3
   ⟨0x4044, 1, 0, 1, 0, 0, 0, 0, 0, 0, 0xFFFFFFFF, 0x3E80012⟩,  -- P_WORD1 slot 4
   ⟨0x4054, 1, 0, 1, 0, 0, 0, 0, 0, 0, 0xFFFFFFFF, 0x140412⟩,  -- P_WORD1 slot 5
   ⟨0x4064, 0xA, 0x10, 1, 0, 0x3FFFF7F, 0, 0, 0, 0, 0x3FFFF7F, 0xC80814⟩,  -- P_WORD1 slots 6-15
   ⟨0x4008, 1, 0, 1, 0, 0, 0, 0, 0, 0, 0xFFFFFFFF, 0x3390⟩,  -- P_WORD2 slot 0
   ⟨0x4018, 1, 0, 1, 0, 0, 0, 0, 0, 0, 0xFFFFFFFF, 0x3390⟩,  -- P_WORD2 slot 1
   ⟨0x4028, 1, 0, 1, 0, 0, 0, 0, 0, 0, 0xFFFFFFFF, 0x3390⟩,  -- P_WORD2 slot 2
   ⟨0x4038, 1, 0, 1, 0, 0, 0, 0, 0, 0, 0xFFFFFFFF, 0x3390⟩,  -- P_WORD2 slot 3
   ⟨0x4048, 1, 0, 1, 0, 0, 0, 0, 0, 0, 0xFFFFFFFF, 0x3390⟩,  -- P_WORD2 slot 4
   ⟨0x4058, 1, 0, 1, 0, 0, 0, 0, 0, 0, 0xFFFFFFFF, 0x3390⟩,  -- P_WORD2 slot 5
   ⟨0x4068, 0xA, 0x10, 1, 0, 0xFFFF, 0, 0, 0, 0, 0xFFFF, 0x3390⟩,  -- P_WORD2 slots 6-15
   ⟨0x5000, 8, 0x10, 1, 0, 0xFFFF0000, 0, 0, 0, 0, 0xFFFF0000, 0⟩,  -- TB_CTRL
   ⟨0x5004, 8, 0x10, 1, 0, 0x3FFFFFFF, 0, 0, 0, 0, 0x3FFFFFFF, 0⟩,  -- TB_START_NS
   ⟨0x5008, 8, 0x10, 1, 0, 0xFFFFFFFF, 0, 0, 0, 0, 0xFFFFFFFF, 0⟩,  -- TB_START_SEC_LO
   ⟨0x500C, 8, 0x10, 1, 0, 0xFFFFFFFF, 0, 0, 0, 0, 0xFFFFFFFF, 0⟩]  -- TB_PERIOD

/-- Registers of KEY. -/
def regsKey : List RegDesc :=
  [⟨0, 1, 0, 1, 0, 0, 0, 0, 0, 0, 0xFFFF00FF, 0⟩,  -- STATUS
   ⟨4, 1, 0, 1, 0, 0x3FFF7FF, 0, 0, 0, 0, 0x3FFF7FF, 0x23C8064⟩,  -- CFG
   ⟨8, 1, 0, 1, 0, 0xFFFFFFFF, 0, 0, 0, 0, 0xFFFFFFFF, 2⟩,  -- SRC_EN_LO
   ⟨0xC, 1, 0, 1, 0, 0x3FFFF, 0, 0, 0, 0, 0x3FFFF, 0⟩,  -- SRC_EN_HI
   ⟨0x10, 1, 0, 1, 0, 0xFFFFFFFF, 0, 0, 0, 0, 0xFFFFFFFF, 0⟩,  -- WAKE_CFG
   ⟨0x14, 1, 0, 1, 0, 0x1FFFF, 0, 0, 0, 0, 0x1FFFF, 0⟩,  -- TIMER
   ⟨0x18, 1, 0, 1, 0, 0, 0, 0, 0, 0, 0xFF, 0⟩,  -- CAUSE
   ⟨0x1C, 1, 0, 1, 0, 0, 0, 0, 0, 0, 0xFFFFFFFF, 0⟩,  -- CAUSE_SET_LO
   ⟨0x20, 1, 0, 1, 0, 0, 0, 0, 0, 0, 0xFFFFFFFF, 0⟩,  -- CAUSE_SET_HI
   ⟨0x24, 1, 0, 1, 0, 0, 0, 0, 0, 0, 0xFFFFFFFF, 0⟩,  -- LOCKOUT_LO
   ⟨0x28, 1, 0, 1, 0, 0, 0, 0, 0, 0, 0xFFFFFFFF, 0⟩,  -- LOCKOUT_HI
   ⟨0x2C, 1, 0, 1, 0, 0, 0, 0, 0, 0, 0xFFFFFFFF, 0⟩,  -- KSEC
   ⟨0x30, 1, 0, 1, 0, 0, 0x1F, 0, 0, 0, 0x1F, 0⟩,  -- EVENT
   ⟨0x34, 1, 0, 1, 0, 0x1F, 0, 0, 0, 0, 0x1F, 0⟩,  -- EVENT_EN
   ⟨0x40, 1, 0, 1, 0, 0, 0, 0, 0, 0xFFFFFFFF, 0xFFFFFFFF, 0⟩,  -- WAKES
   ⟨0x44, 1, 0, 1, 0, 0, 0, 0, 0, 0xFFFFFFFF, 0xFFFFFFFF, 0⟩,  -- FALSE_WAKES
   ⟨0x48, 1, 0, 1, 0, 0, 0, 0, 0, 0xFFFFFFFF, 0xFFFFFFFF, 0⟩,  -- LATCHED_WAKES
   ⟨0x4C, 1, 0, 1, 0, 0, 0, 0, 0, 0xFFFFFFFF, 0xFFFFFFFF, 0⟩,  -- LOCKOUTS
   ⟨0x100, 0x10, 4, 1, 0, 0xFFFFFFFF, 0, 0, 0, 0, 0xFFFFFFFF, 0⟩,  -- RETAIN0
   ⟨0x200, 0x20, 4, 1, 0, 0, 0, 0, 0, 0, 0xFFFFFFFF, 0⟩]  -- LOG0

/-- Registers of HBR. -/
def regsHbr : List RegDesc :=
  [⟨0, 1, 0, 1, 0, 0, 0, 0, 0, 0, 0x1FFFF, 0⟩,  -- INFO
   ⟨4, 1, 0, 1, 0, 0xFFFF, 0, 0, 0, 0, 0xFFFFFFF, 0x2710⟩,  -- CFG
   ⟨0x10, 1, 0, 1, 0, 0, 0x3F, 0, 0, 0, 0x3F, 0⟩,  -- EVENT
   ⟨0x14, 1, 0, 1, 0, 0x3F, 0, 0, 0, 0, 0x3F, 0⟩,  -- EVENT_EN
   ⟨0x18, 1, 0, 1, 0, 0, 0xFF, 0, 0, 0, 0xFF, 0⟩,  -- EVENT_FUNC
   ⟨0x40, 1, 0, 1, 0, 0, 0, 0, 0, 0xFFFFFFFF, 0xFFFFFFFF, 0⟩,  -- ERR_POP_LO
   ⟨0x44, 1, 0, 1, 0, 0, 0, 0, 0, 0, 0xFFFFFFFF, 0⟩,  -- ERR_POP_HI
   ⟨0x48, 1, 0, 1, 0, 0, 0, 0, 0, 0, 0xFFFF, 0⟩,  -- ERR_POP_INFO
   ⟨0x4C, 1, 0, 1, 0, 0, 0, 0, 0, 0xFFFF0000, 0xFFFF001F, 0⟩,  -- ERR_INFO
   ⟨0x100, 1, 0, 1, 0, 0, 0, 0, 0, 0xFFFFFFFF, 0xFFFFFFFF, 0⟩,  -- IN_WR_DROP
   ⟨0x104, 1, 0, 1, 0, 0, 0, 0, 0, 0xFFFFFFFF, 0xFFFFFFFF, 0⟩,  -- IN_RD_FAIL
   ⟨0x108, 1, 0, 1, 0, 0, 0, 0, 0, 0xFFFFFFFF, 0xFFFFFFFF, 0⟩,  -- OUT_FAIL
   ⟨0x10C, 1, 0, 1, 0, 0, 0, 0, 0, 0xFFFFFFFF, 0xFFFFFFFF, 0⟩,  -- OUT_WRITES
   ⟨0x110, 1, 0, 1, 0, 0, 0, 0, 0, 0xFFFFFFFF, 0xFFFFFFFF, 0⟩,  -- OUT_READS
   ⟨0x114, 1, 0, 1, 0, 0, 0, 0, 0, 0xFFFFFFFF, 0xFFFFFFFF, 0⟩,  -- MSIX_SENT
   ⟨0x118, 1, 0, 1, 0, 0, 0, 0, 0, 0xFFFFFFFF, 0xFFFFFFFF, 0⟩,  -- SB_WRITES
   ⟨0x11C, 1, 0, 1, 0, 0, 0, 0, 0, 0xFFFFFFFF, 0xFFFFFFFF, 0⟩,  -- UNEXPECTED_CPL
   ⟨0x1000, 0x10, 0x20, 1, 0, 0xFFFFF000, 0, 0, 0, 0, 0xFFFFF000, 0⟩,  -- R_BASE_LO
   ⟨0x1004, 0x10, 0x20, 1, 0, 0xFF, 0, 0, 0, 0, 0xFF, 0⟩,  -- R_BASE_HI
   ⟨0x1008, 0x10, 0x20, 1, 0, 0xFFFFFFF, 0, 0, 0, 0, 0xFFFFFFF, 0⟩,  -- R_SIZE
   ⟨0x100C, 0x10, 0x20, 1, 0, 0xFFFFF000, 0, 0, 0, 0, 0xFFFFF000, 0⟩,  -- R_PCI_LO
   ⟨0x1010, 0x10, 0x20, 1, 0, 0xFFFFFFFF, 0, 0, 0, 0, 0xFFFFFFFF, 0⟩,  -- R_PCI_HI
   ⟨0x1014, 0x10, 0x20, 1, 0, 0x701, 0, 0, 0, 0, 0x701, 0⟩]  -- R_CTRL

/-- Registers of HLT. -/
def regsHlt : List RegDesc :=
  [⟨0, 1, 0, 1, 0, 0, 0x7FFF, 0, 0, 0, 0x7FFF, 0⟩,  -- ALARM
   ⟨4, 1, 0, 1, 0, 0x3FFFFFFC, 0, 0, 0, 0, 0x3FFFFFFC, 0x30183280⟩,  -- REACT
   ⟨8, 1, 0, 1, 0, 0x7FFF, 0, 0, 0, 0, 0x7FFF, 0⟩,  -- ALARM_EN
   ⟨0xC, 1, 0, 1, 0, 0x1FFFFFF, 0, 0, 0, 0, 0x1FFFFFF, 0x4003C⟩,  -- CFG
   ⟨0x10, 1, 0, 1, 0, 0, 0, 0, 0, 0, 0xFFFFFFFF, 0⟩,  -- TEMP
   ⟨0x14, 1, 0, 1, 0, 0, 0, 0, 0, 0, 0xFFFFFFFF, 0⟩,  -- MARGIN
   ⟨0x18, 1, 0, 1, 0, 0, 0, 0, 0, 0, 0xFFFFFFFF, 0⟩,  -- GUARD
   ⟨0x1C, 1, 0, 1, 0, 0, 0, 0, 0, 0, 0xFFFFFFFF, 0⟩,  -- RON_RATIO
   ⟨0x20, 1, 0, 1, 0, 0, 0, 0, 0, 0, 0xFFFFFFFF, 0⟩,  -- RTH_RATIO
   ⟨0x28, 1, 0, 1, 0, 0, 0, 0, 0, 0, 0xFFFFFFFF, 0⟩,  -- LIFE_HOURS
   ⟨0x30, 1, 0, 1, 0, 0, 0, 0, 0, 0xFFFFFFFF, 0xFFFFFFFF, 0⟩,  -- UE_ADDR_LO
   ⟨0x34, 1, 0, 1, 0, 0, 0, 0, 0, 0, 0xFFFFFFFF, 0⟩,  -- UE_ADDR_HI
   ⟨0x100, 8, 4, 1, 0, 0, 0, 0, 0, 0xFFFFFFFF, 0xFFFFFFFF, 0⟩,  -- ECC0
   ⟨0x120, 1, 0, 1, 0, 0, 0, 0, 0, 0, 0xFFFFFFFF, 0⟩]  -- TILE

/-- The registers of block `b`, numbered as the access tables number blocks (0 SYS to 18 HLT). -/
def blockRegs : Nat → List RegDesc
  | 0 => regsSys
  | 1 => regsCmd
  | 2 => regsAcl
  | 3 => regsTim
  | 4 => regsSwc
  | 5 => regsPrs
  | 6 => regsRul
  | 7 => regsTmg
  | 8 => regsEth
  | 9 => regsCln
  | 10 => regsGwy
  | 11 => regsQry
  | 12 => regsCru
  | 13 => regsLsc
  | 14 => regsOrd
  | 15 => regsLch
  | 16 => regsKey
  | 17 => regsHbr
  | 18 => regsHlt
  | _ => []

/-- Base address of block `b` (R30). -/
def blockBase (b : Nat) : Nat := 0x40000000 + b * 0x100000

/-- The descriptor of an absolute register address: the blocks stand 0x100000 apart from 0x40000000 (R30). -/
def regDesc (a : Nat) : Option RegDesc :=
  if a / 0x100000 < 0x400 then none
  else (blockRegs (a / 0x100000 - 0x400)).find? (·.hit (a % 0x100000))

/-- The reset value of a register: what the chapter's table gives; where it gives none, log entries 2 and 3. -/
def regReset (a : Nat) : Word :=
  match regDesc a with
  | some d => if a = blockBase 0 + 4 then Config.variantId else BitVec.ofNat 32 d.reset
  | none => 0

end Sys2Proof.Machine
end

