-- ==== Sys2Proof/Machine/Masks.lean ====
section
/-! DEFINITION. Which mask bits an access to a register needs, as each block's chapter maps its registers (R86). -/

namespace Sys2Proof.Machine

/-- Which mask bits an access needs beside its right (R86). -/
inductive Mask where
  /-- The right alone. -/
  | none
  | bit (n : Nat)
  /-- The full mask. -/
  | full
  deriving DecidableEq, Repr

/-- TIM (R127). -/
def timMask (off : Nat) : Mask :=
  if off < 0x40 then .bit 0
  else if off < 0x60 then .bit (1 + (off - 0x40) / 0x10)
  else if 0x100 ≤ off ∧ off < 0x200 then .bit (8 + (off - 0x100) / 0x20)
  else if 0x200 ≤ off ∧ off < 0x280 then .bit (16 + (off - 0x200) / 0x20)
  else .bit 0

/-- SWC (R166). -/
def swcMask (off : Nat) : Mask :=
  if 0x1000 ≤ off ∧ off < 0x2500 then .bit ((off - 0x1000) / 0x100)
  else if 0x4000 ≤ off ∧ off < 0x4A80 then .bit ((off - 0x4000) / 0x80)
  else .bit 35

/-- PRS (R200). -/
def prsMask (off : Nat) : Mask :=
  if 0x1000 ≤ off ∧ off < 0x1200 then .bit ((off - 0x1000) / 0x40)
  else if 0x2000 ≤ off ∧ off < 0x2400 then .bit 9 else .bit 8

/-- RUL (R233). -/
def rulMask (off : Nat) : Mask := if off = 0x20 ∨ off = 0x24 then .bit 0 else .bit 5

/-- TMG (R262). -/
def tmgMask (off : Nat) : Mask :=
  if 0x1000 ≤ off ∧ off < 0x2500 then .bit ((off - 0x1000) / 0x100)
  else if 0x3000 ≤ off ∧ off < 0x3400 then .bit 32
  else if 0x4000 ≤ off ∧ off < 0x5500 then .bit ((off - 0x4000) / 0x100)
  else if 0x8000 ≤ off ∧ off < 0xD400 then .bit ((off - 0x8000) / 0x400)
  else .bit 35

/-- ETH (R297). -/
def ethMask (off : Nat) : Mask :=
  if 0x1000 ≤ off ∧ off < 0x2500 then .bit ((off - 0x1000) / 0x100)
  else if 0x8000 ≤ off ∧ off < 0x9800 then .bit (32 + off % 0x1000 / 0x40)
  else .full

/-- CLN (R301). -/
def clnMask (off : Nat) : Mask :=
  if 0x1000 ≤ off ∧ off < 0x2000 then .bit ((off - 0x1000) / 0x100)
  else if 0x3000 ≤ off ∧ off < 0x3800 then .bit (16 + (off - 0x3000) / 0x100)
  else .bit 32

/-- GWY (R361, R519). -/
def gwyMask (off : Nat) : Mask :=
  if 0x1000 ≤ off ∧ off < 0x1400 then .bit (32 + (off - 0x1000) / 0x40)
  else if 0x8000 ≤ off ∧ off < 0x8400 then .bit ((off - 0x8000) / 0x40)
  else .bit 26

/-- The mask bit of a sprue FIFO (R383). -/
def sprMask (n : Nat) : Nat := if n < 25 then 56 else 33 + (n - 25)

/-- QRY (R383). -/
def qryMask (off : Nat) : Mask :=
  if 0x1000 ≤ off ∧ off < 0x2000 then .bit ((off - 0x1000) / 0x80)
  else if 0x4000 ≤ off ∧ off < 0x4C00 then .bit (sprMask ((off - 0x4000) / 0x40))
  else .bit 32

/-- The mask bit of a key slot (R412). -/
def keyMaskBit (n : Nat) : Nat := 16 + n / 32

/-- CRU (R412). -/
def cruMask (off : Nat) : Mask :=
  if 0x1000 ≤ off ∧ off < 0x1400 then .bit ((off - 0x1000) / 0x40)
  else if 0x8000 ≤ off ∧ off < 0x10000 then .bit (keyMaskBit ((off - 0x8000) / 0x20))
  else .bit 48

/-- LSC (R438). -/
def lscMask (off : Nat) : Mask := if off < 0x1000 then .bit 2 else .bit (off / 0x1000 - 1)

/-- LCH (R470). -/
def lchRegMask (off : Nat) : Mask :=
  if 0x1000 ≤ off ∧ off < 0x1A00 then .bit ((off - 0x1000) / 0x40)
  else if 0x4000 ≤ off ∧ off < 0x4100 then .bit 40
  else if 0x5000 ≤ off ∧ off < 0x5080 then .bit 41
  else .bit 42

/-- HBR (R539). -/
def hbrMask (off : Nat) : Mask := if 0x1000 ≤ off ∧ off < 0x1200 then .bit (8 + (off - 0x1000) / 0x20) else .bit 24

/-- The mask bit a write of the register at `off` of block `b` needs. -/
def regMask (b off : Nat) : Mask :=
  match b with
  | 1 => if 0x1000 ≤ off ∧ off < 0x1800 then .bit ((off - 0x1000) / 0x40) else .full
  | 3 => timMask off
  | 4 => swcMask off
  | 5 => prsMask off
  | 6 => rulMask off
  | 7 => tmgMask off
  | 8 => ethMask off
  | 9 => clnMask off
  | 10 => gwyMask off
  | 11 => qryMask off
  | 12 => cruMask off
  | 13 => lscMask off
  | 15 => lchRegMask off
  | 17 => hbrMask off
  | _ => .bit 0

/-- Whether a register is tied to no instance, so that a read of it needs READ alone (R86): those under a mask bit that a
chapter calls block-wide or gives INSTANCE 0. RUL's registers are tied to the instances R233 gives them. -/
def blockWide (b off : Nat) : Bool :=
  match b with
  | 1 => decide (off < 0x1000)
  | 3 => timMask off == .bit 0
  | 4 => swcMask off == .bit 35
  | 5 => prsMask off == .bit 8 || prsMask off == .bit 9
  | 6 => false
  | 7 => tmgMask off == .bit 35 || tmgMask off == .bit 32
  | 8 => ethMask off == .full
  | 9 => clnMask off == .bit 32
  | 10 => gwyMask off == .bit 26 && !(decide (0x8400 ≤ off) && decide (off < 0x8500))
  | 11 => qryMask off == .bit 32
  | 12 => cruMask off == .bit 48
  | 13 => lscMask off == .bit 2
  | 15 => lchRegMask off == .bit 42
  | 17 => hbrMask off == .bit 24
  | _ => true

/-- The mask bit a read of a register needs (R86). -/
def readMask (b off : Nat) : Mask := if blockWide b off then .none else regMask b off

end Sys2Proof.Machine
end

