-- ==== Sys2Proof/Machine/State.lean ====
section
/-! DEFINITION. The state of the part, the reasons a step can stop, and the state after reset. -/

namespace Sys2Proof.Machine

/-- Why a step stops with a fault: nothing makes the part stop. A result the spec calls unpredictable is a next state
with the block in doubt (R22–R24). -/
inductive Fault where
  deriving DecidableEq, Repr

/-- Why a step is refused. -/
inductive Refusal where
  /-- A row not modelled yet, by its mnemonic. Safe. -/
  | notModelled (mnemonic : String)
  deriving DecidableEq, Repr

/-- The part: every register, table, buffer and queue, and the commands that wait. -/
structure State where
  /-- Commands waiting, first in, first out. -/
  pending : List Instr
  /-- Registers by absolute address; an unlisted one holds its reset value. -/
  regs : Tab Word
  /-- Memory by address; an unlisted byte reads zero (log entry 1). -/
  mem : Tab Byte
  /-- Bytes of system SRAM, the TCMs and DRAM whose ECC word has an uncorrectable error, until they are written (R557). -/
  bad : List Nat
  /-- Model's own: counts the free values taken (log entry 8). -/
  fresh : Nat
  sys : SysState
  mason : MasonState
  acl : AclState
  tim : TimState
  swc : SwcState
  prs : PrsState
  rul : RulState
  tmg : TmgState
  eth : EthState
  cln : ClnState
  gwy : GwyState
  cru : CruState
  qry : QryState
  lsc : LscState
  ord : OrdState
  lch : LchState
  key : KeyState
  hbr : HbrState
  hlt : HltState
  /-- The application cluster (R416–R423). -/
  cpu : CpuState
  /-- Notices delivered to cluster masters, newest last (R420; model's own record). -/
  notices : List Notice
  deriving DecidableEq, Repr

/-- SYS after reset. -/
def SysState.reset : SysState :=
  { phase := .off, slot := none, ladleReach := true, log := [], latch := [], dropped := [], readRefused := [],
    failed := [], ticks := 0, alarmResets := [], debug := false, flash := [], lifeFlash := [],
    harts := [], cause := 0, doubt := [], late := none, loaded := 0, reload := none, reads := [] }

/-- Mason after reset. -/
def MasonState.reset : MasonState :=
  { cmds := [], replies := [], doors := [], doorCount := 0, served := [], unannounced := [], ncp := [], imRx := [],
    seqEnd := false, gptpRx := [], image := (0, 0, 0, 0), firmware := [] }

/-- Access tables after a reset that clears ACL: unlisted entries are those of R88. -/
def AclState.reset : AclState := { entries := [], windows := [] }

/-- The time base after reset (R102). -/
def TimState.reset : TimState :=
  { sec := 0, ns := 0, frac := 0, incr := 0x0200000000#40, latches := [], stepLo := 0, servo := .free, lockCount := 0,
    everLocked := false, holdTicks := 0, tci := [], tpo := [], skipFrom := 0, skipTo := 0, gptpSent := [] }

/-- The frame store after reset: every tile free, every table zero (R155, R156). -/
def SwcState.reset : SwcState :=
  { frames := [], nextId := 0, suspect := [], doomed := [], retired := [], numbers := [], fifo := [], verdicts := [],
    lanes := [], queues := [], vlans := [], fdb := [], frer := [], tx := [], cut := [], sent := [] }

/-- PRS after reset: both banks zero, no context busy (R197). -/
def PrsState.reset : PrsState :=
  { ctxs := [], store := [], rrExpress := 20, rrNormal := 20, units := [], waitExpress := [], waitNormal := [] }

/-- RUL after reset: every table empty and no pour committed (R204). -/
def RulState.reset : RulState :=
  { flow := [], acl := [], pats := [], verdicts := [], rewrites := [], staged := none, last := none, live := [],
    logs := [] }

/-- TMG after reset: both banks empty, no list in force, every policer disabled (R241, R256). -/
def TmgState.reset : TmgState :=
  { banks := [], force := [], switch := [], credits := [], drr := [], visit := [], verifyTries := [], policers := [],
    gates := [] }

/-- ETH after reset: no SA, no retained record, every FIFO empty. -/
def EthState.reset : EthState :=
  { txSa := [], txAn := [], rxSa := [], txts := [], rt := [], rtFlash := [], rtProbed := [], sleeping := [], podlRetry := [], podlAsleep := [],
    plca := [], shared := [], igRx := [] }

/-- CRU after reset: slots 1–1,023 EMPTY, no job. -/
def CruState.reset : CruState := { keys := [], jobs := [], ctxKey := 0, served := [] }

/-- QRY after reset: no pool enabled, every FIFO empty (R366). -/
def QryState.reset : QryState := { pools := [], fifos := [], hw := [], log := [], latch := [], allocHi := [] }

/-- HBR after reset: the link down and no function but PF0. -/
def HbrState.reset : HbrState :=
  { linkUp := false, fns := [], requests := [], waiting := [], nextTag := 0, serial := 0, log := [], latch := [],
    msixQueue := [], sent := [], responses := [], ids := [] }

/-- The part right after Keystone's power-on reset (R543): every field as the spec gives it. -/
def State.reset : State :=
  { pending := [], regs := [], mem := [], bad := [], fresh := 0, sys := .reset, mason := .reset, acl := .reset, tim := .reset,
    swc := .reset, prs := .reset, rul := .reset, tmg := .reset, eth := .reset, cln := .reset, gwy := .reset, cru := .reset, qry := .reset,
    lsc := .reset, ord := .reset, lch := .reset, key := .reset, hbr := .reset, hlt := .reset, cpu := .reset, notices := [] }

end Sys2Proof.Machine
end

