-- ==== Sys2Proof/Machine/Ops.lean ====
section
/-! DEFINITION. The named operations every meaning is built from: registers, counters, events, memory, the reach of
masters, access tables, error logs and notices. -/

namespace Sys2Proof.Machine

/-- What a step answers. -/
abbrev Out := Host.Outcome State Fault Refusal

/-! ### Registers -/

/-- Address of the register at `off` in block `b`. -/
def rg (b off : Nat) : Nat := blockBase b + off

/-- The register at an absolute address. -/
def State.rd (s : State) (a : Nat) : Word := tget (regReset a) s.regs a

/-- The state with `v` in the register at an absolute address. -/
def State.wr (s : State) (a : Nat) (v : Word) : State := { s with regs := tput (regReset a) s.regs a v }

/-- Field `hi:lo` of a register. -/
def State.f (s : State) (a hi lo : Nat) : Nat := fld (s.rd a) hi lo

/-- The state with `n` in field `hi:lo` of a register. -/
def State.sf (s : State) (a hi lo n : Nat) : State := s.wr a (setFld (s.rd a) hi lo n)

/-- One bit of a register. -/
def State.bit (s : State) (a i : Nat) : Bool := bitOf (s.rd a) i

/-- The state with a bit of a register set to `v`. -/
def State.sb (s : State) (a i : Nat) (v : Bool) : State := s.wr a (setBit (s.rd a) i v)

/-- A 32-bit counter advanced by `n`, saturating. -/
def State.cnt (s : State) (a n : Nat) : State :=
  s.wr a (BitVec.ofNat 32 (satAdd 0xFFFFFFFF (s.rd a).toNat n))

/-- A counter in field `hi:lo` advanced by `n`, saturating. -/
def State.cntF (s : State) (a hi lo n : Nat) : State :=
  s.sf a hi lo (satAdd (2 ^ (hi + 1 - lo) - 1) (s.f a hi lo) n)

/-- A read that clears: the value and the state with the bits of `rc` cleared (R20). -/
def State.rdClear (s : State) (a : Nat) : Word × State :=
  let v := s.rd a
  match regDesc a with
  | some d => (v, s.wr a (v &&& ~~~ BitVec.ofNat 32 d.rc))
  | none => (v, s)

/-- Software's write of a register by its field types alone (R20); a WO field keeps its value for the act that uses
it. -/
def writeByType (d : RegDesc) (old v : Word) : Word :=
  let m := fun (n : Nat) => BitVec.ofNat 32 n
  let k := m (d.rw ||| d.wo)
  (((old &&& ~~~ k) ||| (v &&& k)) &&& ~~~ (v &&& m d.w1c)) ||| (v &&& m d.w1s)

/-! ### Block numbers and event registers -/

/-- Offset of a block's EVENT register; blocks without one answer none. -/
def eventOff : Nat → Option Nat
  | 0 => some 0x40 | 3 => some 0x34 | 4 => some 0x30 | 5 => some 0x10 | 6 => some 0x40 | 7 => some 0x10
  | 8 => some 0x10 | 9 => some 0x10 | 10 => some 0x20 | 11 => some 0x10 | 12 => some 0x20 | 13 => some 0x10
  | 14 => some 0x10 | 15 => some 0x20 | 16 => some 0x30 | 17 => some 0x10 | 18 => some 0 | _ => none

/-- Offset of a block's event-enable register. -/
def eventEnOff : Nat → Option Nat
  | 18 => some 8
  | b => (eventOff b).map (· + 4)

/-- Raise event bit `i` of block `b`. -/
def State.raise (s : State) (b i : Nat) : State :=
  match eventOff b with
  | some o => s.sb (rg b o) i true
  | none => s

/-- The event signal of block `b`: an enabled event bit is set. GWY's carries its NM events too, and CMD's its one event,
NCP_SEQ_END, which it has no register for (R98). -/
def State.signal (s : State) (b : Nat) : Bool :=
  if b = 1 then s.mason.seqEnd else
  match eventOff b, eventEnOff b with
  | some o, some e =>
    decide (s.rd (rg b o) &&& s.rd (rg b e) ≠ 0) ||
      (b == 10 && decide (s.rd (rg 10 0x8800) &&& s.rd (rg 10 0x8804) ≠ 0))
  | _, _ => false

/-! ### Power -/

/-- The logic die runs software and traffic. -/
def State.up (s : State) : Bool := s.sys.phase == .running

/-! ### Time -/

/-- Network time in whole nanoseconds (R99). -/
def State.now (s : State) : Nat := s.tim.sec.toNat * 1000000000 + s.tim.ns

/-- The span of the counter in nanoseconds (R99, R100). -/
def timeSpan : Nat := 2 ^ 48 * 1000000000

/-- A register time value: NS word, SEC_LO word and SEC bits 47:32 (R104), in nanoseconds. -/
def regTime (ns secLo : Word) (secHi : Nat) : Nat :=
  (secHi * 2 ^ 32 + secLo.toNat) * 1000000000 + fld ns 29 0

/-- First instant base + n × cycle at or after `now` (R54). -/
def firstInstant (base cycle now : Nat) : Nat :=
  if now ≤ base then base else base + ((now - base + cycle - 1) / cycle) * cycle

/-- The first whole nanosecond at or after the present network time, FRAC included (R106). -/
def State.nowUp (s : State) : Nat := if s.tim.frac = 0 then s.now else s.now + 1

/-- Whether an act due at `t` was skipped by the last step: a forward one whose span holds it (R56). -/
def State.skipped (s : State) (t : Nat) : Bool := decide (s.tim.skipFrom < t) && decide (t ≤ s.tim.skipTo)

/-- Whether a pending one-shot act due at `t` is late after a step: the step skipped it, or an earlier one did and its
time is still past (R56). -/
def State.lateAfter (s : State) (late : Bool) (t : Nat) : Bool := (late || s.skipped t) && decide (t ≤ s.now)

/-- The present PCLK cycle of local time: 25 TCLK ticks each (R29). -/
def pclk (s : State) : Nat := s.sys.ticks / 25

/-- Take a free value (log entry 8). -/
def State.free (s : State) : Nat × State := (Config.freeNat s.fresh, { s with fresh := s.fresh + 1 })

/-! ### Address map, reach and windows -/

/-- Domain of a master: 0 for A (0x10, 0x11), 1 for B (0x12, 0x13). -/
def domainOf (m : Nat) : Option Nat :=
  if m = 0x10 ∨ m = 0x11 then some 0 else if m = 0x12 ∨ m = 0x13 then some 1 else none

/-- A safety domain's master that runs: the second core only while its domain is split (R34, R437). -/
def domReach (s : State) (m : Nat) : Bool :=
  match domainOf m with
  | some d => m % 2 == 0 || s.f (rg 13 (0x1000 + d * 0x1000)) 2 0 == 5
  | none => false

/-- Masters of the PCIe functions. -/
def isPcie (m : Nat) : Bool := decide (0x18 ≤ m) && decide (m ≤ 0x1F)

/-- Masters of the guests. -/
def isGuest (m : Nat) : Bool := decide (0x40 ≤ m) && decide (m ≤ 0x4F)

/-- Masters whose reach in R34 includes register blocks. -/
def reachesRegs (s : State) (m : Nat) : Bool :=
  m == 0 || (m == 1 && s.sys.ladleReach) || m == 2 || domReach s m || isPcie m || m == 0x3F || isGuest m

/-- Masters that may own command rings (R34). -/
def issues (m : Nat) : Bool :=
  m == 2 || (domainOf m).isSome || isPcie m || m == 0x20 || m == 0x3F || isGuest m

/-- Window `w` of master `m`. -/
def State.window (s : State) (m w : Nat) : Window := tget Window.none s.acl.windows (m * 8 + w)

/-- Whether one window grants a kind of access to an address. -/
def Window.grants (w : Window) (a : Nat) (wr : Bool) : Bool :=
  decide (w.base.toNat ≤ a) && decide (a < w.base.toNat + w.size.toNat * 4096) && (if wr then w.write else w.read)

/-- Whether the union of a master's windows grants an access to one byte (R89). -/
def State.inWindows (s : State) (m a : Nat) (wr : Bool) : Bool :=
  (List.range 8).any (fun w => (s.window m w).grants a wr)

/-- Whether R34, R35, R36 and the windows let master `m` reach one byte of memory (not of registers). -/
def State.reaches (s : State) (m a : Nat) (wr : Bool) : Bool :=
  let all := m == 0 || (m == 1 && s.sys.ladleReach)
  let win := (m == 2 || domReach s m || isPcie m || m == 0x28 || m == 0x29 || m == 0x2A || m == 0x2B ||
    m == 0x3F || isGuest m) && s.inWindows m a wr
  match region a with
  | .sram => all || win
  | .dram => all || win
  | .bootRom => !wr && (all || win)
  | .tile => !wr && (all || win)
  | .tcmA => (m == 1 && s.sys.ladleReach) || ((m == 2 || (domainOf m == some 0 && domReach s m) || m == 0x2A) && win)
  | .tcmB => (m == 1 && s.sys.ladleReach) || ((m == 2 || (domainOf m == some 1 && domReach s m) || m == 0x2A) && win)
  | .pcie => (m == 0 || win) && !isPcie m
  | _ => false

/-- IOMMU device of a master behind the IOMMU (R421). -/
def iommuDev (m : Nat) : Option Nat :=
  if isPcie m then some (m - 0x18) else if isGuest m then some (64 + (m - 0x40)) else none

/-- The IOMMU's translation of an address that device `d` gives (R421). -/
def State.devWalk (s : State) (d a : Nat) (wr : Bool) : Walk := ioTranslate s.mem s.cpu.iommu d a wr

/-- The physical address of an address that IOMMU device `d` gives; none where the translation faults (R421, R422). -/
def State.devXlate (s : State) (d a : Nat) (wr : Bool) : Option Nat := (s.devWalk d a wr).toOption

/-- The physical address of a master's address, none where the translation faults (R421, R422). -/
def State.xlate (s : State) (m a : Nat) (wr : Bool) : Option Nat :=
  match iommuDev m with
  | none => some a
  | some d => s.devXlate d a wr

/-! ### Memory -/

/-- One byte of memory; an unlisted one reads zero (log entry 1). -/
def State.rdB (s : State) (a : Nat) : Byte := tget 0 s.mem a

/-- The state with one byte of memory written. -/
def State.wrB (s : State) (a : Nat) (b : Byte) : State :=
  { s with mem := tput 0 s.mem a b, bad := s.bad.filter (· != a) }

/-- `n` bytes of memory from `a`. -/
def State.rdBytes (s : State) (a n : Nat) : List Byte := (List.range n).map (fun i => s.rdB (a + i))

/-- The state with bytes written from `a` upward. -/
def State.wrBytes (s : State) : Nat → List Byte → State
  | _, [] => s
  | a, b :: r => State.wrBytes (s.wrB a b) (a + 1) r

/-! ### The outbound window (R530–R532) -/

/-- Function `f` of the bridge. -/
def State.fn (s : State) (f : Nat) : Fn := tget Fn.zero s.hbr.fns f

/-- Function `f` exists: PF0, and a VF that SR-IOV enables (R523). -/
def fnExists (s : State) (f : Nat) : Bool := f == 0 || (s.fn f).present

/-- The link is up and function `f` may master the bus (R523, R532). -/
def fnMasters (s : State) (f : Nat) : Bool :=
  s.hbr.linkUp && fnExists s f && (s.fn f).busMaster && (s.fn f).dstate == 0

def regionReg (r off : Nat) : Nat := rg 17 (0x1000 + r * 0x20 + off)
def regionEn (s : State) (r : Nat) : Bool := s.bit (regionReg r 0x14) 0
def regionBase (s : State) (r : Nat) : Nat := s.f (regionReg r 4) 7 0 * 2 ^ 32 + s.f (regionReg r 0) 31 12 * 4096
def regionSize (s : State) (r : Nat) : Nat := s.f (regionReg r 8) 27 0 * 4096
def regionPci (s : State) (r : Nat) : Nat := (s.rd (regionReg r 0x10)).toNat * 2 ^ 32 + s.f (regionReg r 0xC) 31 12 * 4096
def regionFn (s : State) (r : Nat) : Nat := s.f (regionReg r 0x14) 10 8

/-- The enabled outbound region an internal address lies in. -/
def outRegion (s : State) (a : Nat) : Option Nat :=
  (List.range 16).find? (fun r => regionEn s r && decide (regionBase s r ≤ a) && decide (a < regionBase s r + regionSize s r))

/-- The PCIe address of an internal address in region `r`. -/
def pciAddr (s : State) (r a : Nat) : Nat := regionPci s r + (a - regionBase s r)

/-- Whether an access at an address the master reaches gets a good response: in the outbound window, by R532 and as the
host answers (log entry 8). -/
def outboundOk (s : State) (a : Nat) : Bool :=
  if region a = .pcie then
    match outRegion s a with
    | some r => fnMasters s (regionFn s r) && Config.hostAnswers s.hbr.serial (pciAddr s r a)
    | none => false
  else true

/-- A byte a DMA master reads. -/
def State.busRd (s : State) (a : Nat) : Byte := if region a = .pcie then Config.hostByte s.hbr.serial a else s.rdB a

/-- The bytes of an access that leave by the outbound window, each with its function and its PCIe address. -/
def outCells (s : State) (l : List (Nat × Byte)) : List (Nat × Nat × Byte) :=
  l.filterMap (fun c => if region c.1 = .pcie then (outRegion s c.1).map (fun r => (regionFn s r, pciAddr s r c.1, c.2)) else none)

/-- A byte joins the packet before it up to `limit` bytes and a 4 KiB boundary: packets of function, address and data. -/
def joinByte (limit : Nat) (l : List (Nat × Nat × List Byte)) (x : Nat × Nat × Byte) : List (Nat × Nat × List Byte) :=
  let new := l ++ [(x.1, x.2.1, [x.2.2])]
  match l.getLast? with
  | some (f, a, d) =>
    if f = x.1 ∧ a + d.length = x.2.1 ∧ d.length < limit ∧ x.2.1 % 4096 ≠ 0 then l.dropLast ++ [(f, a, d ++ [x.2.2])] else new
  | none => new

/-- A request of a DMA master leaves by the outbound window: memory reads, or memory writes and the zero-length read of
the last dword that flushes them; it has completed, as its response has come (R531, R532). -/
def State.outGo (s : State) (wr : Bool) (cells : List (Nat × Nat × Byte)) : State :=
  match cells.getLast? with
  | none => s
  | some e =>
    let ps := cells.foldl (joinByte (if wr then s.hbr.mps else 512)) []
    let ts := if wr then ps.map (fun p => PcieSent.memWrite p.1 p.2.1 p.2.2) ++ [.memRead e.1 (e.2.1 / 4 * 4) 0]
      else ps.map (fun p => PcieSent.memRead p.1 p.2.1 p.2.2.length)
    ({ s with hbr := { s.hbr with sent := s.hbr.sent ++ ts, serial := s.hbr.serial + 1 } }).cnt (rg 17 (if wr then 0x10C else 0x110)) 1

/-- Physical address of byte `i` of an access, where the master may make it and it gets a good response: a read that
meets an uncorrectable error gets none (R557). -/
def State.physByte (s : State) (m a : Nat) (wr : Bool) : Option Nat :=
  match s.xlate m a wr with
  | some p => if s.reaches m p wr && outboundOk s p && (wr || !s.bad.contains p) then some p else none
  | none => none

/-- Whether an access fails otherwise than by the reach and the windows: its translation faults, or the bridge answers
it with an error (R422, R532). -/
def State.busFault (s : State) (m a : Nat) (wr : Bool) : Bool :=
  match s.xlate m a wr with
  | some p => s.reaches m p wr
  | none => true

/-- The first byte of an access the master may not make. -/
def State.badByte (s : State) (m a n : Nat) (wr : Bool) : Option Nat :=
  ((List.range n).map (a + ·)).find? (fun x => (s.physByte m x wr).isNone)

/-- The bytes at an allowed access. -/
def State.dmaBytes (s : State) (m a n : Nat) : List Byte :=
  (List.range n).map (fun i => match s.physByte m (a + i) false with
    | some p => s.busRd p
    | none => 0)

/-- The bytes of an allowed access at their physical addresses. -/
def State.cells (s : State) (m a : Nat) (data : List Byte) (wr : Bool) : List (Nat × Byte) :=
  (List.range data.length).filterMap (fun i => (s.physByte m (a + i) wr).map (fun p => (p, data.getD i 0)))

/-- Bytes written at physical addresses of memory; those of the outbound window are none of it. -/
def State.putCells (s : State) : List (Nat × Byte) → State
  | [] => s
  | c :: r => State.putCells (if region c.1 = .pcie then s else s.wrB c.1 c.2) r

/-- A write of bytes at physical addresses, in memory and through the outbound window. -/
def State.putAll (s : State) (cs : List (Nat × Byte)) : State := (s.putCells cs).outGo true (outCells s cs)

/-- What a read at physical addresses leaves: its requests through the outbound window. -/
def State.readOut (s : State) (ps : List Nat) : State := s.outGo false (outCells s (ps.map (·, 0)))

/-- An allowed write at translated addresses. -/
def State.dmaPut (s : State) (m a : Nat) (data : List Byte) : State := s.putAll (s.cells m a data true)

/-- What an allowed read leaves. -/
def State.dmaRead (s : State) (m a n : Nat) : State :=
  s.readOut ((List.range n).filterMap (fun i => s.physByte m (a + i) false))

/-! ### Error logs -/

/-- Push an entry to a log of `cap` entries whose LEVEL and LOST stand in the register at `info`: a full log
discards the entry and counts it (R31, R373). -/
def logPush (cap info : Nat) (log : List LogEntry) (e : LogEntry) (s : State) : List LogEntry × State :=
  if log.length < cap then (log ++ [e], s.sf info 4 0 (log.length + 1))
  else (log, s.cntF info 31 16 1)

/-- SYS logs a refused access: master, address and direction, and raises BUS_ERROR (R31). -/
def State.busError (s : State) (m a : Nat) (wr : Bool) : State :=
  let hi := (a / 2 ^ 32) % 256 + m * 256 + b2n wr * 2 ^ 15 + 2 ^ 16
  let e : LogEntry := { lo := BitVec.ofNat 32 a, hi := BitVec.ofNat 32 hi, info := 0 }
  let p := logPush 16 (rg 0 0x38) s.sys.log e s
  ({ p.2 with sys := { p.2.sys with log := p.1 } }).raise 0 1

/-- Master `m` has made an error whose result is unpredictable and no reset has ended. -/
def State.erring (s : State) (m : Nat) : Bool := s.sys.doubt.any (fun d => d.2 == m)

/-- What a reader is given: an erring master may read any value (R22). -/
def State.shown (s : State) (m : Nat) (ws : List Word) : List Word :=
  if s.erring m then (List.range ws.length).map (Config.anyWord s.fresh) else ws

/-- Record what a read returned to its reader. -/
def State.reply (s : State) (m : Nat) (ws : List Word) (err : Bool) : State :=
  { s with sys := { s.sys with reads := s.sys.reads ++ [{ master := m, words := s.shown m ws, error := err }] } }

/-- An access refused as R31 gives: logged, and answered with an error response; a read returns zero. -/
def State.refuse (s : State) (m a : Nat) (wr : Bool) : State :=
  (s.busError m a wr).reply m (if wr then [] else [0]) true

/-! ### Access tables -/

/-- The entry of master `m` in block `b`'s table; unlisted entries are as R88 gives them after reset. -/
def State.aclEntry (s : State) (b m : Nat) : AclEntry :=
  if m = 0 then AclEntry.all
  else if m = 1 then (if s.sys.ladleReach then AclEntry.all else AclEntry.zero)
  else tget AclEntry.zero s.acl.entries (b * 128 + m)

/-- Right `r` (R85) with the mask bits asked for. -/
def AclEntry.allows (e : AclEntry) (r : Nat) (k : Mask) : Bool :=
  bitOf e.rights r &&
    match k with
    | .none => true
    | .bit n => e.mask.getLsbD n
    | .full => decide (e.mask = BitVec.allOnes 64)

/-- Count a register write dropped against its master (R46, R48). -/
def State.drop (s : State) (m : Nat) : State :=
  { s with sys := { s.sys with dropped := tput 0 s.sys.dropped m (satAdd 255 (tget 0 s.sys.dropped m) 1) } }

/-- Count a register read refused to its master (R87). -/
def State.refuseRead (s : State) (b m : Nat) : State :=
  let k := b * 128 + m
  { s with sys := { s.sys with readRefused := tput 0 s.sys.readRefused k (tget 0 s.sys.readRefused k + 1) } }

/-! ### Fitting (R2, R3) -/

/-- Feature tier of the part: 0xA, 0xB or 0xC (R14). -/
def State.tier (s : State) : Nat := s.f 0x40000004 7 4

/-- Fitted Ethernet ports (R2); the internal ports 18–20 are in every variant. -/
def portFitted (tier p : Nat) : Bool :=
  if p ≤ 3 then decide (p ≤ 1) || tier == 0xA
  else if p ≤ 5 then p == 4 || tier != 0xC
  else if p ≤ 13 then decide (p ≤ 11) || tier != 0xC
  else if p ≤ 17 then decide (p ≤ 15) || tier != 0xC
  else decide (p ≤ 20)

/-- Fitted CAN channels (R2). -/
def canFitted (tier n : Nat) : Bool := decide (n < if tier = 0xA then 16 else if tier = 0xB then 12 else 8)

/-- Fitted LIN channels (R2). -/
def linFitted (tier n : Nat) : Bool := decide (n < if tier = 0xC then 4 else 8)

/-- Fitted parse engines and application cores (R2). -/
def engineFitted (tier n : Nat) : Bool := decide (n < if tier = 0xA then 8 else if tier = 0xB then 6 else 4)

/-- Fitted load channels of a population (R3). -/
def chanFitted (pop c : Nat) : Bool :=
  if pop = 40 then decide (c < 40)
  else if pop = 28 then decide (c ≤ 11) || (decide (16 ≤ c) && decide (c ≤ 27)) || (decide (32 ≤ c) && decide (c ≤ 35))
  else if pop = 16 then decide (c ≤ 1) || (decide (4 ≤ c) && decide (c ≤ 9)) || (decide (16 ≤ c) && decide (c ≤ 23))
  else false

/-- Population of the part (R14). -/
def State.population (s : State) : Nat := s.f 0x40000004 15 8

/-! ### Notices -/

/-- The state with function `f` replaced. -/
def State.setFn (s : State) (f : Nat) (x : Fn) : State := { s with hbr := { s.hbr with fns := tput Fn.zero s.hbr.fns f x } }

/-- Group of an event source of a function: 0–31 rings, 32–47 job rings, 48–63 host queues, 64 ERROR (R534). -/
def srcGroup (src : Nat) : Nat := if src < 32 then 0 else if src < 48 then 1 else if src < 64 then 2 else 3

/-- Bit of an event source in its group's PEND. -/
def srcBit (src : Nat) : Nat := if src < 32 then src else if src < 48 then src - 32 else if src < 64 then src - 48 else 0

/-- Vector a source sends in MSIX mode (R535). -/
def Fn.vector (x : Fn) (src : Nat) : Nat := if src < 64 then tget 0 x.evtVec src else x.errVec

/-- Ask for an MSI-X message of a vector, shared with one that waits for it (R535). -/
def State.msixAsk (s : State) (f v : Nat) : State :=
  let e := (f, v, s.hbr.serial)
  let q := s.hbr.msixQueue
  let same := fun (x : Nat × Nat × Nat) => x.1 == f && x.2.1 == v
  let q' := if q.any same then q.map (fun x => if same x then e else x) else q ++ [e]
  { s with hbr := { s.hbr with msixQueue := q' } }

/-- Event source `src` of function `f` fires (R534): its PEND bit is set in every mode; in MSIX a message is
queued, sharing one already queued for its vector; in SIDEBAND a status write falls due. -/
def State.fnEvent (s : State) (f src : Nat) : State :=
  let x := s.fn f
  let g := srcGroup src
  let gr := tget SbGroup.zero x.groups g
  let bit : Word := BitVec.ofNat 32 (2 ^ srcBit src)
  let mode := fld x.grpMode (2 * g + 1) (2 * g)
  let gr' : SbGroup := { gr with pend := gr.pend ||| bit, since := gr.since ||| bit, want := gr.want || mode == 2,
                                 ready := gr.ready && gr.pend != 0, mark := s.hbr.serial }
  let s := s.setFn f { x with groups := tput SbGroup.zero x.groups g gr' }
  if mode = 1 then s.msixAsk f (x.vector src) else s

/-! ### Refused accesses of DMA masters -/

def hbrReg (off : Nat) : Nat := rg 17 off

/-- HBR logs a failure that names function `f`, an event of its group 3 (R528, R532, R534). -/
def hbrLog (f initiator kind : Nat) (wr : Bool) (a : Nat) (s : State) : State :=
  let info := f + initiator * 8 + kind * 1024 + b2n wr * 2 ^ 14 + 2 ^ 15
  let e : LogEntry := { lo := BitVec.ofNat 32 a, hi := BitVec.ofNat 32 (a / 2 ^ 32), info := BitVec.ofNat 32 info }
  let p := logPush 16 (hbrReg 0x4C) s.hbr.log e s
  let t := { p.2 with hbr := { p.2.hbr with log := p.1 } }
  if s.hbr.log.length < 16 then t.fnEvent f 64 else t

/-- A request of DMA master `m` at physical address `p` fails in the outbound window (R532): log kind 5 in no region, 6
the link, 7–10 what the host answers, which is free (log entry 8). -/
def State.outFault (s : State) (m p : Nat) (wr : Bool) : State :=
  let f := match outRegion s p with | some r => regionFn s r | none => 0
  let x := s.free
  let t := match outRegion s p with
    | none => (5, s)
    | some _ => if fnMasters s f then (7 + x.1 % 4, x.2) else (6, s)
  ((hbrLog f m t.1 wr p t.2).cnt (hbrReg 0x108) 1).raise 17 4

/-- An access of master `m` fails at physical address `p`: in the bridge, by an uncorrectable error, which HLT logs and
SYS does not, or refused as R31 gives. -/
def State.physFault (s : State) (m a p : Nat) (wr : Bool) : State :=
  if s.reaches m p wr then (if region p = .pcie then s.outFault m p wr else s) else s.busError m a wr

/-- An access that IOMMU device `d` makes under master `m` is refused: a translation fault stands in the fault queue, and
is refused as R31 gives (R422). -/
def State.devFault (s : State) (d m a : Nat) (wr : Bool) : State :=
  match s.devWalk d a wr with
  | .ok p => s.physFault m a p wr
  | .error e =>
    let q := ioFault d a wr e s.mem s.cpu.iommu
    let t := { s with mem := q.1, cpu := { s.cpu with iommu := q.2 } }
    (if faultQuiet s.mem s.cpu.iommu d then s else t).busError m a wr

/-- An access on a master's behalf is refused by its translation, the reach, the windows or the bridge. -/
def State.accessFault (s : State) (m a : Nat) (wr : Bool) : State :=
  match iommuDev m with
  | some d => s.devFault d m a wr
  | none => s.physFault m a a wr

/-! ### Delivery of events -/

/-- An act of the cluster's controllers and registers. A core that is not fitted takes none (R7). -/
def State.withCpu (s : State) (f : CpuState → CpuState) : State :=
  let c := f s.cpu
  { s with cpu := { c with harts := tdrop (fun h => decide (h < 8) && !engineFitted s.tier h) c.harts } }

/-- An edge source of the APLIC pulses (R420). -/
def State.pulse (s : State) (n : Nat) : State := s.withCpu (aplicPulse n)

/-- The hypervisor or a guest. -/
def isCluster (m : Nat) : Bool := m == 0x3F || isGuest m

/-- Deliver an event to the master that owns its source (R83, R420, R433, R534). `kind` is 0 completion, 1 error of
a command ring, 2 host queue, 3 job ring. Network-port rings raise none. -/
def State.notify (s : State) (owner kind idx : Nat) : State :=
  match domainOf owner with
  | some d => s.sb (rg 13 (0x1044 + d * 0x1000)) 19 true
  | none =>
    if isPcie owner then
      s.fnEvent (owner - 0x18) (if kind ≤ 1 then idx else if kind = 3 then 32 + idx else 48 + idx)
    else if isCluster owner then
      State.pulse { s with notices := s.notices ++ [{ master := owner, kind := kind, index := idx }] }
        ((if kind ≤ 1 then 52 else if kind = 2 then 84 else 100) + idx)
    else s

end Sys2Proof.Machine
end

