-- ==== Sys2Proof/Machine/Doubt.lean ====
section
/-! DEFINITION. Blocks in doubt: what an unpredictable result may do, and what it never does (R22–R24). -/

namespace Sys2Proof.Machine

/-! ### What is in doubt

A block by its number (R21), and parts of a block, where a rule bounds the result within one, by numbers above. -/

/-- The events of function `f` of the bridge (R539). -/
def inFunction (f : Nat) : Nat := 24 + f

/-- Command ring `n` (R74, R589). -/
def inRing (n : Nat) : Nat := 32 + n

/-- Host queue `q` (R360). -/
def inHostq (q : Nat) : Nat := 64 + q

/-- IC transmit ring `k` (R294). -/
def inIcRing (k : Nat) : Nat := 80 + k

/-- Job ring `n` (R398). -/
def inJobRing (n : Nat) : Nat := 112 + n

/-- The block that what is in doubt belongs to. -/
def doubtBlock (c : Nat) : Nat :=
  if c < 24 then c else if c < 32 then 17 else if c < 64 then 1 else if c < 80 then 10 else if c < 112 then 8 else 12

/-- Whether a register of that block, by its offset, is in doubt. -/
def doubtReg (c off : Nat) : Bool :=
  let ring := fun (a : Nat) => decide (a ≤ off) && decide (off < a + 0x40)
  if c < 24 then true
  else if c < 32 then false
  else if c < 64 then ring (0x1000 + (c - 32) * 0x40)
  else if c < 80 then ring (0x1000 + (c - 64) * 0x40)
  else if c < 112 then ring (0x9000 + (c - 80) * 0x40)
  else ring (0x1000 + (c - 112) * 0x40)

/-! ### Registers -/

/-- REACT's configurable fields: the reactions of alarms 2, 5, 7, 8, 11, 12 and 13 (R555). -/
def reactMask : Word := 0x0FC3CC30

/-- Bits of a register that no error of a master changes (R23): VARIANT_ID (R14), the access tables, whose rights a ring
or queue runs under, the registers of a safety domain the master does not belong to, what the protections of load
channels work by, and the fixed reactions to alarms (R24, R555). -/
def firmBits (s : State) (m b off : Nat) : Word :=
  let all := fun (c : Bool) => if c then BitVec.allOnes 32 else (0 : Word)
  let admin := bitOf (s.aclEntry b m).rights 4
  match b with
  | 0 => all (off == 4)
  | 1 => all (off % 0x40 == 0xC && decide (0x1000 ≤ off) && !admin)
  | 2 => all true
  | 10 => if 0x1000 ≤ off ∧ off < 0x1400 ∧ off % 0x40 = 0x10 then 0x7F0000 else 0
  | 12 => all (off % 0x40 == 0xC && decide (0x1000 ≤ off) && decide (off < 0x1400) && !admin)
  | 13 => all (decide (0x1000 ≤ off) && domainOf m != some (off / 0x1000 - 1))
  | 15 =>
    if 0x1000 ≤ off ∧ off < 0x1A00 ∧ off % 0x40 = 0 then 0x7F0000
    else all ((decide (0x4000 ≤ off) && decide (off < 0x4100)) ||
      (match regDesc (rg b off) with | some d => d.rw == 0 | none => true))
  | 18 => if off = 4 then ~~~ reactMask else 0
  | _ => 0

/-- Whether an error of master `m` may show in the register at `off` of block `b`: one that its entry lets it read or
write (R22). -/
def mayStray (s : State) (m b off : Nat) : Bool :=
  decide (off < 0x100000) &&
    ((s.aclEntry b m).allows 1 (regMask b off) || (s.aclEntry b m).allows 0 (readMask b off))

/-- Register `a` takes any value `v` of its defined bits, but for the bits `k`; an offset without a register takes
none. -/
def strayBits (s : State) (a : Nat) (k v : Word) (d : Option RegDesc) : State :=
  match d with
  | some d => s.wr a ((v &&& BitVec.ofNat 32 d.known &&& ~~~ k) ||| (s.rd a &&& k))
  | none => s

/-- A register in doubt takes any value of its defined bits, but for those that stay. -/
def strayReg (m c : Nat) (s : State) (e : Nat × Word) : State :=
  if !doubtReg c e.1 || !mayStray s m (doubtBlock c) e.1 then s
  else strayBits s (rg (doubtBlock c) e.1) (firmBits s m (doubtBlock c) e.1) e.2 (regDesc (rg (doubtBlock c) e.1))

/-! ### Tables and queues -/

/-- Whether an error of master `m` reaches instance `i` of block `b`: one under its mask. -/
def strayInst (s : State) (m b i : Nat) : Bool := (s.aclEntry b m).mask.getLsbD i

/-- SYS: its log, what its readers latched, and its counts of refused accesses. -/
def straySys (n : Nat) (y : SysState) : SysState :=
  { y with log := ((Config.anySys n).log).take 16, latch := (Config.anySys n).latch, dropped := (Config.anySys n).dropped,
           readRefused := (Config.anySys n).readRefused }

/-- Rings of CMD in doubt, those `p` picks: doorbells and commands may be lost, a reply may say anything, and a ring of
the master itself may run commands of any form under its own rights. -/
def strayRings (p : Nat → Bool) (m n : Nat) (s : State) : State :=
  let y := Config.anyMason n
  let hit := fun (ring key : Nat) => p ring && Config.coin n key
  let own := fun (c : Cmd) => p c.ring && decide (c.ring < 32) && s.f (rg 1 (0x100C + c.ring * 0x40)) 6 0 == m
  { s with mason := { s.mason with
      doors := s.mason.doors.filter (fun d => !hit d.ring (4 * d.order))
      cmds := s.mason.cmds.filter (fun c => !hit c.ring (4 * c.door + 1)) ++
        (y.cmds.filter own).map (fun c => { c with issuer := m, running := false })
      replies := s.mason.replies.map (fun r =>
        if hit r.ring (4 * r.door + 2) then
          { r with status := (Config.anyReply n r.door).status, code := (Config.anyReply n r.door).code,
                   offset := (Config.anyReply n r.door).offset, value := (Config.anyReply n r.door).value,
                   resultLen := (Config.anyReply n r.door).resultLen, result := (Config.anyReply n r.door).result }
        else r) } }

/-- The entries of `x` that `keep` picks, and beside them those of `y`. -/
def keepKeys {α : Type} (keep : Nat → Bool) (x y : Tab α) : Tab α :=
  x.foldl (fun t e => if keep e.1 then tinsert t e.1 e.2 else t) (tdrop keep y)

/-- Lists of `y` with, before what else they hold, the elements of `x`'s lists that `keep` picks. -/
def keepItems {α : Type} (keep : α → Bool) (x y : Tab (List α)) : Tab (List α) :=
  x.foldl (fun t e => match e.2.filter keep with
    | [] => t
    | l => tinsert t e.1 (l ++ tget [] t e.1)) (y.map (fun e => (e.1, e.2.filter (fun a => !keep a))))

/-- SWC in doubt by a master that holds the ports `own`: whatever its contents become, TC7 frames of the ports it does
not hold stay, with their numbers, lanes, verdicts and copies (R23; log entry 49). -/
def straySwc (own : Nat → Bool) (x y : SwcState) : SwcState :=
  let kept := x.frames.filter (fun f => f.tc == 7 && !own f.port)
  let firm := fun (i : Nat) => kept.any (fun f => f.id == i)
  let stream := fun (k : Nat) => k % 8 == 7 && !own (k / 8)
  let copy := fun (c : Option Copy) => match c with | some c => firm c.frame | none => false
  { y with frames := kept ++ y.frames.filter (fun f => !firm f.id)
           nextId := max x.nextId y.nextId
           numbers := keepKeys stream x.numbers y.numbers
           fifo := keepItems firm x.fifo y.fifo
           verdicts := x.verdicts.filter (fun v => firm v.frame) ++ y.verdicts.filter (fun v => !firm v.frame)
           lanes := keepKeys (fun k => stream (k % 168)) x.lanes y.lanes
           queues := keepItems (fun c => firm c.frame) x.queues y.queues
           tx := keepKeys (fun p => copy (tget none x.tx p)) x.tx y.tx
           cut := keepKeys (fun p => copy (tget none x.cut p)) x.cut y.cut
           sent := x.sent }

/-- TMG in doubt: the schedules and shapers of ports that the master does not hold, and all groups, policers and gates
that its mask leaves out, stay (R23). -/
def strayTmg (own : Nat → Bool) (x y : TmgState) : TmgState :=
  let port := fun (p : Nat) => !own p
  let queue := fun (q : Nat) => !own (q / 8)
  { y with banks := keepKeys (fun k => port (k / 2)) x.banks y.banks, force := keepKeys port x.force y.force
           switch := keepKeys port x.switch y.switch
           credits := keepKeys (fun k => if k < 1000 then queue k else !own 32) x.credits y.credits
           drr := keepKeys port x.drr y.drr, visit := keepKeys queue x.visit y.visit
           verifyTries := keepKeys port x.verifyTries y.verifyTries
           policers := if own 33 then y.policers else x.policers
           gates := if own 34 then y.gates else x.gates }

/-- A load channel under the mask of `m`: its phase is any, its protection stays (R23). -/
def strayChan (s : State) (m n : Nat) (t : Tab Chan) (c : Nat) : Tab Chan :=
  let x := tget Chan.zero s.lch.chans c
  let y := Config.anyChan n c
  if strayInst s m 15 c then tput Chan.zero t c { x with starting := y.starting, ends := y.ends, next := y.next } else t

/-- The events of function `f` in doubt; its configuration stays. -/
def strayPage (f : Nat) (s : State) : State :=
  let x := s.fn f
  s.setFn f { Config.anyFn s.fresh with present := x.present, cfg := x.cfg }

/-- Job rings in doubt lose jobs. -/
def strayJobs (p : Nat → Bool) (n : Nat) (s : State) : State :=
  { s with cru := { s.cru with jobs := s.cru.jobs.filter (fun j => !(p j.ring && Config.coin n (1024 + j.index))) } }

/-- What is in doubt beside registers: any, within R22 and R23. The access tables, keys, and a channel's protection stay;
what has left the part stays as it left. -/
def strayBlock (m c : Nat) (s : State) : State :=
  let n := s.fresh
  match c with
  | 0 => { s with sys := straySys n s.sys }
  | 1 => strayRings (strayInst s m 1) m n s
  | 3 => { s with tim := { Config.anyTim n with ns := (Config.anyTim n).ns % 1000000000, latches := s.tim.latches,
                                                gptpSent := s.tim.gptpSent } }
  | 4 => { s with swc := straySwc (strayInst s m 4) s.swc (Config.anySwc n) }
  | 5 => { s with prs := Config.anyPrs n }
  | 6 => { s with rul := Config.anyRul n }
  | 7 => { s with tmg := strayTmg (strayInst s m 7) s.tmg (Config.anyTmg n) }
  | 8 => { s with eth := { Config.anyEth n with rtFlash := s.eth.rtFlash } }
  | 9 => { s with cln := { Config.anyCln n with sent := s.cln.sent } }
  | 10 => { s with gwy := Config.anyGwy n }
  | 11 => { s with qry := Config.anyQry n }
  | 12 => strayJobs (strayInst s m 12) n { s with cru := { s.cru with
      keys := tdrop (fun k => strayInst s m 12 (keyMaskBit k) && Config.coin n k) s.cru.keys } }
  | 13 => match domainOf m with
    | some d => { s with lsc := { s.lsc with doms := tput Dom.zero s.lsc.doms d (Config.anyDom n) } }
    | none => s
  | 14 => { s with ord := Config.anyOrd n }
  | 15 => { s with lch := { s.lch with chans := (List.range 40).foldl (strayChan s m n) s.lch.chans } }
  | 16 => { s with key := { Config.anyKey n with ticks := s.key.ticks } }
  | 17 => { s with hbr := { Config.anyHbr n with sent := s.hbr.sent, responses := s.hbr.responses, serial := s.hbr.serial,
                                                 linkUp := s.hbr.linkUp, ids := s.hbr.ids } }
  | 18 => { s with hlt := Config.anyHlt n }
  | c =>
    if 24 ≤ c ∧ c < 32 then strayPage (c - 24) s
    else if 32 ≤ c ∧ c < 64 then strayRings (· == c - 32) m n s
    else if 112 ≤ c ∧ c < 128 then strayJobs (· == c - 112) n s
    else s

/-- A byte of memory that the master's windows let it write, in doubt (R22). -/
def strayByte (m : Nat) (s : State) (e : Nat × Byte) : State :=
  let ram := match region e.1 with
    | .sram => true | .dram => true | .tcmA => true | .tcmB => true | _ => false
  if ram && s.reaches m e.1 true then s.wrB e.1 e.2 else s

/-- What is in doubt by an error of master `m` is any that R22 permits. -/
def unsettle (c m : Nat) (s : State) : State :=
  let t := strayBlock m c ((Config.anyRegs s.fresh).foldl (strayReg m c) s)
  let t := (Config.anyMem s.fresh).foldl (strayByte m) t
  { t with fresh := t.fresh + 1 }

/-- A result listed as unpredictable (R22): block `c`, or that part of one, is in doubt from now until a reset clears it
(R24), and whatever its contents become, the part goes on. -/
def State.stray (s : State) (m c : Nat) : State :=
  let d := if s.sys.doubt.contains (c, m) then s.sys.doubt else s.sys.doubt ++ [(c, m)]
  unsettle c m { s with sys := { s.sys with doubt := d } }

/-- Block `b` is cleared by a reset: nothing of it is in doubt any longer (R24). -/
def State.settled (s : State) (b : Nat) : State :=
  { s with sys := { s.sys with doubt := s.sys.doubt.filter (fun d => doubtBlock d.1 != b) } }

/-- The events of function `f` are cleared by a reset of the function (R24). -/
def State.settledFn (s : State) (f : Nat) : State :=
  { s with sys := { s.sys with doubt := s.sys.doubt.filter (fun d => d.1 != inFunction f) } }

/-- What is in doubt becomes any, as a tick passes. -/
def unsettleAll (s : State) : State := s.sys.doubt.foldl (fun s d => unsettle d.1 d.2 s) s

end Sys2Proof.Machine
end

