-- ==== Sys2Proof/Machine/Complete.lean ====
section
/-! DEFINITION. How a command of Mason's completes: status and DETAIL codes, and the outcome that waits for its reply
(R65–R68, R76, R78). -/

namespace Sys2Proof.Machine

/-! ### Status codes (R68) and common DETAIL codes (R66) -/

abbrev stOk : Nat := 0
abbrev stBadOpcode : Nat := 0x10
abbrev stBadParam : Nat := 0x11
abbrev stLength : Nat := 0x12
abbrev stWrongState : Nat := 0x13
abbrev stDenied : Nat := 0x14
abbrev stBusy : Nat := 0x15
abbrev stNotFitted : Nat := 0x16
abbrev stQuota : Nat := 0x17
abbrev stLimit : Nat := 0x18
abbrev stClaimRefused : Nat := 0x19
abbrev stAborted : Nat := 0x1A
abbrev stTimeout : Nat := 0x1B
abbrev stIntegrity : Nat := 0x1C
abbrev stNoFit : Nat := 0x1D

/-- No single field at fault (R65). -/
abbrev noOffset : Nat := 0xFFFF

/-- A failure of a check: status, code, offset and value. -/
structure Fail where
  status : Nat
  code : Nat
  offset : Nat
  value : Nat

/-- An OK outcome. -/
def Fail.ok : Fail := ⟨0, 0, noOffset, 0⟩

/-! ### Completion -/

/-- Ring register of ring `n`. -/
def ringReg (n off : Nat) : Nat := rg 1 (0x1000 + n * 0x40 + off)

/-- Ring number of the commands that the module starts itself from an image (R549, R553); no ring of software's has it. -/
abbrev imageRing : Nat := 32

/-- INFLIGHT of a ring follows Mason's list; IDLE holds when EN = 0 and nothing of the ring is fetched or running. -/
def ringShow (n : Nat) (s : State) : State :=
  let k := (s.mason.cmds.filter (fun c => c.ring == n)).length
  let s := s.sf (ringReg n 0x24) 11 8 k
  s.sb (ringReg n 0x24) 0 (!s.bit (ringReg n 0x10) 0 && k == 0)

/-- One command of Mason's: its slot may be reused while it runs (R74), but one doorbell covers a slot once. -/
def sameCmd (a b : Cmd) : Bool := a.ring == b.ring && a.slot == b.slot && a.door == b.door

/-- Complete a command: it leaves Mason's list, and its outcome waits for its reply (R76). DENIED is counted, but for a
NO_REPLY command, whose failure only QUIET_FAIL records (R78). A command of an image has no reply. -/
def complete (c : Cmd) (status code offset value len : Nat) (result : List Byte) (s : State) : State :=
  let rest := s.mason.cmds.filter (fun d => !sameCmd d c)
  if c.ring = imageRing then { s with mason := { s.mason with cmds := rest, image := (status, code, offset, value) } } else
  let r : Reply := { ring := c.ring, slot := c.slot, issuer := c.issuer, opcode := c.opcode, tag := c.tag,
                     noReply := c.noReply, status := status, code := code, offset := offset, value := value,
                     resultLen := len, result := result, doneNs := s.tim.ns, doneSec := s.tim.sec.toNat % 2 ^ 32,
                     door := c.door, ordered := c.ordered }
  let s := { s with mason := { s.mason with
                               cmds := rest,
                               replies := s.mason.replies ++ [r] } }
  let s := if status = stDenied ∧ c.noReply = false then s.cntF (ringReg c.ring 0x2C) 31 16 1 else s
  ringShow c.ring s

/-- Complete a command that failed a check. -/
def completeFail (c : Cmd) (f : Fail) (s : State) : State := complete c f.status f.code f.offset f.value 0 [] s

/-- Complete the running commands of an opcode that `p` picks (a long operation has ended). -/
def endRunning (p : Cmd → Bool) (f : Cmd → Fail) (result : Cmd → List Byte) (s : State) : State :=
  (s.mason.cmds.filter (fun c => c.running && p c)).foldl
    (fun s c => let x := f c; complete c x.status x.code x.offset x.value (result c).length (result c) s) s

end Sys2Proof.Machine
end

