-- ==== Sys2Proof/Machine/LscOps.lean ====
section
/-! DEFINITION. The operations of the safety domains: states, faults, SYNC_CHECK, activation timers and output ports
(R424–R447). -/

namespace Sys2Proof.Machine

def State.withLsc (s : State) (f : LscState → LscState) : State := { s with lsc := f s.lsc }
def State.withOrd (s : State) (f : OrdState → OrdState) : State := { s with ord := f s.ord }

def domReg (d off : Nat) : Nat := rg 13 (0x1000 + d * 0x1000 + off)
def dom (s : State) (d : Nat) : Dom := tget Dom.zero s.lsc.doms d
def setDomInfo (d : Nat) (x : Dom) (s : State) : State :=
  s.withLsc (fun l => { l with doms := tput Dom.zero l.doms d x })

/-- 0 RESET, 1 HELD, 2 RUN, 3 FAULTED, 4 DEBUG, 5 SPLIT. -/
def domState (s : State) (d : Nat) : Nat := s.f (domReg d 0) 2 0

/-- The fault line of a domain: asserted in every state but RUN, and while the logic die is in reset or unpowered
(R432, R448). -/
def faultLine (s : State) (d : Nat) : Bool :=
  domState s d != 2 || [Phase.off, .rising, .inReset, .stopping].contains s.sys.phase

/-! ### Output ports (R442–R447) -/

/-- 0 DOWN, 1 ALIGNING, 2 LIVE, 3 ISOLATED. -/
def portState (s : State) (d : Nat) : Nat := s.f (domReg d 0x888) 1 0
def portMirror (s : State) (d : Nat) : Bool := s.bit (domReg d 0x888) 2
def portSeq (s : State) (d : Nat) : Nat := s.f (domReg d 0x88C) 15 0

def OFrame.isStatus (f : OFrame) : Bool := f.kind == 0

/-- CRC-32C over the words before it (R133, R446). -/
def wordsCrc (l : List Word) : Word := crc32c (l.flatMap (fun w => leBytes 4 w.toNat))

/-- A frame as domain `d`'s port forms it: bit 25 of its header names the domain (R446). -/
def oFrame (d seq kind : Nat) (body : List Word) : OFrame :=
  let h := BitVec.ofNat 32 (seq % 2 ^ 16 + kind % 16 * 2 ^ 16 + body.length % 32 * 2 ^ 20 + d * 2 ^ 25)
  { header := h, body := body, crc := wordsCrc (h :: body), cut := false }

/-- What ORD takes of an arriving frame: its CRC is right, its KIND defined and its length as LEN says (R449). -/
def OFrame.valid (f : OFrame) : Bool :=
  !f.cut && f.crc == wordsCrc (f.header :: f.body) && decide (f.kind ≤ 3) && f.len == f.body.length

/-- The port's queue, with the number of its messages in O_STATUS. -/
def setPortQueue (d : Nat) (l : List OFrame) (s : State) : State :=
  (setDomInfo d { dom s d with queue := l } s).sf (domReg d 0x888) 8 4 (l.filter (fun f => !f.isStatus)).length

def onAir (s : State) (d : Nat) : Option OFrame := tget none s.ord.air d
def setAir (d : Nat) (f : Option OFrame) (s : State) : State :=
  s.withOrd (fun o => { o with air := tput none o.air d f })

/-- The first frame that waits goes onto a free link. -/
def portPump (d : Nat) (s : State) : State :=
  match onAir s d, (dom s d).queue with
  | none, f :: r => setAir d (some f) (setPortQueue d r s)
  | _, _ => s

/-- The body word of a status frame (R446). -/
def statusWord (s : State) (d : Nat) : Word :=
  BitVec.ofNat 32 (portState s d + b2n (portMirror s d) * 4 + portSeq s d * 65536)

/-- A status frame on the output link, ahead of the queued messages; the link is connected only in RUN (R432). -/
def portStatus (d : Nat) (s : State) : State :=
  if domState s d ≠ 2 then s
  else
    let q := (dom s d).queue
    portPump d (setPortQueue d (q.takeWhile OFrame.isStatus ++ [oFrame d 0 0 [statusWord s d]] ++ q.dropWhile OFrame.isStatus) s)

/-- The port changes state, and says so in a status frame. -/
def setPort (d v : Nat) (s : State) : State :=
  if portState s d = v then s else portStatus d (s.sf (domReg d 0x888) 1 0 v)

/-- The link is cut: the frame in transmission fails its CRC and nothing waits (R446). -/
def cutLink (d : Nat) (s : State) : State :=
  setPortQueue d [] (setAir d ((onAir s d).map (fun f => { f with cut := true })) s)

/-- ORD's answer to a TAKEOVER reaches the port (R444, R460), where the logic die runs. -/
def claimDone (d status base : Nat) (s : State) : State :=
  if !s.up then s
  else
  let s := s.wr (domReg d 0x894) (BitVec.ofNat 32 (status + 2 ^ 17))
  if status = 0 ∧ portState s d = 3 then setPort d 2 (s.wr (domReg d 0x88C) (BitVec.ofNat 32 base)) else s

/-! ### Domain states (R431, R432) -/

/-- A domain changes state. -/
def setDom (d v : Nat) (s : State) : State :=
  let old := domState s d
  if old = v then s
  else
    let s := if old = 5 then setDomInfo d { dom s d with haltCope := false, haltSecond := false } s else s
    let s := ((s.sf (domReg d 0) 2 0 v).sb (domReg d 0) 3 (v != 2)).sb (domReg d 0) 4 (v == 2)
    let s := (s.sf (rg 13 0) (4 * d + 2) (4 * d) v).sb (rg 13 0) (4 * d + 3) (v != 2)
    let s := s.raise 13 (2 + d)
    let s := if v = 3 then s.raise 13 d else s
    if old = 2 then
      (setPort d 0 (cutLink d s)).sb (domReg (1 - d) 0x888) 3 false
    else if v = 2 ∧ portState s d = 0 then setPort d 1 s
    else s

/-- First address of a domain's TCM (R30). -/
def tcmBase (d : Nat) : Nat := if d = 0 then 0x20000000 else 0x21000000

/-- The architectural state of both cores of a domain as taken. -/
def setCopies (d : Nat) (cope drag : List Word) (s : State) : State :=
  setDomInfo d { dom s d with cope := cope, drag := drag } s

/-- Both copies start at the reset vector, their clocks at zero; an LSC_RESTART ends (R424, R431, R439). -/
def domHeld (d : Nat) (s : State) : State :=
  let s := setDom d 1 (setDomInfo d { dom s d with resetting := false, born := s.sys.ticks, dcsr := dcsrReset } s)
  let s := setCopies d (coreStart (tcmBase d)) (coreStart (tcmBase d)) s
  endRunning (fun c => c.opcode == 0x0D06 && c.inst == d) (fun _ => Fail.ok) (fun _ => []) s

/-- A lockstep fault (R428): KIND, INTERFACE and Cope's pc. An LSC_INJECT ends. -/
def domFault (d kind iface : Nat) (pc : Word) (s : State) : State :=
  let s := (s.cnt (domReg d 0x20) 1).wr (domReg d 0xC) (BitVec.ofNat 32 (kind + iface * 4))
  let s := setDom d 3 (setDomInfo d { dom s d with inject := false } (s.wr (domReg d 0x10) pc))
  let s := endRunning (fun c => c.opcode == 0x0D07 && c.inst == d) (fun _ => Fail.ok) (fun _ => []) s
  if s.bit (domReg d 4) 0 then s else setDom d 0 (setDomInfo d { dom s d with resetting := true } s)

/-- Master `m` is a pair whose next compared output LSC_INJECT spoils (R439). -/
def injected (s : State) (m : Nat) : Bool := (m == 0x10 || m == 0x12) && (dom s ((m - 0x10) / 2)).inject

/-- The fault that LSC_INJECT makes, on an interface. Cope's pc at it is any: the model runs no instruction of the pair
(log entry 21). -/
def injectFault (m iface : Nat) (s : State) : State := domFault ((m - 0x10) / 2) 3 iface (BitVec.ofNat 32 s.free.1) s.free.2

/-! ### SYNC_CHECK (R429, R430) -/

/-- The hash of one copy's words. -/
def syncHash (l : List Word) : Word := wordsCrc l

/-- A SYNC_CHECK: whether it passes, and what it leaves. -/
def syncCheck (d : Nat) (cope drag : List Word) (s : State) : Bool × State :=
  let s := setCopies d cope drag s
  let s := ((s.cnt (domReg d 0x24) 1).wr (domReg d 0x14) (syncHash cope)).wr (domReg d 0x18) (syncHash drag)
  if syncHash cope = syncHash drag then (true, s) else (false, domFault d 2 0 (cope.headD 0) s)

/-! ### Activation timers (R434) -/

def actReg (d k off : Nat) : Nat := domReg d (0x100 + k * 0x10 + off)

def actStart (s : State) (d k : Nat) : Nat :=
  regTime (s.rd (actReg d k 4)) (s.rd (actReg d k 8)) (s.f (actReg d k 0) 31 16)

def actPeriod (s : State) (d k : Nat) : Nat := (s.rd (actReg d k 0xC)).toNat
def actNext (s : State) (d k : Nat) : Nat := tget 0 s.lsc.act (d * 8 + k)
def setActNext (d k t : Nat) (s : State) : State :=
  s.withLsc (fun l => { l with act := tput 0 l.act (d * 8 + k) t })

/-- The next instant of an enabled timer, from its schedule; a one-shot that is past is due at the next tick (R53,
R54). -/
def actArm (d k : Nat) (s : State) : State :=
  let p := actPeriod s d k
  setActNext d k (if p = 0 then actStart s d k else firstInstant (actStart s d k) p s.nowUp) s

/-- Write EN. -/
def actEnable (d k : Nat) (on : Bool) (s : State) : State :=
  let s := s.sb (actReg d k 0) 0 on
  if on then actArm d k s else setActNext d k 0 s

/-- A step puts periodic timers where the new time has them (R56). -/
def lscReposition (s : State) : State :=
  (List.range 16).foldl (fun s i =>
    if s.bit (actReg (i / 8) (i % 8) 0) 0 && actPeriod s (i / 8) (i % 8) != 0 then actArm (i / 8) (i % 8) s else s) s

/-- D_IRQ_PEND as a read shows it (R433). -/
def irqPend (s : State) (d : Nat) : Word :=
  (List.range 19).foldl (fun v b => setBit v b (s.signal b)) (s.rd (domReg d 0x44))

/-- mip.MEIP of Cope, and of the second core while split. -/
def meip (s : State) (d core : Nat) : Bool :=
  decide (irqPend s d &&& s.rd (domReg d (0x48 + 4 * core)) ≠ 0) && (core == 0 || domState s d == 5)

end Sys2Proof.Machine
end

