-- ==== Sys2Proof/Machine/Act.lean ====
section
/-! DEFINITION. How a row acts: only while its part of the module runs, and under the access tables (R46, R85–R87). -/

namespace Sys2Proof.Machine

/-! ### Acting -/

/-- An act of a logic-die row: nothing happens while the die is not running (log entry 6). -/
def act (f : State → State) (s : State) : Out := if s.up then .next (f s) else .next s

/-- An act of the power die's switched part, which runs while the module is not OFF (R448, R494). -/
def actP (f : State → State) (s : State) : Out := if s.sys.phase == .off then .next s else .next (f s)

/-- What an act of a master answers: the state after it, or the block in which its result is unpredictable (R22). -/
abbrev Ans := Except Nat State

/-- A result the spec calls unpredictable, in block `b`. -/
def unpredictable (b : Nat) : Ans := .error b

/-- The state an act of master `m` leaves. -/
def settle (m : Nat) (s : State) : Ans → State
  | .ok t => t
  | .error b => s.stray m b

/-- The interface of the pair that an access leaves by: 1 the output port for its own words, else 0 the bus (R426). -/
def pairIface (m a : Nat) : Nat :=
  match domainOf m with
  | some d => if domReg d 0x800 ≤ a ∧ a < domReg d 0x900 then 1 else 0
  | none => 0

/-- No access of master `m` exists: the debug port's while TRST_N is low, for it is not connected (R580). -/
def absent (s : State) (m : Nat) : Bool := m == 2 && !s.sys.debug

/-- What master `m` does at address `a` of the fabric. While LSC_INJECT waits, it is Cope's next compared output, whose
comparison fails: it never leaves the pair (R427, R439). -/
def fabricAct (m a : Nat) (f : State → State) (s : State) : Out :=
  act (fun s => if absent s m then s else if injected s m then injectFault m (pairIface m a) s else f s) s

/-- An expert write of the register at `off` of block `b`: dropped and counted unless the block's table grants WRITE
with the mask bit (R46, R85). -/
def withWrite (b off : Nat) (k : Mask) (m : Nat) (f : State → Ans) (s : State) : Out :=
  fabricAct m (rg b off) (fun s =>
    if !reachesRegs s m then s.refuse m (rg b off) true
    else if (s.aclEntry b m).allows 1 k then settle m s (f s) else s.drop m) s

/-- The state a row leaves. -/
def after (o : Out) (s : State) : State :=
  match o with
  | .next t => t
  | _ => s

/-- A register read with a side effect: zero with an error response, and counted, unless the block's table grants
READ with the mask bit (R87). -/
def withRead (b off : Nat) (k : Mask) (m : Nat) (f : State → State) (s : State) : Out :=
  fabricAct m (rg b off) (fun s =>
    if !reachesRegs s m then s.refuse m (rg b off) false
    else if (s.aclEntry b m).allows 0 k then f s
    else (s.refuseRead b m).reply m [0] true) s

end Sys2Proof.Machine
end

