-- ==== Sys2Proof/Machine/Run.lean ====
section
/-! DEFINITION. How Mason runs a command: the checks of R67, the start rules, and its end (R59–R78). -/

namespace Sys2Proof.Machine

/-- What the execution of a command answers. A failure leaves the state as it was (R59); `part` is a status its
chapter marks as partial; `wait` starts a long operation, whose end completes the command. -/
inductive CmdOut where
  | ok (s : State) (result : List Byte) (value : Nat)
  | fail (status code offset value : Nat)
  | part (s : State) (status code offset value : Nat)
  | wait (s : State)

/-- The execution of a command (R67 steps 9–11). -/
abbrev CmdEff := Cmd → State → CmdOut

/-- A command that ends OK with no result. -/
def CmdOut.done (s : State) : CmdOut := .ok s [] 0

/-- A command that ends OK with an inline result. -/
def CmdOut.res (s : State) (r : List Byte) : CmdOut := .ok s r 0

/-- BAD_PARAM with a detail code. -/
def badParam (code offset value : Nat) : CmdOut := .fail stBadParam code offset value

/-- WRONG_STATE with a detail code. -/
def wrongState (code value : Nat) : CmdOut := .fail stWrongState code noOffset value

/-- A reserved payload bit that is set (RESERVED_FIELD): DETAIL.VALUE is the word that holds it, as written (log
entry 52). -/
def reservedField (c : Cmd) (offset : Nat) : CmdOut :=
  .fail stBadParam 3 offset (leAt c.payload (offset / 4 * 4 - 32) 4)

/-- Parameter of `k` bytes at payload offset `o`, counted from 32 (R63). -/
def Cmd.p (c : Cmd) (o k : Nat) : Nat := leAt c.payload (o - 32) k

/-- Parameter word at payload offset `o`. -/
def Cmd.w (c : Cmd) (o : Nat) : Word := BitVec.ofNat 32 (c.p o 4)

/-- Whether the words or bytes of reserved payload are zero. -/
def Cmd.zero (c : Cmd) (o k : Nat) : Bool := c.p o k == 0

/-- A time value in a payload, in nanoseconds (R104). -/
def Cmd.time (c : Cmd) (o : Nat) : Nat := c.p (o + 4) 6 * 1000000000 + c.p o 4 % 2 ^ 30

/-- The NS field of a time value in a payload. -/
def Cmd.timeNs (c : Cmd) (o : Nat) : Nat := c.p o 4 % 2 ^ 30

/-- Reserved bits of a time value in a payload are zero (R104). -/
def Cmd.timeForm (c : Cmd) (o : Nat) : Bool := decide (c.p o 4 < 2 ^ 30) && c.zero (o + 10) 2

/-- The reserved bits of a time value in a payload that are set. -/
def timeReserved (c : Cmd) (o : Nat) : CmdOut := reservedField c (if c.p o 4 < 2 ^ 30 then o + 10 else o)

/-- Which way a command's buffer goes (R64). -/
inductive Buf where
  | none | input | output
  deriving DecidableEq, Repr

/-- What steps 1–6 of R67 need to know of an opcode. -/
structure OpSpec where
  opcode : Nat
  /-- Lengths the opcode takes: from `lenLo` to `lenHi`, those that `lenOk` passes. -/
  lenLo : Nat
  lenHi : Nat
  lenOk : Nat → Bool := fun _ => true
  instLo : Nat := 0
  instHi : Nat := 0
  /-- Instances between those two that the opcode takes. -/
  instOk : Nat → Bool := fun _ => true
  /-- Highest instance of the opcode class, for INSTANCE_RANGE (R66). -/
  classHi : Nat
  /-- Access table and mask bit (R85, R86). -/
  block : Nat
  mask : Cmd → Mask
  fitted : State → Cmd → Bool := fun _ _ => true
  buf : Buf := .none
  /-- The length that an inline payload's own fields require. -/
  lenNeed : List Byte → Option Nat := fun _ => none

/-- The right an opcode needs: CMD_BASIC or CMD_EXPERT (R61). -/
def opRight (opcode : Nat) : Nat := if opcode % 256 < 0x80 then 2 else 3

/-- R67 steps 1–4 on the raw slot: all that can be checked in the slot itself. A command of the network port (`ncp`)
takes no buffer (R64). Where the opcode takes a range of lengths, LEN_WRONG gives the shortest to a shorter one and the
longest to any other (log entry 52). -/
def slotCheck (ncp : Bool) (spec : Option OpSpec) (raw : List Byte) : Option Fail :=
  let w0 := leAt raw 0 4
  let w2 := leAt raw 8 4
  let len := leAt raw 6 2
  let ind := w0.testBit 17
  if w0 / 2 ^ 24 ≠ 3 then some ⟨stBadOpcode, 1, 3, w0 / 2 ^ 24⟩
  else match spec with
    | none => some ⟨stBadOpcode, 2, 0, 0⟩
    | some sp =>
      if (w0 / 2 ^ 19) % 32 ≠ 0 then some ⟨stBadParam, 3, 2, w0⟩
      else if w2 / 2 ^ 16 ≠ 0 then some ⟨stBadParam, 3, 10, w2⟩
      else if leAt raw 24 4 ≠ 0 then some ⟨stBadParam, 3, 24, leAt raw 24 4⟩
      else if leAt raw 28 4 ≠ 0 then some ⟨stBadParam, 3, 28, leAt raw 28 4⟩
      else if ind ∧ leAt raw 21 3 ≠ 0 then some ⟨stBadParam, 3, 21, leAt raw 20 4⟩
      else if ind ∧ (ncp = true ∨ sp.buf = .none) then some ⟨stBadParam, 9, 2, 0⟩
      else if ind ∧ leAt raw 12 4 > 16777216 then some ⟨stLength, 0x18, 12, 16777216⟩
      else if !ind ∧ len > 224 then some ⟨stLength, 4, 6, 224⟩
      else if ind ∧ len > leAt raw 12 4 then some ⟨stLength, 5, 6, leAt raw 12 4⟩
      else if len < sp.lenLo then some ⟨stLength, 6, 6, sp.lenLo⟩
      else if len > sp.lenHi ∨ !sp.lenOk len then some ⟨stLength, 6, 6, sp.lenHi⟩
      else match (if ind then none else (sp.lenNeed (slice raw 32 len)).filter (fun n => n != len)) with
      | some n => some ⟨stLength, 6, 6, n⟩
      | none =>
      if w2 % 2 ^ 16 < sp.instLo ∨ w2 % 2 ^ 16 > sp.instHi ∨ !sp.instOk (w2 % 2 ^ 16) then some ⟨stBadParam, 8, 8, sp.classHi⟩
      else none

/-- The command a slot holds. -/
def parseSlot (ring slot issuer door : Nat) (raw : List Byte) : Cmd :=
  let w0 := leAt raw 0 4
  { ring := ring, slot := slot, issuer := issuer, opcode := w0 % 2 ^ 16, ordered := w0.testBit 16,
    indirect := w0.testBit 17, noReply := w0.testBit 18, tag := leAt raw 4 2, len := leAt raw 6 2,
    inst := leAt raw 8 2, bufSize := leAt raw 12 4, bufAddr := leAt raw 16 5,
    payload := if w0.testBit 17 then [] else slice raw 32 (min 224 (leAt raw 6 2)), door := door, running := false }

/-- First mask bit of an entry that is clear. -/
def firstClear (m : BitVec 64) : Nat := ((firstBelow (fun i => !m.getLsbD i) 64).getD 63)

/-- R67 step 5: the right, then the mask bit, of the issuer in block `b`'s table. -/
def rightFail (s : State) (b m right : Nat) (k : Mask) : Option Fail :=
  let e := s.aclEntry b m
  if !bitOf e.rights right then some ⟨stDenied, 0x10, noOffset, b * 256 + right⟩
  else match k with
    | .none => none
    | .bit n => if e.mask.getLsbD n then none else some ⟨stDenied, 0x11, noOffset, n⟩
    | .full => if e.mask = BitVec.allOnes 64 then none else some ⟨stDenied, 0x11, noOffset, firstClear e.mask⟩

/-- The first byte of a buffer outside the windows of master `m` (step 7 of R67): of a translated address, so a byte
whose translation faults is left to the access itself. -/
def outOfWindow (s : State) (m a n : Nat) (wr : Bool) : Option Nat :=
  ((List.range n).map (a + ·)).find? (fun x =>
    match s.xlate m x wr with
    | some p => !s.inWindows m p wr
    | none => false)

/-- The accesses a command's buffer needs: reading for an input buffer and for parameters in the buffer, writing for an
output buffer (R64). -/
def bufReads (sp : OpSpec) (c : Cmd) : Bool := sp.buf != .output || c.len != 0

/-- The first byte of a command's buffer that its windows do not grant. -/
def bufRefused (sp : OpSpec) (c : Cmd) (s : State) : Option Nat :=
  let bad := fun (need wr : Bool) => if need then outOfWindow s c.issuer c.bufAddr c.bufSize wr else none
  (bad (bufReads sp c) false).orElse (fun _ => bad (sp.buf == .output) true)

/-- An LSC command aimed at one domain by a master of the other, which has no right whatever the tables hold (R438). -/
def crossDomain (sp : OpSpec) (c : Cmd) : Bool := sp.block == 13 && domainOf c.issuer == some (1 - c.inst)

/-- R67 steps 5–7 and the input read of step 8: the command with its payload, or the failure and the address whose read
was refused (R422). -/
def startCheck (sp : OpSpec) (c : Cmd) (s : State) : (Fail × Option Nat) ⊕ Cmd :=
  match (if crossDomain sp c then some ⟨stDenied, 0x10, noOffset, sp.block * 256 + opRight sp.opcode⟩
    else rightFail s sp.block c.issuer (opRight sp.opcode) (sp.mask c)) with
  | some f => .inl (f, none)
  | none =>
    if !sp.fitted s c then .inl (⟨stNotFitted, 0, 8, 0⟩, none)
    else if c.indirect then
      match bufRefused sp c s with
      | some a => .inl (⟨stDenied, 0x12, noOffset, a % 2 ^ 32⟩, none)
      | none =>
        match s.badByte c.issuer c.bufAddr c.len false with
        | some a => .inl (⟨stAborted, 0x14, noOffset, a % 2 ^ 32⟩, some a)
        | none => .inr { c with payload := s.dmaBytes c.issuer c.bufAddr c.len }
    else .inr c

/-! ### Completion -/

/-- Finish an execution that succeeded: the result goes inline or, for an output buffer, into the buffer (R64). `s0`
is the state before the execution, kept where the result does not fit. -/
def finish (sp : OpSpec) (c : Cmd) (result : List Byte) (value : Nat) (s0 s : State) : State :=
  if c.indirect ∧ sp.buf = .output then
    if result.length > c.bufSize then completeFail c ⟨stLength, 7, noOffset, result.length⟩ s0
    else match s0.badByte c.issuer c.bufAddr result.length true with
      | some a => completeFail c ⟨stAborted, 0x14, noOffset, a % 2 ^ 32⟩ (s0.accessFault c.issuer a true)
      | none => complete c 0 0 noOffset value result.length [] (s.dmaPut c.issuer c.bufAddr result)
  else if result.length > 224 then completeFail c ⟨stLength, 7, noOffset, result.length⟩ s0
  else complete c 0 0 noOffset value result.length result s

/-- Mark a command of Mason's list as running, with the payload its checks read. -/
def markRunning (c : Cmd) (s : State) : State :=
  { s with mason := { s.mason with cmds := s.mason.cmds.map (fun d =>
      if sameCmd d c then { c with running := true, kept := max c.kept d.kept } else d) } }

/-- A time value as a payload or result holds it (R104). -/
def timeBytes (t : Nat) : List Byte := leBytes 4 (t % 1000000000) ++ leBytes 6 (t / 1000000000) ++ [0, 0]

/-! ### Which commands may start -/

/-- Ring 31 while the network command port is enabled (R94). -/
def ncpRing (s : State) (n : Nat) : Bool := n == 31 && s.bit (rg 1 0x20) 0

/-- SLOTS of ring `n`; 16 while ring 31 is the network command port's (R94). -/
def ringSlots (s : State) (n : Nat) : Nat := if ncpRing s n then 16 else 2 ^ s.f (ringReg n 8) 3 0

/-- Base address of ring `n`. -/
def ringBase (s : State) (n : Nat) : Nat :=
  s.f (ringReg n 4) 7 0 * 2 ^ 32 + s.f (ringReg n 0) 31 12 * 4096

/-- Owner of ring `n`; ring 31 is the network command port's while it is enabled (R94). -/
def ringOwner (s : State) (n : Nat) : Nat :=
  if n = 31 ∧ s.bit (rg 1 0x20) 0 = true then 0x20 else s.f (ringReg n 0x0C) 6 0

/-- The first header word of slot `i` of ring `n` as it stands. -/
def slotHead (s : State) (n i : Nat) : Nat :=
  if ncpRing s n then ((s.mason.ncp.find? (fun x => x.slot == i)).map (fun x => leAt x.bytes 0 4)).getD 0
  else leNat (s.dmaBytes (ringOwner s n) (ringBase s n + i * 256) 4)

/-- General opcodes form no pair (R84). -/
def isGeneral (opcode : Nat) : Bool := decide (opcode ≤ 3)

/-- RUL_POUR_OPEN does not wait behind a commit that has started: it returns STAGING_OPEN (R208; log entry 60). -/
def openBesideCommit (a b : Cmd) : Bool := a.running && a.opcode == 0x0601 && b.opcode == 0x0600

/-- Two commands for the same (block, instance) pair (R70). -/
def samePair (a b : Cmd) : Bool :=
  !isGeneral a.opcode && !isGeneral b.opcode && a.opcode / 256 == b.opcode / 256 && a.inst == b.inst

/-- The commands fetched before `c`. -/
def fetchedBefore (c : Cmd) : List Cmd → List Cmd
  | [] => []
  | d :: r => if sameCmd d c then [] else d :: fetchedBefore c r

/-- A command for the same pair was fetched earlier and has not completed (R70). -/
def pairBusy (c : Cmd) (s : State) : Bool :=
  (fetchedBefore c s.mason.cmds).any (fun d => samePair c d && !openBesideCommit d c)

/-- Command `d` was issued before `c`: its doorbell reached CMD earlier, or it stands before `c` under the same
doorbell (R44). -/
def issuedBefore (s : State) (d c : Cmd) : Bool :=
  decide (d.door < c.door) || (d.door == c.door && (fetchedBefore c s.mason.cmds).contains d)

/-- Other commands of the same master, fetched and not completed. -/
def fellows (c : Cmd) (s : State) : List Cmd :=
  s.mason.cmds.filter (fun d => d.issuer == c.issuer && !sameCmd d c)

/-- Slots of ring `n` from CMD_HEAD to the tail a doorbell wrote. -/
def doorSlots (slots head tail : Nat) : List Nat :=
  (List.range ((tail + slots - head) % slots)).map (fun i => (head + i) % slots)

/-- Whether a FENCE stands in a slot that an earlier doorbell of the same master uncovered and Mason has not fetched. -/
def fenceUnfetched (c : Cmd) (s : State) : Bool :=
  s.mason.doors.any (fun d => d.master == c.issuer && decide (d.order < c.door) &&
    (doorSlots (ringSlots s d.ring) (s.f (ringReg d.ring 0x18) 11 0) d.tail).any (fun i =>
      slotHead s d.ring i % 2 ^ 16 == 1 && slotHead s d.ring i / 2 ^ 24 == 3))

/-- Whether a FENCE of the same master issued earlier has not completed, its reply included (R44). -/
def fenced (c : Cmd) (s : State) : Bool :=
  (fellows c s).any (fun d => d.opcode == 1 && issuedBefore s d c) || fenceUnfetched c s ||
  s.mason.replies.any (fun r => r.opcode == 1 && r.issuer == c.issuer && decide (r.door ≤ c.door) && !r.noReply)

/-- ORDERED (R43): the command waits for every earlier one of its ring, and for an earlier ORDERED one; completed
means its reply is written (log entry 13). -/
def orderHeld (c : Cmd) (s : State) : Bool :=
  let before := (fetchedBefore c s.mason.cmds).filter (fun d => d.ring == c.ring)
  let waiting := s.mason.replies.filter (fun r => r.ring == c.ring && !r.noReply)
  (c.ordered && (!before.isEmpty || !waiting.isEmpty)) || before.any (·.ordered) || waiting.any (·.ordered)

/-- FENCE completes once every command of the same master issued earlier has completed (R44): fetched or not, in any
ring. Its register writes have taken effect, since commands take effect in arrival order. -/
def fenceDone (c : Cmd) (s : State) : Bool :=
  !(fellows c s).any (fun d => issuedBefore s d c) &&
  !(s.mason.replies.any (fun r => r.issuer == c.issuer && decide (r.door ≤ c.door) && !r.noReply)) &&
  !(s.mason.doors.any (fun d => d.master == c.issuer && decide (d.order < c.door)))

/-- Whether nothing holds a fetched command: no pair, FENCE or ORDERED, and a FENCE its own wait (R43, R44, R70). -/
def freeToStart (c : Cmd) (s : State) : Bool :=
  !c.running && !pairBusy c s && !fenced c s && !orderHeld c s && (c.opcode != 1 || fenceDone c s)

/-- Whether a fetched command may start now: it is free to, and none fetched before it is (R70). -/
def startable (c : Cmd) (s : State) : Bool :=
  freeToStart c s && !(fetchedBefore c s.mason.cmds).any (fun d => freeToStart d s)

/-- The fetched command that a row of an opcode, a ring and a slot names: the one that may start, since a slot may be
reused while its older command waits or runs (R74). -/
def findCmd (op ring slot : Nat) (s : State) : Option Cmd :=
  s.mason.cmds.find? (fun c => c.ring == ring && c.slot == slot && c.opcode == op && startable c s)

/-- The command of a ring's slot with the payload its checks read, where it may start and passes R67 steps 5–8. -/
def runnable (sp : OpSpec) (ring slot : Nat) (s : State) : Option Cmd :=
  if !s.up then none
  else match findCmd sp.opcode ring slot s with
    | none => none
    | some d =>
      match startCheck sp d s with
      | .inr c => some c
      | .inl _ => none

/-- The state after the read of a command's input buffer (R64): outbound, the read is a TLP on the link. -/
def inputRead (c : Cmd) (s : State) : State := if c.indirect then s.dmaRead c.issuer c.bufAddr c.len else s

/-- Run the command that ring and slot name, if Mason holds one of this opcode that may start: checks of R67 steps
5–8, then its execution, then completion. Otherwise nothing happens (log entry 6). -/
def runOp (sp : OpSpec) (eff : CmdEff) (ring slot : Nat) (s : State) : State :=
  match findCmd sp.opcode ring slot s with
  | none => s
  | some c =>
    match startCheck sp c s with
    | .inl f => completeFail c f.1 (match f.2 with | some a => s.accessFault c.issuer a false | none => s)
    | .inr c =>
      let s := inputRead c s
      match eff c s with
      | .ok s' r v => finish sp c r v s s'
      | .fail st code off v => completeFail c ⟨st, code, off, v⟩ s
      | .part s' st code off v => completeFail c ⟨st, code, off, v⟩ s'
      | .wait s' => markRunning c s'

/-- The row of an opcode: Mason serves rings while the die runs and CMD.INFO.RUNNING is set. -/
def opRow (sp : OpSpec) (eff : CmdEff) (ring slot : Nat) (s : State) : Out := act (runOp sp eff ring slot) s

/-- Ports of a set that are not fitted. -/
def unfittedOf (s : State) (set : Nat) : Option Nat := (bitsOf set 21).find? (fun p => !portFitted s.tier p)

/-- A port set in a payload at offset `o`: reserved bits, then fitting (R10), then the mask bit of every port it names
in block `b`'s table (step 9 of R67). -/
def portSetCheck (b : Nat) (c : Cmd) (o : Nat) (s : State) (k : CmdOut) : CmdOut :=
  let v := c.p o 4
  if v ≥ 2 ^ 21 then reservedField c o
  else match unfittedOf s v with
    | some p => .fail stNotFitted 0 o p
    | none =>
      match (bitsOf v 21).find? (fun p => !(s.aclEntry b c.issuer).mask.getLsbD p) with
      | some p => .fail stDenied 0x11 o p
      | none => k

/-- Read and clear 32-bit counters: their bytes, four each, in order. -/
def takeCounters : List Nat → State → List Byte × State
  | [], s => ([], s)
  | a :: r, s =>
    let t := takeCounters r (s.wr a 0)
    (leBytes 4 (s.rd a).toNat ++ t.1, t.2)

/-- The bytes of registers, four each, in order. -/
def readRegs (l : List Nat) (s : State) : List Byte := l.flatMap (fun a => leBytes 4 (s.rd a).toNat)

/-- The addresses of `n` registers from `a`, four bytes apart. -/
def regRun (a n : Nat) : List Nat := (List.range n).map (fun i => a + 4 * i)

end Sys2Proof.Machine
end

