-- ==== Sys2Proof/Machine/Mason.lean ====
section
/-! DEFINITION. Command rings (R73–R83, R589, R590), their register writes, SYS.FENCE (R45–R49) and the general
opcodes (R84). -/

namespace Sys2Proof.Machine

/-! ### Rings -/

/-- R81: the configuration a ring needs to be enabled; addresses are judged page by page after translation. -/
def ringConfigOk (s : State) (n : Nat) : Bool :=
  let o := ringOwner s n
  let k := s.f (ringReg n 8) 3 0
  let half := ringSlots s n * 256 / 4096
  let ok := fun (wr : Bool) (i : Nat) =>
    match s.physByte o (ringBase s n + i * 4096) wr with
    | some p => region p == .sram || region p == .dram
    | none => false
  o != 0 && decide (4 ≤ k) && decide (k ≤ 12) && (List.range half).all (ok false) &&
    (List.range half).all (fun i => ok true (half + i))

/-- Commands of ring `n` fetched and not started complete with ABORTED and RING_STOPPED (R82). -/
def stopRing (n : Nat) (s : State) : State :=
  let s := s.sb (ringReg n 0x10) 0 false
  let s := (s.mason.cmds.filter (fun c => c.ring == n && !c.running)).foldl
    (fun s c => completeFail c ⟨stAborted, 0x15, noOffset, 0⟩ s) s
  ringShow n s

/-- A refused slot access faults ring `n` (R590). -/
def ringFault (n kind addr : Nat) (wr : Bool) (s : State) : State :=
  let o := ringOwner s n
  let s := (s.accessFault o addr wr).sb (ringReg n 0x24) 1 true
  let s := s.sf (ringReg n 0x24) 5 4 kind
  (stopRing n s).notify o 1 n

/-- A write of a ring register that only its owner may write: from another master it is dropped, and counted in
FOREIGN_DB too (R80). -/
def ownedWrite (n off m : Nat) (f : State → Ans) (s : State) : Out :=
  let o := 0x1000 + n * 0x40 + off
  fabricAct m (rg 1 o) (fun s =>
    if 31 < n then s
    else if !reachesRegs s m then s.refuse m (rg 1 o) true
    else if ringOwner s n ≠ m then (s.drop m).sb (ringReg n 0x24) 3 true
    else if (s.aclEntry 1 m).allows 1 (.bit n) then settle m s (f s) else s.drop m) s

/-- A doorbell value its owner writes (R589): the present tail uncovers no slot, and a value that moves the tail back, or
past CMD_HEAD, is unpredictable within the ring. -/
def ringTail (m n : Nat) (v : Word) (s : State) : Ans :=
  let k := ringSlots s n
  let old := s.f (ringReg n 0x14) 11 0
  let head := s.f (ringReg n 0x18) 11 0
  if v.toNat ≥ k then .ok (s.sb (ringReg n 0x24) 2 true)
  else if v.toNat = old then .ok s
  else if (v.toNat + k - old) % k ≤ (head + 2 * k - 1 - old) % k then
    let s := s.wr (ringReg n 0x14) v
    let d : Door := { ring := n, order := s.mason.doorCount, tail := v.toNat, master := m }
    .ok { s with mason := { s.mason with doors := s.mason.doors ++ [d], doorCount := s.mason.doorCount + 1 } }
  else unpredictable (inRing n)

/-- A doorbell write of CMD_TAIL (R80, R589). -/
def execRingDoorbell (m n : Nat) (v : Word) (s : State) : Out := ownedWrite n 0x14 m (ringTail m n v) s

/-- A write of RSP_HEAD (R80). -/
def rspHeadWrite (m n : Nat) (v : Word) (s : State) : Out :=
  ownedWrite n 0x20 m (fun s => if fld v 31 12 ≠ 0 then unpredictable 1 else .ok (s.wr (ringReg n 0x20) v)) s

/-- EN written 1 (R81). While EN is 1 already the checks do not run again (log entry 50). -/
def ringEnable (n : Nat) (s : State) : State :=
  if 31 < n ∨ ncpRing s n = true ∨ s.bit (ringReg n 0x10) 0 = true then s
  else if ringConfigOk s n then ringShow n (s.sb (ringReg n 0x10) 0 true)
  else
    let s := (s.sb (ringReg n 0x24) 1 true).sf (ringReg n 0x24) 5 4 0
    s.notify (ringOwner s n) 1 n

/-- A write of RING_CTRL.EN = 1 (R81). -/
def execRingEnable (m n : Nat) (s : State) : Out := withWrite 1 (0x1010 + n * 0x40) (.bit n) m (fun s => .ok (ringEnable n s)) s

/-- EN written 0 (R82). -/
def ringDisable (n : Nat) (s : State) : State := if 31 < n ∨ ncpRing s n = true then s else stopRing n s

/-- A write of RING_CTRL.EN = 0 (R82). -/
def execRingDisable (m n : Nat) (s : State) : Out := withWrite 1 (0x1010 + n * 0x40) (.bit n) m (fun s => .ok (ringDisable n s)) s

/-- The four indices of ring `n` at zero. -/
def ringZero (n : Nat) (s : State) : State :=
  let s := (((s.wr (ringReg n 0x14) 0).wr (ringReg n 0x18) 0).wr (ringReg n 0x1C) 0).wr (ringReg n 0x20) 0
  { s with mason := { s.mason with doors := s.mason.doors.filter (fun d => d.ring != n) } }

/-- RESET written 1, which acts only while IDLE = 1 (R82). -/
def ringReset (n : Nat) (s : State) : State :=
  if 31 < n ∨ ncpRing s n = true then s else if s.bit (ringReg n 0x24) 0 then ringZero n s else s

/-- A write of RING_CTRL.RESET (R82). -/
def execRingReset (m n : Nat) (s : State) : Out := withWrite 1 (0x1010 + n * 0x40) (.bit n) m (fun s => .ok (ringReset n s)) s

/-- A whole word written to RING_CTRL: RESET acts before EN takes its value. -/
def ringCtrlWrite (m n : Nat) (v : Word) (s : State) : Out :=
  withWrite 1 (0x1010 + n * 0x40) (.bit n) m (fun s =>
    if fld v 31 2 ≠ 0 then unpredictable 1
    else
      let s := if bitOf v 1 then ringReset n s else s
      .ok (if bitOf v 0 then ringEnable n s else ringDisable n s)) s

/-- A write of RING_OWNER: dropped without ACL_ADMIN (R80), and without effect while EN = 1 (R81, R94). -/
def ringOwnerWrite (m n : Nat) (v : Word) (s : State) : Out :=
  withWrite 1 (0x100C + n * 0x40) (.bit n) m (fun s =>
    if bitOf (s.aclEntry 1 m).rights 4 = false then .ok (s.drop m)
    else if s.bit (ringReg n 0x10) 0 || ncpRing s n then .ok s
    else if fld v 31 7 ≠ 0 then unpredictable 1 else .ok (s.wr (ringReg n 0xC) v)) s

/-- BASE and CFG of a ring take no write while EN = 1, nor those of ring 31 while it is the network port's (R81,
R94). -/
def ringHeld (s : State) (n o : Nat) : Bool := decide (o ≤ 0x10) && (ncpRing s n || s.bit (ringReg n 0x10) 0)

/-- A write of CMD.TIMEOUT: LIMIT_US takes the nearer limit (R71); block-wide, so a full mask (R86). -/
def execCmdTimeoutWrite (m : Nat) (v : Word) (s : State) : Out :=
  withWrite 1 8 .full m (fun s =>
    if fld v 31 20 ≠ 0 then unpredictable 1
    else .ok (s.wr (rg 1 8) (BitVec.ofNat 32 (max 100 (min 1000000 (fld v 19 0)))))) s

/-! ### Fetch conditions and arbitration -/

/-- Reply slots of ring `n` that no fetched command has reserved (R75). -/
def replyRoom (s : State) (n : Nat) : Nat :=
  let k := ringSlots s n
  let free := (s.f (ringReg n 0x20) 11 0 + 2 * k - 1 - s.f (ringReg n 0x1C) 11 0) % k
  free - ((s.mason.cmds.filter (fun c => c.ring == n)).length + (s.mason.replies.filter (fun r => r.ring == n)).length)

/-- The fetch conditions of R75. -/
def ringReady (s : State) (n : Nat) : Bool :=
  (s.bit (ringReg n 0x10) 0 || ncpRing s n) && (s.f (ringReg n 0x18) 11 0 != s.f (ringReg n 0x14) 11 0) &&
    decide ((s.mason.cmds.filter (fun c => c.ring == n)).length < 8) && decide ((s.mason.cmds.filter (fun c => c.ring != imageRing)).length < 64) &&
    decide (0 < replyRoom s n)

/-- The ring Mason fetches from: the highest PRIO, and within it the next ready ring after the last served (R79). -/
def pickRing (s : State) : Option Nat :=
  [3, 2, 1, 0].findSome? (fun p =>
    firstFrom (fun n => ringReady s n && s.f (ringReg n 8) 5 4 == p) (tget 31 s.mason.served p + 1) 32)

/-- Order of the doorbell that covers the next slot of ring `n`. -/
def doorOf (s : State) (n : Nat) : Nat :=
  match s.mason.doors.find? (fun d => d.ring == n) with
  | some d => d.order
  | none => s.mason.doorCount

/-- Advance CMD_HEAD past the fetched slot; a doorbell whose slots are all fetched is forgotten. -/
def advanceHead (n : Nat) (s : State) : State :=
  let h := (s.f (ringReg n 0x18) 11 0 + 1) % ringSlots s n
  let s := s.wr (ringReg n 0x18) (BitVec.ofNat 32 h)
  match s.mason.doors.find? (fun d => d.ring == n) with
  | some d => if d.tail = h then { s with mason := { s.mason with doors := s.mason.doors.erase d } } else s
  | none => s

/-- Hold a command in Mason's SRAM. -/
def holdCmd (c : Cmd) (s : State) : State :=
  ringShow c.ring { s with mason := { s.mason with cmds := s.mason.cmds ++ [c] } }

/-- Fetch one command of ring `n`, its slot's bytes as they stand (log entry 53), and check what the slot alone decides
(R67 steps 1–4, R74, R590). -/
def fetchFrom (lookup : Nat → Option OpSpec) (n : Nat) (s : State) : State :=
  let head := s.f (ringReg n 0x18) 11 0
  let owner := ringOwner s n
  let addr := ringBase s n + head * 256
  let p := s.f (ringReg n 8) 5 4
  let take := fun (raw : List Byte) (s : State) =>
    let c := parseSlot n head owner (doorOf s n) raw
    let s := advanceHead n { s with mason := { s.mason with served := tput 31 s.mason.served p n } }
    let s := holdCmd c s
    match slotCheck (ncpRing s n) (lookup c.opcode) raw with
    | some f => completeFail c f s
    | none => s
  if ncpRing s n then
    match s.mason.ncp.find? (fun x => x.slot == head) with
    | some x => take x.bytes s
    | none => s
  else
    match s.badByte owner addr 256 false with
    | some a => ringFault n 1 a false s
    | none => take (s.dmaBytes owner addr 256) s

/-! ### Replies -/

/-- The 32 header bytes and the inline result of a reply slot (R65). The slot's bytes after them keep what memory held,
and a RESULT_LEN above its 16 bits wraps (log entry 51). -/
def replyBytes (r : Reply) : List Byte :=
  leBytes 2 r.tag ++ leBytes 2 r.status ++ leBytes 2 r.resultLen ++ leBytes 2 r.opcode ++
  leBytes 2 r.code ++ leBytes 2 r.offset ++ leBytes 4 r.value ++ leBytes 4 r.slot ++ leBytes 4 0 ++
  leBytes 4 r.doneNs ++ leBytes 4 r.doneSec ++ r.result

/-- A reply advances RSP_TAIL and, at COAL_COUNT replies since the last event, raises the completion event (R76). -/
def announce (n : Nat) (s : State) : State :=
  let k := tget 0 s.mason.unannounced n + 1
  let c := s.f (ringReg n 0x28) 7 0
  let s := s.wr (ringReg n 0x1C) (BitVec.ofNat 32 ((s.f (ringReg n 0x1C) 11 0 + 1) % ringSlots s n))
  let fire := decide (0 < c) && decide (c ≤ k)
  let s := { s with mason := { s.mason with unannounced := tput 0 s.mason.unannounced n (if fire then 0 else k) } }
  if fire then s.notify (ringOwner s n) 0 n else s

/-- Write the oldest waiting reply of a ring other than the network port's (R76, R78, R590). -/
def writeReply (r : Reply) (s : State) : State :=
  if r.noReply then
    if r.status = 0 then s
    else (s.cntF (ringReg r.ring 0x2C) 15 0 1).notify (ringOwner s r.ring) 1 r.ring
  else
    let a := ringBase s r.ring + (ringSlots s r.ring + s.f (ringReg r.ring 0x1C) 11 0) * 256
    match s.badByte r.issuer a 256 true with
    | some x => ringFault r.ring 2 x true s
    | none => announce r.ring (s.dmaPut r.issuer a (replyBytes r))

/-- The oldest unannounced reply reaches COAL_TIME: the completion event is raised (R76, RING_EVENT). -/
def execCompletionEventTimer (n : Nat) (s : State) : Out :=
  act (fun s =>
    if s.f (ringReg n 0x28) 7 0 ≠ 0 ∧ s.f (ringReg n 0x28) 23 8 ≠ 0 ∧ tget 0 s.mason.unannounced n ≠ 0 then
      let s := { s with mason := { s.mason with unannounced := tput 0 s.mason.unannounced n 0 } }
      s.notify (ringOwner s n) 0 n
    else s) s

/-- A command that waits at its admission point longer than CMD.TIMEOUT completes with TIMEOUT and no effect (R71).
The row's arrival says that the time has passed (log entry 7); the point is a pair busy under R70. -/
def execCommandTimeout (ring slot : Nat) (s : State) : Out :=
  act (fun s =>
    match s.mason.cmds.find? (fun c => c.ring == ring && c.slot == slot && !c.running && pairBusy c s) with
    | some c => completeFail c ⟨stTimeout, 0x17, noOffset, s.f (rg 1 8) 19 0⟩ s
    | none => s) s

/-! ### SYS.FENCE -/

/-- The word a SYS.FENCE read returns and the state after it: the reader's DROPPED count is cleared (R48). -/
def fenceRead (m waited : Nat) (timedOut : Bool) (s : State) : State :=
  let w := min 0xFFFF waited + tget 0 s.sys.dropped m * 2 ^ 16 + b2n timedOut * 2 ^ 30
  let s := { s with sys := { s.sys with dropped := tput 0 s.sys.dropped m 0 } }
  s.reply m [BitVec.ofNat 32 w] false

/-- Writes of master `m` through the outbound window that have no response yet: they are outstanding (R531). -/
def outWrites (s : State) (m : Nat) : Nat :=
  ((s.hbr.requests ++ s.hbr.waiting).filter (fun r => r.kind == .write && r.initiator == m)).length

/-- A read of SYS.FENCE returns (R45, R48): not while a write of the reader through the outbound window is outstanding.
`waited` is how many writes of the reader were outstanding as the read arrived; those to registers have taken effect by
now, since commands take effect in arrival order. -/
def execSysFenceRead (m waited : Nat) (s : State) : Out :=
  fabricAct m (rg 0 0x10) (fun s =>
    if !reachesRegs s m then s.refuse m (rg 0 0x10) false
    else if outWrites s m = 0 then fenceRead m waited false s else s) s

/-- A SYS.FENCE read reaches its 100 µs limit with `waited` register writes outstanding, and the reader's writes through
the outbound window (R49, R531). The event carries no more than its bit: which master it concerns shows only in the
recorded read (log entry 68). -/
def execFenceTimeout (m waited : Nat) (s : State) : Out :=
  fabricAct m (rg 0 0x10) (fun s =>
    if reachesRegs s m then (fenceRead m (waited + outWrites s m) true s).raise 0 0
    else s.refuse m (rg 0 0x10) false) s

/-! ### The SYS error log -/

/-- A read of SYS.ERR_POP_LO pops the oldest entry (R31). -/
def execSysErrPop (m : Nat) (s : State) : Out :=
  withRead 0 0x30 .none m (fun s =>
    let e := s.sys.log.headD LogEntry.none
    let s := { s with sys := { s.sys with log := s.sys.log.tail, latch := tput LogEntry.none s.sys.latch m e } }
    (s.sf (rg 0 0x38) 4 0 s.sys.log.length).reply m [e.lo] false) s

/-! ### General opcodes (R84) -/

/-- The general opcodes: NOP, FENCE and ECHO need the issuing ring's mask bit in CMD's table; GET_VARIANT needs
CMD_BASIC on SYS (R15). -/
def opsGeneral : List OpSpec :=
  [{ opcode := 0, lenLo := 0, lenHi := 0, classHi := 0, block := 1, mask := fun c => .bit c.ring },
   { opcode := 1, lenLo := 0, lenHi := 0, classHi := 0, block := 1, mask := fun c => .bit c.ring },
   { opcode := 2, lenLo := 0, lenHi := 65535, classHi := 0, block := 1, mask := fun c => .bit c.ring, buf := .input },
   { opcode := 3, lenLo := 0, lenHi := 0, classHi := 0, block := 0, mask := fun _ => .none }]

/-- The entry of an opcode in a family's list; a family's list holds every opcode its rows name. -/
def specOf (l : List OpSpec) (op : Nat) : OpSpec :=
  (l.find? (fun x => x.opcode == op)).getD
    { opcode := op, lenLo := 0, lenHi := 0, classHi := 0, block := 0, mask := fun _ => .full }

/-- NOP does nothing. -/
def effNop : CmdEff := fun _ s => .done s

/-- ECHO returns the first 224 bytes at most, and the CRC-32C of all of them. -/
def effEcho : CmdEff := fun c s => .ok s (c.payload.take 224) (crc32c c.payload).toNat

/-- GET_VARIANT returns SYS.VARIANT_ID (R15). -/
def effGetVariant : CmdEff := fun _ s => .res s (leBytes 4 (s.rd 0x40000004).toNat)

def execNop (ring slot : Nat) (s : State) : Out := opRow (specOf opsGeneral 0) effNop ring slot s

/-- FENCE completes as R44 gives (startable); until then the row changes nothing. -/
def execFence (ring slot : Nat) (s : State) : Out := opRow (specOf opsGeneral 1) effNop ring slot s

def execEcho (ring slot : Nat) (s : State) : Out := opRow (specOf opsGeneral 2) effEcho ring slot s

def execGetVariant (ring slot : Nat) (s : State) : Out := opRow (specOf opsGeneral 3) effGetVariant ring slot s

end Sys2Proof.Machine
end

