-- ==== Sys2Proof/Machine/Acl.lean ====
section
/-! DEFINITION. The access tables and windows: register window, locks and opcodes (R85–R93, R588, R591). -/

namespace Sys2Proof.Machine

/-- Whether table `b` (0–18), or the windows (19), is locked. -/
def aclLocked (s : State) (b : Nat) : Bool := s.bit (rg 2 0) b

/-- The table in which ACL_ADMIN is needed for target `b`: SYS for the windows (R90). -/
def adminTable (b : Nat) : Nat := if b = 19 then 0 else b

/-- Whether a master holds ACL_ADMIN for target `b`. -/
def isAdmin (s : State) (m b : Nat) : Bool := bitOf (s.aclEntry (adminTable b) m).rights 4

/-- Whether a master may write target `b` through the register window (R90). -/
def aclMayWrite (s : State) (m b : Nat) : Bool := (s.aclEntry 2 m).allows 1 (.bit b) && isAdmin s m b

/-- The state with an entry replaced. -/
def State.setEntry (s : State) (b m : Nat) (e : AclEntry) : State :=
  { s with acl := { s.acl with entries := tput AclEntry.zero s.acl.entries (b * 128 + m) e } }

/-- The state with a window replaced. -/
def State.setWindow (s : State) (m w : Nat) (x : Window) : State :=
  { s with acl := { s.acl with windows := tput Window.none s.acl.windows (m * 8 + w) x } }

/-- Word `i` of an entry written; none where reserved bits are set (R21). -/
def entryWrite (e : AclEntry) (i : Nat) (v : Word) : Option AclEntry :=
  match i with
  | 0 => if fld v 31 5 = 0 then some { e with rights := v } else none
  | 1 => some { e with mask := BitVec.ofNat 64 (e.mask.toNat / 2 ^ 32 * 2 ^ 32 + v.toNat) }
  | 2 => some { e with mask := BitVec.ofNat 64 (v.toNat * 2 ^ 32 + e.mask.toNat % 2 ^ 32) }
  | _ => if v = 0 then some e else none

/-- Word `i` of a window written; none where reserved bits are set or the window would run past the map. -/
def windowWrite (x : Window) (i : Nat) (v : Word) : Option Window :=
  let fits := fun (y : Window) => if y.base.toNat + y.size.toNat * 4096 ≤ 2 ^ 40 then some y else none
  match i with
  | 0 => if fld v 11 0 = 0 then fits { x with base := BitVec.ofNat 40 (x.base.toNat / 2 ^ 32 * 2 ^ 32 + v.toNat) }
         else none
  | 1 => if fld v 31 8 = 0 then fits { x with base := BitVec.ofNat 40 (v.toNat * 2 ^ 32 + x.base.toNat % 2 ^ 32) }
         else none
  | 2 => if fld v 31 28 = 0 then fits { x with size := BitVec.ofNat 28 v.toNat } else none
  | _ => if fld v 31 2 = 0 then some { x with read := bitOf v 0, write := bitOf v 1 } else none

/-- The write of word `i` of the entry of master `t` in table `b` (R88, R90, R91). -/
def aclEntryWrite (m b t i : Nat) (v : Word) (s : State) : Ans :=
  if !aclMayWrite s m b || t == 0 || t == 1 || aclLocked s b then .ok (s.drop m)
  else match entryWrite (s.aclEntry b t) i v with
    | some e => .ok (s.setEntry b t e)
    | none => unpredictable 2

/-- The write of word `i` of window `w` of master `t` (R90, R91). -/
def aclWinWrite (m t w i : Nat) (v : Word) (s : State) : Ans :=
  if !aclMayWrite s m 19 || aclLocked s 19 then .ok (s.drop m)
  else match windowWrite (s.window t w) i v with
    | some x => .ok (s.setWindow t w x)
    | none => unpredictable 2

/-- A write in the ACL register window, at block offset `off` (R90): dropped without the rights, on a fixed entry or
on a locked target; an offset outside both areas has no effect (R32). -/
def aclWindowAct (m off : Nat) (v : Word) (s : State) : Ans :=
  if 0x10000 ≤ off ∧ off < 0x10000 + 19 * 0x800 then
    let o := off - 0x10000
    if off % 4 ≠ 0 then (if aclMayWrite s m (o / 0x800) then unpredictable 2 else .ok (s.drop m))
    else aclEntryWrite m (o / 0x800) (o % 0x800 / 0x10) (o % 0x10 / 4) v s
  else if 0x20000 ≤ off ∧ off < 0x20000 + 128 * 0x80 then
    let o := off - 0x20000
    if off % 4 ≠ 0 then (if aclMayWrite s m 19 then unpredictable 2 else .ok (s.drop m))
    else aclWinWrite m (o / 0x80) (o % 0x80 / 0x10) (o % 0x10 / 4) v s
  else .ok s

/-- A write of an ACL register on the fabric: out of reach it is refused (R31). -/
def aclAct (m off : Nat) (f : State → Ans) (s : State) : Out :=
  fabricAct m (rg 2 off) (fun s => if !reachesRegs s m then s.refuse m (rg 2 off) true else settle m s (f s)) s

def execAclWindowWrite (m off : Nat) (v : Word) (s : State) : Out := aclAct m off (aclWindowAct m off v) s

/-- A write of ACL.LOCK, judged bit by bit (R591). A reserved bit is unpredictable for a writer with WRITE. -/
def aclLockAct (m : Nat) (v : Word) (s : State) : Ans :=
  if fld v 31 20 ≠ 0 ∧ (s.aclEntry 2 m).allows 1 .none = true then unpredictable 2
  else
    let asked := bitsOf v.toNat 20
    let s' := (asked.filter (aclMayWrite s m)).foldl (fun t b => t.sb (rg 2 0) b true) s
    .ok (if asked.all (aclMayWrite s m) then s' else s'.drop m)

def execAclLockWrite (m : Nat) (v : Word) (s : State) : Out := aclAct m 0 (aclLockAct m v) s

/-! ### Opcodes (R92, R588) -/

/-- The ACL opcodes: mask bit and instance are the target, 0–18 or 19. -/
def opsAcl : List OpSpec :=
  [{ opcode := 0x0200, lenLo := 16, lenHi := 16, instHi := 18, classHi := 19, block := 2, mask := fun c => .bit c.inst },
   { opcode := 0x0201, lenLo := 4, lenHi := 4, instHi := 18, classHi := 19, block := 2, mask := fun c => .bit c.inst },
   { opcode := 0x0202, lenLo := 0, lenHi := 0, instHi := 19, classHi := 19, block := 2, mask := fun c => .bit c.inst },
   { opcode := 0x0203, lenLo := 20, lenHi := 20, instLo := 19, instHi := 19, classHi := 19, block := 2,
     mask := fun c => .bit c.inst },
   { opcode := 0x0204, lenLo := 4, lenHi := 4, instLo := 19, instHi := 19, classHi := 19, block := 2,
     mask := fun c => .bit c.inst }]

/-- The checks common to the ACL opcodes: ACL_ADMIN as R90 gives it, then the lock where `locks`, then the master
ID and the reserved bytes after it. The lock is judged before the parameters (log entry 54), and TABLE_LOCKED of the
windows gives target 19 (log entry 52). -/
def aclCheck (locks : Bool) (c : Cmd) (s : State) (k : CmdOut) : CmdOut :=
  if !isAdmin s c.issuer c.inst then .fail stDenied 0x10 noOffset (adminTable c.inst * 256 + 4)
  else if locks && aclLocked s c.inst then .fail stDenied 0x13 noOffset c.inst
  else if c.p 32 1 > 0x7F then badParam 0x100 32 (c.p 32 1)
  else k

def effAclSetEntry : CmdEff := fun c s =>
  aclCheck true c s <|
    if !c.zero 33 3 then reservedField c 33
    else if c.p 32 1 ≤ 1 then badParam 0x102 32 (c.p 32 1)
    else if fld (c.w 36) 31 5 ≠ 0 then reservedField c 36
    else .done (s.setEntry c.inst (c.p 32 1) { rights := c.w 36, mask := BitVec.ofNat 64 (c.p 40 8) })

def effAclGetEntry : CmdEff := fun c s =>
  aclCheck false c s <|
    if !c.zero 33 3 then reservedField c 33
    else
      let e := s.aclEntry c.inst (c.p 32 1)
      .res s (leBytes 4 e.rights.toNat ++ leBytes 8 e.mask.toNat)

def effAclLock : CmdEff := fun c s =>
  if !isAdmin s c.issuer c.inst then .fail stDenied 0x10 noOffset (adminTable c.inst * 256 + 4)
  else .done (s.sb (rg 2 0) c.inst true)

/-- ACL_SET_WINDOW; a window that runs past the map gives the offset of SIZE (log entry 54). -/
def effAclSetWindow : CmdEff := fun c s =>
  aclCheck true c s <|
    let base := c.p 36 8
    let size := c.p 44 4
    let attr := c.p 48 4
    if c.p 33 1 > 7 then badParam 0x101 33 (c.p 33 1)
    else if !c.zero 34 2 then reservedField c 34
    else if base % 4096 ≠ 0 ∨ base ≥ 2 ^ 40 then badParam 0x103 36 0
    else if size ≥ 2 ^ 28 ∨ base + size * 4096 > 2 ^ 40 then badParam 0x103 44 0
    else if attr ≥ 4 then badParam 0x103 48 0
    else .done (s.setWindow (c.p 32 1) (c.p 33 1)
      { base := BitVec.ofNat 40 base, size := BitVec.ofNat 28 size, read := attr.testBit 0, write := attr.testBit 1 })

def effAclGetWindow : CmdEff := fun c s =>
  aclCheck false c s <|
    if c.p 33 1 > 7 then badParam 0x101 33 (c.p 33 1)
    else if !c.zero 34 2 then reservedField c 34
    else
      let x := s.window (c.p 32 1) (c.p 33 1)
      .res s (leBytes 8 x.base.toNat ++ leBytes 4 x.size.toNat ++ leBytes 4 (b2n x.read + 2 * b2n x.write))

def execAclSetEntry (ring slot : Nat) (s : State) : Out := opRow (specOf opsAcl 0x0200) effAclSetEntry ring slot s

def execAclGetEntry (ring slot : Nat) (s : State) : Out := opRow (specOf opsAcl 0x0201) effAclGetEntry ring slot s

def execAclLock (ring slot : Nat) (s : State) : Out := opRow (specOf opsAcl 0x0202) effAclLock ring slot s

def execAclSetWindow (ring slot : Nat) (s : State) : Out := opRow (specOf opsAcl 0x0203) effAclSetWindow ring slot s

def execAclGetWindow (ring slot : Nat) (s : State) : Out := opRow (specOf opsAcl 0x0204) effAclGetWindow ring slot s

end Sys2Proof.Machine
end

