-- ==== Sys2Proof/Machine/QryOps.lean ====
section
/-! DEFINITION. The operations of Quarry's pools and of the sprue FIFOs (R365–R382). -/

namespace Sys2Proof.Machine

def State.withQry (s : State) (f : QryState → QryState) : State := { s with qry := f s.qry }

/-! ### Pools (R365, R366) -/

/-- Block bytes of a pool. -/
def poolSize (p : Nat) : Nat := [64, 128, 256, 512, 1024, 2176, 4096, 9216].getD p 9216

def poolReg (p off : Nat) : Nat := rg 11 (0x100 + p * 0x10 + off)
def poolBase (s : State) (p : Nat) : Nat := s.f (poolReg p 4) 7 0 * 2 ^ 32 + s.f (poolReg p 0) 31 6 * 64
def poolCount (s : State) (p : Nat) : Nat := s.f (poolReg p 8) 16 0
def poolEn (s : State) (p : Nat) : Bool := s.bit (poolReg p 8) 24
def poolZero (s : State) (p : Nat) : Bool := s.bit (poolReg p 8) 25

def pool (s : State) (p : Nat) : Pool := tget Pool.zero s.qry.pools p

/-- FREE blocks of a pool. -/
def poolFree (s : State) (p : Nat) : Nat :=
  if poolEn s p then poolCount s p - (pool s p).mark + (pool s p).freed.length else 0

/-- Blocks ALLOCATED or in scrub. -/
def poolBusy (s : State) (p : Nat) : Nat := (pool s p).held.length + (pool s p).scrub.length

def setPool (p : Nat) (x : Pool) (s : State) : State :=
  let s := s.withQry (fun q => { q with pools := tput Pool.zero q.pools p x })
  s.sf (poolReg p 0xC) 16 0 (poolFree s p)

/-- A byte range lies in system SRAM, or in DRAM. -/
def inRam (a n : Nat) : Bool :=
  (decide (0x10000000 ≤ a) && decide (a + n ≤ 0x10800000)) || (decide (0x80000000 ≤ a) && decide (a + n ≤ 0x180000000))

/-- Whether the union of master `m`'s windows covers a range for a kind of access: judged at each window's edges. -/
def covers (s : State) (m a n : Nat) (wr : Bool) : Nat → Bool
  | 0 => n == 0
  | fuel + 1 =>
    if n = 0 then true
    else match ((List.range 8).map (s.window m)).find? (fun w => w.grants a wr) with
      | none => false
      | some w =>
        let k := min n (w.base.toNat + w.size.toNat * 4096 - a)
        covers s m (a + k) (n - k) wr fuel

/-- The placement rules of R365 for an enable. -/
def placeOk (s : State) (p base count : Nat) (zero : Bool) : Bool :=
  let n := count * poolSize p
  let apart := fun q => q == p || !poolEn s q || decide (base + n ≤ poolBase s q) ||
    decide (poolBase s q + poolCount s q * poolSize q ≤ base)
  base % 64 == 0 && inRam base n && (List.range 8).all apart && (!zero || covers s 0x28 base n true 8)

/-! ### Requesters (R368–R372) -/

def reqReg (r off : Nat) : Nat := rg 11 (0x1000 + r * 0x80 + off)
def quota (s : State) (r p : Nat) : Nat := s.f (reqReg r (4 * p)) 16 0
def used (s : State) (r p : Nat) : Nat := s.f (reqReg r (0x20 + 4 * p)) 16 0
def setUsed (r p n : Nat) (s : State) : State := s.sf (reqReg r (0x20 + 4 * p)) 16 0 n

/-- A refused allocation: counted, with its event. -/
def allocRefused (off : Nat) (s : State) : State := (s.cnt (rg 11 off) 1).raise 11 1

/-- An allocation of `size` bytes for requester `r` (R369): address and pool, or status, code and value. -/
def allocate (r size : Nat) (s : State) : (Nat × Nat) ⊕ (Nat × Nat × Nat) × State :=
  if size = 0 then .inr ((stBadParam, 0x102, 0), s)
  else if 9216 < size then .inr ((stNoFit, 0x103, size), allocRefused 0x90 s)
  else
    let p0 := ((List.range 8).find? (fun p => decide (size ≤ poolSize p))).getD 7
    let pools := (List.range 8).filter (fun p => decide (p0 ≤ p))
    let hasFree := fun p => poolEn s p && decide (0 < poolFree s p)
    match pools.find? (fun p => hasFree p && decide (used s r p < quota s r p)) with
    | some p => .inl (p0, p)
    | none =>
      match pools.find? hasFree with
      | some p => .inr ((stQuota, 0x105, p), allocRefused 0x8C s)
      | none => .inr ((stNoFit, 0x104, p0), allocRefused 0x90 s)

/-- Take the free block of pool `p` that was freed longest ago; those free since the enable come first, in order. -/
def takeBlock (r p0 p : Nat) (s : State) : Nat × State :=
  let x := pool s p
  let grant := fun (k : Nat) (y : Pool) =>
    let s := setPool p { y with held := y.held ++ [(k, r)] } s
    let s := (setUsed r p (used s r p + 1) s).cnt (rg 11 0x80) 1
    (poolBase s p + k * poolSize p, if p0 < p then s.cnt (rg 11 0x88) 1 else s)
  if x.mark < poolCount s p then grant x.mark { x with mark := x.mark + 1 }
  else match x.freed with
    | k :: rest => grant k { x with freed := rest }
    | [] => (0, s)

/-- An allocation made: address and pool, or the refusal. -/
def alloc (r size : Nat) (s : State) : ((Nat × Nat) ⊕ (Nat × Nat × Nat)) × State :=
  match allocate r size s with
  | .inl x =>
    let t := takeBlock r x.1 x.2 s
    (.inl (t.1, x.2), t.2)
  | .inr x => (.inr x.1, x.2)

/-- The pool and block that start at an address. -/
def blockAt (s : State) (a : Nat) : Option (Nat × Nat) :=
  (List.range 8).findSome? (fun p =>
    if poolEn s p && decide (poolBase s p ≤ a) && decide (a < poolBase s p + poolCount s p * poolSize p) &&
        (a - poolBase s p) % poolSize p == 0 then some (p, (a - poolBase s p) / poolSize p) else none)

/-- A failed free (R372): logged, counted under its kind, and raised. -/
def freeFail (r a kind : Nat) (s : State) : State :=
  let e : LogEntry := { lo := BitVec.ofNat 32 a, info := 0,
                        hi := BitVec.ofNat 32 (a / 2 ^ 32 % 256 + r * 256 + kind * 2 ^ 13 + 2 ^ 15) }
  let p := logPush 8 (rg 11 0x48) s.qry.log e s
  let s := p.2.withQry (fun q => { q with log := p.1 })
  (s.cnt (rg 11 (0x90 + 4 * kind)) 1).raise 11 0

/-- Free address `a` for requester `r` (R372): the error kind and DETAIL.VALUE where it fails. -/
def free (r a : Nat) (s : State) : Option (Nat × Nat) × State :=
  match blockAt s a with
  | none => (some (1, a % 2 ^ 32), freeFail r a 1 s)
  | some (p, k) =>
    let x := pool s p
    match x.held.find? (fun e => e.1 == k) with
    | none => (some (2, p * 65536 + k), freeFail r a 2 s)
    | some (_, o) =>
      if o ≠ r then (some (3, o), freeFail r a 3 s)
      else
        let y := { x with held := x.held.filter (fun e => e.1 != k) }
        let y := if poolZero s p then { y with scrub := y.scrub ++ [k] } else { y with freed := y.freed ++ [k] }
        (none, (setUsed r p (used s r p - 1) (setPool p y s)).cnt (rg 11 0x84) 1)

/-! ### Sprue FIFOs (R374–R382) -/

def sprReg (n off : Nat) : Nat := rg 11 (0x4000 + n * 0x40 + off)
def fifo (s : State) (n : Nat) : Fifo := tget Fifo.zero s.qry.fifos n

/-- A last word of a packet, or a word between packets. -/
def SWord.ends (w : SWord) : Bool := w.tag != 0

/-- Words of the open packet still in the FIFO: those behind the last word that ends a packet. -/
def openWords (l : List (Option SWord)) : Nat := ((l.reverse.filterMap id).takeWhile (fun w => !w.ends)).length

/-- STATUS shows the FIFO. -/
def setFifo (n : Nat) (x : Fifo) (s : State) : State :=
  let s := s.withQry (fun q => { q with fifos := tput Fifo.zero q.fifos n x })
  s.wr (sprReg n 4) (BitVec.ofNat 32 ((x.stages.filter Option.isSome).length + 32 * b2n (decide (0 < x.written)) +
    64 * b2n x.dropping))

/-- The rest of a packet is discarded as it reaches stage 0 (R378, R380). -/
def Fifo.discards (x : Fifo) : Bool := x.dropping || x.failing

/-- One cycle: every word above the lowest empty stage moves down (R376); a word of a packet being discarded goes as it
stands in stage 0. -/
def Fifo.cycle (x : Fifo) : Fifo :=
  let l := match x.stages.findIdx? Option.isNone with
    | some j => x.stages.eraseIdx j ++ [none]
    | none => x.stages
  match l with
  | some w :: r =>
    if x.discards then
      { x with stages := none :: r, dropping := x.dropping && !w.ends, failing := x.failing && !w.ends, mid := x.mid && !w.ends }
    else { x with stages := l }
  | _ => { x with stages := l }

/-- The words of the open packet leave: all of them where none was taken, or with a POISON in stage 0 in their place
(R379), which a rest being discarded takes with it. -/
def Fifo.close (x : Fifo) : Fifo :=
  let left := openWords x.stages
  if left < x.written then
    if x.discards then
      { x with stages := List.replicate 16 none, written := 0, mid := false, dropping := false, failing := false }
    else { x with stages := some (.mk' 0 3) :: List.replicate 15 none, written := 0 }
  else
    let kept := (x.stages.filterMap id).length - left
    let trim := fun (acc : List (Option SWord) × Nat) (o : Option SWord) =>
      match o with
      | some w => if acc.2 = 0 then (acc.1 ++ [none], 0) else (acc.1 ++ [some w], acc.2 - 1)
      | none => (acc.1 ++ [none], acc.2)
    { x with stages := (x.stages.foldl trim ([], kept)).1, written := 0 }

/-- Stage 15 takes a word in this cycle: it is empty, or its word moves on (R376; log entry 39). -/
def Fifo.room (x : Fifo) : Bool := x.stages.any Option.isNone

/-- A word enters stage 15 after the cycle's movement. -/
def Fifo.enter (x : Fifo) (w : SWord) : Fifo :=
  let y := x.cycle
  { y with stages := y.stages.take 15 ++ [some w], written := if w.ends then 0 else y.written + 1 }

/-- The GAP word for `n` discarded packets (R377). -/
def gapWord (n : Nat) : SWord := .mk' (min 0xFFFFFFFF n) 2

/-- A software push (R381): the FIFO after it, and whether it overflowed. -/
def Fifo.push (x : Fifo) (w : SWord) : Fifo × Bool :=
  if x.losing then ({ x.cycle with losing := !w.ends }, false)
  else
    let x := if x.written = 0 ∧ 0 < x.gaps ∧ x.room = true then { (x.enter (gapWord x.gaps)) with gaps := 0 } else x
    if x.room && (x.gaps == 0 || decide (0 < x.written)) then (x.enter w, false)
    else ({ x.close.cycle with losing := !w.ends, gaps := x.gaps + 1 }, true)

/-- The consumer takes the word in stage 0, with wrong parity where `bad` says so or its parity bit is wrong: the FIFO
after it, the tag delivered and whether the parity failed (R378). -/
def Fifo.take (x : Fifo) (bad : Bool) (w : SWord) (r : List (Option SWord)) : Fifo × Nat × Bool :=
  let f := bad || w.fails
  let more := !w.ends
  ({ x with stages := none :: r, mid := more && !f, failing := more && f }, if f then 3 else w.tag, f)

/-- A parity failure is counted and raised (R378). -/
def sprParity (n : Nat) (f : Bool) (s : State) : State := if f then (s.cnt (sprReg n 0x24) 1).raise 11 2 else s

/-! ### Hardware FIFOs (R319, R334, R377, R601) -/

/-- Words the producer of FIFO `n` holds and has not written. -/
def hwHeld (s : State) (n : Nat) : List (List SWord) := tget [] s.qry.hw n

def setHw (n : Nat) (l : List (List SWord)) (s : State) : State :=
  s.withQry (fun q => { q with hw := tput [] q.hw n l })

/-- The packets GWY has taken whole from FIFO `n` and not acted on. -/
def gwyInbox (s : State) (n : Nat) : List (List SWord) := tget [] s.gwy.inbox n

def setInbox (n : Nat) (l : List (List SWord)) (s : State) : State :=
  { s with gwy := { s.gwy with inbox := tput [] s.gwy.inbox n l } }

/-- GWY takes a word of FIFO `n`: it starts a packet at its first word and has it whole at its last (R334). The rest of
a packet that a reset of GWY cut short is dropped (log entry 62). -/
def gwyWord (n : Nat) (w : SWord) (s : State) : State :=
  let g := s.gwy
  if g.skip.contains n then
    { s with gwy := { g with skip := if w.ends then g.skip.filter (· != n) else g.skip } }
  else
    let p := tget [] g.taking n ++ [w]
    if w.ends then setInbox n (gwyInbox s n ++ [p]) { s with gwy := { g with taking := terase g.taking n } }
    else { s with gwy := { g with taking := tput [] g.taking n p } }

/-- The next word the producer writes, and what it then holds. -/
def nextWord : List (List SWord) → Option (SWord × List (List SWord))
  | (w :: []) :: r => some (w, r)
  | (w :: p) :: r => some (w, p :: r)
  | _ => none

/-- GWY takes the word in stage 0 of FIFO `n` (R601). -/
def hwTake (n : Nat) (s : State) : State :=
  let x := fifo s n
  match x.stages with
  | some w :: r =>
    let t := x.take false w r
    gwyWord n { w with tag := t.2.1 } (sprParity n t.2.2 (setFifo n t.1 s))
  | _ => s

/-- One cycle of hardware FIFO `n`: GWY takes the word in stage 0 while it runs, every word moves on, and the producer
writes its next word where stage 15 takes one (R376, R601). -/
def hwCycle (n : Nat) (s : State) : State :=
  let s := if s.gwy.stopped then s else hwTake n s
  let x := fifo s n
  match (if x.room then nextWord (hwHeld s n) else none) with
  | some (w, l) => setHw n l (setFifo n (x.enter w) s)
  | none => setFifo n x.cycle s

/-- Words on their way through hardware FIFO `n`. -/
def hwWords (s : State) (n : Nat) : Nat :=
  ((fifo s n).stages.filter Option.isSome).length + ((hwHeld s n).map List.length).sum

/-- Cycles pass until every word on its way has reached GWY: a word entered needs 16 of them. -/
def hwRun (n : Nat) : Nat → State → State
  | 0, s => s
  | fuel + 1, s => if hwWords s n = 0 then s else hwRun n fuel (hwCycle n s)

/-- While GWY runs, what has been written to FIFO `n` reaches it in time (R601); a row that needs it says that the time
has passed (log entry 7). -/
def hwDrain (n : Nat) (s : State) : State := if s.gwy.stopped then s else hwRun n (hwWords s n + 16) s

/-- The words of a record, the last with the END tag. -/
def recordWords : List Nat → List SWord
  | [] => []
  | [d] => [.mk' d 1]
  | d :: r => .mk' d 0 :: recordWords r

/-- Records a producer holds, wholly or in part unwritten. -/
def hwFrames (s : State) (n : Nat) : Nat := ((hwHeld s n).filter (fun p => p.all (fun w => w.tag != 2))).length

/-- A record goes to the producer of FIFO `n`, behind a GAP marker where packets were discarded before it. -/
def hwQueue (n : Nat) (r : List Nat) (s : State) : State :=
  let x := fifo s n
  let gap := if x.gaps = 0 then [] else [[gapWord x.gaps]]
  setHw n (hwHeld s n ++ gap ++ [recordWords r]) (if x.gaps = 0 then s else setFifo n { x with gaps := 0 } s)

/-- Every sprue FIFO that holds or awaits a word moves one cycle. -/
def sprueCycle (s : State) : State :=
  let busy := fun (n : Nat) => !(tget [] s.qry.hw n).isEmpty
  let s := ((List.range 25).filter (fun n => busy n || s.qry.fifos.any (fun e => e.1 == n))).foldl (fun s n => hwCycle n s) s
  (s.qry.fifos.filter (fun e => decide (25 ≤ e.1))).foldl (fun s e => setFifo e.1 e.2.cycle s) s

/-- One tick: two cycles. GWY takes words again at the tick after its reset. -/
def sprueTick (s : State) : State :=
  let s := sprueCycle (sprueCycle s)
  { s with gwy := { s.gwy with stopped := false } }

/-- FIFO `n` without the words of a half-written record, at a reset of its producer: GWY drops what it has taken of it
(log entry 62). -/
def hwCut (n : Nat) (s : State) : State :=
  let x := fifo s n
  let kept := if x.written = 0 then x.stages
    else (x.stages.reverse.dropWhile (fun o => match o with | some w => !w.ends | none => true)).reverse
  let y := { x with stages := kept ++ List.replicate (16 - kept.length) none, written := 0, gaps := 0 }
  let g := if openWords x.stages < x.written then
      { s.gwy with taking := terase s.gwy.taking n, skip := s.gwy.skip.filter (· != n) } else s.gwy
  setHw n [] (setFifo n y { s with gwy := g })

/-- A reset of QRY empties every FIFO: the rest of a half-written or half-taken record goes too (log entry 62). -/
def qryCut (s : State) : State :=
  let s := (List.range 25).foldl (fun s n => if (fifo s n).written = 0 then s else setHw n (hwHeld s n).tail s) s
  { s with gwy := { s.gwy with taking := [], skip := [] } }

/-- A reset of GWY: it drops the rest of every packet it has begun, and takes no word until the next tick. -/
def gwyCut (s : State) : State :=
  { s with gwy := { s.gwy with inbox := [], taking := [], skip := (List.range 25).filter (fun n => (fifo s n).mid),
                               stopped := true } }

end Sys2Proof.Machine
end

