-- ==== Sys2Proof/Machine/ClnOps.lean ====
section
/-! DEFINITION. The operations of the CAN and LIN channels: timing, buffers, error confinement, channel states, LIN
slots (R301–R328). Counter steps that the manual takes from ISO 11898-1, and LIN checksums from ISO 17987, are
PRESUMED (log entry 20). -/

namespace Sys2Proof.Machine

def State.withCln (s : State) (f : ClnState → ClnState) : State := { s with cln := f s.cln }

def canReg (ch off : Nat) : Nat := rg 9 (0x1000 + ch * 0x100 + off)
def linReg (m off : Nat) : Nat := rg 9 (0x3000 + m * 0x100 + off)
def canCount (ch off : Nat) (s : State) : State := s.cnt (canReg ch off) 1
def linCount (m off : Nat) (s : State) : State := s.cnt (linReg m off) 1

/-- CLN raises an event for an instance. -/
def clnEvent (inst i : Nat) (s : State) : State := (s.sb (rg 9 0x18) inst true).raise 9 i

def busSend (x : BusSent) (s : State) : State := s.withCln (fun c => { c with sent := c.sent ++ [x] })

/-! ### Bit timing (R302–R306) -/

/-- Cycles per bit of a timing word. -/
def nbtFigure (v : Word) : Nat := fld v 7 0 * (1 + fld v 15 8 + fld v 22 16)
def dataFigure (v : Word) : Nat := fld v 7 0 * (1 + fld v 12 8 + fld v 19 16)

def brpOk (v : Word) : Bool := decide (1 ≤ fld v 7 0) && decide (fld v 7 0 ≤ 32)

def nbtOk (v : Word) : Bool :=
  brpOk v && decide (1 ≤ fld v 15 8) && decide (1 ≤ fld v 22 16) && decide (1 ≤ fld v 30 24) &&
  decide (fld v 30 24 ≤ fld v 22 16) && decide (80 ≤ nbtFigure v) && decide (nbtFigure v ≤ 640)

/-- What both data timings need: segments, the lowest figure, and no more than the nominal one; without delay
compensation at least 40 cycles. -/
def dataOk (v nbt tdc : Word) (low : Nat) : Bool :=
  brpOk v && decide (1 ≤ fld v 12 8) && decide (1 ≤ fld v 19 16) && decide (low ≤ dataFigure v) &&
  decide (dataFigure v ≤ nbtFigure nbt) && (bitOf tdc 8 || decide (40 ≤ dataFigure v))

def dbtOk (v nbt tdc : Word) : Bool :=
  dataOk v nbt tdc 10 && decide (1 ≤ fld v 27 24) && decide (fld v 27 24 ≤ fld v 19 16)

def xbtOk (v nbt tdc : Word) : Bool :=
  dataOk v nbt tdc 4 && decide (fld v 25 20 + fld v 31 26 = 1 + fld v 12 8 + fld v 19 16) && decide (1 ≤ fld v 25 20)

/-- The first timing fault of a configuration: detail code, payload word (0 NBT, 1 DBT, 2 XBT) and DETAIL.VALUE. -/
def timingFault (nbt dbt xbt tdc : Word) : Option (Nat × Nat × Nat) :=
  if !nbtOk nbt then some (0x100, 0, 0)
  else if bitOf nbt 23 && (decide (nbtFigure nbt < 160) || decide (fld nbt 15 8 < 2)) then
    some (0x101, 0, nbtFigure nbt)
  else if !dbtOk dbt nbt tdc then some (0x100, 1, 1)
  else if !xbtOk xbt nbt tdc then some (0x100, 2, 2)
  else none

/-- Whether the timing in a channel's registers is valid. -/
def timingValid (s : State) (ch : Nat) : Bool :=
  (timingFault (s.rd (canReg ch 4)) (s.rd (canReg ch 8)) (s.rd (canReg ch 0xC)) (s.rd (canReg ch 0x10))).isNone

/-- Reserved bits of the timing words. -/
def nbtReserved (v : Word) : Bool := bitOf v 31
def dbtReserved (v : Word) : Bool := v &&& 0xF0F0E000#32 != 0
def xbtReserved (v : Word) : Bool := v &&& 0x0000E000#32 != 0
def tdcReserved (v : Word) : Bool := v &&& 0xFFFFFE80#32 != 0

/-- Lengths of a format (R305). -/
def canLenOk (fmt n : Nat) : Bool :=
  match fmt with
  | 0 => decide (n ≤ 8)
  | 1 | 2 => decide (n ≤ 8) || [12, 16, 20, 24, 32, 48, 64].contains n
  | 3 => decide (1 ≤ n) && decide (n ≤ 2048)
  | _ => false

/-- Whether a channel has a format enabled. -/
def fmtOn (s : State) (ch fmt : Nat) : Bool :=
  fmt == 0 || ((fmt == 1 || fmt == 2) && s.bit (canReg ch 0) 5) || (fmt == 3 && s.bit (canReg ch 0) 6)

/-! ### Channel states and error confinement (R307, R308) -/

/-- 0 OFF, 1 INTEGRATING, 2 RUN, 3 BUS_OFF, 4 RECOVERING. -/
def canState (s : State) (ch : Nat) : Nat := s.f (canReg ch 0x14) 2 0
def canMode (s : State) (ch : Nat) : Nat := s.f (canReg ch 0) 1 0
def setCanState (ch v : Nat) (s : State) : State := s.sf (canReg ch 0x14) 2 0 v

def tec (s : State) (ch : Nat) : Nat := tget 0 s.cln.tec ch
def recv (s : State) (ch : Nat) : Nat := tget 0 s.cln.recv ch

/-- Set the error counters: STATUS shows them, and ERR_WARN and ERR_PASSIVE are raised as they are reached. -/
def setErr (ch t r : Nat) (s : State) : State :=
  let warn := (decide (tec s ch < 96) && decide (96 ≤ t)) || (decide (recv s ch < 96) && decide (96 ≤ r))
  let was := decide (127 < tec s ch) || decide (127 < recv s ch)
  let now := decide (127 < t) || decide (127 < r)
  let s := s.withCln (fun c => { c with tec := tput 0 c.tec ch t, recv := tput 0 c.recv ch r })
  let s := ((s.sb (canReg ch 0x14) 3 now).sf (canReg ch 0x14) 11 4 (min 255 t)).sf (canReg ch 0x14) 19 12 (min 255 r)
  let s := if warn then clnEvent ch 3 s else s
  if now && !was then clnEvent ch 2 s else s

/-- A frame of another node is in progress. -/
def canBusy (s : State) (ch : Nat) : Bool := tget false s.cln.busy ch
def setBusy (ch : Nat) (v : Bool) (s : State) : State :=
  s.withCln (fun c => { c with busy := tput false c.busy ch v })

/-- Enter OFF or INTEGRATING (R308). -/
def canGo (ch v : Nat) (s : State) : State :=
  let s := setCanState ch v (s.withCln (fun c => { c with modeNext := terase c.modeNext ch }))
  if v = 1 then setErr ch 0 0 s else s

/-! ### Transmit buffers (R310–R316) -/

def buf (s : State) (ch i : Nat) : TxBuf := tget TxBuf.zero s.cln.bufs (ch * 64 + i)
def setBuf (ch i : Nat) (b : TxBuf) (s : State) : State :=
  s.withCln (fun c => { c with bufs := tput TxBuf.zero c.bufs (ch * 64 + i) b })

/-- Buffers EMPTY, DONE, ABANDONED and ABORTED can be loaded. -/
def TxBuf.loadable (b : TxBuf) : Bool := b.st == 0 || decide (4 ≤ b.st)

/-- First gateway buffer of a channel. -/
def gwFirst (s : State) (ch : Nat) : Nat := 64 - s.f (canReg ch 0) 14 8

/-- A length's share of the transmit store. -/
def storeShare (n : Nat) : Nat := (n + 63) / 64 * 64

/-- Free transmit store of a channel as buffer `i` is loaded. -/
def storeFree (s : State) (ch i : Nat) : Nat :=
  16384 - (((List.range 64).filter (· != i)).map (fun j => storeShare (buf s ch j).frame.data.length)).sum

/-- The buffer whose frame is on the bus. -/
def onBus (s : State) (ch : Nat) : Option Nat := firstBelow (fun i => (buf s ch i).st == 3) 64

/-- The arbitration field as a number: the lowest wins. -/
def Can.arb (f : Can) : Nat :=
  if f.ide then ((f.id / 2 ^ 18 * 2 + 1) * 2 + 1) * 2 ^ 19 + f.id % 2 ^ 18 * 2 + b2n f.rr
  else ((f.id * 2 + b2n f.rr) * 2) * 2 ^ 19

/-- The pending buffer that would win arbitration (R312). -/
def winner (s : State) (ch : Nat) : Option Nat :=
  (List.range 64).foldl (fun b i =>
    if (buf s ch i).st ≠ 2 then b
    else match b with
      | none => some i
      | some j => if (buf s ch i).frame.arb < (buf s ch j).frame.arb then some i else b) none

/-- A buffer's schedule time was past. -/
def canLate (ch : Nat) (s : State) : State := clnEvent ch 11 (canCount ch 0x78 s)

/-- Load a buffer (R311). `t` is the schedule time or the base. -/
def loadBuf (ch i : Nat) (f : Can) (limit timing t period : Nat) (s : State) : State :=
  let b : TxBuf := { TxBuf.zero with frame := f, limit := limit, timing := timing, base := t, period := period,
                                     sof := (buf s ch i).sof }
  match timing with
  | 0 => setBuf ch i { b with st := 2 } s
  | 1 =>
    if t < s.nowUp then setBuf ch i { b with st := 2, at_ := t } (canLate ch s) else setBuf ch i { b with st := 1, at_ := t } s
  | _ => setBuf ch i { b with st := 1, at_ := firstInstant t period s.nowUp } s

/-- A change of MODE (R308), from `old` to `new`; a frame in progress, or its error frame, completes first. -/
def changeMode (ch old new : Nat) (s : State) : State :=
  let st := canState s ch
  let target := if new = 0 then 0 else 1
  if new = old then s
  else if st = 0 then (if new = 0 then s else canGo ch 1 s)
  else if st ≤ 2 then
    if (onBus s ch).isSome || canBusy s ch then s.withCln (fun c => { c with modeNext := tput none c.modeNext ch (some target) })
    else canGo ch target s
  else canGo ch target (canCount ch 0x60 s)

/-- A frame on the channel's bus has ended: a change of MODE that waited takes effect. -/
def frameEnded (ch : Nat) (s : State) : State :=
  let s := setBusy ch false s
  match tget none s.cln.modeNext ch with
  | some v => canGo ch v s
  | none => s

/-! ### LIN states and schedules (R324–R326) -/

/-- 0 OFF, 1 IDLE, 2 RUN, 3 SLEEP. -/
def linState (s : State) (m : Nat) : Nat := s.f (linReg m 8) 1 0
def setLinState (m v : Nat) (s : State) : State := s.sf (linReg m 8) 1 0 v

/-- Length of the slot of an entry in microseconds. -/
def linSlotUs (s : State) (m i : Nat) : Nat := fld (tget (0, 0) s.cln.sched (m * 64 + i)).2 23 0

/-- Length of a range in microseconds. -/
def linCycle (s : State) (m first last : Nat) : Nat :=
  ((List.range (last + 1 - first)).map (fun k => linSlotUs s m (first + k))).sum

/-- The slot `off` microseconds into a range, and where it starts and ends. -/
def linSlotAt (s : State) (m : Nat) : Nat → Nat → Nat → Nat → Nat × Nat × Nat
  | 0, i, t, _ => (i, t, t + linSlotUs s m i)
  | fuel + 1, i, t, off =>
    if off < t + linSlotUs s m i then (i, t, t + linSlotUs s m i) else linSlotAt s m fuel (i + 1) (t + linSlotUs s m i) off

def showLin (m : Nat) (s : State) : State :=
  let s := s.sb (linReg m 8) 2 (tget none s.cln.next m).isSome
  match tget none s.cln.runs m with
  | some r => s.sf (linReg m 8) 8 3 r.slot
  | none => s

def setRun (m : Nat) (r : Option LinRun) (s : State) : State :=
  showLin m (s.withCln (fun c => { c with runs := tput none c.runs m r }))

def setNext (m : Nat) (x : Option LinNext) (s : State) : State :=
  showLin m (s.withCln (fun c => { c with next := tput none c.next m x }))

/-- A schedule takes its place from the new time (R56): `phase` is how far it is from a start of its cycle. The slot in
force there goes on with its remaining duration. -/
def linPlace (m first last : Nat) (phase : Int) (s : State) : State :=
  let off := (phase % ((linCycle s m first last : Nat) * 1000 : Int)).toNat
  let x := linSlotAt s m (last - first) first 0 (off / 1000)
  setRun m (some { first := first, last := last, slot := x.1, ends := s.now + (x.2.2 * 1000 - off) }) s

/-- A step of time puts every LIN schedule at its place: the range that runs, or the one whose switch instant a forward
step passed (R56). -/
def linReposition (s : State) : State :=
  (List.range 8).foldl (fun s m =>
    match tget none s.cln.next m with
    | some (.switch f l t) =>
      if t ≤ s.now then linPlace m f l ((s.now : Int) - t) (setLinState m 2 (setNext m none s)) else linStay m s
    | _ => linStay m s) s
where
  /-- The range that runs, from the end of its slot. -/
  linStay (m : Nat) (s : State) : State :=
    match tget none s.cln.runs m with
    | none => s
    | some r =>
      let upTo := if r.slot = r.last then 0 else linCycle s m r.first r.slot
      linPlace m r.first r.last ((s.now : Int) - r.ends + upTo * 1000) s

/-- A step of time moves cyclic occurrences to the first instant from the new time; a WAITING one-shot that it skipped
is late (R56). -/
def TxBuf.moved (s : State) (b : TxBuf) : TxBuf :=
  if b.timing = 2 then { b with at_ := firstInstant b.base b.period s.nowUp }
  else if b.st = 1 then { b with late := s.lateAfter b.late b.at_ } else b

def clnReposition (s : State) : State :=
  linReposition (s.withCln (fun c => { c with bufs := c.bufs.map (fun e => (e.1, e.2.moved s)) }))

/-! ### Receive records (R318, R327) -/

/-- The words of a CAN record. `filter` is the matching filter, or 63. -/
def canRecord (ch filter t : Nat) (f : Can) : List Nat :=
  let xl := f.fmt == 3
  let w0 := t % 1000000000 + t / 1000000000 % 2 ^ 32 * 2 ^ 32
  let w1 := f.id % 2 ^ 29 + b2n f.ide * 2 ^ 29 + b2n f.rr * 2 ^ 30 + b2n (f.fmt == 1 || f.fmt == 2) * 2 ^ 31 +
    b2n xl * 2 ^ 32 + b2n (f.fmt == 2) * 2 ^ 33 + b2n f.esi * 2 ^ 34 + f.data.length * 2 ^ 36 + ch * 2 ^ 48 + filter * 2 ^ 56
  let w2 := if xl then f.sdt % 256 + b2n f.sec * 256 + f.vcid % 256 * 2 ^ 16 + f.af % 2 ^ 32 * 2 ^ 32 else 0
  [w0, w1, w2] ++ (List.range ((f.data.length + 7) / 8)).map (fun i => leAt f.data (8 * i) 8)

/-- Channel `inst` holds two complete frames while it writes to its FIFO (R319): while GWY runs they move on, and where
it does not a third is discarded, counted in RX_DROP and a GAP marker goes before the next record. -/
def clnFull (inst : Nat) (s : State) : Bool × State :=
  let s := if 2 ≤ hwFrames s inst then hwDrain inst s else s
  if 2 ≤ hwFrames s inst then
    let s := setFifo inst { fifo s inst with gaps := (fifo s inst).gaps + 1 } s
    (true, clnEvent inst 6 (if inst < 16 then canCount inst 0x70 s else s))
  else (false, s)

/-- A record of channel `inst` goes to its sprue FIFO (R301, R319); answers whether it was delivered. -/
def clnRecord (inst : Nat) (r : List Nat) (s : State) : Bool × State :=
  let x := clnFull inst s
  if x.1 then (false, x.2) else (true, hwQueue inst r x.2)

/-- The frame and time a CAN record holds. -/
def canOfRecord (ws : List Nat) : Can :=
  let w := fun (i : Nat) => ws.getD i 0
  let w1 := w 1
  let fmt := if w1.testBit 32 then 3 else if w1.testBit 31 then (if w1.testBit 33 then 2 else 1) else 0
  { fmt := fmt, id := w1 % 2 ^ 29, ide := w1.testBit 29, rr := w1.testBit 30, esi := w1.testBit 34,
    data := slice ((ws.drop 3).flatMap (fun x => leBytes 8 x)) 0 (w1 / 2 ^ 36 % 4096), sdt := w 2 % 256,
    vcid := w 2 / 2 ^ 16 % 256, sec := (w 2).testBit 8, af := w 2 / 2 ^ 32 }

/-! ### LIN (R323–R328) -/

def pubBuf (s : State) (m id : Nat) : Publish := tget Publish.zero s.cln.publish (m * 64 + id)

/-- Write a publish buffer and mark it updated, as CLN_LIN_DATA does. -/
def setPublish (m id : Nat) (bs : List Byte) (s : State) : State :=
  s.withCln (fun c => { c with publish := tput Publish.zero c.publish (m * 64 + id) { data := slice bs 0 8, updated := true } })

/-- Protected identifier. -/
def linPid (id : Nat) : Nat :=
  let b := fun i => id.testBit i
  id % 64 + b2n (b 0 ^^ b 1 ^^ b 2 ^^ b 4) * 64 + b2n (!(b 1 ^^ b 3 ^^ b 4 ^^ b 5)) * 128

/-- LIN checksum: the inverted sum with carries of the data, and of the protected identifier where enhanced. -/
def linChecksum (id : Nat) (enhanced : Bool) (bs : List Byte) : Nat :=
  let go := fun (a b : Nat) => if 255 < a + b then a + b - 255 else a + b
  255 - bs.foldl (fun a b => go a b.toNat) (if enhanced && id != 0x3C && id != 0x3D then linPid id else 0)

/-- Fields of a schedule entry's first word. -/
def entryId (w : Word) : Nat := fld w 5 0
def entryType (w : Word) : Nat := fld w 8 6
def entryLen (w : Word) : Nat := fld w 13 10

/-- The slot is at least 1.4 times its frame (R324): a bit is DIV × 12.5 ns. -/
def slotLong (s : State) (m : Nat) (w us : Word) : Bool :=
  let n := s.f (linReg m 4) 4 0 + s.f (linReg m 4) 7 5 + 20 + 10 * (entryLen w + 1)
  entryType w == 5 || decide (7 * n * s.f (linReg m 0) 31 15 ≤ 400 * fld us 23 0)

/-- A channel sends a header: break, delimiter, sync byte and protected identifier (R323). -/
def sendHeader (m id : Nat) (s : State) : State :=
  busSend (.linHeader m (s.f (linReg m 4) 4 0) (s.f (linReg m 4) 7 5) (linPid id)) s

/-- A channel sends a response with its checksum (R323). -/
def sendResponse (m id : Nat) (enhanced : Bool) (d : List Byte) (s : State) : State :=
  busSend (.linResponse m id d (linChecksum id enhanced d)) s

/-- Put the header of a slot on the bus, and the response where the master publishes it (R326). -/
def linHeader (m i start : Nat) (s : State) : State :=
  let w := (tget (0, 0) s.cln.sched (m * 64 + i)).1
  let id := entryId w
  let p := pubBuf s m id
  let sporadic := entryType w == 2
  if entryType w = 5 ∨ (sporadic = true ∧ p.updated = false) then s
  else
    let pub := sporadic || bitOf w 9
    let d := p.data.take (entryLen w)
    let x : LinFrame := { id := id, typ := entryType w, len := entryLen w, enhanced := bitOf w 14,
                          publish := if pub then some d else none, start := start, toSleep := false }
    let s := sendHeader m id (s.withCln (fun c => { c with onBus := tput none c.onBus m (some x) }))
    if pub then
      sendResponse m id (bitOf w 14) d (s.withCln (fun c =>
        { c with publish := tput Publish.zero c.publish (m * 64 + id) { p with updated := false } }))
    else s

/-- Send the go-to-sleep frame (R328). -/
def linGoToSleep (m : Nat) (s : State) : State :=
  let d : List Byte := 0 :: List.replicate 7 0xFF#8
  let x : LinFrame := { id := 0x3C, typ := 3, len := 8, enhanced := false, publish := some d, start := s.now, toSleep := true }
  let s := setLinState m 1 (setNext m none (setRun m none s))
  sendResponse m 0x3C false d (sendHeader m 0x3C
    (s.withCln (fun c => { c with onBus := tput none c.onBus m (some x) })))

/-- Switch a channel off (L_CTRL.EN = 0): nothing runs and nothing waits. -/
def linOff (m : Nat) (s : State) : State :=
  let s := setLinState m 0 (setNext m none (setRun m none s))
  s.withCln (fun c => { c with onBus := terase c.onBus m })

end Sys2Proof.Machine
end

