-- ==== Sys2Proof/Machine/Aes.lean ====
section
/-! DEFINITION. The ciphers the spec cites: AES (FIPS 197), its modes (SP 800-38A, 38B, 38D) and key wrap (RFC 3394,
RFC 5649). PRESUMED from those standards (log entry 11). -/

namespace Sys2Proof.Machine

/-! ### AES -/

/-- Multiply by x in GF(2^8). -/
def xtime (b : Byte) : Byte := (b <<< 1) ^^^ (if b.getLsbD 7 then 0x1B#8 else 0)

/-- Multiplication in GF(2^8), by the bits of the second factor. -/
def gmulGo : Nat → Byte → Byte → Byte
  | 0, _, _ => 0
  | n + 1, a, b => (if b.getLsbD 0 then a else 0) ^^^ gmulGo n (xtime a) (b >>> 1)

def gmul (a b : Byte) : Byte := gmulGo 8 a b

/-- Inverse in GF(2^8): the 254th power. -/
def ginv (a : Byte) : Byte :=
  let a2 := gmul a a
  let a4 := gmul a2 a2
  let a8 := gmul a4 a4
  let a16 := gmul a8 a8
  let a32 := gmul a16 a16
  let a64 := gmul a32 a32
  let a128 := gmul a64 a64
  gmul a2 (gmul a4 (gmul a8 (gmul a16 (gmul a32 (gmul a64 a128)))))

def sbox (b : Byte) : Byte :=
  let i := ginv b
  i ^^^ i.rotateLeft 1 ^^^ i.rotateLeft 2 ^^^ i.rotateLeft 3 ^^^ i.rotateLeft 4 ^^^ 0x63#8

def sboxInv (b : Byte) : Byte := ginv (b.rotateLeft 1 ^^^ b.rotateLeft 3 ^^^ b.rotateLeft 6 ^^^ 0x05#8)

def xorBytes (a b : List Byte) : List Byte := List.zipWith (· ^^^ ·) a b

/-- Rows shift by `k` columns times their number. -/
def shiftRows (k : Nat) (st : List Byte) : List Byte :=
  (List.range 16).map (fun i => st.getD (i % 4 + 4 * ((i / 4 + k * (i % 4)) % 4)) 0)

/-- One column times the circulant matrix of four factors. -/
def mixColumn (m : List Byte) (c : List Byte) : List Byte :=
  (List.range 4).map (fun r =>
    (List.range 4).foldl (fun x j => x ^^^ gmul (m.getD ((j + 4 - r) % 4) 0) (c.getD j 0)) 0)

def mixColumns (m : List Byte) (st : List Byte) : List Byte :=
  (List.range 4).flatMap (fun c => mixColumn m (slice st (4 * c) 4))

/-- Next word of the key schedule. -/
def nextKeyWord (nk i : Nat) (rcon : Byte) (ws : List (List Byte)) : List Byte :=
  let prev := ws.getD (i - 1) []
  let t := if i % nk = 0 then
      xorBytes (((prev.drop 1) ++ prev.take 1).map sbox) [rcon, 0, 0, 0]
    else if 6 < nk ∧ i % nk = 4 then prev.map sbox
    else prev
  xorBytes t (ws.getD (i - nk) [])

/-- The key schedule: `n` more words from word `i`. -/
def expandGo (nk : Nat) : Nat → Nat → Byte → List (List Byte) → List (List Byte)
  | 0, _, _, ws => ws
  | n + 1, i, rcon, ws =>
    expandGo nk n (i + 1) (if i % nk = 0 then xtime rcon else rcon) (ws ++ [nextKeyWord nk i rcon ws])

/-- Round keys of a key of 16, 24 or 32 bytes. -/
def roundKeys (key : List Byte) : List (List Byte) :=
  let nk := key.length / 4
  let ws := expandGo nk (4 * (nk + 7) - nk) nk 1 ((List.range nk).map (fun i => slice key (4 * i) 4))
  (List.range (nk + 7)).map (fun r => ((ws.drop (4 * r)).take 4).flatten)

/-- AES of one block under its round keys. -/
def aesBlock (rk : List (List Byte)) (b : List Byte) : List Byte :=
  match rk with
  | [] => b
  | k0 :: rest =>
    let n := rest.length
    ((List.range n).foldl (fun st i =>
      let st := shiftRows 1 (st.map sbox)
      let st := if i + 1 = n then st else mixColumns [2, 3, 1, 1] st
      xorBytes st (rest.getD i [])) (xorBytes b k0))

/-- Inverse AES of one block under its round keys. -/
def aesBlockInv (rk : List (List Byte)) (b : List Byte) : List Byte :=
  let n := rk.length - 1
  (List.range n).foldl (fun st i =>
    let st := (shiftRows 3 st).map sboxInv
    let st := xorBytes st (rk.getD (n - 1 - i) [])
    if i + 1 = n then st else mixColumns [14, 11, 13, 9] st) (xorBytes b (rk.getD n []))

/-! ### Modes -/

/-- The 16-byte blocks of data; the last may be short. -/
def blocks : Nat → List Byte → List (List Byte)
  | 0, _ => []
  | n + 1, bs => if bs.isEmpty then [] else bs.take 16 :: blocks n (bs.drop 16)

def blocksOf (bs : List Byte) : List (List Byte) := blocks (bs.length / 16 + 1) bs

/-- The block counter after `n` steps of its low 32 bits, big-endian. -/
def ctrAdd (c : List Byte) (n : Nat) : List Byte := c.take 12 ++ beBytes 4 ((beAt c 12 4 + n) % 2 ^ 32)

/-- CTR of data from a counter block. -/
def ctrMode (rk : List (List Byte)) (c : List Byte) (bs : List Byte) : List Byte :=
  ((blocksOf bs).zipIdx.map (fun x => xorBytes x.1 (aesBlock rk (ctrAdd c x.2)))).flatten

/-- CBC encryption from a chaining block: the output and the last block. -/
def cbcEnc (rk : List (List Byte)) (iv : List Byte) (bs : List Byte) : List Byte × List Byte :=
  (blocksOf bs).foldl (fun x b =>
    let c := aesBlock rk (xorBytes b x.2)
    (x.1 ++ c, c)) ([], iv)

/-- CBC decryption from a chaining block. -/
def cbcDec (rk : List (List Byte)) (iv : List Byte) (bs : List Byte) : List Byte × List Byte :=
  (blocksOf bs).foldl (fun x b => (x.1 ++ xorBytes (aesBlockInv rk b) x.2, b)) ([], iv)

/-- Doubling in GF(2^128) for CMAC subkeys. -/
def cmacDouble (v : BitVec 128) : BitVec 128 := (v <<< 1) ^^^ (if v.getLsbD 127 then 0x87#128 else 0)

def toBlock (v : BitVec 128) : List Byte := beBytes 16 v.toNat
def ofBlock (b : List Byte) : BitVec 128 := BitVec.ofNat 128 (beNat b)

/-- CMAC absorbs whole blocks. -/
def cmacAbsorb (rk : List (List Byte)) (x : List Byte) (bs : List Byte) : List Byte :=
  (blocksOf bs).foldl (fun x b => aesBlock rk (xorBytes b x)) x

/-- CMAC of the last bytes of a message, at most one block, after chaining value `x`. -/
def cmacLast (rk : List (List Byte)) (x : List Byte) (last : List Byte) : List Byte :=
  let k1 := cmacDouble (ofBlock (aesBlock rk (List.replicate 16 0)))
  let b := if last.length = 16 then xorBytes last (toBlock k1)
    else xorBytes (slice (last ++ [0x80#8]) 0 16) (toBlock (cmacDouble k1))
  aesBlock rk (xorBytes b x)

/-- Bytes of a message before its last block. -/
def headLen (n : Nat) : Nat := if n = 0 then 0 else (n - 1) / 16 * 16

/-- AES-CMAC of a message (SP 800-38B). -/
def cmac (key msg : List Byte) : List Byte :=
  let rk := roundKeys key
  let n := headLen msg.length
  cmacLast rk (cmacAbsorb rk (List.replicate 16 0) (msg.take n)) (msg.drop n)

/-- Multiplication in GF(2^128) as GHASH has it. -/
def ghMulGo : Nat → BitVec 128 → BitVec 128 → BitVec 128 → BitVec 128
  | 0, _, _, z => z
  | n + 1, x, v, z =>
    ghMulGo n (x <<< 1) ((v >>> 1) ^^^ (if v.getLsbD 0 then 0xE1000000000000000000000000000000#128 else 0))
      (if x.getLsbD 127 then z ^^^ v else z)

/-- GHASH absorbs data, its last block padded with zeros. -/
def ghash (h y : BitVec 128) (bs : List Byte) : BitVec 128 :=
  (blocksOf bs).foldl (fun y b => ghMulGo 128 (y ^^^ ofBlock (slice b 0 16)) h 0) y

/-- Hash key of GCM. -/
def gcmH (rk : List (List Byte)) : BitVec 128 := ofBlock (aesBlock rk (List.replicate 16 0))

/-- First counter block of a 12-byte IV. -/
def gcmJ0 (iv : List Byte) : List Byte := slice iv 0 12 ++ [0, 0, 0, 1]

/-- Tag of GCM from the hash of AAD and ciphertext. -/
def gcmTag (rk : List (List Byte)) (j0 : List Byte) (y : BitVec 128) (aadLen dataLen : Nat) : List Byte :=
  xorBytes (toBlock (ghash (gcmH rk) y (beBytes 8 (8 * aadLen) ++ beBytes 8 (8 * dataLen)))) (aesBlock rk j0)

/-- AES-GCM encryption: ciphertext and 16-byte tag (SP 800-38D). -/
def gcmSeal (key iv aad bs : List Byte) : List Byte × List Byte :=
  let rk := roundKeys key
  let j0 := gcmJ0 iv
  let c := ctrMode rk (ctrAdd j0 1) bs
  (c, gcmTag rk j0 (ghash (gcmH rk) (ghash (gcmH rk) 0 aad) c) aad.length c.length)

/-- AES-GCM decryption: the plaintext, where the first bytes of the tag are those given. -/
def gcmOpen (key iv aad bs tag : List Byte) : Option (List Byte) :=
  let rk := roundKeys key
  let j0 := gcmJ0 iv
  let t := gcmTag rk j0 (ghash (gcmH rk) (ghash (gcmH rk) 0 aad) bs) aad.length bs.length
  if t.take tag.length = tag then some (ctrMode rk (ctrAdd j0 1) bs) else none

/-! ### Key wrap -/

/-- The six rounds of RFC 3394 over A and the 64-bit registers. -/
def wrapRounds (rk : List (List Byte)) (a : List Byte) (r : List (List Byte)) : List Byte × List (List Byte) :=
  (List.range 6).foldl (fun x j =>
    (List.range r.length).foldl (fun (y : List Byte × List (List Byte)) i =>
      let b := aesBlock rk (y.1 ++ y.2.getD i [])
      (xorBytes (b.take 8) (beBytes 8 (r.length * j + i + 1)), lset y.2 i (b.drop 8))) x) (a, r)

/-- The six rounds undone. -/
def unwrapRounds (rk : List (List Byte)) (a : List Byte) (r : List (List Byte)) : List Byte × List (List Byte) :=
  (List.range 6).foldl (fun x j =>
    (List.range r.length).foldl (fun (y : List Byte × List (List Byte)) k =>
      let i := r.length - 1 - k
      let b := aesBlockInv rk (xorBytes y.1 (beBytes 8 (r.length * (5 - j) + i + 1)) ++ y.2.getD i [])
      (b.take 8, lset y.2 i (b.drop 8))) x) (a, r)

/-- Registers of 8 bytes. -/
def octets (bs : List Byte) : List (List Byte) := (List.range (bs.length / 8)).map (fun i => slice bs (8 * i) 8)

/-- RFC 3394 wrap. -/
def kwWrap (key bs : List Byte) : List Byte :=
  let x := wrapRounds (roundKeys key) (List.replicate 8 0xA6#8) (octets bs)
  x.1 ++ x.2.flatten

/-- RFC 3394 unwrap of at least three semiblocks; none where the integrity check fails. -/
def kwUnwrap (key bs : List Byte) : Option (List Byte) :=
  let x := unwrapRounds (roundKeys key) (bs.take 8) (octets (bs.drop 8))
  if bs.length % 8 = 0 ∧ 24 ≤ bs.length ∧ x.1 = List.replicate 8 0xA6#8 then some x.2.flatten else none

/-- RFC 5649 wrap with padding. -/
def kwpWrap (key bs : List Byte) : List Byte :=
  let a := [0xA6#8, 0x59#8, 0x59#8, 0xA6#8] ++ beBytes 4 bs.length
  let p := bs ++ List.replicate ((8 - bs.length % 8) % 8) 0
  if p.length = 8 then aesBlock (roundKeys key) (a ++ p)
  else
    let x := wrapRounds (roundKeys key) a (octets p)
    x.1 ++ x.2.flatten

/-- RFC 5649 unwrap of at least two whole semiblocks; none where the integrity check fails. -/
def kwpUnwrap (key bs : List Byte) : Option (List Byte) :=
  let rk := roundKeys key
  let x := if bs.length = 16 then
      let b := aesBlockInv rk bs
      (b.take 8, b.drop 8)
    else
      let y := unwrapRounds rk (bs.take 8) (octets (bs.drop 8))
      (y.1, y.2.flatten)
  let n := beAt x.1 4 4
  if bs.length % 8 = 0 ∧ 16 ≤ bs.length ∧ x.1.take 4 = [0xA6#8, 0x59#8, 0x59#8, 0xA6#8] ∧ n ≤ x.2.length ∧ x.2.length < n + 8 ∧
      (x.2.drop n).all (· == 0) = true then some (x.2.take n) else none

end Sys2Proof.Machine
end

