-- ==== Sys2Proof/Machine/Frames.lean ====
section
/-! DEFINITION. The bytes of a frame: its tag, its R-TAG, and the form a copy leaves in (R138, R229, R593). -/

namespace Sys2Proof.Machine

/-- One bit step of the IEEE 802.3 CRC-32, reflected. -/
def fcsStep (c : Word) : Word := if c.getLsbD 0 then (c >>> 1) ^^^ 0xEDB88320#32 else c >>> 1

def fcsByte (c : Word) (b : Byte) : Word :=
  let x := c ^^^ b.setWidth 32
  fcsStep (fcsStep (fcsStep (fcsStep (fcsStep (fcsStep (fcsStep (fcsStep x)))))))

/-- The FCS of a frame's bytes, as its four bytes are sent. -/
def fcs (bs : List Byte) : List Byte := leBytes 4 (~~~ (bs.foldl fcsByte 0xFFFFFFFF#32)).toNat

/-- The frame starts with an 802.1Q tag, TPID 0x8100 (R138). -/
def hasTag (bs : List Byte) : Bool := beAt bs 12 2 == 0x8100

/-- The tag control word of a tagged frame. -/
def tagTci (bs : List Byte) : Nat := beAt bs 14 2

/-- The bytes after the addresses and at most one 802.1Q tag. -/
def afterTag (bs : List Byte) : List Byte := bs.drop (if hasTag bs then 16 else 12)

/-- The sequence number of the frame's R-TAG, EtherType 0xF1C1 (R161). -/
def rtagSeq (bs : List Byte) : Option Nat :=
  let p := afterTag bs
  if beAt p 0 2 = 0xF1C1 then some (beAt p 4 2) else none

/-- The EtherType after at most one 802.1Q tag. -/
def etherType (bs : List Byte) : Nat := beAt (afterTag bs) 0 2

/-- Sum of big-endian 16-bit words, for the IPv4 header checksum. -/
def sum16 : List Byte → Nat
  | a :: b :: r => a.toNat * 256 + b.toNat + sum16 r
  | [a] => a.toNat * 256
  | [] => 0

/-- Ones'-complement fold of a sum. -/
def fold16 (n : Nat) : Nat :=
  let m := n % 65536 + n / 65536
  m % 65536 + m / 65536

/-- An IPv4 header with its checksum written anew. -/
def ipv4Checksum (h : List Byte) : List Byte :=
  let len := ((h.headD 0).toNat % 16) * 4
  let z := patch h 10 [0, 0]
  patch z 10 (beBytes 2 (65535 - fold16 (sum16 (z.take len))))

/-- SET_DSCP on the payload, EtherType first: the new payload, and whether the DSCP part was skipped (R229). -/
def setDscp (dscp : Nat) (p : List Byte) : List Byte × Bool :=
  let ip := p.drop 2
  if beAt p 0 2 = 0x0800 then
    let tos := dscp * 4 + beAt ip 1 1 % 4
    (p.take 2 ++ ipv4Checksum (patch ip 1 (beBytes 1 tos)), false)
  else if beAt p 0 2 = 0x86DD then
    let tc := dscp * 4 + beAt ip 1 1 / 16 % 4
    let b0 := beAt ip 0 1 / 16 * 16 + tc / 16
    let b1 := tc % 16 * 16 + beAt ip 1 1 % 16
    (p.take 2 ++ patch ip 0 (beBytes 1 b0 ++ beBytes 1 b1), false)
  else (p, true)

/-- A frame as the MAC sends it: one below 64 bytes is padded, with a new FCS (R237). -/
def padded (bs : List Byte) : List Byte :=
  if bs.length < 64 then
    let b := bs.take (bs.length - 4)
    let b := b ++ List.replicate (60 - b.length) 0
    b ++ fcs b
  else bs

/-- The bytes a copy leaves with, FCS last, and whether a DSCP rewrite was skipped. Mirror copies leave as stored, but
for padding (R230, R237); other copies get the tag form of R593, R-TAG insertion or removal (R162), the rewrite of R229, padding to 64
bytes and a new FCS. -/
def egressForm (f : Frame) (c : Copy) : List Byte × Bool :=
  if c.mirror then (padded f.bytes, false)
  else
    let body := f.bytes.take (f.bytes.length - 4)
    let p0 := afterTag body
    let p1 := if c.pop ∧ beAt p0 0 2 = 0xF1C1 then p0.drop 6 else p0
    let p2 := match c.rtag with
      | some n => beBytes 2 0xF1C1 ++ [0, 0] ++ beBytes 2 n ++ p1
      | none => p1
    let rw := c.rewrite.getD (List.replicate 16 0)
    let fl := leAt rw 12 1
    let da := if fl.testBit 0 then slice rw 0 6 else body.take 6
    let sa := if fl.testBit 1 then slice rw 6 6 else (body.drop 6).take 6
    let tci := if f.tagged then tagTci body else c.tc * 8192
    let pcp := if fl.testBit 2 then (if fl.testBit 3 then leAt rw 14 1 % 8 else leAt rw 13 1 % 8) else tci / 8192
    let dei := if c.dei then 1 else tci / 4096 % 2
    let tag := if c.untag then [] else beBytes 2 0x8100 ++ beBytes 2 (pcp * 8192 + dei * 4096 + c.vid % 4096)
    let d := if fl.testBit 3 then setDscp (leAt rw 13 1 % 64) p2 else (p2, false)
    let out := da ++ sa ++ tag ++ d.1
    let out := out ++ List.replicate (60 - out.length) 0
    (out ++ fcs out, d.2)

/-- W: the bytes the MAC sends for a copy (R237). -/
def egressLen (f : Frame) (c : Copy) : Nat := (egressForm f c).1.length

end Sys2Proof.Machine
end

