-- ==== Sys2Proof/Machine/SwcOps.lean ====
section
/-! DEFINITION. The operations of the frame store: tiles, references, charges, admission and push-out, lanes and
flushes (R131–R165). -/

namespace Sys2Proof.Machine

/-! ### Registers -/

/-- A port register of SWC. -/
def swcPort (p off : Nat) : Nat := rg 4 (0x1000 + p * 0x100 + off)

/-- A queue register of SWC. -/
def swcQueue (q off : Nat) : Nat := rg 4 (0x4000 + q * 0x10 + off)

/-- Count in a port counter of SWC. -/
def swcCount (p off : Nat) (s : State) : State := s.cnt (swcPort p off) 1

/-- The state with SWC replaced. -/
def State.withSwc (s : State) (f : SwcState → SwcState) : State := { s with swc := f s.swc }

/-- Whether SWC and TMG treat an egress port as up: TX_EN, and the PHY link of ports 0–17 (R276). -/
def portUp (s : State) (p : Nat) : Bool :=
  s.bit (rg 8 (0x1000 + p * 0x100)) 1 && (decide (18 ≤ p) || s.bit (rg 8 (0x100C + p * 0x100)) 0)

/-- The state with ETH replaced. -/
def State.withEth (s : State) (f : EthState → EthState) : State := { s with eth := f s.eth }

/-- The pipelined core to which every reset that clears CRU binds a MACsec port, for both directions (R407). -/
def macsecCore (tier p : Nat) : Option Nat :=
  if 13 < p ∨ portFitted tier p = false then none
  else if tier = 0xA then some (if p ≤ 3 then p else if p ≤ 5 then 4 else 5)
  else if tier = 0xB then some (if p ≤ 1 then p else if p ≤ 5 then 2 else 3)
  else some (if p ≤ 1 then 0 else 1)

/-- Whether MACsec of port `p` works on a frame of this EtherType, on the core the port is bound to or among ring work
(R288, R407). -/
def macsecOn (s : State) (p : Nat) (bs : List Byte) : Bool :=
  (macsecCore s.tier p).isSome && s.bit (rg 8 (0x101C + p * 0x100)) 0 && beAt bs 12 2 != 0x888E

/-- Whether its cipher work waits among Crucible's ring work: PATH = 1 (R291). -/
def macsecShared (s : State) (p : Nat) (bs : List Byte) : Bool :=
  macsecOn s p bs && s.bit (rg 8 (0x101C + p * 0x100)) 8

/-- Fitted ports of the part, in rising order. -/
def fittedPorts (s : State) : List Nat := (List.range 21).filter (portFitted s.tier)

/-! ### Tiles -/

/-- Tiles a length needs (R131). -/
def tilesOf (len : Nat) : Nat := (len + 255) / 256

/-- Tiles that frames hold. -/
def usedTiles (s : State) : List Nat := s.swc.frames.flatMap (·.tiles)

/-- TILE_FREE follows the frames and the retired tiles. -/
def showFree (s : State) : State :=
  s.sf (rg 4 0) 16 0 (98304 - (usedTiles s).length - s.swc.retired.length)

/-- Tiles on the free list. -/
def freeTiles (s : State) : Nat := s.f (rg 4 0) 16 0

/-- Tiles the ingress area holds: those of frames without a verdict yet (R137). -/
def ingressUsed (s : State) : Nat :=
  ((s.swc.frames.filter (fun f => f.refs.isNone)).map (fun f => f.tiles.length)).sum

/-- The lowest `n` tiles not in `taken`, from tile `t` on. -/
def pickTiles (taken : List Nat) : Nat → Nat → Nat → List Nat
  | 0, _, _ => []
  | fuel + 1, n, t =>
    if n = 0 then []
    else if taken.contains t then pickTiles taken fuel n (t + 1)
    else t :: pickTiles taken fuel (n - 1) (t + 1)

/-- The free tiles a new frame takes: the lowest-numbered ones (log entry 14). -/
def allocTiles (s : State) (n : Nat) : List Nat :=
  let taken := usedTiles s ++ s.swc.retired
  pickTiles taken (taken.length + n) n 0

/-- The tile header (NEXT, BYTES, LAST). -/
def tileHeader (next bytes : Nat) (last : Bool) : Nat := next + bytes * 2 ^ 17 + b2n last * 2 ^ 26

/-- The tile check word (R133): CRC-32C of the data bytes and the header. -/
def tcw (data : List Byte) (header : Nat) : Word := crc32c (data ++ leBytes 4 header)

/-- Write a frame's bytes into its tiles, as the debug windows show them (R30, R131, R133). -/
def putTiles : List Nat → List Byte → State → State
  | [], _, s => s
  | t :: r, bs, s =>
    let data := slice bs 0 256
    let h := tileHeader (r.headD 0) (min 256 bs.length) r.isEmpty
    let s := s.wrBytes (0x200000000 + t * 256) data
    let s := s.wrBytes (0x201800000 + t * 4) (leBytes 4 (tcw data h).toNat)
    putTiles r (bs.drop 256) s

/-- The frame with an id. -/
def findFrame (s : State) (id : Nat) : Option Frame := s.swc.frames.find? (fun f => f.id == id)

/-- Free a frame's tiles; a tile marked for retirement leaves the free list instead (R136, R149). -/
def freeFrame (id : Nat) (s : State) : State :=
  match findFrame s id with
  | none => s
  | some f =>
    let gone := f.tiles.filter (fun t => s.swc.doomed.contains t)
    let s := s.withSwc (fun w => { w with frames := w.frames.filter (fun g => g.id != id),
                                          retired := w.retired ++ gone,
                                          doomed := w.doomed.filter (fun t => !gone.contains t) })
    let s := if gone.isEmpty then s else (s.sf (rg 4 4) 16 0 s.swc.retired.length).raise 4 1
    showFree s

/-- A tile's check word failed at a reader (R135, R136): count it at port `p`, mark the tile suspect, or for
retirement where it was suspect already. -/
def tcwFail (p : Nat) (tile : Option Nat) (s : State) : State :=
  let s := (swcCount p 0x44 s).raise 4 0
  match tile with
  | none => s
  | some t =>
    if s.swc.suspect.contains t then
      if s.swc.doomed.contains t then s else s.withSwc (fun w => { w with doomed := w.doomed ++ [t] })
    else
      let s := s.withSwc (fun w => { w with suspect := w.suspect ++ [t] })
      s.sf (rg 4 8) 16 0 s.swc.suspect.length

/-! ### Charges (R142) -/

def charge (s : State) (q : Nat) : Nat := s.f (swcQueue q 8) 16 0
def reserve (s : State) (q : Nat) : Nat := s.f (swcQueue q 0) 16 0
def limit (s : State) (q : Nat) : Nat := s.f (swcQueue q 4) 16 0
def sharedUsed (s : State) : Nat := s.f (rg 4 0x18) 16 0

/-- Shared tiles free: the effective size less the use, zero when negative. -/
def sharedFree (s : State) : Nat := s.f (rg 4 0x10) 16 0 - s.swc.retired.length - sharedUsed s

/-- Set CHARGE and RESERVE of a queue, keeping SHARED_USED their sum over queues. -/
def setCharge (q c r : Nat) (s : State) : State :=
  let used := sharedUsed s + (c - r) - (charge s q - reserve s q)
  ((s.sf (swcQueue q 8) 16 0 c).sf (swcQueue q 0) 16 0 r).sf (rg 4 0x18) 16 0 used

/-- Queue of a copy. -/
def Copy.queue (c : Copy) : Nat := c.port * 8 + c.tc

/-- One copy of a frame leaves: the reference count falls, and the last one frees the tiles (R149). -/
def dropRef (id : Nat) (s : State) : State :=
  match findFrame s id with
  | none => s
  | some f =>
    match f.refs with
    | some (n + 2) =>
      s.withSwc (fun w => { w with frames := w.frames.map (fun g => if g.id == id then { g with refs := some (n + 1) } else g) })
    | _ => freeFrame id s

/-- A copy leaves: its charge and its reference go. -/
def releaseCopy (c : Copy) (s : State) : State :=
  let q := c.queue
  dropRef c.frame (setCharge q (charge s q - c.n) (reserve s q) s)

/-- QUEUE_FRAMES of a queue: copies released into it and not yet gone, those in transmission included. -/
def showFrames (q : Nat) (s : State) : State :=
  let n := (tget [] s.swc.queues q).length
  let on := fun (t : Tab (Option Copy)) => match tget none t (q / 8) with
    | some c => b2n (c.queue == q)
    | none => 0
  s.sf (swcQueue q 0xC) 16 0 (n + on s.swc.tx + on s.swc.cut)

/-- The copy of a queue that its port is sending, or has cut: it stays in the queue until it leaves (R149). -/
def airCopy (s : State) (q : Nat) : Option Copy :=
  (((tget none s.swc.cut (q / 8)).toList ++ (tget none s.swc.tx (q / 8)).toList).filter (fun c => c.queue == q)).head?

/-- What follows a queue's copies: QUEUE_FRAMES, and for an empty queue a deficit of 0 and the end of its DRR visit
(R251). -/
def showQueue (q : Nat) (s : State) : State :=
  let s := showFrames q s
  if (tget [] s.swc.queues q).isEmpty && (airCopy s q).isNone then
    { s.wr (rg 7 (0x4014 + q * 0x20)) 0 with tmg := { s.tmg with visit := terase s.tmg.visit q } }
  else s

/-- The state with a queue replaced. -/
def setQueue (q : Nat) (l : List Copy) (s : State) : State :=
  showQueue q (s.withSwc (fun w => { w with queues := tput [] w.queues q l }))

/-! ### Admission (R144–R147) -/

/-- Why a copy is refused: the counter of its egress port (R146). -/
inductive Refused where
  | shared | limit | policer | linkDown
  deriving DecidableEq, Repr

/-- Count a refusal at its egress port. -/
def countRefused (p : Nat) (r : Refused) (s : State) : State :=
  match r with
  | .shared => (swcCount p 0x30 s).raise 4 4
  | .limit => swcCount p 0x34 s
  | .policer => swcCount p 0x38 s
  | .linkDown => swcCount p 0x3C s

/-- The last-queued copy of queue `q` that a copy of class `c` of frame `id` may push out (R145 condition 1). -/
def candidate (s : State) (c id q : Nat) : Option Copy :=
  if q % 8 < c ∧ q % 8 < 7 ∧ reserve s q < charge s q then
    ((tget [] s.swc.queues q).filter (fun x => x.frame != id)).getLast?
  else none

/-- Queues with a candidate. -/
def candidates (s : State) (c id : Nat) : List Nat :=
  (s.swc.queues.map (·.1)).filter (fun q => (candidate s c id q).isSome)

/-- The victim's queue (R145): of the lowest class, the queue of highest CHARGE; a tie goes to the lower number. -/
def victimQueue (s : State) (c id : Nat) : Option Nat :=
  let qs := candidates s c id
  match (qs.map (· % 8)).min? with
  | none => none
  | some k =>
    (qs.filter (fun q => q % 8 == k)).foldl (fun b q => match b with
      | none => some q
      | some x => if charge s x < charge s q then some q else some x) none

/-- Count an eviction in PUSHED_OUT of its egress port, and per TC. -/
def countPushed (p tc : Nat) (s : State) : State :=
  let s := swcCount p 0x40 s
  if tc < 4 then s.cntF (swcPort p 0x60) (8 * tc + 7) (8 * tc) 1
  else s.cntF (swcPort p 0x64) (8 * (tc - 4) + 7) (8 * (tc - 4)) 1

/-- Evict the last candidate of queue `q`. -/
def evict (s : State) (c id q : Nat) : State :=
  match candidate s c id q with
  | none => s
  | some v =>
    let l := (tget [] s.swc.queues q).reverse
    let s := setQueue q (l.erase v).reverse s
    countPushed (q / 8) (q % 8) (releaseCopy v s)

/-- Evict victims one after another until `d` shared tiles are free; none where they cannot raise it so far. -/
def pushOut (c id d : Nat) : Nat → State → Option State
  | 0, s => if d ≤ sharedFree s then some s else none
  | fuel + 1, s =>
    if d ≤ sharedFree s then some s
    else match victimQueue s c id with
      | none => none
      | some q => pushOut c id d fuel (evict s c id q)

/-- Copies in all queues. -/
def queuedCopies (s : State) : Nat := (s.swc.queues.map (fun e => e.2.length)).sum

/-- Whether a port refuses new copies because its link is down (R164). -/
def linkDownRefuses (s : State) (p : Nat) : Bool := !portUp s p && s.bit (swcPort p 0) 15

/-- R144: the state with the copy charged, or the reason for its refusal. -/
def enqueueCopy (c : Copy) (s : State) : State ⊕ Refused :=
  let q := c.queue
  let ch := charge s q
  let r := reserve s q
  if linkDownRefuses s c.port then .inr .linkDown
  else if ch + c.n > limit s q then .inr .limit
  else
    let d := (ch + c.n - r) - (ch - r)
    match pushOut c.tc c.frame d (queuedCopies s) s with
    | some s => .inl (setCharge q (charge s q + c.n) r s)
    | none => .inr .shared

/-! ### The resequencer (R150–R155) -/

/-- Lane of egress port `p` for a stream. -/
def laneKey (p stream : Nat) : Nat := p * 168 + stream

def lane (s : State) (p stream : Nat) : Lane := tget Lane.zero s.swc.lanes (laneKey p stream)

def setLane (p stream : Nat) (l : Lane) (s : State) : State :=
  s.withSwc (fun w => { w with lanes := tput Lane.zero w.lanes (laneKey p stream) l })

/-- How far number `n` is ahead of `e`, modulo 2^16. -/
def ahead (e n : Nat) : Nat := (n + 65536 - e) % 65536

/-- A lane's timeout (R152): E advances to the lowest number it holds. -/
def laneTimeout (p stream : Nat) (s : State) : State :=
  let l := lane s p stream
  match (l.items.map (fun i => ahead l.e i.1)).min? with
  | none => s
  | some d => (swcCount p 0x48 (setLane p stream { l with e := (l.e + d) % 65536 } s)).raise 4 2

/-- An item reaches a lane (R150, R153, R154): late, held, or held with an immediate timeout. -/
def laneItem (p stream num : Nat) (c : Option Copy) (s : State) : State :=
  let l := lane s p stream
  let d := ahead l.e num
  if d ≥ 32768 then
    match c with
    | some x => releaseCopy x (swcCount p 0x4C s)
    | none => s
  else
    let s := setLane p stream { l with items := l.items ++ [(num, c)] } s
    if d ≥ 128 then laneTimeout p stream s else s

/-- A hole for a numbered frame at every fitted port (R150). -/
def holesAll (f : Frame) (s : State) : State :=
  (fittedPorts s).foldl (fun s p => laneItem p (f.port * 8 + f.tc) f.seq none s) s

/-- Drop a numbered frame as a whole: holes everywhere, and its tiles freed. -/
def dropFrame (f : Frame) (s : State) : State := freeFrame f.id (holesAll f s)

/-! ### Entering the store (R137–R141) -/

/-- Ingress TC, VID, PCP, tagged, priority-tagged (R138). -/
def classify (s : State) (p : Nat) (bs : List Byte) : Nat × Nat × Nat × Bool × Bool :=
  let cfg := swcPort p 0
  if hasTag bs then
    let tci := tagTci bs
    let pcp := tci / 8192
    let tc := s.f (swcPort p 4) (3 * pcp + 2) (3 * pcp)
    let vid := tci % 4096
    (tc, if vid = 0 then s.f cfg 11 0 else vid, pcp, true, vid == 0)
  else (s.f cfg 18 16, s.f cfg 11 0, 0, false, false)

/-- VLAN entry of a VID. -/
def vlan (s : State) (vid : Nat) : Vlan := tget Vlan.zero s.swc.vlans vid

/-- Whether R139 passes a frame. -/
def acceptable (s : State) (p vid : Nat) (tagged prio : Bool) : Bool :=
  let cfg := swcPort p 0
  let a := s.f cfg 13 12
  !(a == 1 && (!tagged || prio)) && !(a == 2 && tagged && !prio) &&
  !(s.bit cfg 14 && !(vlan s vid).member.testBit p)

/-- FCLK cycles elapsed: two per TCLK tick. -/
def fclk (s : State) : Nat := 2 * s.sys.ticks

/-- SWC writes an arriving frame into tiles (R137–R141). `tcOver` overrides the ingress TC, and `ts` is TS_REQ and TS_TAG
of an IC descriptor (R294). Answers whether the frame was stored. -/
def storeFrame (p : Nat) (bs : List Byte) (macsec : Nat) (tcOver : Option Nat) (ts : Bool × Nat) (sec ns frac : Nat) (s : State) :
    State × Bool :=
  let n := tilesOf bs.length
  let full := fun (s : State) => ((swcCount p 0x28 s).raise 4 3, false)
  let area := s.f (rg 4 0x14) 16 0
  let used := ingressUsed s
  let free := freeTiles s
  let k := classify s p bs
  if area ≤ used ∨ free = 0 then full s
  else if acceptable s p k.2.1 k.2.2.2.1 k.2.2.2.2 = false then (swcCount p 0x2C s, false)
  else if area < used + n ∨ free < n then full s
  else
    let tc := tcOver.getD k.1
    let stream := p * 8 + tc
    let num := tget 0 s.swc.numbers stream
    let f : Frame :=
      { id := s.swc.nextId, bytes := bs, tiles := allocTiles s n, port := p, tc := tc, vid := k.2.1, pcp := k.2.2.1,
        tagged := k.2.2.2.1, prio := k.2.2.2.2, macsec := macsec, seq := num, rxSec := sec, rxNs := ns, rxFrac := frac,
        tsReq := ts.1, tsTag := ts.2, fclk := fclk s, refs := none }
    let fk := p * 2 + b2n (tc == 7)
    let s := s.withSwc (fun w => { w with frames := w.frames ++ [f], nextId := w.nextId + 1,
                                          numbers := tput 0 w.numbers stream ((num + 1) % 65536),
                                          fifo := tput [] w.fifo fk (tget [] w.fifo fk ++ [f.id]) })
    (swcCount p 0x20 (showFree (putTiles f.tiles bs s)), true)

/-! ### Flushing (R164, R165) -/

/-- Flush a queue: the copies released into it leave; answers copies and tiles released. -/
def flushQueue (q : Nat) (s : State) : State × Nat × Nat :=
  let l := tget [] s.swc.queues q
  let s := setQueue q [] s
  let s := l.foldl (fun s c => swcCount (q / 8) 0x58 (releaseCopy c s)) s
  (s, l.length, (l.map (·.n)).sum)

/-- Flush every queue of a port. -/
def flushPort (p : Nat) (s : State) : State :=
  (List.range 8).foldl (fun s t => (flushQueue (p * 8 + t) s).1) s

/-- SWC's part of a port going down (R164): the copy in transmission is discarded, and the queues are flushed where
LINKDOWN_FLUSH asks for it. -/
def swcLinkDown (p : Nat) (s : State) : State :=
  let gone := (tget none s.swc.tx p).toList ++ (tget none s.swc.cut p).toList
  let s := s.withSwc (fun w => { w with tx := terase w.tx p, cut := terase w.cut p })
  let s := gone.foldl (fun s c => showQueue c.queue (releaseCopy c (swcCount p 0x54 s))) s
  if s.bit (swcPort p 0) 15 then flushPort p s else s

end Sys2Proof.Machine
end

