-- ==== Sys2Proof/Machine/CruOps.lean ====
section
/-! DEFINITION. The operations of Crucible's key slots: attributes, uses, erasure, and the MACsec associations that
stop with a key (R390–R395, R409, R410, R292). -/

namespace Sys2Proof.Machine

def State.withCru (s : State) (f : CruState → CruState) : State := { s with cru := f s.cru }
/-! ### Key slots (R390, R391) -/

/-- Slot 0 before its first use: the fused device key, READY, WRAP only. -/
def deviceSlot : KeySlot :=
  { typ := 3, st := 1, usage := 0x10, limit := 0, uses := 0, gen := 0, key := (List.range 32).map Config.deviceKey }

/-- Default of a slot. -/
def keyDefault (n : Nat) : KeySlot := if n = 0 then deviceSlot else KeySlot.zero

def keySlot (s : State) (n : Nat) : KeySlot := tget (keyDefault n) s.cru.keys n

/-- The slot registers show the attributes. -/
def showKey (n : Nat) (k : KeySlot) (s : State) : State :=
  let r := fun o => rg 12 (0x8000 + n * 0x20 + o)
  let w := fun (v : Nat) => BitVec.ofNat 32 v
  ((((s.wr (r 0) (w (k.typ + k.st * 4 + k.usage * 256 + k.gen * 65536))).wr (r 4) (w k.uses)).wr (r 8)
    (w (k.uses / 2 ^ 32))).wr (r 0xC) (w k.limit)).wr (r 0x10) (w (k.limit / 2 ^ 32))

def setKey (n : Nat) (k : KeySlot) (s : State) : State :=
  showKey n k (s.withCru (fun c => { c with keys := tput (keyDefault n) c.keys n k }))

/-! ### MACsec associations that stop (R292, R394) -/

/-- ETH raises an event for a port. -/
def ethEvent (p i : Nat) (s : State) : State := (s.sb (rg 8 0x18) p true).raise 8 i

def txSa (s : State) (p a : Nat) : Option Sa := tget none s.eth.txSa (p * 4 + a)
def rxSa (s : State) (p c a : Nat) : Option Sa := tget none s.eth.rxSa (p * 32 + c * 4 + a)

def setTxSa (p a : Nat) (x : Option Sa) (s : State) : State :=
  s.withEth (fun e => { e with txSa := tput none e.txSa (p * 4 + a) x })

def setRxSa (p k : Nat) (x : Option Sa) (s : State) : State :=
  s.withEth (fun e => { e with rxSa := tput none e.rxSa (p * 32 + k) x })

/-- Whether an entry names the slot and has not stopped. -/
def runsOn (n : Nat) : Option Sa → Bool
  | some x => x.slot == n && !x.stopped
  | none => false

/-- Every SA that names slot `n` stops; each raises SA_EXHAUSTED once. -/
def stopSas (n : Nat) (s : State) : State :=
  let tx := s.eth.txSa.filter (fun e => runsOn n e.2)
  let rx := s.eth.rxSa.filter (fun e => runsOn n e.2)
  let stop := fun (x : Option Sa) => x.map (fun y => { y with stopped := true })
  let s := tx.foldl (fun s e => ethEvent (e.1 / 4) 9 (setTxSa (e.1 / 4) (e.1 % 4) (stop e.2) s)) s
  rx.foldl (fun s e => ethEvent (e.1 / 32) 9 (setRxSa (e.1 / 32) (e.1 % 32) (stop e.2) s)) s

/-! ### Uses (R395) -/

/-- One use of slot `n` starts: false, and nothing counted, where it would exceed LIMIT. -/
def useKey (n : Nat) (s : State) : Bool × State :=
  let k := keySlot s n
  if k.limit ≠ 0 ∧ k.limit < k.uses + 1 then (false, s)
  else
    let u := (k.uses + 1) % 2 ^ 64
    let full := k.limit ≠ 0 ∧ u = k.limit
    let s := setKey n { k with uses := u, st := if full then 2 else k.st } s
    let s := if k.limit ≠ 0 ∧ u = (9 * k.limit + 9) / 10 then (s.wr (rg 12 0x10) (BitVec.ofNat 32 n)).raise 12 0 else s
    (true, if full then stopSas n ((s.wr (rg 12 0x10) (BitVec.ofNat 32 n)).raise 12 1) else s)

/-! ### Erasure (R394, R410) -/

/-- A slot becomes EMPTY with its attributes zeroed, and its GENERATION counts. -/
def eraseKey (n : Nat) (s : State) : State :=
  stopSas n (setKey n { KeySlot.zero with gen := ((keySlot s n).gen + 1) % 65536 } s)

/-- The key of a slot that is not EMPTY. -/
def keyOf (s : State) (n : Nat) : Option (List Byte) := if (keySlot s n).st = 0 then none else some (keySlot s n).key

/-- A key slot a payload names at offset `o`: in range, and allowed by CRU's mask (step 9 of R67, R412). -/
def slotCheckCru (range : Nat) (c : Cmd) (o n : Nat) (s : State) (k : CmdOut) : CmdOut :=
  if 1023 < n then badParam range o 0
  else if (s.aclEntry 12 c.issuer).mask.getLsbD (keyMaskBit n) then k
  else .fail stDenied 0x11 o (keyMaskBit n)

/-- Draw from the entropy source. -/
def drawEntropy (s : State) : Nat × State := (s.fresh, { s with fresh := s.fresh + 1 })

/-- The 32 bytes of a draw. -/
def drawBytes (n k : Nat) : List Byte := (List.range k).map (Config.entropy n)

/-- A fresh context key (R405). -/
def newContextKey (s : State) : State :=
  let d := drawEntropy s
  d.2.withCru (fun c => { c with ctxKey := d.1 })

/-- Increment the GENERATION of every user slot: those never loaded keep a count of their own. -/
def eraseSlots (s : State) : State := (List.range 1023).foldl (fun s i => eraseKey (i + 1) s) s

end Sys2Proof.Machine
end

