-- ==== Sys2Proof/Machine/CruJob.lean ====
section
/-! DEFINITION. Crucible's jobs: their slots, their checks, their computation, contexts and completion records
(R396–R406, R411). -/

namespace Sys2Proof.Machine

/-! ### Rings -/

def cruRing (n off : Nat) : Nat := rg 12 (0x1000 + n * 0x40 + off)

/-- The ring that GWY drives while GWY.CFG.AUTH_EN = 1 (R397). -/
def gwyRing (s : State) (n : Nat) : Bool := s.bit (rg 10 0) 12 && s.f (rg 10 0) 11 8 == n

def cruOwner (s : State) (n : Nat) : Nat := if gwyRing s n then 0x2A else s.f (cruRing n 0xC) 6 0

/-- FORMAT of a ring: SZG1 or native. -/
def cruSzg (s : State) (n : Nat) : Bool := !gwyRing s n && s.bit (cruRing n 8) 8

/-- Count a failure by its DETAIL code. -/
def countCode (code : Nat) (s : State) : State :=
  if code = 0x103 ∨ code = 0x109 then s.cnt (rg 12 0x108) 1
  else if code = 0x100 ∨ code = 0x101 ∨ code = 0x102 then s.cnt (rg 12 0x10C) 1
  else if code = 0x10B then s.cnt (rg 12 0x114) 1
  else s

/-- A job is counted as it completes (R403). -/
def countJob (st code : Nat) (s : State) : State := countCode code (s.cnt (rg 12 (if st = 0 then 0x100 else 0x104)) 1)

/-- The registers of ring `n` show its jobs, those of GWY where it drives the ring. -/
def cruShow (n : Nat) (s : State) : State :=
  let mine := s.cru.jobs.filter (fun j => j.ring == n)
  let gwy := if gwyRing s n then (s.gwy.waits.filter (fun w => w.job.isSome)).length else 0
  let r := cruRing n 0x20
  let s := (s.sf r 11 4 (mine.length + gwy)).sb r 0
    (!(s.bit (cruRing n 8) 0 && !gwyRing s n) && mine.isEmpty && gwy == 0)
  match mine.head? with
  | some j => s.sf r 15 12 j.core
  | none => s

def cruSlots (s : State) (n : Nat) : Nat := 2 ^ s.f (cruRing n 8) 4 1

def cruBase (s : State) (n : Nat) : Nat := s.f (cruRing n 4) 7 0 * 2 ^ 32 + s.f (cruRing n 0) 31 12 * 4096

/-- Bytes of a job slot and of a completion record of a FORMAT (R396). -/
def jobBytes (szg : Bool) : Nat := if szg then 32 else 64
def doneBytes (szg : Bool) : Nat := if szg then 8 else 16

/-- Physical address of a byte of a job of owner `o`: in the windows of master 0x29 and of the owner, after the
owner's translation (R398). -/
def cruPhys (s : State) (o a : Nat) (wr : Bool) : Option Nat :=
  match s.physByte o a wr with
  | some x => if s.reaches 0x29 x wr then some x else none
  | none => none

def cruBad (s : State) (o a n : Nat) (wr : Bool) : Option Nat :=
  ((List.range n).map (a + ·)).find? (fun x => (cruPhys s o x wr).isNone)

def cruBytes (s : State) (o a n : Nat) : List Byte :=
  (List.range n).map (fun i => match cruPhys s o (a + i) false with
    | some x => s.busRd x
    | none => 0)

/-- An access of a job of owner `o` is refused: logged, and by the IOMMU too where the owner's translation faults (R398,
R422). -/
def cruRefuse (o a : Nat) (wr : Bool) (s : State) : State :=
  match iommuDev o, s.xlate o a wr with
  | some d, none => s.devFault d 0x29 a wr
  | _, some p => if s.reaches o p wr then s.physFault 0x29 a p wr else s.busError 0x29 a wr
  | _, none => s.busError 0x29 a wr

/-- Write bytes until the first that the owner may not reach; answers how many were written. -/
def cruPut (o a : Nat) (data : List Byte) (s : State) : Nat × State :=
  let n := match cruBad s o a data.length true with | some x => x - a | none => data.length
  let t := s.putAll ((List.range n).filterMap (fun i => (cruPhys s o (a + i) true).map (·, data.getD i 0)))
  (n, if n < data.length then cruRefuse o (a + n) true t else t)

/-- What a read of a job of owner `o` leaves. -/
def cruRead (o a n : Nat) (s : State) : State := s.readOut ((List.range n).filterMap (fun i => cruPhys s o (a + i) false))

/-! ### Job slots (R401, R411) -/

/-- The fields of a job, native or SZG1. -/
structure JobSpec where
  mode : Nat
  dir : Bool
  init : Bool
  final : Bool
  ctxIn : Bool
  ctxOut : Bool
  ctxWrap : Bool
  key : Nat
  dataLen : Nat
  aadLen : Nat
  tagLen : Nat
  ivLen : Nat
  dest : Option Nat
  src : Nat
  dst : Nat
  ctx : Nat
  iv : List Byte
  ivAddr : Nat
  tag : List Byte
  /-- Reserved fields are zero. -/
  clean : Bool

/-- A native job slot. -/
def nativeJob (d : List Byte) : JobSpec :=
  let c := leAt d 0 4
  let w := leAt d 8 4
  let e := leAt d 12 2
  { mode := c % 16, dir := c.testBit 4, init := c.testBit 5, final := c.testBit 6, ctxIn := c.testBit 7,
    ctxOut := c.testBit 8, ctxWrap := c.testBit 9, key := c / 65536 % 1024, dataLen := leAt d 4 4, aadLen := w % 65536,
    tagLen := w / 65536 % 32, ivLen := w / 2 ^ 24 % 32, dest := if e.testBit 15 then some (e % 1024) else none,
    src := leAt d 16 8, dst := leAt d 24 8, ctx := leAt d 32 8, iv := slice d 40 16, ivAddr := 0, tag := slice d 56 4,
    clean := c / 1024 % 64 == 0 && c / 2 ^ 26 == 0 && w / 2 ^ 21 % 8 == 0 && w / 2 ^ 29 == 0 && e / 1024 % 32 == 0 &&
      leAt d 14 2 == 0 && leAt d 60 4 == 0 && decide (leAt d 4 4 ≤ 16777216) }

/-- An SZG1 job slot, in the fields of a native one. -/
def szgJob (d : List Byte) : JobSpec :=
  let c := leAt d 0 1
  let m := c % 8
  { mode := if m = 3 then 5 else if m = 4 then 6 else if m < 3 then m else 15, dir := c.testBit 3, init := true,
    final := true, ctxIn := false, ctxOut := false, ctxWrap := false, key := leAt d 2 2 % 1024, dataLen := leAt d 4 4,
    aadLen := 0, tagLen := if m = 3 then 16 else 0, ivLen := if m = 1 ∨ m = 2 then 16 else 0, dest := none,
    src := leAt d 8 8, dst := leAt d 16 8, ctx := 0, iv := [], ivAddr := leAt d 24 8, tag := [],
    clean := c / 16 == 0 && leAt d 1 1 == 0 && decide (leAt d 2 2 < 1024) && decide (leAt d 4 4 ≤ 1048576) &&
      !(m == 3 && c.testBit 3) && !((m == 1 || m == 2) && leAt d 24 8 == 0) }

/-! ### Checks (R399, R402) -/

/-- Lengths of a mode (R402). -/
def modeForm (j : JobSpec) : Bool :=
  let gtag := j.tagLen == 4 || j.tagLen == 8 || (decide (12 ≤ j.tagLen) && decide (j.tagLen ≤ 16))
  let noAad := j.aadLen == 0
  j.clean && (j.dest.isNone || ((j.mode == 6 || j.mode == 7) && j.dir)) &&
  match j.mode with
  | 0 => j.ivLen == 0 && j.tagLen == 0 && noAad && j.dataLen % 16 == 0
  | 1 => j.ivLen == 16 && j.tagLen == 0 && noAad && j.dataLen % 16 == 0
  | 2 => j.ivLen == 16 && j.tagLen == 0 && noAad
  | 3 => j.ivLen == 12 && gtag
  | 4 => j.ivLen == 12 && gtag && j.dataLen == 0
  | 5 => j.ivLen == 0 && decide (1 ≤ j.tagLen) && decide (j.tagLen ≤ 16) && noAad
  | 6 => j.ivLen == 0 && j.tagLen == 0 && noAad && j.dataLen % 8 == 0 && decide (16 ≤ j.dataLen) && decide (j.dataLen ≤ 4096)
  | 7 => j.ivLen == 0 && j.tagLen == 0 && noAad && decide (1 ≤ j.dataLen) && decide (j.dataLen ≤ 4096)
  | _ => false

/-- The chain flags (R402): a job that is not the first restores a context, one that is not the last saves one. -/
def chainForm (j : JobSpec) : Bool :=
  (j.final || j.dataLen % 16 == 0) && (j.init || j.aadLen == 0) && (j.ctxIn == !j.init) && (j.ctxOut == !j.final) &&
  !((j.mode == 0 || j.mode == 6 || j.mode == 7 || (j.mode == 3 && j.dir)) && !(j.init && j.final))

/-- USAGE bit an operation needs (R390). -/
def usageBit (j : JobSpec) : Nat :=
  if j.mode ≤ 3 then (if j.dir then 1 else 0) else if j.mode ≤ 5 then (if j.dir then 3 else 2) else 4

/-- The blocks of a CTR job must not wrap the counter's low 32 bits. -/
def ctrWraps (counter : List Byte) (n : Nat) : Bool := decide (2 ^ 32 < beAt counter 12 4 + (n + 15) / 16)

/-! ### Contexts (R404, R405) -/

def Chain.zero : Chain := { block := [], counter := [], acc := 0, j0 := [], aadLen := 0, done := 0, held := [] }

/-- The chain a first job starts from. -/
def Chain.start (j : JobSpec) : Chain :=
  { Chain.zero with block := if j.mode = 5 then List.replicate 16 0 else j.iv,
                    counter := if j.mode = 3 ∨ j.mode = 4 then ctrAdd (gcmJ0 j.iv) 1 else j.iv,
                    j0 := gcmJ0 j.iv }

/-- The 496 state bytes of a context, laid out as the model chooses (log entry 18). -/
def Chain.bytes (c : Chain) : List Byte :=
  slice (slice c.block 0 16 ++ slice c.counter 0 16 ++ toBlock c.acc ++ slice c.j0 0 16 ++ leBytes 8 c.aadLen ++
    leBytes 8 c.held.length ++ slice c.held 0 16) 0 496

def Chain.ofBytes (done : Nat) (b : List Byte) : Chain :=
  { block := slice b 0 16, counter := slice b 16 16, acc := ofBlock (slice b 32 16), j0 := slice b 48 16,
    aadLen := leAt b 64 8, done := done, held := slice b 80 (min 16 (leAt b 72 8)) }

/-- Header of a context. -/
def ctxHeader (s : State) (j : JobSpec) (done : Nat) : List Byte :=
  leBytes 1 (if j.ctxWrap then 2 else 1) ++ leBytes 1 j.mode ++ leBytes 2 j.key ++ leBytes 2 (keySlot s j.key).gen ++
  [0, 0] ++ leBytes 8 done

def contextKey (s : State) : List Byte := drawBytes s.cru.ctxKey 32

/-- The context area a job saves. -/
def saveContext (j : JobSpec) (c : Chain) (s : State) : List Byte × State :=
  let h := ctxHeader s j c.done
  if j.ctxWrap then
    let d := drawEntropy s
    let iv := drawBytes d.1 12
    let e := gcmSeal (contextKey s) iv h (h ++ c.bytes)
    (h ++ iv ++ e.1 ++ e.2 ++ [0, 0, 0, 0], d.2)
  else (h ++ c.bytes, s)

/-- Why a job is not done: its status and DETAIL code, and the address of an access refused. -/
structure JobFail where
  status : Nat
  code : Nat
  refused : Option Nat := none

/-- The failure of a refused access (R398). -/
def bufferFault (a : Nat) : JobFail := ⟨stAborted, 0x14, some a⟩

/-- Restore a context: the chain, or what refuses it (R404). -/
def restoreContext (o : Nat) (j : JobSpec) (s : State) : Chain ⊕ JobFail :=
  match cruBad s o j.ctx 16 false with
  | some a => .inr (bufferFault a)
  | none =>
    let h := cruBytes s o j.ctx 16
    let fmt := leAt h 0 1
    if (fmt ≠ 1 ∧ fmt ≠ 2) ∨ leAt h 1 1 ≠ j.mode ∨ leAt h 2 2 ≠ j.key then .inr ⟨stBadParam, 0x107, none⟩
    else if leAt h 4 2 ≠ (keySlot s j.key).gen then .inr ⟨stWrongState, 0x108, none⟩
    else
      let len := if fmt = 2 then 560 else 512
      match cruBad s o j.ctx len false with
      | some a => .inr (bufferFault a)
      | none =>
        let b := cruBytes s o j.ctx len
        if fmt = 1 then .inl (Chain.ofBytes (leAt h 8 8) (b.drop 16))
        else match gcmOpen (contextKey s) (slice b 16 12) h (slice b 28 512) (slice b 540 16) with
          | some x => .inl (Chain.ofBytes (leAt h 8 8) (x.drop 16))
          | none => .inr ⟨stIntegrity, 0x109, none⟩

/-- The fields of a job slot by its format. -/
def jobOf (d : List Byte) : JobSpec := if d.length = 64 then nativeJob d else szgJob d

/-- A job in a core, or of GWY, holds the key of slot `n`. -/
def keyHeld (s : State) (n : Nat) : Bool :=
  s.cru.jobs.any (fun j => j.failed.isNone && (jobOf j.slot).key == n) ||
    s.gwy.waits.any (fun w => match w.job with | some x => x.profile.key == n | none => false)

/-- CRU_KEY_ERASE commands whose jobs have all completed reply (R394). -/
def endErases (s : State) : State :=
  endRunning (fun c => c.opcode == 0x0C03 && !keyHeld s c.inst) (fun _ => Fail.ok) (fun _ => []) s

/-! ### Computation -/

/-- Output, tag and chain of a job over its data (R402): the tag is empty until FINAL. -/
def compute (key : List Byte) (j : JobSpec) (c : Chain) (aad data : List Byte) : List Byte × List Byte × Chain :=
  let rk := roundKeys key
  let n := data.length
  let done := c.done + n
  match j.mode with
  | 0 => ((blocksOf data).flatMap (if j.dir then aesBlockInv rk else aesBlock rk), [], { c with done := done })
  | 1 =>
    let x := if j.dir then cbcDec rk c.block data else cbcEnc rk c.block data
    (x.1, [], { c with block := x.2, done := done })
  | 2 => (ctrMode rk c.counter data, [], { c with counter := ctrAdd c.counter ((n + 15) / 16), done := done })
  | 3 | 4 =>
    let h := gcmH rk
    let y := if j.init then ghash h 0 aad else c.acc
    let aadLen := if j.init then aad.length else c.aadLen
    let out := ctrMode rk c.counter data
    let y := ghash h y out
    (out, if j.final then (gcmTag rk c.j0 y aadLen done).take j.tagLen else [],
      { c with counter := ctrAdd c.counter ((n + 15) / 16), acc := y, aadLen := aadLen, done := done })
  | 5 =>
    let m := c.held ++ data
    let k := headLen m.length
    let x := cmacAbsorb rk c.block (m.take k)
    ([], if j.final then (cmacLast rk x (m.drop k)).take j.tagLen else [],
      { c with block := x, held := m.drop k, done := done })
  | _ => ([], [], c)

end Sys2Proof.Machine
end

