-- ==== Sys2Proof/Machine/GwyOps.lean ====
section
/-! DEFINITION. The operations of the gateway engine: routes, authentication, holding, targets, queues and tunnels
(R332–R360). -/

namespace Sys2Proof.Machine

def State.withGwy (s : State) (f : GwyState → GwyState) : State := { s with gwy := f s.gwy }
def gwyCount (off : Nat) (s : State) : State := s.cnt (rg 10 off) 1

/-! ### Keys and routes (R335–R339) -/

/-- Valid SOURCE values. -/
def srcOk (n : Nat) : Bool :=
  decide (n ≤ 23) || (decide (32 ≤ n) && decide (n ≤ 48)) || (decide (256 ≤ n) && decide (n ≤ 511))

def keySrc (k : Nat) : Nat := k / 2 ^ 32 % 512

/-- The form of a key (R335). -/
def routeKeyForm (k : Nat) : Bool :=
  let id := k % 2 ^ 29
  let ide := k.testBit 29
  let xl := k.testBit 30
  let src := keySrc k
  !k.testBit 31 && decide (k < 2 ^ 46) && srcOk src && (decide (256 ≤ src) || k / 2 ^ 41 == 0) &&
  (ide || decide (id ≤ 0x7FF)) && !(xl && ide) &&
  !(decide (16 ≤ src) && decide (src ≤ 23) && (decide (63 < id) || ide || xl))

def Msg.key (m : Msg) : Nat :=
  m.frame.id % 2 ^ 29 + b2n m.frame.ide * 2 ^ 29 + b2n (m.frame.fmt == 3) * 2 ^ 30 + m.src * 2 ^ 32 + m.bus % 32 * 2 ^ 41

/-- Bucket of a key (R336). -/
def keyBucket (k : Nat) : Nat := (crc32c (leBytes 8 k)).toNat % 4096

def route (s : State) (i : Nat) : Option Route := tget none s.gwy.routes i
def setRoute (i : Nat) (r : Option Route) (s : State) : State :=
  s.withGwy (fun g => { g with routes := tput none g.routes i r })

def Route.key (r : Route) : Nat := leAt r.bytes 0 8

/-- Index of the route of a key. -/
def findRoute (s : State) (k : Nat) : Option Nat :=
  ((List.range 4).map (fun w => keyBucket k * 4 + w)).find? (fun i => match route s i with
    | some r => r.key == k
    | none => false)

/-- Lookup of a message (R337). -/
def lookupRoute (s : State) (m : Msg) : Option Nat :=
  match findRoute s m.key with
  | some i => some i
  | none => (tget none s.gwy.defaults m.src).bind (fun k => findRoute s (leAt k 0 8))

def entryAuth (e : List Byte) : Nat := leAt e 8 1 % 4
def entryAge (e : List Byte) : Nat := leAt e 12 4
def entryTargets (e : List Byte) : List (List Byte) := (List.range 4).map (fun i => slice e (16 + 8 * i) 8)

/-! ### Targets (R339) -/

def tKind (t : List Byte) : Nat := leAt t 0 1
def tIndex (t : List Byte) : Nat := leAt t 1 1
def tFlag (t : List Byte) (i : Nat) : Bool := (leAt t 2 1).testBit i
def tWord (t : List Byte) : Nat := leAt t 4 4

/-- The form of a target. -/
def targetForm (t : List Byte) : Bool :=
  let fl := leAt t 2 1
  let b3 := leAt t 3 1
  let w := tWord t
  let i := tIndex t
  let plain := fl / 64 == 0 && !tFlag t 0 && !tFlag t 1 && !tFlag t 5
  match tKind t with
  | 0 => leAt t 1 7 == 0
  | 1 => decide (i ≤ 15) && fl / 64 == 0 && decide (b3 ≤ 15) &&
    (if tFlag t 0 then decide (w < 2 ^ 30) && (w.testBit 29 || decide (w ≤ 0x7FF)) else w == 0)
  | 2 => decide (16 ≤ i) && decide (i ≤ 23) && plain && b3 == 0 && decide (w < 64)
  | 3 => plain && !tFlag t 4 && decide (b3 ≤ 31) && w == 0
  | 4 => decide (i ≤ 15) && plain && b3 == 0 && w == 0
  | _ => false

/-- The next legal FD length (R305). -/
def fdLen (n : Nat) : Nat := ([0, 1, 2, 3, 4, 5, 6, 7, 8, 12, 16, 20, 24, 32, 48, 64].find? (fun k => decide (n ≤ k))).getD 64

/-- Data padded with zeros to `n` bytes. -/
def padTo (n : Nat) (bs : List Byte) : List Byte := bs ++ List.replicate (n - bs.length) 0

/-- The CAN frame of a copy (R348); none where it cannot be built. -/
def canForm (t : List Byte) (m : Msg) : Option Can :=
  let f := m.frame
  let fmt := if tFlag t 1 then leAt t 2 1 / 4 % 4 else f.fmt
  let new := tFlag t 0
  let id := if new then tWord t % 2 ^ 29 else f.id
  let ide := if new then (tWord t).testBit 29 else f.ide
  let rtr := f.fmt == 0 && f.rr
  let n := f.data.length
  let out : Can := { Can.zero with fmt := fmt, id := id, ide := ide, data := f.data }
  match fmt with
  | 0 => if n ≤ 8 then some { out with rr := rtr } else none
  | 3 => if rtr || ide || decide (0x7FF < id) || n == 0 || decide (2048 < n) then none
         else if f.fmt = 3 then some { out with sdt := f.sdt, vcid := f.vcid, sec := f.sec, af := f.af } else some out
  | _ => if rtr || decide (64 < n) then none else some { out with data := padTo (fdLen n) f.data }

/-! ### Tunnels (R353–R356) -/

def tunnel (s : State) (t : Nat) : Tunnel := tget Tunnel.zero s.gwy.tunnels t
def setTunnel (t : Nat) (x : Tunnel) (s : State) : State :=
  s.withGwy (fun g => { g with tunnels := tput Tunnel.zero g.tunnels t x })

def Tunnel.en (x : Tunnel) : Bool := bitOf x.flags 0
def Tunnel.stamp (x : Tunnel) : Nat := fld x.flags 3 2

/-- msg_type and msg_length, then the header and the payload padded to whole quadlets. -/
def acfPack (typ b2 : Nat) (rest data : List Byte) : List Byte :=
  let pad := (4 - data.length % 4) % 4
  let n := 3 + rest.length + data.length + pad
  beBytes 2 (typ * 512 + n / 4) ++ beBytes 1 (b2 + pad * 64) ++ rest ++ data ++ List.replicate pad 0

/-- The ACF message of a copy (R355); none where it cannot be built. -/
def acfOf (s : State) (x : Tunnel) (bus : Nat) (m : Msg) : Option (List Byte) :=
  let f := m.frame
  let ts := if x.stamp = 1 then m.rx else m.release.getD (m.rx + x.latencyUs * 1000)
  let stamp := beBytes 8 (if x.stamp = 0 then 0 else ts)
  let mtv := b2n (x.stamp != 0) * 32
  let typ := s.f (rg 10 4) 6 0
  if m.lin then
    if f.data.length = 0 ∨ 8 < f.data.length then none
    else some (acfPack 3 (mtv + bus) (beBytes 1 (f.id % 64) ++ stamp) f.data)
  else if f.fmt = 3 then
    if typ = 0 ∨ 2020 < f.data.length then none
    else some (acfPack typ (mtv + b2n f.sec * 16 + b2n f.rr * 8) (beBytes 1 bus ++ stamp ++ beBytes 2 (f.id % 2048) ++
      beBytes 1 f.sdt ++ beBytes 1 f.vcid ++ beBytes 4 f.af ++ beBytes 2 f.data.length ++ [0, 0]) f.data)
  else
    let b2 := b2n (f.fmt == 0 && f.rr) * 16 + b2n f.ide * 8 + b2n (f.fmt == 2) * 4 + b2n (f.fmt != 0) * 2 + b2n f.esi
    if bitOf x.flags 1 then some (acfPack 2 b2 (beBytes 1 bus ++ beBytes 4 f.id) f.data)
    else some (acfPack 1 (mtv + b2) (beBytes 1 bus ++ stamp ++ beBytes 4 f.id) f.data)

/-- GWY's source address. -/
def gwyMac (s : State) : List Byte := leBytes 4 (s.rd (rg 10 0xC)).toNat ++ leBytes 2 (s.rd (rg 10 0x10)).toNat

/-- A frame of GWY enters the switch through IG, padded and with its FCS (R141, R237). -/
def igSend (bs : List Byte) (s : State) : State :=
  let bs := padTo 60 bs
  (storeFrame 19 (bs ++ fcs bs) 0 none (false, 0) s.tim.sec.toNat s.tim.ns (s.tim.frac.toNat / 65536) s).1

/-- Send the open bundle of a tunnel (R354, R356). -/
def closeBundle (t : Nat) (s : State) : State :=
  let x := tunnel s t
  if x.bundle.isEmpty then s
  else
    let body := x.bundle.flatten
    let n := body.length
    let head := x.da ++ gwyMac s ++ beBytes 2 0x8100 ++ beBytes 2 x.vidPcp ++ beBytes 2 0x22F0 ++
      beBytes 1 0x82 ++ beBytes 2 (0x8000 + n % 2048) ++ beBytes 1 x.seqOut ++ x.streamOut.reverse
    let s := setTunnel t { x with bundle := [], seqOut := (x.seqOut + 1) % 256 } s
    igSend (head ++ body) (gwyCount 0x148 s)

/-- A message enters the bundle of a tunnel. -/
def bundleEnter (t : Nat) (a : List Byte) (s : State) : State :=
  let used := ((tunnel s t).bundle.map List.length).sum
  let s := if (tunnel s t).maxPayload < used + a.length then closeBundle t s else s
  let x := tunnel s t
  let s := setTunnel t { x with bundle := x.bundle ++ [a] } s
  if x.bundleMax ≤ x.bundle.length + 1 then closeBundle t s else s

/-! ### Held messages (R344, R347) -/

def findHeld (s : State) (id : Nat) : Option Held := s.gwy.held.find? (fun h => h.id == id)

/-- GWY frees a block through Quarry. -/
def freeHeld (h : Held) (s : State) : State :=
  (free h.req h.block (s.withGwy (fun g => { g with held := g.held.filter (fun x => x.id != h.id) }))).2

/-- One copy of a held message was handed on or dropped. -/
def dropHeld (id : Nat) (s : State) : State :=
  match findHeld s id with
  | none => s
  | some h =>
    if h.refs ≤ 1 then freeHeld h s
    else s.withGwy (fun g => { g with held := g.held.map (fun x => if x.id == id then { x with refs := x.refs - 1 } else x) })

def dropHeldOf (m : Option Nat) (s : State) : State :=
  match m with
  | some id => dropHeld id s
  | none => s

/-- A message dropped for Quarry. -/
def qryDrop (s : State) : State := (gwyCount 0x110 s).raise 10 2

/-- A refused access to a message's block: the message goes with every copy not yet handed on. -/
def loseHeld (h : Held) (a : Nat) (wr : Bool) (s : State) : State :=
  let s := s.accessFault 0x2A a wr
  let s := s.withGwy (fun g => { g with timed := g.timed.filter (fun x => x.mid != h.id),
                                        queues := (g.queues.map (fun e =>
    (e.1, e.2.filter (fun c => c.mid != some h.id)))).filter (fun e => !e.2.isEmpty) })
  qryDrop (freeHeld h s)

/-- The data of a held message read from its block, or the address refused. -/
def heldData (s : State) (h : Held) : List Byte ⊕ Nat :=
  match s.badByte 0x2A h.block (40 + h.len) false with
  | some a => .inr a
  | none => .inl (s.dmaBytes 0x2A (h.block + 40) h.len)

/-- A held message is too old to hand on. -/
def stale (s : State) (h : Held) : Bool :=
  h.maxAge != 0 && decide (h.msg.release.getD h.msg.rx + h.maxAge * 1000 < s.nowUp)

/-- A copy dropped with a counter. -/
def dropCopy (off id : Nat) (s : State) : State := dropHeld id (gwyCount off s)

/-- The host record layout (R359). -/
def hostRecord (m : Msg) (i : Nat) : List Byte :=
  let f := m.frame
  let e := m.errs
  let lin := b2n (e.testBit 0) * 16 + b2n (e.testBit 1) * 32 + b2n (e.testBit 2) * 64 + b2n (e.testBit 3 || e.testBit 4) * 128
  leBytes 4 (m.rx % 1000000000) ++ leBytes 6 (m.rx / 1000000000) ++ leBytes 2 f.data.length ++
  leBytes 4 (f.id % 2 ^ 29 + b2n f.ide * 2 ^ 29 + b2n f.rr * 2 ^ 30 + b2n (f.fmt == 3) * 2 ^ 31) ++
  leBytes 2 (m.src + m.bus * 512) ++ leBytes 1 (f.fmt + b2n m.release.isSome * 4 + b2n m.authOk * 8 + lin) ++ [0] ++
  leBytes 4 i ++ leBytes 8 (m.release.getD 0) ++ leBytes 4 f.af ++ leBytes 1 f.sdt ++ leBytes 1 f.vcid ++
  leBytes 1 (b2n f.sec) ++ [0] ++ f.data

/-! ### Channel queues and blocking (R348, R349) -/

def gwyBlocked (s : State) (inst : Nat) : Bool := s.bit (rg 10 8) inst
def canQueue (s : State) (ch : Nat) : List CanCopy := tget [] s.gwy.queues ch
def setCanQueue (ch : Nat) (l : List CanCopy) (s : State) : State :=
  s.withGwy (fun g => { g with queues := tput [] g.queues ch l })

/-- CLN reports a channel's state to GWY. -/
def gwyReport (inst : Nat) (s : State) : State :=
  let b := if inst < 16 then canState s inst != 2 else (linState s (inst - 16) == 0 || linState s (inst - 16) == 3)
  if gwyBlocked s inst = b then s
  else
    let s := (s.sb (rg 10 8) inst b).raise 10 5
    if b then
      let l := canQueue s inst
      l.foldl (fun s c => dropHeldOf c.mid (gwyCount 0x11C s)) (setCanQueue inst [] s)
    else s

/-- Replace the first queued copy of one identifier in place. -/
def replaceCopy (c : CanCopy) : List CanCopy → Option (CanCopy × List CanCopy)
  | [] => none
  | x :: r =>
    if x.frame.id == c.frame.id && x.frame.ide == c.frame.ide && (x.frame.fmt == 3) == (c.frame.fmt == 3) then some (x, c :: r)
    else (replaceCopy c r).map (fun t => (t.1, x :: t.2))

/-- A released copy joins its channel's queue; answers whether it did. -/
def canJoin (ch : Nat) (c : CanCopy) (latest : Bool) (s : State) : State × Bool :=
  if gwyBlocked s ch then (dropHeldOf c.mid (gwyCount 0x11C s), false)
  else match (if latest then replaceCopy c (canQueue s ch) else none) with
    | some (old, l) => (dropHeldOf old.mid (gwyCount 0x124 (setCanQueue ch l s)), true)
    | none =>
      if 512 ≤ (canQueue s ch).length then (dropHeldOf c.mid ((gwyCount 0x120 s).raise 10 4), false)
      else (setCanQueue ch (canQueue s ch ++ [c]) s, true)

/-- Whether an identifier has a gateway buffer in WAITING, PENDING or TX. -/
def idBusy (s : State) (ch : Nat) (f : Can) : Bool :=
  (List.range 64).any (fun i =>
    let b := buf s ch i
    decide (gwFirst s ch ≤ i) && decide (1 ≤ b.st) && decide (b.st ≤ 3) && b.frame.id == f.id && b.frame.ide == f.ide)

/-- The queued copy that would win arbitration, ties to the earlier. -/
def bestCopy (s : State) (ch : Nat) : Option CanCopy :=
  (canQueue s ch).foldl (fun b c =>
    if idBusy s ch c.frame then b
    else match b with
      | none => some c
      | some x => if c.frame.arb < x.frame.arb then some c else b) none

/-- A gateway buffer that can take a length. -/
def freeBuffer (s : State) (ch n : Nat) : Option Nat :=
  firstBelow (fun i => decide (gwFirst s ch ≤ i) && (buf s ch i).loadable && decide (storeShare n ≤ storeFree s ch i)) 64

/-- Load a gateway buffer (R348); copies too old are dropped as they would be loaded (R347). -/
def gwLoad (ch : Nat) : Nat → State → State
  | 0, s => s
  | fuel + 1, s =>
    match bestCopy s ch with
    | none => s
    | some c =>
      match freeBuffer s ch c.frame.data.length with
      | none => s
      | some i =>
        let out := setCanQueue ch ((canQueue s ch).erase c) s
        let load := fun (f : Can) => dropHeldOf c.mid (loadBuf ch i f c.limit 0 0 0 out)
        match c.mid.bind (findHeld s) with
        | none => load c.frame
        | some h =>
          if stale s h then gwLoad ch fuel (dropCopy 0x128 h.id out)
          else match heldData s h with
            | .inr a => gwLoad ch fuel (loseHeld h a false s)
            | .inl d => load { c.frame with data := slice d 0 c.frame.data.length }

/-! ### Host queues (R360) -/

def hostReg (n off : Nat) : Nat := rg 10 (0x1000 + n * 0x40 + off)
def hostSlots (s : State) (n : Nat) : Nat := 2 ^ s.f (hostReg n 0x10) 4 1
def hostSlot (s : State) (n : Nat) : Nat := 2 ^ s.f (hostReg n 0x10) 8 5
def hostBase (s : State) (n off : Nat) : Nat :=
  s.f (hostReg n (off + 4)) 7 0 * 2 ^ 32 + s.f (hostReg n off) 31 6 * 64

/-- A copy dropped at a host queue. -/
def hostDrop (n : Nat) (s : State) : State := ((gwyCount 0x144 s).cnt (hostReg n 0x24) 1).raise 10 8

/-- Write a record into a delivery ring. -/
def hostDeliver (n : Nat) (rec_ : List Byte) (s : State) : State :=
  let tail := s.f (hostReg n 0x18) 15 0
  let next := (tail + 1) % hostSlots s n
  let a := hostBase s n 0 + tail * hostSlot s n
  if s.bit (hostReg n 0x10) 0 = false ∨ next = s.f (hostReg n 0x14) 15 0 ∨ hostSlot s n < rec_.length then hostDrop n s
  else match s.badByte 0x2A a rec_.length true with
    | some x => hostDrop n (s.accessFault 0x2A x true)
    | none =>
      let s := (s.dmaPut 0x2A a rec_).wr (hostReg n 0x18) (BitVec.ofNat 32 next)
      s.notify (s.f (hostReg n 0x10) 22 16) 2 n

/-! ### Handing on (R350–R352, R356) -/

/-- Whether a copy can be built for its target (R348, R350, R355, R356). -/
def buildable (s : State) (t : List Byte) (m : Msg) : Bool :=
  match tKind t with
  | 1 => (canForm t m).isSome
  | 2 => decide (1 ≤ m.frame.data.length) && decide (m.frame.data.length ≤ 8)
  | 3 => match acfOf s (tunnel s (tIndex t)) (leAt t 3 1) m with
    | some a => !(tunnel s (tIndex t)).en || decide (a.length ≤ (tunnel s (tIndex t)).maxPayload)
    | none => false
  | _ => true

/-- Hand a copy to its target now. -/
def handOn (id : Nat) (t : List Byte) (s : State) : State :=
  match findHeld s id with
  | none => s
  | some h =>
    let i := tIndex t
    let withData := fun (k : Msg → State → State) =>
      if stale s h then dropCopy 0x128 id s
      else match heldData s h with
        | .inr a => loseHeld h a false s
        | .inl d => dropHeld id (k { h.msg with frame := { h.msg.frame with data := d } } s)
    match tKind t with
    | 1 => match canForm t h.msg with
      | none => dropCopy 0x130 id s
      | some f => (canJoin i { mid := some id, frame := f, limit := leAt t 3 1 % 16 } (tFlag t 5) s).1
    | 2 => if gwyBlocked s i then dropCopy 0x11C id s else withData (fun m s => setPublish (i - 16) (tWord t % 64) m.frame.data s)
    | 3 =>
      if !(tunnel s i).en then dropCopy 0x11C id s
      else withData (fun m s => match acfOf s (tunnel s i) (leAt t 3 1) m with
        | some a => bundleEnter i a s
        | none => gwyCount 0x130 s)
    | _ => withData (fun m s => hostDeliver i (hostRecord m h.route) s)

/-- Make the copy of one target: skipped, dropped, held for its release time, or handed on. -/
def makeCopy (id : Nat) (t : List Byte) (s : State) : State :=
  match findHeld s id with
  | none => s
  | some h =>
    if h.msg.errs ≠ 0 ∧ tKind t ≠ 4 then dropCopy 0x134 id s
    else if !buildable s t h.msg then dropCopy 0x130 id s
    else match (if tFlag t 4 then h.msg.release else none) with
      | none => handOn id t s
      | some r =>
        if r < s.nowUp then handOn id t (gwyCount 0x12C s)
        else if s.now + 1000000000 < r then dropCopy 0x128 id s
        else s.withGwy (fun g => { g with timed := g.timed ++ [{ at_ := r, mid := id, target := t, late := false }] })

/-- A step of time: copies whose release time it skipped are late (R56). -/
def gwyReposition (s : State) : State :=
  s.withGwy (fun g => { g with timed := g.timed.map (fun x => { x with late := s.lateAfter x.late x.at_ }) })

/-- Hold a message in a Quarry block and make its copies (R344). -/
def processMsg (m : Msg) (i : Nat) (e : List Byte) (s : State) : State :=
  let ts := (entryTargets e).filter (fun t => tKind t != 0)
  let req := s.f (rg 10 0) 4 0
  let n := m.frame.data.length
  let a := alloc req (40 + n) s
  match a.1 with
  | .inr _ => qryDrop a.2
  | .inl b =>
    let h : Held := { id := a.2.gwy.nextId, block := b.1, req := req, msg := m, len := n, maxAge := entryAge e, route := i,
                      refs := ts.length }
    let s := a.2.withGwy (fun g => { g with held := g.held ++ [h], nextId := g.nextId + 1 })
    match s.badByte 0x2A b.1 (40 + n) true with
    | some x => loseHeld h x true s
    | none => ts.foldl (fun s t => makeCopy h.id t s) (s.dmaPut 0x2A b.1 (hostRecord m i))

/-! ### Authentication (R340–R343) -/

def profile (s : State) (p : Nat) : Profile := tget Profile.zero s.gwy.profiles p

/-- F of the route at an index, while it has the entry's key. -/
def routeFresh (s : State) (i : Nat) (e : List Byte) : Nat :=
  match route s i with
  | some r => if r.key = leAt e 0 8 then r.fresh else 0
  | none => 0

def setFresh (i : Nat) (e : List Byte) (f : Nat) (s : State) : State :=
  match route s i with
  | some r => if r.key = leAt e 0 8 then setRoute i (some { r with fresh := f % 2 ^ 64 }) s else s
  | none => s

/-- The MAC of data under a freshness value (R341). -/
def secMac (key : List Byte) (p : Profile) (e data : List Byte) (f : Nat) : List Byte :=
  (cmac key (beBytes 2 (leAt e 10 2) ++ data ++ beBytes 8 f)).take p.macLen

/-- The candidate freshness of received bytes (R342). -/
def freshCand (p : Profile) (f recvd : Nat) : Nat :=
  let k := 2 ^ (8 * p.freshLen)
  if p.freshLen = 0 then f + 1
  else if 8 ≤ p.freshLen then recvd
  else
    let c := f / k * k + recvd
    if c ≤ f then c + k else c

/-- Authentic data of secured data. -/
def authentic (p : Profile) (d : List Byte) : List Byte := d.take (d.length - p.freshLen - p.macLen)

def authFail (s : State) : State := (gwyCount 0x114 s).raise 10 3
def authKey (s : State) : State := (gwyCount 0x118 s).raise 10 3

/-- Crucible's checks of a CMAC job of GWY under slot `n` (R399): the status and DETAIL code that refuse it. -/
def gwyJobCheck (n : Nat) (gen : Bool) (s : State) : Option (Nat × Nat) :=
  let k := keySlot s n
  if !(s.aclEntry 12 0x2A).mask.getLsbD (keyMaskBit n) then some (stDenied, 0x11)
  else if k.st = 0 then some (stWrongState, 0x100)
  else if !k.usage.testBit (if gen then 2 else 3) then some (stDenied, 0x101)
  else none

/-- The ring GWY drives shows its jobs. -/
def gwyRingShow (s : State) : State := cruShow (s.f (rg 10 0) 11 8) s

/-- Start the job of a route's first message: checks of length and freshness, then Crucible's of the key, whose refusal
of the job counts there too. -/
def startAuth (w : AuthWait) (s : State) : Option AuthJob × State :=
  let p := profile s (leAt w.entry 9 1)
  let f := routeFresh s w.route w.entry
  let d := w.msg.frame.data
  let gen := entryAuth w.entry == 3
  let n := p.freshLen + p.macLen
  let c := if gen then (f + 1) % 2 ^ 64 else freshCand p f (beAt d (d.length - n) p.freshLen)
  if !gen && (decide (d.length < n) || decide (c ≤ f) || decide (f + p.window < c)) then (none, authFail s)
  else if !s.bit (rg 10 0) 12 then (none, authKey s)
  else match gwyJobCheck p.key gen s with
    | some e => (none, authKey (countJob e.1 e.2 s))
    | none =>
      let u := useKey p.key s
      if u.1 then (some { profile := p, key := (keySlot s p.key).key, cand := c }, u.2)
      else (none, authKey (countJob stLimit 0x102 s))

/-- Complete a message's job. -/
def endAuth (w : AuthWait) (j : AuthJob) (s : State) : State :=
  let d := w.msg.frame.data
  let p := j.profile
  let pass := fun (data : List Byte) (ok : Bool) (s : State) =>
    processMsg { w.msg with frame := { w.msg.frame with data := data }, authOk := ok } w.route w.entry
      (setFresh w.route w.entry j.cand (countJob 0 0 s))
  if entryAuth w.entry = 3 then
    pass (d ++ beBytes p.freshLen j.cand ++ secMac j.key p w.entry d j.cand) false s
  else
    let a := authentic p d
    if secMac j.key p w.entry a j.cand = d.drop (d.length - p.macLen) then
      pass (if entryAuth w.entry = 1 then a else d) true s
    else authFail (countJob stIntegrity 0x103 s)

/-- Drop the first waiting message of a route. -/
def popWait (i : Nat) : List AuthWait → List AuthWait
  | [] => []
  | w :: r => if w.route = i then r else w :: popWait i r

/-- Record the job of a route's first waiting message. -/
def markWait (i : Nat) (j : AuthJob) : List AuthWait → List AuthWait
  | [] => []
  | w :: r => if w.route = i then { w with job := some j } :: r else w :: markWait i j r

/-- An earlier waiting message `v` holds back `w`: of the same route, or of one SOURCE and one key, whatever became of
the route between their lookups (R345). -/
def holdsBack (v w : AuthWait) : Bool := v.route == w.route || (v.msg.src == w.msg.src && v.msg.key == w.msg.key)

/-- The first waiting message without a job that none before it holds back; `seen` are those before the list. -/
def nextWait (seen : List AuthWait) : List AuthWait → Option AuthWait
  | [] => none
  | w :: r => if w.job.isNone && !seen.any (fun v => holdsBack v w) then some w else nextWait (seen ++ [w]) r

/-- Serve waiting messages in order until the jobs of those left run, or hold them back (R345). -/
def serveWaits : Nat → State → State
  | 0, s => s
  | fuel + 1, s =>
    match nextWait [] s.gwy.waits with
    | none => s
    | some w =>
      let out := fun (s : State) => s.withGwy (fun g => { g with waits := popWait w.route g.waits })
      if entryAuth w.entry = 0 then serveWaits fuel (processMsg w.msg w.route w.entry (out s))
      else
        let x := startAuth w s
        match x.1 with
        | some j => serveWaits fuel (gwyRingShow (x.2.withGwy (fun g => { g with waits := markWait w.route j g.waits })))
        | none => serveWaits fuel (out x.2)

/-- A message is done with, and the next ones are served. -/
def nextAuth (s : State) : State := serveWaits (s.gwy.waits.length + 1) (gwyRingShow s)

/-- An erasure ends GWY's jobs ABORTED with ERASED (R410): their messages are dropped (R343; log entry 63). -/
def gwyErased (s : State) : State :=
  (s.gwy.waits.filter (fun w => w.job.isSome)).foldl (fun s w =>
    nextAuth (authKey (countJob stAborted 0x10D (s.withGwy (fun g => { g with waits := popWait w.route g.waits }))))) s

/-! ### Taking a message (R337) -/

def takeMsg (m : Msg) (s : State) : State :=
  let s := gwyCount 0x100 s
  match lookupRoute s m with
  | none => (gwyCount 0x104 s).raise 10 0
  | some i =>
    let e := ((route s i).map (·.bytes)).getD []
    if (entryTargets e).all (fun t => tKind t == 0) then s
    else
      let w : AuthWait := { msg := m, route := i, entry := e, job := none }
      serveWaits (s.gwy.waits.length + 2) (s.withGwy (fun g => { g with waits := g.waits ++ [w] }))

/-- GWY's state and its blocks are lost in a BLOCK reset: Quarry takes the blocks back (R344). -/
def gwyFreeAll (s : State) : State := s.gwy.held.foldl (fun s h => freeHeld h s) s

end Sys2Proof.Machine
end

