-- ==== Sys2Proof/Machine/NmOps.lean ====
section
/-! DEFINITION. The network management engines: PDUs and state changes (R508–R512). -/

namespace Sys2Proof.Machine

def nmReg (e off : Nat) : Nat := rg 10 (0x8000 + e * 0x40 + off)

def nmEn (s : State) (e : Nat) : Bool := s.bit (nmReg e 0) 0

/-- 0 OFF, 1 BUS_SLEEP, 2 PREPARE_BUS_SLEEP, 3 REPEAT_MESSAGE, 4 NORMAL_OPERATION, 5 READY_SLEEP. -/
def nmState (s : State) (e : Nat) : Nat := s.f (nmReg e 0x20) 2 0
def setNm (e v : Nat) (s : State) : State := s.sf (nmReg e 0x20) 2 0 v
def nmRequested (s : State) (e : Nat) : Bool := s.bit (nmReg e 0x20) 3

/-- Engines fitted: that of an unfitted CAN channel is not (R512). -/
def nmFitted (s : State) (e : Nat) : Bool := if e < 16 then canFitted s.tier e else decide (e < 20)

/-- User data of the PDUs sent. -/
def nmUdata (s : State) (e : Nat) : List Byte :=
  leBytes 4 (s.rd (nmReg e 0x18)).toNat ++ leBytes 2 (s.rd (nmReg e 0x1C)).toNat

/-- The PDU of an engine with a control bit vector (R508). -/
def nmPdu (s : State) (e cbv : Nat) : List Byte := leBytes 1 (s.f (nmReg e 0) 15 8) ++ leBytes 1 cbv ++ nmUdata s e

/-- The IPv4 frame of a UdpNm engine, without FCS (R510). -/
def nmFrame (s : State) (e : Nat) (pdu : List Byte) : List Byte :=
  let hi := s.rd (nmReg e 0x38)
  let port := beBytes 2 (s.f (nmReg e 4) 15 0)
  let da := leBytes 4 (s.rd (nmReg e 0x34)).toNat ++ leBytes 2 (fld hi 15 0)
  let ip := ipv4Checksum ([0x45, 0] ++ beBytes 2 36 ++ [0, 0, 0, 0, 1, 17, 0, 0] ++
    beBytes 4 (s.rd (nmReg e 0x30)).toNat ++ beBytes 4 (s.rd (nmReg e 0x2C)).toNat)
  da ++ gwyMac s ++ beBytes 2 0x8100 ++ beBytes 2 (fld hi 31 29 * 8192 + fld hi 27 16) ++ beBytes 2 0x0800 ++
  ip ++ port ++ port ++ beBytes 2 16 ++ [0, 0] ++ pdu

/-- Send one PDU unless PASSIVE = 1 (R509, R510, R512). -/
def nmSend (e cbv : Nat) (s : State) : State :=
  let cfg := s.rd (nmReg e 0)
  let pdu := nmPdu s e cbv
  if bitOf cfg 1 then s
  else if e < 16 then
    let id := s.rd (nmReg e 4)
    let f : Can := { Can.zero with fmt := fld cfg 3 2, id := fld id 28 0, ide := bitOf id 29, data := pdu }
    let r := canJoin e { mid := none, frame := f, limit := 3 } false s
    if r.2 then r.1.cnt (nmReg e 0x28) 1 else r.1
  else igSend (nmFrame s e pdu) (s.cnt (nmReg e 0x28) 1)

/-- REPEAT_MESSAGE with a PDU of the given control bit vector. -/
def nmRepeat (e cbv : Nat) (s : State) : State := nmSend e cbv (setNm e 3 s)

/-- A local wake event at one engine. -/
def nmLocalWake (e : Nat) (s : State) : State :=
  if nmEn s e && [1, 2, 5].contains (nmState s e) then nmRepeat e 0x10 s else s

/-- A local wake event (R511). -/
def localWake (s : State) : State := (List.range 20).foldl (fun s e => nmLocalWake e s) s

/-- The Ladle pour completes: engines the image enabled go to REPEAT_MESSAGE (R512). -/
def nmPour (s : State) : State :=
  (List.range 20).foldl (fun s e =>
    if nmFitted s e && nmEn s e && decide (nmState s e ≤ 1) then nmRepeat e 0x10 s else s) s

/-- An engine receives a PDU (R508, R512). -/
def nmReceive (e : Nat) (pdu : List Byte) (s : State) : State :=
  let cbv := leAt pdu 1 1
  let s := (s.cnt (nmReg e 0x24) 1).sf (nmReg e 0x20) 15 8 (leAt pdu 0 1)
  let s := s.sf (nmReg e 0x20) 23 16 cbv
  let s := s.withGwy (fun g => { g with lastUdata := tput (List.replicate 6 0) g.lastUdata e (slice pdu 2 6) })
  if nmState s e = 1 ∨ nmState s e = 2 then nmRepeat e 0 s
  else if (nmState s e = 4 ∨ nmState s e = 5) ∧ cbv.testBit 0 = true then setNm e 3 s
  else s

/-- Write NM_CFG.EN (R512). REQUESTED stays: only a RELEASE clears it. -/
def nmEnable (e : Nat) (on : Bool) (s : State) : State :=
  if on then (if nmState s e = 0 then setNm e 1 (s.sb (nmReg e 0) 0 true) else s)
  else setNm e 0 (s.sb (nmReg e 0) 0 false)

/-- A rejected PDU (R509, R510). -/
def nmBad (s : State) : State := s.cnt (rg 10 0x8808) 1

/-- Whether an enabled engine takes a CAN frame of its channel (R509): the identifier as NM_TX_ID lays it out, IDE in
bit 29 (log entry 38). -/
def nmTakes (s : State) (e : Nat) (f : Can) : Bool :=
  let m := s.f (nmReg e 0xC) 29 0
  decide (e < 16) && nmEn s e && decide ((f.id + b2n f.ide * 2 ^ 29) &&& m = s.f (nmReg e 8) 29 0 &&& m)

/-- Whether every enabled engine is in BUS_SLEEP (R513). -/
def nmAsleep (s : State) : Bool := (List.range 20).all (fun e => !nmEn s e || nmState s e == 1)

end Sys2Proof.Machine
end

