-- ==== Sys2Proof/Machine/KeyOps.lean ====
section
/-! DEFINITION. The operations of Keystone: sources, the log, validation, lockouts and the start of power-off
(R502–R515). -/

namespace Sys2Proof.Machine

def State.withKey (s : State) (f : KeyState → KeyState) : State := { s with key := f s.key }

def keyReg (off : Nat) : Nat := rg 16 off

/-- Bit `n` of a pair of registers, low word first. -/
def pairBit (s : State) (off n : Nat) : Bool := s.bit (keyReg (off + n / 32 * 4)) (n % 32)
def setPair (off n : Nat) (v : Bool) (s : State) : State := s.sb (keyReg (off + n / 32 * 4)) (n % 32) v

def ksec (s : State) : Nat := (s.rd (keyReg 0x2C)).toNat

/-- Sources that exist and are fitted (R502). -/
def srcFitted (s : State) (n : Nat) : Bool :=
  n == 0 || n == 1 || n == 2 || (decide (4 ≤ n) && decide (n ≤ 7)) ||
  (decide (8 ≤ n) && decide (n ≤ 23) && canFitted s.tier (n - 8)) ||
  (decide (24 ≤ n) && decide (n ≤ 31) && linFitted s.tier (n - 24)) ||
  (decide (32 ≤ n) && decide (n ≤ 49) && n != 36 && n != 37 && portFitted s.tier (n - 32))

def validating (s : State) : Bool := s.bit (keyReg 0) 1
def poweringOff (s : State) : Bool := s.bit (keyReg 0) 0

/-- Levels of WAKE0–WAKE3, and of KL15. -/
def wakeLevel (s : State) (k : Nat) : Bool := s.bit (keyReg 0) (4 + k)
def kl15 (s : State) : Bool := s.bit (keyReg 0) 3

/-- EDGE and VALIDATE of input `k`. -/
def wakeEdge (s : State) (k : Nat) : Nat := s.f (keyReg 0x10) (8 * k + 1) (8 * k)
def wakeValidate (s : State) (k : Nat) : Nat := s.f (keyReg 0x10) (8 * k + 3) (8 * k + 2)

/-- Input `k` is at its active level: low for the falling edge alone, else high (log entry 22). -/
def wakeActive (s : State) (k : Nat) : Bool :=
  match wakeEdge s k with
  | 0 => false
  | 2 => !wakeLevel s k
  | _ => wakeLevel s k

/-! ### The wake log -/

/-- The LOG registers show the log. -/
def showLog (s : State) : State :=
  (List.range 16).foldl (fun s i =>
    let e := (s.key.log[i]?).getD { word := 0, ksec := 0 }
    (s.wr (keyReg (0x200 + i * 8)) e.word).wr (keyReg (0x204 + i * 8)) e.ksec) s

/-- Log a source, with bit 8 VALID, 9 FALSE or 10 LATCHED. -/
def keyLog (src sub flags : Nat) (s : State) : State :=
  let e : WakeLog := { word := BitVec.ofNat 32 (src + sub * 64 + flags * 256), ksec := s.rd (keyReg 0x2C) }
  showLog (s.withKey (fun k => { k with log := (e :: k.log).take 16 }))

/-- Mark the newest entry of a source VALID. -/
def markValid (src : Nat) : List WakeLog → List WakeLog
  | [] => []
  | e :: r => if fld e.word 5 0 = src then { e with word := setBit e.word 8 true } :: r else e :: markValid src r

/-! ### Lockouts (R507) -/

def clearLockout (src : Nat) (s : State) : State :=
  setPair 0x24 src false (s.withKey (fun k => { k with history := terase k.history src }))

def clearLockouts (s : State) : State := (List.range 50).foldl (fun s n => clearLockout n s) s

/-- A false wake enters a source's history, which may lock it out. -/
def falseWake (src : Nat) (s : State) : State :=
  let now := ksec s
  let h := (now :: tget [] s.key.history src).take 15
  let s := s.withKey (fun k => { k with history := tput [] k.history src h })
  let n := s.f (keyReg 4) 15 12
  match h[n - 1]? with
  | some t =>
    if 0 < n ∧ now - t ≤ s.f (keyReg 4) 23 16 * 60 ∧ pairBit s 0x24 src = false then
      ((setPair 0x24 src true s).cnt (keyReg 0x4C) 1).raise 16 3
    else s
  | none => s

/-! ### Validation (R505) -/

/-- Sources become valid: the wake is valid and the window ends. -/
def keyValidate (srcs : List Nat) (s : State) : State :=
  let hit := srcs.filter (pairBit s 0x1C)
  if validating s && !hit.isEmpty then
    let s := (((s.sb (keyReg 0) 1 false).sb (keyReg 0) 2 true).raise 16 1)
    let s := hit.foldl (fun s n => clearLockout n (s.withKey (fun k => { k with log := markValid n k.log }))) s
    showLog s
  else s

/-- Sources that are valid whenever the window runs: POWER_ON, KL15, TIMER, and inputs while VALIDATE is 0 (R505). -/
def validNow (s : State) : State :=
  keyValidate ([0, 1, 2] ++ ((List.range 4).filter (fun k => wakeValidate s k == 0)).map (4 + ·)) s

/-- The Ladle pour completes and the window starts (R505): sources valid at once end it. -/
def keyWindow (s : State) : State :=
  validNow ((s.withKey (fun k => { k with pouring := false })).sb (keyReg 0) 1 true)

/-! ### Firing (R503, R504, R515) -/

/-- A source fired in this cycle, which prevents a power-off that would begin in it (R513). -/
def firedNow (s : State) : Bool := s.key.fired == some (pclk s)

/-- Start the power-up (R503): `first` is its cause, `more` fired with it. A KL15 wake clears every lockout (R507). -/
def powerUp (first : Nat × Nat) (more : List (Nat × Nat)) (s : State) : State :=
  let s := (s.wr (keyReg 0x1C) 0).wr (keyReg 0x20) 0
  let s := setPair 0x1C first.1 true (s.wr (keyReg 0x18) (BitVec.ofNat 32 (first.1 + first.2 * 64)))
  let s := more.foldl (fun s x => setPair 0x1C x.1 true s) s
  let s := ((s.cntF (keyReg 0) 31 16 1).sb (keyReg 0) 2 false).cnt (keyReg 0x40) 1
  let s := s.withKey (fun k => { k with latched := [], held := [], timer := false, fired := none, powerOn := false, pouring := true })
  let s := if (first :: more).any (fun x => x.1 == 1) then clearLockouts s else s
  { s with sys := { s.sys with phase := .rising } }

/-- Whether a source may fire: fitted, enabled, not locked out, not ignored (R502, R507, R556). -/
def mayFire (s : State) (src : Nat) : Bool :=
  srcFitted s src && (src == 0 || pairBit s 8 src) && !pairBit s 0x24 src && (!s.key.ignoring || decide (src ≤ 1))

/-- POWER_ON fires: the battery was connected or the power die reset, and no power-up has begun since, so it is the
next wake cause (R500, R502). -/
def powerOnFirst (s : State) : State :=
  if s.key.powerOn then
    (keyLog 0 0 0 s).withKey (fun k => { k with powerOn := false, held := (0, 0) :: k.held })
  else s

/-- A source fires. While the module is ON it raises WAKE_ON and is a local wake event; before the pour of a power-up
completes it joins CAUSE_SET alone (R503, R504). -/
def keyFire (src sub : Nat) (s : State) : State :=
  if !mayFire s src then s
  else if s.sys.phase = .off then
    let s := powerOnFirst s
    let s := if src = 0 then s else keyLog src sub 0 s
    let waiting := s.key.latched ++ s.key.held ++ (if src = 0 then [] else [(src, sub)])
    if s.key.supplyGood then powerUp (waiting.headD (src, sub)) (waiting.drop 1) s
    else s.withKey (fun k => { k with held := k.held ++ (if src = 0 then [] else [(src, sub)]) })
  else if poweringOff s then
    let s := (keyLog src sub 4 s).cnt (keyReg 0x48) 1
    let s := if src = 1 then clearLockouts s else s
    s.withKey (fun k => { k with latched := k.latched ++ [(src, sub)] })
  else
    let s := setPair 0x1C src true (keyLog src sub 0 s)
    let s := if src = 1 then clearLockouts s else s
    let s := s.withKey (fun k => { k with fired := some (pclk s) })
    let s := if src ≤ 2 || (decide (src ≤ 7) && wakeValidate s (src - 4) == 0) then keyValidate [src] s else s
    if s.key.pouring then s else if s.up then localWake (s.raise 16 0) else s.raise 16 0

/-! ### Power-off (R513, R514) -/

/-- The failed sleep conditions, as bits 0–3, and bit 4 for a source that fired in this cycle (R513, R520). -/
def sleepBlocks (s : State) : Nat :=
  b2n (!nmAsleep s) + b2n (kl15 s) * 2 +
  b2n ((List.range 4).any (fun k => pairBit s 8 (4 + k) && wakeActive s k)) * 4 + b2n (validating s) * 8 + b2n (firedNow s) * 16

/-- Power-off begins. -/
def beginOff (s : State) : State :=
  if poweringOff s then s
  else (((s.withKey (fun k => { k with offReaction := false })).sb (keyReg 0) 0 true).sb (keyReg 0) 1 false).raise 16 4

end Sys2Proof.Machine
end

