-- ==== Sys2Proof/Machine/Cln.lean ====
section
/-! DEFINITION. The commands of the CAN and LIN channels (R301–R331, R598–R600). -/

namespace Sys2Proof.Machine

/-! ### CAN frames and errors -/

/-- A fitted CAN channel in RUN. -/
def canRuns (s : State) (ch : Nat) : Bool := decide (ch < 16) && canFitted s.tier ch && canState s ch == 2

/-- The CLN_CAN_TX_ABORT that waits on a buffer replies with its final state (R314). -/
def endAbort (ch i : Nat) (s : State) : State :=
  endRunning (fun c => c.opcode == 0x0903 && c.inst == ch && c.p 32 1 == i) (fun _ => Fail.ok)
    (fun _ => leBytes 1 (buf s ch i).st) s

/-- 11 recessive bits while INTEGRATING (R308). -/
def execIntegrationDone (ch : Nat) (s : State) : Out :=
  act (fun s => if ch < 16 ∧ canState s ch = 1 ∧ canBusy s ch = false then gwyReport ch (setCanState ch 2 s) else s) s

/-- The 128th occurrence of 11 recessive bits in RECOVERING (R308). -/
def execBusOffExit (ch : Nat) (s : State) : Out :=
  act (fun s =>
    if ch < 16 ∧ canState s ch = 4 then gwyReport ch (clnEvent ch 1 (setErr ch 0 0 (setCanState ch 2 s))) else s) s

/-- Another node's frame took the bus: a buffer in TX lost arbitration (R312), or is ABORTED where that was asked. -/
def lostArbitration (ch : Nat) (s : State) : State :=
  match onBus s ch with
  | none => s
  | some i =>
    let b := buf s ch i
    if b.abort then endAbort ch i (setBuf ch i { b with st := 6, abort := false } s)
    else setBuf ch i { b with st := 2 } s

/-- Offset of the counter of an error kind: BIT, STUFF, FORM, CRC, ACK. -/
def errOff (kind : Nat) : Nat := 0x48 + 4 * min kind 4

/-- REC after a frame received without error; above 127 the standard lets it take any value from 119 to 127. -/
def recAfter (ch : Nat) (s : State) : State :=
  let r := recv s ch
  if 127 < r then
    let v := s.free
    setErr ch (tec s ch) (119 + v.1 % 9) v.2
  else setErr ch (tec s ch) (r - 1) s

/-- An error while the channel only receives: REC counts, but not in LISTEN (R307). -/
def recError (ch : Nat) (alt : Bool) (s : State) : State :=
  if canMode s ch ≠ 2 then setErr ch (tec s ch) (recv s ch + if alt then 8 else 1) s else s

/-- The filter that decides for a frame (R317). -/
def filterOf (s : State) (ch : Nat) (f : Can) : Option (Nat × Filter) :=
  ((List.range 64).map (fun i => (i, tget Filter.zero s.cln.filters (ch * 64 + i)))).find? (fun e =>
    e.2.en && e.2.formats.testBit f.fmt && decide (f.id &&& e.2.mask = e.2.id &&& e.2.mask) && e.2.ide == f.ide)

/-- A good frame goes through the filters and into the sprue FIFO (R317–R319). -/
def canDeliver (ch t : Nat) (f : Can) (s : State) : State :=
  let put := fun (k : Nat) =>
    let x := clnRecord ch (canRecord ch k t f) s
    if x.1 then keyValidate [8 + ch] (canCount ch 0x44 x.2) else x.2
  match filterOf s ch f with
  | some (k, x) => if x.reject then canCount ch 0x6C s else put k
  | none => if s.bit (canReg ch 0) 7 then put 63 else canCount ch 0x6C s

/-- The controller takes full part in the bus: RUN with MODE NORMAL (R599). -/
def canActive (s : State) (ch : Nat) : Bool := canRuns s ch && canMode s ch == 1

/-- An error frame leaves where `part` says that the channel takes part in the frame and error signalling is on (R306,
R307). -/
def errorFrame (ch : Nat) (part : Bool) (s : State) : State :=
  if part && !s.bit (canReg ch 0) 6 then busSend (.canError ch) s else s

/-- A frame of another node that ended without error while the channel is in RUN: acknowledged where the channel takes
full part (R599), filtered and delivered with MODE NORMAL or LISTEN (R317); of a format that is off, it is a form error
(R305). -/
def canTake (ch t : Nat) (f : Can) (s : State) : State :=
  if fmtOn s ch f.fmt then
    let s := if canActive s ch then recAfter ch (busSend (.canAck ch) s) else s
    if canMode s ch = 0 then s else canDeliver ch t f s
  else recError ch false (errorFrame ch (canActive s ch) (canCount ch 0x50 s))

/-- A frame of another node ends without error (R305, R317). `ago` is how long before now its SOF fell. -/
def execCanFrameReceived (ch fmt id : Nat) (ide rr esi : Bool) (data : List Byte) (sdt vcid : Nat) (sec : Bool)
    (af ago : Nat) (s : State) : Out :=
  act (fun s =>
    if 16 ≤ ch ∨ canFitted s.tier ch = false ∨ canLenOk fmt data.length = false then s
    else
      let f : Can := { fmt := fmt, id := id % 2 ^ 29, ide := ide, rr := rr, esi := esi, data := data, sdt := sdt % 256,
                       vcid := vcid % 256, sec := sec, af := af % 2 ^ 32 }
      let t := (s.now + timeSpan - ago % timeSpan) % timeSpan
      let s := if canRuns s ch then canTake ch t f (lostArbitration ch s) else s
      gwyReport ch (frameEnded ch s)) s

/-- The bus is idle and SOF falls: the pending buffer that would win the channel's own arbitration takes part, and the
second part of `sof` says that it wins that of the bus (R312, R315). Where it does not, or nothing is pending, another
node's frame is in progress and the buffer stays PENDING. -/
def execCanTxStart (sof : Nat × Bool) (s : State) : Out :=
  let ch := sof.1
  act (fun s =>
    if 16 ≤ ch ∨ canFitted s.tier ch = false ∨ (onBus s ch).isSome = true ∨ canBusy s ch = true then s
    else if !sof.2 then setBusy ch true s
    else if canActive s ch then
      match winner s ch with
      | none => s
      | some i => setBuf ch i { buf s ch i with st := 3, sof := s.now } s
    else s) s

/-- The loop delay of a frame with a data phase, measured at its edge into that phase (R304): a free value. -/
def measureDelay (ch fmt : Nat) (s : State) : State :=
  if fmt = 0 then s
  else
    let v := s.free
    v.2.sf (canReg ch 0x14) 26 20 v.1

/-- The buffer after its frame was sent without error (R310, R311, R314). -/
def TxBuf.sent (b : TxBuf) : TxBuf :=
  { b with st := if b.timing = 2 then (if b.abort then 6 else 1) else 4, coll := 0, abort := false }

/-- The frame on the bus is sent without error. -/
def execCanTxDone (ch : Nat) (s : State) : Out :=
  act (fun s =>
    if !canRuns s ch then s
    else match onBus s ch with
      | none => s
      | some i =>
        let b := buf s ch i
        let s := measureDelay ch b.frame.fmt (busSend (.can ch b.frame) (canCount ch 0x40 s))
        let s := setErr ch (tec s ch - 1) (recv s ch) (setBuf ch i b.sent s)
        let s := if b.abort then endAbort ch i s else s
        gwyReport ch (frameEnded ch s)) s

/-- The buffer after an error ended its transmission (R313, R314), and whether it is ABANDONED. -/
def TxBuf.failed (b : TxBuf) : TxBuf × Bool :=
  if b.abort then ({ b with st := 6, abort := false }, false)
  else if b.limit = 15 then ({ b with st := 2, retries := satAdd 255 b.retries 1 }, false)
  else if b.retries < b.limit then ({ b with st := 2, retries := b.retries + 1 }, false)
  else ({ b with st := 5 }, true)

/-- A bit error after arbitration counts a collision (R316). -/
def countCollision (ch i : Nat) (s : State) : State :=
  let b := buf s ch i
  if b.coll + 1 < 4 then setBuf ch i { b with coll := b.coll + 1 } s
  else
    let s := setBuf ch i { b with coll := 0 } s
    let s := s.wr (canReg ch 0x18) (BitVec.ofNat 32 (b.frame.id % 2 ^ 29 + b2n b.frame.ide * 2 ^ 29))
    clnEvent ch 5 (canCount ch 0x68 s)

/-- The channel goes bus-off (R307, R308). -/
def busOff (ch : Nat) (s : State) : State :=
  let s := gwyReport ch (clnEvent ch 0 (canCount ch 0x5C (setCanState ch 3 s)))
  if s.bit (canReg ch 0) 4 then setCanState ch 4 s else s

/-- An error ends the transmission of buffer `i` (R313, R316, R307): `at_` is where in the frame it fell, `alt` that the
standard's exception spares TEC. -/
def txError (ch i kind at_ : Nat) (alt : Bool) (s : State) : State :=
  let s := if kind = 0 ∧ (at_ = 1 ∨ at_ = 2) then countCollision ch i s else s
  let b := buf s ch i
  let s := if 2 ≤ at_ then measureDelay ch b.frame.fmt s else s
  let x := b.failed
  let s := errorFrame ch true (setBuf ch i x.1 s)
  let s := if x.2 then clnEvent ch 4 (canCount ch 0x64 s) else s
  let s := if b.abort then endAbort ch i s else s
  let s := if alt then s else setErr ch (tec s ch + 8) (recv s ch) s
  if 255 < tec s ch then busOff ch s else s

/-- An error in a frame the channel receives (R307): it has acknowledged the frame where that was good up to the ACK
slot, which one with a CRC error never is (R599). -/
def rxError (ch kind at_ : Nat) (alt : Bool) (s : State) : State :=
  let s := if 3 ≤ at_ ∧ kind ≠ 3 ∧ canActive s ch = true then busSend (.canAck ch) s else s
  recError ch alt (errorFrame ch (canActive s ch) s)

/-- The frame on the bus ended in an error: a change of MODE that waited takes effect, counted where it ends a bus-off
(R308). -/
def errorEnded (ch : Nat) (s : State) : State :=
  let off := decide (3 ≤ canState s ch) && (tget none s.cln.modeNext ch).isSome
  gwyReport ch (frameEnded ch (if off then canCount ch 0x60 s else s))

/-- An error on the bus (R307, R313, R316). `kind` is 0 BIT, 1 STUFF, 2 FORM, 3 CRC, 4 ACK; `at_` is where it falls: 0 up
to the end of the arbitration field, 1 after it and before the edge into a data phase, 2 from there through the CRC
delimiter, 3 in the ACK slot, 4 after it; `alt` says that the standard's other step applies: no count for a transmitter,
8 for a receiver. -/
def execCanBusError (ch kind at_ : Nat) (alt : Bool) (s : State) : Out :=
  act (fun s =>
    if 16 ≤ ch ∨ canFitted s.tier ch = false then s
    else if !canRuns s ch then gwyReport ch (frameEnded ch s)
    else
      let s := canCount ch (errOff kind) s
      match onBus s ch with
      | none => errorEnded ch (rxError ch kind at_ alt s)
      | some i => errorEnded ch (txError ch i kind at_ alt s)) s

/-! ### Schedules (R311) -/

/-- A WAITING buffer reaches its schedule time. -/
def execTxScheduleTime (ch i : Nat) (s : State) : Out :=
  act (fun s =>
    let b := buf s ch i
    if i < 64 ∧ b.st = 1 ∧ b.timing = 1 ∧ b.at_ ≤ s.now then
      setBuf ch i { b with st := 2, late := false } (if b.late then canLate ch s else s)
    else s) s

/-- A cyclic buffer's occurrence starts, or is skipped. -/
def execTxCycleOccurrence (ch i : Nat) (s : State) : Out :=
  act (fun s =>
    let b := buf s ch i
    if i < 64 ∧ b.timing = 2 ∧ b.st ≠ 6 ∧ b.at_ ≤ s.now then
      let b := { b with at_ := b.at_ + b.period }
      if b.st = 2 ∨ b.st = 3 then clnEvent ch 10 (canCount ch 0x74 (setBuf ch i b s))
      else setBuf ch i { b with st := 2, retries := 0 } s
    else s) s

/-! ### Transceivers (R321, R322) -/

/-- TXD dominant for longer than 2 ms. -/
def execTxdTimeout (ch : Nat) (s : State) : Out :=
  act (fun s => if ch < 16 ∧ canFitted s.tier ch = true then clnEvent ch 7 (canCount ch 0x7C s) else s) s

/-- Whether wake detection of CAN transceivers is on (R320, R321): in STANDBY while ON, and whenever the logic die is in
reset or the module OFF, which put every transceiver in STANDBY or SLEEP. -/
def canWatches (s : State) (ch : Nat) : Bool := !s.up || s.f (canReg ch 0) 3 2 == 2

/-- A detected wake: CLN raises WAKE while ON, and Keystone hears of it (R322, R504). -/
def canWoke (ch sub : Nat) (s : State) : State :=
  keyFire (8 + ch) sub (if s.up then clnEvent ch 8 s else s)

/-- What a transceiver in STANDBY or SLEEP sees: `what` 0 a wake-up pattern, 1 a classical frame, `data` being its DLC and
its data bytes, 2 a decoding error. -/
def execCanWakeDetect (ch what : Nat) (ide : Bool) (id : Nat) (data : Nat × List Byte) (s : State) : Out :=
  let w := tget WakeCfg.zero s.cln.wake ch
  let n := tget 0 s.cln.wufErr ch
  let count := fun (k : Nat) => s.withCln (fun c => { c with wufErr := tput 0 c.wufErr ch k })
  if 16 ≤ ch ∨ canFitted s.tier ch = false ∨ canWatches s ch = false then .next s
  else if w.mode = 1 then .next (if what = 0 then canWoke ch 0 s else s)
  else if w.mode ≠ 2 then .next s
  else if what = 1 then
    let hit := decide (id &&& w.idMask = w.id &&& w.idMask) && ide == w.ide &&
      (!w.dataMatch || (data.1 == w.dlc && decide (leNat (data.2.take (min 8 data.1)) &&& leNat w.dataMask ≠ 0)))
    .next (if hit then canWoke ch 1 (count (n - 1)) else count (n - 1))
  else if what = 2 then .next (if n = 31 then canWoke ch 2 (count (n + 1)) else count (n + 1))
  else .next s

/-! ### LIN (R325–R328) -/

/-- Whether the slot in progress has ended. -/
def slotOver (s : State) (m : Nat) : Bool :=
  match tget none s.cln.runs m with
  | some r => decide (r.ends ≤ s.now)
  | none => true

/-- Start slot `i` of a range at `t`. -/
def startSlot (m first last i t : Nat) (s : State) : State :=
  linHeader m i t (setRun m (some { first := first, last := last, slot := i, ends := t + linSlotUs s m i * 1000 }) s)

/-- A slot begins: a pending switch, stop or sleep takes effect at the end of the slot in progress. -/
def execLinSlotStart (m : Nat) (s : State) : Out :=
  act (fun s =>
    if 8 ≤ m ∨ s.bit (linReg m 0) 0 = false ∨ (tget none s.cln.onBus m).isSome = true ∨ slotOver s m = false then s
    else match tget none s.cln.next m with
      | some .sleep => linGoToSleep m s
      | some .stop => setLinState m 1 (setNext m none (setRun m none s))
      | some (.switch f l t) =>
        if t ≤ s.now then startSlot m f l f t (setLinState m 2 (setNext m none s)) else s
      | none =>
        match tget none s.cln.runs m with
        | some r => startSlot m r.first r.last (if r.slot = r.last then r.first else r.slot + 1) r.ends s
        | none => s) s

/-- A slot without error. -/
def linOk (m : Nat) (s : State) : State := keyValidate [24 + m] (linCount m 0x40 s)

/-- Count error flags: NO_RESPONSE, PARTIAL, CHECKSUM, FRAMING, COLLISION at bits 0–4. -/
def linErrors (m flags : Nat) (s : State) : State :=
  (bitsOf flags 5).foldl (fun s i => linCount m (0x44 + 4 * i) s) (if flags = 0 then s else clnEvent (16 + m) 9 s)

/-- The error flags of a subscribed response: the bytes received, the checksum byte, a framing error. -/
def linFlags (x : LinFrame) (data : List Byte) (chk : Option Nat) (framing : Bool) : Nat :=
  let none_ := data.isEmpty && chk.isNone && !framing
  let part := !none_ && (decide (data.length < x.len) || chk.isNone)
  let bad := match chk with
    | some c => !part && c != linChecksum x.id x.enhanced data
    | none => false
  b2n none_ + b2n part * 2 + b2n bad * 4 + b2n framing * 8 + b2n (x.typ == 1 && (framing || bad)) * 16

/-- The frame on a LIN bus ends or times out (R326–R328). `bitErr`: the master read back another bit than it sent. -/
def execLinSlotEnd (m : Nat) (data : List Byte) (chk : Option Nat) (framing bitErr : Bool) (s : State) : Out :=
  act (fun s =>
    match tget none s.cln.onBus m with
    | none => s
    | some x =>
      let s := s.withCln (fun c => { c with onBus := tput none c.onBus m none })
      let s := if bitErr then linCount m 0x58 s else s
      let s := match x.publish with
        | some _ => if bitErr then s else linOk m s
        | none =>
          let d := if bitErr then [] else data.take x.len
          let fl := if bitErr then 1 else linFlags x d chk framing
          let w0 := x.start % 1000000000 + x.start / 1000000000 % 2 ^ 32 * 2 ^ 32
          let w1 := x.id + x.typ * 64 + d.length * 512 + fl * 2 ^ 13 + (16 + m) * 2 ^ 48
          let s := (clnRecord (16 + m) [w0, w1, leAt d 0 8] (linErrors m fl s)).2
          if fl = 0 then linOk m s else s
      if x.toSleep then
        endRunning (fun c => c.opcode == 0x0914 && c.inst == 16 + m) (fun _ => Fail.ok) (fun _ => [])
          (gwyReport (16 + m) (setLinState m 3 s))
      else s) s

/-- A sleeping channel sees a wake: the dominant level longer than 150 µs, then recessive (R328, R504). -/
def execLinWakeDetect (m : Nat) (s : State) : Out :=
  let fire := fun (s : State) => if s.bit (linReg m 4) 8 then keyFire (24 + m) 0 s else s
  if 8 ≤ m ∨ linFitted s.tier m = false then .next s
  else match s.sys.phase with
    | .running => .next (if linState s m = 3 then fire (clnEvent (16 + m) 8 (linCount m 0x5C s)) else s)
    | _ => .next (fire s)

/-- 100 ms after its wake pulse the channel is awake and CLN_LIN_POWER replies. -/
def execLinWakeDone (m : Nat) (s : State) : Out :=
  act (fun s =>
    let mine := fun (c : Cmd) => c.opcode == 0x0914 && c.inst == 16 + m && c.p 32 1 == 2
    if s.mason.cmds.any (fun c => c.running && mine c) then
      endRunning mine (fun _ => Fail.ok) (fun _ => []) (gwyReport (16 + m) (setLinState m 1 s))
    else s) s

/-! ### Registers -/

/-- Pairings of MODE and TRX (R320). -/
def modeTrxOk (mode trx : Nat) : Bool :=
  (mode == 0 && decide (trx ≤ 2)) || (mode == 1 && trx == 0) || (mode == 2 && trx == 1)

/-- Write MODE and TRX (R308, R320). -/
def setMode (ch mode trx : Nat) (s : State) : State :=
  let old := canMode s ch
  gwyReport ch (changeMode ch old mode ((s.sf (canReg ch 0) 1 0 mode).sf (canReg ch 0) 3 2 trx))

/-- Whether leaving OFF meets an invalid timing stored through registers (R302). -/
def badTiming (s : State) (ch mode : Nat) : Bool := canMode s ch == 0 && mode != 0 && !timingValid s ch

/-- The lowest buffer in use that a change of GW_BUFFERS hands over. -/
def handedOver (s : State) (ch gw : Nat) : Option Nat :=
  firstBelow (fun i => (decide (gwFirst s ch ≤ i) != decide (64 - gw ≤ i)) && !(buf s ch i).loadable) 64

/-- A register write to CAN_CTRL: fields other than MODE and TRX only while MODE is OFF. What CLN_CAN_CONFIG or
CLN_CAN_MODE would refuse is unpredictable (R60). -/
def canCtrl (ch : Nat) (v : Word) (s : State) : Ans :=
  let off := canMode s ch == 0
  if !modeTrxOk (fld v 1 0) (fld v 3 2) || badTiming s ch (fld v 1 0) ||
      (off && (decide (64 < fld v 14 8) || (handedOver s ch (fld v 14 8)).isSome)) then unpredictable 9
  else
    let s := if off then s.wr (canReg ch 0) ((v &&& ~~~ 0xF#32) ||| (s.rd (canReg ch 0) &&& 0xF#32)) else s
    .ok (setMode ch (fld v 1 0) (fld v 3 2) s)

/-- A register write to L_CTRL: DIV only while EN = 0. -/
def linCtrl (m : Nat) (v : Word) (s : State) : Ans :=
  let on := s.bit (linReg m 0) 0
  if !on && (decide (fld v 31 15 < 4000) || decide (80000 < fld v 31 15)) then unpredictable 9
  else
    let s := if on then s.sb (linReg m 0) 0 (bitOf v 0) else s.wr (linReg m 0) v
    let s := if bitOf v 0 then (if on then s else setLinState m 1 s)
      else endRunning (fun c => c.opcode == 0x0914 && c.inst == 16 + m) (fun _ => ⟨stAborted, 0, noOffset, 0⟩) (fun _ => [])
        (linOff m s)
    .ok (gwyReport (16 + m) s)

def lcfgOk (v : Word) : Bool :=
  decide (13 ≤ fld v 4 0) && decide (fld v 4 0 ≤ 26) && decide (1 ≤ fld v 7 5) && decide (fld v 7 5 ≤ 4)

/-- Software's write of a CLN register that has no row. -/
def clnWrite (off : Nat) (v : Word) (s : State) : Option Ans :=
  if 0x1000 ≤ off ∧ off < 0x2000 then
    let ch := (off - 0x1000) / 0x100
    let o := off % 0x100
    if o = 0 then some (canCtrl ch v s)
    else if o = 4 ∨ o = 8 ∨ o = 0xC ∨ o = 0x10 then (if canMode s ch = 0 then none else some (.ok s))
    else none
  else if 0x3000 ≤ off ∧ off < 0x3800 then
    let m := (off - 0x3000) / 0x100
    let o := off % 0x100
    if o = 0 then some (linCtrl m v s)
    else if o = 4 then
      some (if s.bit (linReg m 0) 0 then .ok s else if lcfgOk v then .ok (s.wr (linReg m 4) v) else unpredictable 9)
    else none
  else none

/-! ### Opcodes (R329, R330, R600) -/

def opsCln : List OpSpec :=
  let can := fun (op lo hi : Nat) =>
    ({ opcode := op, lenLo := lo, lenHi := hi, instHi := 15, classHi := 23, block := 9, mask := fun c => .bit c.inst,
       fitted := fun s c => canFitted s.tier c.inst } : OpSpec)
  let lin := fun (op lo hi : Nat) =>
    ({ opcode := op, lenLo := lo, lenHi := hi, instLo := 16, instHi := 23, classHi := 23, block := 9,
       mask := fun c => .bit c.inst, fitted := fun s c => linFitted s.tier (c.inst - 16) } : OpSpec)
  [can 0x0900 20 20, can 0x0901 4 4, { can 0x0902 32 2080 with buf := .input, lenNeed := fun bs => some (32 + leAt bs 8 2) }, can 0x0903 4 4, can 0x0904 4 4,
   can 0x0905 12 12, can 0x0906 0 0, can 0x0907 20 20, can 0x0908 0 0, lin 0x0910 8 8,
   { lin 0x0911 12 516 with lenOk := fun n => n % 8 == 4, lenNeed := fun bs => some (4 + 8 * leAt bs 1 1) }, lin 0x0912 16 16, lin 0x0913 12 12,
   lin 0x0914 4 4, lin 0x0915 0 0]

/-- A RANGE failure at an offset. -/
def clnRange (o : Nat) : CmdOut := badParam 0x112 o 0

def effClnCanConfig : CmdEff := fun c s =>
  let ch := c.inst
  let r := canReg ch
  if fld (c.w 32) 31 15 ≠ 0 then reservedField c 32
  else if 64 < fld (c.w 32) 14 8 then clnRange 32
  else if nbtReserved (c.w 36) then reservedField c 36
  else if dbtReserved (c.w 40) then reservedField c 40
  else if xbtReserved (c.w 44) then reservedField c 44
  else if tdcReserved (c.w 48) then reservedField c 48
  else match timingFault (c.w 36) (c.w 40) (c.w 44) (c.w 48) with
    | some (code, k, v) => badParam code (36 + 4 * k) v
    | none =>
      if canMode s ch ≠ 0 then wrongState 0x102 ch
      else match handedOver s ch (fld (c.w 32) 14 8) with
        | some i => wrongState 0x111 i
        | none =>
          let s := s.wr (r 0) ((c.w 32 &&& ~~~ 0xF#32) ||| (s.rd (r 0) &&& 0xF#32))
          .done ((((s.wr (r 4) (c.w 36)).wr (r 8) (c.w 40)).wr (r 0xC) (c.w 44)).wr (r 0x10) (c.w 48))

/-- CLN_CAN_MODE; leaving OFF with an invalid timing or PWM symbol stored through registers is unpredictable in CLN
(R302, R306). -/
def effClnCanMode : CmdEff := fun c s =>
  let mode := c.p 32 1
  let trx := c.p 33 1
  if 2 < mode then clnRange 32
  else if 2 < trx then clnRange 33
  else if !c.zero 34 2 then reservedField c 34
  else if !modeTrxOk mode trx then badParam 0x103 33 trx
  else
    let t := setMode c.inst mode trx s
    .done (if badTiming s c.inst mode then t.stray c.issuer 9 else t)

/-- The frame of a load command. -/
def loadFrame (c : Cmd) : Can :=
  let id := c.w 36
  { fmt := c.p 35 1 % 4, id := fld id 28 0, ide := bitOf id 29, rr := bitOf id 30, esi := false,
    data := slice c.payload 32 (c.p 40 2), sdt := c.p 42 1, vcid := c.p 43 1, sec := (c.p 35 1).testBit 2, af := c.p 44 4 }

def effClnCanTxLoad : CmdEff := fun c s =>
  let ch := c.inst
  let i := c.p 32 1
  let timing := c.p 34 1
  let id := c.w 36
  let f := loadFrame c
  let n := c.p 40 2
  let b := buf s ch i
  if c.len ≠ 32 + n then .fail stLength 6 6 (32 + n)
  else if 63 < i then clnRange 32
  else if 15 < c.p 33 1 then reservedField c 33
  else if 2 < timing then clnRange 34
  else if 7 < c.p 35 1 then reservedField c 35
  else if bitOf id 31 || (!f.ide && decide (0x7FF < f.id)) || (f.fmt == 3 && decide (0x7FF < f.id)) then clnRange 36
  else if !canLenOk f.fmt n || (f.fmt == 3 && f.ide) then badParam 0x104 40 n
  else if c.timeForm 48 = false then timeReserved c 48
  else if 1000000000 ≤ c.timeNs 48 then badParam 0x109 48 (c.timeNs 48)
  else if timing = 2 ∧ (c.p 60 4 < 100000 ∨ 4000000000 < c.p 60 4) then badParam 0x10A 60 (c.p 60 4)
  else if !b.loadable then wrongState 0x106 b.st
  else if gwFirst s ch ≤ i then wrongState 0x107 i
  else if !fmtOn s ch f.fmt then wrongState 0x105 f.fmt
  else if storeFree s ch i < storeShare n then .fail stNoFit 0x108 noOffset (storeFree s ch i)
  else .done (loadBuf ch i f (c.p 33 1) timing (c.time 48) (c.p 60 4) s)

/-- Buffer number and reserved bytes of an abort or status command. -/
def bufForm (c : Cmd) (k : Nat → CmdOut) : CmdOut :=
  if 63 < c.p 32 1 then clnRange 32 else if !c.zero 33 3 then reservedField c 33 else k (c.p 32 1)

def effClnCanTxAbort : CmdEff := fun c s =>
  bufForm c fun i =>
    let b := buf s c.inst i
    if gwFirst s c.inst ≤ i then wrongState 0x107 i
    else if b.st = 3 then .wait (setBuf c.inst i { b with abort := true } s)
    else if b.st = 1 ∨ b.st = 2 then .res (setBuf c.inst i { b with st := 6 } s) [6]
    else .res s (leBytes 1 b.st)

def effClnCanTxStatus : CmdEff := fun c s =>
  bufForm c fun i =>
    let b := buf s c.inst i
    .res s (leBytes 1 b.st ++ leBytes 1 b.retries ++ leBytes 1 b.coll ++ [0] ++ timeBytes b.sof)

def effClnCanFilter : CmdEff := fun c s =>
  let fl := c.p 33 1
  if 63 < c.p 32 1 then clnRange 32
  else if 7 < fl then reservedField c 33
  else if 15 < c.p 34 1 then reservedField c 34
  else if !c.zero 35 1 then reservedField c 35
  else if 2 ^ 29 ≤ c.p 36 4 then clnRange 36
  else if 2 ^ 29 ≤ c.p 40 4 then clnRange 40
  else
    let x : Filter := { en := fl.testBit 0, reject := fl.testBit 1, ide := fl.testBit 2, formats := c.p 34 1, id := c.p 36 4,
                        mask := c.p 40 4 }
    .done (s.withCln (fun t => { t with filters := tput Filter.zero t.filters (c.inst * 64 + c.p 32 1) x }))

def effClnCanRecover : CmdEff := fun c s =>
  if canState s c.inst = 3 ∧ s.bit (canReg c.inst 0) 4 = false then .done (setCanState c.inst 4 s)
  else wrongState 0x10B (canState s c.inst)

def effClnCanWakeCfg : CmdEff := fun c s =>
  let fl := c.p 34 1
  if 2 < c.p 32 1 then clnRange 32
  else if 3 < c.p 33 1 then clnRange 33
  else if 3 < fl then reservedField c 34
  else if 8 < c.p 35 1 then clnRange 35
  else if 2 ^ 29 ≤ c.p 36 4 then clnRange 36
  else if 2 ^ 29 ≤ c.p 40 4 then clnRange 40
  else
    let x : WakeCfg := { mode := c.p 32 1, rate := c.p 33 1, ide := fl.testBit 0, dataMatch := fl.testBit 1, dlc := c.p 35 1,
                         id := c.p 36 4, idMask := c.p 40 4, dataMask := slice c.payload 12 8 }
    .done (s.withCln (fun t => { t with wake := tput WakeCfg.zero t.wake c.inst x, wufErr := terase t.wufErr c.inst }))

def effClnCanCounters : CmdEff := fun c s => .res s (readRegs (regRun (canReg c.inst 0x40) 16) s)

def effClnLinConfig : CmdEff := fun c s =>
  let m := c.inst - 16
  let v := c.w 32
  if fld v 14 1 ≠ 0 then reservedField c 32
  else if fld v 31 15 < 4000 ∨ 80000 < fld v 31 15 then clnRange 32
  else if fld (c.w 36) 31 9 ≠ 0 then reservedField c 36
  else if !lcfgOk (c.w 36) then clnRange 36
  else if s.bit (linReg m 0) 0 then wrongState 0x102 c.inst
  else .done ((s.wr (linReg m 0) (setBit v 0 false)).wr (linReg m 4) (c.w 36))

/-- Check of schedule entries from payload entry `k` on: the failure of the first bad one. -/
def schedFault (c : Cmd) (s : State) (m start : Nat) : Nat → Nat → Option CmdOut
  | 0, _ => none
  | n + 1, k =>
    let o := 36 + 8 * k
    let w := c.w o
    let u := c.w (o + 4)
    let typ := entryType w
    if fld w 31 15 ≠ 0 then some (reservedField c o)
    else if 5 < typ ∨ (typ ≠ 5 ∧ (entryLen w = 0 ∨ 8 < entryLen w)) ∨ (typ = 3 ∧ entryId w ≠ 0x3C) ∨
        (typ = 4 ∧ entryId w ≠ 0x3D) then some (clnRange o)
    else if fld u 31 24 ≠ 0 then some (reservedField c (o + 4))
    else if fld u 23 0 < 100 ∨ 10000000 < fld u 23 0 then some (clnRange (o + 4))
    else if !slotLong s m w u then some (badParam 0x10C (o + 4) (start + k))
    else schedFault c s m start n (k + 1)

def effClnLinSchedLoad : CmdEff := fun c s =>
  let m := c.inst - 16
  let a := c.p 32 1
  let n := c.p 33 1
  if c.len ≠ 4 + 8 * n then .fail stLength 6 6 (4 + 8 * n)
  else if 63 < a then clnRange 32
  else if n = 0 ∨ 64 < n ∨ 64 < a + n then clnRange 33
  else if !c.zero 34 2 then reservedField c 34
  else match schedFault c s m a n 0 with
    | some f => f
    | none =>
      let put := fun (s : State) => (List.range n).foldl (fun s k =>
        s.withCln (fun t => { t with sched := tput (0, 0) t.sched (m * 64 + a + k) (c.w (36 + 8 * k), c.w (40 + 8 * k)) })) s
      match tget none s.cln.runs m with
      | some r => if a ≤ r.last ∧ r.first < a + n then wrongState 0x10E r.first else .done (put s)
      | none => .done (put s)

/-- The first whole nanosecond at or after both now and the end of the slot in progress. -/
def slotEnd (s : State) (m : Nat) : Nat :=
  match tget none s.cln.runs m with
  | some r => max s.nowUp r.ends
  | none => s.nowUp

def effClnLinRun : CmdEff := fun c s =>
  let m := c.inst - 16
  let f := c.p 32 1
  let l := c.p 33 1
  let stop := (c.p 34 1).testBit 0
  let cycle := linCycle s m f l
  if 63 < f then clnRange 32
  else if 63 < l ∨ l < f then clnRange 33
  else if 1 < c.p 34 1 then reservedField c 34
  else if !c.zero 35 1 then reservedField c 35
  else if !c.timeForm 36 then timeReserved c 36
  else if 1000000000 ≤ c.timeNs 36 then badParam 0x109 36 (c.timeNs 36)
  else if !stop && (decide (cycle < 1000) || decide (10000000 < cycle)) then badParam 0x10D 32 (min 0xFFFFFFFF cycle)
  else if (tget none s.cln.next m).isSome then wrongState 0x10F c.inst
  else if linState s m = 0 ∨ linState s m = 3 then wrongState 0x110 (linState s m)
  else if stop then
    if (tget none s.cln.runs m).isNone then .res s (timeBytes s.now)
    else .res (setNext m (some .stop) s) (timeBytes (slotEnd s m))
  else
    let t := firstInstant (c.time 36) (cycle * 1000) (slotEnd s m)
    .res (setNext m (some (.switch f l t)) s) (timeBytes t)

def effClnLinData : CmdEff := fun c s =>
  let m := c.inst - 16
  let n := c.p 33 1
  if 63 < c.p 32 1 then clnRange 32
  else if n = 0 ∨ 8 < n then clnRange 33
  else if !c.zero 34 2 then reservedField c 34
  else .done (setPublish m (c.p 32 1) (slice c.payload 4 n) s)

def effClnLinPower : CmdEff := fun c s =>
  let m := c.inst - 16
  let st := linState s m
  if !c.zero 33 3 then reservedField c 33
  else if c.p 32 1 = 1 then
    if st = 0 ∨ st = 3 then wrongState 0x110 st
    else if slotOver s m && (tget none s.cln.onBus m).isNone then .wait (linGoToSleep m s)
    else .wait (setNext m (some .sleep) s)
  else if c.p 32 1 = 2 then
    if st = 3 then .wait (busSend (.linPulse m) s) else wrongState 0x110 st
  else clnRange 32

def effClnLinCounters : CmdEff := fun c s => .res s (readRegs (regRun (linReg (c.inst - 16) 0x40) 8) s)

def execClnCanConfig (ring slot : Nat) (s : State) : Out := opRow (specOf opsCln 0x0900) effClnCanConfig ring slot s

def execClnCanMode (ring slot : Nat) (s : State) : Out := opRow (specOf opsCln 0x0901) effClnCanMode ring slot s

def execClnCanTxLoad (ring slot : Nat) (s : State) : Out := opRow (specOf opsCln 0x0902) effClnCanTxLoad ring slot s
def execClnCanTxAbort (ring slot : Nat) (s : State) : Out := opRow (specOf opsCln 0x0903) effClnCanTxAbort ring slot s
def execClnCanTxStatus (ring slot : Nat) (s : State) : Out := opRow (specOf opsCln 0x0904) effClnCanTxStatus ring slot s
def execClnCanFilter (ring slot : Nat) (s : State) : Out := opRow (specOf opsCln 0x0905) effClnCanFilter ring slot s
def execClnCanRecover (ring slot : Nat) (s : State) : Out := opRow (specOf opsCln 0x0906) effClnCanRecover ring slot s
def execClnCanWakeCfg (ring slot : Nat) (s : State) : Out := opRow (specOf opsCln 0x0907) effClnCanWakeCfg ring slot s
def execClnCanCounters (ring slot : Nat) (s : State) : Out := opRow (specOf opsCln 0x0908) effClnCanCounters ring slot s
def execClnLinConfig (ring slot : Nat) (s : State) : Out := opRow (specOf opsCln 0x0910) effClnLinConfig ring slot s
def execClnLinSchedLoad (ring slot : Nat) (s : State) : Out := opRow (specOf opsCln 0x0911) effClnLinSchedLoad ring slot s
def execClnLinRun (ring slot : Nat) (s : State) : Out := opRow (specOf opsCln 0x0912) effClnLinRun ring slot s
def execClnLinData (ring slot : Nat) (s : State) : Out := opRow (specOf opsCln 0x0913) effClnLinData ring slot s
def execClnLinPower (ring slot : Nat) (s : State) : Out := opRow (specOf opsCln 0x0914) effClnLinPower ring slot s
def execClnLinCounters (ring slot : Nat) (s : State) : Out := opRow (specOf opsCln 0x0915) effClnLinCounters ring slot s

end Sys2Proof.Machine
end

