-- ==== Sys2Proof/Machine/Lsc.lean ====
section
/-! DEFINITION. The commands of the lockstep safety domains and their output ports (R424–R447). -/

namespace Sys2Proof.Machine

/-! ### The pair (R426–R432) -/

/-- The comparator finds a difference on an interface: 0 bus, 1 output port, 2 mirror link, 3 debug. It runs in every
state but RESET and SPLIT, and in FAULTED both copies stand. -/
def execLockstepMismatch (d iface : Nat) (pc : Word) (s : State) : Out :=
  act (fun s =>
    if 2 ≤ d ∨ 4 ≤ iface ∨ [1, 2, 4].contains (domState s d) = false then s
    else domFault d (if (dom s d).inject then 3 else 1) iface pc s) s

/-- A reset of a domain by a fault or by LSC_RESTART ends. -/
def execFaultResetTimeout (d : Nat) (s : State) : Out :=
  act (fun s => if d < 2 ∧ domState s d = 0 ∧ (dom s d).resetting = true then domHeld d s else s) s

/-- A row that brings words of both copies acts only with as many as R430 names. -/
def onWords (cope drag : List Word) (o : Out) (s : State) : Out := if copiesOk cope drag then o else .next s

/-- A periodic SYNC_CHECK over the words of both copies. -/
def execSyncCheckPeriodic (d : Nat) (cope drag : List Word) (s : State) : Out :=
  onWords cope drag
    (act (fun s => if d < 2 ∧ (domState s d = 1 ∨ domState s d = 2) then (syncCheck d cope drag s).2 else s) s) s

/-- DBG_EN of a domain. -/
def dbgEn (s : State) (d : Nat) : Bool := s.bit (domReg d 4) 1

/-- dcsr with its mode any that the core has, M or U, and what halted the core: 3 a request, 4 a step (log entry 12). -/
def dcsrHalt (cause any_ dcsr : Nat) : Nat :=
  dcsr / 2 ^ 9 * 2 ^ 9 + cause * 2 ^ 6 + dcsr / 4 % 16 * 4 + (if any_ % 2 = 0 then 0 else 3)

/-- Both copies stand at some instruction boundary, which is any (log entry 21). -/
def copiesStop (d cause : Nat) (s : State) : State :=
  let y := Config.anyDom s.fresh
  let t := setCopies d (copyWords y.cope) (copyWords y.drag) { s with fresh := s.fresh + 1 }
  setDomInfo d { dom t d with dcsr := dcsrHalt cause y.dcsr (dom t d).dcsr } t

/-- A domain halts. -/
def debugStop (d : Nat) (s : State) : State := setDom d 4 (copiesStop d 3 s)

/-- A halted domain resumes: SYNC_CHECK at once. Where dcsr.step is set and the check passes, the pair then halts again
after one instruction (R431, R435). -/
def debugGo (d : Nat) (cope drag : List Word) (s : State) : State :=
  let r := syncCheck d cope drag (setDom d 1 s)
  if r.1 && (dom s d).dcsr.testBit 2 then setDom d 4 (copiesStop d 4 r.2) else r.2

/-- The debug module may act: a debugger is attached, and the domain lets it in (R435, R580). -/
def debugMay (s : State) (d : Nat) : Bool := s.sys.debug && dbgEn s d

/-- The debug module halts a domain. -/
def execDebugHalt (d : Nat) (s : State) : Out :=
  act (fun s => if d < 2 ∧ (domState s d = 1 ∨ domState s d = 2) ∧ debugMay s d = true then debugStop d s else s) s

/-- The debug module resumes a domain, with a SYNC_CHECK at once. -/
def execDebugResume (d : Nat) (cope drag : List Word) (s : State) : Out :=
  onWords cope drag
    (act (fun s => if d < 2 ∧ domState s d = 4 ∧ debugMay s d = true then debugGo d cope drag s else s) s) s

/-- An activation timer reaches its instant. -/
def execActivation (d k : Nat) (s : State) : Out :=
  act (fun s =>
    let t := actNext s d k
    if 2 ≤ d ∨ 8 ≤ k ∨ s.bit (actReg d k 0) 0 = false ∨ s.now < t then s
    else
      let s := if s.bit (domReg d 0x44) (24 + k) then (s.cnt (domReg d 0x2C) 1).raise 13 (4 + d)
        else s.sb (domReg d 0x44) (24 + k) true
      let p := actPeriod s d k
      if p = 0 then actEnable d k false s else setActNext d k (t + p) s) s

/-! ### Output ports (R442–R447) -/

/-- The form of a message body (R442). -/
def bodyForm (kind : Nat) (b : List Word) : Bool :=
  let n := b.length
  let w0 := b.headD 0
  let w1 := b.getD 1 0
  let len := fld w1 6 0
  let fmt := fld w1 9 8
  match kind with
  | 1 => decide (1 ≤ n) && decide (n ≤ 4)
  | 2 =>
    let legal := if fmt = 0 then decide (len ≤ 8)
      else [0, 1, 2, 3, 4, 5, 6, 7, 8, 12, 16, 20, 24, 32, 48, 64].contains len
    let data := (b.drop 2).flatMap (fun w => leBytes 4 w.toNat)
    decide (2 ≤ n) && n == 2 + (len + 3) / 4 && !bitOf w0 31 && w1 &&& ~~~ 0x37F#32 == 0 && fmt != 3 && legal &&
      (!bitOf w0 30 || fmt == 0) && (data.drop len).all (· == 0)
  | 3 => n == 1 && fld w0 31 16 == 0
  | _ => false

/-- A discarded message: LAST_DISCARD is 1 STATE, 2 FORM or 3 FULL. -/
def portDiscard (d why : Nat) (s : State) : State :=
  (s.cnt (domReg d 0x89C) 1).sf (domReg d 0x888) 10 9 why

/-- A message joins the port's queue. -/
def portSend (d : Nat) (f : OFrame) (s : State) : State :=
  let q := (dom s d).queue
  if 16 ≤ (q.filter (fun x => !x.isStatus)).length then portDiscard d 3 s
  else
    let s := s.cnt (domReg d 0x898) 1
    let s := if f.kind = 3 then s.wr (domReg d 0x894) (setBit (s.rd (domReg d 0x894) &&& 0xFFFF) 16 true)
      else s.wr (domReg d 0x88C) (BitVec.ofNat 32 ((f.seq + 1) % 65536))
    portPump d (setPortQueue d (q ++ [f]) s)

/-- A write of O_SEND (R442, R443): KIND and LEN in `v`. While the link is cut, any word is discarded and counted in
D_OUT_DISCARD (R432). -/
def oSend (d : Nat) (v : Word) (s : State) : State :=
  let kind := fld v 1 0
  let n := fld v 12 8
  let body := (List.range n).map (fun i => s.rd (domReg d (0x800 + 4 * i)))
  if portState s d = 0 then s.cnt (domReg d 0x28) 1
  else if 18 < n ∨ bodyForm kind body = false then portDiscard d 2 s
  else match portState s d with
    | 2 =>
      if kind = 3 then (s.cnt (domReg d 0x89C) 1).wr (domReg d 0x894) (BitVec.ofNat 32 (stWrongState + 2 ^ 17))
      else portSend d (oFrame d (portSeq s d) kind body) s
    | 3 => if kind = 3 then portSend d (oFrame d (fld (body.headD 0) 15 0) kind body) s else portDiscard d 1 s
    | _ => portDiscard d 1 s

/-- A write of an output port register: only the domain's own masters reach it, whatever the access tables say (R36,
R465). -/
def portWrite (m d off : Nat) (f : State → Ans) (s : State) : Out :=
  fabricAct m (domReg d off) (fun s =>
    if 2 ≤ d then s
    else if !domReach s m || domainOf m != some d then s.refuse m (domReg d off) true
    else if (s.aclEntry 13 m).allows 1 (.bit d) then settle m s (f s) else s.drop m) s

def execOSend (m d : Nat) (v : Word) (s : State) : Out :=
  portWrite m d 0x880 (fun s => if v &&& ~~~ 0x1F03#32 = 0 then .ok (oSend d v s) else unpredictable 13) s

/-- O_CTRL.GO in ALIGNING. -/
def portGo (d : Nat) (s : State) : State := if portState s d = 1 then setPort d 2 s else s

/-- O_CTRL.REJOIN in ISOLATED while the mirror is there. -/
def portRejoin (d : Nat) (s : State) : State := if portState s d = 3 && portMirror s d then setPort d 1 s else s

def execOCtrlGo (m d : Nat) (s : State) : Out := portWrite m d 0x884 (fun s => .ok (portGo d s)) s

def execOCtrlRejoin (m d : Nat) (s : State) : Out := portWrite m d 0x884 (fun s => .ok (portRejoin d s)) s

/-- A whole word written to O_CTRL (R444). -/
def oCtrlWrite (m d : Nat) (v : Word) (s : State) : Out :=
  portWrite m d 0x884 (fun s =>
    if fld v 31 2 ≠ 0 then unpredictable 13
    else
      let s := if bitOf v 0 then portGo d s else s
      .ok (if bitOf v 1 then portRejoin d s else s)) s

/-- A periodic status frame, on the output link and on the mirror link, where it is compared (R426, R447); `bad` says
that the peer found its CRC wrong. Both copies stand in FAULTED. -/
def execStatusFrameSend (d : Nat) (bad : Bool) (s : State) : Out :=
  act (fun s =>
    if 2 ≤ d ∨ domState s d = 0 ∨ domState s d = 3 then s
    else if (dom s d).inject = true then injectFault (0x10 + 2 * d) 2 s
    else
      let s := portStatus d s
      let p := 1 - d
      if bad then s
      else
        let s := s.wr (domReg p 0x890) (BitVec.ofNat 32 (portSeq s d))
        (s.sb (domReg p 0x888) 2 true).sb (domReg p 0x888) 3 (!faultLine s d)) s

/-- A port declares the mirror lost, in any state of its own (R447): 50 µs without a valid frame have passed, and the
peer's line is deasserted. In ALIGNING and LIVE, domain B's port is isolated (R444). -/
def execMirrorLost (d : Nat) (s : State) : Out :=
  act (fun s =>
    if 2 ≤ d ∨ faultLine s (1 - d) = true then s
    else
      let s := ((s.sb (domReg d 0x888) 2 false).sb (domReg d 0x888) 3 false).cnt (domReg d 0x8A0) 1
      if d = 1 ∧ (portState s 1 = 1 ∨ portState s 1 = 2) then setPort 1 3 (setPortQueue 1 ((dom s 1).queue.filter (fun f => f.kind == 0 || f.kind == 3)) s) else s) s

/-! ### Registers -/

/-- A timer period within its range. -/
def actPeriodOk (p : Nat) : Bool := p == 0 || (decide (10000 ≤ p) && decide (p ≤ 1000000000))

/-- A second-core start address in the domain's TCM. -/
def splitPcOk (d pc : Nat) : Bool :=
  decide (tcmBase d ≤ pc) && decide (pc < tcmBase d + 0x100000) && pc % 2 == 0

def syncMsOk (v : Word) : Bool := decide (1 ≤ fld v 17 8) && decide (fld v 17 8 ≤ 1000)

/-- D_CFG as a write leaves it: DBG_LOCK stays set, and then DBG_EN stays. -/
def dcfgWrite (old v : Word) : Word :=
  if bitOf old 2 then setBit (setBit v 2 true) 1 (bitOf old 1) else v

/-- Whether an access to LSC is refused whatever the access tables say (R36). -/
def lscRefused (m off : Nat) : Bool :=
  let d := off / 0x1000 - 1
  decide (0x1000 ≤ off) && decide (off < 0x3000) &&
    (if 0x800 ≤ off % 0x1000 ∧ off % 0x1000 < 0x900 then domainOf m != some d else domainOf m == some (1 - d))

/-- Software's write of an LSC register that has no row. -/
def lscWrite (off : Nat) (v : Word) (s : State) : Option Ans :=
  if off < 0x1000 ∨ 0x3000 ≤ off then none
  else
    let d := off / 0x1000 - 1
    let o := off % 0x1000
    let k := (o - 0x100) / 0x10
    if o = 4 then some (if syncMsOk v then .ok (s.wr (domReg d 4) (dcfgWrite (s.rd (domReg d 4)) v)) else unpredictable 13)
    else if o = 8 then (if splitPcOk d v.toNat then none else some (unpredictable 13))
    else if 0x100 ≤ o ∧ o < 0x180 then
      let en := s.bit (actReg d k 0) 0
      match o % 0x10 with
      | 0 => some (.ok (if en then (if bitOf v 0 then s else actEnable d k false s)
          else actEnable d k (bitOf v 0) (s.wr (rg 13 off) v)))
      | 4 => if en then some (.ok s) else if 999999999 < fld v 29 0 then some (unpredictable 13) else none
      | 8 => if en then some (.ok s) else none
      | _ => if en then some (.ok s) else if actPeriodOk v.toNat then none else some (unpredictable 13)
    else if o = 0x88C then (if portState s d = 1 then none else some (.ok s))
    else none

/-! ### Opcodes (R438–R440) -/

def opsLsc : List OpSpec :=
  let op := fun (o len : Nat) =>
    ({ opcode := o, lenLo := len, lenHi := len, instHi := 1, classHi := 1, block := 13, mask := fun c => .bit c.inst } : OpSpec)
  [op 0x0D00 0, op 0x0D01 8, op 0x0D02 0, op 0x0D03 0, op 0x0D04 0, op 0x0D05 0, op 0x0D06 0, op 0x0D07 0, op 0x0D08 20]

def effLscStatus : CmdEff := fun c s =>
  .res s (readRegs [domReg c.inst 0, domReg c.inst 0xC, domReg c.inst 0x10, domReg c.inst 0x14] s)

def effLscSetCfg : CmdEff := fun c s =>
  let old := s.rd (domReg c.inst 4)
  if c.w 32 &&& ~~~ 0x3FF0F#32 ≠ 0 then reservedField c 32
  else if !syncMsOk (c.w 32) then badParam 0x109 32 0
  else if !splitPcOk c.inst (c.p 36 4) then badParam 0x109 36 0
  else if bitOf old 2 && bitOf old 1 != bitOf (c.w 32) 1 then wrongState 0x104 c.inst
  else .done ((s.wr (domReg c.inst 4) (dcfgWrite old (c.w 32))).wr (domReg c.inst 8) (c.w 36))

/-- A command's SYNC_CHECK; a mismatch is INTEGRITY, partial. -/
def cmdSync (d : Nat) (cope drag : List Word) (s : State) (k : State → CmdOut) : CmdOut :=
  let r := syncCheck d cope drag s
  if r.1 then k r.2 else .part r.2 stIntegrity 0x105 noOffset (syncHash drag).toNat

def wrongDom (s : State) (d : Nat) : CmdOut := wrongState 0x100 (domState s d)

def effLscRelease (cope drag : List Word) : CmdEff := fun c s =>
  let d := c.inst
  if domState s d ≠ 1 then wrongDom s d
  else if c.issuer ≠ 0x10 + 2 * d then wrongState 0x103 c.issuer
  else cmdSync d cope drag s (fun s => .done (setDom d 2 s))

def effLscSyncCheck (cope drag : List Word) : CmdEff := fun c s =>
  let d := c.inst
  if domState s d ≠ 1 ∧ domState s d ≠ 2 then wrongDom s d
  else cmdSync d cope drag s (fun s => .res s (leBytes 4 (syncHash cope).toNat))

/-- Drag runs as the second core, from D_SPLIT_PC (R436). -/
def splitCore (d : Nat) (s : State) : State :=
  let s := setCopies d (dom s d).cope (coreStart (s.rd (domReg d 8)).toNat) s
  setDomInfo d { dom s d with dcsr2 := dcsrReset } s

/-- LSC_SPLIT (R436). With `hit`, a lockstep fault on an interface, at a program counter, arrives before the comparator
stops and takes precedence: the command ends as a reset of its target does. -/
def effLscSplit (hit : Option (Nat × Word)) : CmdEff := fun c s =>
  let d := c.inst
  if domState s d ≠ 1 ∧ domState s d ≠ 2 then wrongDom s d
  else if domState s (1 - d) ≠ 2 then wrongState 0x101 (domState s (1 - d))
  else if !s.bit (domReg d 4) 3 then wrongState 0x102 d
  else match hit with
    | some h => .part (domFault d (if (dom s d).inject then 3 else 1) (h.1 % 4) h.2 (setDom d 5 s)) stAborted 0x16 noOffset 13
    | none => .done (splitCore d (setDom d 5 s))

/-- LSC_JOIN (R437): the second core's state is discarded, and Drag, reset, takes a copy of Cope's. `cope` and `drag` are
the words of both as they stand at the SYNC_CHECK, after they have resumed. -/
def effLscJoin (cope drag : List Word) : CmdEff := fun c s =>
  let d := c.inst
  if domState s d ≠ 5 then wrongDom s d
  else cmdSync d cope drag (setCopies d (dom s d).cope (dom s d).cope s) (fun s => .done (setDom d 1 s))

def effLscRestart : CmdEff := fun c s =>
  let d := c.inst
  if domState s d = 0 then wrongDom s d
  else .wait (setDom d 0 (setDomInfo d { dom s d with resetting := true, inject := false } s))

def effLscInject : CmdEff := fun c s =>
  let d := c.inst
  if domState s d ≠ 1 ∧ domState s d ≠ 2 then wrongDom s d
  else if domState s (1 - d) ≠ 2 then wrongState 0x101 (domState s (1 - d))
  else .wait (setDomInfo d { dom s d with inject := true } s)

def effLscActCfg : CmdEff := fun c s =>
  let d := c.inst
  let k := c.p 32 1
  if 7 < k then badParam 0x109 32 0
  else if 1 < c.p 33 1 then reservedField c 33
  else if c.zero 34 2 = false then reservedField c 34
  else if !c.timeForm 36 then timeReserved c 36
  else if 999999999 < c.timeNs 36 then badParam 0x106 36 (c.timeNs 36)
  else if !actPeriodOk (c.p 48 4) then badParam 0x107 48 (c.p 48 4)
  else if s.bit (actReg d k 0) 0 then
    if c.p 33 1 = 0 then .done (actEnable d k false s) else wrongState 0x108 k
  else
    let s := s.wr (actReg d k 0) (BitVec.ofNat 32 (c.p 44 2 * 65536))
    let s := ((s.wr (actReg d k 4) (c.w 36)).wr (actReg d k 8) (c.w 40)).wr (actReg d k 0xC) (c.w 48)
    .done (actEnable d k (c.p 33 1 == 1) s)

def execLscStatus (ring slot : Nat) (s : State) : Out := opRow (specOf opsLsc 0x0D00) effLscStatus ring slot s
def execLscSetCfg (ring slot : Nat) (s : State) : Out := opRow (specOf opsLsc 0x0D01) effLscSetCfg ring slot s
def execLscRelease (ring slot : Nat) (cope drag : List Word) (s : State) : Out :=
  onWords cope drag (opRow (specOf opsLsc 0x0D02) (effLscRelease cope drag) ring slot s) s
def execLscSyncCheck (ring slot : Nat) (cope drag : List Word) (s : State) : Out :=
  onWords cope drag (opRow (specOf opsLsc 0x0D03) (effLscSyncCheck cope drag) ring slot s) s
/-- LSC_SPLIT, with the lockstep fault that arrives before its step 3, where one does. -/
def execLscSplit (ring : Nat) (slot : Nat × Option (Nat × Word)) (s : State) : Out :=
  opRow (specOf opsLsc 0x0D04) (effLscSplit slot.2) ring slot.1 s
def execLscJoin (ring slot : Nat) (cope drag : List Word) (s : State) : Out :=
  onWords cope drag (opRow (specOf opsLsc 0x0D05) (effLscJoin cope drag) ring slot s) s
def execLscRestart (ring slot : Nat) (s : State) : Out := opRow (specOf opsLsc 0x0D06) effLscRestart ring slot s
def execLscInject (ring slot : Nat) (s : State) : Out := opRow (specOf opsLsc 0x0D07) effLscInject ring slot s
def execLscActCfg (ring slot : Nat) (s : State) : Out := opRow (specOf opsLsc 0x0D08) effLscActCfg ring slot s

end Sys2Proof.Machine
end

