-- ==== Sys2Proof/Machine/Cluster.lean ====
section
/-! DEFINITION. The cluster control region (R418–R423): the registers of the APLIC, the IMSIC files, the IOMMU and the
debug module. Layouts are PRESUMED from the RISC-V specifications that the chapter names (log entry 12). -/

namespace Sys2Proof.Machine

/-- Who reaches the cluster control region (log entry 12): under their windows the debug port, the hypervisor, the guests
and, for their MSIs, the PCIe functions. -/
def clusterReach (s : State) (m a : Nat) (wr : Bool) : Bool :=
  (m == 2 || isCluster m || isPcie m) && s.inWindows m a wr

/-! ### APLIC -/

/-- Sources of R420. -/
def sources : List Nat := (List.range 120).drop 1

/-- The input of source `n` as its domain sees it, rectified. -/
def aplicHigh (c : CpuState) (child : Bool) (n : Nat) : Bool :=
  match sourceMode c child n with
  | 4 | 6 => c.levels.testBit n
  | 5 | 7 => !c.levels.testBit n
  | _ => false

/-- A write that makes source `n` pending: a level source only while its input is active. -/
def aplicSet (child : Bool) (n : Nat) (c : CpuState) : CpuState :=
  let m := sourceMode c child n
  if m = 0 ∨ (6 ≤ m ∧ aplicHigh c child n = false) then c else aplicPend child n c

/-- The enable of source `n`. -/
def aplicEnable (child on : Bool) (n : Nat) (c : CpuState) : CpuState :=
  if sourceMode c child n = 0 then c
  else
    let x := aplicOf c child
    let e := if x.enabled.testBit n then x.enabled - 2 ^ n else x.enabled
    aplicSend child n (setAplic child { x with enabled := if on then e + 2 ^ n else e } c)

/-- A source that becomes inactive in a domain has no pending bit, enable and target there. -/
def aplicOff (child : Bool) (n : Nat) (c : CpuState) : CpuState :=
  if sourceMode c child n ≠ 0 then c
  else
    let x := aplicOf (aplicDrop child n c) child
    setAplic child { x with enabled := if x.enabled.testBit n then x.enabled - 2 ^ n else x.enabled,
                            target := tput 0 x.target n 0 } c

/-- A write of sourcecfg: D in the machine-level domain only, else a mode that is not reserved. -/
def aplicSource (child : Bool) (n v : Nat) (c : CpuState) : CpuState :=
  let x := aplicOf c child
  let cfg := if v.testBit 10 then (if child then 0 else 2 ^ 10) else if [2, 3].contains (v % 8) then 0 else v % 8
  if child && !aplicChild c n then c
  else
    let c := setAplic child { x with source := tput 0 x.source n cfg } c
    let c := aplicOff false n (aplicOff true n c)
    if 6 ≤ sourceMode c child n ∧ aplicHigh c child n = true then aplicPend child n c else c

/-- Fold an act over the sources that a word names, from source `base`. -/
def aplicBits (f : Nat → CpuState → CpuState) (base v : Nat) (c : CpuState) : CpuState :=
  ((List.range 32).filter (fun i => v.testBit i && sources.contains (base + i))).foldl (fun c i => f (base + i) c) c

/-- An act on the source that a number names. -/
def aplicNum (f : Nat → CpuState → CpuState) (n : Nat) (c : CpuState) : CpuState := if sources.contains n then f n c else c

/-- A word written at an offset of a domain's APLIC. -/
def aplicWrite (child : Bool) (off v : Nat) (c : CpuState) : CpuState :=
  let x := aplicOf c child
  if off = 0 then
    sources.foldl (fun c n => aplicSend child n c) (setAplic child { x with ie := v.testBit 8 } c)
  else if off < 0x1000 then aplicNum (fun n => aplicSource child n v) (off / 4) c
  else if 0x1C00 ≤ off ∧ off < 0x1C80 then aplicBits (aplicSet child) ((off - 0x1C00) * 8) v c
  else if off = 0x1CDC ∨ off = 0x2000 then aplicNum (aplicSet child) v c
  else if 0x1D00 ≤ off ∧ off < 0x1D80 then aplicBits (aplicDrop child) ((off - 0x1D00) * 8) v c
  else if off = 0x1DDC then aplicNum (aplicDrop child) v c
  else if 0x1E00 ≤ off ∧ off < 0x1E80 then aplicBits (aplicEnable child true) ((off - 0x1E00) * 8) v c
  else if off = 0x1EDC then aplicNum (aplicEnable child true) v c
  else if 0x1F00 ≤ off ∧ off < 0x1F80 then aplicBits (aplicEnable child false) ((off - 0x1F00) * 8) v c
  else if off = 0x1FDC then aplicNum (aplicEnable child false) v c
  else if off = 0x3000 then imsicSet (v / 2 ^ 18) (b2n child) (v % 2 ^ 11) c
  else if 0x3004 ≤ off ∧ off < 0x4000 then
    aplicNum (fun n c =>
      if sourceMode c child n = 0 then c
      else setAplic child { x with target := tput 0 x.target n (if child then v else v / 2 ^ 18 * 2 ^ 18 + v % 2 ^ 11) } c)
      ((off - 0x3000) / 4) c
  else c

/-- The bits of 32 sources from `base`. -/
def aplicWord (p : Nat → Bool) (base : Nat) : Nat :=
  ((List.range 32).filter (fun i => sources.contains (base + i) && p (base + i))).foldl (fun a i => a + 2 ^ i) 0

/-- A word of a domain's APLIC. -/
def aplicRead (child : Bool) (off : Nat) (c : CpuState) : Nat :=
  let x := aplicOf c child
  if off = 0 then 0x80000004 + b2n x.ie * 256
  else if off < 0x1000 then (if child && !aplicChild c (off / 4) then 0 else tget 0 x.source (off / 4))
  else if 0x1C00 ≤ off ∧ off < 0x1C80 then aplicWord x.pend.testBit ((off - 0x1C00) * 8)
  else if 0x1D00 ≤ off ∧ off < 0x1D80 then aplicWord (aplicHigh c child) ((off - 0x1D00) * 8)
  else if 0x1E00 ≤ off ∧ off < 0x1E80 then aplicWord x.enabled.testBit ((off - 0x1E00) * 8)
  else if 0x3004 ≤ off ∧ off < 0x4000 then tget 0 x.target ((off - 0x3000) / 4)
  else 0

/-- Level sources follow their signals: events of blocks 0–18 and IOMMU vectors 0–3 (R420). -/
def sampleLevels (s : State) : State :=
  let level := fun (n : Nat) => if n < 20 then s.signal (n - 1) else ioVector s.cpu.iommu (n - 116)
  s.withCpu (fun c =>
    (sources.filter (fun n => decide (n < 20) || decide (116 ≤ n))).foldl (fun c n =>
      let was := c.levels.testBit n
      let now := level n
      let c := { c with levels := if was = now then c.levels else if now then c.levels + 2 ^ n else c.levels - 2 ^ n }
      aplicInput n was now c) c)

/-! ### IOMMU -/

/-- capabilities: version 1.0, Sv39, Sv48, their G-stage forms, MSI page tables, wired interrupts, 40 address bits. -/
def ioCapabilities : Nat := 0x10 + 2 ^ 9 + 2 ^ 10 + 2 ^ 17 + 2 ^ 18 + 2 ^ 22 + 2 ^ 28 + 40 * 2 ^ 32

def ioCqError (t : Tab Nat) : Bool := ioReg t 72 / 256 % 16 != 0
def ioFqError (t : Tab Nat) : Bool := ioReg t 76 / 256 % 4 != 0

/-- Pending interrupts whose cause stands. -/
def ioCause (t : Tab Nat) : Tab Nat :=
  let t := if (ioReg t 72).testBit 1 && ioCqError t then ioRaise 0 t else t
  if (ioReg t 76).testBit 1 && ioFqError t then ioRaise 1 t else t

/-- The command queue stops on bit `b` of cqcsr: 8 memory fault, 10 illegal command. -/
def ioCqStop (b : Nat) (t : Tab Nat) : Tab Nat := ioCause (tput 0 t 72 (ioReg t 72 ||| 2 ^ b))

/-- One command: the translations are not cached, so the invalidations leave nothing; a fence may write a word and set
FENCE_W_IP. None where it is illegal, or its write has no memory. -/
def ioCommand (w0 w1 : Nat) (m : Tab Byte) (t : Tab Nat) : Except Nat (Tab Byte × Tab Nat) :=
  match w0 % 128, w0 / 128 % 8 with
  | 1, 0 => .ok (m, t)
  | 1, 1 => .ok (m, t)
  | 2, 0 =>
    let a := w1 % 2 ^ 62 * 4
    let put := fun (m : Tab Byte) => (List.range 4).foldl (fun m i => tput 0 m (a + i) ((leBytes 4 (w0 / 2 ^ 32)).getD i 0)) m
    if w0.testBit 10 && !tableRegion a then .error 8
    else .ok (if w0.testBit 10 then put m else m, if w0.testBit 11 then ioCause (tput 0 t 72 (ioReg t 72 ||| 2 ^ 11)) else t)
  | 3, 0 => .ok (m, t)
  | _, _ => .error 10

/-- The command queue runs from its head to its tail: base 24, head 32, tail 36. -/
def ioQueue : Nat → Tab Byte → Tab Nat → Tab Byte × Tab Nat
  | 0, m, t => (m, t)
  | fuel + 1, m, t =>
    let head := ioReg t 32
    let size := 2 ^ (ioReg t 24 % 32 + 1)
    let a := ppnOf (ioReg t 24) * 4096 + head * 16
    if !(ioReg t 72).testBit 16 || ioReg t 72 / 256 % 8 != 0 || head = ioReg t 36 then (m, t)
    else if !tableRegion a then (m, ioCqStop 8 t)
    else match ioCommand (memNat m a 8) (memNat m (a + 8) 8) m t with
      | .error b => (m, ioCqStop b t)
      | .ok x => ioQueue fuel x.1 (tput 0 x.2 32 ((head + 1) % size))

/-- A write of cqcsr or fqcsr, whose flags `w1c` clear by a one: enabling starts an empty queue. -/
def ioQueueCtrl (off base w1c v : Nat) (t : Tab Nat) : Tab Nat :=
  let old := ioReg t off
  let kept := (List.range 4).foldl (fun a i =>
    if w1c.testBit i && old.testBit (8 + i) && !v.testBit (8 + i) then a + 2 ^ (8 + i) else a) 0
  let start := v.testBit 0 && !old.testBit 0
  let t := if start then tput 0 t base 0 else t
  tput 0 t off (v % 4 + (if start then 0 else kept) + b2n (v.testBit 0) * 2 ^ 16)

/-- The register that holds a word of the IOMMU, and whether it is the upper half. -/
def ioPlace (off : Nat) : Nat × Bool :=
  if [4, 20, 28, 44, 60, 764].contains off then (off - 4, true) else (off, false)

/-- A word written at an offset of the IOMMU's registers. -/
def ioWrite (off v : Nat) (m : Tab Byte) (t : Tab Nat) : Tab Byte × Tab Nat :=
  let p := ioPlace off
  let old := ioReg t p.1
  let all := if p.2 then old % 2 ^ 32 + v * 2 ^ 32 else old / 2 ^ 32 * 2 ^ 32 + v
  let addr := all / 1024 % 2 ^ 44 * 1024
  match p.1 with
  | 16 => (m, tput 0 t 16 (addr + (if all % 16 ≤ 4 then all % 16 else old % 16)))
  | 24 => (m, if (ioReg t 72).testBit 0 then t else tput 0 t 24 (addr + all % 32))
  | 36 => ioQueue (2 ^ (ioReg t 24 % 32 + 1)) m (tput 0 t 36 (v % 2 ^ (ioReg t 24 % 32 + 1)))
  | 40 => (m, if (ioReg t 76).testBit 0 then t else tput 0 t 40 (addr + all % 32))
  | 48 => (m, tput 0 t 48 (v % 2 ^ (ioReg t 40 % 32 + 1)))
  | 72 => ioQueue (2 ^ (ioReg t 24 % 32 + 1)) m (ioQueueCtrl 72 32 0xD v t)
  | 76 => (m, ioQueueCtrl 76 52 3 v t)
  | 84 => (m, ioCause (tput 0 t 84 (old &&& (old ^^^ (v % 16)))))
  | 760 => (m, if p.2 then t else tput 0 t 760 (v % 4 + v / 16 % 4 * 16))
  | _ => (m, t)

/-- A word of the IOMMU's registers: interrupts are wired, so fctl reads 2. -/
def ioReadWord (off : Nat) (t : Tab Nat) : Nat :=
  let p := ioPlace off
  let v := if p.1 = 0 then ioCapabilities else if p.1 = 8 then 2 else ioReg t p.1
  if p.2 then v / 2 ^ 32 else v % 2 ^ 32

/-! ### The debug module (R423, R435) -/

/-- The debug module holds a hart of a domain that is split: Cope, or the second core. -/
def splitHalted (s : State) (h : Nat) : Bool :=
  if h % 2 = 0 then (dom s ((h - 8) / 2)).haltCope else (dom s ((h - 8) / 2)).haltSecond

/-- A hart as the module sees it: 0 does not exist, 1 unavailable, 2 running, 3 halted. Harts 8 and 10 are the domains'
Copes, 9 and 11 their second cores while split. -/
def dmHart (s : State) (h : Nat) : Nat :=
  let x := s.cpu.hart h
  let d := (h - 8) / 2
  let st := domState s d
  if 12 ≤ h then 0
  else if h < 8 then
    if !engineFitted s.tier h then 0 else if !x.started then 1 else if x.halted then 3 else 2
  else if dbgEn s d = false then 1
  else if st = 5 then (if splitHalted s h then 3 else 2)
  else if h % 2 = 1 then 1
  else if st = 4 then 3
  else if st = 0 ∨ st = 3 then 1 else 2

def dmSet (h : Nat) (f : Hart → Hart) (s : State) : State := s.withCpu (fun c => c.setHart h (f (c.hart h)))

/-- What the hart is left with after it ran is any, as far as it is legal (log entry 21). -/
def hartRuns (h : Nat) (s : State) : State :=
  dmSet h (fun x => (Config.anyHart s.fresh h).keep x) { s with fresh := s.fresh + 1 }

/-- A core of a split domain halts, at an instruction boundary that is any; the domain's state stays (R431). -/
def splitStop (h cause : Nat) (s : State) : State :=
  let d := (h - 8) / 2
  let y := Config.anyDom s.fresh
  let s := { s with fresh := s.fresh + 1 }
  let x := dom s d
  if h % 2 = 0 then
    setDomInfo d { x with cope := copyWords y.cope, dcsr := dcsrHalt cause y.dcsr x.dcsr, haltCope := true } s
  else setDomInfo d { x with drag := copyWords y.drag, dcsr2 := dcsrHalt cause y.dcsr x.dcsr2, haltSecond := true } s

/-- A halt request: a cluster hart halts; a domain enters DEBUG from HELD or RUN (R431). -/
def dmHalt (h : Nat) (s : State) : State :=
  if dmHart s h ≠ 2 then s
  else if h < 8 then dmSet h (Hart.stop 3) s
  else if domState s ((h - 8) / 2) = 5 then splitStop h 3 s
  else debugStop ((h - 8) / 2) s

/-- A resume request; with dcsr.step, one instruction runs and the hart halts again. A domain makes its SYNC_CHECK over
the copies as they stand (R431). -/
def dmResume (h : Nat) (s : State) : State :=
  let s := dmSet h (fun x => { x with resumed := dmHart s h == 3 || x.resumed }) s
  let d := (h - 8) / 2
  let x := dom s d
  if dmHart s h ≠ 3 then s
  else if h < 8 then
    if ((s.cpu.hart h).dcsr).testBit 2 then dmSet h (Hart.stop 4) (hartRuns h s)
    else dmSet h (fun x => { x with halted := false }) s
  else if domState s d = 5 then
    if (if h % 2 = 0 then x.dcsr else x.dcsr2).testBit 2 then splitStop h 4 s
    else if h % 2 = 0 then setDomInfo d { x with haltCope := false } s
    else setDomInfo d { x with haltSecond := false } s
  else debugGo d (copyWords x.cope) (copyWords x.drag) s

/-! ### Registers of a halted hart -/

/-- The place of a register number among the words of R430, none where the core has no such register. -/
def domWord (regno : Nat) : Option Nat :=
  if regno = 0x7B1 then some 0
  else if 0x1001 ≤ regno ∧ regno < 0x1020 then some (regno - 0x1000)
  else if 0x1020 ≤ regno ∧ regno < 0x1040 then some (32 + (regno - 0x1020))
  else if regno = 3 then some 64
  else if 0x3A0 ≤ regno ∧ regno < 0x3A4 then some (74 + (regno - 0x3A0))
  else if 0x3B0 ≤ regno ∧ regno < 0x3C0 then some (78 + (regno - 0x3B0))
  else ([0x300, 0x301, 0x304, 0x305, 0x340, 0x341, 0x342, 0x343, 0x344].idxOf? regno).map (65 + ·) |>.orElse
    (fun _ => ([0xB00, 0xB80, 0xB02, 0xB82].idxOf? regno).map (94 + ·))

/-- Safety-clock cycles since domain `d`'s last reset: 800 MHz, of the local clock's 500 MHz (R52, R424). -/
def domCycles (s : State) (d : Nat) : Nat := (s.sys.ticks - (dom s d).born) * 8 / 5

/-- The registers of hart `h`'s core beside those of R430: x0, dcsr, mhartid, and the clocks (R424). -/
def domOther (s : State) (h regno : Nat) : Option Nat :=
  let d := (h - 8) / 2
  if regno = 0x1000 then some 0
  else if regno = 0x7B0 then some (if h % 2 = 0 then (dom s d).dcsr else (dom s d).dcsr2)
  else if regno = 0xF14 then some h
  else if regno = 0xC00 ∨ regno = 0xC01 then some (domCycles s d % 2 ^ 32)
  else if regno = 0xC80 ∨ regno = 0xC81 then some (domCycles s d / 2 ^ 32 % 2 ^ 32)
  else none

/-- Registers of a cluster hart, by the specifications that R416 names (log entry 12). -/
def hartHas (regno : Nat) : Bool :=
  let among := fun (l : List (Nat × Nat)) => l.any (fun p => decide (p.1 ≤ regno) && decide (regno ≤ p.2))
  among [(0x001, 0x003), (0x100, 0x100), (0x104, 0x106), (0x10A, 0x10A), (0x140, 0x144), (0x150, 0x151), (0x15C, 0x15C),
    (0x180, 0x180), (0x200, 0x200), (0x204, 0x205), (0x240, 0x244), (0x250, 0x251), (0x25C, 0x25C), (0x280, 0x280),
    (0x300, 0x306), (0x30A, 0x30A), (0x320, 0x320), (0x323, 0x344), (0x34A, 0x34B), (0x350, 0x351), (0x35C, 0x35C),
    (0x3A0, 0x3A0), (0x3A2, 0x3A2), (0x3B0, 0x3BF), (0x600, 0x600), (0x602, 0x607), (0x60A, 0x60A), (0x643, 0x645),
    (0x64A, 0x64A), (0x680, 0x680), (0x7B0, 0x7B1), (0xB00, 0xB00), (0xB02, 0xB1F), (0xC00, 0xC1F), (0xDB0, 0xDB0),
    (0xE12, 0xE12), (0xEB0, 0xEB0), (0xF11, 0xF15), (0xFB0, 0xFB0), (0x1000, 0x103F)]

/-- A register number whose register takes no write. -/
def csrReadOnly (regno : Nat) : Bool := decide (0xC00 ≤ regno) && decide (regno < 0x1000)

/-- Whether hart `h` has a register, and it takes this access. -/
def dmKnown (s : State) (h regno : Nat) (wr : Bool) : Bool :=
  (if h < 8 then hartHas regno else (domWord regno).isSome || (domOther s h regno).isSome) && !(wr && csrReadOnly regno)

/-- A register of a halted cluster hart: RV64 with the extensions of RV64GCH, and its number. -/
def hartReg (h : Nat) (x : Hart) (regno : Nat) : Nat :=
  if regno = 0x7B0 then x.dcsr
  else if regno = 0x7B1 then x.pc
  else if regno = 0x301 then 2 * 2 ^ 62 + 0x1411AD
  else if regno = 0xF14 then h
  else if regno < 0x1000 then tget 0 x.csr regno
  else if regno < 0x1020 then tget 0 x.x (regno - 0x1000)
  else tget 0 x.f (regno - 0x1020)

def setHartReg (regno v : Nat) (x : Hart) : Hart :=
  if regno = 0x7B0 then x.setDcsr v
  else if regno = 0x7B1 then { x with pc := v }
  else if regno = 0x301 then x
  else if regno < 0x1000 then x.setCsr regno v
  else if regno = 0x1000 then x
  else if regno < 0x1020 then { x with x := tput 0 x.x (regno - 0x1000) v }
  else { x with f := tput 0 x.f (regno - 0x1020) v }

def State.withDm (s : State) (f : DebugModule → DebugModule) : State := s.withCpu (fun c => { c with dm := f c.dm })

/-- The module's data words as a number of 32 or 64 bits. -/
def dmData (s : State) (wide : Bool) : Nat :=
  (tget 0 s.cpu.dm.data 0).toNat + (if wide then (tget 0 s.cpu.dm.data 1).toNat * 2 ^ 32 else 0)

def dmPut (wide : Bool) (v : Nat) (s : State) : State :=
  s.withDm (fun d =>
    let t := tput 0 d.data 0 (BitVec.ofNat 32 v)
    { d with data := if wide then tput 0 t 1 (BitVec.ofNat 32 (v / 2 ^ 32)) else t })

/-- A response of the pair on the debug interface, equal for both copies or not: a difference, or LSC_INJECT, is a fault
there and nothing is answered (R426, R427, R435). -/
def domAnswer (d : Nat) (same : Bool) (v : Nat) (s : State) : State :=
  if (dom s d).inject then injectFault (0x10 + 2 * d) 3 s
  else if same then dmPut false v s else domFault d 1 3 ((dom s d).cope.headD 0) s

/-- A read of a register of hart `h` of a domain. In DEBUG it is of Cope, and Drag's matching response is compared. -/
def domRead (h regno : Nat) (s : State) : State :=
  let d := (h - 8) / 2
  let x := dom s d
  let pair := domState s d != 5
  match domWord regno with
  | some i =>
    let v := ((if h % 2 = 0 then x.cope else x.drag).getD i 0).toNat
    if pair then domAnswer d (x.cope.getD i 0 == x.drag.getD i 0) v s else dmPut false v s
  | none =>
    let v := (domOther s h regno).getD 0
    if pair then domAnswer d true v s else dmPut false v s

/-- dcsr of a core of a domain as a write leaves it: bits 15, 12 to 9 and 2 are writable, and the mode is M or U. -/
def setDomDcsr (old v : Nat) : Nat :=
  0x40000000 + old / 2 ^ 6 % 8 * 2 ^ 6 + (v &&& 0x9E04) + (if v % 4 = 0 ∨ v % 4 = 3 then v % 4 else old % 4)

/-- A write of a register of hart `h` of a domain, replayed into Drag while the two are a pair. -/
def domPut (h regno : Nat) (v : Word) (s : State) : State :=
  let d := (h - 8) / 2
  let x := dom s d
  let pair := domState s d != 5
  match domWord regno with
  | some i =>
    let both := fun (mine : Bool) (l : List Word) => if pair || mine then l.set i v else l
    setCopies d (both (h % 2 == 0) x.cope) (both (h % 2 == 1) x.drag) s
  | none =>
    if regno ≠ 0x7B0 then s
    else if h % 2 = 0 then setDomInfo d { x with dcsr := setDomDcsr x.dcsr v.toNat } s
    else setDomInfo d { x with dcsr2 := setDomDcsr x.dcsr2 v.toNat } s

def dmError (n : Nat) (s : State) : State := s.withDm (fun d => { d with cmderr := n })

/-- The program buffer runs: the model executes none of its instructions, so what it leaves in the hart is any. -/
def dmRun (h : Nat) (s : State) : State :=
  let d := (h - 8) / 2
  if h < 8 then hartRuns h s
  else if domState s d = 5 then splitStop h (if h % 2 = 0 then (dom s d).dcsr / 64 % 8 else (dom s d).dcsr2 / 64 % 8) s
  else
    let l := copyWords (Config.anyDom s.fresh).cope
    setCopies d l l { s with fresh := s.fresh + 1 }

/-- An abstract command: register access alone. -/
def dmCommand (s : State) : State :=
  let v := s.cpu.dm.command
  let h := s.cpu.dm.hartsel
  let regno := fld v 15 0
  let wide := fld v 22 20 == 3
  if s.cpu.dm.cmderr ≠ 0 then s
  else if fld v 31 24 ≠ 0 then dmError 2 s
  else if dmHart s h ≠ 3 then dmError 4 s
  else if bitOf v 17 && (!(fld v 22 20 == 2 || (wide && decide (h < 8)))) then dmError 2 s
  else if bitOf v 17 && !dmKnown s h regno (bitOf v 16) then dmError 3 s
  else
    let s := if !bitOf v 17 then s
      else if h < 8 then
        if bitOf v 16 then dmSet h (setHartReg regno (dmData s wide)) s else dmPut wide (hartReg h (s.cpu.hart h) regno) s
      else if bitOf v 16 then domPut h regno (tget 0 s.cpu.dm.data 0) s
      else domRead h regno s
    let s := if bitOf v 18 then dmRun h s else s
    if bitOf v 17 && bitOf v 19 then s.withDm (fun d => { d with command := setFld v 15 0 ((regno + 1) % 2 ^ 16) }) else s

/-- A write of dmcontrol. -/
def dmControl (v : Word) (s : State) : State :=
  if bitOf v 0 = false then s.withDm (fun _ => DebugModule.zero)
  else
    let h := fld v 25 16 + fld v 15 6 * 1024
    let s := s.withDm (fun d => { d with active := true, hartsel := h })
    let s := if bitOf v 28 then dmSet h (fun x => { x with haveReset := false }) s else s
    if bitOf v 31 then dmHalt h s
    else if bitOf v 30 then dmResume h (dmSet h (fun x => { x with resumed := false }) s)
    else s

/-- dmstatus: version 1.0, authenticated, and the selected hart. -/
def dmStatus (s : State) : Nat :=
  let h := s.cpu.dm.hartsel
  let k := dmHart s h
  let x := s.cpu.hart h
  let both := fun (b : Bool) (i : Nat) => if b then 2 ^ i + 2 ^ (i + 1) else 0
  3 + 2 ^ 7 + both (k == 3) 8 + both (k == 2) 10 + both (k == 1) 12 + both (k == 0) 14 + both (k != 0 && x.resumed) 16 +
    both (k != 0 && x.haveReset) 18

/-- A word written to the register at DMI address `r`. -/
def dmWrite (r : Nat) (v : Word) (s : State) : State :=
  let auto := fun (i : Nat) (s : State) => if s.cpu.dm.autoexec.testBit i then dmCommand s else s
  if r = 0x10 then dmControl v s
  else if s.cpu.dm.active = false then s
  else match r with
    | 0x16 => s.withDm (fun d => { d with cmderr := d.cmderr &&& (d.cmderr ^^^ fld v 10 8) })
    | 0x17 => if s.cpu.dm.cmderr = 0 then dmCommand (s.withDm (fun d => { d with command := v })) else s
    | 0x18 => s.withDm (fun d => { d with autoexec := fld v 1 0 + fld v 17 16 * 2 ^ 16 })
    | 0x04 | 0x05 => auto (r - 4) (s.withDm (fun d => { d with data := tput 0 d.data (r - 4) v }))
    | 0x20 | 0x21 => auto (r - 16) (s.withDm (fun d => { d with progbuf := tput 0 d.progbuf (r - 0x20) v }))
    | _ => s

/-- The word at DMI address `r`, and what reading it leaves. -/
def dmRead (r : Nat) (s : State) : Nat × State :=
  let d := s.cpu.dm
  let auto := fun (i : Nat) => if d.autoexec.testBit i then dmCommand s else s
  match r with
  | 0x10 => (b2n d.active + d.hartsel % 1024 * 2 ^ 16 + d.hartsel / 1024 * 2 ^ 6, s)
  | 0x11 => (dmStatus s, s)
  | 0x16 => (2 + d.cmderr * 256 + 2 * 2 ^ 24, s)
  | 0x18 => (d.autoexec, s)
  | 0x04 | 0x05 => ((tget 0 d.data (r - 4)).toNat, auto (r - 4))
  | 0x20 | 0x21 => ((tget 0 d.progbuf (r - 0x20)).toNat, auto (r - 16))
  | 0x40 => (((List.range 12).filter (fun h => dmHart s h == 3)).foldl (fun a h => a + 2 ^ h) 0, s)
  | _ => (0, s)

/-! ### The region -/

/-- A word written at an offset of the region (R418). -/
def clusterWord (off : Nat) (v : Word) (s : State) : State :=
  let n := v.toNat
  if off < 0x4000 then s.withCpu (aplicWrite false off n)
  else if 0x10000 ≤ off ∧ off < 0x14000 then s.withCpu (aplicWrite true (off - 0x10000) n)
  else if 0x300000 ≤ off ∧ off < 0x301000 then
    let q := ioWrite (off - 0x300000) n s.mem s.cpu.iommu
    { s with mem := q.1, cpu := { s.cpu with iommu := q.2 } }
  else if 0x400000 ≤ off ∧ off < 0x400200 then dmWrite ((off - 0x400000) / 4) v s
  else match imsicPage off with
    | some p => if off % 0x1000 = 0 then s.withCpu (imsicSet p.1 p.2 n) else s
    | none => s

/-- The word at an offset of the region, and what reading it leaves; the IMSIC pages read as zero. -/
def clusterReadWord (off : Nat) (s : State) : Nat × State :=
  if off < 0x4000 then (aplicRead false off s.cpu, s)
  else if 0x10000 ≤ off ∧ off < 0x14000 then (aplicRead true (off - 0x10000) s.cpu, s)
  else if 0x300000 ≤ off ∧ off < 0x301000 then (ioReadWord (off - 0x300000) s.cpu.iommu, s)
  else if 0x400000 ≤ off ∧ off < 0x400200 then dmRead ((off - 0x400000) / 4) s
  else (0, s)

/-- Words written upward from an offset. -/
def clusterWords : Nat → List Byte → State → State
  | off, b0 :: b1 :: b2 :: b3 :: r, s => clusterWords (off + 4) r (clusterWord off (BitVec.ofNat 32 (leNat [b0, b1, b2, b3])) s)
  | _, _, s => s

/-- A write in the region: of one or two aligned words; any other form takes no effect (log entry 12). -/
def clusterWrite (m a : Nat) (data : List Byte) (s : State) : State :=
  let n := data.length
  if !((List.range n).all (fun i => clusterReach s m (a + i) true)) then s.refuse m a true
  else if (n = 4 ∨ n = 8) ∧ a % n = 0 then clusterWords (a - 0x50000000) data s else s

/-- A read of `n` words in the region. -/
def clusterRead : Nat → Nat → State → List Byte × State
  | _, 0, s => ([], s)
  | off, n + 1, s =>
    let x := clusterReadWord off s
    let y := clusterRead (off + 4) n x.2
    (leBytes 4 x.1 ++ y.1, y.2)

end Sys2Proof.Machine
end

