-- ==== Sys2Proof/Machine/RulOps.lean ====
section
/-! DEFINITION. The operations of the rule tables: versions, lookups, scans, holders, commits, retirement and sweeps
(R204–R226). -/

namespace Sys2Proof.Machine

/-- The state with RUL replaced. -/
def State.withRul (s : State) (f : RulState → RulState) : State := { s with rul := f s.rul }

/-! ### Versions (R205) -/

/-- Pour `a` is at or after pour `b`. -/
def atOrAfter (a b : Nat) : Bool := decide ((a + 65536 - b) % 65536 < 32768)

def Marks.visible (m : Marks) (p : Nat) : Bool :=
  (match m.birth with
   | some b => atOrAfter p b
   | none => true) &&
  (match m.death with
   | some d => !atOrAfter p d
   | none => true)

/-- The value of an entry visible under a pour. -/
def seen {α : Type} (p : Nat) : Option (Entry α) → Option α
  | some e => if e.marks.visible p then some e.val else none
  | none => none

/-! ### Lookups -/

/-- K of a layout; zero where it is undefined (R219). -/
def layoutK (s : State) (k : Nat) : Nat :=
  if 1 ≤ k ∧ k ≤ 7 then s.f (rg 6 0x20) (4 * k + 3) (4 * k)
  else if 8 ≤ k ∧ k ≤ 15 then s.f (rg 6 0x24) (4 * (k - 8) + 3) (4 * (k - 8)) else 0

/-- Layout a key names. -/
def keyLayout (kb : List Word) : Nat := fld (kb.headD 0) 15 8

/-- The 40 little-endian bytes of a key. -/
def keyBytes (kb : List Word) : List Byte := kb.flatMap (fun w => leBytes 4 w.toNat)

/-- Bucket of a key of K words (R220). -/
def flowBucket (kb : List Word) (k : Nat) : Nat := (crc32c (keyBytes (kb.take k))).toNat % 65536

/-- Way `w` of a flow bucket. -/
def flowWay (s : State) (b w : Nat) : Option (Entry Flow) := tget none s.rul.flow (b * 4 + w)

/-- The flow entry a key finds under a pour. -/
def flowFind (s : State) (kb : List Word) (k p : Nat) : Option (Entry Flow) :=
  ((List.range 4).filterMap (flowWay s (flowBucket kb k))).find?
    (fun e => e.val.key.take k == kb.take k && e.marks.visible p)

/-- Count in a RUL counter. -/
def rulCount (off : Nat) (s : State) : State := s.cnt (rg 6 off) 1

/-- The result word of a hit (R186). -/
def hitWord (r : Word) : Word := r ||| 0x80000000#32

/-- An LKF under a pour (R185, R219, R220, R594): result word and state. -/
def lookupFlow (pour : Option Nat) (kb : List Word) (s : State) : Word × State :=
  let s := rulCount 0x100 s
  let k := layoutK s (keyLayout kb)
  if k = 0 then (0, (rulCount 0x110 s).raise 6 3)
  else match pour.bind (fun p => flowFind s kb k p) with
    | some e => (hitWord e.val.result, rulCount 0x104 s)
    | none => (0, s)

/-- Key bits 32n + 31:32n from KBn (R222). -/
def ternaryKey : List Word → Nat
  | [] => 0
  | w :: r => w.toNat + 2 ^ 32 * ternaryKey r

/-- An LKA under a pour: the lowest matching visible index wins (R222). -/
def lookupAcl (pour : Option Nat) (kb : List Word) (s : State) : Word × State :=
  let s := rulCount 0x108 s
  let key := ternaryKey kb
  match pour.bind (fun p => (s.rul.acl.filterMap (fun e => seen p e.2)).find? (fun t => key &&& t.mask == t.value)) with
  | some t => (hitWord t.result, rulCount 0x10C s)
  | none => (0, s)

/-- Lower case of an ASCII letter. -/
def lower (b : Byte) : Byte := if 0x41 ≤ b.toNat ∧ b.toNat ≤ 0x5A then b + 0x20 else b

/-- A pattern matches the bytes at the head of a list (R223). -/
def Pattern.matches (x : Pattern) (bs : List Byte) : Bool :=
  decide (x.len ≤ bs.length) &&
  (List.range x.len).all (fun i =>
    !x.mask.testBit i ||
      (let a := bs.getD i 0
       let b := x.bytes.getD i 0
       if x.nocase then lower a == lower b else a == b))

/-- First match in scanned bytes: earliest last byte, then lowest index (R188, R224). -/
def firstMatch (pats : List (Nat × Pattern)) (bs : List Byte) : Option (Nat × Nat) :=
  (List.range bs.length).findSome? (fun last =>
    pats.findSome? (fun x =>
      if x.2.len ≤ last + 1 ∧ x.2.matches (bs.drop (last + 1 - x.2.len)) then some (x.1, last + 1 - x.2.len) else none))

/-- A scan's result word (R188). -/
def scanWord (pour : Option Nat) (group start : Nat) (f : Frame) (s : State) : Word :=
  let bs := (f.bytes.drop start).take 2048
  let pats := match pour with
    | some p => s.rul.pats.filterMap (fun e => (seen p e.2).bind (fun x => if x.group = group then some (e.1, x) else none))
    | none => []
  match firstMatch pats bs with
  | some (i, o) => BitVec.ofNat 32 (2 ^ 31 + o * 2 ^ 20 + i)
  | none => 0

/-- Verdict entry under a pour; its absence counts and raises VLOAD_EMPTY (R226). -/
def verdictLoad (pour : Option Nat) (i : Nat) (s : State) : Option VerdictEntry × State :=
  match pour.bind (fun p => seen p (tget none s.rul.verdicts i)) with
  | some v => (some v, s)
  | none => (none, (rulCount 0x114 s).raise 6 4)

/-- Rewrite entry under a pour (R206, R229). -/
def rewriteOf (pour : Option Nat) (i : Nat) (s : State) : Option (List Byte) :=
  pour.bind (fun p => seen p (tget none s.rul.rewrites i))

/-! ### Slots (R214, R215) -/

/-- The CURRENT pour: slot and number. -/
def currentPour (s : State) : Option (Nat × Nat) := s.rul.live.getLast?

/-- Frames a context holds. -/
def Ctx.frames (c : Ctx) : List Taken :=
  (match c.run with
   | some r => [r.t]
   | none => []) ++ c.next.toList

/-- Frames in parse that carry a slot. -/
def holders (s : State) (slot : Nat) : Nat :=
  ((s.prs.ctxs.flatMap (fun e => e.2.frames)).filter (fun t => t.slot == some slot)).length

/-- A change command of the staged pour that has started and waits for a sweep (R213). -/
def Cmd.waitsChange (c : Cmd) : Bool := c.running && c.opcode / 256 == 6 && c.inst != 5

def changesWait (s : State) : Bool := s.mason.cmds.any Cmd.waitsChange

/-- Log entries that the waiting changes will take. -/
def keptLog (s : State) : Nat := ((s.mason.cmds.filter Cmd.waitsChange).map (fun c => c.kept / 16)).sum

/-- A commit waits for a slot (R214). -/
def commitWaits (s : State) : Bool :=
  s.rul.staged.any (fun x => x.committing) && s.rul.live.length == 4 && !changesWait s

/-- The status registers of RUL follow its state; a commit that starts to wait for a slot raises COMMIT_WAIT. -/
def showRul (s : State) : State :=
  let cur := currentPour s
  let st := s.rul.staged
  let wait := commitWaits s
  let s := if wait && !s.bit (rg 6 0) 18 then s.raise 6 0 else s
  let v := ((cur.map Prod.snd).getD 0) + b2n cur.isSome * 2 ^ 16 + b2n (st.isSome && !wait) * 2 ^ 17 +
    b2n wait * 2 ^ 18 + b2n (!s.rul.logs.isEmpty) * 2 ^ 19
  let s := s.wr (rg 6 0) (BitVec.ofNat 32 v)
  let s := s.wr (rg 6 4) (match st with
    | some x => BitVec.ofNat 32 (x.pour + x.owner * 2 ^ 16)
    | none => 0)
  let s := s.wr (rg 6 8) (match st with
    | some x => BitVec.ofNat 32 x.log.length
    | none => 0)
  (List.range 4).foldl (fun s n =>
    s.wr (rg 6 (0x10 + n * 4)) (match s.rul.live.find? (fun e => e.1 == n) with
      | some e => BitVec.ofNat 32 (e.2 + (if cur = some e then 1 else 2) * 2 ^ 16 + (holders s n % 256) * 2 ^ 18)
      | none => 0)) s

/-! ### Sweeps (R216) -/

/-- An entry after the sweep of pour `p`. -/
def sweepEntry {α : Type} (p : Nat) : Option (Entry α) → Option (Entry α)
  | some e =>
    if e.marks.death = some p then none
    else if e.marks.birth = some p then some { e with marks := { e.marks with birth := none } }
    else some e
  | none => none

/-- A table after the sweep of pour `p`. -/
def sweepTable {α : Type} (p : Nat) (t : Tab (Option (Entry α))) : Tab (Option (Entry α)) :=
  t.filterMap (fun e => (sweepEntry p e.2).map (fun x => (e.1, some x)))

/-- The pour whose log may be swept: the first in pour order, once no older pour is live. -/
def sweepable (s : State) : Option Nat :=
  match s.rul.logs.head? with
  | some (p, _) => if s.rul.live.all (fun e => atOrAfter e.2 p) then some p else none
  | none => none

/-- Sweep one pour's log. -/
def sweepLog (p : Nat) (s : State) : State :=
  let s := s.withRul (fun r => { r with flow := sweepTable p r.flow, acl := sweepTable p r.acl, pats := sweepTable p r.pats,
                                        verdicts := sweepTable p r.verdicts, rewrites := sweepTable p r.rewrites,
                                        logs := r.logs.filter (fun e => e.1 != p) })
  (showRul s).raise 6 2

end Sys2Proof.Machine
end

