-- ==== Sys2Proof/Machine/TmgOps.lean ====
section
/-! DEFINITION. The operations of the traffic manager: counted length, course lists, the gate fit rule, credits,
deficit round robin, preemption and the policers (R237–R259). -/

namespace Sys2Proof.Machine

/-! ### Registers -/

def tmgPort (p off : Nat) : Nat := rg 7 (0x1000 + p * 0x100 + off)
def tmgGroup (g off : Nat) : Nat := rg 7 (0x3000 + g * 0x20 + off)
def tmgQueue (q off : Nat) : Nat := rg 7 (0x4000 + q * 0x20 + off)

/-- The state with TMG replaced. -/
def State.withTmg (s : State) (f : TmgState → TmgState) : State := { s with tmg := f s.tmg }

/-! ### Counted length (R237) -/

/-- A signed byte. -/
def signed8 (n : Nat) : Int := if n % 256 < 128 then (n % 256 : Nat) else (n % 256 : Nat) - 256

def overhead (s : State) (p : Nat) : Int := signed8 (s.f (tmgPort p 0) 7 0)

/-- X_p: the MACsec expansion of a port's transmit channel. -/
def expansion (s : State) (p : Nat) : Nat :=
  let cfg := rg 8 (0x101C + p * 0x100)
  if p ≤ 13 ∧ s.bit cfg 0 then (if s.bit cfg 3 then 32 else 24) else 0

/-- The frame a copy reads. -/
def copyLen (s : State) (c : Copy) : Nat :=
  match findFrame s c.frame with
  | some f => egressLen f c
  | none => 64

/-- C of a copy. -/
def counted (s : State) (c : Copy) : Nat := ((copyLen s c : Int) + overhead s c.port + expansion s c.port).toNat

/-- R_p in Mb/s; zero while the port is down. -/
def rateMbps (s : State) (p : Nat) : Nat := s.f (tmgPort p 8) 15 0

/-- Present rate of a port as ETH reports it (R276); IC, IG and IM have 50, 25 and 2.5 Gb/s. -/
def linkRate (s : State) (p : Nat) : Nat :=
  if !portUp s p then 0 else if p = 18 then 50000 else if p = 19 then 25000 else if p = 20 then 2500
  else s.f (rg 8 (0x100C + p * 0x100)) 31 16

/-- T(C) in nanoseconds, a whole multiple of 2. -/
def txTime (s : State) (p c : Nat) : Nat :=
  let r := rateMbps s p
  2 * ((c * 4000 + r - 1) / r)

def margin (s : State) (p : Nat) : Nat := s.f (tmgPort p 4) 19 0

/-! ### Course lists (R240–R246) -/

def bankOf (s : State) (p b : Nat) : List Course := tget [] s.tmg.banks (p * 2 + b)
def inForce (s : State) (p : Nat) : Option InForce := tget none s.tmg.force p
def pendingSwitch (s : State) (p : Nat) : Option Switch := tget none s.tmg.switch p

/-- Cycle time of a list. -/
def cycleOf (l : List Course) : Nat := (l.map (·.dur)).sum

/-- The course at an offset into a cycle, and the time left in it. -/
def courseAt : List Course → Nat → Nat → Nat × Nat
  | [], i, _ => (i, 0)
  | x :: r, i, t => if t < x.dur then (i, x.dur - t) else courseAt r (i + 1) (t - x.dur)

/-- Offset of network time `now` into the cycle of a list with a base, for every whole number of cycles. -/
def cycleOffset (base cycle now : Nat) : Nat := (((now : Int) - base) % (cycle : Int)).toNat

/-- The course in force on a port. -/
def courseNow (s : State) (p : Nat) : Option Course :=
  (inForce s p).bind (fun f => (bankOf s p f.bank)[f.idx]?)

/-- Gate bit `c` of a port is open (R238, R241). -/
def gateOpen (s : State) (p c : Nat) : Bool :=
  match courseNow s p with
  | some x => x.gates.testBit c
  | none => true

/-- First instant a list closes gate `c`, its first course starting at `t`; none where it never does. -/
def firstClose (c : Nat) : List Course → Nat → Option Nat
  | [], _ => none
  | x :: r, t => if x.gates.testBit c then firstClose c r (t + x.dur) else some t

/-- The instant at which gate `c` of a port next goes to 0 (R244, R245), through cycle ends and across a pending
switch, from whose instant the named list is in force (R242); none where no window limits. -/
def windowEnd (s : State) (p c : Nat) : Option Nat :=
  match inForce s p with
  | none => none
  | some f =>
    let l := bankOf s p f.bank
    let here := firstClose c (l.drop (f.idx + 1) ++ l.take (f.idx + 1)) f.ends
    match pendingSwitch s p with
    | none => here
    | some w =>
      let beyond := match w.bank with
        | some b => firstClose c (bankOf s p b) w.at_
        | none => none
      match here with
      | some t => if t < w.at_ then some t else beyond
      | none => beyond

/-- The gate fit rule at the present instant (R244). -/
def fits (s : State) (p tc cnt : Nat) : Bool :=
  match windowEnd s p tc with
  | none => true
  | some e => decide (s.now + txTime s p cnt + margin s p ≤ e)

/-- Longest run of open courses: best so far and the run that reaches the present course. -/
def longestRun (c : Nat) : List Course → Nat → Nat → Nat
  | [], run, best => max run best
  | x :: r, run, best => if x.gates.testBit c then longestRun c r (run + x.dur) best else longestRun c r 0 (max run best)

/-- A TC's longest window in a list (R246); none where its bit is 1 in every course. -/
def longestWindow (c : Nat) (l : List Course) : Option Nat :=
  if l.all (fun x => x.gates.testBit c) then none
  else some (longestRun c (l ++ l) 0 0)

/-- Status of a port's lists: LIST_ON, BANK, SWITCH_PENDING, HOLD and the course in force. -/
def showLists (p : Nat) (hold : Bool) (s : State) : State :=
  let st := tmgPort p 8
  let f := inForce s p
  let s := ((s.sb st 20 f.isSome).sb st 21 ((f.map InForce.bank) == some 1)).sb st 22 (pendingSwitch s p).isSome
  (s.sb st 23 hold).sf (tmgPort p 0xC) 9 0 ((f.map InForce.idx).getD 0)

def holdBit (s : State) (p : Nat) : Bool := s.bit (tmgPort p 8) 23

/-- A course's OP on the hold state (R247). -/
def opHold (op : Nat) (hold : Bool) : Bool := if op = 1 then true else if op = 2 then false else hold

/-- Course `i` of the list in force begins, ending at `ends` (R240, R247). -/
def beginCourse (p i ends : Nat) (s : State) : State :=
  match inForce s p with
  | none => s
  | some f =>
    let s := s.withTmg (fun t => { t with force := tput none t.force p (some { f with idx := i, ends := ends }) })
    let op := ((courseNow s p).map Course.op).getD 0
    showLists p (opHold op (holdBit s p)) s

/-- A switch takes force at its instant (R242, R247): the named bank from its course 0, or no list. -/
def applySwitch (p : Nat) (w : Switch) (s : State) : State :=
  let s := s.withTmg (fun t => { t with switch := tput none t.switch p none })
  let s := match w.bank with
    | none => showLists p false (s.withTmg (fun t => { t with force := tput none t.force p none }))
    | some b =>
      let d := ((bankOf s p b).head?.map Course.dur).getD 0
      let f : InForce := { bank := b, base := w.at_, idx := 0, ends := w.at_ + d }
      let s := s.withTmg (fun t => { t with force := tput none t.force p (some f) })
      showLists p ((courseNow s p).map Course.op == some 1) s
  (s.cnt (tmgPort p 0x30) 1).raise 7 1

/-- A step of network time on the stream gates: one that runs goes on from the new time (R56). -/
def gatesReposition (s : State) : State :=
  s.withTmg (fun t => { t with gates := t.gates.map (fun e =>
    (e.1, if e.2.first ≤ s.tim.skipFrom then { e.2 with first := 0 } else e.2)) })

/-- A step of network time on a port's lists (R243): a pending switch that a forward step passed takes effect, and
the course of the new time continues; its OP acts where it is a different course. -/
def tmgReposition (s : State) : State :=
  (List.range 21).foldl (fun s p =>
    let s := match pendingSwitch s p with
      | some w => if w.at_ ≤ s.now then applySwitch p w s else s
      | none => s
    match inForce s p with
    | none => s
    | some f =>
      let l := bankOf s p f.bank
      let x := courseAt l 0 (cycleOffset f.base (cycleOf l) s.now)
      if x.1 = f.idx then
        s.withTmg (fun t => { t with force := tput none t.force p (some { f with ends := s.now + x.2 }) })
      else beginCourse p x.1 (s.now + x.2) s) (gatesReposition s)

/-! ### Credits (R248, R250) -/

/-- A bucket brought up to the present: rate in kb/s, cap in bytes (log entry 15). -/
def refill (b : Bucket) (rate cap now : Nat) : Bucket :=
  { credit := min ((cap : Int) * 65536) (b.credit + ((rate * (now - b.stamp) * 128 / 15625 : Nat) : Int)), stamp := now }

/-- Keys of the buckets. -/
def ckey (g : Nat) : Nat := 1000 + g
def pkey (g : Nat) : Nat := 2000 + g

def bucket (s : State) (k : Nat) : Bucket := tget Bucket.zero s.tmg.credits k

/-- Store a bucket and show its whole bytes in a register. -/
def setBucket (k reg : Nat) (b : Bucket) (s : State) : State :=
  let s := s.wr reg (ofSInt (b.credit / 65536))
  s.withTmg (fun t => { t with credits := tput Bucket.zero t.credits k b })

def queueBucket (s : State) (q : Nat) : Bucket :=
  refill (bucket s q) (s.rd (tmgQueue q 4)).toNat (s.rd (tmgQueue q 8)).toNat (fclk s)

def commBucket (s : State) (g : Nat) : Bucket :=
  refill (bucket s (ckey g)) (s.rd (tmgGroup g 4)).toNat (s.rd (tmgGroup g 8)).toNat (fclk s)

def peakBucket (s : State) (g : Nat) : Bucket :=
  refill (bucket s (pkey g)) (s.rd (tmgGroup g 0xC)).toNat (s.rd (tmgGroup g 0x10)).toNat (fclk s)

/-- Credits refill all the time, so a read of one shows it as it is now (R248, R250). -/
def creditRead (off : Nat) (s : State) : Option Word :=
  let show_ := fun (b : Bucket) => some (ofSInt (b.credit / 65536))
  let g := (off - 0x3000) / 0x20
  let q := (off - 0x4000) / 0x20
  if 0x3000 ≤ off ∧ off < 0x3400 ∧ s.bit (tmgGroup g 0) 0 = true then
    (if off % 0x20 = 0x14 then show_ (commBucket s g) else if off % 0x20 = 0x18 then show_ (peakBucket s g) else none)
  else if 0x4000 ≤ off ∧ off < 0x5500 ∧ off % 0x20 = 0x10 ∧ s.bit (tmgQueue q 0) 0 = true then show_ (queueBucket s q)
  else none

def shaped (s : State) (q : Nat) : Bool := decide (q % 8 < 7) && s.bit (tmgQueue q 0) 0

/-- The enabled group of a queue. -/
def groupOf (s : State) (q : Nat) : Option Nat :=
  let g := s.f (tmgQueue q 0) 6 2
  if q % 8 < 6 ∧ s.bit (tmgQueue q 0) 1 ∧ s.bit (tmgGroup g 0) 0 then some g else none

/-- State of a queue under its group. -/
inductive Pass where
  | committed | excess | blocked
  deriving DecidableEq, Repr

def passOf (s : State) (q : Nat) : Pass :=
  match groupOf s q with
  | none => .committed
  | some g =>
    if 0 ≤ (commBucket s g).credit then .committed else if 0 ≤ (peakBucket s g).credit then .excess else .blocked

/-- Debit a copy's counted length from its queue's and its group's credits as it starts. -/
def debit (q cnt : Nat) (s : State) : State :=
  let take := fun (b : Bucket) => { b with credit := b.credit - (cnt : Int) * 65536 }
  let s := if shaped s q then setBucket q (tmgQueue q 0x10) (take (queueBucket s q)) s else s
  match groupOf s q with
  | none => s
  | some g =>
    let c := take (commBucket s g)
    let p := take (peakBucket s g)
    setBucket (pkey g) (tmgGroup g 0x18) p (setBucket (ckey g) (tmgGroup g 0x14) c s)

/-! ### Preemption (R253, R254) -/

def preemptActive (s : State) (p : Nat) : Bool := s.bit (tmgPort p 8) 16

/-- PREEMPT_ACTIVE follows its conditions. -/
def showPreempt (p : Nat) (s : State) : State :=
  let now := s.bit (tmgPort p 0) 8 && portUp s p && (s.f (tmgPort p 8) 19 17 == 3 || s.bit (tmgPort p 0) 9)
  if now = preemptActive s p then s else (s.sb (tmgPort p 8) 16 now).raise 7 3

/-- Verification starts, or stops, as its conditions stand: at link-up, and when PREEMPT_EN is set. -/
def restartVerify (p : Nat) (s : State) : State :=
  let v := if !s.bit (tmgPort p 0) 8 || s.bit (tmgPort p 0) 9 then 0 else if portUp s p then 2 else 1
  let s := s.sf (tmgPort p 8) 19 17 v
  showPreempt p (s.withTmg (fun t => { t with verifyTries := tput 0 t.verifyTries p 0 }))

/-- Head copy of a queue. -/
def headCopy (s : State) (q : Nat) : Option Copy := (tget [] s.swc.queues q).head?

/-- R238 but for the gate fit rule. -/
def otherwiseEligible (s : State) (q : Nat) : Bool :=
  (headCopy s q).isSome && gateOpen s (q / 8) (q % 8) &&
  (q % 8 == 7 || !(holdBit s (q / 8) && preemptActive s (q / 8))) &&
  (!shaped s q || decide (0 ≤ (queueBucket s q).credit)) && passOf s q != .blocked

/-- R238 at the present instant. -/
def eligible (s : State) (q : Nat) : Bool :=
  otherwiseEligible s q &&
  match headCopy s q with
  | some c => fits s (q / 8) (q % 8) (counted s c)
  | none => false

/-- The first point at which the MAC may cut a copy it is sending, in bytes of its present fragment (R254): from where
it has come to, on an 8-byte boundary, after 64 × (addFragSize + 1) − 4 bytes, and with 64 bytes left to send, as IEEE
802.3br has it (log entry 58); none where no such point is left. -/
def cutPoint (s : State) (p : Nat) (c : Copy) : Option Nat :=
  let past := (fclk s - c.began) * rateMbps s p / 8000
  let k := (max past (60 + 64 * s.f (tmgPort p 8) 25 24) + 7) / 8 * 8
  if c.gone + k + 64 ≤ copyLen s c + expansion s p then some k else none

/-- The state with the copy in transmission on a port replaced. -/
def setTx (p : Nat) (c : Option Copy) (s : State) : State := s.withSwc (fun w => { w with tx := tput none w.tx p c })

/-- A preemptable copy in transmission is to be cut at its next permitted point, where an eligible TC7 queue or the hold
state asks for it (R247, R254). -/
def preempt (p : Nat) (s : State) : State :=
  match tget none s.swc.tx p with
  | some c =>
    if preemptActive s p ∧ c.tc < 7 ∧ c.cutLen.isNone ∧ (eligible s (p * 8 + 7) = true ∨ holdBit s p = true) then
      setTx p (some { c with cutLen := cutPoint s p c }) s
    else s
  | none => s

/-- The copy in transmission is cut after `k` bytes of its fragment: it waits with what is left of it, and the cut
counts (R254). -/
def cutTx (p : Nat) (c : Copy) (k : Nat) (s : State) : State :=
  let d := { c with gone := c.gone + k, cutLen := none }
  (setTx p none (s.withSwc (fun w => { w with cut := tput none w.cut p (some d) }))).cnt (tmgPort p 0x28) 1

/-- The point at which the copy in transmission is to be cut, where one is set. -/
def cutDue (s : State) (p : Nat) : Option (Copy × Nat) :=
  match tget none s.swc.tx p with
  | some c => c.cutLen.map (fun k => (c, k))
  | none => none

/-- The copy in transmission is cut where it has come to its point. -/
def cutNow (p : Nat) (s : State) : State :=
  match cutDue s p with
  | some (c, k) => if k * 8000 ≤ (fclk s - c.began) * rateMbps s p then cutTx p c k s else s
  | none => s

/-- The end of a transmission finds a copy that was to be cut cut: its point came before its end. -/
def cutAtEnd (p : Nat) (s : State) : State :=
  let s := preempt p s
  match cutDue s p with
  | some (c, k) => cutTx p c k s
  | none => s

/-- A copy leaves through IG to the gateway; `bad` says that a tile of it failed its check (R358). -/
def igDeliver (c : Copy) (f : Frame) (bs : List Byte) (bad : Bool) (s : State) : State :=
  let x : IgCopy := { tunnel := c.tunnel, redirect := c.redirect, user := c.user, bytes := bs, inPort := f.port,
                      rx := f.rxSec * 1000000000 + f.rxNs, bad := bad }
  s.withEth (fun e => { e with igRx := e.igRx ++ [x] })

/-- TMG's part of a link change (R252, R253, R276): rate, preemption, verification, and the DRR state of a port that
goes down. -/
def tmgLink (p : Nat) (s : State) : State :=
  let s := s.sf (tmgPort p 8) 15 0 (linkRate s p)
  let s := restartVerify p s
  if portUp s p then
    showLists p (opHold (((courseNow s p).map Course.op).getD 0) (holdBit s p)) s
  else
    (List.range 6).foldl (fun s t =>
      { s.wr (tmgQueue (p * 8 + t) 0x14) 0 with
        tmg := { s.tmg with visit := terase s.tmg.visit (p * 8 + t), drr := terase s.tmg.drr p } }) s

/-! ### Policers (R256–R259) -/

inductive Colour where
  | pass | green | yellow | red
  deriving DecidableEq, Repr

def policer (s : State) (i : Nat) : Policer := tget Policer.zero s.tmg.policers i

def setPolicer (i : Nat) (x : Policer) (s : State) : State :=
  s.withTmg (fun t => { t with policers := tput Policer.zero t.policers i x })

/-- The entry of a schedule at an offset into its cycle. -/
def gateEntryAt : List GateEntry → Nat → Option GateEntry
  | [], _ => none
  | x :: r, t => if t < x.dur then some x else gateEntryAt r (t - x.dur)

/-- The stream gate at a frame's ingress timestamp (R259): open or not, and the internal priority value. Before its
first instant the schedule is idle (R54), and lets every frame pass as a disabled one does (log entry 59). -/
def streamGate (s : State) (g rx : Nat) : Bool × Option Nat :=
  let x := tget StreamGate.zero s.tmg.gates g
  if !x.en || decide (rx < x.first) then (true, none)
  else match gateEntryAt x.entries (cycleOffset x.base ((x.entries.map (·.dur)).sum) rx) with
    | some e => (bitOf e.word 0, if bitOf e.word 1 then some (fld e.word 4 2) else none)
    | none => (true, none)

/-- What a policer answers: its colour, the egress TC it sets, and whether yellow sets DEI. -/
structure Judged where
  colour : Colour
  tc : Option Nat
  dei : Bool
  deriving DecidableEq, Repr

def sat32 (n : Nat) : Nat := min 0xFFFFFFFF (n + 1)

/-- R257: policer entry `i` judges a frame. -/
def judge (i : Nat) (f : Frame) (s : State) : Judged × State :=
  let x := policer s i
  let red : Judged := { colour := .red, tc := none, dei := false }
  if !bitOf x.cfg 0 then ({ colour := .pass, tc := none, dei := false }, s)
  else
    let large := x.maxSdu ≠ 0 ∧ x.maxSdu < f.bytes.length
    if x.blocked = true ∨ large then
      let blk := bitOf x.cfg 9
      let s := setPolicer i { x with blocked := x.blocked || blk, oversize := sat32 x.oversize } s
      (red, if blk && !x.blocked then s.raise 7 4 else s)
    else
      let g := if bitOf x.cfg 1 then streamGate s (fld x.cfg 6 2) (f.rxSec * 1000000000 + f.rxNs) else (true, none)
      if !g.1 then (red, setPolicer i { x with gateClosed := sat32 x.gateClosed } s)
      else
        let b := ((f.bytes.length : Int) + overhead s f.port + f.macsec).toNat * 65536
        let dt := f.fclk - x.last
        let x := { x with ctok := min (x.cbs * 65536) (x.ctok + x.cir * dt * 128 / 15625),
                          ptok := min (x.pbs * 65536) (x.ptok + x.pir * dt * 128 / 15625),
                          last := max x.last f.fclk }
        if x.ptok < b then (red, setPolicer i { x with red := sat32 x.red } s)
        else if x.ctok < b then
          let s := setPolicer i { x with ptok := x.ptok - b, yellow := sat32 x.yellow } s
          ({ colour := if fld x.cfg 8 7 = 2 then .red else .yellow, tc := g.2, dei := fld x.cfg 8 7 == 1 }, s)
        else
          let s := setPolicer i { x with ptok := x.ptok - b, ctok := x.ctok - b, green := sat32 x.green } s
          ({ colour := .green, tc := g.2, dei := false }, s)

end Sys2Proof.Machine
end

