-- ==== Sys2Proof/Machine/EthOps.lean ====
section
/-! DEFINITION. The operations of the Ethernet ports: the PHY's states, MACsec, egress timestamps, PoDL, and the IC
port's rings (R272–R297). MACsec's frame format and nonce, where the manual names IEEE 802.1AE, are PRESUMED from it
(log entry 17). -/

namespace Sys2Proof.Machine

/-! ### Registers -/

def ethPort (p off : Nat) : Nat := rg 8 (0x1000 + p * 0x100 + off)

/-- Count in a port counter of ETH. -/
def ethCount (p off : Nat) (s : State) : State := s.cnt (ethPort p off) 1

/-- STATE of a PHY: 0 OFF, 1 TRAINING, 2 RETAINED_START, 3 UP, 4 TC10_SLEEP. -/
def phyState (s : State) (p : Nat) : Nat := s.f (ethPort p 0xC) 3 1

def setPhy (p v : Nat) (s : State) : State := s.sf (ethPort p 0xC) 3 1 v

def linkUp (s : State) (p : Nat) : Bool := s.bit (ethPort p 0xC) 0

def portMode (s : State) (p : Nat) : Nat := s.f (ethPort p 4) 3 0

/-- Modes of a port's group (R272). -/
def modeOk (p m : Nat) : Bool :=
  if p ≤ 3 then decide (m ≤ 3) else if p ≤ 5 then decide (4 ≤ m) && decide (m ≤ 6)
  else if p ≤ 13 then m == 8 || m == 9 else m == 12

/-- Rates of the USXGMII auto-negotiation word (R275). -/
def usxRates : List Nat := [10000, 5000, 2500, 1000, 100, 10]

/-- Rate of a link that comes up: by its mode, or for USXGMII with AN_EN the partner's word (R272, R275). -/
def modeRate (s : State) (p word : Nat) : Nat :=
  match portMode s p with
  | 0 => 25000 | 1 => 10000 | 2 => 5000 | 3 => 2500 | 4 => 25000 | 5 => 10000 | 8 => 1000 | 9 => 100 | 12 => 10
  | _ => if s.bit (ethPort p 4) 8 && usxRates.contains word then word else 10000

/-! ### Link state (R276, R279) -/

/-- SWC and TMG learn of a change of a port's state (R276). -/
def reportPort (p : Nat) (s0 s : State) : State :=
  if portUp s p then tmgLink p s else if portUp s0 p then tmgLink p (swcLinkDown p s) else tmgLink p s

/-- The link goes down: LINK and the rate are zero, and the PHY is in state `v`. -/
def dropLink (p v : Nat) (s : State) : State :=
  let r := ethPort p 0xC
  let t := (((s.sb r 0 false).sf r 31 16 0).sb r 4 false).sf r 3 1 v
  let t := t.withEth (fun e => { e with sleeping := terase e.sleeping p, plca := terase e.plca p,
                                        shared := e.shared.filter (fun x => x.port != p) })
  if linkUp s p then reportPort p s (ethEvent p 0 t) else t

/-- The CRC-32C of a retained record; the order of its fields is the model's (log entry 61). -/
def rtCrc (mode : Nat) (master : Bool) (coeff signature : Nat) : Word :=
  crc32c (leBytes 1 mode ++ leBytes 1 (b2n master) ++ leBytes 64 coeff ++ leBytes 64 signature)

/-- A new record, its CRC over what it holds. -/
def RtRecord.new (mode : Nat) (master : Bool) (coeff signature : Nat) : RtRecord :=
  { mode := mode, master := master, coeff := coeff, signature := signature, crc := rtCrc mode master coeff signature }

/-- A port has a record, its CRC is right, and its mode and role agree with the configuration (R279 step 1). -/
def recordOk (s : State) (p : Nat) : Bool :=
  match tget none s.eth.rt p with
  | some r => r.crc == rtCrc r.mode r.master r.coeff r.signature && r.mode == portMode s p &&
      r.master == s.bit (ethPort p 4) 4
  | none => false

/-- Ports that keep a retained record: BB, and E in 1000BASE-T1. -/
def keepsRecord (s : State) (p : Nat) : Bool := decide (p ≤ 3) || (decide (6 ≤ p) && decide (p ≤ 13) && portMode s p == 8)

/-- A retained start falls back at step `k` (0–3 for steps 1–4): full training runs. -/
def fallBack (p k : Nat) (s : State) : State :=
  ethEvent p 1 ((setPhy p 1 (ethCount p 0x70 s)).sf (ethPort p 0xC) 7 6 k)

def setProbed (p : Nat) (b : Bool) (s : State) : State :=
  s.withEth (fun e => { e with rtProbed := tput false e.rtProbed p b })

/-- A PHY starts (R279). -/
def startPhy (p : Nat) (s : State) : State :=
  let s := setProbed p false (s.sb (ethPort p 0xC) 5 false)
  if s.bit (ethPort p 4) 6 && keepsRecord s p then
    if recordOk s p then setPhy p 2 s else fallBack p 0 s
  else setPhy p 1 s

/-! ### PoDL sources (R284) -/

def podlState (s : State) (p : Nat) : Nat := s.f (ethPort p 0x18) 1 0
def setPodl (p v : Nat) (s : State) : State := (s.sf (ethPort p 0x18) 1 0 v).sb (ethPort p 0x18) 12 false
def setRetry (p : Nat) (b : Bool) (s : State) : State :=
  s.withEth (fun e => { e with podlRetry := tput false e.podlRetry p b })

def setAsleep (p : Nat) (b : Bool) (s : State) : State :=
  s.withEth (fun e => { e with podlAsleep := tput false e.podlAsleep p b })

/-- A source must be off: its port is in TC10 sleep with SLEEP_KEEP = 0 (R284). -/
def podlSleeps (s : State) (p : Nat) : Bool := phyState s p == 4 && !s.bit (ethPort p 0x14) 12

/-- As from EN written 1: the source classifies or powers, or in TC10 sleep stays off until its port wakes. -/
def podlStart (p : Nat) (s : State) : State :=
  let s := setRetry p false s
  if podlSleeps s p then setAsleep p true s
  else setPodl p (if s.bit (ethPort p 0x14) 1 then 1 else 2) (setAsleep p false s)

/-- A source turns off while its port sleeps, unless SLEEP_KEEP. -/
def podlSleep (p : Nat) (s : State) : State :=
  if 14 ≤ p ∧ p ≤ 17 ∧ s.bit (ethPort p 0x14) 12 = false ∧ (podlState s p = 1 ∨ podlState s p = 2) then
    setAsleep p true (setPodl p 0 s)
  else s

/-- Write PODL_CFG: EN written 1 starts a source that is OFF, and EN written 0 ends a source in any state. A LATCHED
source restarts only through both. SLEEP_KEEP written 0 in TC10 sleep turns the source off (R284). -/
def setPodlCfg (p : Nat) (v : Word) (s : State) : State :=
  let s := s.wr (ethPort p 0x14) v
  if bitOf v 0 then (if podlState s p = 0 then podlStart p s else if podlSleeps s p then podlSleep p s else s)
  else setAsleep p false (setRetry p false
    ((setPodl p 0 s).sf (ethPort p 0x18) 11 8 0))

/-- It starts again as the port leaves its sleep. -/
def podlWake (p : Nat) (s : State) : State :=
  if tget false s.eth.podlAsleep p then podlStart p (setAsleep p false s) else s

/-! ### PORT_CTRL (R276) -/

/-- Write PORT_CTRL: EN starts or powers down the PHY, TX_EN shows the port to SWC and TMG. -/
def setPortCtrl (p : Nat) (v : Word) (s : State) : State :=
  let was := s.bit (ethPort p 0) 0
  let t := s.wr (ethPort p 0) (v &&& 3#32)
  let t := if 18 ≤ p then t
    else if bitOf v 0 && !was then startPhy p t
    else if !bitOf v 0 && was then
      podlWake p (dropLink p 0 t)
    else t
  if portUp t p = portUp s p then t else reportPort p s t

/-! ### MACsec (R288–R293) -/

/-- A parsed SecTAG. -/
structure SecTag where
  tci : Nat
  sl : Nat
  pn : Nat
  sci : Option Nat
  /-- Bytes of addresses and tag together. -/
  head : Nat

/-- The SecTAG of a frame, where it has a valid one. -/
def secTag (bs : List Byte) : Option SecTag :=
  let tci := beAt bs 14 1
  let sl := beAt bs 15 1
  let sc := tci.testBit 5
  let head := if sc then 28 else 20
  if beAt bs 12 2 ≠ 0x88E5 ∨ tci.testBit 7 = true ∨ (sc = true ∧ (tci.testBit 6 = true ∨ tci.testBit 4 = true)) ∨
      (tci.testBit 3 = true ∧ tci.testBit 2 = false) ∨ 48 ≤ sl ∨ bs.length < head + 16 + max 1 sl + 4 then none
  else some { tci := tci, sl := sl, pn := beAt bs 16 4, sci := if sc then some (beAt bs 20 8)
                else if tci.testBit 6 then some (beAt bs 6 6 * 65536 + 1) else none, head := head }

def suite (s : State) (p : Nat) : Nat := s.f (ethPort p 0x1C) 2 1
def isXpn (s : State) (p : Nat) : Bool := decide (2 ≤ suite s p)

/-- Last PN of the suite (R292), and the warning point of a transmit PN. -/
def pnMax (s : State) (p : Nat) : Nat := if isXpn s p then 2 ^ 64 - 1 else 2 ^ 32 - 1
def pnWarn (s : State) (p : Nat) : Nat := if isXpn s p then 0xC000000000000000 else 0xC0000000

def confOffset (s : State) (p : Nat) : Nat :=
  match s.f (ethPort p 0x1C) 5 4 with
  | 1 => 30
  | 2 => 50
  | _ => 0

/-- The GCM nonce of a PN. -/
def secIv (s : State) (p : Nat) (x : Sa) (sci pn : Nat) : List Byte :=
  if isXpn s p then xorBytes (beBytes 4 x.ssci ++ beBytes 8 pn) (slice x.salt 0 12)
  else beBytes 8 sci ++ beBytes 4 pn

/-- The receive channel a frame's SCI and AN name; a frame that carries no SCI is matched by its AN alone. -/
def rxChannel (s : State) (p an : Nat) (sci : Option Nat) : Option Nat :=
  (List.range 8).find? (fun c => match rxSa s p c an with
    | some x => (match sci with
      | some v => x.sci == v
      | none => true)
    | none => false)

/-- The full PN of a received frame. -/
def recoverPn (s : State) (p : Nat) (x : Sa) (pn : Nat) : Nat :=
  if isXpn s p then
    let hi := x.low / 2 ^ 32
    (if x.low % 2 ^ 32 ≥ 2 ^ 31 ∧ pn < 2 ^ 31 then hi + 1 else hi) * 2 ^ 32 + pn
  else pn

/-- An SA stops and ETH says so, once. -/
def stopRx (p k : Nat) (s : State) : State :=
  match tget none s.eth.rxSa (p * 32 + k) with
  | some x => if x.stopped then s else ethEvent p 9 (setRxSa p k (some { x with stopped := true }) s)
  | none => s

def stopTx (p a : Nat) (s : State) : State :=
  match txSa s p a with
  | some x => if x.stopped then s else ethEvent p 9 (setTxSa p a (some { x with stopped := true }) s)
  | none => s

/-- A receive SA takes a checked PN: the next expected and the lowest acceptable PN follow, and the end of the PN
space stops it. -/
def tookPn (p k pn : Nat) (s : State) : State :=
  match tget none s.eth.rxSa (p * 32 + k) with
  | some x =>
    let next := max x.pn (pn + 1)
    let s' := setRxSa p k (some { x with pn := next,
                                         low := max x.low (next - (s.rd (ethPort p 0x20)).toNat) }) s
    if pnMax s p ≤ pn then stopRx p k s' else s'
  | none => s

/-- The MACsec check of a received frame whose FCS is good: the frame to store with the bytes removed, or none where
it is dropped. -/
def macsecRx (p : Nat) (bs : List Byte) (s : State) : Option (List Byte × Nat) × State :=
  let cfg := ethPort p 0x1C
  if macsecOn s p bs = false then (some (bs, 0), s)
  else if s.bit cfg 6 && beAt bs 12 2 != 0x88E5 then (some (bs, 0), s)
  else match secTag bs with
    | none => (none, ethCount p 0x5C s)
    | some t =>
      let an := t.tci % 4
      match rxChannel s p an t.sci with
      | none => (none, ethCount p 0x54 s)
      | some c =>
        let k := c * 4 + an
        match rxSa s p c an with
        | none => (none, ethCount p 0x54 s)
        | some x =>
          let pn := recoverPn s p x t.pn
          if x.stopped then (none, ethCount p 0x54 s)
          else if s.bit cfg 7 && decide (pn < x.low) then (none, ethCount p 0x58 s)
          else match keyOf s x.slot, useKey x.slot s with
            | some key, (true, s) =>
              let body := bs.take (bs.length - 4)
              let sec := body.drop t.head
              let n := if t.sl = 0 then sec.length - 16 else t.sl
              let data := sec.take n
              let icv := slice sec n 16
              let o := if t.tci.testBit 3 then confOffset s p else n
              let iv := secIv s p x (t.sci.getD x.sci) pn
              match gcmOpen key iv (body.take t.head ++ data.take o) (data.drop o) icv with
              | none => (none, ethEvent p 7 (ethCount p 0x50 s))
              | some pt =>
                let out := body.take 12 ++ data.take o ++ pt
                (some (out ++ fcs out, t.head - 12 + 16), tookPn p k pn s)
            | _, (_, s) => (none, ethCount p 0x54 (stopRx p k s))

/-- Protect a frame for transmission under the SA of AN `an`: the bytes to send, or none where the frame is discarded
(R292). -/
def macsecTx (p : Nat) (an : Option Nat) (bs : List Byte) (s : State) : Option (List Byte) × State :=
  let cfg := ethPort p 0x1C
  if macsecOn s p bs = false then (some bs, s)
  else match an.bind (fun a => (txSa s p a).map (fun x => (a, x))) with
    | none => (none, ethCount p 0x68 s)
    | some (a, x) =>
      if x.stopped then (none, ethCount p 0x68 s)
      else match keyOf s x.slot, useKey x.slot s with
        | some key, (true, s) =>
          let body := bs.take (bs.length - 4)
          let data := body.drop 12
          let sci := (s.rd (ethPort p 0x28)).toNat * 2 ^ 32 + (s.rd (ethPort p 0x24)).toNat
          let sc := s.bit cfg 3
          let sl := if data.length < 48 then data.length else 0
          let tag := beBytes 2 0x88E5 ++ beBytes 1 (b2n sc * 32 + 12 + a) ++ beBytes 1 sl ++ beBytes 4 (x.pn % 2 ^ 32) ++
            (if sc then beBytes 8 sci else [])
          let head := body.take 12 ++ tag
          let o := confOffset s p
          let e := gcmSeal key (secIv s p x sci x.pn) (head ++ data.take o) (data.drop o)
          let out := head ++ data.take o ++ e.1 ++ e.2
          let warn := !x.warned && decide (pnWarn s p ≤ x.pn + 1)
          let now := (txSa s p a).getD x
          let s := setTxSa p a (some { now with pn := x.pn + 1, warned := x.warned || warn }) s
          let s := if warn then ethEvent p 8 s else s
          (some (out ++ fcs out), if pnMax s p ≤ x.pn then stopTx p a s else s)
        | _, (_, s) => (none, ethCount p 0x68 (stopTx p a s))

/-! ### Egress timestamps (R287) -/

/-- An egress timestamp enters its port's FIFO, or is dropped where it is full. -/
def stampTx (p sec ns frac tag : Nat) (s : State) : State :=
  let l := tget [] s.eth.txts p
  if l.length < 16 then
    s.withEth (fun e => { e with txts := tput [] e.txts p (l ++ [{ sec := sec, ns := ns, frac := frac, tag := tag }]) })
  else ethEvent p 10 (s.cntF (ethPort p 0x34) 31 28 1)

/-! ### The IC port's rings (R294–R296) -/

def icReg (tx : Bool) (n off : Nat) : Nat := rg 8 ((if tx then 0x9000 else 0x8000) + n * 0x40 + off)

def icBase (s : State) (tx : Bool) (n : Nat) : Nat :=
  s.f (icReg tx n 4) 7 0 * 2 ^ 32 + (s.rd (icReg tx n 0)).toNat

def icSlots (s : State) (tx : Bool) (n : Nat) : Nat := 2 ^ s.f (icReg tx n 8) 4 1

/-- Physical address of a byte that ring pair `n` names: through the IOMMU as device 32 + n, in master 0x2B's reach. -/
def icPhys (s : State) (n a : Nat) (wr : Bool) : Option Nat :=
  match s.devXlate (32 + n) a wr with
  | some x => if s.reaches 0x2B x wr && outboundOk s x then some x else none
  | none => none

def icBad (s : State) (n a len : Nat) (wr : Bool) : Option Nat :=
  ((List.range len).map (a + ·)).find? (fun x => (icPhys s n x wr).isNone)

def icBytes (s : State) (n a len : Nat) : List Byte :=
  (List.range len).map (fun i => match icPhys s n (a + i) false with
    | some x => s.busRd x
    | none => 0)

def icPut (n a : Nat) (data : List Byte) (s : State) : State :=
  s.putAll ((List.range data.length).filterMap (fun i => (icPhys s n (a + i) true).map (·, data.getD i 0)))

/-- What a read of ring pair `n` leaves. -/
def icRead (n a len : Nat) (s : State) : State :=
  s.readOut ((List.range len).filterMap (fun i => icPhys s n (a + i) false))

/-- Ring pair `n` completes a slot (R420). -/
def icNotice (n : Nat) (s : State) : State :=
  State.pulse { s with notices := s.notices ++ [{ master := 0x3F, kind := 4, index := n }] } (20 + n)

/-- What a receive slot is written with, beside the frame (R295). -/
structure IcInfo where
  inPort : Nat
  tc : Nat
  tsValid : Bool
  macsec : Bool
  sec : Nat
  ns : Nat
  frac : Nat
  reason : Nat
  vid : Nat
  user : Nat

/-- A copy dropped at ring `n`. -/
def icDrop (n : Nat) (s : State) : State := (s.cnt (icReg false n 0x14) 1).raise 8 11

/-- Deliver frame bytes (without FCS) to receive ring `n` (R295, R296). -/
def icDeliver (n : Nat) (bs : List Byte) (x : IcInfo) (s : State) : State :=
  let cfg := icReg false n 8
  let head := s.f (icReg false n 0xC) 15 0
  let slot := icBase s false n + head * 32
  if s.bit cfg 0 = false ∨ head = s.f (icReg false n 0x10) 15 0 ∨ s.f cfg 19 8 * 16 < bs.length then icDrop n s
  else match icBad s n slot 32 true with
    | some a => icDrop n (s.devFault (32 + n) 0x2B a true)
    | none =>
      let buf := leNat (icBytes s n slot 8)
      match icBad s n buf bs.length true with
      | some a => icDrop n (s.devFault (32 + n) 0x2B a true)
      | none =>
        let info := x.tc % 8 + b2n x.tsValid * 8 + b2n x.macsec * 16
        let rest := leBytes 2 bs.length ++ leBytes 1 x.inPort ++ leBytes 1 info ++ leBytes 4 x.ns ++ leBytes 6 x.sec ++
          leBytes 2 x.frac ++ leBytes 1 x.reason ++ [0] ++ leBytes 2 x.vid ++ leBytes 4 x.user
        let s := icPut n (slot + 8) rest (icPut n buf bs (icRead n slot 8 s))
        icNotice n (s.wr (icReg false n 0xC) (BitVec.ofNat 32 ((head + 1) % icSlots s false n)))

/-- Ring of a copy that leaves through IC (R296). -/
def icRing (s : State) (c : Copy) : Nat :=
  if c.redirect then fld c.user 4 0
  else if c.tc < 6 then s.f (rg 8 0x24) (5 * c.tc + 4) (5 * c.tc)
  else s.f (rg 8 0x28) (5 * (c.tc - 6) + 4) (5 * (c.tc - 6))

end Sys2Proof.Machine
end

