-- ==== Sys2Proof/Machine/Eth.lean ====
section
/-! DEFINITION. The commands of the Ethernet ports: reception, transmission, link, TC10, PLCA, PoDL, timestamps, IC
rings and opcodes (R272–R300). -/

namespace Sys2Proof.Machine

/-! ### Frames -/

/-- The gPTP destination address (R118). -/
def gptpDa : List Byte := [0x01, 0x80, 0xC2, 0x00, 0x00, 0x0E]

/-- The network time `ago` nanoseconds before now: seconds, of 48 bits, and nanoseconds. -/
def stampOf (s : State) (ago : Nat) : Nat × Nat :=
  let t := (s.now + 2 ^ 48 * 1000000000 - ago) % (2 ^ 48 * 1000000000)
  (t / 1000000000, t % 1000000000)

/-- The top 16 bits of FRAC, as a timestamp record holds them (R120). -/
def stampFrac (s : State) : Nat := s.tim.frac.toNat / 65536

/-- A checked frame goes to SWC; a gPTP frame goes to Mason or to the IC port instead (R118, R285). `t` is its ingress
timestamp. -/
def passFrame (p : Nat) (bs : List Byte) (macsec : Nat) (t : Nat × Nat) (frac : Nat) (s : State) : State :=
  if bs.take 6 = gptpDa then
    if s.bit (rg 3 0x24) 0 then
      let k := classify s p bs
      icDeliver (s.f (rg 8 0x20) 4 0) (bs.take (bs.length - 4))
        { inPort := p, tc := k.1, tsValid := true, macsec := macsec != 0, sec := t.1, ns := t.2, frac := frac, reason := 0,
          vid := k.2.1, user := 0 } s
    else { s with mason := { s.mason with gptpRx := s.mason.gptpRx ++ [(bs, t.1, t.2, frac)] } }
  else (storeFrame p bs macsec none (false, 0) t.1 t.2 frac (ethCount p 0x40 s)).1

/-- MACsec, where the port has it on, and then on to SWC (R285 step 4). -/
def checkFrame (p : Nat) (wire : List Byte) (t : Nat × Nat) (frac : Nat) (s : State) : State :=
  let m := macsecRx p wire s
  match m.1 with
  | some x => passFrame p x.1 x.2 t frac m.2
  | none => m.2

/-- Whether the verify buffer of a port, of 2 × 9,216 bytes, has room for a frame (R290). -/
def verifyRoom (s : State) (p : Nat) (wire : List Byte) : Bool :=
  decide ((s.eth.shared.map (SharedWork.held p)).sum + wire.length ≤ 2 * 9216)

/-- A frame received on a port with its link up (R276, R285). `wire` is the frame from destination address to FCS;
`ago` is how long before now its timestamp point passed the pins. With PATH = 1 its MACsec work waits for Crucible's ring
work (R291, R408); a frame for which the verify buffer has no room is lost (log entry 74). -/
def execFrameReceive (p : Nat) (wire : List Byte) (ago : Nat) (s : State) : Out :=
  act (fun s =>
    if 17 < p ∨ portFitted s.tier p = false ∨ linkUp s p = false then s
    else
      let body := wire.take (wire.length - 4)
      if wire.length < 4 ∨ fcs body ≠ wire.drop (wire.length - 4) then ethCount p 0x44 s
      else if wire.length < 64 then ethCount p 0x48 s
      else if min (s.f (ethPort p 8) 13 0) 9216 < wire.length then ethCount p 0x4C s
      else
        let t := stampOf s ago
        if macsecShared s p wire && (secTag wire).isSome then
          (if verifyRoom s p wire then
            s.withEth (fun e => { e with shared := e.shared ++ [.rx p wire t.1 t.2 (stampFrac s)] })
          else s)
        else checkFrame p wire t (stampFrac s) s) s

/-- Crucible does the oldest shared MACsec work (R408). -/
def doShared (s : State) : State :=
  match s.eth.shared with
  | [] => s
  | .rx p wire sec ns frac :: r => checkFrame p wire (sec, ns) frac (s.withEth (fun e => { e with shared := r }))
  | .tx _ :: r => s.withEth (fun e => { e with shared := r })

/-- A copy delivered through an internal port: to an IC ring, to the gateway or to Mason. -/
def deliver (c : Copy) (f : Frame) (bs : List Byte) (bad : Bool) (s : State) : State :=
  if c.port = 18 then
    icDeliver (icRing s c) (bs.take (bs.length - 4))
      { inPort := f.port, tc := c.tc, tsValid := decide (f.port < 18), macsec := f.macsec != 0, sec := f.rxSec, ns := f.rxNs,
        frac := f.rxFrac, reason := c.reason, vid := c.vid, user := c.user.toNat } s
  else if c.port = 19 then igDeliver c f bs bad s
  else { s with mason := { s.mason with imRx := s.mason.imRx ++ [(bs, f.vid, f.pcp)] } }

/-- A copy leaves the MAC: sent bytes, counters, timestamp. -/
def sendCopy (c : Copy) (f : Frame) (bs : List Byte) (bad : Bool) (ago : Nat) (s : State) : State :=
  let s := s.withSwc (fun w => { w with sent := w.sent ++ [{ port := c.port, bytes := bs, badFcs := bad }] })
  let s := swcCount c.port 0x24 (if c.port ≤ 17 then ethCount c.port 0x60 s else s)
  if c.tsReq && decide (c.port ≤ 17) then
    let t := stampOf s ago
    stampTx c.port t.1 t.2 (stampFrac s) f.tsTag s
  else s

/-- The copy in transmission on a port is completely sent (R229, R239, R287, R292): where
it was to be cut, it has been, and nothing of it ends (R254). `bad` names a tile of the frame
whose check word failed while it was read (R135); `ago` is how long before now its timestamp point left. A T1S port
sends only within its transmit opportunity (R283), and shared MACsec work comes first (R408). -/
def transmitted (p : Nat) (bad : Option Nat) (ago : Nat) (s : State) : State :=
  let s := cutAtEnd p s
  match tget none s.swc.tx p with
  | none => s
  | some c =>
    match findFrame s c.frame with
    | none => s
    | some f =>
      if (14 ≤ p ∧ p ≤ 17 ∧ tget 0 s.eth.plca p = 0) ∨ s.eth.shared.contains (.tx p) = true then s
      else
        let out := egressForm f c
        let s := s.withSwc (fun w => { w with tx := tput none w.tx p none })
        let s := s.withEth (fun e => { e with plca := tput 0 e.plca p (tget 0 e.plca p - 1) })
        let s := if out.2 then rulCount 0x11C s else s
        let s := match bad with
          | some t => tcwFail p f.tiles[t]? s
          | none => s
        let s :=
          if 18 ≤ p then
            if bad.isNone then deliver c f out.1 false (sendCopy c f out.1 false ago s)
            else if p = 19 then deliver c f out.1 true s else s
          else
            let m := macsecTx p c.an out.1 s
            match m.1 with
            | some bs => sendCopy c f bs bad.isSome ago m.2
            | none => m.2
        showQueue c.queue (releaseCopy c s)

def execCopyTransmitted (p : Nat) (bad : Option Nat) (ago : Nat) (s : State) : Out := act (transmitted p bad ago) s

/-! ### Links -/

/-- A write of PORT_CTRL (R276); ports 18–20 have TX_EN alone, so EN is
not written there. -/
def execPortCtrlWrite (m p : Nat) (v : Word) (s : State) : Out :=
  withWrite 8 (0x1000 + p * 0x100) (.bit p) m (fun s =>
    if portFitted s.tier p = false then .ok s
    else if fld v 31 2 ≠ 0 then unpredictable 8
    else .ok (setPortCtrl p (if 18 ≤ p then v &&& 2#32 else v) s)) s

/-- Whether the optional FEC is in use (R274): on BB ports where both ends offer it, in 25GBASE-R where FEC_OPT selects
it, nowhere else. `fec` is the partner's offer. -/
def fecActive (s : State) (p : Nat) (fec : Bool) : Bool :=
  s.bit (ethPort p 4) 5 && (if p ≤ 3 then fec else portMode s p == 4)

/-- A link comes up: rate, options, and the record of a full training (R274, R276, R280). -/
def bringUp (p mbps addFrag : Nat) (fec : Bool) (s : State) : State :=
  let r := ethPort p 0xC
  let retained := phyState s p == 2
  let t := if !retained && keepsRecord s p then
      let v := s.free
      let w := v.2.free
      let x := RtRecord.new (portMode s p) (s.bit (ethPort p 4) 4) v.1 w.1
      w.2.withEth (fun e => { e with rt := tput none e.rt p (some x) })
    else s
  let t := (((t.sb r 0 true).sf r 3 1 3).sb r 4 (fecActive s p fec)).sb r 5 retained
  let t := (t.sf r 31 16 (modeRate s p mbps)).sf (tmgPort p 8) 25 24 (addFrag % 4)
  keyValidate [32 + p] (reportPort p s (ethEvent p 0 t))

/-- Whether the two ends of a link have the same fixed role, so that they do not link: on BB and E ports (R273). -/
def sameRole (s : State) (p : Nat) (master : Bool) : Bool :=
  (decide (p ≤ 3) || (decide (6 ≤ p) && decide (p ≤ 13))) && master == s.bit (ethPort p 4) 4

/-- A port's link comes up or goes down (R276). `mbps` is the partner's USXGMII rate, `addFrag` its addFragSize, and `offer`
whether it offers the optional FEC and whether it is the master. A retained start comes up only once its marker and probe have
passed (R279). -/
def execLinkChange (p : Nat) (up : Bool) (mbps addFrag : Nat) (offer : Bool × Bool) (s : State) : Out :=
  act (fun s =>
    if 17 < p ∨ portFitted s.tier p = false then s
    else if up then
      if sameRole s p offer.2 = false ∧ (phyState s p = 1 ∨ (phyState s p = 2 ∧ tget false s.eth.rtProbed p = true)) then
        bringUp p mbps addFrag offer.1 s
      else s
    else if linkUp s p then ethCount p 0x74 (dropLink p 1 s) else s) s

/-- A retained start that waits for its marker. -/
def awaitsMarker (s : State) (p : Nat) : Bool := phyState s p == 2 && !tget false s.eth.rtProbed p

/-- The partner returns the marker and the PHY probes the channel: `agrees` says whether every probe point lies within
1.5 dB of the signature (R279 steps 2–4). -/
def execRtMarkerReceived (p : Nat) (agrees : Bool) (s : State) : Out :=
  act (fun s => if awaitsMarker s p then (if agrees then setProbed p true s else fallBack p 2 s) else s) s

/-- The partner does not return the retained-start marker within 2 ms (R279 step 2). -/
def execRtMarkerTimeout (p : Nat) (s : State) : Out :=
  act (fun s => if awaitsMarker s p then fallBack p 1 s else s) s

/-- The link is not up by the retained limit of R278 (R279 step 4). -/
def execRetainedStartLimit (p : Nat) (s : State) : Out :=
  act (fun s => if phyState s p = 2 then fallBack p 3 s else s) s

/-! ### TC10 (R281) -/

def setSleeping (p : Nat) (b : Bool) (s : State) : State :=
  s.withEth (fun e => { e with sleeping := tput false e.sleeping p b })

/-- The partner acknowledges the sleep request. -/
def execTc10SleepAck (p : Nat) (s : State) : Out :=
  act (fun s => if tget false s.eth.sleeping p then podlSleep p (dropLink p 4 s) else s) s

/-- The sleep handshake of a port fails: the link stays up. -/
def sleepFailed (p : Nat) (s : State) : State :=
  if tget false s.eth.sleeping p then ethEvent p 3 (setSleeping p false s) else s

/-- 16 ms without acknowledgement. -/
def execTc10SleepTimeout (p : Nat) (s : State) : Out := act (sleepFailed p) s

/-- The partner refuses. -/
def execTc10SleepRefused (p : Nat) (s : State) : Out := act (sleepFailed p) s

/-- A wake-up pulse: a sleeping link restarts; a handshake under way is abandoned. -/
def execTc10Wake (p : Nat) (s : State) : Out :=
  act (fun s =>
    if tget false s.eth.sleeping p then setSleeping p false s
    else if phyState s p = 4 then podlWake p (ethEvent p 2 (ethCount p 0x7C (startPhy p s)))
    else s) s

/-- A wake-up request on an active link. -/
def execTc10Wur (p : Nat) (s : State) : Out :=
  act (fun s => if linkUp s p && s.bit (ethPort p 4) 7 then ethEvent p 4 (setSleeping p false s) else s) s

/-! ### T1S (R283, R284) -/

/-- The coordinator starts a cycle: the module may send MAX_BC + 1 frames. `coll` collisions were seen since the last
cycle. -/
def execPlcaCycle (p coll : Nat) (s : State) : Out :=
  act (fun s =>
    if 14 ≤ p ∧ p ≤ 17 ∧ linkUp s p = true then
      let s := s.cnt (ethPort p 0x6C) coll
      s.withEth (fun e => { e with plca := tput 0 e.plca p (s.f (ethPort p 0x10) 16 13 + 1) })
    else s) s

def t1s (s : State) (p : Nat) : Bool := decide (14 ≤ p) && decide (p ≤ 17) && portFitted s.tier p

/-- A write of PODL_CFG. -/
def execPodlCfgWrite (m p : Nat) (v : Word) (s : State) : Out :=
  withWrite 8 (0x1014 + p * 0x100) (.bit p) m (fun s =>
    if !t1s s p then .ok s
    else if fld v 31 13 ≠ 0 then unpredictable 8 else .ok (setPodlCfg p v s)) s

/-- The node's class is read: power where ALLOWED names it. -/
def execPodlClassified (p cls : Nat) (s : State) : Out :=
  act (fun s =>
    if t1s s p && podlState s p == 1 then
      if cls < 10 ∧ s.bit (ethPort p 0x14) (cls + 2) = true then (setPodl p 2 s).sf (ethPort p 0x18) 7 4 cls
      else ethEvent p 6 (setPodl p 0 s)
    else s) s

/-- No SCCP answer in 50 ms. -/
def execPodlClassTimeout (p : Nat) (s : State) : Out :=
  act (fun s => if t1s s p && podlState s p == 1 then ethEvent p 6 (setPodl p 0 s) else s) s

/-- Current limited for more than 2 ms. -/
def execPodlTrip (p : Nat) (s : State) : Out :=
  act (fun s =>
    if t1s s p && podlState s p == 2 then
      let r := ethPort p 0x18
      let s := (setPodl p 0 (ethCount p 0x78 s)).sf r 11 8 (min 8 (s.f r 11 8 + 1))
      ethEvent p 5 (setRetry p true (s.sb r 12 false))
    else s) s

/-- The retry time ends: the source starts as from EN written 1, or is latched after eight trips. -/
def execPodlRetry (p : Nat) (s : State) : Out :=
  act (fun s =>
    if t1s s p && tget false s.eth.podlRetry p then
      if s.f (ethPort p 0x18) 11 8 < 8 then podlStart p s else setRetry p false (setPodl p 3 s)
    else s) s

/-- 10 s without a trip. -/
def execPodlTripsClear (p : Nat) (s : State) : Out :=
  act (fun s => if t1s s p && podlState s p == 2 then s.sf (ethPort p 0x18) 11 8 0 else s) s

/-! ### Timestamps and IC rings -/

/-- A read of TXTS_NS pops the oldest egress timestamp (R287). -/
def execTxtsPop (m p : Nat) (s : State) : Out :=
  withRead 8 (0x102C + p * 0x100) (.bit p) m (fun s =>
    match tget [] s.eth.txts p with
    | [] => s.reply m [0] false
    | x :: r =>
      let s := s.withEth (fun e => { e with txts := tput [] e.txts p r })
      let s := (s.wr (ethPort p 0x30) (BitVec.ofNat 32 x.sec)).sf (ethPort p 0x34) 15 0 (x.sec / 2 ^ 32)
      (s.sf (ethPort p 0x34) 27 16 x.tag).reply m [BitVec.ofNat 32 (x.ns + 2 ^ 31)] false) s

/-- Frames of a transmit ring's slots enter the switch, from TX_HEAD until the tail (R294). None where a descriptor
breaks its form, for which the ring's state is then any. A gPTP frame among them enters like any other, MASON mode or not
(log entry 71). -/
def icTake (n tail : Nat) : Nat → State → Option State
  | 0, s => some s
  | fuel + 1, s =>
    let head := s.f (icReg true n 0xC) 15 0
    if head = tail then some s
    else
      let a := icBase s true n + head * 16
      let next := fun (s : State) =>
        icTake n tail fuel (icNotice n (s.wr (icReg true n 0xC) (BitVec.ofNat 32 ((head + 1) % icSlots s true n))))
      match icBad s n a 16 false with
      | some x => next (s.devFault (32 + n) 0x2B x false)
      | none =>
        let d := icBytes s n a 16
        let s := icRead n a 16 s
        let len := leAt d 8 2
        let fl := leAt d 10 1
        if 2 ^ 40 ≤ leAt d 0 8 ∨ len < 60 ∨ 9212 < len ∨ 32 ≤ fl ∨ leAt d 11 1 ≠ 0 ∨ leAt d 14 2 ≠ 0 then none
        else match icBad s n (leAt d 0 8) len false with
          | some x => next (s.devFault (32 + n) 0x2B x false)
          | none =>
            let bs := icBytes s n (leAt d 0 8) len
            let s := icRead n (leAt d 0 8) len s
            let tc := if fl.testBit 1 then some (fl / 4 % 8) else none
            next (storeFrame 18 (bs ++ fcs bs) 0 tc (fl.testBit 0, leAt d 12 2) s.tim.sec.toNat s.tim.ns (stampFrac s) s).1

/-- ETH takes the slots posted on transmit ring `n`, while the ring is enabled (R294). -/
def icServe (n : Nat) (s : State) : Ans :=
  if s.bit (icReg true n 8) 0 then
    match icTake n (s.f (icReg true n 0x10) 15 0) (icSlots s true n) s with
    | some t => .ok t
    | none => unpredictable (inIcRing n)
  else .ok s

/-- A write of an IC transmit ring's TAIL (R294). -/
def execIcTxDoorbell (m n : Nat) (v : Word) (s : State) : Out :=
  withWrite 8 (0x9010 + n * 0x40) (.bit (32 + n)) m (fun s =>
    if 32 ≤ n then .ok s
    else if icSlots s true n ≤ v.toNat then unpredictable (inIcRing n)
    else icServe n (s.wr (icReg true n 0x10) v)) s

/-! ### Registers -/

/-- A PORT_CFG word a port takes. -/
def portCfgOk (p : Nat) (v : Word) : Bool :=
  modeOk p (fld v 3 0) && !(bitOf v 7 && (p == 4 || p == 5)) && fld v 31 9 == 0

def maxOk (v : Word) : Bool :=
  decide (64 ≤ fld v 13 0) && decide (fld v 13 0 ≤ 9216) && decide (64 ≤ fld v 29 16) && decide (fld v 29 16 ≤ 9216)

def plcaOk (v : Word) : Bool :=
  decide (2 ≤ fld v 4 0) && decide (fld v 4 0 ≤ 16) && fld v 12 5 != 0 && fld v 24 17 != 0 && fld v 31 25 == 0

/-- A write of an IC ring's CFG: EN alone while the ring is enabled; slots already posted are taken as it comes up. -/
def icCfgWrite (off : Nat) (v : Word) (s : State) : Ans :=
  let cfg := rg 8 off
  if s.bit cfg 0 then .ok (s.sb cfg 0 (bitOf v 0))
  else if bitOf v 0 && (fld v 4 1 < 4 || 12 < fld v 4 1 || (off < 0x9000 && (fld v 19 8 < 4 || 1024 < fld v 19 8))) then
    unpredictable 8
  else if 0x9000 ≤ off ∧ bitOf v 0 = true then icServe (off % 0x1000 / 0x40) (s.wr cfg v)
  else .ok (s.wr cfg v)

/-- Software's write of an ETH register that has no row: the port configuration only while EN = 0 (R277; REPLAY_WIN and
TX_SCI by R60), an IC ring's base and shape only while its EN = 0. -/
def ethWrite (off : Nat) (v : Word) (s : State) : Option Ans :=
  if 0x1000 ≤ off ∧ off < 0x2500 then
    let p := (off - 0x1000) / 0x100
    let o := off % 0x100
    let held := s.bit (ethPort p 0) 0
    let put := fun (ok : Bool) =>
      some (if held then .ok s else if ok then (.ok (s.wr (rg 8 off) v) : Ans) else unpredictable 8)
    if o = 4 then put (portCfgOk p v)
    else if o = 8 then put (maxOk v)
    else if o = 0x10 then put (plcaOk v)
    else if o = 0x1C then put (fld v 5 4 != 3)
    else if o = 0x20 ∨ o = 0x24 ∨ o = 0x28 then (if held then some (unpredictable 8) else none)
    else none
  else if 0x8000 ≤ off ∧ off < 0x9800 then
    let o := off % 0x40
    if o = 8 then some (icCfgWrite off v s)
    else if (o = 0 ∨ o = 4) ∧ s.bit (rg 8 (off - o + 8)) 0 = true then some (.ok s)
    else none
  else none

/-! ### Opcodes (R298) -/

def opsEth : List OpSpec :=
  let port := fun (op len lo hi : Nat) =>
    ({ opcode := op, lenLo := len, lenHi := len, instLo := lo, instHi := hi, classHi := 17, block := 8,
       mask := fun c => .bit c.inst, fitted := fun s c => portFitted s.tier c.inst } : OpSpec)
  [port 0x0800 24 0 17, port 0x0801 4 0 17, port 0x0802 0 0 17, port 0x0803 4 0 17,
   { opcode := 0x0804, lenLo := 0, lenHi := 0, classHi := 17, block := 8, mask := fun _ => .full },
   { port 0x0805 0 0 13 with instOk := fun i => decide (i ≤ 3) || decide (6 ≤ i) }, port 0x0806 4 14 17, port 0x0807 4 14 17, port 0x0808 40 0 13, port 0x0809 4 0 13,
   port 0x080A 4 0 13, port 0x080B 4 0 13, port 0x080C 0 0 17]

def effEthSetPort : CmdEff := fun c s =>
  let p := c.inst
  let cfg := c.w 32
  let mx := c.w 36
  let ms := c.w 40
  if fld cfg 31 9 ≠ 0 then reservedField c 32
  else if !modeOk p (fld cfg 3 0) then badParam 0x100 32 (fld cfg 3 0)
  else if bitOf cfg 7 && (p == 4 || p == 5) then badParam 0x101 32 p
  else if mx &&& 0xC000C000#32 ≠ 0 then reservedField c 36
  else if !maxOk mx then badParam 0x108 36 0
  else if 14 ≤ p ∧ ms ≠ 0 then badParam 0x108 40 0
  else if 14 ≤ p ∧ c.p 44 4 ≠ 0 then badParam 0x108 44 0
  else if 14 ≤ p ∧ c.p 48 8 ≠ 0 then badParam 0x108 48 0
  else if fld ms 31 9 ≠ 0 then reservedField c 40
  else if fld ms 5 4 = 3 then badParam 0x108 40 0
  else if s.bit (ethPort p 0) 0 then wrongState 0x102 p
  else
    let s := (s.wr (ethPort p 4) cfg).wr (ethPort p 8) mx
    if 14 ≤ p then .done s
    else .done ((((s.wr (ethPort p 0x1C) ms).wr (ethPort p 0x20) (c.w 44)).wr (ethPort p 0x24) (c.w 48)).wr
      (ethPort p 0x28) (c.w 52))

def effEthPortEnable : CmdEff := fun c s =>
  if 4 ≤ c.p 32 4 then reservedField c 32 else .done (setPortCtrl c.inst (c.w 32) s)

def effEthLinkStatus : CmdEff := fun c s =>
  .res s (readRegs [ethPort c.inst 0xC] s ++ (if 14 ≤ c.inst then readRegs [ethPort c.inst 0x18] s else [0, 0, 0, 0]))

def effEthTc10 : CmdEff := fun c s =>
  let p := c.inst
  if p = 4 ∨ p = 5 ∨ s.bit (ethPort p 4) 7 = false then badParam 0x101 8 p
  else if c.p 32 4 = 1 then
    if linkUp s p then .done (setSleeping p true s) else wrongState 0x103 p
  else if c.p 32 4 = 2 then
    if phyState s p = 4 then .done (podlWake p (startPhy p s)) else wrongState 0x104 p
  else badParam 0x108 32 0

def effEthRtSave : CmdEff := fun _ s =>
  let n := ((List.range 14).filter (fun p => decide (tget none s.eth.rt p ≠ tget none s.eth.rtFlash p))).length
  .res (s.withEth (fun e => { e with rtFlash := e.rt })) (leBytes 4 n)

def effEthRtClear : CmdEff := fun c s =>
  .done (s.withEth (fun e => { e with rt := terase e.rt c.inst, rtFlash := terase e.rtFlash c.inst }))

def effEthPlcaCfg : CmdEff := fun c s =>
  let v := c.w 32
  if fld v 31 25 ≠ 0 then reservedField c 32
  else if !plcaOk v then badParam 0x108 32 0
  else if s.bit (ethPort c.inst 0) 0 then wrongState 0x102 c.inst
  else .done (s.wr (ethPort c.inst 0x10) v)

def effEthPodl : CmdEff := fun c s =>
  if fld (c.w 32) 31 13 ≠ 0 then reservedField c 32 else .done (setPodlCfg c.inst (c.w 32) s)

/-- DIR, SC and AN of an SA command. -/
def saForm (c : Cmd) (k : Bool → Nat → Nat → CmdOut) : CmdOut :=
  let d := c.p 32 1
  let sc := c.p 33 1
  if 1 < d then badParam 0x108 32 0
  else if 7 < sc ∨ (d = 0 ∧ sc ≠ 0) then badParam 0x108 33 0
  else if 3 < c.p 34 1 then badParam 0x108 34 0
  else if !c.zero 35 1 then reservedField c 35
  else k (d == 1) sc (c.p 34 1)

/-- The SA a command names, and whether it is the active transmit SA. -/
def saAt (s : State) (p : Nat) (rx : Bool) (sc an : Nat) : Option Sa := if rx then rxSa s p sc an else txSa s p an
def saActive (s : State) (p : Nat) (rx : Bool) (an : Nat) : Bool := !rx && tget none s.eth.txAn p == some an

/-- Whether an SA is in use: the active transmit SA, or the one under which a frame of the port has begun (R293). -/
def saInUse (s : State) (p : Nat) (rx : Bool) (an : Nat) : Bool :=
  let begun := fun (c : Option Copy) => (c.bind (·.an)) == some an
  saActive s p rx an || (!rx && (begun (tget none s.swc.tx p) || begun (tget none s.swc.cut p)))

def effEthSaInstall : CmdEff := fun c s =>
  saForm c fun rx sc an =>
    let p := c.inst
    let n := c.p 36 2
    let pn := c.p 40 8
    if !c.zero 38 2 then reservedField c 38
    else if pn = 0 ∨ pnMax s p < pn then badParam 0x108 40 0
    else slotCheckCru 0x108 c 36 n s <|
      let k := keySlot s n
      if saInUse s p rx an then wrongState 0x105 an
      else if k.st ≠ 1 ∨ k.usage.testBit 5 = false then wrongState 0x107 n
      else
        let x : Sa := { slot := n, pn := pn, low := pn, ssci := c.p 48 4, salt := slice c.payload 20 12, sci := c.p 64 8,
                        stopped := false, warned := false }
        .done (if rx then setRxSa p (sc * 4 + an) (some x) s else setTxSa p an (some x) s)

def effEthSaTxSwitch : CmdEff := fun c s =>
  let an := c.p 32 4
  if 3 < an then badParam 0x108 32 0
  else if (txSa s c.inst an).isNone then wrongState 0x106 an
  else .done (s.withEth (fun e => { e with txAn := tput none e.txAn c.inst (some an) }))

def effEthSaDelete : CmdEff := fun c s =>
  saForm c fun rx sc an =>
    if (saAt s c.inst rx sc an).isNone then badParam 0x106 34 an
    else if saInUse s c.inst rx an then wrongState 0x105 an
    else .done (if rx then setRxSa c.inst (sc * 4 + an) none s else setTxSa c.inst an none s)

def effEthSaStatus : CmdEff := fun c s =>
  saForm c fun rx sc an =>
    match saAt s c.inst rx sc an with
    | none => badParam 0x106 34 an
    | some x => .res s (leBytes 8 (if rx then x.low else x.pn) ++
        leBytes 4 (b2n x.stopped + 2 * b2n (saActive s c.inst rx an)))

def effEthPortCounters : CmdEff := fun c s => .res s (readRegs (regRun (ethPort c.inst 0x40) 16) s)

def execEthSetPort (ring slot : Nat) (s : State) : Out := opRow (specOf opsEth 0x0800) effEthSetPort ring slot s
def execEthPortEnable (ring slot : Nat) (s : State) : Out := opRow (specOf opsEth 0x0801) effEthPortEnable ring slot s
def execEthLinkStatus (ring slot : Nat) (s : State) : Out := opRow (specOf opsEth 0x0802) effEthLinkStatus ring slot s
def execEthTc10 (ring slot : Nat) (s : State) : Out := opRow (specOf opsEth 0x0803) effEthTc10 ring slot s
def execEthRtSave (ring slot : Nat) (s : State) : Out := opRow (specOf opsEth 0x0804) effEthRtSave ring slot s
def execEthRtClear (ring slot : Nat) (s : State) : Out := opRow (specOf opsEth 0x0805) effEthRtClear ring slot s
def execEthPlcaCfg (ring slot : Nat) (s : State) : Out := opRow (specOf opsEth 0x0806) effEthPlcaCfg ring slot s
def execEthPodl (ring slot : Nat) (s : State) : Out := opRow (specOf opsEth 0x0807) effEthPodl ring slot s
def execEthSaInstall (ring slot : Nat) (s : State) : Out := opRow (specOf opsEth 0x0808) effEthSaInstall ring slot s
def execEthSaTxSwitch (ring slot : Nat) (s : State) : Out := opRow (specOf opsEth 0x0809) effEthSaTxSwitch ring slot s
def execEthSaDelete (ring slot : Nat) (s : State) : Out := opRow (specOf opsEth 0x080A) effEthSaDelete ring slot s
def execEthSaStatus (ring slot : Nat) (s : State) : Out := opRow (specOf opsEth 0x080B) effEthSaStatus ring slot s
def execEthPortCounters (ring slot : Nat) (s : State) : Out := opRow (specOf opsEth 0x080C) effEthPortCounters ring slot s

end Sys2Proof.Machine
end

