-- ==== Sys2Proof/Machine/Cru.lean ====
section
/-! DEFINITION. Crucible's commands: keys, job rings, jobs, alarms and erasure (R387–R415). -/

namespace Sys2Proof.Machine

/-- A command of Crucible that fails, with its count (a count is the one thing such a failure changes). -/
def cruFail (status code offset value : Nat) (s : State) : CmdOut := .part (countCode code s) status code offset value

/-! ### Loading keys (R392) -/

/-- Bytes of a key of a TYPE. -/
def keyLen (t : Nat) : Nat := 8 + 8 * t

/-- Load a slot: READY, no use, its GENERATION counted. -/
def loadKey (n t usage limit : Nat) (key : List Byte) (s : State) : State :=
  setKey n { typ := t, st := 1, usage := usage, limit := limit, uses := 0, gen := ((keySlot s n).gen + 1) % 65536,
             key := key } s

/-- Status and code of a load into slot `n` that cannot be made. -/
def loadFail (n : Nat) (s : State) : Option (Nat × Nat × Nat) :=
  if n = 0 then some (stBadParam, 0x10F, 0)
  else if s.rd (rg 12 8) ≠ 0 then some (stWrongState, 0x10E, (s.rd (rg 12 8)).toNat)
  else if (keySlot s n).st ≠ 0 then some (stWrongState, 0x10A, n)
  else none

/-- The attributes and key of an unwrapped blob, where its header is well formed: TYPE, USAGE, LIMIT, key. -/
def blobForm (b : List Byte) : Option (Nat × Nat × Nat × List Byte) :=
  let t := leAt b 1 1
  if leAt b 0 1 = 1 ∧ 1 ≤ t ∧ t ≤ 3 ∧ leAt b 3 1 = 0 ∧ leAt b 12 4 = 0 ∧ b.length = 16 + keyLen t then
    some (t, leAt b 2 1, leAt b 4 8, b.drop 16)
  else none

/-! ### Erasure (R410) -/

/-- The completion record of a job. -/
def doneRecord (j : Job) (szg : Bool) (st code bytes result : Nat) : List Byte :=
  if szg then leBytes 2 j.index ++ leBytes 1 result ++ [0] ++ leBytes 2 st ++ leBytes 2 code
  else slice j.slot 56 4 ++ leBytes 2 st ++ leBytes 2 code ++ leBytes 4 bytes ++ leBytes 2 j.index ++ [0, 0]

/-- RESULT of an SZG1 record (R411); the manual gives none for INTEGRITY, which is a free value. -/
def szgResult (st code free : Nat) : Nat :=
  if st = 0 then 0
  else if st = stDenied ∨ st = stWrongState ∨ st = stLimit then 1
  else if st = stAborted then (if code = 0x10D then 4 else 3)
  else if st = stIntegrity then free % 256
  else 2

/-- A job completes (R400): its record, the tail, the event, the counters. A record the fabric refuses is not written,
and its job ends ABORTED (R398; log entry 64). -/
def endJob (j : Job) (st code bytes : Nat) (s : State) : State :=
  let n := j.ring
  let s := s.withCru (fun c => { c with jobs := c.jobs.filter (fun x => !(x.ring == n && x.index == j.index)) })
  let szg := j.slot.length == 32
  let fr := s.free
  let s := if szg && st == stIntegrity then fr.2 else s
  let rec_ := doneRecord j szg st code bytes (szgResult st code fr.1)
  let tail := s.f (cruRing n 0x18) 15 0
  let a := cruBase s n + cruSlots s n * jobBytes szg + tail * doneBytes szg
  let s := match cruBad s j.owner a rec_.length true with
    | some x => countJob stAborted 0x14 (cruRefuse j.owner x true s)
    | none => (cruPut j.owner a rec_ (countJob st code s)).2
  let s := s.wr (cruRing n 0x18) (BitVec.ofNat 32 ((tail + 1) % cruSlots s n))
  (cruShow n s).notify j.owner 3 n

/-- An erasure on source `src` (R410). -/
def cruErase (src : Nat) (s : State) : State :=
  let s := ((newContextKey (eraseSlots s)).sb (rg 12 8) src true).raise 12 2
  let s := s.cnt (rg 12 0x110) 1
  endErases (gwyErased (s.cru.jobs.foldl (fun s j => endJob j stAborted 0x10D 0 s) s))

/-- An alarm source fires at Crucible: GLITCH (0) and ROUND_CHECK (1) always erase, the others where enabled (R409). -/
def cruAlarm (src : Nat) (s : State) : State :=
  if src < 5 ∧ (src ≤ 1 ∨ s.bit (rg 12 0xC) src = true) then cruErase src s else s

def execCruAlarm (src : Nat) (s : State) : Out := act (cruAlarm src) s

/-! ### Job rings (R396, R397) -/

/-- R81 for a job ring: the job area readable and the completion area writable by Crucible for the owner, in SRAM or
DRAM, byte by byte at both ends of each page. -/
def cruConfigOk (s : State) (n : Nat) : Bool :=
  let o := cruOwner s n
  let k := s.f (cruRing n 8) 4 1
  let jobs := cruSlots s n * jobBytes (cruSzg s n)
  let recs := cruSlots s n * doneBytes (cruSzg s n)
  let ok := fun (wr : Bool) (a : Nat) =>
    match cruPhys s o a wr with
    | some p => region p == .sram || region p == .dram
    | none => false
  o != 0 && decide (4 ≤ k) && decide (k ≤ 12) &&
    (List.range (jobs / 64)).all (fun i => ok false (cruBase s n + 64 * i)) &&
    (List.range (recs / 64)).all (fun i => ok true (cruBase s n + jobs + 64 * i))

/-- A ring's CFG takes a value (R397): while EN = 1 the other fields hold. -/
def ringCfg (n : Nat) (v : Word) (s : State) : State :=
  if s.bit (cruRing n 8) 0 then (if bitOf v 0 then s else cruShow n (s.sb (cruRing n 8) 0 false))
  else
    let t := s.wr (cruRing n 8) v
    if !bitOf v 0 then t
    else if cruConfigOk t n then cruShow n t
    else ((t.sb (cruRing n 8) 0 false).sb (cruRing n 0x20) 1 true).raise 12 3

/-- A write of a ring's CFG (R397). -/
def execJobRingCtrlWrite (m n : Nat) (v : Word) (s : State) : Out :=
  withWrite 12 (0x1008 + n * 0x40) (.bit n) m (fun s =>
    if 16 ≤ n ∨ gwyRing s n = true then .ok s
    else if v &&& ~~~ 0x17F#32 ≠ 0 then unpredictable 12 else .ok (ringCfg n v s)) s

/-- A write of a ring's index that only its owner may write (R80, R397). -/
def jobOwned (n off m : Nat) (f : State → Ans) (s : State) : Out :=
  withWrite 12 (0x1000 + n * 0x40 + off) (.bit n) m (fun s =>
    if 16 ≤ n ∨ gwyRing s n = true then .ok s else if cruOwner s n ≠ m then .ok (s.drop m) else f s) s

/-- A write of J_TAIL by the ring's owner (R396, R80, R589). -/
def execJobDoorbell (m n : Nat) (v : Word) (s : State) : Out :=
  jobOwned n 0x10 m (fun s =>
    let k := cruSlots s n
    let old := s.f (cruRing n 0x10) 15 0
    let head := s.f (cruRing n 0x14) 15 0
    if k ≤ v.toNat then .ok s
    else if (v.toNat + k - old) % k ≤ (head + 2 * k - 1 - old) % k then .ok (s.wr (cruRing n 0x10) v)
    else unpredictable (inJobRing n)) s

/-- A write of C_HEAD by the ring's owner (R80, R397). -/
def cHeadWrite (m n : Nat) (v : Word) (s : State) : Out :=
  jobOwned n 0x1C m (fun s => if 65535 < v.toNat then unpredictable 12 else .ok (s.wr (cruRing n 0x1C) v)) s

/-- A write of a ring's OWNER: dropped without ACL_ADMIN, and without effect while EN = 1 (R80, R397). -/
def jobOwnerWrite (m n : Nat) (v : Word) (s : State) : Out :=
  withWrite 12 (0x100C + n * 0x40) (.bit n) m (fun s =>
    if bitOf (s.aclEntry 12 m).rights 4 = false then .ok (s.drop m)
    else if s.bit (cruRing n 8) 0 || gwyRing s n then .ok s
    else if 127 < v.toNat then unpredictable 12 else .ok (s.wr (cruRing n 0xC) v)) s

/-! ### Jobs (R399–R406) -/

/-- The core that works on SZG1 rings is numbered 6 here (log entry 19). -/
def iteratedCore : Nat := 6

/-- Fitted cores (R387). -/
def coreFitted (s : State) (core : Nat) : Bool :=
  decide (core < if s.tier = 0xA then 6 else if s.tier = 0xB then 4 else 2) || core == iteratedCore

/-- Whether a core may start the next job of ring `n` (R400). -/
def jobReady (s : State) (core n : Nat) : Bool :=
  let mine := s.cru.jobs.filter (fun j => j.ring == n)
  let k := cruSlots s n
  let head := s.f (cruRing n 0x14) 15 0
  let room := (s.f (cruRing n 0x1C) 15 0 + 2 * k - 1 - s.f (cruRing n 0x18) 15 0) % k
  let d := cruBytes s (cruOwner s n) (cruBase s n + head * jobBytes (cruSzg s n)) (jobBytes (cruSzg s n))
  s.bit (cruRing n 8) 0 && !gwyRing s n && head != s.f (cruRing n 0x10) 15 0 && cruSzg s n == (core == iteratedCore) &&
    mine.all (fun j => j.core == core) && decide (mine.length < room) && !((jobOf d).ctxIn && !mine.isEmpty)

/-- Shared MACsec work stands among the rings as one more, of priority CFG.SHARED_PRIO (R408). -/
def sharedRing : Nat := 16

/-- Whether ring `n`, or the shared MACsec work, waits for a core at priority `p`. -/
def waitsAt (s : State) (core p n : Nat) : Bool :=
  if n = sharedRing then core != iteratedCore && !s.eth.shared.isEmpty && s.f (rg 12 4) 1 0 == p
  else jobReady s core n && s.f (cruRing n 8) 6 5 == p

/-- The ring a core takes its next work from: the highest priority, and within it the next after the last served
(R408). -/
def pickJobRing (s : State) (core : Nat) : Option Nat :=
  [3, 2, 1, 0].findSome? (fun p => firstFrom (waitsAt s core p) (tget 16 s.cru.served p + 1) 17)

/-- The IV of a job whose slot names its address (R411). -/
def jobIv (o : Nat) (j : JobSpec) (s : State) : JobSpec ⊕ JobFail :=
  if j.ivAddr = 0 ∨ j.ivLen = 0 then .inl j
  else match cruBad s o j.ivAddr 16 false with
    | some a => .inr (bufferFault a)
    | none => .inl { j with iv := cruBytes s o j.ivAddr 16 }

/-- The checks of R399 up to the usage limit: the chain to start from, or the failure. The counter of a job that
restores a context is known once that is restored. -/
def jobCheck (o : Nat) (j : JobSpec) (s : State) : Chain ⊕ JobFail :=
  let mask := (s.aclEntry 12 o).mask
  let holds := fun n => mask.getLsbD (keyMaskBit n)
  let k := keySlot s j.key
  if !modeForm j then .inr ⟨stBadParam, 0x105, none⟩
  else if !chainForm j then .inr ⟨stBadParam, 0x106, none⟩
  else if j.mode = 3 ∧ j.dir = true ∧ 16384 < j.dataLen then .inr ⟨stLength, 0x104, none⟩
  else match jobIv o j s with
    | .inr e => .inr e
    | .inl j =>
      if j.init && j.mode == 2 && ctrWraps j.iv j.dataLen then .inr ⟨stBadParam, 0x105, none⟩
      else if !holds j.key || (j.dest.map (fun x => !holds x)).getD false then .inr ⟨stDenied, 0x11, none⟩
      else if k.st = 0 then .inr ⟨stWrongState, 0x100, none⟩
      else if !k.usage.testBit (usageBit j) || (j.ctxOut && !j.ctxWrap && !k.usage.testBit 7) then
        .inr ⟨stDenied, 0x101, none⟩
      else if j.ctxIn then
        match restoreContext o j s with
        | .inl c => if j.mode = 2 ∧ ctrWraps c.counter j.dataLen = true then .inr ⟨stBadParam, 0x105, none⟩ else .inl c
        | .inr e => .inr e
      else .inl (Chain.start j)

/-- The slot of ring `n` at its head, or the refused address; a refused read returns zeros (R31). -/
def readSlot (s : State) (n : Nat) : List Byte × Option Nat :=
  let o := cruOwner s n
  let k := jobBytes (cruSzg s n)
  let a := cruBase s n + s.f (cruRing n 0x14) 15 0 * k
  match cruBad s o a k false with
  | some x => (List.replicate k 0, some x)
  | none => (cruBytes s o a k, none)

/-- What the reads of a job's IV and context leave. -/
def jobReads (o : Nat) (j : JobSpec) (s : State) : State :=
  let t := if j.ivAddr = 0 ∨ j.ivLen = 0 then s else cruRead o j.ivAddr 16 s
  if j.ctxIn then cruRead o j.ctx (if leAt (cruBytes s o j.ctx 1) 0 1 = 2 then 560 else 512) t else t

/-- The checks of a job as its slot was read, and its first use of its key (R395, R398, R399). -/
def admitJob (o : Nat) (d : List Byte × Option Nat) (s : State) : (List Byte × Chain × Option JobFail) × State :=
  match d.2 with
  | some x => (([], Chain.zero, some (bufferFault x)), s)
  | none =>
    let j := jobOf d.1
    match jobCheck o j s with
    | .inr e => (([], Chain.zero, some e), if 0x107 ≤ e.code ∧ e.code ≤ 0x109 then jobReads o j s else s)
    | .inl c =>
      let s := jobReads o j s
      let u := useKey j.key s
      if u.1 then (((keySlot s j.key).key, c, none), u.2) else (([], Chain.zero, some ⟨stLimit, 0x102, none⟩), s)

/-- A core takes the next job of ring `n`: the slot is read, checked, and a use counted (R395, R399). -/
def takeJob (core n : Nat) (s : State) : State :=
  let o := cruOwner s n
  let head := s.f (cruRing n 0x14) 15 0
  let d := readSlot s n
  let s := s.wr (cruRing n 0x14) (BitVec.ofNat 32 ((head + 1) % cruSlots s n))
  let r := admitJob o d s
  let f := r.1.2.2
  let s := match f.bind (·.refused) with
    | some a => cruRefuse o a false r.2
    | none => r.2
  let x : Job := { ring := n, index := head, core := core, owner := o, slot := d.1, key := r.1.1, chain := r.1.2.1,
                   failed := f.map (fun e => (e.status, e.code)) }
  cruShow n (s.withCru (fun c => { c with jobs := c.jobs ++ [x] }))

/-- A core takes its next work (R408). -/
def startJob (core : Nat) (s : State) : State :=
  if !coreFitted s core ∨ 16 ≤ (s.cru.jobs.filter (fun j => j.core == core)).length then s
  else match pickJobRing s core with
    | none => s
    | some n =>
      let p := if n = sharedRing then s.f (rg 12 4) 1 0 else s.f (cruRing n 8) 6 5
      let s := s.withCru (fun c => { c with served := tput 16 c.served p n })
      if n = sharedRing then doShared s else takeJob core n s

def execJobStart (core : Nat) (s : State) : Out := act (startJob core) s

/-- Bytes of a job's SRC buffer: AAD, data and the tag it verifies. -/
def jobInput (j : JobSpec) : Nat :=
  j.aadLen + j.dataLen + (if j.dir && (j.mode == 3 || j.mode == 4 || j.mode == 5) && j.final then j.tagLen else 0)

/-- Output of `n` bytes overlaps SRC otherwise than by SRC = DST (R399). -/
def outOverlaps (j : JobSpec) (n : Nat) : Bool :=
  j.src != j.dst && decide (0 < n) && decide (0 < jobInput j) && decide (j.src < j.dst + n) && decide (j.dst < j.src + jobInput j)

/-- A job that wrote `n` bytes ends; such an overlap leaves its ring in doubt (R399). -/
def endOut (x : Job) (j : JobSpec) (status code n : Nat) (s : State) : State :=
  let t := endJob x status code n s
  if outOverlaps j n then t.stray x.owner (inJobRing x.ring) else t

/-- Write a job's output and complete it OK, or ABORTED at the first byte it may not write. -/
def writeOut (x : Job) (j : JobSpec) (out : List Byte) (s : State) : State ⊕ State :=
  let w := cruPut x.owner j.dst out s
  if w.1 = out.length then .inl w.2 else .inr (endOut x j stAborted 0x14 w.1 w.2)

/-- A KW or KWP job (R402). -/
def runWrap (x : Job) (j : JobSpec) (data : List Byte) (s : State) : State :=
  let kwp := j.mode == 7
  if !j.dir then
    let out := if kwp then kwpWrap x.key data else kwWrap x.key data
    match writeOut x j out s with
    | .inl s => endOut x j 0 0 out.length s
    | .inr s => s
  else match (if kwp then kwpUnwrap x.key data else kwUnwrap x.key data) with
    | none => endJob x stIntegrity 0x10B 0 s
    | some out =>
      match j.dest with
      | some n =>
        match loadFail n s, blobForm out with
        | some e, _ => endJob x e.1 e.2.1 0 s
        | none, none => endJob x stIntegrity 0x10B 0 s
        | none, some b => endJob x 0 0 0 (loadKey n b.1 b.2.1 b.2.2.1 b.2.2.2 s)
      | none =>
        match writeOut x j out s with
        | .inl s => endOut x j 0 0 out.length s
        | .inr s => s

/-- A cipher or MAC job: output, tag, verification and context. -/
def runCipher (x : Job) (j : JobSpec) (aad data expect : List Byte) (s : State) : State :=
  if j.mode = 3 ∧ j.dir = true then
    match gcmOpen x.key j.iv aad data expect with
    | none => endJob x stIntegrity 0x103 0 s
    | some out =>
      match writeOut x j out s with
      | .inl s => endOut x j 0 0 out.length s
      | .inr s => s
  else
    let r := compute x.key j x.chain aad data
    let mac := j.mode == 4 || j.mode == 5
    if mac && j.dir && j.final then
      if r.2.1 = expect then endJob x 0 0 0 s else endJob x stIntegrity 0x103 0 s
    else
      let out := if j.mode = 4 then r.2.1 else r.1 ++ r.2.1
      match writeOut x j out s with
      | .inr s => s
      | .inl s =>
        if j.ctxOut then
          let k := saveContext j r.2.2 s
          let w := cruPut x.owner j.ctx k.1 k.2
          if w.1 = k.1.length then endOut x j 0 0 out.length w.2 else endOut x j stAborted 0x14 out.length w.2
        else endOut x j 0 0 out.length s

/-- The oldest job of a ring finishes (R400). -/
def finishJob (n : Nat) (s : State) : State :=
  match s.cru.jobs.find? (fun j => j.ring == n) with
  | none => s
  | some x =>
    endErases <|
    match x.failed with
    | some e => endJob x e.1 e.2 0 s
    | none =>
      let j := jobOf x.slot
      let len := jobInput j
      match cruBad s x.owner j.src len false with
      | some a => endJob x stAborted 0x14 0 (cruRefuse x.owner a false s)
      | none =>
        let b := cruBytes s x.owner j.src len
        let s := cruRead x.owner j.src len s
        let data := slice b j.aadLen j.dataLen
        if 6 ≤ j.mode then runWrap x j data s
        else runCipher x j (b.take j.aadLen) data (b.drop (j.aadLen + j.dataLen)) s

def execJobComplete (ring : Nat) (s : State) : Out := act (finishJob ring) s

/-! ### Registers -/

/-- Software's write of a CRU register that has no row. The GWY ring's registers take no write; a ring's base only
while EN = 0. -/
def cruWrite (off : Nat) (v : Word) (s : State) : Option Ans :=
  if 0x1000 ≤ off ∧ off < 0x1400 then
    let n := (off - 0x1000) / 0x40
    if gwyRing s n then some (.ok s)
    else if (off % 0x40 = 0 ∨ off % 0x40 = 4) ∧ s.bit (cruRing n 8) 0 = true then some (.ok s)
    else none
  else if off = 0xC then some (if 31 < v.toNat then unpredictable 12 else .ok (s.wr (rg 12 0xC) (v ||| 3#32)))
  else none

/-! ### Opcodes (R413) -/

def opsCru : List OpSpec :=
  let slot := fun (op lo hi : Nat) (ok : Nat → Bool) =>
    ({ opcode := op, lenLo := lo, lenHi := hi, lenOk := ok, instHi := 1023, classHi := 1023, block := 12,
       mask := fun c => .bit (keyMaskBit c.inst),
       lenNeed := fun bs => let t := leAt bs 0 1
         if op = 0x0C00 ∧ 1 ≤ t ∧ t ≤ 3 then some (12 + keyLen t) else none } : OpSpec)
  let any := fun (_ : Nat) => true
  [slot 0x0C00 28 44 (fun n => n % 8 == 4), slot 0x0C01 44 60 (fun n => n % 8 == 4), slot 0x0C02 4 4 any,
   slot 0x0C03 0 0 any, slot 0x0C04 0 0 any,
   { opcode := 0x0C05, lenLo := 0, lenHi := 0, classHi := 1023, block := 12, mask := fun _ => .bit 48 },
   { opcode := 0x0C06, lenLo := 0, lenHi := 0, classHi := 1023, block := 12, mask := fun _ => .bit 48 }]

def effCruKeyLoad : CmdEff := fun c s =>
  let n := c.inst
  let t := c.p 32 1
  if 1 ≤ t ∧ t ≤ 3 ∧ c.len ≠ 12 + keyLen t then .fail stLength 6 6 (12 + keyLen t)
  else if n = 0 then badParam 0x10F 8 0
  else if t = 0 ∨ 3 < t then badParam 0x110 32 0
  else if !c.zero 34 2 then reservedField c 34
  else match loadFail n s with
    | some e => .fail e.1 e.2.1 noOffset e.2.2
    | none => .done (loadKey n t (c.p 33 1) (c.p 36 8) (c.payload.drop 12) s)

/-- A WRAP slot a command uses as its key-encryption key: one use counts. -/
def withKek (n : Nat) (s : State) (k : List Byte → State → CmdOut) : CmdOut :=
  let x := keySlot s n
  if x.st = 0 then cruFail stWrongState 0x100 noOffset n s
  else if !x.usage.testBit 4 then cruFail stDenied 0x101 noOffset n s
  else
    let u := useKey n s
    if u.1 then k x.key u.2 else cruFail stLimit 0x102 noOffset n s

def effCruKeyUnwrap : CmdEff := fun c s =>
  let n := c.inst
  let kek := c.p 32 2
  if n = 0 then badParam 0x10F 8 0
  else if !c.zero 34 2 then reservedField c 34
  else slotCheckCru 0x110 c 32 kek s <|
    match loadFail n s with
    | some e => .fail e.1 e.2.1 noOffset e.2.2
    | none =>
      if !(keySlot s kek).usage.testBit 4 then cruFail stDenied 0x101 noOffset kek s
      else withKek kek s fun key s =>
      match (kwUnwrap key (c.payload.drop 4)).bind blobForm with
      | some b => .done (loadKey n b.1 b.2.1 b.2.2.1 b.2.2.2 s)
      | none => cruFail stIntegrity 0x10B noOffset 0 s

def effCruKeyWrap : CmdEff := fun c s =>
  let n := c.inst
  let kek := c.p 32 2
  let x := keySlot s n
  if !c.zero 34 2 then reservedField c 34
  else slotCheckCru 0x110 c 32 kek s <|
    if x.st = 0 then cruFail stWrongState 0x100 noOffset n s
    else if !x.usage.testBit 6 then .fail stDenied 0x10C noOffset n
    else withKek kek s fun key s =>
      let h : List Byte := leBytes 1 1 ++ leBytes 1 x.typ ++ leBytes 1 x.usage ++ [0] ++ leBytes 8 x.limit ++ [0, 0, 0, 0]
      .res s (kwWrap key (h ++ x.key))

def effCruKeyErase : CmdEff := fun c s =>
  let n := c.inst
  if n = 0 then badParam 0x10F 8 0
  else
    if keyHeld s n then .wait (eraseKey n s) else .done (eraseKey n s)

def effCruKeyStatus : CmdEff := fun c s => .res s (readRegs (regRun (rg 12 (0x8000 + c.inst * 0x20)) 5) s)

def effCruEraseAll : CmdEff := fun _ s => .done (cruAlarm 4 s)

def effCruCounters : CmdEff := fun _ s =>
  let r := takeCounters (regRun (rg 12 0x100) 6) s
  .res r.2 r.1

def execCruKeyLoad (ring slot : Nat) (s : State) : Out := opRow (specOf opsCru 0x0C00) effCruKeyLoad ring slot s
def execCruKeyUnwrap (ring slot : Nat) (s : State) : Out := opRow (specOf opsCru 0x0C01) effCruKeyUnwrap ring slot s
def execCruKeyWrap (ring slot : Nat) (s : State) : Out := opRow (specOf opsCru 0x0C02) effCruKeyWrap ring slot s
def execCruKeyErase (ring slot : Nat) (s : State) : Out := opRow (specOf opsCru 0x0C03) effCruKeyErase ring slot s
def execCruKeyStatus (ring slot : Nat) (s : State) : Out := opRow (specOf opsCru 0x0C04) effCruKeyStatus ring slot s
def execCruEraseAll (ring slot : Nat) (s : State) : Out := opRow (specOf opsCru 0x0C05) effCruEraseAll ring slot s
def execCruCounters (ring slot : Nat) (s : State) : Out := opRow (specOf opsCru 0x0C06) effCruCounters ring slot s

end Sys2Proof.Machine
end

