-- ==== Sys2Proof/Machine/Gwy.lean ====
section
/-! DEFINITION. The commands of the gateway engine (R332–R364). -/

namespace Sys2Proof.Machine

/-! ### Sources (R332–R334) -/

/-- A record time, whose SEC field holds 32 bits, in nanoseconds: the latest such time not after now. -/
def recordTime (s : State) (w0 : Nat) : Nat :=
  let lo := w0 / 2 ^ 32 % 2 ^ 32
  let now := s.now / 1000000000
  let hi := now / 2 ^ 32
  let hi := if now % 2 ^ 32 < lo then hi - 1 else hi
  (hi * 2 ^ 32 + lo) * 1000000000 + w0 % 2 ^ 30

/-- The message of a record of FIFO `n`: a CAN record, a LIN record, or a safety message of ORD. -/
def recordMsg (s : State) (n : Nat) (ws : List Nat) : Msg :=
  let t := recordTime s (ws.getD 0 0)
  if 16 ≤ n ∧ n < 24 then
    let w := ws.getD 1 0
    let f : Can := { Can.zero with id := w % 64, data := slice (leBytes 8 (ws.getD 2 0)) 0 (w / 512 % 16) }
    { src := n, bus := 0, frame := f, lin := true, rx := t, release := none, errs := w / 2 ^ 13 % 32, authOk := false }
  else
    { src := if n = 24 then 48 else n, bus := 0, frame := canOfRecord ws, lin := false,
      rx := if n = 24 then s.now else t, release := none, errs := 0, authOk := false }

/-- The next record of a FIFO is taken off it. -/
def popRecord (n : Nat) (s : State) : State := setInbox n (gwyInbox s n).tail s

/-- A dropped record (R334). -/
def poisoned (s : State) : State := (gwyCount 0x108 s).raise 10 1

/-- Whether a record is whole: no POISON and no lone GAP. -/
def recordGood (p : List SWord) : Bool := p.all (fun w => w.tag != 3 && w.tag != 2)

/-- GWY acts on the next record of FIFO `n` (R334). `par` says that a word of it reached stage 0 with wrong parity
(R378). A record that an NM engine takes is left to NM_PDU_RECEIVED. -/
def actRecord (n : Nat) (par : Bool) (s : State) : State :=
    match gwyInbox s n with
    | [] => s
    | p :: _ =>
      if par then poisoned (((popRecord n s).cnt (sprReg n 0x24) 1).raise 11 2)
      else if p.any (fun w => w.tag == 3) then poisoned (popRecord n s)
      else if !recordGood p then gwyCount 0x10C (popRecord n s)
      else
        let m := recordMsg s n (p.map (·.data))
        if n < 16 ∧ nmTakes s n m.frame = true then s else takeMsg m (popRecord n s)

/-- GWY has a record of FIFO `n` whole and acts on it (R334, R601). -/
def execSprueRecord (n : Nat) (par : Bool) (s : State) : Out :=
  act (fun s => if 24 < n then s else actRecord n par (hwDrain n s)) s

/-- The job of a route's first waiting message completes (R341–R343); later messages of the route follow (R345). -/
def execAuthResult (i : Nat) (s : State) : Out :=
  act (fun s =>
    match s.gwy.waits.find? (fun w => w.route == i) with
    | none => s
    | some w =>
      match w.job with
      | none => s
      | some j =>
        endErases (nextAuth (endAuth w j (s.withGwy (fun g => { g with waits := popWait i g.waits }))))) s

/-- The waiting copy with the earliest release time (R345). -/
def firstTimed (l : List Timed) : Option Timed :=
  l.foldl (fun b x => match b with
    | none => some x
    | some y => if x.at_ < y.at_ then some x else b) none

/-- A held copy reaches its release time (R352); one that a step skipped is late (R56). -/
def execReleaseTime (s : State) : Out :=
  act (fun s =>
    match firstTimed s.gwy.timed with
    | none => s
    | some x =>
      if s.now < x.at_ then s
      else
        let s := s.withGwy (fun g => { g with timed := g.timed.erase x })
        handOn x.mid x.target (if x.late then gwyCount 0x12C s else s)) s

/-- GWY loads free gateway buffers of a channel (R348). -/
def execGwBufferLoad (ch : Nat) (s : State) : Out :=
  act (fun s => if ch < 16 then gwLoad ch ((canQueue s ch).length) s else s) s

/-- A bundle reaches TIMEOUT_US (R356). -/
def execBundleTimeout (t : Nat) (s : State) : Out := act (closeBundle t) s

/-! ### Inbound tunnels (R357, R358) -/

/-- One ACF message: the message where it is legal (R355). -/
def acfMsg (s : State) (t rx : Nat) (a : List Byte) : Option Msg :=
  let x := tunnel s t
  let typ := beAt a 0 2 / 512
  let n := beAt a 0 2 % 512 * 4
  let b2 := beAt a 2 1
  let pad := b2 / 64
  let mk := fun (bus : Nat) (f : Can) (lin : Bool) (ts : Option Nat) =>
    ({ src := 256 + t, bus := bus, frame := f, lin := lin, rx := rx,
       release := if bitOf x.flags 4 && b2.testBit 5 then ts else none, errs := 0, authOk := false } : Msg)
  let can := fun (head idAt : Nat) (ts : Option Nat) =>
    let len := n - head - pad
    let fmt := if b2.testBit 1 then (if b2.testBit 2 then 2 else 1) else 0
    let f : Can := { Can.zero with fmt := fmt, id := beAt a idAt 4 % 2 ^ 29, ide := b2.testBit 3, rr := b2.testBit 4,
                                   esi := b2.testBit 0, data := slice a head len }
    if n < head + pad ∨ canLenOk fmt len = false then none else some (mk (beAt a 3 1 % 32) f false ts)
  if typ = 1 then can 16 12 (some (beAt a 4 8))
  else if typ = 2 then can 8 4 none
  else if typ = 3 then
    let len := n - 12 - pad
    if n < 12 + pad ∨ len = 0 ∨ 8 < len then none
    else some (mk (b2 % 32) { Can.zero with id := beAt a 3 1 % 64, data := slice a 12 len } true (some (beAt a 4 8)))
  else if typ = s.f (rg 10 4) 6 0 ∧ typ ≠ 0 then
    let len := beAt a 20 2
    if n < 24 + len ∨ len = 0 ∨ 2020 < len then none
    else some (mk (beAt a 3 1 % 32)
      { fmt := 3, id := beAt a 12 2 % 2048, ide := false, rr := b2.testBit 3, esi := false, data := slice a 24 len,
        sdt := beAt a 14 1, vcid := beAt a 15 1, sec := b2.testBit 4, af := beAt a 16 4 } false (some (beAt a 4 8)))
  else none

/-- The ACF messages of a frame in order (R357 steps 4–6). -/
def acfTake (t rx : Nat) : Nat → List Byte → State → State
  | 0, _, s => s
  | fuel + 1, a, s =>
    let n := beAt a 0 2 % 512 * 4
    if a.length < 4 ∨ n = 0 ∨ a.length < n then s
    else match acfMsg s t rx (a.take n) with
      | some m => acfTake t rx fuel (a.drop n) (takeMsg m s)
      | none => acfTake t rx fuel (a.drop n) (gwyCount 0x138 s)

/-- GWY takes an inbound tunnel frame (R357 steps 1–3, R358). -/
def tunnelIn (x : IgCopy) (t : Nat) (s : State) : State :=
  let s := gwyCount 0x14C s
  let y := tunnel s t
  if x.bad || decide (255 < t) || !y.en then gwyCount 0x13C s
  else
    let body := x.bytes.take (x.bytes.length - 4)
    let p := afterTag body
    let n := beAt p 3 2 % 2048
    let sv := (beAt p 3 1).testBit 7
    let sidBad := bitOf y.flags 5 && (!sv || slice p 6 8 != y.streamIn.reverse)
    if beAt p 0 2 ≠ 0x22F0 ∨ beAt p 2 1 ≠ 0x82 ∨ beAt p 3 1 / 16 % 8 ≠ 0 ∨ p.length < 14 + n ∨ sidBad = true then
      (gwyCount 0x138 s).raise 10 6
    else
      let seq := beAt p 5 1
      let gap := match y.seqIn with
        | some k => seq != (k + 1) % 256
        | none => false
      let s := setTunnel t { y with seqIn := some seq } s
      let s := if gap then (gwyCount 0x140 s).raise 10 7 else s
      acfTake t x.rx n ((p.drop 14).take n) s

/-- The oldest copy that left through IG is an inbound tunnel frame, and GWY takes it. -/
def execTunnelFrameIn (s : State) : Out :=
  act (fun s =>
    match s.eth.igRx with
    | [] => s
    | x :: r =>
      match x.tunnel with
      | none => s
      | some t => tunnelIn x t (s.withEth (fun e => { e with igRx := r }))) s

/-! ### Host queues (R360) -/

/-- The message of an injection slot. -/
def slotMsg (s : State) (n : Nat) (d : List Byte) : Msg :=
  let w := leAt d 12 4
  let b := leAt d 18 1
  let f : Can := { fmt := b % 4, id := w % 2 ^ 29, ide := w.testBit 29, rr := w.testBit 30, esi := false,
                   data := slice d 40 (leAt d 10 2), sdt := leAt d 36 1, vcid := leAt d 37 1, sec := (leAt d 38 1).testBit 0,
                   af := leAt d 32 4 }
  { src := 32 + n, bus := 0, frame := f, lin := false, rx := s.now, release := if b.testBit 2 then some (leAt d 24 8) else none,
    errs := 0, authOk := false }

/-- Read injection slots up to the tail; none where a LENGTH lies beyond its slot. -/
def injectTake (n tail : Nat) : Nat → State → Option State
  | 0, s => some s
  | fuel + 1, s =>
    let head := s.f (hostReg n 0x1C) 15 0
    if head = tail then some s
    else
      let size := hostSlot s n
      let a := hostBase s n 8 + head * size
      let next := s.wr (hostReg n 0x1C) (BitVec.ofNat 32 ((head + 1) % hostSlots s n))
      match s.badByte 0x2A a size false with
      | some x => injectTake n tail fuel (next.accessFault 0x2A x false)
      | none =>
        let d := s.dmaBytes 0x2A a size
        if size < 40 + leAt d 10 2 then none else injectTake n tail fuel (takeMsg (slotMsg s n d) (next.dmaRead 0x2A a size))

/-- A write of I_TAIL. -/
def execInjectDoorbell (m n : Nat) (v : Word) (s : State) : Out :=
  withWrite 10 (0x1020 + n * 0x40) (.bit (32 + n)) m (fun s =>
    if 16 ≤ n then .ok s
    else if 65535 < v.toNat then unpredictable (inHostq n)
    else
      let s := s.wr (hostReg n 0x20) v
      if s.bit (hostReg n 0x10) 0 then
        if hostSlots s n ≤ v.toNat then unpredictable (inHostq n)
        else match injectTake n v.toNat (hostSlots s n) s with
          | some t => .ok t
          | none => unpredictable (inHostq n)
      else .ok s) s

/-- A write of a host queue's CFG. -/
def execHostqCfgWrite (m n : Nat) (v : Word) (s : State) : Out :=
  withWrite 10 (0x1010 + n * 0x40) (.bit (32 + n)) m (fun s =>
    let r := hostReg n 0x10
    if 16 ≤ n then .ok s
    else if v &&& ~~~ 0x007F01FF#32 ≠ 0 then unpredictable 10
    else if s.bit r 0 then .ok (s.sb r 0 (bitOf v 0))
    else
      let a := fld v 4 1
      let b := fld v 8 5
      let ok := decide (4 ≤ a) && decide (a ≤ 12) && decide (6 ≤ b) && decide (b ≤ 12) && fld v 22 16 != 0
      .ok (s.wr r (setBit v 0 (bitOf v 0 && ok)))) s

/-! ### Registers -/

/-- Software's write of a GWY register that has no row. -/
def gwyWrite (off : Nat) (v : Word) (s : State) : Option Ans :=
  if 0x1000 ≤ off ∧ off < 0x1400 then
    let n := (off - 0x1000) / 0x40
    if off % 0x40 < 0x10 ∧ s.bit (hostReg n 0x10) 0 = true then some (.ok s) else none
  else if 0x8000 ≤ off ∧ off < 0x8500 then
    let e := (off - 0x8000) / 0x40
    let o := off % 0x40
    if o = 0 then none
    else if nmEn s e then (if o ≤ 0x1C ∨ 0x2C ≤ o then some (.ok s) else none)
    else if o = 0x10 then some (if fld v 15 0 < 100 then unpredictable 10 else .ok (s.wr (rg 10 off) v))
    else if o = 0x14 then
      some (if fld v 15 0 < 100 ∨ fld v 31 16 < 10 then unpredictable 10 else .ok (s.wr (rg 10 off) v))
    else none
  else none

/-! ### Opcodes (R361–R363) -/

def opsGwy : List OpSpec :=
  let one := fun (op len : Nat) (b : Nat) =>
    ({ opcode := op, lenLo := len, lenHi := len, classHi := 255, block := 10, mask := fun _ => .bit b } : OpSpec)
  [one 0x0A00 48 24, one 0x0A01 8 24, one 0x0A02 8 24, one 0x0A03 12 24,
   { opcode := 0x0A04, lenLo := 40, lenHi := 40, instHi := 255, classHi := 255, block := 10,
     mask := fun c => .bit (48 + c.inst / 16) }, one 0x0A05 12 25, one 0x0A06 16 25, one 0x0A07 0 26]

/-- Mask bit of a source (R361). -/
def srcMaskBit (n : Nat) : Nat := if n < 48 then n else if n = 48 then 26 else 48 + (n - 256) / 16

/-- Mask bit of a target. -/
def targetMaskBit (t : List Byte) : Nat :=
  match tKind t with
  | 3 => 48 + tIndex t / 16
  | 4 => 32 + tIndex t
  | _ => tIndex t

/-- Whether the CLN instance `n` is fitted. -/
def clnFitted (s : State) (n : Nat) : Bool := if n < 16 then canFitted s.tier n else linFitted s.tier (n - 16)

/-- Fitting and mask of a key's source at payload offset `o` (step 9 of R67). -/
def sourceCheck (c : Cmd) (o n : Nat) (s : State) (k : CmdOut) : CmdOut :=
  if n ≤ 23 ∧ clnFitted s n = false then .fail stNotFitted 0 o n
  else if (s.aclEntry 10 c.issuer).mask.getLsbD (srcMaskBit n) then k
  else .fail stDenied 0x11 o (srcMaskBit n)

/-- The key of a command, its form, its source. -/
def keyed (c : Cmd) (s : State) (k : Nat → CmdOut) : CmdOut :=
  let n := c.p 32 8
  if !routeKeyForm n then badParam 0x100 32 0 else sourceCheck c 36 (keySrc n) s (k n)

/-- The targets of an entry, from number `i`. -/
def targetsCheck (c : Cmd) (s : State) : List (List Byte) → Nat → CmdOut → CmdOut
  | [], _, k => k
  | t :: r, i, k =>
    let o := 48 + 8 * i
    if !targetForm t then badParam 0x101 o i
    else if tKind t = 0 then targetsCheck c s r (i + 1) k
    else if (tKind t = 1 ∨ tKind t = 2) ∧ clnFitted s (tIndex t) = false then .fail stNotFitted 0 (o + 1) (tIndex t)
    else if !(s.aclEntry 10 c.issuer).mask.getLsbD (targetMaskBit t) then .fail stDenied 0x11 (o + 1) (targetMaskBit t)
    else targetsCheck c s r (i + 1) k

/-- A free way of a bucket. -/
def freeWay (s : State) (k : Nat) : Option Nat :=
  ((List.range 4).map (fun w => keyBucket k * 4 + w)).find? (fun i => (route s i).isNone)

def effGwyRouteWrite : CmdEff := fun c s =>
  let e := slice c.payload 0 48
  keyed c s fun k =>
    if 3 < c.p 40 1 then reservedField c 40
    else if 63 < c.p 41 1 then badParam 0x106 41 0
    else if c.p 44 4 ≠ 0 ∧ 10000000 < c.p 44 4 then badParam 0x106 44 0
    else targetsCheck c s (entryTargets e) 0 <|
      match findRoute s k with
      | some i => .res (setRoute i (some { bytes := e, fresh := routeFresh s i e }) s) (leBytes 4 i)
      | none =>
        match freeWay s k with
        | some i => .res (setRoute i (some { bytes := e, fresh := 0 }) s) (leBytes 4 i)
        | none => .fail stNoFit 0x102 noOffset (keyBucket k)

/-- The existing route of a command's key. -/
def existing (c : Cmd) (s : State) (f : Nat → Route → CmdOut) : CmdOut :=
  keyed c s fun k =>
    match findRoute s k with
    | none => badParam 0x103 32 (keyBucket k)
    | some i => f i ((route s i).getD { bytes := [], fresh := 0 })

def effGwyRouteDelete : CmdEff := fun c s => existing c s fun i _ => .done (setRoute i none s)

def effGwyRouteRead : CmdEff := fun c s =>
  existing c s fun i r => .res s (r.bytes ++ leBytes 4 i ++ leBytes 8 r.fresh)

def effGwySetSource : CmdEff := fun c s =>
  let n := c.p 32 2
  let k := c.p 36 8
  if !srcOk n then badParam 0x106 32 0
  else if 1 < c.p 34 1 then reservedField c 34
  else if !c.zero 35 1 then reservedField c 35
  else sourceCheck c 32 n s <|
    if c.p 34 1 = 0 then .done (s.withGwy (fun g => { g with defaults := tput none g.defaults n none }))
    else if !routeKeyForm k then badParam 0x100 36 0
    else sourceCheck c 40 (keySrc k) s <|
      .done (s.withGwy (fun g => { g with defaults := tput none g.defaults n (some (leBytes 8 k)) }))

/-- A tunnel's settings in range (R353): the offset of the first that is not. -/
def tunnelRange (c : Cmd) : Option Nat :=
  let fl := c.w 32
  let vid := c.p 42 2 % 4096
  if fld fl 3 2 = 3 ∨ (bitOf fl 1 = true ∧ fld fl 3 2 ≠ 0) then some 32
  else if vid = 0 ∨ vid = 4095 then some 42
  else if c.p 60 1 = 0 ∨ 16 < c.p 60 1 then some 60
  else if c.p 62 2 < 64 ∨ 2047 < c.p 62 2 then some 62
  else if c.p 64 4 < 50 ∨ 2000 < c.p 64 4 then some 64
  else if 1000000 < c.p 68 4 then some 68
  else none

def effGwyTunnelCfg : CmdEff := fun c s =>
  let t := c.inst
  let fl := c.w 32
  if fld fl 31 6 ≠ 0 then reservedField c 32
  else if (c.p 42 2).testBit 12 then reservedField c 42
  else match tunnelRange c with
    | some o => badParam 0x106 o 0
    | none =>
      if !c.zero 61 1 then reservedField c 61
      else if (tunnel s t).en then
        if bitOf fl 0 then wrongState 0x104 t
        else
          let s := closeBundle t s
          .done (setTunnel t { tunnel s t with flags := setBit (tunnel s t).flags 0 false } s)
      else .done (setTunnel t { tunnel s t with
          flags := fl, da := slice c.payload 4 6, vidPcp := c.p 42 2, streamOut := slice c.payload 12 8,
          streamIn := slice c.payload 20 8, bundleMax := c.p 60 1, maxPayload := c.p 62 2, timeoutUs := c.p 64 4,
          latencyUs := c.p 68 4 } s)

def effGwyAuthProfile : CmdEff := fun c s =>
  let p := c.p 32 1
  let bad := fun (o : Nat) => badParam 0x105 o p
  if 63 < p then bad 32
  else if c.p 33 1 < 3 ∨ 16 < c.p 33 1 then bad 33
  else if 8 < c.p 34 1 then bad 34
  else if !c.zero 35 1 then reservedField c 35
  else if 1023 < c.p 36 2 then bad 36
  else if !c.zero 38 2 then reservedField c 38
  else if c.p 40 4 = 0 then bad 40
  else
    let x : Profile := { key := c.p 36 2, macLen := c.p 33 1, freshLen := c.p 34 1, window := c.p 40 4 }
    .done (s.withGwy (fun g => { g with profiles := tput Profile.zero g.profiles p x }))

def effGwyFreshSet : CmdEff := fun c s =>
  existing c s fun i r => .done (setRoute i (some { r with fresh := c.p 40 8 }) s)

def effGwyCounters : CmdEff := fun _ s =>
  let r := takeCounters (regRun (rg 10 0x100) 20) s
  .res r.2 r.1

def execGwyRouteWrite (ring slot : Nat) (s : State) : Out := opRow (specOf opsGwy 0x0A00) effGwyRouteWrite ring slot s
def execGwyRouteDelete (ring slot : Nat) (s : State) : Out := opRow (specOf opsGwy 0x0A01) effGwyRouteDelete ring slot s
def execGwyRouteRead (ring slot : Nat) (s : State) : Out := opRow (specOf opsGwy 0x0A02) effGwyRouteRead ring slot s
def execGwySetSource (ring slot : Nat) (s : State) : Out := opRow (specOf opsGwy 0x0A03) effGwySetSource ring slot s
def execGwyTunnelCfg (ring slot : Nat) (s : State) : Out := opRow (specOf opsGwy 0x0A04) effGwyTunnelCfg ring slot s
def execGwyAuthProfile (ring slot : Nat) (s : State) : Out := opRow (specOf opsGwy 0x0A05) effGwyAuthProfile ring slot s
def execGwyFreshSet (ring slot : Nat) (s : State) : Out := opRow (specOf opsGwy 0x0A06) effGwyFreshSet ring slot s
def execGwyCounters (ring slot : Nat) (s : State) : Out := opRow (specOf opsGwy 0x0A07) effGwyCounters ring slot s

end Sys2Proof.Machine
end

