-- ==== Sys2Proof/Machine/HbrOps.lean ====
section
/-! DEFINITION. The operations of the PCIe host bridge: its log, outbound requests, events and function resets
(R522–R538). -/

namespace Sys2Proof.Machine

def State.withHbr (s : State) (f : HbrState → HbrState) : State := { s with hbr := f s.hbr }
def hbrCount (off : Nat) (s : State) : State := s.cnt (hbrReg off) 1

/-- INFO shows the virtual functions and which functions master the bus. -/
def showHbr (s : State) : State :=
  let fs := (List.range 8).filter (fnExists s)
  let s := s.sf (hbrReg 0) 8 6 (fs.length - 1)
  (List.range 8).foldl (fun s f => s.sb (hbrReg 0) (9 + f) (fnExists s f && (s.fn f).busMaster)) s

/-! ### Groups (R534–R536) -/

def sbGroup (s : State) (f g : Nat) : SbGroup := tget SbGroup.zero (s.fn f).groups g
def setSbGroup (f g : Nat) (x : SbGroup) (s : State) : State :=
  s.setFn f { s.fn f with groups := tput SbGroup.zero (s.fn f).groups g x }
def grpMode (s : State) (f g : Nat) : Nat := fld (s.fn f).grpMode (2 * g + 1) (2 * g)

/-- The sources of a group. -/
def groupSources (g : Nat) : List Nat := (List.range 65).filter (fun n => srcGroup n == g)

/-- Vectors of the pending sources of a group. -/
def pendVectors (s : State) (f g : Nat) : List Nat :=
  ((groupSources g).filter (fun n => bitOf (sbGroup s f g).pend (srcBit n))).map (s.fn f).vector

/-- A write of GRP_MODE: a group whose mode changes delivers its pending bits under the new one. Messages that only
groups leaving MSIX could have asked for are not sent. -/
def setGrpMode (f : Nat) (v : Word) (s : State) : State :=
  let old := s.fn f
  let mode := fun (g : Nat) => fld old.grpMode (2 * g + 1) (2 * g)
  let s := s.setFn f { old with grpMode := v }
  let sends := fun (g n : Nat) => (groupSources g).any (fun c => old.vector c == n)
  let left := fun (n : Nat) => (List.range 4).any (fun g => mode g == 1 && grpMode s f g != 1 && sends g n) &&
    !((List.range 4).any (fun g => mode g == 1 && grpMode s f g == 1 && sends g n))
  let s := s.withHbr (fun h => { h with msixQueue := h.msixQueue.filter (fun x => x.1 != f || !left x.2.1) })
  (List.range 4).foldl (fun s g =>
    let m := grpMode s f g
    if mode g = m then s
    else
      let x := sbGroup s f g
      let s := setSbGroup f g { x with want := m == 2 && x.pend != 0, ready := false, mark := s.hbr.serial } s
      if m = 1 then (pendVectors s f g).foldl (fun s n => s.msixAsk f n) s else s) s

/-! ### Outbound requests (R530–R532) -/

def OutKind.isWrite : OutKind → Bool
  | .write => true
  | .sbWrite _ => true
  | _ => false

/-- Every write issued before number `mark` has completed or failed (R535). -/
def earlierDone (s : State) (mark : Nat) : Bool :=
  (s.hbr.requests ++ s.hbr.waiting).all (fun r => !r.kind.isWrite || decide (mark ≤ r.serial))

/-- Lengths of the TLPs of an access, split at a size and at 4 KiB boundaries. -/
def tlpSizes (limit : Nat) : Nat → Nat → Nat → List (Nat × Nat)
  | 0, _, _ => []
  | fuel + 1, a, n =>
    if n = 0 then []
    else
      let k := min n (min limit (4096 - a % 4096))
      (a, k) :: tlpSizes limit fuel (a + k) (n - k)

/-- What a request sends: a write its memory writes and then a zero-length read of its last dword. -/
def reqTlps (mps : Nat) (r : OutReq) : List PcieSent :=
  if r.kind.isWrite then
    (tlpSizes mps r.len r.pciAddr r.len).map (fun x => .memWrite r.fn x.1 (slice r.data (x.1 - r.pciAddr) x.2)) ++
      [.memRead r.fn ((r.pciAddr + r.len - 1) / 4 * 4) 0]
  else (tlpSizes 512 r.len r.pciAddr r.len).map (fun x => .memRead r.fn x.1 x.2)

/-- The non-posted requests, each a Memory Read, that a request has outstanding (R522, R531). -/
def reqReads (r : OutReq) : Nat := if r.kind.isWrite then 1 else (tlpSizes 512 r.len r.pciAddr r.len).length

/-- The tags of a request: its first, which names it, and those that follow. -/
def reqTags (r : OutReq) : List Nat := (List.range (reqReads r)).map (fun i => (r.tag + i) % 256)

/-- The first tag of as many as a request needs, none of them in use. -/
def freeTag (s : State) (k : Nat) : Nat :=
  let used := s.hbr.requests.flatMap reqTags
  (firstFrom (fun t => (List.range k).all (fun i => !(used.contains ((t + i) % 256)))) s.hbr.nextTag 256).getD 0

/-- Whether a request may go: at most 64 non-posted requests are outstanding (R522). -/
def reqFits (s : State) (r : OutReq) : Bool :=
  s.hbr.requests.isEmpty || decide ((s.hbr.requests.map reqReads).sum + reqReads r ≤ 64)

/-- Send a request, or let it wait behind those that wait. -/
def sendReq (r : OutReq) (s : State) : State :=
  if !s.hbr.waiting.isEmpty || !reqFits s r then s.withHbr (fun h => { h with waiting := h.waiting ++ [r] })
  else
    let t := freeTag s (reqReads r)
    s.withHbr (fun h => { h with requests := h.requests ++ [{ r with tag := t }], nextTag := (t + reqReads r) % 256,
                                 sent := h.sent ++ reqTlps h.mps r })

/-- Issue a new request. -/
def issueReq (r : OutReq) (s : State) : State :=
  sendReq { r with serial := s.hbr.serial } (s.withHbr (fun h => { h with serial := h.serial + 1 }))

/-- A response returns to an initiator. -/
def respond (m : Nat) (err : Bool) (data : List Byte) (s : State) : State :=
  s.withHbr (fun h => { h with responses := h.responses ++ [(m, err, data)] })

/-- A request fails (R532, R536). Read data reads as zero. -/
def reqFail (r : OutReq) (kind : Nat) (s : State) : State :=
  match r.kind with
  | .sbWrite g =>
    let x := sbGroup s r.fn g
    (hbrLog r.fn 0 11 true r.addr (setSbGroup r.fn g { x with inFlight := false, ready := true, retry := true } s)).raise 17 5
  | .sbPoll g =>
    let x := sbGroup s r.fn g
    (hbrLog r.fn 0 11 false r.addr (setSbGroup r.fn g { x with polling := false } s)).raise 17 5
  | _ =>
    let wr := r.kind.isWrite
    let s := (hbrCount 0x108 (hbrLog r.fn r.initiator kind wr r.addr s)).raise 17 4
    respond r.initiator true (if wr then [] else List.replicate r.len 0) s

/-- A status write or poll completes (R536). -/
def sbDone (r : OutReq) (g : Nat) (poll : Bool) (data : List Byte) (s : State) : State :=
  let x := sbGroup s r.fn g
  if !poll then hbrCount 0x118 (setSbGroup r.fn g { x with inFlight := false, ready := x.ready || x.written != 0 } s)
  else
    let x := { x with polling := false }
    let bits := x.written &&& ~~~ x.since
    if BitVec.ofNat 32 (leAt data 0 4) = x.seq then
      let hit := x.pend &&& bits
      setSbGroup r.fn g { x with pend := x.pend &&& ~~~ bits, want := x.want || hit != 0, mark := s.hbr.serial } s
    else setSbGroup r.fn g x s

/-- A request completes without error. -/
def reqDone (r : OutReq) (data : List Byte) (s : State) : State :=
  match r.kind with
  | .write => respond r.initiator false [] (hbrCount 0x10C s)
  | .read => respond r.initiator false (slice data 0 r.len) (hbrCount 0x110 s)
  | .sbWrite g => sbDone r g false data s
  | .sbPoll g => sbDone r g true data s

/-- HBR_SET_REGION commands that cleared EN reply once their region has nothing in flight (R540). -/
def quietRegions (s : State) : State :=
  endRunning (fun c => c.opcode == 0x1100 && !((s.hbr.requests ++ s.hbr.waiting).any (fun r => r.region == c.inst)))
    (fun _ => Fail.ok) (fun _ => []) s

/-- Requests that wait go in their order as earlier ones end. -/
def pumpReqs (s : State) : State :=
  s.hbr.waiting.foldl (fun s r => sendReq r s) (s.withHbr (fun h => { h with waiting := [] }))

/-- A request leaves, and those that wait may take its place. -/
def dropReq (tag : Nat) (s : State) : State :=
  pumpReqs (s.withHbr (fun h => { h with requests := h.requests.filter (fun r => r.tag != tag) }))

/-- An internal access in the outbound window (R530, R532). -/
def outAccess (m a n : Nat) (wr : Bool) (data : List Byte) (s : State) : State :=
  let r : OutReq := { tag := 0, kind := if wr then .write else .read, initiator := m, fn := 0, region := 16, addr := a,
                      pciAddr := 0, len := n, data := data, serial := 0 }
  if n = 0 then s
  else if !((List.range n).all (fun i => s.reaches m (a + i) wr)) then respond m true (List.replicate (if wr then 0 else n) 0) (s.busError m a wr)
  else match outRegion s a with
    | none => reqFail r 5 s
    | some k =>
      let r := { r with fn := regionFn s k, region := k, pciAddr := pciAddr s k a }
      if regionBase s k + regionSize s k < a + n then reqFail r 5 s
      else if fnMasters s r.fn then issueReq r s
      else reqFail r 6 s

/-! ### Function resets (R537, R538) -/

/-- The rings and queues a function owns stop. -/
def stopOwned (f : Nat) (s : State) : State :=
  let o := 0x18 + f
  let s := (List.range 32).foldl (fun s n =>
    if s.f (ringReg n 0xC) 6 0 = o ∧ s.bit (ringReg n 0x10) 0 = true then stopRing n s else s) s
  let s := (List.range 16).foldl (fun s n =>
    if cruOwner s n = o ∧ s.bit (cruRing n 8) 0 = true then cruShow n (s.sb (cruRing n 8) 0 false) else s) s
  (List.range 16).foldl (fun s n =>
    let r := rg 10 (0x1010 + n * 0x40)
    if s.f r 22 16 = o then s.sb r 0 false else s) s

/-- Function `f` is reset; `gone` says that it then exists no more. -/
def resetFn (gone : Bool) (f : Nat) (s : State) : State :=
  let s := stopOwned f s
  let mine := (s.hbr.requests ++ s.hbr.waiting).filter (fun r => r.fn == f)
  let s := s.withHbr (fun h => { h with requests := h.requests.filter (fun r => r.fn != f),
                                        waiting := h.waiting.filter (fun r => r.fn != f) })
  let s := (mine.filter (fun r => r.region < 16)).foldl (fun s r => reqFail r 6 s) s
  let s := s.withHbr (fun h => { h with msixQueue := h.msixQueue.filter (fun x => x.1 != f) })
  let s := (s.setFn f { Fn.zero with present := (s.fn f).present && !gone }).settledFn f
  quietRegions (pumpReqs ((s.raise 17 2).sb (hbrReg 0x18) f true))

/-- PF0 and every virtual function are reset, and every function's configuration and page. -/
def resetAllFns (s : State) : State :=
  let s := ((List.range 8).filter (fnExists s)).foldl (fun s f => resetFn true f s) s
  showHbr ((List.range 8).foldl (fun s f => (s.setFn f Fn.zero).settledFn f) s)

/-- A function-level reset; PF0's resets every function (R537). -/
def functionReset (f : Nat) (s : State) : State := if f = 0 then resetAllFns s else showHbr (resetFn false f s)

end Sys2Proof.Machine
end

