-- ==== Sys2Proof/Machine/Hbr.lean ====
section
/-! DEFINITION. The commands of the PCIe host bridge but for inbound requests (R522–R542). -/

namespace Sys2Proof.Machine

/-! ### Outbound requests -/

def execOutboundWrite (m addr : Nat) (data : List Byte) (s : State) : Out :=
  fabricAct m addr (fun s => if region addr = .pcie then outAccess m addr data.length true data s else s) s

def execOutboundRead (m addr len : Nat) (s : State) : Out :=
  fabricAct m addr (fun s => if region addr = .pcie then outAccess m addr len false [] s else s) s

/-- Log kind of a completion's status: 1 UR, 2 CA, 3 a poisoned completion. -/
def cplKind (status : Nat) : Nat := if status = 1 then 7 else if status = 2 then 8 else 10

/-- A completion arrives: status 0 is successful. One whose request is gone is discarded. -/
def execCompletionArrival (tag status : Nat) (data : List Byte) (s : State) : Out :=
  act (fun s =>
    match s.hbr.requests.find? (fun r => r.tag == tag) with
    | none => hbrCount 0x11C s
    | some r =>
      let s := dropReq tag s
      quietRegions (if status = 0 then reqDone r data s else reqFail r (cplKind status) s)) s

/-- No completion within CPL_TIMEOUT_US. -/
def execCompletionTimeout (tag : Nat) (s : State) : Out :=
  act (fun s =>
    match s.hbr.requests.find? (fun r => r.tag == tag) with
    | none => s
    | some r => quietRegions (reqFail r 9 (dropReq tag s))) s

/-! ### MSI-X (R535) -/

/-- Byte of the MSI-X table; a vector's mask bit is set until the host writes it. -/
def msixByte (x : Fn) (o : Nat) : Byte := tget (if o % 16 = 12 then 1 else 0) x.msix o
def msixBytes (x : Fn) (o k : Nat) : Nat := leNat ((List.range k).map (fun i => msixByte x (o + i)))
def vectorMasked (x : Fn) (v : Nat) : Bool := x.msixMask || (msixByte x (16 * v + 12)).getLsbD 0

/-- The message of a vector leaves, and the groups it announces have nothing pending. -/
def msixGo (f v : Nat) (s : State) : State :=
  let x := s.fn f
  let m : PcieSent := .msix f v (msixBytes x (16 * v) 8) (BitVec.ofNat 32 (msixBytes x (16 * v + 8) 4))
  let s := hbrCount 0x114 (s.withHbr (fun h => { h with sent := h.sent ++ [m] }))
  (List.range 4).foldl (fun s g =>
    if grpMode s f g = 1 ∧ (pendVectors s f g).contains v = true then setSbGroup f g { sbGroup s f g with pend := 0 } s
    else s) s

/-- The first message whose earlier writes have ended is sent; a masked vector's becomes pending in the PBA. -/
def execMsixSend (s : State) : Out :=
  act (fun s =>
    match s.hbr.msixQueue.find? (fun e => fnMasters s e.1 && (s.fn e.1).msixEn && earlierDone s e.2.2) with
    | none => s
    | some e =>
      let s := s.withHbr (fun h => { h with msixQueue := h.msixQueue.erase e })
      let x := s.fn e.1
      if vectorMasked x e.2.1 then s.setFn e.1 { x with pba := setBit x.pba e.2.1 true } else msixGo e.1 e.2.1 s) s

/-- Vectors that are pending and no longer masked ask for their message again. -/
def msixUnmask (f : Nat) (s : State) : State :=
  (List.range 32).foldl (fun s v =>
    let x := s.fn f
    if bitOf x.pba v && !vectorMasked x v then (s.setFn f { x with pba := setBit x.pba v false }).msixAsk f v else s) s

/-! ### Side-band status (R536) -/

def bridgeReq (f g : Nat) (kind : OutKind) (off n : Nat) (data : List Byte) (s : State) : OutReq :=
  let a := (sbGroup s f g).addr + off
  { tag := 0, kind := kind, initiator := 0, fn := f, region := 16, addr := a, pciAddr := a, len := n, data := data, serial := 0 }

/-- The bridge's own request goes, or fails at once. -/
def bridgeIssue (r : OutReq) (s : State) : State := if fnMasters s r.fn then issueReq r s else reqFail r 6 s

/-- A due status write, when none is in flight and the earlier writes have ended. -/
def execSidebandWrite (f g : Nat) (s : State) : Out :=
  act (fun s =>
    let x := sbGroup s f g
    if 8 ≤ f ∨ 4 ≤ g ∨ grpMode s f g ≠ 2 ∨ x.want = false ∨ x.inFlight = true ∨ earlierDone s x.mark = false then s
    else
      let y := { x with seq := x.seq + 1, written := x.pend, since := 0, want := false, inFlight := true, retry := false }
      let s := setSbGroup f g y s
      bridgeIssue (bridgeReq f g (.sbWrite g) 0 8 (leBytes 4 y.pend.toNat ++ leBytes 4 y.seq.toNat) s) s) s

/-- POLL_US has passed while PEND is not zero, from the end of the write that made it so: a failed write is made
again, or ACK is read. -/
def execSidebandPoll (f g : Nat) (s : State) : Out :=
  act (fun s =>
    let x := sbGroup s f g
    if 8 ≤ f ∨ 4 ≤ g ∨ grpMode s f g ≠ 2 ∨ ((x.pend = 0 ∨ x.ready = false) ∧ x.retry = false) ∨ x.polling = true then s
    else if x.retry then setSbGroup f g { x with retry := false, want := true } s
    else bridgeIssue (bridgeReq f g (.sbPoll g) 8 4 [] s) (setSbGroup f g { x with polling := true } s)) s

/-! ### The function page and configuration (R523, R525) -/

/-- No group's mode is the undefined 3. -/
def grpModeOk (v : Word) : Bool := fld v 31 8 == 0 && (List.range 4).all (fun g => fld v (2 * g + 1) (2 * g) != 3)

/-- A write of GRP_MODE, through the function's own BAR0. -/
def grpModeWrite (f : Nat) (v : Word) (s : State) : Ans :=
  if grpModeOk v then .ok (setGrpMode f v s) else unpredictable (24 + f)

def execGrpModeWrite (f : Nat) (v : Word) (s : State) : Out :=
  act (fun s => if 8 ≤ f ∨ fnExists s f = false then s else settle (0x18 + f) s (grpModeWrite f v s)) s

/-- A dword written in a function page. -/
def fnPageWrite (f off : Nat) (v : Word) (s : State) : Ans :=
  let x := s.fn f
  let put := fun (y : Fn) => (Except.ok (s.setFn f y) : Ans)
  if off = 4 then grpModeWrite f v s
  else if off = 8 then (if 1 ≤ v.toNat ∧ v.toNat ≤ 1000 then put { x with pollUs := v.toNat } else unpredictable (24 + f))
  else if off = 0xC then (if v.toNat < 32 then put { x with errVec := v.toNat } else unpredictable (24 + f))
  else if 0x10 ≤ off ∧ off < 0x30 then
    let g := (off - 0x10) / 8
    let b := sbGroup s f g
    if off % 8 = 0 then
      if v.toNat % 16 ≠ 0 then unpredictable (24 + f)
      else .ok (setSbGroup f g { b with addr := b.addr / 2 ^ 32 * 2 ^ 32 + v.toNat } s)
    else .ok (setSbGroup f g { b with addr := b.addr % 2 ^ 32 + v.toNat * 2 ^ 32 } s)
  else if 0x40 ≤ off ∧ off < 0x80 then
    let bs := leBytes 4 v.toNat
    if bs.any (fun b => decide (32 ≤ b.toNat)) then unpredictable (24 + f)
    else put { x with evtVec := (List.range 4).foldl (fun t i => tput 0 t (off - 0x40 + i) (leAt bs i 1)) x.evtVec }
  else if 0x2000 ≤ off ∧ off < 0x2200 then
    let o := off - 0x2000
    let d := fun (i : Nat) => if (o + i) % 16 = 12 then (1 : Byte) else 0
    let t := (List.range 4).foldl (fun t i => tput (d i) t (o + i) ((leBytes 4 v.toNat).getD i 0)) x.msix
    .ok (msixUnmask f (s.setFn f { x with msix := t }))
  else .ok s

/-- A dword of a function page. -/
def fnPageRead (s : State) (f off : Nat) : Word :=
  let x := s.fn f
  let n := BitVec.ofNat 32
  let b := fun (base : Nat) => sbGroup s f ((off - base) / 8)
  if off = 0 then n (f + (0x18 + f) * 256)
  else if off = 4 then x.grpMode
  else if off = 8 then n x.pollUs
  else if off = 0xC then n x.errVec
  else if 0x10 ≤ off ∧ off < 0x30 then n ((b 0x10).addr / (if off % 8 = 0 then 1 else 2 ^ 32))
  else if 0x40 ≤ off ∧ off < 0x80 then n ((List.range 4).foldr (fun i a => tget 0 x.evtVec (off - 0x40 + i) + 256 * a) 0)
  else if 0x80 ≤ off ∧ off < 0x90 then (sbGroup s f ((off - 0x80) / 4)).pend
  else if 0x90 ≤ off ∧ off < 0xA0 then (sbGroup s f ((off - 0x90) / 4)).seq
  else if 0x2000 ≤ off ∧ off < 0x2200 then n (msixBytes x (off - 0x2000) 4)
  else if off = 0x3000 then x.pba
  else 0

/-! ### The link (R537) -/

/-- The rates and widths the port has (R522). -/
def linkOk (speed width : Nat) : Bool := [1, 2, 3, 4].contains speed && [1, 2, 4].contains width

/-- The link comes up: SPEED 1–4 and WIDTH in lanes. -/
def execPcieLinkUp (speed width : Nat) (s : State) : Out :=
  act (fun s =>
    if s.hbr.linkUp ∨ !linkOk speed width then s
    else
      let s := ((s.sf (hbrReg 0) 2 0 speed).sf (hbrReg 0) 5 3 width).raise 17 0
      showHbr (s.withHbr (fun h => { h with linkUp := true }))) s

/-- PERST#, a hot reset, or the link going down. -/
def execPcieLinkReset (s : State) : Out :=
  act (fun s =>
    let up := s.hbr.linkUp
    let s := resetAllFns ((s.sf (hbrReg 0) 5 0 0).withHbr (fun h => { h with linkUp := false }))
    if up then s.raise 17 1 else s) s

/-- A function-level reset; PF0's resets every function. -/
def execFunctionLevelReset (f : Nat) (s : State) : Out :=
  act (fun s =>
    if 8 ≤ f ∨ fnExists s f = false then s else functionReset f s) s

/-! ### The log, registers and opcodes -/

/-- A read of HBR.ERR_POP_LO pops the oldest entry. -/
def execHbrErrPop (m : Nat) (s : State) : Out :=
  withRead 17 0x40 .none m (fun s =>
    let e := s.hbr.log.headD LogEntry.none
    let s := s.withHbr (fun h => { h with log := h.log.tail, latch := tput LogEntry.none h.latch m e })
    (s.sf (hbrReg 0x4C) 4 0 s.hbr.log.length).reply m [e.lo] false) s

def cplTimeoutOk (v : Word) : Bool := decide (50 ≤ fld v 15 0) && decide (fld v 15 0 ≤ 50000)

/-- The enabled region that overlaps one. -/
def overlaps (s : State) (r base size : Nat) : Option Nat :=
  (List.range 16).find? (fun k => k != r && regionEn s k && decide (base < regionBase s k + regionSize s k) &&
    decide (regionBase s k < base + size))

def regionRangeOk (base size pci fn : Nat) : Bool :=
  base % 4096 == 0 && decide (0x8000000000 ≤ base) && decide (1 ≤ size) && decide (base + size * 4096 ≤ 0x10000000000) &&
    pci % 4096 == 0 && decide (fn ≤ 7)

/-- A word of R_BASE_HI or R_SIZE that some region could hold: any other is refused by HBR_SET_REGION whatever the
region's other words (R60, R531). -/
def regionWordOk (o : Nat) (v : Word) : Bool :=
  if o = 4 then decide (0x80 ≤ fld v 7 0)
  else if o = 8 then decide (1 ≤ fld v 27 0) && decide (0x8000000000 + fld v 27 0 * 4096 ≤ 0x10000000000)
  else true

/-- Software's write of an HBR register that has no row. A region's words are judged together as EN is written 1 (log
entry 75). -/
def hbrWrite (off : Nat) (v : Word) (s : State) : Option Ans :=
  if off = 4 then (if cplTimeoutOk v then none else some (unpredictable 17))
  else if 0x1000 ≤ off ∧ off < 0x1200 then
    let r := (off - 0x1000) / 0x20
    if off % 0x20 ≠ 0x14 then
      (if regionEn s r then some (.ok s)
      else if regionWordOk (off % 0x20) v then none else some (unpredictable 17))
    else if regionEn s r then some (.ok (if bitOf v 0 then s else s.sb (regionReg r 0x14) 0 false))
    else if bitOf v 0 && (!regionRangeOk (regionBase s r) (s.f (regionReg r 8) 27 0) (regionPci s r) 0 ||
        (overlaps s r (regionBase s r) (regionSize s r)).isSome) then some (unpredictable 17)
    else none
  else none

def opsHbr : List OpSpec :=
  let op := fun (o len hi : Nat) (mask : Cmd → Mask) =>
    ({ opcode := o, lenLo := len, lenHi := len, instHi := hi, classHi := 15, block := 17, mask := mask } : OpSpec)
  let wide := fun (_ : Cmd) => Mask.bit 24
  [op 0x1100 24 15 (fun c => .bit (8 + c.inst)), op 0x1101 0 0 wide, op 0x1102 0 7 (fun c => .bit c.inst),
   op 0x1103 0 0 wide, op 0x1104 0 0 wide, op 0x1105 4 0 wide]

def effHbrSetRegion : CmdEff := fun c s =>
  let r := c.inst
  let base := c.p 32 8
  let size := c.p 40 4
  let en := c.p 45 1
  let pci := c.p 48 8
  let reg := fun (o : Nat) => regionReg r o
  let bad := fun (o : Nat) => badParam 0x100 o r
  if base % 4096 ≠ 0 ∨ base < 0x8000000000 ∨ 0x10000000000 ≤ base then bad 32
  else if size = 0 ∨ 0x10000000000 < base + size * 4096 then bad 40
  else if 7 < c.p 44 1 then bad 44
  else if 1 < en then reservedField c 45
  else if c.zero 46 2 = false then reservedField c 46
  else if pci % 4096 ≠ 0 then bad 48
  else match (if en = 1 then overlaps s r base (size * 4096) else none) with
    | some k => badParam 0x101 32 k
    | none =>
      if regionEn s r then
        if en = 1 then wrongState 0x102 r
        else
          let s := s.sb (reg 0x14) 0 false
          if (s.hbr.requests ++ s.hbr.waiting).any (fun q => q.region == r) then .wait s else .done s
      else
        let s := ((s.wr (reg 0) (BitVec.ofNat 32 base)).wr (reg 4) (BitVec.ofNat 32 (base / 2 ^ 32))).wr (reg 8) (c.w 40)
        let s := (s.wr (reg 0xC) (c.w 48)).wr (reg 0x10) (c.w 52)
        .done (s.wr (reg 0x14) (BitVec.ofNat 32 (en + c.p 44 1 * 256)))

def effHbrLinkStatus : CmdEff := fun _ s => .res s (readRegs [hbrReg 0, hbrReg 4] s)

def effHbrFnStatus : CmdEff := fun c s =>
  .res s (leBytes 4 (s.fn c.inst).grpMode.toNat ++ (List.range 4).flatMap (fun g => leBytes 4 (sbGroup s c.inst g).pend.toNat))

def effHbrLogRead : CmdEff := fun _ s =>
  let r := s.hbr.log.flatMap (fun e => leBytes 4 e.lo.toNat ++ leBytes 4 e.hi.toNat ++ leBytes 2 e.info.toNat ++ [0, 0])
  .res ((s.withHbr (fun h => { h with log := [] })).sf (hbrReg 0x4C) 4 0 0) r

def effHbrCounters : CmdEff := fun _ s =>
  let r := takeCounters (regRun (hbrReg 0x100) 8) s
  .res r.2 r.1

def effHbrSetCfg : CmdEff := fun c s =>
  if fld (c.w 32) 31 28 ≠ 0 then reservedField c 32
  else if !cplTimeoutOk (c.w 32) then badParam 0x103 32 0
  else .done (s.sf (hbrReg 4) 15 0 (fld (c.w 32) 15 0))

def execHbrSetRegion (ring slot : Nat) (s : State) : Out := opRow (specOf opsHbr 0x1100) effHbrSetRegion ring slot s
def execHbrLinkStatus (ring slot : Nat) (s : State) : Out := opRow (specOf opsHbr 0x1101) effHbrLinkStatus ring slot s
def execHbrFnStatus (ring slot : Nat) (s : State) : Out := opRow (specOf opsHbr 0x1102) effHbrFnStatus ring slot s
def execHbrLogRead (ring slot : Nat) (s : State) : Out := opRow (specOf opsHbr 0x1103) effHbrLogRead ring slot s
def execHbrCounters (ring slot : Nat) (s : State) : Out := opRow (specOf opsHbr 0x1104) effHbrCounters ring slot s
def execHbrSetCfg (ring slot : Nat) (s : State) : Out := opRow (specOf opsHbr 0x1105) effHbrSetCfg ring slot s

end Sys2Proof.Machine
end

