-- ==== Sys2Proof/Machine/LchOps.lean ====
section
/-! DEFINITION. The operations of the load channels: targets, PWM, profiles, protection and the HOLD window
(R469–R493). -/

namespace Sys2Proof.Machine

def State.withLch (s : State) (f : LchState → LchState) : State := { s with lch := f s.lch }

def lchReg (off : Nat) : Nat := rg 15 off
def chReg (c off : Nat) : Nat := rg 15 (0x1000 + c * 0x40 + off)
def chan (s : State) (c : Nat) : Chan := tget Chan.zero s.lch.chans c
def setChan (c : Nat) (x : Chan) (s : State) : State :=
  s.withLch (fun l => { l with chans := tput Chan.zero l.chans c x })

def chFitted (s : State) (c : Nat) : Bool := decide (c < 40) && chanFitted s.population c

/-- Rail of a channel: 0 VBATP1, 1 VBATP2 (R469). -/
def chRail (c : Nat) : Nat := if c < 16 then 0 else 1

/-- Target MODE: 0 OFF, 1 ON, 2 PWM; SOURCE: 0 UNCOMMANDED, 1 COMMAND, 2 HOLD, 3 FAILSAFE. -/
def chMode (s : State) (c : Nat) : Nat := s.f (chReg c 8) 1 0
def chSource (s : State) (c : Nat) : Nat := s.f (chReg c 8) 3 2
def chDuty (s : State) (c : Nat) : Nat := s.f (chReg c 8) 29 16
def chPhase (s : State) (c : Nat) : Nat := s.f (chReg c 0xC) 24 0

/-- Protection state: 0 READY, 1 THERM_WAIT, 2 UV_WAIT, 3 LATCHED. -/
def chProt (s : State) (c : Nat) : Nat := s.f (chReg c 0x10) 2 0
def chRestarts (s : State) (c : Nat) : Nat := s.f (chReg c 0x10) 11 8

/-- The power die lets channels conduct: not from Mason's done until the next power-up (R514). -/
def lchPowered (s : State) : Bool := !([Phase.off, .rising, .stopping].contains s.sys.phase)

/-- Whether the target asks for conduction now, and whether the channel conducts (R471). -/
def chAsks (s : State) (c : Nat) : Bool := chMode s c == 1 || (chMode s c == 2 && !(chan s c).ends.isEmpty)
def chConducts (s : State) (c : Nat) : Bool := lchPowered s && chAsks s c && chProt s c == 0

/-- CONDUCTING, and LCH.STATE.FAILSAFE, show what holds; as the output switches on, its time is kept (R484). -/
def showChan (c : Nat) (s : State) : State :=
  let on := chConducts s c
  let s := if on && !s.bit (chReg c 0x10) 4 then setChan c { chan s c with since := s.sys.ticks } s else s
  let s := s.sb (chReg c 0x10) 4 on
  let s := if on then s else s.sb (chReg c 0x10) 16 false
  s.sb (lchReg 8) 1 ((List.range 40).any (fun k => chSource s k == 3))

/-- A channel event. -/
def chEvent (c ev : Nat) (s : State) : State := (s.raise 15 ev).sb (lchReg (0x28 + c / 32 * 4)) (c % 32) true

/-- Live flag `i`: ILIM, OC_WARN, OL_ON, OL_OFF, THERM, UV, SHORT_LATCHED, THERM_LATCHED; setting one sets its sticky
copy (R490). -/
def liveFlag (c i : Nat) (v : Bool) (s : State) : State :=
  let s := s.sb (chReg c 0x10) (16 + i) v
  if v then s.sb (chReg c 0x14) i true else s

def live (s : State) (c i : Nat) : Bool := s.bit (chReg c 0x10) (16 + i)

/-! ### Time and timebases (R477, R494) -/

/-- Network time as the power die has it. -/
def lchNow (s : State) : Nat :=
  match s.lch.clock with
  | some c => c.1 / 2 ^ 32
  | none => s.now

/-- The first whole nanosecond at or after network time as the power die has it. -/
def lchNowUp (s : State) : Nat :=
  match s.lch.clock with
  | some c => (c.1 + (2 ^ 32 - 1)) / 2 ^ 32
  | none => s.nowUp

def tbReg (t off : Nat) : Nat := rg 15 (0x5000 + t * 0x10 + off)
def tbBase (s : State) (t : Nat) : Nat :=
  regTime (s.rd (tbReg t 4)) (s.rd (tbReg t 8)) (s.f (tbReg t 0) 31 16)
def tbPeriod (s : State) (t : Nat) : Nat := (s.rd (tbReg t 0xC)).toNat
def chTb (s : State) (c : Nat) : Nat := s.f (chReg c 0) 10 8

/-- The lowest channel with target PWM on a timebase. -/
def tbUser (s : State) (t : Nat) : Option Nat := (List.range 40).find? (fun c => chMode s c == 2 && chTb s c == t)

/-- Arm the period starts of a timebase. -/
def tbArm (t : Nat) (s : State) : State :=
  let p := tbPeriod s t
  s.withLch (fun l => { l with tbNext := tput 0 l.tbNext t (if p = 0 then 0 else firstInstant (tbBase s t) p (lchNowUp s)) })

/-! ### Lamp compensation (R480) -/

/-- k as p / q for a COMP_K. -/
def compExp (k : Nat) : Nat × Nat := if k = 1 then (1, 1) else if k = 2 then (8, 5) else (2, 1)

/-- Whether DUTY × (VREF / V)^(p/q) ≥ d − 1/2. -/
def dutyReaches (duty vref v p q d : Nat) : Bool :=
  d == 0 || decide ((2 * d - 1) ^ q * v ^ p ≤ 2 ^ q * duty ^ q * vref ^ p)

/-- The highest duty up to 10,000 that is reached, bit by bit. -/
def dutySearch (duty vref v p q : Nat) : Nat → Nat → Nat
  | 0, acc => acc
  | b + 1, acc =>
    let d := acc + 2 ^ b
    dutySearch duty vref v p q b (if d ≤ 10000 && dutyReaches duty vref v p q d then d else acc)

/-- D′ at a rail voltage: min(10,000, round(DUTY × (VREF / V)^k)). -/
def compensate (k duty vref v : Nat) : Nat :=
  let e := compExp k
  dutySearch duty vref v e.1 e.2 14 0

/-- D′ of a channel in the present period of its timebase. Where no average of the rail is above zero the quotient has no
value, and D′ is free, one value for a DUTY throughout the period (log entry 43). -/
def chDutyEff (c : Nat) (s : State) : Nat :=
  let x := chan s c
  let k := fld x.prof0 13 12
  let a := tget (0, 0) s.lch.avg (chTb s c)
  let v := if chRail c = 0 then a.1 else a.2
  if k = 0 then chDuty s c
  else if v = 0 then Config.dutyNoRail c (chDuty s c) (tget 0 s.lch.tbNext (chTb s c)) % 10001
  else compensate k (chDuty s c) (fld x.prof2 15 0) v

/-- ON_TIME of an effective duty (R478). -/
def onTime (period duty : Nat) : Nat := 50 * (duty * period / 500000)

/-! ### Profile starts (R483) -/

/-- The inrush phase begins. -/
def inrushBegin (c : Nat) (s : State) : State :=
  let x := chan s c
  (setChan c { x with starting := false } s).sb (chReg c 0x10) 5 (fld x.prof0 10 0 != 0)

/-- The channel takes its profile's fields; the inrush phase begins as the output conducts. -/
def profileStart (c : Nat) (s : State) : State :=
  let p := s.f (chReg c 0) 3 0
  let w := fun (i : Nat) => s.rd (rg 15 (0x4000 + p * 0x10 + 4 * i))
  let s := setChan c { chan s c with prof0 := w 0, prof1 := w 1, prof2 := w 2, starting := true } s
  if chConducts s c then inrushBegin c s else s

/-- A channel that is READY again makes a profile start if its target asks for conduction. -/
def profileResume (c : Nat) (s : State) : State :=
  if chProt s c = 0 ∧ chMode s c ≠ 0 then profileStart c s else s

/-- The output stops for a reason other than PWM: its inrush phase and its live current flags end. -/
def stopOutput (c : Nat) (s : State) : State :=
  let s := setChan c { chan s c with starting := false } (s.sb (chReg c 0x10) 5 false)
  liveFlag c 0 false (liveFlag c 1 false s)

/-! ### Targets (R473–R479) -/

/-- First on-interval of a PWM channel that starts at or after a time. -/
def pwmNext (s : State) (c t : Nat) : Nat :=
  let tb := chTb s c
  firstInstant (tbBase s tb + chPhase s c * 50) (tbPeriod s tb) t

/-- Set MODE, leaving DUTY and PHASE as stored. -/
def chSetMode (c mode : Nat) (s : State) : State :=
  let old := chMode s c
  let s := s.sf (chReg c 8) 1 0 mode
  let x := { chan s c with low := if old = 2 ∧ mode = 2 then (chan s c).low else 0 }
  match mode with
  | 0 => showChan c (stopOutput c (setChan c { x with ends := [] } s))
  | 1 =>
    let s := setChan c { x with ends := [] } s
    showChan c (if old = 0 then profileResume c s else if x.starting && chConducts s c then inrushBegin c s else s)
  | _ =>
    let s := setChan c { x with ends := if old = 2 then x.ends else [],
                                next := if tbPeriod s (chTb s c) = 0 then 0 else pwmNext s c (lchNowUp s) } s
    showChan c (if old = 0 then profileResume c s else s)

/-- Set MODE PWM with a duty and a phase. -/
def setPwm (c duty phase : Nat) (s : State) : State :=
  chSetMode c 2 ((s.sf (chReg c 8) 29 16 duty).wr (chReg c 0xC) (BitVec.ofNat 32 phase))

def setSource (c v : Nat) (s : State) : State := showChan c (s.sf (chReg c 8) 3 2 v)
def setRestarts (c v : Nat) (s : State) : State := s.sf (chReg c 0x10) 11 8 v

/-! ### The HOLD window (R473, R492, R493) -/

def holdRuns (s : State) : Bool := s.bit (lchReg 8) 0

/-- A passed command names the channel: SOURCE is COMMAND, or HOLD where the window runs, which its passing stopped, so
that ORD has signalled NONE since (R473, R476). -/
def named (c : Nat) (s : State) : State := setSource c (if holdRuns s then 2 else 1) s

/-- A command's MODE OFF or ON. -/
def cmdMode (c mode : Nat) (s : State) : State :=
  let s := chSetMode c mode (named c s)
  if mode = 0 then setRestarts c 0 s else s

/-- The window starts. -/
def holdStart (s : State) : State :=
  let s := ((s.sb (lchReg 8) 0 true).cnt (lchReg 0x10C) 1).raise 15 7
  s.withLch (fun l => { l with holdStart := s.sys.ticks, holdMs := s.f (lchReg 4) 26 16 })

/-- ORD signals NONE: commanded channels hold, and the window starts if none runs. -/
def lchNone (s : State) : State :=
  let s := (List.range 40).foldl (fun s c => if chSource s c = 1 then setSource c 2 s else s) s
  if holdRuns s then s else holdStart s

/-- ORD passes a KIND 1 copy: the window stops, and holding channels are commanded again. -/
def lchPass (body : List Word) (s : State) : State :=
  let s := (List.range 40).foldl (fun s c => if chSource s c = 2 then setSource c 1 s else s) (s.sb (lchReg 8) 0 false)
  s.withLch (fun l => { l with passed := l.passed ++ [body] })

/-- A channel takes its fail-safe target. -/
def takeFailsafe (c : Nat) (s : State) : State :=
  let s := setSource c 3 s
  match s.f (chReg c 0) 5 4 with
  | 0 => chSetMode c 0 s
  | 1 => chSetMode c 1 s
  | _ => setPwm c (s.f (chReg c 4) 13 0) 0 s

/-- Remaining milliseconds of a window of `ms` that began at local time `start`, rounded up. -/
def msLeft (s : State) (start ms : Nat) : Nat := ms - (s.sys.ticks - start) / 500000

/-- LCH.STATE as a read shows it. -/
def lchState (s : State) : Word :=
  setFld (s.rd (lchReg 8)) 26 16 (if holdRuns s then msLeft s s.lch.holdStart s.lch.holdMs else 0)

/-! ### Currents that no row reports (R490) -/

/-- At a tick each conducting channel's limiter may be active or not, and an overcurrent may have ended: no row says so,
and the flags are free values (log entry 66). -/
def sampleCurrents (s : State) : State :=
  let on := (List.range 40).filter (fun c => chConducts s c || live s c 1)
  if on.isEmpty then s
  else
    let n := s.fresh
    on.foldl (fun s c =>
      let s := liveFlag c 0 (chConducts s c && Config.coin n c) s
      liveFlag c 1 (live s c 1 && Config.coin n (64 + c)) s) { s with fresh := n + 1 }

/-- Every 10 µs of local time the rails, the baseplate and each channel's ΔT are measured (R480, R486): no row brings
the values, and they are free (log entry 66). -/
def sampleRails (s : State) : State :=
  let t := s.sys.ticks
  if t % 5000 ≠ 0 then s
  else
    let s := (s.wr (lchReg 0xC) (Config.sense t 1)).sf (lchReg 0x10) 31 16 (Config.sense t 2).toNat
    ((List.range 40).filter (chFitted s)).foldl (fun s c => s.sf (chReg c 0x18) 23 16 (Config.sense t (64 + c)).toNat) s

/-! ### Steps of network time (R56, R494) -/

/-- A PWM channel takes its place in the cycle from the new time; one that waits for its first rising edge and finds
itself inside an on-interval starts its inrush phase (R483). -/
def pwmReposition (c : Nat) (s : State) : State :=
  let p := tbPeriod s (chTb s c)
  if chMode s c ≠ 2 ∨ p = 0 then s
  else
    let now := lchNow s
    let first := tbBase s (chTb s c) + chPhase s c * 50
    let x := chan s c
    if now < first then showChan c (setChan c { x with ends := [], next := first } s)
    else
      let start := first + (now - first) / p * p
      let on := onTime p (chDutyEff c s)
      let s := setChan c { x with ends := if now < start + on then [start + on] else [], next := start + p, on := on } s
      showChan c (if x.starting && chConducts s c then inrushBegin c s else s)

def lchReposition (s : State) : State :=
  let s := (List.range 8).foldl (fun s t => tbArm t s) s
  (List.range 40).foldl (fun s c => pwmReposition c s) s

end Sys2Proof.Machine
end

