-- ==== Sys2Proof/Machine/Key.lean ====
section
/-! DEFINITION. The commands of Keystone (R498–R518, R574). -/

namespace Sys2Proof.Machine

/-! ### Wake sources (R502–R504, R574) -/

/-- An arrival reports the levels: bit 0 KL15, bits 1–4 WAKE0–WAKE3, bit 5 VBAT_L at or above 6.0 V. -/
def setLevels (levels : Nat) (s : State) : State :=
  (s.sf (keyReg 0) 7 3 levels).withKey (fun k => { k with supplyGood := levels.testBit 5 })

/-- Whether source and SUB fire, `old` being the state before the levels of `s` (R502). -/
def fires (old s : State) (src sub : Nat) : Bool :=
  if (src < 4 ∨ 24 ≤ src) ∧ sub ≠ 0 then false
  else if src = 0 then s.sys.phase == .off && s.key.powerOn
  else if src = 1 then kl15 s && !kl15 old
  else if src = 2 then s.key.timer
  else if src < 4 then false
  else if src < 8 then
    wakeLevel s (src - 4) != wakeLevel old (src - 4) && sub == b2n (!wakeLevel s (src - 4)) &&
      (wakeEdge s (src - 4)).testBit sub
  else if src < 24 then
    let mode := (tget WakeCfg.zero s.cln.wake (src - 8)).mode
    canWatches s (src - 8) && (if sub = 0 then mode == 1 else mode == 2 && decide (sub ≤ 2))
  else if src < 32 then
    s.bit (linReg (src - 24) 4) 8 && (!s.up || linState s (src - 24) == 3)
  else decide (src ≤ 49) && s.key.armed.testBit (src - 32) && ([Phase.off, .stopping].contains s.sys.phase || s.key.pouring)

/-- A wake source fires. -/
def execWakeSourceFire (src sub levels : Nat) (s : State) : Out :=
  let t := setLevels levels s
  .next (if fires s t src sub then keyFire src sub t else t)

/-- VBAT_L has stayed at or above 6.0 V for 1 ms: a held wake starts the power-up (R574). -/
def execWakeSupplyGood (s : State) : Out :=
  let s := s.withKey (fun k => { k with supplyGood := true })
  match s.key.held with
  | [] => .next s
  | x :: r => .next (if s.sys.phase == .off then powerUp x r s else s)

/-- 1 ms after power-off completed with a wake latched (R515). -/
def execLatchedWakePowerUp (s : State) : Out :=
  match s.key.latched with
  | [] => .next s
  | x :: r => .next (if s.sys.phase == .off then powerUp x r s else s)

/-- Keystone ignores sources no more (R556). -/
def execWakeIgnoreExpiry (s : State) : Out := .next (s.withKey (fun k => { k with ignoring := false }))

/-! ### Validation (R505, R506) -/

/-- The sources of CAUSE_SET. -/
def causeSet (s : State) : List Nat := (List.range 50).filter (pairBit s 0x1C)

/-- A false wake (R506); a source that fires in its cycle prevents the power-off (R513). -/
def falseWakeEnds (s : State) : State :=
  let s := keyLog (s.f (keyReg 0x18) 5 0) (s.f (keyReg 0x18) 7 6) 2 (s.sb (keyReg 0) 1 false)
  let s := (causeSet s).foldl (fun s n => if 4 ≤ n then falseWake n s else s) (s.cnt (keyReg 0x44) 1)
  let s := s.raise 16 2
  if s.bit (keyReg 4) 25 && !firedNow s then beginOff s else s

/-- The window ends: inputs with VALIDATE 1 at their active level are valid, and with no valid source the wake is
false. -/
def execValidationEnd (s : State) : Out :=
  act (fun s =>
    let s := keyValidate (((List.range 4).filter (fun k => wakeValidate s k == 1 && wakeActive s k)).map (4 + ·)) s
    if validating s then falseWakeEnds s else s) s

/-! ### Power-off (R513–R516) -/

/-- AUTO_SLEEP and the sleep conditions hold. -/
def execAutoSleepBegin (s : State) : Out :=
  act (fun s => if s.bit (keyReg 4) 24 && sleepBlocks s == 0 then beginOff s else s) s

/-- Every output follows its protection and the power die's state. -/
def showChans (s : State) : State := (List.range 40).foldl (fun s c => showChan c s) s

/-- PoDL sources go off. -/
def podlAllOff (s : State) : State := (List.range 4).foldl (fun s i => setRetry (14 + i) false (setPodl (14 + i) 0 s)) s

/-- Keystone takes the ports it watches while the module is OFF (R282). -/
def armPorts (s : State) : State :=
  s.withKey (fun k => { k with armed := ((List.range 18).filter (fun p => s.bit (ethPort p 4) 7)).foldl (fun a p => a + 2 ^ p) 0 })

/-- Mason, or the boot ROM, signals done (R514): changed training records are in flash, the logic die is held in
reset, channels stop and PoDL sources go off. -/
def execPowerOffDone (s : State) : Out :=
  if poweringOff s = false ∨ [Phase.ladle, .running, .recovery, .stuck, .inReset].contains s.sys.phase = false then .next s
  else
    let s := if s.up then s.withEth (fun e => { e with rtFlash := e.rt }) else s
    .next (showChans (podlAllOff (armPorts { s with sys := { s.sys with phase := .stopping } })))

/-- The module is OFF; the wake timer starts. -/
def goOff (s : State) : State :=
  let s := (s.sb (keyReg 0) 0 false).sb (keyReg 0) 1 false
  showChans ({ s with sys := { s.sys with phase := .off } }.withKey (fun k =>
    { k with timer := s.f (keyReg 0x14) 16 0 != 0, pouring := false }))

def execPowerOffComplete (s : State) : Out := .next (if s.sys.phase == .stopping then goOff s else s)

/-- VBAT_L below 5.2 V for 20 µs while ON. -/
def execBrownOut (s : State) : Out :=
  .next (if s.sys.phase == .off then s
    else
      let t := if s.sys.phase == .stopping then s else armPorts s
      goOff (podlAllOff (t.withKey (fun k => { k with supplyGood := false }))))

/-! ### Opcodes (R518, R520) -/

def opsKey : List OpSpec :=
  let op := fun (o len : Nat) =>
    ({ opcode := o, lenLo := len, lenHi := len, classHi := 0, block := 16, mask := fun _ => .bit 0 } : OpSpec)
  [op 0x1000 0, op 0x1001 20, op 0x1002 4, op 0x1003 0, op 0x1004 8, op 0x1005 0, op 0x1006 0]

/-- CFG, WAKE_CFG and TIMER within their ranges. -/
def keyCfgOk (v : Word) : Bool :=
  decide (20 ≤ fld v 10 0) && decide (fld v 10 0 ≤ 2000) && decide (2 ≤ fld v 15 12) && decide (1 ≤ fld v 23 16)
def wakeCfgOk (v : Word) : Bool := (List.range 4).all (fun k => fld v (8 * k + 3) (8 * k + 2) != 3)
def timerOk (v : Word) : Bool := decide (fld v 16 0 ≤ 86400)

/-- Software's write of a KEY register that has no row. A VALIDATE that becomes 0 makes its input valid at once while the
window runs (R505). -/
def keyWrite (off : Nat) (v : Word) (s : State) : Option Ans :=
  let ok := if off = 4 then keyCfgOk v else if off = 0x10 then wakeCfgOk v else if off = 0x14 then timerOk v else true
  if !ok then some (unpredictable 16)
  else if off = 0x10 then some (.ok (validNow (s.wr (keyReg 0x10) v)))
  else none

def effKeyStatus : CmdEff := fun _ s =>
  .res s (readRegs [keyReg 0, keyReg 0x18, keyReg 0x1C, keyReg 0x20, keyReg 0x24, keyReg 0x28, keyReg 0x2C] s)

def effKeySetCfg : CmdEff := fun c s =>
  if c.w 32 &&& ~~~ 0x03FFF7FF#32 ≠ 0 then reservedField c 32
  else if !keyCfgOk (c.w 32) then badParam 0x102 32 0
  else if 2 ^ 18 ≤ c.p 40 4 then reservedField c 40
  else if !wakeCfgOk (c.w 44) then badParam 0x102 44 0
  else if 2 ^ 17 ≤ c.p 48 4 then reservedField c 48
  else if !timerOk (c.w 48) then badParam 0x102 48 0
  else .done (validNow (((((s.wr (keyReg 4) (c.w 32)).wr (keyReg 8) (c.w 36)).wr (keyReg 0xC) (c.w 40)).wr (keyReg 0x10) (c.w 44)).wr
    (keyReg 0x14) (c.w 48)))

def effKeySleep : CmdEff := fun c s =>
  if 2 ≤ c.p 32 4 then reservedField c 32
  else if (c.p 32 4 = 0 ∧ sleepBlocks s ≠ 0) ∨ firedNow s = true then wrongState 0x100 (sleepBlocks s)
  else .done (beginOff s)

def effKeyWakeValid : CmdEff := fun _ s =>
  if validating s then .done (keyValidate (causeSet s) s) else wrongState 0x101 0

def effKeyUnlock : CmdEff := fun c s =>
  .done ((bitsOf (c.p 32 8) 50).foldl (fun s n => clearLockout n s) s)

def effKeyLogRead : CmdEff := fun _ s =>
  .res s ((List.range 16).reverse.flatMap (fun i => readRegs [keyReg (0x200 + 8 * i), keyReg (0x204 + 8 * i)] s))

def effKeyCounters : CmdEff := fun _ s =>
  let r := takeCounters (regRun (keyReg 0x40) 4) s
  .res r.2 r.1

def execKeyStatus (ring slot : Nat) (s : State) : Out := opRow (specOf opsKey 0x1000) effKeyStatus ring slot s
def execKeySetCfg (ring slot : Nat) (s : State) : Out := opRow (specOf opsKey 0x1001) effKeySetCfg ring slot s
def execKeySleep (ring slot : Nat) (s : State) : Out := opRow (specOf opsKey 0x1002) effKeySleep ring slot s
def execKeyWakeValid (ring slot : Nat) (s : State) : Out := opRow (specOf opsKey 0x1003) effKeyWakeValid ring slot s
def execKeyUnlock (ring slot : Nat) (s : State) : Out := opRow (specOf opsKey 0x1004) effKeyUnlock ring slot s
def execKeyLogRead (ring slot : Nat) (s : State) : Out := opRow (specOf opsKey 0x1005) effKeyLogRead ring slot s
def execKeyCounters (ring slot : Nat) (s : State) : Out := opRow (specOf opsKey 0x1006) effKeyCounters ring slot s

/-! ### Pins of the logic die and of Keystone (R579, R585) -/

/-- ON_OUT: high from rails good until power-off completes. -/
def onOut (s : State) : Bool := !([Phase.off, .rising].contains s.sys.phase)

/-- What GIO pin `i` drives: none while it is an input, or the logic die is in reset or OFF (R585). -/
def gioOut (s : State) (i : Nat) : Option Bool :=
  if [Phase.off, .rising, .inReset].contains s.sys.phase || !s.bit (rg 0 0x50) i then none else some (s.bit (rg 0 0x54) i)

end Sys2Proof.Machine
end

