-- ==== Sys2Proof/Machine/Lch.lean ====
section
/-! DEFINITION. The commands of the protected load channels (R469–R497). -/

namespace Sys2Proof.Machine

/-! ### Channel commands (R474–R476) -/

/-- A rejected or discarded command is recorded: reasons 1–4 are rejections, 5 is NOT_FITTED. -/
def cmdReject (w0 : Word) (reason : Nat) (s : State) : State :=
  let s := (s.wr (lchReg 0x18) w0).wr (lchReg 0x1C) (BitVec.ofNat 32 reason)
  if reason = 5 then (s.cnt (lchReg 0x108) 1).raise 15 9 else (s.cnt (lchReg 0x104) 1).raise 15 6

def cmdApplied (s : State) : State := s.cnt (lchReg 0x100) 1

/-- Fields of word 0. -/
def cmdCh (b : List Word) : Nat := fld (b.headD 0) 5 0
def cmdOp (b : List Word) : Nat := fld (b.headD 0) 9 8
def cmdTarget (b : List Word) : Nat := fld (b.headD 0) 13 12

/-- Whether word 0 has a field that must be zero and is not, OP 3 or MODE 3. -/
def cmdForm0 (b : List Word) : Bool :=
  let w := b.headD 0
  w &&& 0xFFFFCCC0#32 == 0 && cmdOp b != 3 && cmdTarget b != 3 && (cmdOp b != 1 || fld w 5 0 == 0) &&
    (cmdOp b == 0 || cmdTarget b == 0)

/-- LEN that OP and MODE need. -/
def cmdLen (b : List Word) : Nat :=
  if cmdOp b = 1 then 4 else if cmdOp b = 0 ∧ cmdTarget b = 2 then 3 else 1

/-- Whether the zero fields of the later words hold. -/
def cmdForm1 (b : List Word) : Bool :=
  if cmdOp b = 1 then fld (b.getD 2 0) 31 16 == 0
  else if cmdLen b = 3 then fld (b.getD 1 0) 31 14 == 0 && fld (b.getD 2 0) 31 25 == 0
  else true

/-- The reason a command is rejected or discarded (R475), or 0. -/
def cmdReason (s : State) (b : List Word) : Nat :=
  let c := cmdCh b
  let p := tbPeriod s (chTb s c)
  if !cmdForm0 b then 1
  else if b.length ≠ cmdLen b then 2
  else if !cmdForm1 b then 1
  else if cmdOp b = 1 then 0
  else if 39 < c then 3
  else if !chFitted s c then 5
  else if cmdLen b ≠ 3 then 0
  else if 10000 < fld (b.getD 1 0) 13 0 then 3
  else if p = 0 then 4
  else if p ≤ fld (b.getD 2 0) 24 0 * 50 then 3
  else 0

/-- A SET. -/
def lchSet (b : List Word) (s : State) : State :=
  let c := cmdCh b
  if cmdTarget b = 2 then setPwm c (fld (b.getD 1 0) 13 0) (fld (b.getD 2 0) 24 0) (named c s)
  else cmdMode c (cmdTarget b) s

/-- A MASK: every masked fitted channel goes to ON or OFF. -/
def lchMask (b : List Word) (s : State) : State :=
  let mask := (b.getD 1 0).toNat + fld (b.getD 2 0) 7 0 * 2 ^ 32
  let value := (b.getD 3 0).toNat + fld (b.getD 2 0) 15 8 * 2 ^ 32
  let named := bitsOf mask 40
  let s := if named.all (chFitted s) then s else (s.cnt (lchReg 0x108) 1).raise 15 9
  (named.filter (chFitted s)).foldl (fun s c => cmdMode c (b2n (value.testBit c)) s) s

/-- A CLEAR: a LATCHED channel returns to READY (R488). -/
def lchClear (b : List Word) (s : State) : State :=
  let c := cmdCh b
  let s := setRestarts c 0 (named c s)
  if chProt s c = 3 then
    let s := liveFlag c 7 false (liveFlag c 6 false (s.sf (chReg c 0x10) 2 0 (if live s c 5 then 2 else 0)))
    showChan c (profileResume c (setChan c { chan s c with left := 0 } s))
  else s

/-- LCH takes the oldest passed command if its OP is one of `ops`. -/
def lchTake (ops : List Nat) (f : List Word → State → State) (s : State) : State :=
  match s.lch.passed with
  | [] => s
  | b :: r =>
    if ops.contains (cmdOp b) then
      let s := s.withLch (fun l => { l with passed := r })
      match cmdReason s b with
      | 0 => f b (cmdApplied s)
      | n => cmdReject (b.headD 0) n s
    else s

/-- A passed SET; a command with the reserved OP is rejected here. -/
def execChannelSet (s : State) : Out := actP (lchTake [0, 3] lchSet) s
def execChannelMask (s : State) : Out := actP (lchTake [1] lchMask) s
def execChannelClear (s : State) : Out := actP (lchTake [2] lchClear) s

/-! ### The HOLD window -/

/-- The window expires (R493). -/
def execHoldExpiry (s : State) : Out :=
  actP (fun s =>
    if holdRuns s then
      let s := ((s.sb (lchReg 8) 0 false).cnt (lchReg 0x110) 1).raise 15 8
      (List.range 40).foldl (fun s c =>
        if chFitted s c && (chSource s c == 0 || chSource s c == 2) then takeFailsafe c s else s) s
    else s) s

/-- HOLD_MS within its range. -/
def holdMsOk (n : Nat) : Bool := decide (10 ≤ n) && decide (n ≤ 2000)

/-- ARM set while it is 0 starts the window while CHARGE is NONE and none runs (R492). -/
def lchArm (s : State) : State :=
  if s.bit (lchReg 4) 0 then s
  else
    let s := s.sb (lchReg 4) 0 true
    if s.f (rg 14 4) 1 0 = 0 ∧ holdRuns s = false then holdStart s else s

/-- A write of LCH.CTRL: HOLD_MS, and ARM where its bit is 1. -/
def lchCtrl (v : Word) (s : State) : Ans :=
  if v &&& ~~~ 0x7FF0001#32 ≠ 0 ∨ holdMsOk (fld v 26 16) = false then unpredictable 15
  else
    let s := s.sf (lchReg 4) 26 16 (fld v 26 16)
    .ok (if bitOf v 0 then lchArm s else s)

/-- A write of LCH.CTRL. -/
def execArmWrite (m : Nat) (v : Word) (s : State) : Out := withWrite 15 4 (.bit 42) m (lchCtrl v) s

/-! ### PWM (R478–R480) -/

/-- A period of timebase `t` starts; `v1` and `v2` are the averages of VBATP1 and VBATP2 over the previous one, mV. -/
def execPwmPeriodStart (t v1 v2 : Nat) (s : State) : Out :=
  actP (fun s =>
    let n := tget 0 s.lch.tbNext t
    if 8 ≤ t ∨ tbPeriod s t = 0 ∨ lchNow s < n then s
    else
      let s := s.withLch (fun l => { l with tbNext := tput 0 l.tbNext t (n + tbPeriod s t),
                                            avg := tput (0, 0) l.avg t (v1, v2) })
      (List.range 40).foldl (fun s c =>
        if chMode s c = 2 ∧ chTb s c = t then s.sf (chReg c 0x18) 13 0 (chDutyEff c s) else s) s) s

/-- An on-interval of a PWM channel starts, of the D′ that CH_DUTY_EFF shows, or the oldest in progress ends, at its
network time. -/
def execPwmEdge (c : Nat) (start : Bool) (s : State) : Out :=
  actP (fun s =>
    let x := chan s c
    let p := tbPeriod s (chTb s c)
    if 40 ≤ c ∨ chMode s c ≠ 2 ∨ p = 0 then s
    else if start then
      if lchNow s < x.next then s
      else
        let on := onTime p (chDutyEff c s)
        let y := { x with next := x.next + p, ends := if on = 0 then x.ends else x.ends ++ [x.next + on], on := on }
        let s := setChan c y (s.sf (chReg c 0x18) 13 0 (chDutyEff c s))
        showChan c (if x.starting && chConducts s c then inrushBegin c s else s)
    else match x.ends with
      | e :: r => if e ≤ lchNow s then showChan c (setChan c { x with ends := r } s) else s
      | [] => s) s

/-- INRUSH_MS elapses (R483). -/
def execInrushEnd (c : Nat) (s : State) : Out :=
  actP (fun s => if c < 40 ∧ s.bit (chReg c 0x10) 5 = true then s.sb (chReg c 0x10) 5 false else s) s

/-! ### Protection (R484–R489) -/

/-- The protection state leaves READY and the output stops. -/
def setProt (c v : Nat) (s : State) : State := showChan c (stopOutput c (s.sf (chReg c 0x10) 2 0 v))

/-- What a stop by undervoltage or a thermal trip changes in a channel's registers: state, flags and counters. -/
def stopWords (c : Nat) : List Nat := [chReg c 0x10, chReg c 0x14, chReg c 0x24, chReg c 0x28]

/-- Channel `c` stops by event `ev`, 1 or 2, or by undervoltage (0): what it finds is kept for the cycle. -/
def stopMark (c ev : Nat) (s : State) : State :=
  let alike := fun (k : Nat) => (chan s k).stopAt == some (pclk s) && (chan s k).setEvent == ev
  let sets := ev != 0 && (!s.bit (lchReg 0x20) ev || (List.range 40).any alike)
  setChan c { chan s c with stopAt := some (pclk s), was := (stopWords c).map s.rd, setEvent := if sets then ev else 0 } s

/-- The channel as a stop of this PCLK cycle found it: an event that takes precedence over that one comes in the same
cycle (R488). -/
def stopUndo (c : Nat) (s : State) : State :=
  let x := chan s c
  if x.stopAt ≠ some (pclk s) then s
  else
    let s := ((stopWords c).zip x.was).foldl (fun s e => s.wr e.1 e.2) s
    let s := setChan c { x with left := 0, stopAt := none, was := [], setEvent := 0 } s
    let others := (List.range 40).any (fun k => (chan s k).stopAt == some (pclk s) && (chan s k).setEvent == x.setEvent)
    if x.setEvent = 0 ∨ others = true then s else s.sb (lchReg 0x20) x.setEvent false

/-- A short criterion is met: current above 5 × I_CLASS, or, with `low`, the limiter active with the output below 2.0 V,
which is blanked after each switch-on (R484). A short takes precedence over undervoltage and a thermal trip of the same
PCLK cycle (R488). -/
def execShortDetect (hit : Nat × Bool) (s : State) : Out :=
  actP (fun s =>
    let c := hit.1
    let u := stopUndo c s
    let blanked := hit.2 && decide (s.sys.ticks < (chan s c).since + fld (chan s c).prof1 25 16 * 500)
    if c < 40 ∧ chConducts u c = true ∧ blanked = false then
      let u := if u.bit (lchReg 0x10) (chRail c) then liveFlag c 5 true u else u
      chEvent c 0 ((liveFlag c 6 true (setProt c 3 u)).cnt (chReg c 0x20) 1)
    else s) s

/-- The current stays above OC_WARN for 100 µs outside the inrush phase. -/
def execOcWarn (c : Nat) (s : State) : Out :=
  actP (fun s =>
    if c < 40 ∧ chConducts s c = true ∧ s.bit (chReg c 0x10) 5 = false then
      chEvent c 4 ((liveFlag c 1 true s).cnt (chReg c 0x2C) 1)
    else s) s

/-- The effective ΔT limit (R491), never above 80 K (R472). -/
def dtLimit (s : State) (c : Nat) : Nat := max 20 (min 80 (s.f (chReg c 0) 22 16) - s.f (lchReg 0x14) 12 8)

/-- The effective form of a current limit (R491), never above 400 % (R472). -/
def effLimit (s : State) (ilim : Nat) : Nat := max 4 (min 64 ilim * min 64 (s.f (lchReg 0x14) 6 0) / 64)

/-- The limit the limiter clamps a channel's current at, in I_CLASS / 16 (R485). -/
def chLimit (s : State) (c : Nat) : Nat :=
  effLimit s (if s.bit (chReg c 0x10) 5 then fld (chan s c).prof0 22 16 else fld (chan s c).prof0 30 24)

def setDt (c dT : Nat) (s : State) : State := s.sf (chReg c 0x18) 23 16 (min dT 255)

/-- A ΔT evaluation of `dT` kelvins finds a conducting channel at its limit, or `hot`: its junction at 175 °C. -/
def execThermalTrip (c dT : Nat) (hot : Bool) (s : State) : Out :=
  actP (fun s =>
    if 40 ≤ c then s
    else
      let s := setDt c dT s
      if chConducts s c = false ∨ (dT < dtLimit s c ∧ hot = false) then s
      else
        let s := (stopMark c (if chRestarts s c < 8 then 1 else 2) s).cnt (chReg c 0x24) 1
        if chRestarts s c < 8 then
          chEvent c 1 (liveFlag c 4 true (setProt c 1 (setRestarts c (chRestarts s c + 1) s)))
        else chEvent c 2 (liveFlag c 7 true (setProt c 3 s))) s

/-- A ΔT evaluation finds a tripped channel cool enough; the junction is at or below 160 °C. -/
def execThermalReady (c dT : Nat) (s : State) : Out :=
  actP (fun s =>
    if 40 ≤ c then s
    else
      let s := setDt c dT s
      if chProt s c = 1 ∧ dT + 10 ≤ dtLimit s c then
        showChan c (profileResume c (liveFlag c 4 false (s.sf (chReg c 0x10) 2 0 0)))
      else s) s

/-- 60 s in READY without a thermal trip. -/
def execRestartsClear (c : Nat) (s : State) : Out :=
  actP (fun s => if c < 40 ∧ chProt s c = 0 then setRestarts c 0 s else s) s

/-- The channels of a rail. -/
def onRail (s : State) (r : Nat) : List Nat := (List.range 40).filter (fun c => chFitted s c && chRail c == r)

def setRail (r mv : Nat) (s : State) : State := s.sf (lchReg 0xC) (16 * r + 15) (16 * r) (min mv 0xFFFF)

/-- Undervoltage stops a channel in READY or THERM_WAIT. It takes precedence over a thermal trip of the same PCLK
cycle (R488). -/
def uvStop (c : Nat) (s : State) : State :=
  let s := liveFlag c 5 true (stopUndo c s)
  let p := chProt s c
  if p = 0 ∨ p = 1 then
    let s := stopMark c 0 s
    let s := liveFlag c 4 false (setProt c 2 (setChan c { chan s c with left := p } s))
    chEvent c 3 (s.cnt (chReg c 0x28) 1)
  else s

/-- A rail, at `mv`, has stayed below 5.5 V for 5 µs (R487). -/
def execRailUndervoltage (r mv : Nat) (s : State) : Out :=
  actP (fun s =>
    if 2 ≤ r ∨ s.bit (lchReg 0x10) r = true then s
    else
      let s := (((setRail r mv s).sb (lchReg 0x10) r true).cnt (lchReg (0x114 + 4 * r)) 1).raise 15 3
      (onRail s r).foldl (fun s c => uvStop c s) s) s

/-- A rail, at `mv`, has stayed at or above 6.0 V for 100 µs. -/
def execRailRecovery (r mv : Nat) (s : State) : Out :=
  actP (fun s =>
    if 2 ≤ r ∨ s.bit (lchReg 0x10) r = false then s
    else
      let s := (setRail r mv s).sb (lchReg 0x10) r false
      (onRail s r).foldl (fun s c =>
        let s := liveFlag c 5 false s
        if chProt s c = 2 then
          let s := liveFlag c 4 ((chan s c).left == 1) (s.sf (chReg c 0x10) 2 0 (chan s c).left)
          showChan c (profileResume c (setChan c { chan s c with left := 0 } s))
        else s) s) s

/-- An open-load flag as a sample or measurement leaves it; its first setting raises OPEN_LOAD. -/
def openLoad (c i : Nat) (low : Bool) (s : State) : State :=
  let was := live s c i
  let s := liveFlag c i low s
  if low && !was then chEvent c 5 s else s

/-- In MODE ON, outside the inrush phase, the on-state criterion is met or the current is good. In MODE PWM, the sample
of an on-interval of 100 µs or longer, of which the eighth low one in a row sets the flag (R489). -/
def execOpenLoadOn (c : Nat) (low : Bool) (s : State) : Out :=
  actP (fun s =>
    let x := chan s c
    if 40 ≤ c ∨ chConducts s c = false ∨ fld x.prof1 15 8 = 0 then s
    else if chMode s c = 1 then (if s.bit (chReg c 0x10) 5 then s else openLoad c 2 low s)
    else if x.on < 100000 then s
    else
      let n := if low then min 8 (x.low + 1) else 0
      let s := setChan c { x with low := n } s
      if low && decide (n < 8) then s else openLoad c 2 low s) s

/-- The off-state measurement is made, with OL_OFF_EN = 1 and the target OFF. -/
def execOpenLoadOff (c : Nat) (high : Bool) (s : State) : Out :=
  actP (fun s =>
    if 40 ≤ c ∨ chFitted s c = false ∨ chMode s c ≠ 0 ∨ bitOf (chan s c).prof0 14 = false then s
    else openLoad c 3 high s) s

/-! ### Registers -/

/-- Fields of CH_CFG within their ranges. -/
def chCfgOk (v : Word) : Bool := fld v 5 4 != 3 && decide (20 ≤ fld v 22 16) && decide (fld v 22 16 ≤ 80)

/-- Profile words within their ranges (R481). -/
def profOk0 (v : Word) : Bool :=
  decide (fld v 10 0 ≤ 2000) && decide (4 ≤ fld v 22 16) && decide (fld v 22 16 ≤ 64) && decide (4 ≤ fld v 30 24) &&
    decide (fld v 30 24 ≤ 64)
def profOk1 (v : Word) : Bool := decide (4 ≤ fld v 6 0) && decide (fld v 6 0 ≤ 64) && decide (fld v 25 16 ≤ 1000)
def profOk2 (v : Word) : Bool := decide (8000 ≤ v.toNat) && decide (v.toNat ≤ 16000)

/-- A PERIOD a timebase takes (R477); a register can also unset it. -/
def tbPeriodOk (p : Nat) : Bool := decide (50000 ≤ p) && decide (p ≤ 1000000000) && p % 50 == 0

/-- Software's write of an LCH register that has no row. -/
def lchWrite (off : Nat) (v : Word) (s : State) : Option Ans :=
  if 0x1000 ≤ off ∧ off < 0x1A00 then
    let c := (off - 0x1000) / 0x40
    let o := off % 0x40
    if o = 0 then
      if chMode s c ≠ 0 then some (.ok s)
      else if chCfgOk v = false ∨ (fld v 5 4 = 2 ∧ tbPeriod s (fld v 10 8) = 0) then some (unpredictable 15)
      else none
    else if o = 4 then
      if chMode s c ≠ 0 then some (.ok s) else if fld v 13 0 ≤ 10000 then none else some (unpredictable 15)
    else none
  else if 0x4060 ≤ off ∧ off < 0x4100 then
    let ok := match off % 0x10 with
      | 0 => profOk0 v
      | 4 => profOk1 v
      | 8 => profOk2 v
      | _ => true
    if ok then none else some (unpredictable 15)
  else if 0x5000 ≤ off ∧ off < 0x5080 then
    let t := (off - 0x5000) / 0x10
    let o := off % 0x10
    if (tbUser s t).isSome then some (.ok s)
    else if o = 4 ∧ 999999999 < fld v 29 0 then some (unpredictable 15)
    else if o = 0xC ∧ v ≠ 0 ∧ tbPeriodOk v.toNat = false then some (unpredictable 15)
    else some (.ok (tbArm t (s.wr (rg 15 off) v)))
  else none

/-! ### Opcodes (R495, R496) -/

def opsLch : List OpSpec :=
  let op := fun (o len lo hi : Nat) =>
    ({ opcode := o, lenLo := len, lenHi := len, instLo := lo, instHi := hi, classHi := 42, block := 15,
       mask := fun c => .bit c.inst, fitted := fun s c => decide (40 ≤ c.inst) || chFitted s c.inst } : OpSpec)
  [op 0x0F00 8 0 39, op 0x0F01 16 40 40, op 0x0F02 20 41 41, op 0x0F03 4 42 42, op 0x0F04 0 0 39,
   { op 0x0F05 0 0 42 with instOk := fun i => decide (i < 40) || i == 42 }]

def effLchChanCfg : CmdEff := fun c s =>
  let n := c.inst
  let profile := c.p 32 1
  let fs := c.p 33 1
  let tb := c.p 34 1
  let dt := c.p 35 1
  let duty := c.p 36 2
  if 15 < profile then badParam 0x106 32 0
  else if 2 < fs then badParam 0x106 33 0
  else if 7 < tb then badParam 0x106 34 0
  else if dt < 20 ∨ 80 < dt then badParam 0x106 35 0
  else if 10000 < duty then badParam 0x106 36 0
  else if !c.zero 38 2 then reservedField c 38
  else if fs = 2 ∧ tbPeriod s tb = 0 then badParam 0x103 34 tb
  else if chMode s n ≠ 0 then wrongState 0x100 (s.rd (chReg n 8)).toNat
  else .done ((s.wr (chReg n 0) (BitVec.ofNat 32 (profile + fs * 16 + tb * 256 + dt * 65536))).wr (chReg n 4)
    (BitVec.ofNat 32 duty))

def effLchProfile : CmdEff := fun c s =>
  let n := c.p 32 1
  let bad := fun (o : Nat) => badParam 0x106 o 0
  let lim := fun (o : Nat) => decide (c.p o 1 < 4) || decide (64 < c.p o 1)
  if n < 6 then badParam 0x101 32 n
  else if 15 < n then bad 32
  else if 3 < c.p 33 1 then bad 33
  else if 1 < c.p 34 1 then reservedField c 34
  else if c.zero 35 1 = false then reservedField c 35
  else if 2000 < c.p 36 2 then bad 36
  else if lim 38 then bad 38
  else if lim 39 then bad 39
  else if lim 40 then bad 40
  else if 1000 < c.p 42 2 then bad 42
  else if c.p 44 2 < 8000 ∨ 16000 < c.p 44 2 then bad 44
  else if !c.zero 46 2 then reservedField c 46
  else
    let a := rg 15 (0x4000 + n * 0x10)
    let w0 := c.p 36 2 + c.p 33 1 * 2 ^ 12 + c.p 34 1 * 2 ^ 14 + c.p 38 1 * 2 ^ 16 + c.p 39 1 * 2 ^ 24
    .done (((s.wr a (BitVec.ofNat 32 w0)).wr (a + 4)
      (BitVec.ofNat 32 (c.p 40 1 + c.p 41 1 * 256 + c.p 42 2 * 65536))).wr (a + 8) (BitVec.ofNat 32 (c.p 44 2)))

def effLchTimebase : CmdEff := fun c s =>
  let t := c.p 32 1
  if 7 < t then badParam 0x106 32 0
  else if !c.zero 33 3 then reservedField c 33
  else if !c.timeForm 36 then timeReserved c 36
  else if 999999999 < c.timeNs 36 then badParam 0x104 36 (c.timeNs 36)
  else if !tbPeriodOk (c.p 48 4) then badParam 0x105 48 (c.p 48 4)
  else match tbUser s t with
    | some n => wrongState 0x102 n
    | none =>
      let s := ((s.wr (tbReg t 0) (BitVec.ofNat 32 (c.p 44 2 * 65536))).wr (tbReg t 4) (c.w 36)).wr (tbReg t 8) (c.w 40)
      .done (tbArm t (s.wr (tbReg t 0xC) (c.w 48)))

def effLchSetHold : CmdEff := fun c s =>
  if !holdMsOk (c.p 32 2) then badParam 0x106 32 0
  else if !c.zero 34 2 then reservedField c 34
  else .done (s.sf (lchReg 4) 26 16 (c.p 32 2))

def effLchChanStatus : CmdEff := fun c s =>
  .res s (readRegs [chReg c.inst 0x10, chReg c.inst 0x14, chReg c.inst 8, chReg c.inst 0xC, chReg c.inst 0x18] s)

def effLchCounters : CmdEff := fun c s =>
  let r := takeCounters (if c.inst = 42 then regRun (lchReg 0x100) 7 else regRun (chReg c.inst 0x20) 4) s
  .res r.2 r.1

def execLchChanCfg (ring slot : Nat) (s : State) : Out := opRow (specOf opsLch 0x0F00) effLchChanCfg ring slot s
def execLchProfile (ring slot : Nat) (s : State) : Out := opRow (specOf opsLch 0x0F01) effLchProfile ring slot s
def execLchTimebase (ring slot : Nat) (s : State) : Out := opRow (specOf opsLch 0x0F02) effLchTimebase ring slot s
def execLchSetHold (ring slot : Nat) (s : State) : Out := opRow (specOf opsLch 0x0F03) effLchSetHold ring slot s
def execLchChanStatus (ring slot : Nat) (s : State) : Out := opRow (specOf opsLch 0x0F04) effLchChanStatus ring slot s
def execLchCounters (ring slot : Nat) (s : State) : Out := opRow (specOf opsLch 0x0F05) effLchCounters ring slot s

end Sys2Proof.Machine
end

