-- ==== Sys2Proof/Machine/Ncp.lean ====
section
/-! DEFINITION. The network command port: its registers, command frames and reply frames (R94–R98). -/

namespace Sys2Proof.Machine

def ncpReg (off : Nat) : Nat := rg 1 off

/-- The port's key slot, and whether it is a suitable one: 1–1,023, READY, with MAC_GEN and MAC_VER (R98). -/
def ncpSlot (s : State) : Nat := s.f (ncpReg 0x20) 13 4
def ncpKeyOk (s : State) (n : Nat) : Bool :=
  let k := keySlot s n
  decide (1 ≤ n) && decide (n ≤ 1023) && k.st == 1 && k.usage.testBit 2 && k.usage.testBit 3

/-- Ring 31 changes hands: nothing of it stays (log entry 25). -/
def ncpHandover (s : State) : State :=
  let s := ringZero 31 (stopRing 31 s)
  { s with mason := { s.mason with ncp := [] } }

/-- NCP_CTRL as a write that takes effect leaves it: the KEY_SLOT write zeroes NCP_SEQ (R98; log entry 55). -/
def ncpTakes (on : Bool) (v : Word) (s : State) : State :=
  let s := if on = s.bit (ncpReg 0x20) 0 then s else ncpHandover s
  let s := (s.wr (ncpReg 0x20) v).wr (ncpReg 0x28) 0
  { s with mason := { s.mason with seqEnd := false } }

/-- A write of EN = 1 that names no suitable slot: no effect, and EN reads 0 (R98; log
entry 55). -/
def ncpRefused (s : State) : State := if s.bit (ncpReg 0x20) 0 then (ncpHandover s).sb (ncpReg 0x20) 0 false else s

/-- A write of NCP_CTRL (R98). -/
def ncpCtrl (v : Word) (s : State) : Ans :=
  if v &&& ~~~ 0x3FF1#32 ≠ 0 then unpredictable 1
  else if bitOf v 0 && !ncpKeyOk s (fld v 13 4) then .ok (ncpRefused s)
  else .ok (ncpTakes (bitOf v 0) v s)

def execNcpCtrlWrite (m : Nat) (v : Word) (s : State) : Out := withWrite 1 0x20 .full m (ncpCtrl v) s

/-- An Ethernet frame's EtherType and the bytes after it, past one VLAN tag. -/
def etherBody (bs : List Byte) : Nat × List Byte :=
  let o := if beAt bs 12 2 = 0x8100 then 16 else 12
  (beAt bs o 2, (bs.take (bs.length - 4)).drop (o + 2))

/-- The checks of a PDU before its CMAC is computed (R96). -/
def ncpForm (s : State) (pdu : List Byte) : Bool :=
  let len := leAt pdu 14 2
  beAt pdu 0 1 == 1 && beAt pdu 1 1 == 1 && decide (len ≤ 224) && decide (56 + len ≤ pdu.length) && ncpKeyOk s (ncpSlot s)

/-- The CMAC is right and SEQ is above the last accepted. -/
def ncpAuthentic (s : State) (pdu : List Byte) : Bool :=
  let len := leAt pdu 14 2
  slice pdu (40 + len) 16 == cmac (keySlot s (ncpSlot s)).key (pdu.take (40 + len)) &&
    decide ((s.rd (ncpReg 0x28)).toNat < beAt pdu 4 4)

/-- Room in ring 31: its command area is not full, and no command waits for its reply in the next slot. -/
def ncpRoom (s : State) : Bool :=
  let t := s.f (ringReg 31 0x14) 11 0
  (t + 1) % 16 != s.f (ringReg 31 0x18) 11 0 && !s.mason.ncp.any (fun x => x.slot == t)

/-- Take a command frame: into ring 31, or dropped. Checking its CMAC is a use of the key (R395). -/
def ncpTake (bs : List Byte) (vid pcp : Nat) (s : State) : State :=
  let pdu := (etherBody bs).2
  let u := if ncpForm s pdu then useKey (ncpSlot s) s else (false, s)
  if u.1 && ncpAuthentic s pdu then
    let s := u.2
    let t := s.f (ringReg 31 0x14) 11 0
    let x : NcpSlot := { slot := t, bytes := slice pdu 8 (32 + leAt pdu 14 2), seq := beAt pdu 4 4, da := slice bs 0 6,
                         sa := slice bs 6 6, vid := vid, pcp := pcp, key := ncpSlot s,
                         gen := (keySlot s (ncpSlot s)).gen, door := s.mason.doorCount }
    let d : Door := { ring := 31, order := s.mason.doorCount, tail := (t + 1) % 16, master := 0x20 }
    let s := (s.wr (ncpReg 0x28) (BitVec.ofNat 32 (beAt pdu 4 4))).sf (ringReg 31 0x14) 11 0 ((t + 1) % 16)
    { s with mason := { s.mason with ncp := s.mason.ncp ++ [x], doors := s.mason.doors ++ [d],
                                     doorCount := s.mason.doorCount + 1,
                                     seqEnd := s.mason.seqEnd || beAt pdu 4 4 == 0xFFFFFFFF } }
  else u.2.cnt (ncpReg 0x2C) 1

/-- The oldest frame delivered through port IM. With the port disabled, and for frames of another EtherType, Mason
has no use for it. -/
def execNcpCommandFrame (s : State) : Out :=
  act (fun s =>
    match s.mason.imRx with
    | [] => s
    | (bs, vid, pcp) :: r =>
      let t := { s with mason := { s.mason with imRx := r } }
      if s.bit (ncpReg 0x20) 0 = false ∨ (etherBody bs).1 ≠ s.f (ncpReg 0x24) 15 0 then t
      else if ncpRoom s then ncpTake bs vid pcp t else s) s

/-- The reply frame of a network command, under the key the command came under (R97): none where the slot holds another
by now, or none that suits. -/
def ncpReply (r : Reply) (x : NcpSlot) (s : State) : State :=
  let u := if ncpKeyOk s x.key && (keySlot s x.key).gen == x.gen then useKey x.key s else (false, s)
  if u.1 then
    let head := [1, 2, 0, 0] ++ beBytes 4 x.seq ++ (replyBytes r).take (32 + r.resultLen)
    let tag := beBytes 2 0x8100 ++ beBytes 2 (x.pcp * 8192 + x.vid)
    let bs := padTo 60 (x.sa ++ x.da ++ tag ++ beBytes 2 (s.f (ncpReg 0x24) 15 0) ++ head ++
      cmac (keySlot s x.key).key head)
    (storeFrame 20 (bs ++ fcs bs) 0 none (false, 0) s.tim.sec.toNat s.tim.ns (s.tim.frac.toNat / 65536) u.2).1
  else u.2

/-- Reply to a network command: as a frame; its reply slot is consumed at once. A command that the port took before it
last changed hands has none (log entry 25). -/
def ncpAnswer (r : Reply) (s : State) : State :=
  match s.mason.ncp.find? (fun x => x.door == r.door) with
  | none => s
  | some x =>
    let s := { s with mason := { s.mason with ncp := s.mason.ncp.filter (fun y => y.door != r.door) } }
    if r.noReply then (if r.status = 0 then s else s.cntF (ringReg 31 0x2C) 15 0 1)
    else
      let n := (s.f (ringReg 31 0x1C) 11 0 + 1) % 16
      ncpReply r x ((s.sf (ringReg 31 0x1C) 11 0 n).sf (ringReg 31 0x20) 11 0 n)

end Sys2Proof.Machine
end

