-- ==== Sys2Proof/Machine/Nm.lean ====
section
/-! DEFINITION. The commands of the network management engines (R508–R512, R519, R520). -/

namespace Sys2Proof.Machine

/-- The UDP payload of a copy that an engine's checks pass (R510). -/
def nmUdp (s : State) (e : Nat) (bs : List Byte) : Option (List Byte) :=
  let p := afterTag (bs.take (bs.length - 4))
  let ip := p.drop 2
  let ihl := beAt ip 0 1 % 16 * 4
  let udp := ip.drop ihl
  let n := beAt udp 4 2
  if beAt p 0 2 ≠ 0x0800 ∨ beAt ip 9 1 ≠ 17 ∨ beAt udp 2 2 ≠ s.f (nmReg e 4) 15 0 ∨ udp.length < n ∨ n < 10 then none
  else some (udp.drop 8 |>.take (n - 8))

/-- The next record of a CAN engine's channel is a PDU for it (R509). -/
def nmCan (e : Nat) (s : State) : State :=
  match gwyInbox s e with
  | [] => s
  | p :: _ =>
    let m := recordMsg s e (p.map (·.data))
    if recordGood p && nmTakes s e m.frame then
      let s := popRecord e s
      let s := if m.frame.data.length < 2 then nmBad s else nmReceive e m.frame.data s
      if s.bit (nmReg e 0) 16 then takeMsg m s else s
    else s

/-- The oldest copy that left through IG without a tunnel (R510): a REDIRECT copy for engine `e`, or one that no
engine takes. -/
def nmIg (e : Nat) (s : State) : State :=
  match s.eth.igRx with
  | [] => s
  | x :: r =>
    let dst := fld x.user 4 0
    let pop := s.withEth (fun t => { t with igRx := r })
    if x.tunnel.isSome then s
    else if x.bad then pop
    else if !x.redirect || decide (dst < 16) || decide (19 < dst) then nmBad pop
    else if dst ≠ e then s
    else if !nmEn s e then pop
    else match nmUdp s e x.bytes with
      | some pdu => nmReceive e pdu pop
      | none => nmBad pop

/-- An engine takes a received PDU. -/
def execNmPduReceived (e : Nat) (s : State) : Out :=
  act (fun s => if e < 16 then nmCan e (hwDrain e s) else if e < 20 then nmIg e s else s) s

/-- T_REPEAT expires. -/
def execNmRepeatTimeout (e : Nat) (s : State) : Out :=
  act (fun s => if e < 20 ∧ nmState s e = 3 then setNm e (if nmRequested s e then 4 else 5) s else s) s

/-- T_NM expires. -/
def execNmTimeout (e : Nat) (s : State) : Out :=
  act (fun s =>
    if 20 ≤ e then s
    else if nmState s e = 4 then s.cnt (rg 10 0x880C) 1
    else if nmState s e = 5 then setNm e 2 s else s) s

/-- T_WAIT expires. -/
def execNmWaitTimeout (e : Nat) (s : State) : Out :=
  act (fun s => if e < 20 ∧ nmState s e = 2 then (setNm e 1 s).sb (rg 10 0x8800) e true else s) s

/-- T_MSG expires. -/
def execNmMsgTimer (e : Nat) (s : State) : Out :=
  act (fun s => if e < 20 ∧ (nmState s e = 3 ∨ nmState s e = 4) then nmSend e 0 s else s) s

/-- NM_CFG fields a register write may set (R519). -/
def nmCfgOk (v : Word) : Bool := v &&& ~~~ 0x0001FF0F#32 == 0 && fld v 3 2 != 3

/-- What GWY_NM_CFG would refuse of an engine's registers as EN is set (R60, R519). -/
def nmRegsOk (s : State) (e : Nat) (v : Word) : Bool :=
  let vid := s.f (nmReg e 0x38) 27 16
  decide (s.f (nmReg e 0x14) 31 16 < s.f (nmReg e 0x10) 15 0) &&
    (decide (e < 16) || (fld v 3 2 == 0 && !bitOf v 16 && decide (1 ≤ vid) && decide (vid ≤ 4094)))

/-- A write of NM_CFG: EN always, the rest while EN = 0. -/
def execNmCfgWrite (m e : Nat) (v : Word) (s : State) : Out :=
  withWrite 10 (0x8000 + e * 0x40) (if e < 16 then .bit e else .bit 26) m (fun s =>
    if !nmFitted s e then .ok s
    else if !nmCfgOk v then unpredictable 10
    else if !nmEn s e && bitOf v 0 && !nmRegsOk s e v then unpredictable 10
    else
      let s := if nmEn s e then s else s.wr (nmReg e 0) (setBit v 0 false)
      .ok (nmEnable e (bitOf v 0) s)) s

/-! ### Opcodes -/

def opsNm : List OpSpec :=
  let op := fun (o len : Nat) =>
    ({ opcode := o, lenLo := len, lenHi := len, instHi := 19, classHi := 255, block := 10,
       mask := fun c => if c.inst < 16 then .bit c.inst else .bit 26, fitted := fun s c => nmFitted s c.inst } : OpSpec)
  [op 0x0A20 40, op 0x0A21 4, op 0x0A22 0, op 0x0A23 8]

/-- The first field of GWY_NM_CFG at fault by NM_FORM: T_MSG not below T_NM, FORMAT 3, or an unused field that is not
zero. -/
def nmForm (c : Cmd) : Option Nat :=
  let can := decide (c.inst < 16)
  if fld (c.w 32) 3 2 = 3 ∨ (can = false ∧ (fld (c.w 32) 3 2 ≠ 0 ∨ bitOf (c.w 32) 16 = true)) then some 32
  else if (can && decide (2 ^ 30 ≤ c.p 36 4)) || (!can && decide (2 ^ 16 ≤ c.p 36 4)) then some 36
  else if (can && decide (2 ^ 30 ≤ c.p 40 4)) || (!can && c.p 40 4 != 0) then some 40
  else if (can && decide (2 ^ 30 ≤ c.p 44 4)) || (!can && c.p 44 4 != 0) then some 44
  else if c.p 48 2 ≤ c.p 54 2 then some 52
  else if can && c.p 56 4 != 0 then some 56
  else if can && c.p 60 4 != 0 then some 60
  else if can && c.p 64 4 != 0 then some 64
  else if can && c.p 68 4 != 0 then some 68
  else none

def effGwyNmCfg : CmdEff := fun c s =>
  let e := c.inst
  let r := fun (o : Nat) => nmReg e o
  let vid := c.p 70 2 % 4096
  if c.w 32 &&& ~~~ 0x0001FF0F#32 ≠ 0 then reservedField c 32
  else match nmForm c with
    | some o => badParam 0x109 o (o / 4)
    | none =>
      if c.p 48 2 < 100 then badParam 0x106 48 0
      else if c.p 52 2 < 100 ∨ c.p 54 2 < 10 then badParam 0x106 52 0
      else if (c.p 70 2).testBit 12 then reservedField c 70
      else if 16 ≤ e ∧ (vid = 0 ∨ vid = 4095) then badParam 0x106 70 0
      else if nmEn s e then
        if bitOf (c.w 32) 0 then wrongState 0x107 e else .done (nmEnable e false s)
      else
        let s := ((((s.wr (r 0) (setBit (c.w 32) 0 false)).wr (r 4) (c.w 36)).wr (r 8) (c.w 40)).wr (r 0xC) (c.w 44)).wr
          (r 0x10) (c.w 48)
        let s := s.wr (r 0x14) (c.w 52)
        let s := if e < 16 then s
          else (((s.wr (r 0x2C) (c.w 56)).wr (r 0x30) (c.w 60)).wr (r 0x34) (c.w 64)).wr (r 0x38)
            (BitVec.ofNat 32 (c.p 68 2 + vid * 2 ^ 16 + c.p 70 2 / 8192 * 2 ^ 29))
        .done (nmEnable e (bitOf (c.w 32) 0) s)

/-- REQUEST, RELEASE and REPEAT (R512). -/
def effGwyNmRequest : CmdEff := fun c s =>
  let e := c.inst
  let st := nmState s e
  let req := fun (v : Bool) => s.sb (nmReg e 0x20) 3 v
  if c.p 32 1 = 0 ∨ 3 < c.p 32 1 then badParam 0x106 32 0
  else if !c.zero 33 3 then reservedField c 33
  else if !nmEn s e then wrongState 0x108 e
  else match c.p 32 1 with
    | 1 => .done (if st = 1 ∨ st = 2 then nmRepeat e 0x10 (req true)
        else if st = 5 then nmSend e 0 (setNm e 4 (req true)) else req true)
    | 2 => .done (if st = 4 then setNm e 5 (req false) else req false)
    | _ => .done (if st = 4 ∨ st = 5 then nmRepeat e 1 s else s)

def effGwyNmStatus : CmdEff := fun c s =>
  let e := c.inst
  let u := tget (List.replicate 6 0) s.gwy.lastUdata e
  let r := takeCounters [nmReg e 0x24, nmReg e 0x28] s
  .res r.2 (readRegs [nmReg e 0x20] s ++ u ++ [0, 0] ++ r.1)

def effGwyNmUdata : CmdEff := fun c s =>
  if !c.zero 38 2 then reservedField c 38
  else .done ((s.wr (nmReg c.inst 0x18) (c.w 32)).wr (nmReg c.inst 0x1C) (BitVec.ofNat 32 (c.p 36 2)))

def execGwyNmCfg (ring slot : Nat) (s : State) : Out := opRow (specOf opsNm 0x0A20) effGwyNmCfg ring slot s
def execGwyNmRequest (ring slot : Nat) (s : State) : Out := opRow (specOf opsNm 0x0A21) effGwyNmRequest ring slot s
def execGwyNmStatus (ring slot : Nat) (s : State) : Out := opRow (specOf opsNm 0x0A22) effGwyNmStatus ring slot s
def execGwyNmUdata (ring slot : Nat) (s : State) : Out := opRow (specOf opsNm 0x0A23) effGwyNmUdata ring slot s

end Sys2Proof.Machine
end

