-- ==== Sys2Proof/Machine/Ord.lean ====
section
/-! DEFINITION. The output-redundancy receiver: admission, judging, hold-off, take-over, swap tests and safety CAN
records (R448–R468). -/

namespace Sys2Proof.Machine

def ordReg (off : Nat) : Nat := rg 14 off
def ordCount (off : Nat) (s : State) : State := s.cnt (ordReg off) 1

/-- The bits of ORD.STATUS. -/
def ordBit (s : State) (i : Nat) : Bool := s.bit (ordReg 4) i
def setOrdBit (i : Nat) (v : Bool) (s : State) : State := s.sb (ordReg 4) i v
def ordCharge (s : State) : Nat := s.f (ordReg 4) 1 0
def ordHoldoff (s : State) : Bool := ordBit s 2
def ordSwap (s : State) : Bool := ordBit s 3
def ordAnchored (s : State) : Bool := ordBit s 4
def ordLine (s : State) (l : Nat) : Bool := ordBit s (5 + l)
def ordUp (s : State) (l : Nat) : Bool := ordBit s (7 + l)
def bIsolated (s : State) : Bool := ordBit s 9
def ordH (s : State) : Nat := s.f (ordReg 4) 31 16

/-- Whether a link is admitted (R453). -/
def admitted (s : State) (l : Nat) : Bool := !ordLine s l && ordUp s l && (l == 1 || !ordHoldoff s)

/-- The link that is first (R450). -/
def firstLink (s : State) : Nat := b2n (ordSwap s)

def ordStage (s : State) (l : Nat) : List OCopy := tget [] s.ord.stage l
def setOrdStage (l : Nat) (x : List OCopy) (s : State) : State :=
  s.withOrd (fun o => { o with stage := tput [] o.stage l x })

/-- A link becomes first: its held copies are eligible in the next cycle. -/
def becomeFirst (l : Nat) (s : State) : State :=
  setOrdStage l ((ordStage s l).map (fun c => { c with wait := 1 })) s

/-- A swap test ends (R463). -/
def endSwap (reason : Nat) (s : State) : State :=
  if ordSwap s then becomeFirst 0 (((setOrdBit 3 false s).wr (ordReg 0xC) (BitVec.ofNat 32 (reason * 65536))).raise 14 8)
  else s

/-! ### Charge (R453, R456, R458) -/

/-- The charge that admission gives. -/
def newCharge (s : State) : Nat := if admitted s 0 then 1 else if admitted s 1 && !bIsolated s then 2 else 0

/-- Admission or B's report may have changed. A hold-off ends as B falls out (R456); NONE is signalled to LCH. -/
def chargeUpdate (s : State) : State :=
  let s := if ordHoldoff s && (!admitted s 1 || bIsolated s) then setOrdBit 2 false s else s
  let c := newCharge s
  if ordCharge s = c then s
  else
    let s := (s.sf (ordReg 4) 1 0 c).raise 14 0
    if c = 0 then lchNone (ordCount 0x130 (s.raise 14 1)) else s

/-- A hold-off starts, or starts again. -/
def startHoldoff (s : State) : State :=
  (setOrdBit 2 true s).withOrd (fun o => { o with holdStart := s.sys.ticks, holdMs := s.f (ordReg 0) 25 12 })

/-- ORD acts on a change of fault line `d`; an open wire reads as asserted (R448, R455, R456). -/
def execFaultLineChange (d : Nat) (wireOpen : Bool) (s : State) : Out :=
  actP (fun s =>
    let v := wireOpen || faultLine s d
    if 2 ≤ d ∨ ordLine s d = v then s
    else
      let s := setOrdBit (5 + d) v s
      let s := if d = 0 then (if v then setOrdBit 2 false s else if ordCharge s = 2 then startHoldoff s else s) else s
      chargeUpdate (if v then endSwap (3 + d) s else s)) s

/-- No valid status frame on a link for 30 µs (R449). -/
def execOrdLinkTimeout (l : Nat) (s : State) : Out :=
  actP (fun s =>
    if l < 2 ∧ ordUp s l = true then
      let s := setOrdBit (7 + l) false s
      let s := if ordLine s l then s else s.raise 14 4
      chargeUpdate (endSwap 5 s)
    else s) s

/-- HOLDOFF_MS elapses; with REVERT_EN = 0 it never does. -/
def execHoldoffExpiry (s : State) : Out :=
  actP (fun s =>
    if ordHoldoff s && s.bit (ordReg 0) 26 then chargeUpdate (ordCount 0x134 (setOrdBit 2 false s)) else s) s

/-- DURATION_MS of a swap test elapses. -/
def execSwapTestEnd (s : State) : Out := actP (fun s => endSwap 1 s) s

/-! ### Arrivals (R446, R449, R450, R459) -/

/-- A valid status frame. After an accepted TAKEOVER, a frame B sent before it is passed over (R460). -/
def ordStatusFrame (l : Nat) (w : Word) (s : State) : State :=
  let s := setOrdBit (7 + l) true s
  let s :=
    if l = 1 then
      let iso := fld w 1 0 == 3
      if s.ord.claimed && iso then s
      else
        let s' := (setOrdBit 9 iso s).withOrd (fun o => { o with claimed := false })
        if iso && !bIsolated s then endSwap 6 (s'.raise 14 5) else s'
    else
      let s' := s.withOrd (fun o => { o with aMirror := bitOf w 2 })
      if s.ord.aMirror && !bitOf w 2 then s'.raise 14 5 else s'
  chargeUpdate s

/-- The frame in transmission on link `l` has arrived whole; `bad` says that its CRC failed on the way. One that is not
valid is discarded and counted (R449). The port's next frame takes the link. -/
def execCopyArrival (l : Nat) (bad : Bool) (s : State) : Out :=
  actP (fun s =>
    match onAir s l with
    | none => s
    | some f =>
      let s := portPump l (setAir l none s)
      if bad || !f.valid then ordCount 0x120 s
      else if f.isStatus then ordStatusFrame l (f.body.headD 0) s
      else if 64 ≤ (ordStage s l).length then (ordCount 0x124 s).raise 14 9
      else
        let w := if l = firstLink s ∨ f.kind = 3 then 1 else 1 + 20 * s.f (ordReg 0) 9 0
        setOrdStage l (ordStage s l ++ [{ frame := f, wait := w }]) s) s

/-! ### Judging (R451–R460, R464) -/

/-- The record of a safety CAN message (R464). -/
def safetyRecord (s : State) (f : OFrame) : List Nat :=
  let w0 := f.body.headD 0
  let w1 := f.body.getD 1 0
  let n := fld w1 6 0
  let fmt := fld w1 9 8
  let data := ((f.body.drop 2).flatMap (fun w => leBytes 4 w.toNat)).take n
  let t := lchNow s
  [t % 1000000000 + t / 1000000000 % 2 ^ 32 * 2 ^ 32,
   fld w0 30 0 + b2n (fmt != 0) * 2 ^ 31 + b2n (fmt == 2) * 2 ^ 33 + n * 2 ^ 36 + f.seq * 2 ^ 48, 0] ++
  (List.range ((n + 7) / 8)).map (fun i => leAt data (8 * i) 8)

/-- ORD's oldest held record goes to FIFO 24, once the record before it is written there. -/
def recordWrite (s : State) : State :=
  match s.ord.records with
  | [] => s
  | r :: rest => if hwFrames s 24 = 0 then hwQueue 24 r (s.withOrd (fun o => { o with records := rest })) else s

/-- While GWY runs, FIFO 24 takes what ORD writes within 2 µs (R464, R601). -/
def recordsMove (s : State) : State := if s.up then recordWrite (hwDrain 24 s) else s

/-- A safety CAN record is held for FIFO 24, at most 8; while GWY runs the held ones move on. -/
def holdRecord (f : OFrame) (s : State) : State :=
  let s := if 8 ≤ s.ord.records.length then recordsMove s else s
  if 8 ≤ s.ord.records.length then (ordCount 0x138 s).raise 14 10
  else s.withOrd (fun o => { o with records := o.records ++ [safetyRecord s f] })

def setH (h : Nat) (s : State) : State := (s.sf (ordReg 4) 31 16 h).sb (ordReg 4) 4 true

/-- Accept a copy; while CHARGE is NONE nothing is passed on (R458). -/
def ordAccept (l : Nat) (f : OFrame) (s : State) : State :=
  let charge := ordCharge s
  let s := ordCount (0x100 + 4 * l) (setH f.seq s)
  let s := s.withOrd (fun o => { o with seen := (f.seq :: o.seen).take 64 })
  if charge = 0 then s else if f.kind = 1 then lchPass f.body s else holdRecord f s

/-- A TAKEOVER (R460), and the report to the port that sent it. -/
def ordClaim (l : Nat) (f : OFrame) (s : State) : State :=
  if l = 1 ∧ admitted s 1 = true ∧ ordLine s 0 = true then
    let s := (ordCount 0x128 (setH ((f.seq + 65535) % 65536) s)).raise 14 6
    let s := (setOrdBit 9 false s).withOrd (fun o => { o with seen := [], claimed := true })
    claimDone 1 0 f.seq (chargeUpdate s)
  else claimDone 1 stClaimRefused f.seq ((ordCount 0x12C s).raise 14 7)

/-- Judge an eligible copy. -/
def ordJudge (l : Nat) (f : OFrame) (s : State) : State :=
  let d := (f.seq + 65536 - ordH s) % 65536
  let next := !ordAnchored s || (decide (1 ≤ d) && decide (d ≤ 64))
  if f.kind = 3 then ordClaim l f s
  else if !admitted s l then
    if l = 0 ∧ ordHoldoff s = true then
      let s := ordCount 0x11C s
      if next then s else (startHoldoff s).raise 14 2
    else ordCount 0x118 s
  else if next then ordAccept l f s
  else if d = 0 ∨ 32768 ≤ d then
    if s.ord.seen.contains f.seq then ordCount (0x108 + 4 * l) s else ordCount 0x110 s
  else (ordCount 0x114 s).raise 14 3

/-- Copy `i` of a skew stage is eligible and judged: no copy that arrived before it may be eligible as early. -/
def execCopyJudge (l i : Nat) (s : State) : Out :=
  actP (fun s =>
    let st := ordStage s l
    match st[i]? with
    | some c =>
      if (st.take i).all (fun x => decide (c.wait < x.wait)) then ordJudge l c.frame (setOrdStage l (st.eraseIdx i) s) else s
    | none => s) s

/-- ORD writes its oldest held record into FIFO 24, which never fills while GWY runs (R464, R601). -/
def execCanRecordWrite (s : State) : Out := act recordsMove s

/-! ### Registers and opcodes (R465–R467) -/

/-- CFG within its ranges. -/
def ordCfgOk (v : Word) : Bool :=
  decide (5 ≤ fld v 9 0) && decide (fld v 9 0 ≤ 1000) && decide (10 ≤ fld v 25 12) && decide (fld v 25 12 ≤ 10000)

/-- Software's write of an ORD register that has no row: CFG out of its ranges, or while a swap test runs, as
ORD_SET_CFG refuses it (R60, R466). -/
def ordWrite (off : Nat) (v : Word) (s : State) : Option Ans :=
  if off = 0 ∧ (ordCfgOk v = false ∨ ordSwap s = true) then some (unpredictable 14) else none

/-- SWAP_INFO and HOLDOFF_LEFT as a read shows them. -/
def swapInfo (s : State) : Word :=
  setFld (s.rd (ordReg 0xC)) 15 0 (if ordSwap s then msLeft s s.ord.swapStart s.ord.swapMs else 0)
def holdoffLeft (s : State) : Nat := if ordHoldoff s then msLeft s s.ord.holdStart s.ord.holdMs else 0

def opsOrd : List OpSpec :=
  let op := fun (o len : Nat) =>
    ({ opcode := o, lenLo := len, lenHi := len, classHi := 0, block := 14, mask := fun _ => .bit 0 } : OpSpec)
  [op 0x0E00 4, op 0x0E01 0, op 0x0E02 4, op 0x0E03 0, op 0x0E04 0]

def effOrdSetCfg : CmdEff := fun c s =>
  if c.w 32 &&& ~~~ 0x7FFF3FF#32 ≠ 0 then reservedField c 32
  else if !ordCfgOk (c.w 32) then badParam 0x103 32 0
  else if ordSwap s then wrongState 0x101 (swapInfo s).toNat
  else .done (s.wr (ordReg 0) (c.w 32))

def effOrdStatus : CmdEff := fun _ s =>
  .res s (readRegs [ordReg 4] s ++ leBytes 4 (holdoffLeft s) ++ leBytes 4 (swapInfo s).toNat)

/-- Whether a swap test may begin (R463). -/
def swapReady (s : State) : Bool :=
  ordCharge s == 1 && !ordLine s 0 && !ordLine s 1 && ordUp s 0 && ordUp s 1 && !ordHoldoff s && !bIsolated s && !ordSwap s

def effOrdSwapTest : CmdEff := fun c s =>
  let ms := c.p 32 2
  if ms = 0 ∨ 60000 < ms then badParam 0x103 32 0
  else if !c.zero 34 2 then reservedField c 34
  else if !swapReady s then wrongState 0x100 (s.rd (ordReg 4)).toNat
  else
    let s := (setOrdBit 3 true s).wr (ordReg 0xC) 0
    .done (becomeFirst 1 (s.withOrd (fun o => { o with swapStart := s.sys.ticks, swapMs := ms })))

def effOrdSwapCancel : CmdEff := fun _ s => if ordSwap s then .done (endSwap 2 s) else wrongState 0x102 0

def effOrdCounters : CmdEff := fun _ s =>
  let r := takeCounters (regRun (ordReg 0x100) 15) s
  .res r.2 r.1

def execOrdSetCfg (ring slot : Nat) (s : State) : Out := opRow (specOf opsOrd 0x0E00) effOrdSetCfg ring slot s
def execOrdStatus (ring slot : Nat) (s : State) : Out := opRow (specOf opsOrd 0x0E01) effOrdStatus ring slot s
def execOrdSwapTest (ring slot : Nat) (s : State) : Out := opRow (specOf opsOrd 0x0E02) effOrdSwapTest ring slot s
def execOrdSwapCancel (ring slot : Nat) (s : State) : Out := opRow (specOf opsOrd 0x0E03) effOrdSwapCancel ring slot s
def execOrdCounters (ring slot : Nat) (s : State) : Out := opRow (specOf opsOrd 0x0E04) effOrdCounters ring slot s

end Sys2Proof.Machine
end

