-- ==== Sys2Proof/Machine/Addan.lean ====
section
/-! DEFINITION. Addan parse code: the instruction formats, what makes an instruction illegal, and what each does to
its context (R178–R192). -/

namespace Sys2Proof.Machine

/-- A decoded Addan instruction. `d` is COND and `imm` is TARGET in format J (R181, R182). -/
structure Addan where
  op : Nat
  d : Nat
  a : Nat
  s : Bool
  b : Nat
  imm : Nat
  deriving DecidableEq, Repr

/-- Whether an instruction's fields are what R181–R184 allow. -/
def Addan.legal (i : Addan) : Bool :=
  if 1 ≤ i.op ∧ i.op ≤ 7 then true
  else if i.op = 8 ∨ i.op = 9 then !i.s && i.a == 0
  else if i.op = 10 then !i.s && decide (i.imm < 1024)
  else if i.op = 11 then i.d == 0
  else if i.op = 12 then decide (i.a ≤ 2)
  else if i.op = 13 then i.d == 0 && i.a == 0
  else if i.op = 14 then !i.s && i.a == 0 && decide (i.imm ≤ 13)
  else if i.op = 15 then !i.s && i.d == 0 && i.imm == 10
  else if i.op = 16 then !i.s && i.d == 0 && decide (i.imm ≤ 9)
  else if i.op = 17 ∨ i.op = 18 then !i.s && i.a == 0 && i.imm == 0
  else if i.op = 19 then !i.s && decide (i.imm ≤ 63)
  else if i.op = 20 then i.d == 0 && i.a == 0
  else if i.op = 21 then i.a == 0 && decide (i.d ≤ 11)
  else if i.op = 22 then i.d == 0 && i.a == 0
  else if i.op = 23 then i.d == 0 && i.a == 0 && !i.s && i.imm == 0
  else if i.op = 24 then decide (i.d ≤ 9) && i.d != 7 && (decide (8 ≤ i.d) || i.a == 0)
  else false

/-- Decode an instruction word; none where it is illegal by its form (R183). -/
def decodeAddan (w : Word) : Option Addan :=
  let op := fld w 31 26
  let s := bitOf w 17
  let i : Addan := if op = 24 then { op := op, d := fld w 25 22, a := fld w 21 18, s := false, b := 0, imm := fld w 12 0 }
    else { op := op, d := fld w 25 22, a := fld w 21 18, s := s, b := if s then fld w 16 13 else 0,
           imm := if s then 0 else fld w 15 0 }
  let form := if op = 24 then fld w 17 13 == 0 else if s then fld w 12 0 == 0 else fld w 16 16 == 0
  if form && i.legal then some i else none

/-- Registers an instruction reads or writes (R187). -/
def Addan.touches (i : Addan) : List Nat :=
  let x := if i.s then [i.b] else []
  if i.op ≤ 7 then [i.d, i.a] ++ x
  else if i.op = 8 ∨ i.op = 9 ∨ i.op = 14 ∨ i.op = 17 ∨ i.op = 18 then [i.d]
  else if i.op = 10 ∨ i.op = 19 then [i.d, i.a]
  else if i.op = 11 then i.a :: x
  else if i.op = 12 then i.d :: x
  else if i.op = 15 ∨ i.op = 16 then [i.a]
  else if i.op = 24 then (if 8 ≤ i.d then [i.a] else [])
  else x

/-- Whether an instruction is a lookup or a scan. -/
def Addan.waits (i : Addan) : Bool := i.op == 17 || i.op == 18 || i.op == 19

/-- A general register. -/
def Run.reg (r : Run) (n : Nat) : Word := r.g.getD n 0

/-- The run with a general register written. -/
def Run.setReg (r : Run) (n : Nat) (v : Word) : Run := { r with g := lset r.g n v }

/-- The second operand X (R181). -/
def Addan.x (i : Addan) (r : Run) : Word := if i.s then r.reg i.b else BitVec.ofNat 32 i.imm

/-- Destination of pending work. -/
def Pend.dest : Pend → Nat
  | .look d _ => d
  | .scan d _ _ _ => d

/-- Whether the instruction stalls (R187). -/
def Run.stalls (r : Run) (i : Addan) : Bool :=
  r.pend.any (fun p => i.touches.contains p.dest) || (i.waits && decide (4 ≤ r.pend.length))

/-! ### The verdict record (R190–R193) -/

/-- Word, lowest bit, width and valid bit of a record field. -/
def recField : Nat → Nat × Nat × Nat × Option Nat
  | 0 => (0, 0, 4, none) | 1 => (0, 8, 21, none) | 2 => (0, 4, 3, some 7) | 3 => (1, 0, 21, none)
  | 4 => (2, 0, 12, some 12) | 5 => (2, 13, 12, some 25) | 6 => (3, 0, 12, some 12) | 7 => (3, 13, 13, some 26)
  | 8 => (4, 0, 14, none) | 9 => (0, 29, 1, none) | 10 => (1, 21, 8, none) | _ => (5, 0, 32, none)

/-- Mask of a field with its valid bit. -/
def recMask (k : Nat) : Word :=
  let f := recField k
  BitVec.ofNat 32 (((2 ^ f.2.2.1 - 1) <<< f.2.1) + (match f.2.2.2 with
    | some v => 2 ^ v
    | none => 0))

/-- A word of the record. -/
def recWord (ws : List Word) (i : Nat) : Word := ws.getD i 0

/-- VSET of field `k` with X: the low bits that fit, with the valid bit; bit 31 clears, except for USER (R191). -/
def vset (k : Nat) (x : Word) (ws : List Word) : List Word :=
  let f := recField k
  let old := recWord ws f.1 &&& ~~~ recMask k
  let v : Nat := ((x.toNat % 2 ^ f.2.2.1) <<< f.2.1) + (match f.2.2.2 with
    | some b => 2 ^ b
    | none => 0)
  lset ws f.1 (if bitOf x 31 ∧ k ≠ 11 then old else old ||| BitVec.ofNat 32 v)

/-- Copy the fields a verdict entry marks as set, with their valid bits (R191, R226). -/
def vload (e : VerdictEntry) (ws : List Word) : List Word :=
  (List.range 12).foldl (fun ws k =>
    if e.set.testBit k then
      let i := (recField k).1
      lset ws i ((recWord ws i &&& ~~~ recMask k) ||| (recWord e.words i &&& recMask k))
    else ws) ws

/-- A record that makes DONE illegal (R193). -/
def recIllegal (ws : List Word) : Bool :=
  decide (5 ≤ fld (recWord ws 0) 3 0) ||
  (bitOf (recWord ws 3) 12 && (fld (recWord ws 3) 11 0 == 0 || fld (recWord ws 3) 11 0 == 4095))

/-- A zero record: DROP with no mirror. -/
def recDrop : List Word := List.replicate 6 0

/-! ### What an instruction does to its context -/

/-- The window bytes of a load (R179): value, and whether it read beyond the frame or window. -/
def loadWindow (f : Frame) (start w : Nat) : Word × Bool :=
  let lim := min f.bytes.length 256
  let at_ := fun i => if start + i < lim then (f.bytes.getD (start + i) 0).toNat else 0
  (BitVec.ofNat 32 ((List.range w).foldl (fun n i => n * 256 + at_ i) 0), decide (lim < start + w))

/-- A metadata field (R180). -/
def metaField (f : Frame) (r : Run) (ctx k : Nat) : Word :=
  BitVec.ofNat 32 <| match k with
  | 0 => f.port
  | 1 => f.tc
  | 2 => f.vid
  | 3 => f.pcp
  | 4 => f.bytes.length
  | 5 => f.seq
  | 6 => r.t.slot.getD 4
  | 7 => f.rxNs
  | 8 => f.rxSec
  | 9 => b2n f.tagged + 2 * b2n f.prio + 4 * b2n (f.macsec != 0)
  | 10 => r.cursor
  | 11 => b2n r.overread + 2 * b2n r.t.express + 4 * (r.t.bank.getD 0)
  | 12 => r.icount
  | _ => ctx

/-- Whether a branch is taken (R184). -/
def branchTaken (r : Run) (cond a : Nat) : Bool :=
  match cond with
  | 0 => true
  | 1 => r.z
  | 2 => !r.z
  | 3 => r.c
  | 4 => !r.c
  | 5 => !r.c && !r.z
  | 6 => r.c || r.z
  | 8 => bitOf (r.reg a) 31
  | _ => !bitOf (r.reg a) 31

/-- The result of an arithmetic or logic instruction (R183). -/
def aluResult (op : Nat) (a x : Word) : Word :=
  match op with
  | 1 => a + x
  | 2 => a - x
  | 3 => a &&& x
  | 4 => a ||| x
  | 5 => a ^^^ x
  | 6 => a <<< fld x 4 0
  | _ => a >>> fld x 4 0

/-- The instruction has issued: ICOUNT and the program counter advance (R172, R194). -/
def Run.issued (r : Run) : Run := { r with icount := r.icount + 1, pc := (r.pc + 1) % 8192 }

/-- CURSOR after a sum, saturating (R179, R180). -/
def satCursor (n : Nat) : Nat := min 0xFFFF n

end Sys2Proof.Machine
end

