-- ==== Sys2Proof/Machine/Prs.lean ====
section
/-! DEFINITION. The parse engines: taking frames, running Addan instructions, results, stops, program banks and
opcodes (R171–R203, R595). -/

namespace Sys2Proof.Machine

/-! ### Contexts -/

/-- The state with PRS replaced. -/
def State.withPrs (s : State) (f : PrsState → PrsState) : State := { s with prs := f s.prs }

def ctxOf (s : State) (c : Nat) : Ctx := tget Ctx.idle s.prs.ctxs c

def setCtx (c : Nat) (x : Ctx) (s : State) : State := s.withPrs (fun p => { p with ctxs := tput Ctx.idle p.ctxs c x })

/-- Counter of the engine of a context. -/
def engReg (c off : Nat) : Nat := rg 5 (0x1000 + c / 8 * 0x40 + off)

def engCount (c off : Nat) (s : State) : State := s.cnt (engReg c off) 1

/-- Instruction word `i` of a bank. -/
def instrWord (s : State) (bank i : Nat) : Word := tget 0 s.prs.store (bank * 8192 + i)

/-- The active bank. -/
def activeBank (s : State) : Option Nat := if s.bit (rg 5 4) 0 then some (s.f (rg 5 4) 1 1) else none

/-- A frame runs from a bank. -/
def bankRuns (s : State) (b : Nat) : Bool := (s.prs.ctxs.flatMap (fun e => e.2.frames)).any (fun t => t.bank == some b)

/-- A bank is inactive and still runs frames (R199). -/
def bankBusy (s : State) (b : Nat) : Bool := activeBank s != some b && bankRuns s b

/-- BANK0_BUSY and BANK1_BUSY follow the frames; a bank that falls idle raises BANK_IDLE (R199). -/
def showBanks (s : State) : State :=
  (List.range 2).foldl (fun s b =>
    let was := s.bit (rg 5 4) (2 + b)
    let now := bankBusy s b
    let s := s.sb (rg 5 4) (2 + b) now
    if was && !now then s.raise 5 4 else s) s

/-- A context's first state for a frame (R178). -/
def Run.start (t : Taken) : Run :=
  { t := t, pc := t.entry, g := List.replicate 16 0, z := false, c := false, cursor := 0, kb := List.replicate 10 0,
    words := recDrop, icount := 0, overread := false, lookups := 0, scans := 0, pend := [], overBudget := false }

/-- Drop a whole frame whose tile check failed at parse (R135, R176, R189). -/
def parseDrop (f : Frame) (tile : Nat) (s : State) : State := dropFrame f (tcwFail f.port f.tiles[tile]? s)

/-- A verdict joins those SWC has not acted on: in order of hand-over, and in ascending context number among those of
one FCLK cycle (R258). -/
def queueVerdict (v : Verdict) (l : List Verdict) : List Verdict :=
  let later := fun (w : Verdict) => w.at_ == v.at_ && decide (v.ctx < w.ctx)
  l.takeWhile (fun w => !later w) ++ v :: l.dropWhile (fun w => !later w)

/-- A frame's record is handed to SWC by context `c` (R193). -/
def giveVerdict (c : Nat) (t : Taken) (words : List Word) (s : State) : State :=
  let v : Verdict := { frame := t.frame, words := words, pour := t.pour, ctx := c, at_ := fclk s }
  s.withSwc (fun w => { w with verdicts := queueVerdict v w.verdicts })

/-- Hand a verdict to SWC, and count the frame (R193). -/
def handVerdict (c : Nat) (t : Taken) (words : List Word) (s : State) : State := engCount c 0 (giveVerdict c t words s)

/-- Load a taken frame to run: a failed header window drops it at once, and the context runs no instruction (R176). -/
def loadRun (c : Nat) (t : Taken) (next : Option Taken) (s : State) : State :=
  if t.bad then
    let s := setCtx c { run := none, next := next } s
    match findFrame s t.frame with
    | some f => parseDrop f 0 s
    | none => s
  else setCtx c { run := some (Run.start t), next := next } s

/-- The scans of other contexts. -/
def withoutCtx (c : Nat) (l : List Scan) : List Scan := l.filter (fun x => x.ctx != c)

/-- A scan joins those that wait: in issue order, and in ascending context number among those of one cycle (R189). -/
def queueScan (x : Scan) (l : List Scan) : List Scan :=
  let later := fun (y : Scan) => y.at_ == x.at_ && decide (x.ctx < y.ctx)
  l.takeWhile (fun y => !later y) ++ x :: l.dropWhile (fun y => !later y)

/-- Give free pattern units to waiting scans from FCLK count `t` on, express ones first (R189). -/
def fillUnits (t : Nat) : Nat → State → State
  | 0, s => s
  | fuel + 1, s =>
    let begin_ := fun (x : Scan) => { x with at_ := max t x.at_ + x.cycles }
    if s.prs.units.length < 4 then
      match s.prs.waitExpress, s.prs.waitNormal with
      | x :: r, _ => fillUnits t fuel (s.withPrs (fun p => { p with units := p.units ++ [begin_ x], waitExpress := r }))
      | [], x :: r => fillUnits t fuel (s.withPrs (fun p => { p with units := p.units ++ [begin_ x], waitNormal := r }))
      | [], [] => s
    else s

/-- Waiting scans issued before FCLK count `t` have taken the pattern units that were free; those issued in one cycle
go by kind and context number, so a free unit is given only once the cycle is over (R189). -/
def settleUnits (t : Nat) (s : State) : State :=
  if (s.prs.waitExpress ++ s.prs.waitNormal).any (fun x => decide (x.at_ < t)) then fillUnits 0 4 s else s

/-- Cycles a pattern unit spends on a scan of frame `f` from byte `start` (R188). -/
def scanCycles (f : Frame) (start : Nat) : Nat := 8 + (min 2048 (f.bytes.length - start) + 31) / 32

/-- The frame in progress ends: pending work is cancelled, the second buffer's frame becomes current, and slots and
banks show it (R174, R193). -/
def endRun (c : Nat) (s : State) : State :=
  let s := settleUnits (fclk s) s
  let freed := (s.prs.units.filter (fun x => x.ctx == c)).length
  let s := s.withPrs (fun p => { p with units := withoutCtx c p.units, waitExpress := withoutCtx c p.waitExpress,
                                        waitNormal := withoutCtx c p.waitNormal })
  let s := fillUnits (fclk s) freed s
  let s := match (ctxOf s c).next with
    | some t => loadRun c t none s
    | none => setCtx c Ctx.idle s
  showRul (showBanks s)

/-- MAX_PATH keeps the largest final ICOUNT. -/
def maxPath (c icount : Nat) (s : State) : State :=
  s.wr (engReg c 0x1C) (BitVec.ofNat 32 (max icount (s.rd (engReg c 0x1C)).toNat))

/-- Hand the record of the frame in progress and end it. -/
def finishRun (c : Nat) (r : Run) (words : List Word) (s : State) : State :=
  endRun c (maxPath c r.icount (handVerdict c r.t words s))

/-- The record a stop hands over (R194). -/
def stopRecord (r : Run) (s : State) : List Word :=
  if s.bit (rg 5 8) 0 && !recIllegal r.words then r.words else recDrop

/-- The watchdog or an illegal instruction stops the frame (R194): counter at `off`, event bit `ev`. -/
def stopRun (c : Nat) (r : Run) (off ev : Nat) (s : State) : State :=
  finishRun c r (stopRecord r s) ((engCount c off s).raise 5 ev)

/-! ### Taking frames (R173–R176, R198) -/

/-- Queue of a port and kind: 0 normal, 1 express. -/
def fifoOf (s : State) (p kind : Nat) : List Nat := tget [] s.swc.fifo (p * 2 + kind)

/-- The next port in round-robin order that has a frame waiting. -/
def nextPort (s : State) (kind last : Nat) : Option Nat := firstFrom (fun p => !(fifoOf s p kind).isEmpty) (last + 1) 21

/-- Take the head of the next port's queue of a kind. -/
def takeHead (kind : Nat) (s : State) : Option (Nat × State) :=
  match nextPort s kind (if kind = 1 then s.prs.rrExpress else s.prs.rrNormal) with
  | none => none
  | some p =>
    match fifoOf s p kind with
    | [] => none
    | f :: r =>
      let s := s.withSwc (fun w => { w with fifo := tput [] w.fifo (p * 2 + kind) r })
      some (f, s.withPrs (fun x => if kind = 1 then { x with rrExpress := p } else { x with rrNormal := p }))

/-- A frame waits in a queue of a kind. -/
def frameWaits (s : State) (kind : Nat) : Bool := (nextPort s kind 0).isSome

/-- The kind of queue context `c` takes its next frame from: an idle context from an express queue first; from the
normal queues only where no express frame waits, unless the context is express-only; a context with a frame in progress
into its second buffer, from the normal queues only (R173, R174). -/
def takesFrom (s : State) (c : Nat) : Option Nat :=
  let x := ctxOf s c
  if engineFitted s.tier (c / 8) = false ∨ ¬ c < 64 then none
  else if frameWaits s 1 then (if x.run.isNone then some 1 else none)
  else if frameWaits s 0 && decide (c % 8 ≠ 7) && (x.run.isNone || x.next.isNone) then some 0
  else none

/-- A context of a lower number chooses first among those that take from one kind of queue (R173, R174). -/
def outChosen (s : State) (c kind : Nat) : Bool := (List.range c).any (fun d => takesFrom s d == some kind)

/-- The frame at the head of the next port's queue of a kind, taken under the current pour and bank. -/
def takeFrame (kind : Nat) (bad : Bool) (s : State) : Option (Taken × State) :=
  (takeHead kind s).map (fun x =>
    let cur := currentPour s
    ({ frame := x.1, bad := bad, slot := cur.map Prod.fst, pour := cur.map Prod.snd, express := kind == 1,
       bank := activeBank s, entry := s.f (rg 5 4) 28 16 }, x.2))

/-- A context has taken a frame: it runs it, or keeps it in its second buffer. Without an active bank the frame is
handed on as a DROP record (R198). -/
def holdTaken (c : Nat) (t : Taken) (s : State) : State :=
  if t.bank.isNone then handVerdict c t recDrop ((s.cnt (rg 5 0xC) 1).raise 5 3)
  else if (ctxOf s c).run.isNone then showRul (showBanks (loadRun c t none s))
  else showRul (showBanks (setCtx c { ctxOf s c with next := some t } s))

/-- Context `c` takes its next frame, where no lower context chooses before it; `bad` says that the header window's
check failed (R173, R174, R176). -/
def execFrameTake (c : Nat) (bad : Bool) (s : State) : Out :=
  act (fun s =>
    match takesFrom s c with
    | none => s
    | some k =>
      if outChosen s c k then s
      else
        match takeFrame k bad s with
        | none => s
        | some (t, s) => holdTaken c t s) s

/-! ### Issuing instructions -/

/-- The state with the run of a context replaced. -/
def prsSetRun (c : Nat) (r : Run) (s : State) : State := setCtx c { ctxOf s c with run := some r } s

/-- The next instruction exceeds a limit of the express budget (R195). -/
def exceeds (r : Run) (i : Addan) : Bool :=
  r.t.express && (decide (96 ≤ r.icount) || ((i.op == 17 || i.op == 18) && decide (4 ≤ r.lookups)) ||
    (i.op == 19 && decide (1 ≤ r.scans)))

/-- Values an operand or the record rules out (R191, R193). -/
def operandIllegal (r : Run) (i : Addan) : Bool :=
  (i.op == 20 && decide (65536 ≤ fld (i.x r) 30 0)) || (i.op == 23 && recIllegal r.words)

/-- Count an overrun of the express budget (R195). -/
def countOver (c : Nat) (s : State) : State := (engCount c 0x14 s).raise 5 2

/-- The next instruction of context `c` issues, if its opcode is `op`: watchdog, form, stall, operand and budget
decide first (R183, R187, R194, R195); then `f` acts. -/
def issue (c op : Nat) (f : Addan → Frame → Run → State → State) (s : State) : State :=
  match (ctxOf s c).run with
  | none => s
  | some r =>
    let w := instrWord s (r.t.bank.getD 0) r.pc
    if fld w 31 26 ≠ op then s
    else if 512 ≤ r.icount then stopRun c r 0xC 0 s
    else match decodeAddan w, findFrame s r.t.frame with
      | some i, some fr =>
        if r.stalls i then engCount c 8 s
        else if operandIllegal r i then stopRun c r 0x10 1 s
        else
          let first := exceeds r i && !r.overBudget
          let s := if first then countOver c s else s
          if first && s.bit (rg 5 8) 1 then finishRun c r (stopRecord r s) s
          else
            let r := if first then { r with overBudget := true } else r
            f i fr r (engCount c 4 s)
      | _, _ => stopRun c r 0x10 1 s

/-- An instruction that changes its run alone. -/
def issueRun (c op : Nat) (f : Addan → Frame → Run → Run) (s : State) : Out :=
  act (issue c op (fun i fr r s => prsSetRun c (f i fr r).issued s)) s

/-- An arithmetic or logic instruction. -/
def aluRun (i : Addan) (_ : Frame) (r : Run) : Run := r.setReg i.d (aluResult i.op (r.reg i.a) (i.x r))

def execAdd (c : Nat) (s : State) : Out := issueRun c 1 aluRun s
def execSub (c : Nat) (s : State) : Out := issueRun c 2 aluRun s
def execAnd (c : Nat) (s : State) : Out := issueRun c 3 aluRun s
def execOr (c : Nat) (s : State) : Out := issueRun c 4 aluRun s
def execXor (c : Nat) (s : State) : Out := issueRun c 5 aluRun s
def execShl (c : Nat) (s : State) : Out := issueRun c 6 aluRun s
def execShr (c : Nat) (s : State) : Out := issueRun c 7 aluRun s

/-- MOVI: g[D] = IMM16 (R183). -/
def execMovi (c : Nat) (s : State) : Out := issueRun c 8 (fun i _ r => r.setReg i.d (BitVec.ofNat 32 i.imm)) s

/-- MOVHI: IMM16 into the high half (R183). -/
def execMovhi (c : Nat) (s : State) : Out :=
  issueRun c 9 (fun i _ r => r.setReg i.d (BitVec.ofNat 32 (i.imm * 65536 + fld (r.reg i.d) 15 0))) s

/-- EXT: a bit field of g[A] (R183). -/
def execExt (c : Nat) (s : State) : Out :=
  issueRun c 10 (fun i _ r =>
    r.setReg i.d (BitVec.ofNat 32 (((r.reg i.a).toNat >>> (i.imm % 32)) % 2 ^ (i.imm / 32 % 32 + 1)))) s

/-- CMP: Z and C (R183). -/
def execCmp (c : Nat) (s : State) : Out :=
  issueRun c 11 (fun i _ r => { r with z := r.reg i.a == i.x r, c := decide ((r.reg i.a).toNat < (i.x r).toNat) }) s

/-- LD: window bytes at CURSOR + X; an overread counts once (R179). -/
def execLd (c : Nat) (s : State) : Out :=
  act (issue c 12 (fun i fr r s =>
    let v := loadWindow fr (r.cursor + (i.x r).toNat) (2 ^ i.a)
    let s := if v.2 then engCount c 0x18 s else s
    prsSetRun c ({ r.setReg i.d v.1 with overread := r.overread || v.2 }).issued s)) s

/-- ADV: CURSOR advances, saturating (R179, R183). -/
def execAdv (c : Nat) (s : State) : Out :=
  issueRun c 13 (fun i _ r => { r with cursor := satCursor (r.cursor + (i.x r).toNat) }) s

/-- LDM: a metadata field (R180). -/
def execLdm (c : Nat) (s : State) : Out := issueRun c 14 (fun i fr r => r.setReg i.d (metaField fr r c i.imm)) s

/-- STM: CURSOR, the one field that can be written (R180). -/
def execStm (c : Nat) (s : State) : Out :=
  issueRun c 15 (fun i _ r => { r with cursor := satCursor (r.reg i.a).toNat }) s

/-- PUTK: a key buffer word (R183). -/
def execPutk (c : Nat) (s : State) : Out := issueRun c 16 (fun i _ r => { r with kb := lset r.kb i.imm (r.reg i.a) }) s

/-- A lookup issues: its result waits to land (R185–R187). -/
def startLookup (c : Nat) (i : Addan) (r : Run) (x : Word × State) : State :=
  prsSetRun c ({ r with lookups := r.lookups + 1, pend := r.pend ++ [Pend.look i.d x.1] }).issued x.2

def execLkf (c : Nat) (s : State) : Out :=
  act (issue c 17 (fun i _ r s => startLookup c i r (lookupFlow r.t.pour r.kb s))) s

def execLka (c : Nat) (s : State) : Out :=
  act (issue c 18 (fun i _ r s => startLookup c i r (lookupAcl r.t.pour r.kb s))) s

/-- SCAN: it waits for a pattern unit (R188, R189). -/
def execScan (c : Nat) (s : State) : Out :=
  act (issue c 19 (fun i fr r s =>
    let start := (r.reg i.a).toNat
    let x : Scan := { ctx := c, n := r.scans, cycles := scanCycles fr start, at_ := fclk s }
    let r' := { r with scans := r.scans + 1, pend := r.pend ++ [Pend.scan i.d r.scans start i.imm] }
    let s := prsSetRun c r'.issued s
    (settleUnits (fclk s) s).withPrs (fun p =>
      if r.t.express then { p with waitExpress := queueScan x p.waitExpress }
      else { p with waitNormal := queueScan x p.waitNormal }))) s

/-- VLOAD: the set fields of a verdict entry (R191, R226). -/
def execVload (c : Nat) (s : State) : Out :=
  act (issue c 20 (fun i _ r s =>
    let p := verdictLoad r.t.pour (fld (i.x r) 30 0) s
    let ws := match p.1 with
      | some e => vload e r.words
      | none => r.words
    prsSetRun c ({ r with words := ws }).issued p.2)) s

/-- VSET: one record field (R191). -/
def execVset (c : Nat) (s : State) : Out := issueRun c 21 (fun i _ r => { r with words := vset i.d (i.x r) r.words }) s

/-- CNT: a user counter (R183). -/
def execCnt (c : Nat) (s : State) : Out :=
  act (issue c 22 (fun i _ r s => prsSetRun c r.issued (s.cnt (rg 5 (0x2000 + fld (i.x r) 7 0 * 4)) 1))) s

/-- DONE: hand the record to SWC and end the frame (R193). -/
def execDone (c : Nat) (s : State) : Out := act (issue c 23 (fun _ _ r s => finishRun c r.issued r.words s)) s

/-- BR: to TARGET where the condition holds (R184). -/
def execBr (c : Nat) (s : State) : Out :=
  issueRun c 24 (fun i _ r => if branchTaken r i.d i.a then { r with pc := (i.imm + 8191) % 8192 } else r) s

/-! ### Results and stops -/

/-- Remove the first pending item that satisfies `p`. -/
def firstPend (p : Pend → Bool) : List Pend → Option Pend × List Pend
  | [] => (none, [])
  | x :: r => if p x then (some x, r) else ((firstPend p r).1, x :: (firstPend p r).2)

/-- The oldest pending lookup of a context lands (R186, R187). -/
def execLookupResult (c : Nat) (s : State) : Out :=
  act (fun s =>
    match (ctxOf s c).run with
    | none => s
    | some r =>
      match firstPend (fun p => match p with
        | .look _ _ => true
        | .scan _ _ _ _ => false) r.pend with
      | (some (.look d w), rest) => prsSetRun c { r.setReg d w with pend := rest } s
      | _ => s) s

/-- The scan of a list that ends first; of two that end together, the earlier. -/
def firstEnd : List Scan → Option Scan
  | [] => none
  | x :: r =>
    match firstEnd r with
    | some y => some (if y.at_ < x.at_ then y else x)
    | none => some x

/-- A pattern unit finishes a scan of a context: of those it has on units, the one that ends first (R188, R189). `bad`
is the frame's tile whose check failed, where one did: the frame is then dropped whole. -/
def execScanResult (c : Nat) (bad : Option Nat) (s : State) : Out :=
  act (fun s =>
    let s := fillUnits 0 4 s
    match (ctxOf s c).run with
    | none => s
    | some r =>
      match firstEnd (s.prs.units.filter (fun x => x.ctx == c)), findFrame s r.t.frame with
      | some x, some f =>
        match bad, firstPend (fun p => match p with
            | .look _ _ => false
            | .scan _ n _ _ => n == x.n) r.pend with
        | some t, _ => endRun c (parseDrop f t (maxPath c r.icount s))
        | none, (some (.scan d _ start group), rest) =>
          let s := prsSetRun c { r.setReg d (scanWord r.t.pour group start f s) with pend := rest } s
          fillUnits x.at_ 4 (s.withPrs (fun p => { p with units := p.units.erase x }))
        | none, _ => s
      | _, _ => s) s

/-- The watchdog stops the frame as its 513th instruction would issue; an illegal instruction stops it the same way
(R194). -/
def execWatchdogStop (c : Nat) (s : State) : Out :=
  act (fun s =>
    match (ctxOf s c).run with
    | none => s
    | some r =>
      if 512 ≤ r.icount then stopRun c r 0xC 0 s
      else if (decodeAddan (instrWord s (r.t.bank.getD 0) r.pc)).isNone then stopRun c r 0x10 1 s
      else s) s

/-- The next instruction of an express frame exceeds the budget (R195): counted once, and stopped when enforced. -/
def execExpressOver (c : Nat) (s : State) : Out :=
  act (fun s =>
    match (ctxOf s c).run with
    | none => s
    | some r =>
      match decodeAddan (instrWord s (r.t.bank.getD 0) r.pc) with
      | none => s
      | some i =>
        if r.icount < 512 ∧ exceeds r i = true ∧ r.overBudget = false ∧ r.stalls i = false ∧
            operandIllegal r i = false then
          let s := countOver c s
          if s.bit (rg 5 8) 1 then finishRun c r (stopRecord r s) s else prsSetRun c { r with overBudget := true } s
        else s) s

/-! ### Opcodes (R200–R203) -/

def opsPrs : List OpSpec :=

  [{ opcode := 0x0500, lenLo := 12, lenHi := 32776, lenOk := fun n => n % 4 == 0, instHi := 1, classHi := 7, block := 5,
     mask := fun _ => .bit 8, buf := .input, lenNeed := fun bs => some (8 + 4 * leAt bs 4 4) },
   { opcode := 0x0501, lenLo := 8, lenHi := 8, instHi := 1, classHi := 7, block := 5, mask := fun _ => .bit 8 },
   { opcode := 0x0502, lenLo := 8, lenHi := 8, instHi := 1, classHi := 7, block := 5, mask := fun _ => .bit 8,
     buf := .output },
   { opcode := 0x0503, lenLo := 4, lenHi := 4, classHi := 7, block := 5, mask := fun _ => .bit 8 },
   { opcode := 0x0504, lenLo := 0, lenHi := 0, instHi := 7, classHi := 7, block := 5,
     mask := fun c => .bit c.inst, fitted := fun s c => engineFitted s.tier c.inst }]

/-- A range of instructions outside a bank (PROG_RANGE). -/
def progRange (start count : Nat) : Bool := count == 0 || decide (8192 < start + count)

/-- Write instruction words from an index upward. -/
def putWords (base : Nat) : List Word → State → State
  | [], s => s
  | w :: r, s => putWords (base + 1) r (s.withPrs (fun p => { p with store := tput 0 p.store base w }))

/-- WRONG_STATE of a bank that is active or busy. -/
def bankHeld (s : State) (b : Nat) (k : CmdOut) : CmdOut :=
  if activeBank s = some b then wrongState 0x101 b
  else if bankBusy s b then wrongState 0x102 b
  else k

def effPrsProgLoad : CmdEff := fun c s =>
  let start := c.p 32 4
  let count := c.p 36 4
  if progRange start count then badParam 0x100 32 ((start + count) % 2 ^ 32)
  else if c.len ≠ 8 + 4 * count then .fail stLength 6 6 (8 + 4 * count)
  else bankHeld s c.inst <|
    .done (putWords (c.inst * 8192 + start) ((List.range count).map (fun i => c.w (40 + 4 * i))) s)

/-- CRC-32C over the 8,192 words of a bank. -/
def bankCrc (s : State) (b : Nat) : Word := crc32c ((List.range 8192).flatMap (fun i => leBytes 4 (instrWord s b i).toNat))

def effPrsProgActivate : CmdEff := fun c s =>
  if c.p 32 4 > 8191 then badParam 0x103 32 (c.p 32 4)
  else bankHeld s c.inst <|
    let crc := bankCrc s c.inst
    if crc ≠ c.w 36 then .fail stIntegrity 0x104 36 crc.toNat
    else
      let old := activeBank s
      let s := ((s.sb (rg 5 4) 0 true).sf (rg 5 4) 1 1 c.inst).sf (rg 5 4) 28 16 (c.p 32 4)
      let idle := match old with
        | some b => !bankRuns s b
        | none => false
      .done (if idle then s.raise 5 4 else showBanks s)

def effPrsProgRead : CmdEff := fun c s =>
  let start := c.p 32 4
  let count := c.p 36 4
  if progRange start count then badParam 0x100 32 ((start + count) % 2 ^ 32)
  else .res s ((List.range count).flatMap (fun i => leBytes 4 (instrWord s c.inst (start + i)).toNat))

def effPrsSetCfg : CmdEff := fun c s =>
  if c.p 32 4 ≥ 4 then reservedField c 32 else .done (s.wr (rg 5 8) (c.w 32))

def effPrsCounters : CmdEff := fun c s =>
  let r := takeCounters (regRun (rg 5 (0x1000 + c.inst * 0x40)) 8) s
  .res r.2 r.1

def execPrsProgLoad (ring slot : Nat) (s : State) : Out := opRow (specOf opsPrs 0x0500) effPrsProgLoad ring slot s

def execPrsProgActivate (ring slot : Nat) (s : State) : Out :=
  opRow (specOf opsPrs 0x0501) effPrsProgActivate ring slot s

def execPrsProgRead (ring slot : Nat) (s : State) : Out := opRow (specOf opsPrs 0x0502) effPrsProgRead ring slot s

def execPrsSetCfg (ring slot : Nat) (s : State) : Out := opRow (specOf opsPrs 0x0503) effPrsSetCfg ring slot s

def execPrsCounters (ring slot : Nat) (s : State) : Out := opRow (specOf opsPrs 0x0504) effPrsCounters ring slot s

/-- What a BLOCK reset of PRS does to the frames in PRS: each is handed on as a DROP record, counted nowhere (R595). -/
def prsResetFrames (s : State) : State :=
  (s.prs.ctxs.flatMap (fun e => e.2.frames.map (fun t => (e.1, t)))).foldl (fun s x => giveVerdict x.1 x.2 recDrop s) s

end Sys2Proof.Machine
end

