-- ==== Sys2Proof/Machine/Qry.lean ====
section
/-! DEFINITION. The commands of Quarry and of the sprue FIFOs (R365–R386, R602). -/

namespace Sys2Proof.Machine

/-! ### Pools -/

/-- Enable or store a pool's configuration; every block becomes FREE at an enable. -/
def setPoolCfg (p base : Nat) (cfg : Word) (s : State) : State :=
  let s := (s.wr (poolReg p 0) (BitVec.ofNat 32 (base / 64 * 64))).wr (poolReg p 4) (BitVec.ofNat 32 (base / 2 ^ 32 % 256))
  setPool p Pool.zero (s.wr (poolReg p 8) cfg)

/-- A write of POOL_CFG (R366). -/
def execPoolCfgWrite (m p : Nat) (v : Word) (s : State) : Out :=
  withWrite 11 (0x108 + p * 0x10) (.bit 32) m (fun s =>
    if 8 ≤ p then .ok s
    else if v &&& ~~~ 0x301FFFF#32 ≠ 0 then unpredictable 11
    else if poolEn s p then
      .ok (if bitOf v 24 || poolBusy s p != 0 then s else setPool p Pool.zero (s.sb (poolReg p 8) 24 false))
    else if 65536 < fld v 16 0 then unpredictable 11
    else if bitOf v 24 && !placeOk s p (poolBase s p) (fld v 16 0) (bitOf v 25) then unpredictable 11
    else .ok (setPoolCfg p (poolBase s p) v s)) s

/-- A read of ALLOC_LO (R369). -/
def execAllocRead (m r : Nat) (s : State) : Out :=
  withRead 11 (0x1044 + r * 0x80) (.bit r) m (fun s =>
    if 32 ≤ r then s.reply m [0] false
    else
      let x := alloc r (s.f (reqReg r 0x40) 13 0) s
      let latch := fun (w : Nat) (s : State) =>
        s.withQry (fun q => { q with allocHi := tput 0 q.allocHi (m * 32 + r) (BitVec.ofNat 32 w) })
      match x.1 with
      | .inl a => (latch (a.1 / 2 ^ 32 % 256 + a.2 * 256) x.2).reply m [BitVec.ofNat 32 a.1] false
      | .inr e => (latch (e.1 * 65536) x.2).reply m [0] false) s

/-- A write of FREE_HI commits a free (R372). -/
def execFreeCommit (m r : Nat) (v : Word) (s : State) : Out :=
  withWrite 11 (0x1050 + r * 0x80) (.bit r) m (fun s =>
    if 32 ≤ r then .ok s
    else if fld v 31 8 ≠ 0 then unpredictable 11
    else .ok (free r (fld v 7 0 * 2 ^ 32 + (s.rd (reqReg r 0x4C)).toNat) s).2) s

/-- A scrub finishes: master 0x28 has written the block with zeros and it becomes FREE (R371). Where the fabric refuses
the write (R89), the block is not zero: it stays in scrub. -/
def execScrubDone (p k : Nat) (s : State) : Out :=
  act (fun s =>
    let x := pool s p
    if p < 8 ∧ x.scrub.contains k = true then
      let a := poolBase s p + k * poolSize p
      match s.badByte 0x28 a (poolSize p) true with
      | some y => s.accessFault 0x28 y true
      | none =>
        let s := s.dmaPut 0x28 a (List.replicate (poolSize p) 0)
        (setPool p { x with scrub := x.scrub.filter (· != k), freed := x.freed ++ [k] } s).cnt (rg 11 0xA0) 1
    else s) s

/-- A read of QRY.ERR_POP_LO pops the oldest log entry (R373). -/
def execQryErrPop (m : Nat) (s : State) : Out :=
  withRead 11 0x40 .none m (fun s =>
    let e := s.qry.log.headD LogEntry.none
    let s := s.withQry (fun q => { q with log := q.log.tail, latch := tput LogEntry.none q.latch m e })
    (s.sf (rg 11 0x48) 3 0 s.qry.log.length).reply m [e.lo] false) s

/-! ### Sprue FIFOs -/

/-- FIFOs 25–47. -/
def soft (n : Nat) : Bool := decide (25 ≤ n) && decide (n < 48)

def sprEn (s : State) (n : Nat) : Bool := s.bit (sprReg n 0) 0
def sprProducer (s : State) (n : Nat) : Nat := s.f (sprReg n 0) 14 8
def sprConsumer (s : State) (n : Nat) : Nat := s.f (sprReg n 0) 22 16

/-- A write of PUSH_CMD by the FIFO's producer; any other master's is dropped (R381). -/
def sprWrite (m n : Nat) (f : State → Ans) (s : State) : Out :=
  withWrite 11 (0x4010 + n * 0x40) (.bit (sprMask n)) m (fun s =>
    if !soft n then .ok s
    else if sprProducer s n ≠ m then .ok (s.drop m)
    else if sprEn s n then f s else .ok s) s

/-- Push the word in PUSH_LO and PUSH_HI with a TAG. -/
def sprPush (n tag : Nat) (s : State) : State :=
  let d := (s.rd (sprReg n 0xC)).toNat * 2 ^ 32 + (s.rd (sprReg n 8)).toNat
  let r := (fifo s n).push (.mk' d tag)
  let s := setFifo n r.1 s
  if r.2 then (s.cnt (sprReg n 0x28) 1).raise 11 3 else s

def execSpruePushData (m n : Nat) (s : State) : Out := sprWrite m n (fun s => .ok (sprPush n 0 s)) s
def execSpruePushEnd (m n : Nat) (s : State) : Out := sprWrite m n (fun s => .ok (sprPush n 1 s)) s
def execSpruePushPoison (m n : Nat) (s : State) : Out := sprWrite m n (fun s => .ok (sprPush n 3 s)) s

/-- REWIND of the open packet (R379). -/
def sprRewind (n : Nat) (s : State) : State :=
  let x := fifo s n
  if x.written = 0 then setFifo n x.cycle s else (setFifo n x.cycle.close s).cnt (sprReg n 0x2C) 1

/-- A REWIND of the open packet (R379). -/
def execSprueRewind (m n : Nat) (s : State) : Out := sprWrite m n (fun s => .ok (sprRewind n s)) s

/-- A whole word written to PUSH_CMD: OP in bits 1:0 (R381). -/
def pushCmd (m n : Nat) (v : Word) (s : State) : Out :=
  sprWrite m n (fun s =>
    if fld v 31 2 ≠ 0 then unpredictable 11
    else match fld v 1 0 with
      | 0 => .ok (sprPush n 0 s)
      | 1 => .ok (sprPush n 1 s)
      | 2 => .ok (sprPush n 3 s)
      | _ => .ok (sprRewind n s)) s

/-- A read of POP_LO by the consumer (R382). `bad` says that the word in stage 0 has wrong parity (R378). -/
def execSpruePop (m n : Nat) (bad : Bool) (s : State) : Out :=
  withRead 11 (0x4014 + n * 0x40) (.bit (sprMask n)) m (fun s =>
    if !soft n then s.reply m [0] false
    else if sprConsumer s n ≠ m then (s.refuseRead 11 m).reply m [0] false
    else
      let x := fifo s n
      let info := fun (w hi : Nat) (s : State) =>
        (s.wr (sprReg n 0x18) (BitVec.ofNat 32 hi)).wr (sprReg n 0x1C) (BitVec.ofNat 32 w)
      match x.stages with
      | some w :: r =>
        let t := x.take bad w r
        let s := sprParity n t.2.2 (setFifo n t.1.cycle (info (t.2.1 + 4) (w.data / 2 ^ 32) s))
        s.reply m [BitVec.ofNat 32 w.data] false
      | _ => (setFifo n x.cycle (info 0 0 s)).reply m [0] false) s

/-- A write of CONS_CTRL by the FIFO's consumer; any other master's is dropped. -/
def consCtrl (m n : Nat) (v : Word) (s : State) : Out :=
  withWrite 11 (0x4020 + n * 0x40) (.bit (sprMask n)) m (fun s =>
    let x := fifo s n
    if !soft n then .ok s
    else if sprConsumer s n ≠ m then .ok (s.drop m)
    else if fld v 31 1 ≠ 0 then unpredictable 11
    else if bitOf v 0 && x.mid && !x.dropping then
      .ok ((setFifo n { x with dropping := true }.cycle s).cnt (sprReg n 0x30) 1)
    else .ok s) s

/-- A write of CONS_CTRL.DROP_REST by the consumer (R380). -/
def execSprueDropRest (m n : Nat) (s : State) : Out := consCtrl m n 1 s

/-! ### Registers -/

/-- Clear a FIFO's EN: it empties (R602). -/
def sprDisable (n : Nat) (s : State) : State := setFifo n Fifo.zero (s.sb (sprReg n 0) 0 false)

/-- Software's write of a QRY register that has no row. -/
def qryWrite (m off : Nat) (v : Word) (s : State) : Option Ans :=
  if 0x100 ≤ off ∧ off < 0x180 then
    let p := (off - 0x100) / 0x10
    if poolEn s p then some (.ok s) else none
  else if 0x1000 ≤ off ∧ off < 0x2000 ∧ off % 0x80 < 0x20 then
    some (if 65536 < v.toNat then unpredictable 11 else .ok (s.wr (rg 11 off) v))
  else if 0x4640 ≤ off ∧ off < 0x4C00 then
    let n := (off - 0x4000) / 0x40
    let o := off % 0x40
    if o = 0 then
      if sprEn s n then some (.ok (if bitOf v 0 then s else sprDisable n s)) else none
    else if o = 8 ∨ o = 0xC then (if sprProducer s n = m then none else some (.ok (s.drop m)))
    else none
  else none

/-! ### Opcodes (R384) -/

def opsQry : List OpSpec :=
  let req := fun (op len : Nat) =>
    ({ opcode := op, lenLo := len, lenHi := len, instHi := 31, classHi := 47, block := 11, mask := fun c => .bit c.inst } : OpSpec)
  [{ opcode := 0x0B00, lenLo := 16, lenHi := 16, classHi := 47, block := 11, mask := fun _ => .bit 32 }, req 0x0B01 32,
   req 0x0B02 4, req 0x0B03 8,
   { opcode := 0x0B04, lenLo := 0, lenHi := 0, classHi := 47, block := 11, mask := fun _ => .bit 32 },
   { opcode := 0x0B10, lenLo := 4, lenHi := 4, instHi := 47, classHi := 47, block := 11,
     mask := fun c => .bit (sprMask c.inst) }]

def effQryPoolCfg : CmdEff := fun c s =>
  let p := c.p 32 1
  let fl := c.p 33 1
  let n := c.p 36 4
  let base := c.p 40 8
  if 7 < p then badParam 0x10A 32 0
  else if 3 < fl then reservedField c 33
  else if c.zero 34 2 = false then reservedField c 34
  else if 65536 < n then badParam 0x10A 36 0
  else if 2 ^ 40 ≤ base then reservedField c 44
  else if fl.testBit 0 && !placeOk s p base n (fl.testBit 1) then badParam 0x100 40 p
  else if poolBusy s p ≠ 0 then wrongState 0x101 (poolBusy s p)
  else .done (setPoolCfg p base (BitVec.ofNat 32 (n + fl * 2 ^ 24)) s)

def effQryReqCfg : CmdEff := fun c s =>
  match (List.range 8).find? (fun p => decide (65536 < c.p (32 + 4 * p) 4)) with
  | some p => badParam 0x10A (32 + 4 * p) 0
  | none => .done ((List.range 8).foldl (fun s p => s.wr (reqReg c.inst (4 * p)) (c.w (32 + 4 * p))) s)

def effQryAlloc : CmdEff := fun c s =>
  let x := alloc c.inst (c.p 32 4) s
  match x.1 with
  | .inl a => .res x.2 (leBytes 8 a.1 ++ leBytes 1 a.2 ++ [0, 0, 0])
  | .inr e => .part x.2 e.1 e.2.1 (if e.1 = stBadParam ∨ e.2.1 = 0x103 then 32 else noOffset) e.2.2

def effQryFree : CmdEff := fun c s =>
  if 2 ^ 40 ≤ c.p 32 8 then reservedField c 36
  else
    let x := free c.inst (c.p 32 8) s
    match x.1 with
    | none => .done x.2
    | some e => .part x.2 stBadParam (0x105 + e.1) 32 e.2

def effQryStatus : CmdEff := fun _ s =>
  let r := takeCounters (regRun (rg 11 0x80) 9) s
  .res r.2 ((List.range 8).flatMap (fun p => leBytes 4 (poolFree s p)) ++ r.1)

def effSprCfg : CmdEff := fun c s =>
  let n := c.inst
  if !soft n then badParam 0x10A 8 0
  else if 1 < c.p 32 1 then reservedField c 32
  else if c.zero 35 1 = false then reservedField c 35
  else if 127 < c.p 33 1 then badParam 0x10A 33 0
  else if 127 < c.p 34 1 then badParam 0x10A 34 0
  else if sprEn s n then
    if c.p 32 1 = 0 then .done (sprDisable n s) else wrongState 0x109 n
  else .done (s.wr (sprReg n 0) (BitVec.ofNat 32 (c.p 32 1 + c.p 33 1 * 256 + c.p 34 1 * 65536)))

def execQryPoolCfg (ring slot : Nat) (s : State) : Out := opRow (specOf opsQry 0x0B00) effQryPoolCfg ring slot s
def execQryReqCfg (ring slot : Nat) (s : State) : Out := opRow (specOf opsQry 0x0B01) effQryReqCfg ring slot s
def execQryAlloc (ring slot : Nat) (s : State) : Out := opRow (specOf opsQry 0x0B02) effQryAlloc ring slot s
def execQryFree (ring slot : Nat) (s : State) : Out := opRow (specOf opsQry 0x0B03) effQryFree ring slot s
def execQryStatus (ring slot : Nat) (s : State) : Out := opRow (specOf opsQry 0x0B04) effQryStatus ring slot s
def execSprCfg (ring slot : Nat) (s : State) : Out := opRow (specOf opsQry 0x0B10) effSprCfg ring slot s

end Sys2Proof.Machine
end

