-- ==== Sys2Proof/Machine/Rul.lean ====
section
/-! DEFINITION. The rule tables' commands: pours, changes, retirement, sweeps and opcodes (R204–R236). -/

namespace Sys2Proof.Machine

/-! ### Changes (R208–R213) -/

/-- The staged pour, for a change command of its owner (R209). A command that has started keeps its pour and is not
judged again (R69, R213). -/
def withStaged (c : Cmd) (s : State) (k : Staging → CmdOut) : CmdOut :=
  match s.rul.staged with
  | none => wrongState 0x100 0
  | some x =>
    if c.running then k x
    else if x.committing then wrongState 0x100 0
    else if x.owner ≠ c.issuer then wrongState 0x102 x.owner
    else k x

/-- The state with the staged pour's log replaced. -/
def setLog (x : Staging) (log : List Change) (s : State) : State :=
  showRul (s.withRul (fun r => { r with staged := some { x with log := log } }))

/-- The log of the staged pour has no room for `n` more changes of command `c` (R212). A change that waits keeps the
room it found as it started. -/
def logFull (c : Cmd) (x : Staging) (n : Nat) (s : State) : Bool :=
  !c.running && decide (16384 < x.log.length + keptLog s + n)

/-- The staged pour's log takes `add` changes, while it holds at most 16,384 (R212). -/
def logAdd (c : Cmd) (x : Staging) (add : List Change) (s : State) (k : State → CmdOut) : CmdOut :=
  if logFull c x add.length s then .fail stLimit 0x103 noOffset 16384
  else k (setLog x (x.log ++ add) s)

/-- A change starts to wait for a sweep: K of its layout and the room it needs are kept (R69, R213). -/
def waitChange (c : Cmd) (k n : Nat) (s : State) : CmdOut :=
  if c.running then .wait s else .wait (markRunning { c with kept := k + 16 * n } s)

/-- Number of the CURRENT pour; entries born in the staged one are never visible under it. -/
def visibleNow {α : Type} (s : State) (e : Entry α) : Bool :=
  match currentPour s with
  | some (_, p) => e.marks.visible p
  | none => false

/-- A write at an index that holds `old` (R210): `put` stores the new entry. -/
def indexWrite {α : Type} (c : Cmd) (table i : Nat) (old : Option (Entry α)) (v : α) (x : Staging) (s : State)
    (put : Entry α → State → State) : CmdOut :=
  match old with
  | none =>
    logAdd c x [{ table := table, key := i, birth := true }] s (fun s =>
      .done (put { val := v, marks := { birth := some x.pour, death := none } } s))
  | some e =>
    if e.marks.birth = some x.pour then .done (put { e with val := v } s)
    else if e.marks.death.isSome ∧ e.marks.death ≠ some x.pour then
      if logFull c x 1 s then .fail stLimit 0x103 noOffset 16384 else waitChange c 0 1 s
    else wrongState 0x106 i

/-- A delete at an index or way that holds `old` (R210): `put` stores what is left. -/
def entryDelete {α : Type} (c : Cmd) (table key name : Nat) (old : Option (Entry α)) (x : Staging) (s : State)
    (put : Option (Entry α) → State → State) : CmdOut :=
  match old with
  | none => badParam 0x105 32 name
  | some e =>
    if e.marks.birth = some x.pour then
      .done (put none (setLog x (x.log.erase { table := table, key := key, birth := true }) s))
    else if visibleNow s e && e.marks.death.isNone then
      logAdd c x [{ table := table, key := key, birth := false }] s (fun s =>
        .done (put (some { e with marks := { e.marks with death := some x.pour } }) s))
    else badParam 0x105 32 name

/-! ### Flow table (R219–R221) -/

/-- Key words of a payload. -/
def payKey (c : Cmd) : List Word := (List.range 10).map (fun i => c.w (32 + 4 * i))

/-- A key's form: its layout is defined and its words from K on are zero; the continuation gets K. A command that
waited goes on with the K it started with (R69). -/
def keyForm (c : Cmd) (s : State) (k : Nat → CmdOut) : CmdOut :=
  let kb := payKey c
  let n := layoutK s (keyLayout kb)
  if c.running then k (c.kept % 16)
  else if n = 0 then badParam 0x108 33 (keyLayout kb)
  else match (List.range 10).find? (fun i => decide (n ≤ i) && kb.getD i 0 != 0) with
    | some i => badParam 0x10A (32 + 4 * i) 0
    | none => k n

/-- Ways of a bucket that hold a key. -/
def keyWays (s : State) (kb : List Word) (b : Nat) : List (Nat × Entry Flow) :=
  (List.range 4).filterMap (fun w => match flowWay s b w with
    | some e => if e.val.key = kb then some (w, e) else none
    | none => none)

def putFlow (b w : Nat) (e : Option (Entry Flow)) (s : State) : State :=
  s.withRul (fun r => { r with flow := tput none r.flow (b * 4 + w) e })

def effRulFlowAdd : CmdEff := fun c s =>
  keyForm c s fun k =>
    if bitOf (c.w 72) 31 then reservedField c 72
    else withStaged c s fun x =>
      let kb := payKey c
      let b := flowBucket kb k
      let mine := keyWays s kb b
      let v : Flow := { key := kb, result := c.w 72 }
      let answer := fun (w : Nat) (s : State) => CmdOut.res s (leBytes 4 b ++ leBytes 1 w ++ [0, 0, 0])
      match mine.find? (fun e => e.2.marks.birth == some x.pour) with
      | some (w, e) => answer w (putFlow b w (some { e with val := v }) s)
      | none =>
        let old := mine.find? (fun e => visibleNow s e.2 && e.2.marks.death.isNone)
        match (List.range 4).find? (fun w => (flowWay s b w).isNone) with
        | some w =>
          let born : Change := { table := 0, key := b * 4 + w, birth := true }
          let new : Entry Flow := { val := v, marks := { birth := some x.pour, death := none } }
          (match old with
          | some (ow, e) =>
            logAdd c x [born, { table := 0, key := b * 4 + ow, birth := false }] s (fun s =>
              answer w (putFlow b ow (some { e with marks := { e.marks with death := some x.pour } })
                (putFlow b w (some new) s)))
          | none => logAdd c x [born] s (fun s => answer w (putFlow b w (some new) s)))
        | none =>
          let need := if old.isSome then 2 else 1
          if logFull c x need s then .fail stLimit 0x103 noOffset 16384
          else if (List.range 4).any (fun w => match flowWay s b w with
              | some e => e.marks.death.isSome && e.marks.death != some x.pour
              | none => false) then waitChange c k need s
          else .fail stNoFit 0x104 noOffset b

def effRulFlowDelete : CmdEff := fun c s =>
  keyForm c s fun k =>
    withStaged c s fun x =>
      let kb := payKey c
      let b := flowBucket kb k
      let mine := keyWays s kb b
      let pick := (mine.find? (fun e => e.2.marks.birth == some x.pour)).or
        (mine.find? (fun e => visibleNow s e.2 && e.2.marks.death.isNone))
      match pick with
      | some (w, e) => entryDelete c 0 (b * 4 + w) b (some e) x s (putFlow b w)
      | none => badParam 0x105 32 b

def effRulFlowRead : CmdEff := fun c s =>
  keyForm c s fun k =>
    let p := c.p 72 2
    if !c.zero 74 2 then reservedField c 74
    else if !(s.rul.live.any (fun e => e.2 == p) || s.rul.staged.any (fun x => x.pour == p)) then badParam 0x10C 72 p
    else
      let kb := payKey c
      let b := flowBucket kb k
      match (keyWays s kb b).find? (fun e => e.2.marks.visible p) with
      | some (_, e) =>
        .res s (leBytes 4 e.val.result.toNat ++ leBytes 2 (e.marks.birth.getD 0) ++ leBytes 2 (e.marks.death.getD 0) ++
          leBytes 4 (b2n e.marks.birth.isSome + 2 * b2n e.marks.death.isSome))
      | none => badParam 0x105 32 b

/-- Layouts with an entry of any version (R221). -/
def layoutUsed (s : State) (l : Nat) : Bool :=
  s.rul.flow.any (fun e => match e.2 with
    | some x => keyLayout x.val.key == l
    | none => false)

def effRulSetLayout : CmdEff := fun c s =>
  let l := c.p 32 1
  let k := c.p 33 1
  if !c.zero 34 2 then reservedField c 34
  else if l = 0 ∨ 15 < l then badParam 0x108 32 l
  else if 10 < k then badParam 0x10D 33 k
  else if layoutUsed s l then wrongState 0x109 l
  else if l < 8 then .done (s.sf (rg 6 0x20) (4 * l + 3) (4 * l) k)
  else .done (s.sf (rg 6 0x24) (4 * (l - 8) + 3) (4 * (l - 8)) k)

/-! ### Indexed tables -/

/-- An index in a payload (INDEX_RANGE). -/
def withIndex (c : Cmd) (size : Nat) (k : Nat → CmdOut) : CmdOut :=
  if size ≤ c.p 32 4 then badParam 0x107 32 (c.p 32 4) else k (c.p 32 4)

/-- 40 payload bytes as a 320-bit number, KB0 lowest (R222). -/
def pay320 (c : Cmd) (o : Nat) : Nat := c.p o 40

def putAcl (i : Nat) (e : Option (Entry Ternary)) (s : State) : State :=
  s.withRul (fun r => { r with acl := tput none r.acl i e })

def putPat (i : Nat) (e : Option (Entry Pattern)) (s : State) : State :=
  s.withRul (fun r => { r with pats := tput none r.pats i e })

def putVerdict (i : Nat) (e : Option (Entry VerdictEntry)) (s : State) : State :=
  s.withRul (fun r => { r with verdicts := tput none r.verdicts i e })

def putRewrite (i : Nat) (e : Option (Entry (List Byte))) (s : State) : State :=
  s.withRul (fun r => { r with rewrites := tput none r.rewrites i e })

def effRulAclWrite : CmdEff := fun c s =>
  withIndex c 8192 fun i =>
    let v : Ternary := { value := pay320 c 36, mask := pay320 c 76, result := c.w 116 }
    if v.value &&& v.mask ≠ v.value then badParam 0x10A 36 0
    else withStaged c s fun x => indexWrite c 1 i (tget none s.rul.acl i) v x s (fun e => putAcl i (some e))

def effRulAclDelete : CmdEff := fun c s =>
  withIndex c 8192 fun i =>
    withStaged c s fun x => entryDelete c 1 i i (tget none s.rul.acl i) x s (putAcl i)

/-- A pattern's form (R223): LEN 1–64, the end bits of BYTEMASK set and none beyond LEN, unused bytes zero. -/
def patternForm (x : Pattern) : Bool :=
  decide (x.group ≤ 63) && decide (1 ≤ x.len) && decide (x.len ≤ 64) && x.mask.testBit 0 &&
  x.mask.testBit (x.len - 1) && decide (x.mask < 2 ^ x.len) && (x.bytes.drop x.len).all (· == 0)

def effRulPatternWrite : CmdEff := fun c s =>
  withIndex c 4096 fun i =>
    let v : Pattern := { group := c.p 36 1, len := c.p 37 1, bytes := slice c.payload 16 64, mask := c.p 40 8,
                         nocase := (c.p 38 1).testBit 0 }
    if 1 < c.p 38 1 then reservedField c 38
    else if c.zero 39 1 = false then reservedField c 39
    else if !patternForm v then badParam 0x10A 36 0
    else withStaged c s fun x => indexWrite c 2 i (tget none s.rul.pats i) v x s (fun e => putPat i (some e))

def effRulPatternDelete : CmdEff := fun c s =>
  withIndex c 4096 fun i =>
    withStaged c s fun x => entryDelete c 2 i i (tget none s.rul.pats i) x s (putPat i)

/-- Reserved bits of record words 0–5 and of SET (R190, R225). -/
def recReserved : List Word :=
  [0xC0000000, 0xE0000000, 0xFC000000, 0xF8000000, 0xFFFFC000, 0, 0xFFFFF000]

def effRulVerdictWrite : CmdEff := fun c s =>
  withIndex c 65536 fun i =>
    let ws := (List.range 7).map (fun j => c.w (36 + 4 * j))
    let set := c.p 60 4
    match (List.range 7).find? (fun j => ws.getD j 0 &&& recReserved.getD j 0 != 0) with
    | some j => badParam 0x10B (36 + 4 * j) 0xFFFF
    | none =>
      let vid := fld (ws.getD 3 0) 11 0
      if set.testBit 0 ∧ 5 ≤ fld (ws.getD 0 0) 3 0 then badParam 0x10B 36 0
      else if set.testBit 6 ∧ bitOf (ws.getD 3 0) 12 ∧ (vid = 0 ∨ vid = 4095) then badParam 0x10B 48 6
      else match (if set.testBit 1 then unfittedOf s (fld (ws.getD 0 0) 28 8) else none),
          (if set.testBit 3 then unfittedOf s (fld (ws.getD 1 0) 20 0) else none) with
        | some p, _ => .fail stNotFitted 0 36 p
        | none, some p => .fail stNotFitted 0 40 p
        | none, none =>
          withStaged c s fun x =>
            indexWrite c 3 i (tget none s.rul.verdicts i) { words := ws.take 6, set := set } x s
              (fun e => putVerdict i (some e))

def effRulVerdictDelete : CmdEff := fun c s =>
  withIndex c 65536 fun i =>
    withStaged c s fun x => entryDelete c 3 i i (tget none s.rul.verdicts i) x s (putVerdict i)

/-- A rewrite entry's form (R229). -/
def rewriteForm (e : List Byte) : Bool :=
  let fl := leAt e 12 1
  let pcp := fl.testBit 2
  let dscp := fl.testBit 3
  decide (fl < 16) && leAt e 15 1 == 0 && decide (leAt e 13 1 ≤ (if dscp then 63 else if pcp then 7 else 0)) &&
  decide (leAt e 14 1 ≤ (if pcp && dscp then 7 else 0))

def effRulRewriteWrite : CmdEff := fun c s =>
  withIndex c 8192 fun i =>
    let v := slice c.payload 4 16
    if !rewriteForm v then badParam 0x10A 48 0
    else withStaged c s fun x => indexWrite c 4 i (tget none s.rul.rewrites i) v x s (fun e => putRewrite i (some e))

def effRulRewriteDelete : CmdEff := fun c s =>
  withIndex c 8192 fun i =>
    withStaged c s fun x => entryDelete c 4 i i (tget none s.rul.rewrites i) x s (putRewrite i)

/-! ### Pours (R208, R214–R218) -/

def effRulPourOpen : CmdEff := fun c s =>
  match s.rul.staged with
  | some x => wrongState 0x101 x.pour
  | none =>
    let n := match s.rul.last with
      | some p => (p + 1) % 65536
      | none => 1
    let x : Staging := { pour := n, owner := c.issuer, log := [], committing := false }
    .res (showRul (s.withRul (fun r => { r with staged := some x }))) (leBytes 2 n)

/-- Stop further changes of the staged pour: its commit or abandon has started (R213). -/
def closeStaging (x : Staging) (s : State) : State :=
  showRul (s.withRul (fun r => { r with staged := some { x with committing := true } }))

/-- Commit the staged pour into a free slot (R214). -/
def commitNow (x : Staging) (slot : Nat) (s : State) : State :=
  let s := s.withRul (fun r => { r with staged := none, last := some x.pour, live := r.live ++ [(slot, x.pour)],
                                        logs := r.logs ++ [(x.pour, x.log)] })
  showRul (rulCount 0x120 s)

/-- The lowest-numbered FREE slot. -/
def freeSlot (s : State) : Option Nat := (List.range 4).find? (fun n => !(s.rul.live.any (fun e => e.1 == n)))

def effRulPourCommit : CmdEff := fun c s =>
  withStaged c s fun x =>
    if changesWait s then .wait (closeStaging x s)
    else match freeSlot s with
      | some n => .res (commitNow x n s) (leBytes 2 x.pour ++ leBytes 2 n)
      | none => .wait (closeStaging x s)

/-- An entry after its staged pour is abandoned (R217). -/
def abandonEntry {α : Type} (p : Nat) : Option (Entry α) → Option (Entry α)
  | some e =>
    if e.marks.birth = some p then none
    else if e.marks.death = some p then some { e with marks := { e.marks with death := none } }
    else some e
  | none => none

def abandonTable {α : Type} (p : Nat) (t : Tab (Option (Entry α))) : Tab (Option (Entry α)) :=
  t.filterMap (fun e => (abandonEntry p e.2).map (fun x => (e.1, some x)))

/-- Entries of all five tables. -/
def ruleEntries (s : State) : Nat :=
  s.rul.flow.length + s.rul.acl.length + s.rul.pats.length + s.rul.verdicts.length + s.rul.rewrites.length

/-- Abandon the staged pour (R217). -/
def abandonNow (x : Staging) (s : State) : State :=
  showRul (s.withRul (fun r => { r with flow := abandonTable x.pour r.flow, acl := abandonTable x.pour r.acl,
                                        pats := abandonTable x.pour r.pats, verdicts := abandonTable x.pour r.verdicts,
                                        rewrites := abandonTable x.pour r.rewrites, staged := none }))

def effRulPourAbandon : CmdEff := fun c s =>
  match s.rul.staged with
  | none => wrongState 0x100 0
  | some x =>
    if c.running = false ∧ x.owner ≠ c.issuer ∧ bitOf (s.aclEntry 6 c.issuer).rights 4 = false then wrongState 0x102 x.owner
    else if changesWait s then .wait (closeStaging x s)
    else
      let t := abandonNow x s
      .res t (leBytes 4 (ruleEntries s - ruleEntries t))

def effRulPourStatus : CmdEff := fun _ s => .res s (readRegs (regRun (rg 6 0) 3 ++ regRun (rg 6 0x10) 4) s)

def effRulCounters : CmdEff := fun _ s =>
  let r := takeCounters (regRun (rg 6 0x100) 9) s
  .res r.2 r.1

/-! ### Opcodes (R233–R235) -/

def opsRul : List OpSpec :=
  let one := fun (op len inst : Nat) =>
    ({ opcode := op, lenLo := len, lenHi := len, instLo := inst, instHi := inst, classHi := 5, block := 6,
       mask := fun c => .bit c.inst } : OpSpec)
  [one 0x0600 0 5, one 0x0601 0 5, one 0x0602 0 5, one 0x0603 0 5, one 0x0604 44 0, one 0x0605 40 0, one 0x0606 44 0,
   one 0x0607 88 1, one 0x0608 4 1, one 0x0609 80 2, one 0x060A 4 2, one 0x060B 32 3, one 0x060C 4 3, one 0x060D 20 4,
   one 0x060E 4 4, one 0x060F 4 0, one 0x0610 0 5]

def execRulPourOpen (ring slot : Nat) (s : State) : Out := opRow (specOf opsRul 0x0600) effRulPourOpen ring slot s
def execRulPourCommit (ring slot : Nat) (s : State) : Out := opRow (specOf opsRul 0x0601) effRulPourCommit ring slot s
def execRulPourAbandon (ring slot : Nat) (s : State) : Out := opRow (specOf opsRul 0x0602) effRulPourAbandon ring slot s
def execRulPourStatus (ring slot : Nat) (s : State) : Out := opRow (specOf opsRul 0x0603) effRulPourStatus ring slot s
def execRulFlowAdd (ring slot : Nat) (s : State) : Out := opRow (specOf opsRul 0x0604) effRulFlowAdd ring slot s
def execRulFlowDelete (ring slot : Nat) (s : State) : Out := opRow (specOf opsRul 0x0605) effRulFlowDelete ring slot s
def execRulFlowRead (ring slot : Nat) (s : State) : Out := opRow (specOf opsRul 0x0606) effRulFlowRead ring slot s
def execRulAclWrite (ring slot : Nat) (s : State) : Out := opRow (specOf opsRul 0x0607) effRulAclWrite ring slot s
def execRulAclDelete (ring slot : Nat) (s : State) : Out := opRow (specOf opsRul 0x0608) effRulAclDelete ring slot s
def execRulPatternWrite (ring slot : Nat) (s : State) : Out := opRow (specOf opsRul 0x0609) effRulPatternWrite ring slot s
def execRulPatternDelete (ring slot : Nat) (s : State) : Out := opRow (specOf opsRul 0x060A) effRulPatternDelete ring slot s
def execRulVerdictWrite (ring slot : Nat) (s : State) : Out := opRow (specOf opsRul 0x060B) effRulVerdictWrite ring slot s
def execRulVerdictDelete (ring slot : Nat) (s : State) : Out := opRow (specOf opsRul 0x060C) effRulVerdictDelete ring slot s
def execRulRewriteWrite (ring slot : Nat) (s : State) : Out := opRow (specOf opsRul 0x060D) effRulRewriteWrite ring slot s
def execRulRewriteDelete (ring slot : Nat) (s : State) : Out := opRow (specOf opsRul 0x060E) effRulRewriteDelete ring slot s
def execRulSetLayout (ring slot : Nat) (s : State) : Out := opRow (specOf opsRul 0x060F) effRulSetLayout ring slot s
def execRulCounters (ring slot : Nat) (s : State) : Out := opRow (specOf opsRul 0x0610) effRulCounters ring slot s

/-! ### Retirement, sweeps, and what waits for them -/

/-- The execution of a RUL opcode that can wait (R213, R214). -/
def rulWaiting : Nat → Option CmdEff
  | 0x0601 => some effRulPourCommit
  | 0x0602 => some effRulPourAbandon
  | 0x0604 => some effRulFlowAdd
  | 0x0607 => some effRulAclWrite
  | 0x0609 => some effRulPatternWrite
  | 0x060B => some effRulVerdictWrite
  | 0x060D => some effRulRewriteWrite
  | _ => none

/-- Try a waiting RUL command again. -/
def resumeOne (c : Cmd) (s : State) : State :=
  match rulWaiting c.opcode with
  | none => s
  | some eff =>
    match eff c s with
    | .ok s' r v => finish (specOf opsRul c.opcode) c r v s s'
    | .fail st code off v => completeFail c ⟨st, code, off, v⟩ s
    | .part s' st code off v => completeFail c ⟨st, code, off, v⟩ s'
    | .wait s' => s'

/-- Changes that wait go on first, then a commit or abandon (R213, R218). -/
def resumeRul (s : State) : State :=
  let held := fun (s : State) (five : Bool) =>
    s.mason.cmds.filter (fun c => c.running && c.opcode / 256 == 6 && (c.inst == 5) == five)
  let s := (held s false).foldl (fun s c => resumeOne c s) s
  showRul ((held s true).foldl (fun s c => resumeOne c s) s)

/-- The oldest OLD pour retires when no context holds its slot (R215). -/
def retireOldest (s : State) : State :=
  match s.rul.live with
  | (slot, _) :: y :: r =>
    if holders s slot = 0 then (showRul (s.withRul (fun t => { t with live := y :: r }))).raise 6 1 else s
  | _ => s

/-- RUL sweeps the first log in pour order, once no older pour is live (R216). -/
def sweepFirst (s : State) : State :=
  match sweepable s with
  | some p => sweepLog p s
  | none => s

/-- RUL at rest: what can retire has, what can be swept is, and what waited for either has gone on. -/
def rulRest : Nat → State → State
  | 0, s => s
  | n + 1, s => rulRest n (resumeRul (sweepFirst (retireOldest s)))

/-- The oldest OLD pour retires; a waiting commit takes the slot (R218). -/
def execPourRetire (s : State) : Out :=
  act (fun s =>
    match s.rul.live with
    | (slot, _) :: _ :: _ => if holders s slot = 0 then resumeRul (retireOldest s) else s
    | _ => s) s

/-- A sweep; what waited for it goes on (R213). -/
def execLogSweep (s : State) : Out :=
  act (fun s =>
    match sweepable s with
    | some p => resumeRul (sweepLog p s)
    | none => s) s

/-- Software's write of a RUL register that has no row: a K above 10, or of a layout in use, is unpredictable (R221). -/
def rulWrite (off : Nat) (v : Word) (s : State) : Option Ans :=
  if off = 0x20 ∨ off = 0x24 then
    let base := if off = 0x20 then 0 else 8
    let old := s.rd (rg 6 off)
    let bad := (List.range 8).any (fun i =>
      let n := fld v (4 * i + 3) (4 * i)
      let f := decide (off ≠ 0x20) || decide (i ≠ 0)
      f && (decide (10 < n) || (n != fld old (4 * i + 3) (4 * i) && layoutUsed s (base + i))))
    some (if bad then unpredictable 6 else .ok (s.wr (rg 6 off) (if off = 0x20 then v &&& ~~~ 0xF#32 else v)))
  else none

end Sys2Proof.Machine
end

