-- ==== Sys2Proof/Machine/Swc.lean ====
section
/-! DEFINITION. The switch core's commands: verdicts, lanes, FRER, link-down policy and opcodes (R142–R169). -/

namespace Sys2Proof.Machine

/-! ### FRER (R161–R163) -/

def frerOf (s : State) (i : Nat) : Frer := tget Frer.zero s.swc.frer i

def setFrer (i : Nat) (x : Frer) (s : State) : State := s.withSwc (fun w => { w with frer := tput Frer.zero w.frer i x })

/-- How far a number is from the last one taken, modulo 2^16, as a signed number (802.1CB; log entry 16). -/
def seqDelta (n last : Nat) : Int :=
  let d := (n + 65536 - last) % 65536
  if d < 32768 then (d : Int) else (d : Int) - 65536

/-- A number passes: it is the last one now, and the history moves with it. -/
def Frer.take (x : Frer) (n : Nat) (shift hist : Nat) : Frer :=
  { x with recov := n, takeAny := false, history := (x.history * 2 ^ shift) % 2 ^ hist ||| 1,
           passed := sat32 x.passed }

/-- Vector recovery of a number (802.1CB; log entry 16). -/
def vectorRecover (x : Frer) (n hist : Nat) : Bool × Frer :=
  let d := seqDelta n x.recov
  if x.takeAny then (true, { x.take n 0 hist with history := 1 })
  else if (hist : Int) ≤ d ∨ d ≤ -(hist : Int) then
    (false, { x with rogue := sat32 x.rogue, discarded := sat32 x.discarded })
  else if d ≤ 0 then
    if x.history.testBit d.natAbs then (false, { x with discarded := sat32 x.discarded })
    else (true, { x with history := x.history ||| 2 ^ d.natAbs, outOfOrder := sat32 x.outOfOrder,
                         passed := sat32 x.passed })
  else
    let y := x.take n d.natAbs hist
    (true, if d = 1 then y else { y with outOfOrder := sat32 y.outOfOrder })

/-- Match recovery of a number (802.1CB; log entry 16). -/
def matchRecover (x : Frer) (n : Nat) : Bool × Frer :=
  let d := seqDelta n x.recov
  if x.takeAny then (true, { x with recov := n, takeAny := false, passed := sat32 x.passed })
  else if d = 0 then (false, { x with discarded := sat32 x.discarded })
  else
    let y := { x with recov := n, passed := sat32 x.passed }
    (true, if d = 1 then y else { y with outOfOrder := sat32 y.outOfOrder })

/-- Recovery of a frame on a stream: whether it passes, whether its R-TAG is removed, and the entry after. A frame
without an R-TAG passes and is counted (R163). -/
def frerRecover (x : Frer) (f : Frame) : Bool × Bool × Frer :=
  if !bitOf x.word 1 then (true, false, x)
  else match rtagSeq f.bytes with
    | none => (true, false, { x with tagless := sat32 x.tagless, passed := sat32 x.passed })
    | some n =>
      let r := if bitOf x.word 2 then matchRecover x n else vectorRecover x n (fld x.word 9 4)
      (r.1, bitOf x.word 3, r.2)

/-- No frame has passed a stream for RESET_MS: its history resets (R163); the row's arrival says that the time has
passed. -/
def execFrerReset (i : Nat) (s : State) : Out :=
  act (fun s =>
    let x := frerOf s i
    if i < 4096 ∧ bitOf x.word 1 = true ∧ x.takeAny = false then
      (setFrer i { x with takeAny := true, history := 0, resets := sat32 x.resets } s).raise 4 5
    else s) s

/-! ### Verdicts (R227) -/

/-- Bucket of a forwarding key: CRC-32C over the VID and the address (R157). -/
def fdbBucket (vid : Nat) (da : List Byte) : Nat := (crc32c (beBytes 2 vid ++ da)).toNat % 8192

/-- Way that holds a forwarding key. -/
def fdbWay (s : State) (vid : Nat) (da : List Byte) : Option Nat :=
  (List.range 4).find? (fun w => match tget none s.swc.fdb (fdbBucket vid da * 4 + w) with
    | some e => e.vid == vid && e.da == da
    | none => false)

/-- FDB forwarding (R158): the entry's set, or FLOOD on a miss, without the ingress port. -/
def fdbPorts (s : State) (vid : Nat) (da : List Byte) (inPort : Nat) : Nat :=
  let set := match fdbWay s vid da with
    | some w => match tget none s.swc.fdb (fdbBucket vid da * 4 + w) with
      | some e => e.ports
      | none => 0
    | none => (vlan s vid).flood
  if set.testBit inPort then set - 2 ^ inPort else set

/-- What a verdict asks for a frame: forward set, mirror set, VID and egress TC of forward copies (R190, R192). -/
structure Asked where
  action : Nat
  fwd : Nat
  mirror : Nat
  vid : Nat
  tc : Nat
  deriving DecidableEq, Repr

def asked (s : State) (f : Frame) (ws : List Word) : Asked :=
  let w := fun i => ws.getD i 0
  let action := fld (w 0) 3 0
  let vid := if bitOf (w 3) 12 then fld (w 3) 11 0 else f.vid
  let ports := fld (w 0) 28 8
  let fwd := match action with
    | 1 => ports
    | 2 => fdbPorts s vid (f.bytes.take 6) f.port
    | 3 => ports
    | 4 => 2 ^ 19
    | _ => 0
  { action := action, fwd := fwd, mirror := fld (w 1) 20 0, vid := vid,
    tc := if bitOf (w 0) 7 then fld (w 0) 6 4 else f.tc }

/-- Count the copies named for unfitted ports (R169). -/
def countUnfitted (f : Frame) (set : Nat) (s : State) : State :=
  let named := bitsOf set 21
  let bad := named.filter (fun p => !portFitted s.tier p)
  let at_ := (named.find? (fun p => portFitted s.tier p)).getD f.port
  bad.foldl (fun s _ => (swcCount at_ 0x5C s).raise 4 6) s

/-- Holes for a frame at every fitted port, and its tiles freed: a verdict that makes no copy. -/
def noCopies (f : Frame) (s : State) : State := dropFrame f s

/-- Egress ports for which one copy of a frame is tried, in rising order, and what came of each: the copy admitted, or
none for a hole (R148, R150). -/
def admitPorts (f : Frame) (a : Asked) (mk : Nat → Bool → Copy) : List Nat → State → List (Nat × Option Copy) × State
  | [], s => ([], s)
  | p :: r, s =>
    let one : Option Copy × State :=
      if a.fwd.testBit p || a.mirror.testBit p then
        let c := mk p (!a.fwd.testBit p)
        if !c.mirror && decide (p < 18) && !(vlan s a.vid).member.testBit p then (none, swcCount p 0x50 s)
        else match enqueueCopy c s with
          | .inl s => (some c, s)
          | .inr why => (none, countRefused p why s)
      else (none, s)
    let rest := admitPorts f a mk r one.2
    ((p, one.1) :: rest.1, rest.2)

/-- The items of a frame go to their lanes (R150). -/
def sendItems (f : Frame) (items : List (Nat × Option Copy)) (s : State) : State :=
  items.foldl (fun s x => laneItem x.1 (f.port * 8 + f.tc) f.seq x.2 s) s

/-- Admission of every copy, the rewrite copy, the reference count and the items (R144, R148–R150, R227). -/
def admitFrame (f : Frame) (v : Verdict) (a : Asked) (rtag : Option Nat) (pop : Bool) (j : Judged) (s : State) : State :=
  let w := fun i => v.words.getD i 0
  let rwOn := bitOf (w 3) 26
  let rw := if rwOn then rewriteOf v.pour (fld (w 3) 25 13) s else none
  let tc := j.tc.getD a.tc
  let mk := fun p mirror => ({ frame := f.id, port := p, tc := if mirror then f.tc else tc, n := f.tiles.length,
                               mirror := mirror, vid := if mirror then f.vid else a.vid, untag := (vlan s a.vid).untag.testBit p,
                               rewrite := if mirror then none else rw, rtag := if mirror then none else rtag,
                               pop := pop && !mirror, dei := j.dei && !mirror,
                               tsReq := bitOf (w 0) 29 || f.tsReq,
                               reason := if a.action = 3 then fld (w 1) 28 21 else 0,
                               user := if a.action = 3 then w 5 else 0, redirect := a.action == 3,
                               tunnel := if a.action = 4 && !mirror then some (fld (w 4) 13 0) else none,
                               seq := f.seq, stream := f.port * 8 + f.tc, released := 0, an := none,
                               began := 0, gone := 0, cutLen := none } : Copy)
  let r := admitPorts f a mk (fittedPorts s) s
  let copies := r.1.filterMap Prod.snd
  let s := if rwOn && rw.isNone && copies.any (fun c => !c.mirror) then rulCount 0x118 r.2 else r.2
  if copies.isEmpty then sendItems f r.1 (freeFrame f.id s)
  else
    let s := s.withSwc (fun x => { x with frames := x.frames.map (fun g =>
      if g.id == f.id then { g with refs := some copies.length } else g) })
    sendItems f r.1 s

/-- The policer's red: every copy of the frame is refused (R146, R228). -/
def refuseAll (f : Frame) (a : Asked) (s : State) : State :=
  let ports := (fittedPorts s).filter (fun p => a.fwd.testBit p || a.mirror.testBit p)
  noCopies f (ports.foldl (fun s p => countRefused p .policer s) s)

/-- Act on a verdict (R227): FRER recovery, the policer, then admission. -/
def actVerdict (v : Verdict) (s : State) : State :=
  match findFrame s v.frame with
  | none => s
  | some f =>
    let w := fun i => v.words.getD i 0
    let a := asked s f v.words
    let s := if a.action = 0 then s.cnt (rg 6 (0x1000 + fld (w 1) 28 21 * 4)) 1 else s
    let s := countUnfitted f (a.fwd ||| a.mirror) s
    let stream := if bitOf (w 2) 25 then some (fld (w 2) 24 13) else none
    let rcv := match stream with
      | some i => frerRecover (frerOf s i) f
      | none => (true, false, Frer.zero)
    let s := match stream with
      | some i => setFrer i rcv.2.2 s
      | none => s
    if !rcv.1 then noCopies f s
    else
      let j := if bitOf (w 2) 12 then judge (fld (w 2) 11 0) f s
        else ({ colour := .pass, tc := none, dei := false }, s)
      if j.1.colour = .red then refuseAll f a j.2
      else
        let s := j.2
        let gen := stream.filter (fun i => bitOf (frerOf s i).word 0)
        match gen with
        | some i =>
          let x := frerOf s i
          admitFrame f v a (some x.gen) rcv.2.1 j.1 (setFrer i { x with gen := (x.gen + 1) % 65536 } s)
        | none => admitFrame f v a none rcv.2.1 j.1 s

/-- SWC acts on the oldest verdict handed to it (R227). -/
def execVerdictAct (s : State) : Out :=
  act (fun s =>
    match s.swc.verdicts with
    | [] => s
    | v :: r => actVerdict v (s.withSwc (fun w => { w with verdicts := r }))) s

/-! ### Lanes (R151, R152) -/

/-- A released copy enters its queue, unless its port's link-down policy frees it (R151, R164). -/
def enterQueue (c : Copy) (s : State) : State :=
  if linkDownRefuses s c.port then countRefused c.port .linkDown (releaseCopy c s)
  else
    let q := c.queue
    preempt c.port (setQueue q (tget [] s.swc.queues q ++ [{ c with released := fclk s }]) s)

/-- The lane of port `p` for a stream releases item E, where it holds it. -/
def execLaneRelease (p stream : Nat) (s : State) : Out :=
  act (fun s =>
    let l := lane s p stream
    match l.items.find? (fun i => i.1 == l.e) with
    | none => s
    | some (_, c) =>
      let s := setLane p stream { e := (l.e + 1) % 65536, items := l.items.filter (fun i => i.1 != l.e) } s
      match c with
      | some x => enterQueue x s
      | none => s) s

/-- A lane that holds items but not item E reaches its timeout (R152); the row's arrival says so. -/
def execReseqTimeout (p stream : Nat) (s : State) : Out :=
  act (fun s =>
    let l := lane s p stream
    if !l.items.isEmpty && !(l.items.any (fun i => i.1 == l.e)) then laneTimeout p stream s else s) s

/-! ### Registers -/

/-- A valid PORT_CFG word: ACCEPT not reserved, PVID 1–4,094. -/
def swcPortForm (v : Word) : Bool :=
  fld v 13 12 != 3 && decide (1 ≤ fld v 11 0) && decide (fld v 11 0 ≤ 4094) && fld v 31 19 == 0

/-- PORT_CFG takes a new value; LINKDOWN_FLUSH = 1 on a port that is down flushes it (R164). -/
def setPortCfg (p : Nat) (v : Word) (s : State) : State :=
  let s := s.wr (swcPort p 0) v
  if linkDownRefuses s p then flushPort p s else s

/-- A write of PORT_CFG (R164). -/
def execLinkdownFlushWrite (m p : Nat) (v : Word) (s : State) : Out :=
  withWrite 4 (0x1000 + p * 0x100) (.bit p) m (fun s =>
    if portFitted s.tier p = false then .ok s
    else if swcPortForm v then .ok (setPortCfg p v s) else unpredictable 4) s

/-- The reserves of every queue, and the sum of R143. -/
def reserveSum (s : State) : Nat := ((List.range 168).map (reserve s)).sum
def areaSum (s : State) : Nat := reserveSum s + s.f (rg 4 0x10) 16 0 + s.f (rg 4 0x14) 16 0

/-- Software's write of an SWC register that has no row. Answers none where the field types alone decide. -/
def swcWrite (off : Nat) (v : Word) (s : State) : Option Ans :=
  let keeps := fun (t : State) => some (if areaSum t ≤ 98304 then (.ok t : Ans) else unpredictable 4)
  if off = 0x10 ∨ off = 0x14 then keeps (s.wr (rg 4 off) v)
  else if off = 0x20 then
    some (if 1 ≤ v.toNat ∧ v.toNat ≤ 1000 then .ok (s.wr (rg 4 off) v) else unpredictable 4)
  else if 0x4000 ≤ off ∧ off < 0x4A80 then
    let q := (off - 0x4000) / 0x10
    if off % 0x10 = 0 then
      if limit s q < v.toNat then some (unpredictable 4) else keeps (setCharge q (charge s q) v.toNat s)
    else if off % 0x10 = 4 then
      some (if v.toNat < reserve s q ∨ v.toNat = 0 ∨ 98304 < v.toNat then unpredictable 4 else .ok (s.wr (rg 4 off) v))
    else none
  else none

/-! ### Opcodes (R166–R168) -/

def opsSwc : List OpSpec :=
  let port := fun (op len : Nat) =>
    ({ opcode := op, lenLo := len, lenHi := len, instHi := 20, classHi := 4095, block := 4, mask := fun c => .bit c.inst,
       fitted := fun s c => portFitted s.tier c.inst } : OpSpec)
  let queue := fun (op len : Nat) =>
    ({ opcode := op, lenLo := len, lenHi := len, instHi := 167, classHi := 4095, block := 4,
       mask := fun c => .bit (c.inst / 8), fitted := fun s c => portFitted s.tier (c.inst / 8) } : OpSpec)
  let table := fun (op len bit hi : Nat) =>
    ({ opcode := op, lenLo := len, lenHi := len, instHi := hi, classHi := 4095, block := 4, mask := fun _ => .bit bit } : OpSpec)
  [table 0x0400 12 35 0, queue 0x0401 8, queue 0x0402 0, port 0x0403 8, table 0x0404 12 32 0, table 0x0405 8 32 0,
   table 0x0406 8 32 0, table 0x0407 16 33 0, table 0x0408 8 34 4095, table 0x0409 0 34 4095, port 0x040A 0]

def effSwcSetShared : CmdEff := fun c s =>
  let sum := reserveSum s + c.p 32 4 + c.p 36 4
  if 98304 < sum then badParam 0x100 32 (sum - 98304)
  else if c.p 40 4 = 0 ∨ 1000 < c.p 40 4 then badParam 0x105 40 0
  else .done (((s.wr (rg 4 0x10) (c.w 32)).wr (rg 4 0x14) (c.w 36)).wr (rg 4 0x20) (c.w 40))

/-- SWC_SET_QUEUE; a LIMIT out of range answers RANGE (log entry 57). -/
def effSwcSetQueue : CmdEff := fun c s =>
  let r := c.p 32 4
  let l := c.p 36 4
  if l = 0 ∨ 98304 < l then badParam 0x105 36 0
  else if l < r then badParam 0x101 32 r
  else
    let t := (setCharge c.inst (charge s c.inst) r s).wr (swcQueue c.inst 4) (c.w 36)
    if 98304 < areaSum t then badParam 0x100 32 (areaSum t - 98304) else .done t

def effSwcFlushQueue : CmdEff := fun c s =>
  let r := flushQueue c.inst s
  .res r.1 (leBytes 4 r.2.1 ++ leBytes 4 r.2.2)

def effSwcSetPort : CmdEff := fun c s =>
  let v := c.w 32
  if fld v 31 19 ≠ 0 then reservedField c 32
  else if c.p 36 4 ≥ 2 ^ 24 then reservedField c 36
  else if fld v 11 0 = 0 ∨ fld v 11 0 = 4095 then badParam 0x104 32 (fld v 11 0)
  else if fld v 13 12 = 3 then badParam 0x105 32 0
  else .done (setPortCfg c.inst v (s.wr (swcPort c.inst 4) (c.w 36)))

/-- A forwarding key in a payload: VIDs 0 and 4,095 and those above are out of range. -/
def fdbKey (c : Cmd) (k : Nat → List Byte → CmdOut) : CmdOut :=
  let vid := c.p 38 2
  if vid = 0 ∨ 4095 ≤ vid then badParam 0x104 38 vid else k vid (slice c.payload 0 6)

def effSwcFdbWrite : CmdEff := fun c s =>
  fdbKey c fun vid da =>
    portSetCheck 4 c 40 s <|
      let b := fdbBucket vid da
      let free := (List.range 4).find? (fun w => (tget none s.swc.fdb (b * 4 + w)).isNone)
      match (fdbWay s vid da).or free with
      | some w =>
        let e : Fdb := { vid := vid, da := da, ports := c.p 40 4 }
        .done (s.withSwc (fun x => { x with fdb := tput none x.fdb (b * 4 + w) (some e) }))
      | none => .fail stNoFit 0x102 noOffset b

def effSwcFdbDelete : CmdEff := fun c s =>
  fdbKey c fun vid da =>
    match fdbWay s vid da with
    | some w => .done (s.withSwc (fun x => { x with fdb := tput none x.fdb (fdbBucket vid da * 4 + w) none }))
    | none => badParam 0x103 32 (fdbBucket vid da)

def effSwcFdbRead : CmdEff := fun c s =>
  fdbKey c fun vid da =>
    match (fdbWay s vid da).bind (fun w => tget none s.swc.fdb (fdbBucket vid da * 4 + w)) with
    | some e => .res s (leBytes 4 e.ports)
    | none => badParam 0x103 32 (fdbBucket vid da)

def effSwcVlanWrite : CmdEff := fun c s =>
  let vid := c.p 32 2
  if vid = 0 ∨ 4095 ≤ vid then badParam 0x104 32 vid
  else if !c.zero 34 2 then reservedField c 34
  else portSetCheck 4 c 36 s <| portSetCheck 4 c 40 s <| portSetCheck 4 c 44 s <|
    let e : Vlan := { member := c.p 36 4, untag := c.p 40 4, flood := c.p 44 4 }
    .done (s.withSwc (fun x => { x with vlans := tput Vlan.zero x.vlans vid e }))

def effSwcFrerWrite : CmdEff := fun c s =>
  let v := c.w 32
  if fld v 31 10 ≠ 0 then reservedField c 32
  else if fld v 9 4 < 2 ∨ 32 < fld v 9 4 then badParam 0x105 32 0
  else if c.p 36 4 = 0 ∨ 65535 < c.p 36 4 then badParam 0x105 36 0
  else
    let x := frerOf s c.inst
    .done (setFrer c.inst { x with word := v, resetMs := c.p 36 4, gen := 0, recov := 0, history := 0, takeAny := true } s)

def effSwcFrerCounters : CmdEff := fun c s =>
  let x := frerOf s c.inst
  .res (setFrer c.inst { x with passed := 0, discarded := 0, outOfOrder := 0, rogue := 0, tagless := 0, resets := 0 } s)
    ([x.passed, x.discarded, x.outOfOrder, x.rogue, x.tagless, x.resets].flatMap (leBytes 4))

def effSwcPortCounters : CmdEff := fun c s => .res s (readRegs (regRun (swcPort c.inst 0x20) 18) s)

def execSwcSetShared (ring slot : Nat) (s : State) : Out := opRow (specOf opsSwc 0x0400) effSwcSetShared ring slot s
def execSwcSetQueue (ring slot : Nat) (s : State) : Out := opRow (specOf opsSwc 0x0401) effSwcSetQueue ring slot s
def execSwcFlushQueue (ring slot : Nat) (s : State) : Out := opRow (specOf opsSwc 0x0402) effSwcFlushQueue ring slot s
def execSwcSetPort (ring slot : Nat) (s : State) : Out := opRow (specOf opsSwc 0x0403) effSwcSetPort ring slot s
def execSwcFdbWrite (ring slot : Nat) (s : State) : Out := opRow (specOf opsSwc 0x0404) effSwcFdbWrite ring slot s
def execSwcFdbDelete (ring slot : Nat) (s : State) : Out := opRow (specOf opsSwc 0x0405) effSwcFdbDelete ring slot s
def execSwcFdbRead (ring slot : Nat) (s : State) : Out := opRow (specOf opsSwc 0x0406) effSwcFdbRead ring slot s
def execSwcVlanWrite (ring slot : Nat) (s : State) : Out := opRow (specOf opsSwc 0x0407) effSwcVlanWrite ring slot s
def execSwcFrerWrite (ring slot : Nat) (s : State) : Out := opRow (specOf opsSwc 0x0408) effSwcFrerWrite ring slot s
def execSwcFrerCounters (ring slot : Nat) (s : State) : Out := opRow (specOf opsSwc 0x0409) effSwcFrerCounters ring slot s
def execSwcPortCounters (ring slot : Nat) (s : State) : Out := opRow (specOf opsSwc 0x040A) effSwcPortCounters ring slot s

end Sys2Proof.Machine
end

