-- ==== Sys2Proof/Machine/TimeStep.lean ====
section
/-! DEFINITION. The counter's tick and a step of it, with what a step does to every block's schedules (R56, R99, R100,
R108). -/

namespace Sys2Proof.Machine

/-- The counter as one number of 2^−32 ns. -/
def counterAfter (t : TimState) : TimState :=
  let sum := t.ns * 2 ^ 32 + t.frac.toNat + t.incr.toNat
  let ns := sum / 2 ^ 32
  { t with ns := if ns ≥ 1000000000 then ns - 1000000000 else ns, frac := BitVec.ofNat 32 sum,
           sec := if ns ≥ 1000000000 then t.sec + 1 else t.sec }

/-- Milliseconds of holdover: TCLK ticks are counted while STATUS.HOLDOVER = 1, 500,000 to the ms (R58, HOLDOVER_MS). -/
def holdoverTick (s : State) : State :=
  if s.bit (rg 3 0x20) 3 then
    let k := s.tim.holdTicks + 1
    if k ≥ 500000 then { (s.cnt (rg 3 0x28) 1) with tim := { (s.cnt (rg 3 0x28) 1).tim with holdTicks := 0 } }
    else { s with tim := { s.tim with holdTicks := k } }
  else s

/-- Start of a TPO schedule, in nanoseconds (R122). -/
def tpoStart (s : State) (k : Nat) : Nat :=
  regTime (s.rd (rg 3 (0x104 + k * 0x20))) (s.rd (rg 3 (0x108 + k * 0x20))) (s.f (rg 3 (0x100 + k * 0x20)) 31 16)

/-- The place of a periodic pulse output at time `now` (R54, R56): its pulse number and whether it is active. -/
def pulseAt (start period width now : Nat) : Pulse :=
  if now < start then { n := 0, active := false, late := false }
  else
    let n := (now - start) / period
    if (now - start) % period < width then { n := n, active := true, late := false }
    else { n := n + 1, active := false, late := false }

/-- A pulse at rest. -/
def Pulse.rest : Pulse := { n := 0, active := false, late := false }

/-- A step puts running periodic pulses where the new time has them; a one-shot keeps what it has done, and is late if
the step skipped its start (R56). -/
def tpoReposition (s : State) : State :=
  (List.range 8).foldl (fun s k =>
    let period := (s.rd (rg 3 (0x10C + k * 0x20))).toNat
    let old := tget Pulse.rest s.tim.tpo k
    let p := if period = 0 then { old with late := !old.active && s.lateAfter old.late (tpoStart s k) }
      else pulseAt (tpoStart s k) period (s.rd (rg 3 (0x110 + k * 0x20))).toNat s.now
    if s.bit (rg 3 (0x100 + k * 0x20)) 0 then
      { s with tim := { s.tim with tpo := tput Pulse.rest s.tim.tpo k p } }
    else s) s

/-- What a step does to the cyclic schedules of every block (R56). -/
def reposition (s : State) : State :=
  lchReposition (lscReposition (gwyReposition (clnReposition (tmgReposition (tpoReposition s)))))

/-- Step SEC and NS by a signed offset on one tick (R108): FRAC is unchanged, every block sees it at once, one-shots
skipped by a forward step will be late, STEPS counts and STEPPED is raised (R56, R109). -/
def stepClock (off : Int) (s : State) : State :=
  let old := s.now
  let new := (((old : Int) + off) % (timeSpan : Int)).toNat
  let t := { s.tim with sec := BitVec.ofNat 48 (new / 1000000000), ns := new % 1000000000,
                        skipFrom := old, skipTo := new }
  let s := reposition { s with tim := t }
  (s.cntF (rg 3 0x30) 15 0 1).raise 3 3

/-- Keystone's seconds: 500,000,000 TCLK ticks each, whatever the logic die does (R499; log entry 4). -/
def keyTick (s : State) : State :=
  let k := s.key.ticks + 1
  if k < 500000000 then s.withKey (fun x => { x with ticks := k })
  else (s.wr (keyReg 0x2C) (s.rd (keyReg 0x2C) + 1)).withKey (fun x => { x with ticks := 0 })

/-- The power die's own time runs on while TIM does not distribute it (R494). -/
def clockTick (s : State) : State :=
  match s.lch.clock with
  | some c => s.withLch (fun l => { l with clock := some ((c.1 + c.2) % (timeSpan * 2 ^ 32), c.2) })
  | none => s

/-- The logic die has its clocks. -/
def clocked (s : State) : Bool := [Phase.ladle, .running, .recovery, .stuck].contains s.sys.phase

/-- At a tick a PoDL source that supplies may be limiting or not: no row says so (R283; log entry 66). -/
def samplePodl (s : State) : State :=
  let on := [14, 15, 16, 17].filter (fun p => podlState s p == 2)
  if on.isEmpty then s
  else on.foldl (fun s p => s.sb (ethPort p 0x18) 12 (Config.coin s.fresh p)) { s with fresh := s.fresh + 1 }

/-- The cluster's harts that run take any contents, and the APLIC's level sources follow their signals (R416, R420; log
entry 21). -/
def clusterTick (s : State) : State :=
  let runs := (List.range 8).filter (fun h => (s.cpu.hart h).started && !(s.cpu.hart h).halted)
  sampleLevels { s with fresh := s.fresh + 1,
                        cpu := runs.foldl (fun c h => c.setHart h ((Config.anyHart s.fresh h).keep (c.hart h))) s.cpu }

/-- One TCLK tick with no command waiting (log entry 4): local time passes, the counter advances and every sprue FIFO
moves two cycles while the logic die has its clocks, and the cluster runs while the die does; a block in doubt takes any
contents (R24). -/
def tick (s : State) : State :=
  let s := clockTick (keyTick { s with sys := { s.sys with ticks := s.sys.ticks + 1 } })
  let s := if s.sys.phase = .off then s else samplePodl (sampleRails (sampleCurrents s))
  let s := if s.up then clusterTick s else s
  unsettleAll (if clocked s then sprueTick (holdoverTick { s with tim := counterAfter s.tim }) else s)

end Sys2Proof.Machine
end

