-- ==== Sys2Proof/Machine/Tim.lean ====
section
/-! DEFINITION. The time base's commands: counter reads, INCR and steps, the servo, gPTP, pulse outputs, capture
inputs and opcodes (R99–R130, R592). -/

namespace Sys2Proof.Machine

/-! ### Reads -/

/-- A read of TIME_NS returns NS and latches SEC and FRAC for the reader (R103). -/
def execTimeNsRead (m : Nat) (s : State) : Out :=
  withRead 3 0 (.none) m (fun s =>
    let l : TimeLatch := { sec := s.tim.sec, frac := s.tim.frac }
    let s := { s with tim := { s.tim with latches := tput { sec := 0, frac := 0 } s.tim.latches m l } }
    s.reply m [BitVec.ofNat 32 s.tim.ns] false) s

/-! ### INCR -/

/-- The limits of INCR (R101). -/
def incrLow : Nat := 0x01FFBE76C9
def incrHigh : Nat := 0x0200418937

/-- Commit INCR: a value outside its range takes the nearer limit and raises INCR_SAT (R101, R107). -/
def commitIncr (v : Nat) (s : State) : State :=
  let x := max incrLow (min incrHigh v)
  let s := { s with tim := { s.tim with incr := BitVec.ofNat 40 x } }
  let s := (s.wr (rg 3 0x10) (BitVec.ofNat 32 x)).wr (rg 3 0x14) (BitVec.ofNat 32 (x / 2 ^ 32))
  if x = v then s else (s.sb (rg 3 0x20) 4 true).raise 3 5

/-- MASON mode: only Mason writes INCR_HI and STEP_HI (R110). -/
def hostMode (s : State) : Bool := s.bit (rg 3 0x24) 0

/-- A write ignored under R110 is counted. -/
def foreignWrite (s : State) : State := s.cntF (rg 3 0x20) 15 8 1

/-- A write of INCR_HI commits the 40-bit INCR (R107, R110). -/
def execIncrCommit (m : Nat) (v : Word) (s : State) : Out :=
  withWrite 3 0x14 (.bit 0) m (fun s =>
    if fld v 31 8 ≠ 0 then unpredictable 3
    else if !hostMode s ∧ m ≠ 0 then .ok (foreignWrite s)
    else .ok (commitIncr (fld v 7 0 * 2 ^ 32 + (s.rd (rg 3 0x10)).toNat) s)) s

/-- Whether a step's result lies within the counter (R108). -/
def stepFits (off : Int) (s : State) : Bool :=
  decide (0 ≤ (s.now : Int) + off) && decide ((s.now : Int) + off < (timeSpan : Int))

/-- A write of STEP_HI commits the step (R108, R110). -/
def execStepCommit (m : Nat) (v : Word) (s : State) : Out :=
  withWrite 3 0x1C (.bit 0) m (fun s =>
    if !hostMode s ∧ m ≠ 0 then .ok (foreignWrite s)
    else
      let off := (BitVec.ofNat 64 (v.toNat * 2 ^ 32 + s.tim.stepLo.toNat)).toInt
      if stepFits off s then .ok (stepClock off s) else unpredictable 3) s

/-! ### The servo -/

/-- The number STATUS.STATE shows for a servo state. -/
def servoNum : Servo → Nat
  | .free => 0 | .locking => 1 | .locked => 2 | .holdover => 3 | .gm => 4

/-- STATUS.STATE and HOLDOVER as R114 and R115 give them; entering holdover restarts HOLDOVER_MS. -/
def showServo (s : State) : State :=
  let n := if hostMode s then s.f (rg 3 0x24) 26 24 else servoNum s.tim.servo
  let was := s.bit (rg 3 0x20) 3
  let s := (s.sf (rg 3 0x20) 2 0 n).sb (rg 3 0x20) 3 (n == 3)
  if n = 3 ∧ was = false then { (s.wr (rg 3 0x28) 0) with tim := { s.tim with holdTicks := 0 } } else s

/-- The servo enters a state. -/
def setServo (v : Servo) (s : State) : State := showServo { s with tim := { s.tim with servo := v } }

/-- R111 on one offset: step, or correct INCR by proportional–integral control, whose result the spec leaves open
(log entry 10). -/
def servoCorrect (off : Int) (s : State) : State :=
  let us := s.f (rg 3 0x24) 15 4
  let far := decide (us * 1000 < off.natAbs)
  if s.tim.servo = .free ∨ (far = true ∧ ¬ (us = 0 ∧ s.tim.everLocked = true)) then stepClock (-off) s
  else
    let p := s.free
    commitIncr (Config.piIncr p.1 off).toNat p.2

/-- Count consecutive offsets within LOCK_NS, and lock at eight (R112). -/
def lockJudge (off : Int) (s : State) : State :=
  let k := if off.natAbs ≤ s.f (rg 3 0x24) 23 16 then s.tim.lockCount + 1 else 0
  let s := { s with tim := { s.tim with lockCount := k } }
  if s.tim.servo = .locking ∧ 8 ≤ k then
    (setServo .locked { s with tim := { s.tim with everLocked := true } }).raise 3 0
  else s

/-- An accepted Sync of the governing domain in MASON mode (R114). -/
def governingSync (off : Int) (s : State) : State :=
  let us := s.f (rg 3 0x24) 15 4
  match s.tim.servo with
  | .free => lockJudge off (setServo .locking (servoCorrect off s))
  | .locking => lockJudge off (servoCorrect off s)
  | .locked =>
    if us * 1000 < off.natAbs ∧ us ≠ 0 then
      setServo .locking (servoCorrect off { s with tim := { s.tim with lockCount := 0 } })
    else servoCorrect off s
  | .holdover =>
    lockJudge off (servoCorrect off ((setServo .locking { s with tim := { s.tim with lockCount := 0 } }).raise 3 2))
  | .gm => lockJudge off (servoCorrect off ((setServo .locking { s with tim := { s.tim with lockCount := 0 } }).raise 3 4))

/-- Role of a port in a gPTP domain (GPTP_ROLE): 0 DISABLED, 1 MASTER, 2 SLAVE, 3 PASSIVE; 0 for an unfitted port
(R11). -/
def gptpRole (s : State) (d p : Nat) : Nat :=
  if !portFitted s.tier p then 0
  else if p < 16 then s.f (rg 3 (0x44 + d * 0x10)) (2 * p + 1) (2 * p)
  else s.f (rg 3 (0x48 + d * 0x10)) (2 * (p - 16) + 1) (2 * (p - 16))

/-- Mason's time-aware system runs domain `d` (R116). -/
def gptpRuns (s : State) (d : Nat) : Bool := !hostMode s && decide (d < 2) && s.bit (rg 3 (0x40 + d * 0x10)) 0

/-- Whether some port of domain `d` has, or with BMCA may have, the role `r` (R116). -/
def gptpAny (s : State) (d r : Nat) : Bool :=
  let bmca := s.bit (rg 3 (0x40 + d * 0x10)) 1
  (List.range 18).any (fun p => gptpRole s d p == r || (bmca && gptpRole s d p != 0))

/-- An accepted Sync of domain `d` with its offset, local time minus grandmaster time (R111, R117). Only Mason's
time-aware system in MASON mode, on an enabled domain with a SLAVE port, accepts Syncs (R116). -/
def execSyncAccepted (domain : Nat) (offset : Int) (s : State) : Out :=
  act (fun s =>
    if !gptpRuns s domain || !gptpAny s domain 2 then s
    else if domain = s.f (rg 3 0x24) 1 1 then governingSync offset s
    else s.wr (rg 3 0x2C) (ofSInt (max (-2147483648) (min 2147483647 (-offset))))) s

/-- Sync receipt timeout of the governing domain (R113, R114); the row's arrival says that the time has passed. -/
def execSyncReceiptTimeout (s : State) : Out :=
  act (fun s =>
    if hostMode s then s
    else match s.tim.servo with
      | .locking | .locked =>
        (setServo .holdover { s with tim := { s.tim with lockCount := 0 } }).raise 3 1
      | _ => s) s

/-- Whether this module can be the grandmaster of domain `d`: with external port configuration, of a domain that has
no SLAVE port; with BMCA, as BMCA chooses (R116). -/
def gptpMaster (s : State) (d : Nat) : Bool :=
  gptpRuns s d && (s.bit (rg 3 (0x40 + d * 0x10)) 1 || !gptpAny s d 2)

/-- The module becomes grandmaster of the governing domain (R114, R116). -/
def execGmChange (s : State) : Out :=
  act (fun s =>
    if !gptpMaster s (s.f (rg 3 0x24) 1 1) || s.tim.servo == .gm then s
    else (setServo .gm { s with tim := { s.tim with lockCount := 0 } }).raise 3 4) s

/-- Mason sends a two-step Sync on a MASTER port, or a Pdelay request on an enabled one (R116); neither on an unfitted
port (R13). With BMCA the row comes only for the ports BMCA makes master. -/
def execGptpSyncSend (domain port : Nat) (pdelay : Bool) (s : State) : Out :=
  act (fun s =>
    let bmca := s.bit (rg 3 (0x40 + domain * 0x10)) 1
    let role := gptpRole s domain port
    if !gptpRuns s domain || !decide (port < 18) then s
    else if (pdelay = true ∧ role ≠ 0) ∨ (pdelay = false ∧ (role = 1 ∨ (bmca = true ∧ role ≠ 0))) then
      let x : GptpSent := { domain := domain, port := port, pdelay := pdelay, at_ := s.now }
      { s with tim := { s.tim with gptpSent := s.tim.gptpSent ++ [x] } }
    else s) s

/-! ### Timed pulse outputs -/

/-- Registers of output `k`. -/
def tpoReg (k off : Nat) : Nat := rg 3 (0x100 + k * 0x20 + off)

/-- The state with output `k`'s pulse replaced. -/
def setPulse (k : Nat) (p : Pulse) (s : State) : State :=
  { s with tim := { s.tim with tpo := tput Pulse.rest s.tim.tpo k p } }

/-- Limits of PERIOD and WIDTH (R122). -/
def pulseShapeOk (period width : Nat) : Bool :=
  if period = 0 then decide (4 ≤ width) && decide (width ≤ 4000000000)
  else decide (8 ≤ period) && decide (period ≤ 4000000000) && decide (4 ≤ width) && decide (width + 4 ≤ period)

/-- Start output `k` (R53, R54, R122–R124): a periodic output at its first instant at or after now; a one-shot whose
START is past is late. -/
def tpoBegin (k : Nat) (s : State) : State :=
  let start := tpoStart s k
  let period := (s.rd (tpoReg k 0xC)).toNat
  let s := s.sb (tpoReg k 0) 0 true
  if period = 0 then
    let s := setPulse k Pulse.rest s
    if start < s.nowUp then (s.cntF (rg 3 0x30) 31 16 1).raise 3 6 else s
  else setPulse k { n := (firstInstant start period s.nowUp - start) / period, active := false, late := false } s

/-- Stop output `k`: inactive at the next tick (R123). -/
def tpoEnd (k : Nat) (s : State) : State := setPulse k Pulse.rest (s.sb (tpoReg k 0) 0 false)

/-- A write of TPO_CTRL (R123): POL and START_SEC_HI are written only while EN = 0. -/
def execTpoEnableWrite (m k : Nat) (v : Word) (s : State) : Out :=
  withWrite 3 (0x100 + k * 0x20) (.bit (8 + k)) m (fun s =>
    if ¬ k < 8 then .ok s
    else if fld v 15 2 ≠ 0 then unpredictable 3
    else if s.bit (tpoReg k 0) 0 then .ok (if bitOf v 0 then s else tpoEnd k s)
    else
      let s := s.wr (tpoReg k 0) (setBit v 0 false)
      if !bitOf v 0 then .ok s
      else if (s.f (tpoReg k 4) 29 0) ≥ 1000000000 ∨
          pulseShapeOk (s.rd (tpoReg k 0xC)).toNat (s.rd (tpoReg k 0x10)).toNat = false then unpredictable 3
      else .ok (tpoBegin k s)) s

/-- An edge of output `k` falls due (R122, R52): the active edge at START + n × PERIOD, the inactive one WIDTH later.
A one-shot clears EN at its inactive edge. A one-shot that a step skipped is late (R56, R124). -/
def execTpoEdge (k : Nat) (s : State) : Out :=
  act (fun s =>
    let p := tget Pulse.rest s.tim.tpo k
    let period := (s.rd (tpoReg k 0xC)).toNat
    let rise := tpoStart s k + p.n * period
    if ¬ k < 8 ∨ s.bit (tpoReg k 0) 0 = false then s
    else if p.active then
      if rise + (s.rd (tpoReg k 0x10)).toNat ≤ s.now then
        if period = 0 then tpoEnd k s else setPulse k { n := p.n + 1, active := false, late := false } s
      else s
    else if rise ≤ s.now then
      let s := setPulse k { p with active := true, late := false } s
      if p.late then (s.cntF (rg 3 0x30) 31 16 1).raise 3 6 else s
    else s) s

/-! ### Capture inputs -/

/-- Registers of input `k`. -/
def tciReg (k off : Nat) : Nat := rg 3 (0x200 + k * 0x20 + off)

/-- A filtered edge on input `k` (R125, R126): the captured time is the present one less the 8 ns filter. -/
def execTciCapture (k : Nat) (falling : Bool) (s : State) : Out :=
  act (fun s =>
    let e := s.f (tciReg k 0) 2 1
    if ¬ k < 4 ∨ s.bit (tciReg k 0) 0 = false ∨ e.testBit (b2n falling) = false then s
    else
      let q := tget [] s.tim.tci k
      if q.length ≥ 16 then (s.cntF (tciReg k 0xC) 15 8 1).raise 3 (12 + k)
      else
        let t := (s.now + timeSpan - 8) % timeSpan
        let c : Capture := { sec := BitVec.ofNat 48 (t / 1000000000), ns := t % 1000000000, falling := falling }
        let s := { s with tim := { s.tim with tci := tput [] s.tim.tci k (q ++ [c]) } }
        (s.sf (tciReg k 0xC) 4 0 (q.length + 1)).raise 3 (8 + k)) s

/-- A read of TCI_NS pops the oldest capture; an empty FIFO reads 0 (R126). -/
def execTciPop (m k : Nat) (s : State) : Out :=
  withRead 3 (0x204 + k * 0x20) (.bit (16 + k)) m (fun s =>
    match tget [] s.tim.tci k with
    | [] => s.reply m [0] false
    | c :: r =>
      let s := { s with tim := { s.tim with tci := tput [] s.tim.tci k r } }
      let s := (s.wr (tciReg k 8) (BitVec.ofNat 32 c.sec.toNat)).sf (tciReg k 0xC) 31 16 (c.sec.toNat / 2 ^ 32)
      let s := s.sf (tciReg k 0xC) 4 0 r.length
      s.reply m [BitVec.ofNat 32 (c.ns + b2n c.falling * 2 ^ 30 + 2 ^ 31)] false) s

/-! ### Opcodes (R127–R129, R592) -/

/-- The TIM opcodes; the mask bit is the instance (R127). -/
def opsTim : List OpSpec :=
  let one := fun (op len lo hi : Nat) => ({ opcode := op, lenLo := len, lenHi := len, instLo := lo, instHi := hi,
                                            classHi := 19, block := 3, mask := fun c => .bit c.inst } : OpSpec)
  [one 0x0300 0 0 0, one 0x0301 8 0 0, one 0x0302 8 0 0, one 0x0303 4 0 0, one 0x0304 12 1 2, one 0x0305 24 8 15,
   one 0x0306 4 16 19]

def effTimGetTime : CmdEff := fun _ s =>
  .res s (leBytes 4 s.tim.ns ++ leBytes 6 s.tim.sec.toNat ++ leBytes 2 0 ++ leBytes 4 s.tim.frac.toNat ++
    leBytes 4 (s.rd (rg 3 0x20)).toNat)

def effTimStep : CmdEff := fun c s =>
  let off := (BitVec.ofNat 64 (c.p 32 8)).toInt
  if !stepFits off s then badParam 0x103 32 0
  else if !hostMode s ∧ c.issuer ≠ 0 then wrongState 0x102 0
  else .done (stepClock off s)

def effTimSetIncr : CmdEff := fun c s =>
  let v := c.p 32 8
  if v ≥ 2 ^ 40 then reservedField c 37
  else if v < incrLow ∨ v > incrHigh then badParam 0x101 32 (v % 2 ^ 32)
  else if !hostMode s ∧ c.issuer ≠ 0 then wrongState 0x102 0
  else .done (commitIncr v s)

/-- A valid SERVO_CFG word (R592). -/
def servoForm (v : Word) : Bool :=
  decide (1 ≤ fld v 23 16) && decide (fld v 26 24 ≤ 4) && fld v 3 2 == 0 && fld v 31 27 == 0

def effTimSetServo : CmdEff := fun c s =>
  if servoForm (c.w 32) then .done (showServo (s.wr (rg 3 0x24) (c.w 32))) else badParam 0x107 32 (c.p 32 4)

/-- LOG_SYNC is −5 to 0 and LOG_PDELAY −3 to 3, signed in 4 bits (R116). -/
def gptpForm (v : Word) : Bool :=
  let a := fld v 19 16
  let b := fld v 23 20
  (a == 0 || decide (11 ≤ a)) && (decide (b ≤ 3) || decide (13 ≤ b))

/-- TIM_GPTP_CFG; a LOG_SYNC or LOG_PDELAY out of range has no code of R129: code 0, the word as its value (log entry
56). -/
def effTimGptpCfg : CmdEff := fun c s =>
  let d := c.inst - 1
  let v := c.w 32
  if fld v 7 2 ≠ 0 ∨ bitOf v 31 = true then reservedField c 32
  else if c.p 36 8 ≥ 2 ^ 36 then reservedField c 40
  else if !gptpForm v then badParam 0 32 (c.p 32 4)
  else if fld v 30 24 = s.f (rg 3 (0x40 + (1 - d) * 0x10)) 30 24 then badParam 0x105 32 (fld v 30 24)
  else if s.bit (rg 3 (0x40 + d * 0x10)) 0 then
    if bitOf v 0 then wrongState 0x104 c.inst else .done (s.sb (rg 3 (0x40 + d * 0x10)) 0 false)
  else .done (((s.wr (rg 3 (0x40 + d * 0x10)) v).wr (rg 3 (0x44 + d * 0x10)) (c.w 36)).wr
    (rg 3 (0x48 + d * 0x10)) (c.w 40))

/-- TIM_PULSE_CFG; PULSE_SHAPE points at PERIOD where that is outside its own range, else at WIDTH, whose range R122 gives
by PERIOD. -/
def effTimPulseCfg : CmdEff := fun c s =>
  let k := c.inst - 8
  if !c.timeForm 32 then timeReserved c 32
  else if c.timeNs 32 ≥ 1000000000 then badParam 0x100 32 (c.timeNs 32)
  else if c.p 52 4 ≥ 4 then reservedField c 52
  else if !pulseShapeOk (c.p 44 4) (c.p 48 4) then badParam 0x106 (if c.p 44 4 ≠ 0 ∧ (c.p 44 4 < 8 ∨ 4000000000 < c.p 44 4) then 44 else 48) 0
  else if s.bit (tpoReg k 0) 0 then wrongState 0x104 c.inst
  else
    let pol := bitOf (c.w 52) 1
    let s := s.wr (tpoReg k 0) (BitVec.ofNat 32 (c.p 40 2 * 2 ^ 16 + 2 * b2n pol))
    let s := ((s.wr (tpoReg k 4) (c.w 32)).wr (tpoReg k 8) (c.w 36)).wr (tpoReg k 0xC) (c.w 44)
    let s := s.wr (tpoReg k 0x10) (c.w 48)
    .done (if bitOf (c.w 52) 0 then tpoBegin k s else s)

/-- TIM_CAPTURE_CFG; EDGE = 0 has no code of R129: code 0, the word as its value (log entry 56). -/
def effTimCaptureCfg : CmdEff := fun c s =>
  if c.p 32 4 ≥ 8 then reservedField c 32
  else if c.p 32 4 / 2 = 0 then badParam 0 32 (c.p 32 4)
  else .done (s.wr (tciReg (c.inst - 16) 0) (c.w 32))

def execTimGetTime (ring slot : Nat) (s : State) : Out := opRow (specOf opsTim 0x0300) effTimGetTime ring slot s

def execTimStep (ring slot : Nat) (s : State) : Out := opRow (specOf opsTim 0x0301) effTimStep ring slot s

def execTimSetIncr (ring slot : Nat) (s : State) : Out := opRow (specOf opsTim 0x0302) effTimSetIncr ring slot s

def execTimSetServo (ring slot : Nat) (s : State) : Out := opRow (specOf opsTim 0x0303) effTimSetServo ring slot s

def execTimGptpCfg (ring slot : Nat) (s : State) : Out := opRow (specOf opsTim 0x0304) effTimGptpCfg ring slot s

def execTimPulseCfg (ring slot : Nat) (s : State) : Out := opRow (specOf opsTim 0x0305) effTimPulseCfg ring slot s

def execTimCaptureCfg (ring slot : Nat) (s : State) : Out := opRow (specOf opsTim 0x0306) effTimCaptureCfg ring slot s

/-! ### Registers without a row of their own -/

/-- Software's write of a TIM register that has no row: staging words, SERVO_CFG (R592, R115), the registers a
running domain or pulse holds (R119, R123), values outside their limits (R105, R122) and TCI_CTRL. Answers none where
the field types alone decide. -/
def timWrite (off : Nat) (v : Word) (s : State) : Option Ans :=
  if off = 0x18 then some (.ok { s with tim := { s.tim with stepLo := v } })
  else if off = 0x24 then
    some (if servoForm v then .ok (showServo (s.wr (rg 3 0x24) v)) else unpredictable 3)
  else if 0x40 ≤ off ∧ off < 0x60 then
    let d := (off - 0x40) / 0x10
    let cfg := rg 3 (0x40 + d * 0x10)
    if s.bit cfg 0 then
      some (.ok (if off % 0x10 = 0 ∧ bitOf v 0 = false then s.sb cfg 0 false else s))
    else if off % 0x10 = 0 then
      some (if gptpForm v = false ∨ fld v 30 24 = s.f (rg 3 (0x40 + (1 - d) * 0x10)) 30 24 then unpredictable 3
        else .ok (s.wr cfg v))
    else none
  else if 0x100 ≤ off ∧ off < 0x200 then
    let k := (off - 0x100) / 0x20
    let o := off % 0x20
    if s.bit (tpoReg k 0) 0 then (if o ≠ 0 then some (.ok s) else none)
    else if (o = 4 ∧ 1000000000 ≤ fld v 29 0) ∨ (o = 0xC ∧ v ≠ 0 ∧ (v.toNat < 8 ∨ 4000000000 < v.toNat)) ∨
        (o = 0x10 ∧ (v.toNat < 4 ∨ 4000000000 < v.toNat)) then some (unpredictable 3)
    else none
  else if 0x200 ≤ off ∧ off < 0x280 ∧ off % 0x20 = 0 then
    some (if fld v 2 1 = 0 then unpredictable 3 else .ok (s.wr (tciReg ((off - 0x200) / 0x20) 0) v))
  else none

end Sys2Proof.Machine
end

