-- ==== Sys2Proof/Machine/Tmg.lean ====
section
/-! DEFINITION. The traffic manager's commands: choosing the next frame, course boundaries and switches,
verification, sampling and opcodes (R237–R266). -/

namespace Sys2Proof.Machine

/-! ### Choosing the next frame (R238, R239, R251) -/

/-- Discard a queue's head copy. -/
def discardHead (q : Nat) (s : State) : State :=
  match tget [] s.swc.queues q with
  | [] => s
  | c :: r => showQueue q (releaseCopy c (setQueue q r s))

/-- Whether a copy's W exceeds the port's maximum transmit size (R286). -/
def oversize (s : State) (c : Copy) : Bool :=
  decide (c.port < 18) && decide (s.f (rg 8 (0x1008 + c.port * 0x100)) 29 16 < copyLen s c)

/-- Whether a head copy can never fit its TC's longest window in the list in force (R246). -/
def neverFits (s : State) (c : Copy) : Bool :=
  match inForce s c.port with
  | none => false
  | some f =>
    match longestWindow c.tc (bankOf s c.port f.bank) with
    | none => false
    | some w => decide (0 < rateMbps s c.port) && decide (w < txTime s c.port (counted s c) + margin s c.port)

/-- Discard the heads of a queue that are too large or never fit (R246, R286). -/
def purgeQueue (q : Nat) : Nat → State → State
  | 0, s => s
  | fuel + 1, s =>
    match headCopy s q with
    | none => s
    | some c =>
      if oversize s c then purgeQueue q fuel (discardHead q (s.cnt (rg 8 (0x1064 + c.port * 0x100)) 1))
      else if neverFits s c then purgeQueue q fuel ((discardHead q (s.cnt (tmgPort c.port 0x24) 1)).raise 7 0)
      else s

/-- Discard such heads of every queue of a port. -/
def purgePort (p : Nat) (s : State) : State :=
  (List.range 8).foldl (fun s t => purgeQueue (p * 8 + t) ((tget [] s.swc.queues (p * 8 + t)).length + 1) s) s

/-- Judge a queue for a selection: eligible, or a FIT_WAIT counted where the fit rule alone fails (R244). -/
def judgeQueue (q : Nat) (s : State) : Bool × State :=
  if otherwiseEligible s q then
    if eligible s q then (true, s) else (false, s.cnt (tmgPort (q / 8) 0x20) 1)
  else (false, s)

/-- Counted length of a queue's head. -/
def headCounted (s : State) (q : Nat) : Nat :=
  match headCopy s q with
  | some c => counted s c
  | none => 0

/-- The loop of R251 over the queues of a port that `ok` accepts; some queue is accepted. -/
def drrLoop (p : Nat) (ok : Nat → Bool) : Nat → State → Option Nat × State
  | 0, s => (none, s)
  | fuel + 1, s =>
    let t := tget 0 s.tmg.drr p
    let q := p * 8 + t
    let move := fun (s : State) =>
      s.withTmg (fun x => { x with visit := tput false x.visit q false, drr := tput 0 x.drr p ((t + 1) % 6) })
    if ok q then
      let s := if tget false s.tmg.visit q then s
        else (s.cnt (tmgQueue q 0x14) (s.rd (tmgQueue q 0xC)).toNat).withTmg
          (fun x => { x with visit := tput false x.visit q true })
      let c := headCounted s q
      let d := (s.rd (tmgQueue q 0x14)).toNat
      if c ≤ d then (some q, s.wr (tmgQueue q 0x14) (BitVec.ofNat 32 (d - c)))
      else drrLoop p ok fuel (move s)
    else drrLoop p ok fuel (move s)

/-- One pass of deficit round robin. -/
def drrSelect (p : Nat) (qs : List Nat) (pass : Pass) (s : State) : Option Nat × State :=
  let ok := fun q => qs.contains q && passOf s q == pass
  if qs.any ok then drrLoop p ok 1000 s else (none, s)

/-- The queue TMG chooses (R239), with the FIT_WAITs of the queues it judged. -/
def choose (p : Nat) (s : State) : Option Nat × State :=
  let a := judgeQueue (p * 8 + 7) s
  if a.1 then (some (p * 8 + 7), a.2)
  else
    let b := judgeQueue (p * 8 + 6) a.2
    if b.1 then (some (p * 8 + 6), b.2)
    else
      let r := (List.range 6).foldl (fun (x : List Nat × State) t =>
        let j := judgeQueue (p * 8 + t) x.2
        (if j.1 then x.1 ++ [p * 8 + t] else x.1, j.2)) ([], b.2)
      let c := drrSelect p r.1 .committed r.2
      match c.1 with
      | some q => (some q, c.2)
      | none => drrSelect p r.1 .excess c.2

/-- The active transmit AN of a port with MACsec on, as its registers and SA table say (R288, R293). -/
def activeAn (s : State) (p : Nat) : Option Nat := if p ≤ 13 ∧ s.bit (rg 8 (0x101C + p * 0x100)) 0 then
    tget none s.eth.txAn p else none

/-- The head copy of queue `q` starts, or is dropped where its first tile fails its check (R135): `bad` names the
tile within the frame. The gateway learns of one that was to leave through IG (R358). -/
def startCopy (p q : Nat) (bad : Option Nat) (s : State) : State :=
  match tget [] s.swc.queues q with
  | [] => s
  | c :: r =>
    match bad with
    | some t =>
      let u := setQueue q r s
      match findFrame s c.frame with
      | some f =>
        let u := tcwFail p f.tiles[t]? u
        showQueue q (releaseCopy c (if p = 19 then igDeliver c f (egressForm f c).1 true u else u))
      | none => showQueue q (releaseCopy c (tcwFail p none u))
    | none =>
      let d := { c with an := activeAn s p, began := fclk s, gone := 0, cutLen := none }
      let t := setQueue q r (setTx p (some d) (debit q (counted s c) s))
      match findFrame s c.frame with
      | some f => if macsecShared s p (egressForm f c).1 then t.withEth (fun e => { e with shared := e.shared ++ [.tx p] }) else t
      | none => t

/-- At a start instant of port `p` TMG chooses the next copy (R239): TC7 goes ahead of a copy that was cut, which
resumes ahead of any other choice, unless the hold state keeps it (R247, R254). -/
def transmitSelect (p : Nat) (bad : Option Nat) (s : State) : State :=
  if portFitted s.tier p = false ∨ portUp s p = false then s
  else
    let s := cutNow p (preempt p (purgePort p s))
    match tget none s.swc.tx p, tget none s.swc.cut p with
    | some _, _ => s
    | none, some c =>
      let j := judgeQueue (p * 8 + 7) s
      if j.1 then startCopy p (p * 8 + 7) bad j.2
      else if holdBit s p && preemptActive s p then j.2
      else setTx p (some { c with began := fclk s }) (j.2.withSwc (fun w => { w with cut := tput none w.cut p none }))
    | none, none =>
      let x := choose p s
      match x.1 with
      | some q => startCopy p q bad x.2
      | none => x.2

def execTransmitSelect (p : Nat) (bad : Option Nat) (s : State) : Out := act (transmitSelect p bad) s

/-! ### Course lists (R240–R247) -/

/-- The next course of the list in force begins, once the present one has ended. -/
def execCourseBoundary (p : Nat) (s : State) : Out :=
  act (fun s =>
    match inForce s p with
    | none => s
    | some f =>
      let l := bankOf s p f.bank
      let i := (f.idx + 1) % max 1 l.length
      if f.ends ≤ s.now then preempt p (beginCourse p i (f.ends + (l[i]?.map Course.dur).getD 0) s) else s) s

/-- A pending switch takes force at its instant (R242); copies that can never fit the new list go (R246). -/
def execListSwitched (p : Nat) (s : State) : Out :=
  act (fun s =>
    match pendingSwitch s p with
    | some w => if w.at_ ≤ s.now then preempt p (purgePort p (applySwitch p w s)) else s
    | none => s) s

/-! ### Verification and sampling (R253, R260) -/

/-- The verify timer of a port expires: `ok` says that the partner has answered. A third failure ends it (R253). -/
def execVerifyTimer (p : Nat) (ok : Bool) (s : State) : Out :=
  act (fun s =>
    if s.f (tmgPort p 8) 19 17 ≠ 2 then s
    else if ok then showPreempt p (s.sf (tmgPort p 8) 19 17 3)
    else
      let n := tget 0 s.tmg.verifyTries p + 1
      if n < 3 then s.withTmg (fun t => { t with verifyTries := tput 0 t.verifyTries p n })
      else ((showPreempt p (s.sf (tmgPort p 8) 19 17 4)).cnt (tmgPort p 0x2C) 1).raise 7 2) s

def latReg (q off : Nat) : Nat := rg 7 (0x8000 + q * 0x80 + off)

/-- Bin of a value (R261). -/
def latBin (v : Nat) : Nat := if v = 0 then 0 else min 15 (Nat.log2 v + 1)

/-- Sample one queue (R260, R261). -/
def sampleQueue (q : Nat) (s : State) : State :=
  let p := q / 8
  let depth := charge s q
  let soj := match (airCopy s q).or (headCopy s q) with
    | some c => fclk s - c.released
    | none => 0
  let v := (if s.bit (tmgPort p 0) 10 then depth else soj) / 2 ^ s.f (tmgPort p 0) 14 11
  let s := s.cnt (latReg q (latBin v * 4)) 1
  let s := s.wr (latReg q 0x40) (BitVec.ofNat 32 (max (s.rd (latReg q 0x40)).toNat (min 0xFFFFFFFF soj)))
  s.wr (latReg q 0x44) (BitVec.ofNat 32 (max (s.rd (latReg q 0x44)).toNat depth))

/-- Every queue of every fitted port is sampled at one instant; the row's arrival says that INTERVAL_US has passed. -/
def execLatencySample (s : State) : Out :=
  act (fun s =>
    if s.bit (rg 7 0) 0 then
      (fittedPorts s).foldl (fun s p => (List.range 8).foldl (fun s t => sampleQueue (p * 8 + t) s) s) s
    else s) s

/-! ### Configuration shared by opcodes and registers -/

/-- A PORT_CFG word in range (R253, R266): reserved bits apart. -/
def tmgPortForm (p : Nat) (v : Word) : Bool :=
  let o := signed8 (fld v 7 0)
  decide (-32 ≤ o) && decide (o ≤ 96) && !(bitOf v 8 && decide (14 ≤ p)) && decide (1 ≤ fld v 23 16) &&
  decide (fld v 23 16 ≤ 128)

/-- PORT_CFG takes a new value: a change of the sampling clears the bins, a change of preemption restarts
verification (R253, R261). -/
def setTmgPort (p : Nat) (v : Word) (s : State) : State :=
  let old := s.rd (tmgPort p 0)
  let s := s.wr (tmgPort p 0) v
  let s := if fld old 14 10 = fld v 14 10 then s
    else (List.range 8).foldl (fun s t =>
      (List.range 16).foldl (fun s b => s.wr (latReg (p * 8 + t) (b * 4)) 0) s) s
  if fld old 9 8 = fld v 9 8 then s else restartVerify p s

/-- A queue's CFG, CIR and CBS take new values (R248): the credit starts full where the shaper is enabled, and is
kept and clamped otherwise. -/
def setShaper (q : Nat) (cfg cir cbs : Word) (s : State) : State :=
  let was := s.bit (tmgQueue q 0) 0
  let b := queueBucket s q
  let s := ((s.wr (tmgQueue q 0) cfg).wr (tmgQueue q 4) cir).wr (tmgQueue q 8) cbs
  let full : Int := (cbs.toNat : Int) * 65536
  setBucket q (tmgQueue q 0x10)
    { b with credit := if bitOf cfg 0 && !was then full else min full b.credit } s

/-- A group's registers take new values (R250). -/
def setGroup (g : Nat) (cfg cir cbs pir pbs : Word) (s : State) : State :=
  let was := s.bit (tmgGroup g 0) 0
  let cb := commBucket s g
  let pb := peakBucket s g
  let s := ((((s.wr (tmgGroup g 0) cfg).wr (tmgGroup g 4) cir).wr (tmgGroup g 8) cbs).wr (tmgGroup g 0xC) pir).wr
    (tmgGroup g 0x10) pbs
  let fill := fun (cap : Word) (b : Bucket) =>
    let full : Int := (cap.toNat : Int) * 65536
    { b with credit := if bitOf cfg 0 && !was then full else min full b.credit }
  setBucket (pkey g) (tmgGroup g 0x18) (fill pbs pb) (setBucket (ckey g) (tmgGroup g 0x14) (fill cbs cb) s)

def rateOk (n : Nat) : Bool := decide (1 ≤ n) && decide (n ≤ 50000000)
def burstOk (n : Nat) : Bool := decide (n ≤ 16777215)
def quantumOk (n : Nat) : Bool := decide (64 ≤ n) && decide (n ≤ 262144)

/-- Whether a Q_CFG word asks for what R249 and R250 rule out for a queue. -/
def queueCfgBad (s : State) (q : Nat) (v : Word) : Option (Nat × Nat) :=
  if q % 8 = 7 ∧ (bitOf v 0 ∨ bitOf v 1) then some (0x109, q)
  else if bitOf v 1 ∧ (q % 8 = 6 ∨ s.f (tmgGroup (fld v 6 2) 0) 12 8 ≠ q / 8) then some (0x10A, fld v 6 2)
  else none

/-- Queues that are members of a group. -/
def groupMembers (s : State) (g : Nat) : Bool :=
  (List.range 168).any (fun q => s.bit (tmgQueue q 0) 1 && s.f (tmgQueue q 0) 6 2 == g)

/-- Whether a master has the mask bit of the port of a group register, beside that of the groups (R262): of the port
written where G_CFG is. -/
def groupPortOk (m off : Nat) (v : Word) (s : State) : Bool :=
  let p := if off % 0x20 = 0 then fld v 12 8 else s.f (rg 7 (off / 0x20 * 0x20)) 12 8
  !(decide (0x3000 ≤ off) && decide (off < 0x3400)) || (s.aclEntry 7 m).mask.getLsbD p

/-- Software's write of a TMG register that has no row: a value that the commands refuse is unpredictable (R60, R266).
-/
def tmgWrite (off : Nat) (v : Word) (s : State) : Option Ans :=
  let check := fun (ok : Bool) (t : State) => some (if ok then (.ok t : Ans) else unpredictable 7)
  if off = 0 then check (decide (1 ≤ fld v 10 1) && decide (fld v 10 1 ≤ 1000)) (s.wr (rg 7 0) v)
  else if 0x1000 ≤ off ∧ off < 0x2500 then
    let p := (off - 0x1000) / 0x100
    if off % 0x100 = 0 then check (tmgPortForm p v) (setTmgPort p v s)
    else if off % 0x100 = 4 then check (decide (v.toNat ≤ 1000000)) (s.wr (rg 7 off) v)
    else none
  else if 0x3000 ≤ off ∧ off < 0x3400 then
    let g := (off - 0x3000) / 0x20
    let r := fun (o : Nat) => if off % 0x20 = o then v else s.rd (tmgGroup g o)
    let t := setGroup g (r 0) (r 4) (r 8) (r 0xC) (r 0x10) s
    let o := off % 0x20
    if o = 0 then
      check (decide (fld v 12 8 ≤ 20) && (fld v 12 8 == s.f (tmgGroup g 0) 12 8 || !groupMembers s g)) t
    else if o = 4 ∨ o = 0xC then check (rateOk v.toNat && decide ((r 4).toNat ≤ (r 0xC).toNat)) t
    else if o = 8 ∨ o = 0x10 then check (burstOk v.toNat) t
    else none
  else if 0x4000 ≤ off ∧ off < 0x5500 then
    let q := (off - 0x4000) / 0x20
    let r := fun (o : Nat) => if off % 0x20 = o then v else s.rd (tmgQueue q o)
    let t := setShaper q (r 0) (r 4) (r 8) s
    let o := off % 0x20
    if o = 0 then check (queueCfgBad s q v).isNone t
    else if o = 4 then check (rateOk v.toNat) t
    else if o = 8 then check (burstOk v.toNat) t
    else if o = 0xC then check (quantumOk v.toNat) (s.wr (rg 7 off) v)
    else none
  else none

/-! ### Opcodes (R262–R264) -/

def opsTmg : List OpSpec :=
  let port := fun (op len hi : Nat) (b : Buf) =>
    ({ opcode := op, lenLo := len, lenHi := hi, lenOk := fun n => n % 8 == len % 8, instHi := 20, classHi := 167,
       block := 7, mask := fun c => .bit c.inst, fitted := fun s c => portFitted s.tier c.inst, buf := b,
       lenNeed := fun p => if b = .input then some (8 + 8 * leAt p 4 4) else none } : OpSpec)
  let queue := fun (op len : Nat) =>
    ({ opcode := op, lenLo := len, lenHi := len, instHi := 167, classHi := 167, block := 7,
       mask := fun c => .bit (c.inst / 8), fitted := fun s c => portFitted s.tier (c.inst / 8) } : OpSpec)
  let one := fun (op len bit : Nat) =>
    ({ opcode := op, lenLo := len, lenHi := len, classHi := 167, block := 7, mask := fun _ => .bit bit } : OpSpec)
  [port 0x0700 8 8 .none, port 0x0701 16 8200 .input, port 0x0702 16 16 .none, port 0x0703 0 0 .none, queue 0x0704 16,
   one 0x0705 20 32, one 0x0706 28 33, one 0x0707 4 33,
   { opcode := 0x0708, lenLo := 28, lenHi := 2068, lenOk := fun n => n % 8 == 4, instHi := 31, classHi := 167, block := 7,
     mask := fun _ => .bit 34, buf := .input, lenNeed := fun p => some (20 + 8 * leAt p 16 4) },
   one 0x0709 4 35, queue 0x070A 0, port 0x070B 0 0 .none]

def effTmgSetPort : CmdEff := fun c s =>
  let v := c.w 32
  let o := signed8 (fld v 7 0)
  if fld v 15 15 ≠ 0 ∨ fld v 31 24 ≠ 0 then reservedField c 32
  else if c.p 36 4 ≥ 2 ^ 20 then reservedField c 36
  else if o < -32 ∨ 96 < o then badParam 0x108 32 (ofSInt o).toNat
  else if bitOf v 8 ∧ 14 ≤ c.inst then badParam 0x10C 32 c.inst
  else if fld v 23 16 = 0 ∨ 128 < fld v 23 16 then badParam 0x110 34 0
  else if 1000000 < c.p 36 4 then badParam 0x110 36 0
  else .done (setTmgPort c.inst v (s.wr (tmgPort c.inst 4) (c.w 36)))

/-- Entries of 8 bytes at payload offset `o`. -/
def payEntries (c : Cmd) (o n : Nat) : List (Word × Word) :=
  (List.range n).map (fun i => (c.w (o + 8 * i), c.w (o + 8 * i + 4)))

/-- A duration in range (R240, R259). -/
def durOk (v : Word) : Bool := decide (8 ≤ v.toNat) && decide (v.toNat ≤ 1000000000)

/-- First entry out of range. -/
def badEntry (ok : Word × Word → Bool) (l : List (Word × Word)) : Option Nat :=
  (List.range l.length).find? (fun i => match l[i]? with
    | some e => !(ok e && durOk e.2)
    | none => false)

/-- Checks of a schedule's entries and cycle time (R240). -/
def cycleCheck (ok : Word × Word → Bool) (o : Nat) (l : List (Word × Word)) (k : CmdOut) : CmdOut :=
  match badEntry ok l with
  | some i => badParam 0x101 (o + 8 * i) i
  | none =>
    let cyc := (l.map (fun e => e.2.toNat)).sum
    if cyc < 1000 ∨ 1000000000 < cyc then badParam 0x100 o (min 0xFFFFFFFF cyc) else k

def effTmgCoursesLoad : CmdEff := fun c s =>
  let b := c.p 32 1
  let n := c.p 36 4
  if c.len ≠ 8 + 8 * n then .fail stLength 6 6 (8 + 8 * n)
  else if 1 < b then badParam 0x110 32 0
  else if !c.zero 33 3 then reservedField c 33
  else
    let l := payEntries c 40 n
    cycleCheck (fun e => fld e.1 31 10 == 0 && fld e.1 9 8 != 3) 40 l <|
      if ((inForce s c.inst).map InForce.bank) = some b ∨ ((pendingSwitch s c.inst).bind Switch.bank) = some b then
        wrongState 0x102 b
      else
        let cs := l.map (fun e => ({ gates := fld e.1 7 0, op := fld e.1 9 8, dur := e.2.toNat } : Course))
        .done (s.withTmg (fun t => { t with banks := tput [] t.banks (c.inst * 2 + b) cs }))

def effTmgGateSwitch : CmdEff := fun c s =>
  let f := c.p 32 1
  let off := f.testBit 1
  let bank := f % 2
  if 4 ≤ f then reservedField c 32
  else if c.zero 33 3 = false then reservedField c 33
  else if !c.timeForm 36 then timeReserved c 36
  else if 1000000000 ≤ c.timeNs 36 then badParam 0x10D 36 (c.timeNs 36)
  else match pendingSwitch s c.inst with
    | some w => wrongState 0x103 (w.bank.getD 2)
    | none =>
      let l := bankOf s c.inst bank
      if off = false ∧ l.isEmpty = true then wrongState 0x104 bank
      else
        let t := if off then max (c.time 36) s.now else firstInstant (c.time 36) (cycleOf l) s.nowUp
        let w : Switch := { bank := if off then none else some bank, at_ := t }
        let s := s.withTmg (fun x => { x with switch := tput none x.switch c.inst (some w) })
        .res (showLists c.inst (holdBit s c.inst) s) (timeBytes t)

def effTmgGateStatus : CmdEff := fun c s =>
  let cyc := match inForce s c.inst with
    | some f => cycleOf (bankOf s c.inst f.bank)
    | none => 0
  .res s (leBytes 4 (s.rd (tmgPort c.inst 8)).toNat ++ leBytes 4 (s.rd (tmgPort c.inst 0xC)).toNat ++ leBytes 4 cyc ++
    (match pendingSwitch s c.inst with
     | some w => timeBytes w.at_
     | none => List.replicate 12 0))

def effTmgSetQueue : CmdEff := fun c s =>
  let v := c.w 32
  if fld v 31 7 ≠ 0 then reservedField c 32
  else if !rateOk (c.p 36 4) then badParam 0x105 36 (c.p 36 4)
  else if !burstOk (c.p 40 4) then badParam 0x106 40 (c.p 40 4)
  else if !quantumOk (c.p 44 4) then badParam 0x107 44 (c.p 44 4)
  else match queueCfgBad s c.inst v with
    | some (code, val) => badParam code 32 val
    | none => .done (setShaper c.inst v (c.w 36) (c.w 40) (s.wr (tmgQueue c.inst 0xC) (c.w 44)))

/-- Checks of a two-rate meter at payload offset `o`: CIR, CBS, PIR, PBS. -/
def meterCheck (c : Cmd) (o : Nat) (k : CmdOut) : CmdOut :=
  if !rateOk (c.p o 4) then badParam 0x105 o (c.p o 4)
  else if !burstOk (c.p (o + 4) 4) then badParam 0x106 (o + 4) (c.p (o + 4) 4)
  else if !rateOk (c.p (o + 8) 4) then badParam 0x105 (o + 8) (c.p (o + 8) 4)
  else if !burstOk (c.p (o + 12) 4) then badParam 0x106 (o + 12) (c.p (o + 12) 4)
  else if c.p (o + 8) 4 < c.p o 4 then badParam 0x10B o (c.p o 4)
  else k

def effTmgSetGroup : CmdEff := fun c s =>
  let g := c.p 32 1
  let p := c.p 33 1
  if 31 < g then badParam 0x10F 32 g
  else if 20 < p then badParam 0x110 33 0
  else if 1 < c.p 34 1 then reservedField c 34
  else if c.zero 35 1 = false then reservedField c 35
  else meterCheck c 36 <|
    if portFitted s.tier p = false then .fail stNotFitted 0 33 p
    else if (s.aclEntry 7 c.issuer).mask.getLsbD p = false then .fail stDenied 0x11 33 p
    else if s.f (tmgGroup g 0) 12 8 ≠ p ∧ groupMembers s g = true then badParam 0x10A 33 g
    else .done (setGroup g (BitVec.ofNat 32 (c.p 34 1 + p * 256)) (c.w 36) (c.w 40) (c.w 44) (c.w 48) s)

/-- An entry number of 2 bytes with its reserved bytes (INDEX_RANGE). -/
def withEntry (c : Cmd) (k : Nat → CmdOut) : CmdOut :=
  if 4095 < c.p 32 2 then badParam 0x10F 32 (c.p 32 2)
  else if !c.zero 34 2 then reservedField c 34
  else k (c.p 32 2)

def effTmgSetPolicer : CmdEff := fun c s =>
  withEntry c fun i =>
    let v := c.w 36
    if fld v 31 10 ≠ 0 then reservedField c 36
    else if fld v 8 7 = 3 then badParam 0x110 36 0
    else meterCheck c 40 <|
      .done (setPolicer i { policer s i with cfg := v, cir := c.p 40 4, cbs := c.p 44 4, pir := c.p 48 4,
                                             pbs := c.p 52 4, maxSdu := c.p 56 4, blocked := false,
                                             ctok := c.p 44 4 * 65536, ptok := c.p 52 4 * 65536 } s)

def effTmgPolicerCounters : CmdEff := fun c s =>
  withEntry c fun i =>
    let x := policer s i
    .res (setPolicer i { x with green := 0, yellow := 0, red := 0, gateClosed := 0, oversize := 0 } s)
      ([x.green, x.yellow, x.red, x.gateClosed, x.oversize, b2n x.blocked].flatMap (leBytes 4))

def effTmgSetStreamGate : CmdEff := fun c s =>
  let n := c.p 48 4
  if c.len ≠ 20 + 8 * n then .fail stLength 6 6 (20 + 8 * n)
  else if 1 < c.p 32 1 then reservedField c 32
  else if c.zero 33 3 = false then reservedField c 33
  else if !c.timeForm 36 then timeReserved c 36
  else if 1000000000 ≤ c.timeNs 36 then badParam 0x10D 36 (c.timeNs 36)
  else
    let l := payEntries c 52 n
    cycleCheck (fun e => fld e.1 31 5 == 0) 52 l <|
      let x := tget StreamGate.zero s.tmg.gates c.inst
      let put := fun (y : StreamGate) => s.withTmg (fun t => { t with gates := tput StreamGate.zero t.gates c.inst y })
      if x.en then
        if (c.p 32 1).testBit 0 then wrongState 0x10E c.inst else .done (put { x with en := false })
      else .done (put { en := (c.p 32 1).testBit 0, base := c.time 36,
                        first := firstInstant (c.time 36) ((l.map (fun e => e.2.toNat)).sum) s.nowUp,
                        entries := l.map (fun e => { word := e.1, dur := e.2.toNat }) })

def effTmgSetLatency : CmdEff := fun c s =>
  let v := c.w 32
  if fld v 31 11 ≠ 0 then reservedField c 32
  else if fld v 10 1 = 0 ∨ 1000 < fld v 10 1 then badParam 0x110 32 0
  else .done (s.wr (rg 7 0) v)

def effTmgLatRead : CmdEff := fun c s =>
  let r := takeCounters (regRun (latReg c.inst 0) 18) s
  .res r.2 r.1

def effTmgPortCounters : CmdEff := fun c s => .res s (readRegs (regRun (tmgPort c.inst 0x20) 5) s)

def execTmgSetPort (ring slot : Nat) (s : State) : Out := opRow (specOf opsTmg 0x0700) effTmgSetPort ring slot s
def execTmgCoursesLoad (ring slot : Nat) (s : State) : Out := opRow (specOf opsTmg 0x0701) effTmgCoursesLoad ring slot s
def execTmgGateSwitch (ring slot : Nat) (s : State) : Out := opRow (specOf opsTmg 0x0702) effTmgGateSwitch ring slot s
def execTmgGateStatus (ring slot : Nat) (s : State) : Out := opRow (specOf opsTmg 0x0703) effTmgGateStatus ring slot s
def execTmgSetQueue (ring slot : Nat) (s : State) : Out := opRow (specOf opsTmg 0x0704) effTmgSetQueue ring slot s
def execTmgSetGroup (ring slot : Nat) (s : State) : Out := opRow (specOf opsTmg 0x0705) effTmgSetGroup ring slot s
def execTmgSetPolicer (ring slot : Nat) (s : State) : Out := opRow (specOf opsTmg 0x0706) effTmgSetPolicer ring slot s
def execTmgPolicerCounters (ring slot : Nat) (s : State) : Out :=
  opRow (specOf opsTmg 0x0707) effTmgPolicerCounters ring slot s
def execTmgSetStreamGate (ring slot : Nat) (s : State) : Out :=
  opRow (specOf opsTmg 0x0708) effTmgSetStreamGate ring slot s
def execTmgSetLatency (ring slot : Nat) (s : State) : Out := opRow (specOf opsTmg 0x0709) effTmgSetLatency ring slot s
def execTmgLatRead (ring slot : Nat) (s : State) : Out := opRow (specOf opsTmg 0x070A) effTmgLatRead ring slot s
def execTmgPortCounters (ring slot : Nat) (s : State) : Out :=
  opRow (specOf opsTmg 0x070B) effTmgPortCounters ring slot s

end Sys2Proof.Machine
end

