-- ==== Sys2Proof/Machine/RegWrite.lean ====
section
/-! DEFINITION. Accesses on the fabric: register writes and reads by any master, whatever the register, and writes and
reads of memory (R18–R21, R30–R39, R46, R85–R87). -/

namespace Sys2Proof.Machine

/-- Whether the resource a register belongs to is fitted (R7). -/
def regFitted (s : State) (b off : Nat) : Bool :=
  let t := s.tier
  if [4, 7, 8].contains b && decide (0x1000 ≤ off) && decide (off < 0x2500) then portFitted t ((off - 0x1000) / 0x100)
  else if b = 4 ∧ 0x4000 ≤ off ∧ off < 0x4A80 then portFitted t ((off - 0x4000) / 0x80)
  else if b = 7 ∧ 0x4000 ≤ off ∧ off < 0x5500 then portFitted t ((off - 0x4000) / 0x100)
  else if b = 7 ∧ 0x8000 ≤ off ∧ off < 0xD400 then portFitted t ((off - 0x8000) / 0x400)
  else if b = 5 ∧ 0x1000 ≤ off ∧ off < 0x1200 then engineFitted t ((off - 0x1000) / 0x40)
  else if b = 9 ∧ 0x1000 ≤ off ∧ off < 0x2000 then canFitted t ((off - 0x1000) / 0x100)
  else if b = 9 ∧ 0x3000 ≤ off ∧ off < 0x3800 then linFitted t ((off - 0x3000) / 0x100)
  else if b = 10 ∧ 0x8000 ≤ off ∧ off < 0x8500 then nmFitted s ((off - 0x8000) / 0x40)
  else if b = 15 ∧ 0x1000 ≤ off ∧ off < 0x1A00 then chFitted s ((off - 0x1000) / 0x40)
  else true

/-- A write of a register that has a row of its own, whose owner alone writes it, or that no write affects (R48). -/
def rowWrite (m b off : Nat) (v : Word) (s : State) : Option Out :=
  let o := off % 0x40
  match b with
  | 0 => if off = 0x10 then some (withWrite 0 0x10 (.bit 0) m (fun s => .ok s) s) else none
  | 1 =>
    if off = 8 then some (execCmdTimeoutWrite m v s)
    else if off = 0x20 then some (execNcpCtrlWrite m v s)
    else if 0x1000 ≤ off ∧ off < 0x1800 ∧ o = 0xC then some (ringOwnerWrite m ((off - 0x1000) / 0x40) v s)
    else if 0x1000 ≤ off ∧ off < 0x1800 ∧ o = 0x20 then some (rspHeadWrite m ((off - 0x1000) / 0x40) v s)
    else if 0x1000 ≤ off ∧ off < 0x1800 ∧ o = 0x10 then some (ringCtrlWrite m ((off - 0x1000) / 0x40) v s)
    else if 0x1000 ≤ off ∧ off < 0x1800 ∧ o = 0x14 then some (execRingDoorbell m ((off - 0x1000) / 0x40) v s)
    else none
  | 2 => some (if off = 0 then execAclLockWrite m v s else execAclWindowWrite m off v s)
  | 3 =>
    if off = 0x14 then some (execIncrCommit m v s)
    else if off = 0x1C then some (execStepCommit m v s)
    else if 0x100 ≤ off ∧ off < 0x200 ∧ off % 0x20 = 0 then some (execTpoEnableWrite m ((off - 0x100) / 0x20) v s)
    else none
  | 4 => if 0x1000 ≤ off ∧ off < 0x2500 ∧ off % 0x100 = 0 then some (execLinkdownFlushWrite m ((off - 0x1000) / 0x100) v s)
         else none
  | 8 =>
    if 0x1000 ≤ off ∧ off < 0x2500 ∧ off % 0x100 = 0 then some (execPortCtrlWrite m ((off - 0x1000) / 0x100) v s)
    else if 0x1E00 ≤ off ∧ off < 0x2200 ∧ off % 0x100 = 0x14 then some (execPodlCfgWrite m ((off - 0x1000) / 0x100) v s)
    else if 0x9000 ≤ off ∧ off < 0x9800 ∧ o = 0x10 then some (execIcTxDoorbell m ((off - 0x9000) / 0x40) v s)
    else none
  | 10 =>
    if 0x1000 ≤ off ∧ off < 0x1400 ∧ o = 0x10 then some (execHostqCfgWrite m ((off - 0x1000) / 0x40) v s)
    else if 0x1000 ≤ off ∧ off < 0x1400 ∧ o = 0x20 then some (execInjectDoorbell m ((off - 0x1000) / 0x40) v s)
    else if 0x8000 ≤ off ∧ off < 0x8500 ∧ o = 0 then some (execNmCfgWrite m ((off - 0x8000) / 0x40) v s)
    else none
  | 11 =>
    if 0x100 ≤ off ∧ off < 0x180 ∧ off % 0x10 = 8 then some (execPoolCfgWrite m ((off - 0x100) / 0x10) v s)
    else if 0x1000 ≤ off ∧ off < 0x2000 ∧ off % 0x80 = 0x50 then some (execFreeCommit m ((off - 0x1000) / 0x80) v s)
    else if 0x4640 ≤ off ∧ off < 0x4C00 ∧ o = 0x10 then some (pushCmd m ((off - 0x4000) / 0x40) v s)
    else if 0x4640 ≤ off ∧ off < 0x4C00 ∧ o = 0x20 then
      some (consCtrl m ((off - 0x4000) / 0x40) v s)
    else none
  | 12 =>
    if 0x1000 ≤ off ∧ off < 0x1400 ∧ o = 8 then some (execJobRingCtrlWrite m ((off - 0x1000) / 0x40) v s)
    else if 0x1000 ≤ off ∧ off < 0x1400 ∧ o = 0xC then some (jobOwnerWrite m ((off - 0x1000) / 0x40) v s)
    else if 0x1000 ≤ off ∧ off < 0x1400 ∧ o = 0x1C then some (cHeadWrite m ((off - 0x1000) / 0x40) v s)
    else if 0x1000 ≤ off ∧ off < 0x1400 ∧ o = 0x10 then some (execJobDoorbell m ((off - 0x1000) / 0x40) v s)
    else none
  | 13 =>
    if off = 0x1880 ∨ off = 0x2880 then some (execOSend m (off / 0x1000 - 1) v s)
    else if off = 0x1884 ∨ off = 0x2884 then some (oCtrlWrite m (off / 0x1000 - 1) v s)
    else none
  | 15 => if off = 4 then some (execArmWrite m v s) else none
  | _ => none

def hltCfgOk (v : Word) : Bool :=
  decide (10 ≤ fld v 11 0) && decide (fld v 11 0 ≤ 3600) && decide (1 ≤ fld v 24 12) && decide (fld v 24 12 ≤ 4096)

def hltWrite (off : Nat) (v : Word) (s : State) : Option Ans :=
  if off = 4 then some (.ok (s.wr (rg 18 4) ((s.rd (rg 18 4) &&& ~~~ reactMask) ||| (v &&& reactMask))))
  else if off = 0xC then (if hltCfgOk v then none else some (unpredictable 18))
  else none

/-- What a block does with a write of a register that has no row, beyond the field types. -/
def blockWrite (m b off : Nat) (v : Word) (s : State) : Option Ans :=
  match b with
  | 1 => if 0x1000 ≤ off ∧ off < 0x1800 ∧ ringHeld s ((off - 0x1000) / 0x40) (off % 0x40) = true then some (.ok s) else none
  | 3 => timWrite off v s
  | 4 => swcWrite off v s
  | 6 => rulWrite off v s
  | 7 => if groupPortOk m off v s then tmgWrite off v s else some (.ok (s.drop m))
  | 8 => ethWrite off v s
  | 9 => clnWrite off v s
  | 10 => gwyWrite off v s
  | 11 => qryWrite m off v s
  | 12 => cruWrite off v s
  | 13 => lscWrite off v s
  | 14 => ordWrite off v s
  | 15 => lchWrite off v s
  | 16 => keyWrite off v s
  | 17 => hbrWrite off v s
  | 18 => hltWrite off v s
  | _ => none

/-- A permitted write of a register that has no row: its block's own act, or its field types (R7, R20, R21). -/
def plainWrite (m b off : Nat) (v : Word) (d : RegDesc) (s : State) : Ans :=
  if !regFitted s b off then .ok s
  else if v &&& ~~~ BitVec.ofNat 32 d.known ≠ 0 then unpredictable b
  else match blockWrite m b off v s with
    | some o => o
    | none => .ok (s.wr (rg b off) (writeByType d (s.rd (rg b off)) v))

/-- A register write by master `m` of the aligned word at offset `off` of block `b` (R20, R21, R32, R36, R46). -/
def regWrite (m b off : Nat) (v : Word) (s : State) : Out :=
  if b = 13 ∧ lscRefused m off = true then .next (s.refuse m (rg 13 off) true)
  else match rowWrite m b off v s with
    | some o => o
    | none =>
      match regDesc (rg b off) with
      | none => .next (if reachesRegs s m then s else s.refuse m (rg b off) true)
      | some d => withWrite b off (regMask b off) m (plainWrite m b off v d) s

/-- The table or windows that an offset of the ACL register window belongs to (R90). -/
def aclTarget (off : Nat) : Option Nat :=
  if 0x10000 ≤ off ∧ off < 0x10000 + 19 * 0x800 then some ((off - 0x10000) / 0x800)
  else if 0x20000 ≤ off ∧ off < 0x20000 + 128 * 0x80 then some 19
  else none

/-- The registers of block `b` that an access of `n` bytes from offset `off` touches, by their offsets. -/
def touched (b off n : Nat) : List Nat :=
  (((List.range n).map (fun i => (off + i) / 4 * 4)).eraseDups).filter (fun o =>
    (regDesc (rg b o)).isSome || (b == 2 && (aclTarget o).isSome))

/-- Whether the access tables let master `m` write, or read, the register at `off` of block `b`. -/
def mayTouch (s : State) (m b off : Nat) (wr : Bool) : Bool :=
  match (if b = 2 then aclTarget off else none) with
  | some t => if wr then aclMayWrite s m t else (s.aclEntry 2 m).allows 0 (.bit t)
  | none => (s.aclEntry b m).allows (b2n wr) (if wr then regMask b off else readMask b off)

/-- An access of any other size or alignment than R18's, `n` bytes from offset `off` of block `b`: unpredictable in the
block, but for a master that the tables refuse (R23). Offsets without a register are none (R32). A read returns no
word that the spec gives. -/
def oddAccess (m b off n : Nat) (wr : Bool) (s : State) : State :=
  if !reachesRegs s m || (b == 13 && lscRefused m off) then s.refuse m (rg b off) wr
  else match touched b off n with
    | [] => if wr then s else s.reply m [0] false
    | l =>
      if !l.all (fun o => mayTouch s m b o wr) then (if wr then s.drop m else (s.refuseRead b m).reply m [0] true)
      else if wr then s.stray m b else (s.stray m b).reply m [0] false

/-- A write on the fabric at a physical address (R18, R30–R36, R89). -/
def fabricWrite (m a : Nat) (data : List Byte) (s : State) : Out :=
  match region a with
  | .regs =>
    let b := (a - 0x40000000) / 0x100000
    let off := (a - 0x40000000) % 0x100000
    if data.length ≠ 4 ∨ a % 4 ≠ 0 then .next (oddAccess m b off data.length true s)
    else regWrite m b off (BitVec.ofNat 32 (leNat data)) s
  | .cluster => .next (clusterWrite m a data s)
  | .pcie => .next (outAccess m a data.length true data s)
  | _ =>
    .next (if (List.range data.length).any (fun i => !s.reaches m (a + i) true) then s.refuse m a true
      else s.wrBytes a data)

/-! ### A master's own addresses (R417, R421) -/

/-- The hart that makes an access of the hypervisor (V = 0) or of a guest (V = 1, and its VMID): the first that runs
in that mode (R417; log entry 12). -/
def hartOf (s : State) (m : Nat) : Option Hart :=
  ((List.range 8).map s.cpu.hart).find? (fun x =>
    x.started && !x.halted && (if isGuest m then x.virt && 0x40 + tget 0 x.csr 0x680 / 2 ^ 44 % 16 == m else !x.virt))

/-- A page-table read on the fabric under master `m` (R417): refused, it is a fault that names the master. -/
def walkRead (s : State) (x : Hart) (m a : Nat) : Walk :=
  if !x.pmpOk 1 a false || (List.range 8).any (fun i => s.bad.contains (a + i)) then .error { cause := 1, gpa := a }
  else if (List.range 8).all (fun i => s.reaches m (a + i) false) && tableRegion a then .ok (memNat s.mem a 8)
  else .error { cause := m, gpa := a }

/-- The translation of a hart's access (R416, R417): in M mode none, in HS and U mode satp, in a guest vsatp and then the
G stage. Walks of the G stage carry 0x3F, those of the VS stage the guest's ID. -/
def hartWalk (s : State) (x : Hart) (m a : Nat) (wr : Bool) : Walk :=
  let g := fun (p : Nat) (wr : Bool) => gStage (walkRead s x 0x3F) (tget 0 x.csr 0x680) p wr
  if x.virt then
    let rd := fun (p : Nat) => match g p false with
      | .error e => .error e
      | .ok q => walkRead s x m q
    match sStage rd (x.leaf 0x200 wr) (tget 0 x.csr 0x280) a wr with
    | .error e => .error e
    | .ok p => g p wr
  else if x.priv = 3 then .ok a
  else sStage (walkRead s x 0x3F) (x.leaf 0x100 wr) (tget 0 x.csr 0x180) a wr

/-- The physical address of an address that a master gives itself: through a cluster hart's translation and its PMP, a
PCIe function's through the IOMMU, any other's as it stands. -/
def State.ownWalk (s : State) (m a : Nat) (wr : Bool) : Walk :=
  if isCluster m then
    match hartOf s m with
    | some x =>
      match hartWalk s x m a wr with
      | .ok p => if x.pmpOk x.priv p wr then .ok p else .error { cause := 1, gpa := p }
      | .error e => .error e
    | none => .error { cause := 0, gpa := 0 }
  else if isPcie m then s.devWalk (m - 0x18) a wr
  else .ok a

/-- An access whose own translation faults: a cluster hart's traps in it, and only a refused page-table read is on the
fabric (log entry 12). -/
def ownFault (m a : Nat) (wr : Bool) (e : XFault) (s : State) : State :=
  if isCluster m then (if isCluster e.cause then s.busError e.cause e.gpa false else s)
  else (s.devFault (m - 0x18) m a wr).reply m [] true

/-- A write of a register that has no row of its own, and any other write on the fabric (R37), at an address that the
master gives. -/
def execRegisterWrite (m addr : Nat) (data : List Byte) (s : State) : Out :=
  fabricAct m addr (fun s =>
    match s.ownWalk m addr true with
    | .ok p => after (fabricWrite m p data s) s
    | .error e => ownFault m addr true e s) s

/-! ### Reads -/

/-- A word of the ACL window as a read returns it, and the target it belongs to (R85, R89, R90). -/
def aclWord (s : State) (off : Nat) : Option (Nat × Word) :=
  let n := BitVec.ofNat 32
  let i := off % 0x10 / 4
  if 0x10000 ≤ off ∧ off < 0x10000 + 19 * 0x800 then
    let b := (off - 0x10000) / 0x800
    let e := s.aclEntry b ((off - 0x10000) % 0x800 / 0x10)
    some (b, if i = 0 then e.rights else if i = 1 then n e.mask.toNat else if i = 2 then n (e.mask.toNat / 2 ^ 32) else 0)
  else if 0x20000 ≤ off ∧ off < 0x20000 + 128 * 0x80 then
    let w := s.window ((off - 0x20000) / 0x80) ((off - 0x20000) % 0x80 / 0x10)
    some (19, if i = 0 then n w.base.toNat else if i = 1 then n (w.base.toNat / 2 ^ 32) else if i = 2 then n w.size.toNat
      else n (b2n w.read + 2 * b2n w.write))
  else none

/-- GIO_IN: a driven pin reads back, and the level of another comes from outside (R585; log entry 66). -/
def gioIn (s : State) : Word :=
  let oe := s.rd (rg 0 0x50)
  (s.rd (rg 0 0x54) &&& oe) ||| (Config.sense s.sys.ticks 0 &&& ~~~ oe &&& 0xFFF)

/-- A register whose reading is not its stored word: latches of the reader, counts of time left, the pending interrupts,
ring 31's owner, and the job ring that GWY drives (R397). -/
def liveRead (m b off : Nat) (s : State) : Option Word :=
  let n := BitVec.ofNat 32
  match b with
  | 0 => if off = 0x34 then some (tget LogEntry.none s.sys.latch m).hi else if off = 0x58 then some (gioIn s) else none
  | 1 => if off = 0x100C + 31 * 0x40 then some (n (ringOwner s 31)) else none
  | 3 =>
    let l := tget { sec := 0, frac := 0 } s.tim.latches m
    if off = 4 then some (n l.sec.toNat) else if off = 8 then some (n (l.sec.toNat / 2 ^ 32))
    else if off = 0xC then some l.frac else none
  | 7 => creditRead off s
  | 11 =>
    if off = 0x44 then some (tget LogEntry.none s.qry.latch m).hi
    else if 0x1000 ≤ off ∧ off < 0x2000 ∧ off % 0x80 = 0x48 then
      some (tget 0 s.qry.allocHi (m * 32 + (off - 0x1000) / 0x80))
    else none
  | 12 =>
    let k := (off - 0x1000) / 0x40
    if 0x1000 ≤ off ∧ off < 0x1400 ∧ gwyRing s k = true then
      (if off % 0x40 = 0xC then some (n (cruOwner s k)) else if off % 0x40 = 8 then some (setBit (s.rd (rg 12 off)) 8 false)
       else none)
    else none
  | 13 => if off = 0x1044 ∨ off = 0x2044 then some (irqPend s (off / 0x1000 - 1)) else none
  | 14 => if off = 8 then some (n (holdoffLeft s)) else if off = 0xC then some (swapInfo s) else none
  | 15 => if off = 8 then some (lchState s) else none
  | 17 =>
    if off = 0x44 then some (tget LogEntry.none s.hbr.latch m).hi
    else if off = 0x48 then some (tget LogEntry.none s.hbr.latch m).info else none
  | 18 => if off = 0x120 then some (s.rd (rg 4 4)) else none
  | _ => none

/-- A read with an effect that has a row of its own. -/
def rowRead (m b off : Nat) (s : State) : Option Out :=
  match b with
  | 0 => if off = 0x30 then some (execSysErrPop m s) else none
  | 3 =>
    if off = 0 then some (execTimeNsRead m s)
    else if 0x200 ≤ off ∧ off < 0x280 ∧ off % 0x20 = 4 then some (execTciPop m ((off - 0x200) / 0x20) s) else none
  | 8 => if 0x1000 ≤ off ∧ off < 0x2200 ∧ off % 0x100 = 0x2C then some (execTxtsPop m ((off - 0x1000) / 0x100) s) else none
  | 11 =>
    if off = 0x40 then some (execQryErrPop m s)
    else if 0x1000 ≤ off ∧ off < 0x2000 ∧ off % 0x80 = 0x44 then some (execAllocRead m ((off - 0x1000) / 0x80) s)
    else if 0x4640 ≤ off ∧ off < 0x4C00 ∧ off % 0x40 = 0x14 then some (execSpruePop m ((off - 0x4000) / 0x40) false s)
    else none
  | 17 => if off = 0x40 then some (execHbrErrPop m s) else none
  | _ => none

/-- A read of a register that has no row of its own. -/
def plainRead (m b off : Nat) (s : State) : State :=
  match regDesc (rg b off) with
  | none => s.reply m [0] false
  | some d =>
    if !regFitted s b off then s.reply m [0] false
    else match liveRead m b off s with
      | some v => s.reply m [v] false
      | none =>
        let s := if b = 18 ∧ off = 0x30 then { s with hlt := { s.hlt with ueLogged := false } } else s
        let r := s.rdClear (rg b off)
        r.2.reply m [r.1 &&& ~~~ BitVec.ofNat 32 d.wo] false

/-- What a read finds in a block in doubt is any (R22). -/
def unsettleBlock (b : Nat) (s : State) : State :=
  (s.sys.doubt.filter (fun d => doubtBlock d.1 == b)).foldl (fun s d => unsettle d.1 d.2 s) s

/-- A register read by master `m`: its outcome, which leaves the word read and whether it was refused as the last of
the recorded reads (R20, R32, R36, R87, R90). -/
def regRead (m b off : Nat) (s : State) : Out :=
  let s := unsettleBlock b s
  if b = 13 ∧ lscRefused m off = true then .next (s.refuse m (rg 13 off) false)
  else if b = 0 ∧ off = 0x10 then execSysFenceRead m 0 s
  else match rowRead m b off s with
    | some o => o
    | none =>
      match (if b = 2 then aclWord s off else none) with
      | some x => withRead 2 off (.bit x.1) m (fun s => s.reply m [x.2] false) s
      | none => withRead b off (readMask b off) m (plainRead m b off) s

end Sys2Proof.Machine
end

