-- ==== Sys2Proof/Machine/Commands.lean ====
section
/-! DEFINITION. The opcodes of every class: what Mason checks of each and what it executes (R60, R61, R67). -/

namespace Sys2Proof.Machine

/-- SYS: mask bit 0, and bits 1–5 for flash areas 0–4 (R562). -/
def opsSys : List OpSpec :=
  let area := fun (c : Cmd) => Mask.bit (1 + c.inst)
  [{ opcode := 0x100, lenLo := 4, lenHi := 4, classHi := 4, block := 0, mask := fun _ => .bit 0 },
   { opcode := 0x101, lenLo := 8, lenHi := 8, instHi := 4, classHi := 4, block := 0, mask := area, buf := .output },
   { opcode := 0x102, lenLo := 8, lenHi := 8, instHi := 4, classHi := 4, block := 0, mask := area },
   { opcode := 0x103, lenLo := 5, lenHi := 65535, instHi := 4, classHi := 4, block := 0, mask := area, buf := .input },
   { opcode := 0x104, lenLo := 0, lenHi := 0, instHi := 1, classHi := 4, block := 0, mask := area }]

/-- HLT: one instance under mask bit 0 (R562). -/
def opsHlt : List OpSpec :=
  let op := fun (o len : Nat) =>
    ({ opcode := o, lenLo := len, lenHi := len, classHi := 0, block := 18, mask := fun _ => .bit 0 } : OpSpec)
  [op 0x1200 0, op 0x1201 8, op 0x1202 0, op 0x1203 0, op 0x1204 0]

/-- Every opcode. -/
def opsAll : List OpSpec :=
  opsGeneral ++ opsSys ++ opsAcl ++ opsTim ++ opsSwc ++ opsPrs ++ opsRul ++ opsTmg ++ opsEth ++ opsCln ++ opsGwy ++
  opsNm ++ opsQry ++ opsCru ++ opsLsc ++ opsOrd ++ opsLch ++ opsKey ++ opsHbr ++ opsHlt

/-- The entry of an opcode; none for one the part does not define (R68). -/
def opLookup (op : Nat) : Option OpSpec := opsAll.find? (fun x => x.opcode == op)

/-- Executions of the general opcodes. -/
def exeGeneral : Nat → Option CmdEff
  | 0x0000 => some effNop
  | 0x0001 => some effNop
  | 0x0002 => some effEcho
  | 0x0003 => some effGetVariant
  | _ => none

/-- Executions of ACL. -/
def exeAcl : Nat → Option CmdEff
  | 0x0200 => some effAclSetEntry
  | 0x0201 => some effAclGetEntry
  | 0x0202 => some effAclLock
  | 0x0203 => some effAclSetWindow
  | 0x0204 => some effAclGetWindow
  | _ => none

/-- Executions of TIM. -/
def exeTim : Nat → Option CmdEff
  | 0x0300 => some effTimGetTime
  | 0x0301 => some effTimStep
  | 0x0302 => some effTimSetIncr
  | 0x0303 => some effTimSetServo
  | 0x0304 => some effTimGptpCfg
  | 0x0305 => some effTimPulseCfg
  | 0x0306 => some effTimCaptureCfg
  | _ => none

/-- Executions of SWC. -/
def exeSwc : Nat → Option CmdEff
  | 0x0400 => some effSwcSetShared
  | 0x0401 => some effSwcSetQueue
  | 0x0402 => some effSwcFlushQueue
  | 0x0403 => some effSwcSetPort
  | 0x0404 => some effSwcFdbWrite
  | 0x0405 => some effSwcFdbDelete
  | 0x0406 => some effSwcFdbRead
  | 0x0407 => some effSwcVlanWrite
  | 0x0408 => some effSwcFrerWrite
  | 0x0409 => some effSwcFrerCounters
  | 0x040A => some effSwcPortCounters
  | _ => none

/-- Executions of PRS. -/
def exePrs : Nat → Option CmdEff
  | 0x0500 => some effPrsProgLoad
  | 0x0501 => some effPrsProgActivate
  | 0x0502 => some effPrsProgRead
  | 0x0503 => some effPrsSetCfg
  | 0x0504 => some effPrsCounters
  | _ => none

/-- Executions of RUL. -/
def exeRul : Nat → Option CmdEff
  | 0x0600 => some effRulPourOpen
  | 0x0601 => some effRulPourCommit
  | 0x0602 => some effRulPourAbandon
  | 0x0603 => some effRulPourStatus
  | 0x0604 => some effRulFlowAdd
  | 0x0605 => some effRulFlowDelete
  | 0x0606 => some effRulFlowRead
  | 0x0607 => some effRulAclWrite
  | 0x0608 => some effRulAclDelete
  | 0x0609 => some effRulPatternWrite
  | 0x060A => some effRulPatternDelete
  | 0x060B => some effRulVerdictWrite
  | 0x060C => some effRulVerdictDelete
  | 0x060D => some effRulRewriteWrite
  | 0x060E => some effRulRewriteDelete
  | 0x060F => some effRulSetLayout
  | 0x0610 => some effRulCounters
  | _ => none

/-- Executions of TMG. -/
def exeTmg : Nat → Option CmdEff
  | 0x0700 => some effTmgSetPort
  | 0x0701 => some effTmgCoursesLoad
  | 0x0702 => some effTmgGateSwitch
  | 0x0703 => some effTmgGateStatus
  | 0x0704 => some effTmgSetQueue
  | 0x0705 => some effTmgSetGroup
  | 0x0706 => some effTmgSetPolicer
  | 0x0707 => some effTmgPolicerCounters
  | 0x0708 => some effTmgSetStreamGate
  | 0x0709 => some effTmgSetLatency
  | 0x070A => some effTmgLatRead
  | 0x070B => some effTmgPortCounters
  | _ => none

/-- Executions of ETH. -/
def exeEth : Nat → Option CmdEff
  | 0x0800 => some effEthSetPort
  | 0x0801 => some effEthPortEnable
  | 0x0802 => some effEthLinkStatus
  | 0x0803 => some effEthTc10
  | 0x0804 => some effEthRtSave
  | 0x0805 => some effEthRtClear
  | 0x0806 => some effEthPlcaCfg
  | 0x0807 => some effEthPodl
  | 0x0808 => some effEthSaInstall
  | 0x0809 => some effEthSaTxSwitch
  | 0x080A => some effEthSaDelete
  | 0x080B => some effEthSaStatus
  | 0x080C => some effEthPortCounters
  | _ => none

/-- Executions of CLN. -/
def exeCln : Nat → Option CmdEff
  | 0x0900 => some effClnCanConfig
  | 0x0901 => some effClnCanMode
  | 0x0902 => some effClnCanTxLoad
  | 0x0903 => some effClnCanTxAbort
  | 0x0904 => some effClnCanTxStatus
  | 0x0905 => some effClnCanFilter
  | 0x0906 => some effClnCanRecover
  | 0x0907 => some effClnCanWakeCfg
  | 0x0908 => some effClnCanCounters
  | 0x0910 => some effClnLinConfig
  | 0x0911 => some effClnLinSchedLoad
  | 0x0912 => some effClnLinRun
  | 0x0913 => some effClnLinData
  | 0x0914 => some effClnLinPower
  | 0x0915 => some effClnLinCounters
  | _ => none

/-- Executions of GWY. -/
def exeGwy : Nat → Option CmdEff
  | 0x0A00 => some effGwyRouteWrite
  | 0x0A01 => some effGwyRouteDelete
  | 0x0A02 => some effGwyRouteRead
  | 0x0A03 => some effGwySetSource
  | 0x0A04 => some effGwyTunnelCfg
  | 0x0A05 => some effGwyAuthProfile
  | 0x0A06 => some effGwyFreshSet
  | 0x0A07 => some effGwyCounters
  | _ => none

/-- Executions of GWY's NM engines. -/
def exeNm : Nat → Option CmdEff
  | 0x0A20 => some effGwyNmCfg
  | 0x0A21 => some effGwyNmRequest
  | 0x0A22 => some effGwyNmStatus
  | 0x0A23 => some effGwyNmUdata
  | _ => none

/-- Executions of QRY. -/
def exeQry : Nat → Option CmdEff
  | 0x0B00 => some effQryPoolCfg
  | 0x0B01 => some effQryReqCfg
  | 0x0B02 => some effQryAlloc
  | 0x0B03 => some effQryFree
  | 0x0B04 => some effQryStatus
  | 0x0B10 => some effSprCfg
  | _ => none

/-- Executions of CRU. -/
def exeCru : Nat → Option CmdEff
  | 0x0C00 => some effCruKeyLoad
  | 0x0C01 => some effCruKeyUnwrap
  | 0x0C02 => some effCruKeyWrap
  | 0x0C03 => some effCruKeyErase
  | 0x0C04 => some effCruKeyStatus
  | 0x0C05 => some effCruEraseAll
  | 0x0C06 => some effCruCounters
  | _ => none

/-- An execution of an image's command over the copies of a domain as the model holds them. -/
def onCopies (f : List Word → List Word → CmdEff) : CmdEff := fun c s =>
  f (copyWords (dom s c.inst).cope) (copyWords (dom s c.inst).drag) c s

/-- Executions of LSC. -/
def exeLsc : Nat → Option CmdEff
  | 0x0D00 => some effLscStatus
  | 0x0D01 => some effLscSetCfg
  | 0x0D02 => some (onCopies effLscRelease)
  | 0x0D03 => some (onCopies effLscSyncCheck)
  | 0x0D04 => some (effLscSplit none)
  | 0x0D05 => some (fun c s => let l := copyWords (dom s c.inst).cope; effLscJoin l l c s)
  | 0x0D06 => some effLscRestart
  | 0x0D07 => some effLscInject
  | 0x0D08 => some effLscActCfg
  | _ => none

/-- Executions of ORD. -/
def exeOrd : Nat → Option CmdEff
  | 0x0E00 => some effOrdSetCfg
  | 0x0E01 => some effOrdStatus
  | 0x0E02 => some effOrdSwapTest
  | 0x0E03 => some effOrdSwapCancel
  | 0x0E04 => some effOrdCounters
  | _ => none

/-- Executions of LCH. -/
def exeLch : Nat → Option CmdEff
  | 0x0F00 => some effLchChanCfg
  | 0x0F01 => some effLchProfile
  | 0x0F02 => some effLchTimebase
  | 0x0F03 => some effLchSetHold
  | 0x0F04 => some effLchChanStatus
  | 0x0F05 => some effLchCounters
  | _ => none

/-- Executions of KEY. -/
def exeKey : Nat → Option CmdEff
  | 0x1000 => some effKeyStatus
  | 0x1001 => some effKeySetCfg
  | 0x1002 => some effKeySleep
  | 0x1003 => some effKeyWakeValid
  | 0x1004 => some effKeyUnlock
  | 0x1005 => some effKeyLogRead
  | 0x1006 => some effKeyCounters
  | _ => none

/-- Executions of HBR. -/
def exeHbr : Nat → Option CmdEff
  | 0x1100 => some effHbrSetRegion
  | 0x1101 => some effHbrLinkStatus
  | 0x1102 => some effHbrFnStatus
  | 0x1103 => some effHbrLogRead
  | 0x1104 => some effHbrCounters
  | 0x1105 => some effHbrSetCfg
  | _ => none

/-- The execution of an opcode of a class other than SYS and HLT. -/
def exeBase (op : Nat) : Option CmdEff :=
  match op / 256 with
  | 0 => exeGeneral op
  | 2 => exeAcl op
  | 3 => exeTim op
  | 4 => exeSwc op
  | 5 => exePrs op
  | 6 => exeRul op
  | 7 => exeTmg op
  | 8 => exeEth op
  | 9 => exeCln op
  | 10 => (exeGwy op).orElse (fun _ => exeNm op)
  | 11 => exeQry op
  | 12 => exeCru op
  | 13 => exeLsc op
  | 14 => exeOrd op
  | 15 => exeLch op
  | 16 => exeKey op
  | 17 => exeHbr op
  | _ => none

end Sys2Proof.Machine
end

