-- ==== Sys2Proof/Machine/Reset.lean ====
section
/-! DEFINITION. Resets: what each kind clears and keeps, the start of a MODULE reset, and the reset of one block
(R543–R545, R494, R595, R596). -/

namespace Sys2Proof.Machine

/-! ### What a reset of the logic die clears (R543) -/

/-- Whether an address lies in block `b`. -/
def inBlock (b a : Nat) : Bool := decide (blockBase b ≤ a) && decide (a < blockBase b + 0x100000)

/-- PODL_CFG and PODL_STATUS, which belong to the power die. -/
def isPodl (a : Nat) : Bool := (List.range 4).any (fun i => a == ethPort (14 + i) 0x14 || a == ethPort (14 + i) 0x18)

/-- Registers that outlive a reset of the logic die: Keystone's, and without `power` those of ORD, LCH and the PoDL
sources. -/
def keptReg (power : Bool) (a : Nat) : Bool := inBlock 16 a || (!power && (inBlock 14 a || inBlock 15 a || isPodl a))

/-- SYS cleared: flash, local time, the record on the power die and what lies outside stay; the blocks that are not
cleared stay in doubt (R24). -/
def clearSys (power : Bool) (y : SysState) : SysState :=
  { SysState.reset with phase := y.phase, ticks := y.ticks, alarmResets := y.alarmResets, debug := y.debug,
                        flash := y.flash, lifeFlash := y.lifeFlash, cause := y.cause, reads := y.reads,
                        doubt := y.doubt.filter (fun d => d.1 == 16 || (!power && (d.1 == 14 || d.1 == 15))) }

/-- The logic die is cleared; with `power` the switched part of the power die, the SRAM, the TCMs and DRAM too. -/
def clearLogic (power : Bool) (s : State) : State :=
  let s := cutLink 1 (cutLink 0 s)
  let t : State :=
    { State.reset with
      pending := s.pending, regs := tdrop (fun a => !keptReg power a) s.regs, mem := if power then [] else s.mem,
      bad := if power then [] else s.bad,
      fresh := s.fresh, sys := clearSys power s.sys, key := s.key, notices := s.notices,
      ord := if power then .reset else s.ord, lch := if power then .reset else s.lch,
      eth := { EthState.reset with rtFlash := s.eth.rtFlash, rt := s.eth.rtFlash,
                                   podlRetry := if power then [] else s.eth.podlRetry,
                                   podlAsleep := if power then [] else s.eth.podlAsleep },
      cln := if power then .reset else { ClnState.reset with wake := s.cln.wake, wufErr := s.cln.wufErr } }
  let t := if power then t else [14, 15, 16, 17].foldl (fun t p => podlWake p t) t
  newContextKey t

/-! ### The record on the power die (R556) -/

/-- A record of RESET_CAUSE's form. -/
def causeWord (kind source alarm count : Nat) : Word := BitVec.ofNat 32 (kind + source * 16 + alarm * 256 + count * 65536)

/-- Write the record. -/
def setCause (w : Word) (s : State) : State := { s with sys := { s.sys with cause := w } }

/-! ### MODULE reset (R494, R544) -/

/-- A MODULE reset begins: the power die's time runs by itself until TIM distributes it again. `source` is 0 for a
command and 1 for alarm `a`. -/
def moduleReset (source a : Nat) (s : State) : State :=
  let clock := s.lch.clock.orElse (fun _ => some (s.now * 2 ^ 32 + s.tim.frac.toNat, s.tim.incr.toNat))
  let n := satAdd 0xFFFF (fld s.sys.cause 31 16) 1
  let s := setCause (causeWord 3 source a n) (clearLogic false s)
  { s.withLch (fun l => { l with clock := clock }) with sys := { s.sys with phase := .inReset } }

/-! ### BLOCK reset (R545) -/

/-- Blocks that SYS_RESET may reset: TIM to HBR but for LSC, ORD, LCH and KEY. -/
def blockResettable (b : Nat) : Bool := (decide (3 ≤ b) && decide (b ≤ 12)) || b == 17

/-- The registers of block `b` return to their reset values, but for those `keep` names. -/
def clearRegs (b : Nat) (keep : Nat → Bool) (s : State) : State :=
  { s with regs := tdrop (fun a => inBlock b a && !keep a) s.regs }

/-- ETH: every port goes down and SWC and TMG learn of it; PoDL stays as it is. -/
def resetEth (s : State) : State :=
  let e := { EthState.reset with rt := s.eth.rt, rtFlash := s.eth.rtFlash, podlRetry := s.eth.podlRetry,
                                  podlAsleep := s.eth.podlAsleep }
  let t := (clearRegs 8 isPodl s).withEth (fun _ => e)
  let t := [14, 15, 16, 17].foldl (fun t p => podlWake p t) t
  (List.range 21).foldl (fun t p => reportPort p s t) t

/-- CLN: every channel goes OFF and GWY learns of it; the transceivers keep their wake settings. A record half written
goes (log entry 62). -/
def resetCln (s : State) : State :=
  let c := { ClnState.reset with wake := s.cln.wake, wufErr := s.cln.wufErr }
  let s := (List.range 24).foldl (fun s n => hwCut n s) s
  (List.range 24).foldl (fun t i => gwyReport i t) ((clearRegs 9 (fun _ => false) s).withCln (fun _ => c))

/-- GWY: its blocks go back to Quarry, its authentications end, and BLOCKED follows CLN at once (R344, R349). -/
def resetGwy (s : State) : State :=
  let s := gwyFreeAll s
  let t := endErases (gwyCut ((clearRegs 10 (fun _ => false) s).withGwy (fun _ => .reset)))
  (List.range 24).foldl (fun t i =>
    let fit := if i < 16 then canFitted t.tier i else linFitted t.tier (i - 16)
    let open_ := if i < 16 then canState t i == 2 else !(linState t (i - 16) == 0 || linState t (i - 16) == 3)
    if fit && open_ then t.sb (rg 10 8) i false else t) t

/-- CRU: every key is lost and every job; a fresh context key (R405). -/
def resetCru (s : State) : State :=
  let s := eraseSlots s
  endErases (newContextKey ((clearRegs 12 (fun _ => false) s).withCru (fun _ => .reset)))

/-- HBR: the link goes down and every function is reset; what the image gave stays. -/
def resetHbr (s : State) : State :=
  let cfg := s.rd (hbrReg 4) &&& 0x0FFF0000#32
  let s := resetAllFns (s.withHbr (fun h => { h with linkUp := false }))
  let t := (clearRegs 17 (fun _ => false) s).withHbr (fun h => { HbrState.reset with ids := h.ids })
  t.wr (hbrReg 4) ((t.rd (hbrReg 4) &&& ~~~ 0x0FFF0000#32) ||| cfg)

/-- One block returns to its reset values, and the others see it as at start-up. -/
def blockReset (b : Nat) (s : State) : State :=
  let all := fun (_ : Nat) => false
  match b with
  | 3 => reposition { clearRegs 3 all s with tim := .reset }
  | 4 =>
    let s := s.withPrs (fun p => { p with ctxs := [], units := [], waitExpress := [], waitNormal := [] })
    showRul (showBanks ((clearRegs 4 all s).withSwc (fun _ => .reset)))
  | 5 => showRul ((clearRegs 5 all (prsResetFrames s)).withPrs (fun _ => .reset))
  | 6 => (clearRegs 6 all s).withRul (fun _ => .reset)
  | 7 => (List.range 21).foldl (fun t p => tmgLink p t) { clearRegs 7 all s with tmg := .reset }
  | 8 => resetEth s
  | 9 => resetCln s
  | 10 => resetGwy s
  | 11 => let s := qryCut s; { clearRegs 11 all s with qry := { QryState.reset with hw := s.qry.hw } }
  | 12 => resetCru s
  | 17 => resetHbr s
  | _ => s

/-- A BLOCK reset: commands for the block end with ABORTED and BLOCK_RESET (R72), and it is in doubt no longer (R24). -/
def endBlockReset (b : Nat) (s : State) : State :=
  let s := (blockReset b s).settled b
  (s.mason.cmds.filter (fun c => c.opcode / 256 == b)).foldl
    (fun s c => completeFail c ⟨stAborted, 0x16, noOffset, b⟩ s) s

end Sys2Proof.Machine
end

