-- ==== Sys2Proof/Machine/Hlt.lean ====
section
/-! DEFINITION. The health and weathering monitor: alarms and their reactions, ECC, measurements, the hourly evaluation
and the life record (R546, R555–R563). -/

namespace Sys2Proof.Machine

def hltReg (off : Nat) : Nat := rg 18 off
def State.withHlt (s : State) (f : HltState → HltState) : State := { s with hlt := f s.hlt }
def State.withLife (s : State) (f : Life → Life) : State := s.withHlt (fun h => { h with life := f h.life })

/-! ### Alarms (R555, R556) -/

/-- The reaction of an alarm: 0 EVENT, 1 ERASE, 2 RESET, 3 OFF. -/
def reaction (s : State) (a : Nat) : Nat := s.f (hltReg 4) (2 * a + 1) (2 * a)

/-- OFF: the record names the alarm, Keystone ignores wake sources for 10 s, and power-off begins, or goes on where it
had begun. -/
def reactOff (a : Nat) (s : State) : State :=
  let w := s.sys.cause
  let s := setCause (causeWord (fld w 3 0) 1 a (fld w 31 16)) s
  (beginOff s).withKey (fun k => { k with ignoring := true, offReaction := true })

/-- RESET: a MODULE reset, or the fourth within 10 s raises RESET_STORM, whose reaction is OFF (R546). -/
def reactReset (a : Nat) (s : State) : State :=
  let near := s.sys.alarmResets.filter (fun t => decide (s.sys.ticks - t ≤ 5000000000))
  let s := { s with sys := { s.sys with alarmResets := near ++ [s.sys.ticks] } }
  if 3 ≤ near.length then reactOff 14 (s.raise 18 14) else moduleReset 1 a s

/-- The strongest reaction of alarms, and the alarm it is for. -/
def strongest (l : List Nat) (s : State) : Option (Nat × Nat) :=
  [3, 2, 1].findSome? (fun r => (l.find? (fun a => decide (2 ≤ a) && reaction s a == r)).map (fun a => (r, a)))

/-- A reaction applies. None is stronger than an OFF reaction under way; a power-off that KEY began goes on in place of a
RESET (log entry 26). -/
def react (x : Option (Nat × Nat)) (s : State) : State :=
  let off := poweringOff s
  if off && s.key.offReaction then s
  else
    match x with
    | some (3, a) => reactOff a s
    | some (2, a) => if off then s else reactReset a s
    | some (1, _) => cruAlarm 3 s
    | _ => s

/-- Alarms of one cycle: every bit is set, the glitch detectors are CRU's own source too (R409), and the strongest
reaction applies. -/
def raiseAlarms (l : List Nat) (s : State) : State :=
  let s := l.foldl (fun s a => s.raise 18 a) s
  let s := if l.contains 10 then cruAlarm 0 s else s
  react (strongest l s) s

/-- HLT runs while the logic die has its clocks. -/
def actHlt (f : State → State) (s : State) : Out := if clocked s then .next (f s) else .next s

/-- Conditions outside the part's own state occur in one cycle: the bits of `set` among CLOCK_FAIL, RAIL_FAULT,
TJ_WARN, TJ_CRIT, BASEPLATE_HOT, MASON_FAIL and GLITCH, and TILE_LIMIT where it holds. The other alarms are raised by
the rows that find them. -/
def execAlarmRaise (set : Nat) (s : State) : Out :=
  actHlt (fun s =>
    let tile := decide (s.f (hltReg 0xC) 24 12 ≤ (s.rd (rg 4 4)).toNat)
    raiseAlarms ((bitsOf set 15).filter (fun a => [3, 4, 5, 6, 7, 9, 10].contains a || (a == 11 && tile))) s) s

/-- TRST_N rises: DEBUG_ATTACH, and CRU's own DEBUG source (R409, R580). -/
def execDebugAttach (s : State) : Out :=
  let s := { s with sys := { s.sys with debug := true } }
  actHlt (fun s => raiseAlarms [12] (cruAlarm 2 s)) s

/-- TRST_N falls. -/
def execDebugDetach (s : State) : Out := .next { s with sys := { s.sys with debug := false } }

/-! ### ECC (R557) -/

def eccReg (mem : Nat) : Nat := hltReg (0x100 + 4 * mem)

/-- A rule-table entry is absent for every lookup until it is written again: `addr` is table × 2^20 + entry, tables
0 flow, 1 ACL, 2 patterns, 3 verdicts, 4 rewrites. -/
def ruleLost (addr : Nat) (s : State) : State :=
  let k := addr % 2 ^ 20
  showRul (s.withRul (fun t =>
    match addr / 2 ^ 20 with
    | 0 => { t with flow := terase t.flow k }
    | 1 => { t with acl := terase t.acl k }
    | 2 => { t with pats := terase t.pats k }
    | 3 => { t with verdicts := terase t.verdicts k }
    | 4 => { t with rewrites := terase t.rewrites k }
    | _ => t))

/-- An uncorrectable error: the bytes of its word read as an error from now until they are written (log entry 76), its
reader gets zero with an error response, and it is counted, its address logged, and ECC_UE raised, or MASON_FAIL for
Mason's SRAM. -/
def eccUe (mem addr : Nat) (reader : Option Nat) (s : State) : State :=
  let s := if [0, 1, 2, 5].contains mem then
      { s with bad := s.bad ++ ((List.range 8).map (addr / 8 * 8 + ·)).filter (fun a => !s.bad.contains a) }
    else s
  let s := match reader with
    | some m => s.reply m [0] true
    | none => s
  let s := (s.cntF (eccReg mem) 31 16 1).withLife (fun l => { l with ues := l.ues + 1 })
  let s := if s.hlt.ueLogged then s
    else ((s.wr (hltReg 0x30) (BitVec.ofNat 32 addr)).wr (hltReg 0x34)
      (BitVec.ofNat 32 (addr / 2 ^ 32 % 256 + mem * 256 + 2 ^ 15))).withHlt (fun h => { h with ueLogged := true })
  let s := if mem = 7 then ruleLost addr s else s
  raiseAlarms [if mem = 6 then 9 else 8] s

/-- An error in memory 0–7 of the list of ECC0–ECC7, at an address and by the read of a master or of the scrub:
corrected and counted, or uncorrectable. -/
def execEccError (mem : Nat) (ue : Bool) (at_ : Nat × Option Nat) (s : State) : Out :=
  actHlt (fun s => if 8 ≤ mem then s else if ue then eccUe mem at_.1 at_.2 s else s.cntF (eccReg mem) 15 0 1) s

/-- A patrol scrub reads a memory whole under no master: the errors it finds are ECC_ERROR rows, and nothing else
changes. -/
def execPatrolScrub (s : State) : Out := .next s

/-! ### Measurements (R558) -/

/-- The registers show the life record (R563). -/
def showLife (s : State) : State :=
  let l := s.hlt.life
  let s := (s.sf (hltReg 0x18) 7 0 l.guard).wr (hltReg 0x28) (BitVec.ofNat 32 l.hours)
  (s.wr (hltReg 0x1C) (BitVec.ofNat 32 (l.ratioMax % 65536 + l.ratioChan * 65536))).wr (hltReg 0x20)
    (BitVec.ofNat 32 (l.rth % 65536))

/-- The highest ratio measured of a fitted channel, and its channel. -/
def ratioMax (s : State) : Nat × Nat :=
  (List.range 40).foldl (fun b c =>
    let r := tget 0 s.hlt.ratios c
    if chFitted s c && decide (b.1 < r) then (r, c) else b) (0, 0)

/-- One second's measurements: the worst path margin in ps, VDD_CORE in mV, the hottest junction in 1/8 °C, the
channels' on-resistance ratios and the thermal resistance ratio in 1/1,024, and whether a baseplate swing of 40 K or
more ended. -/
def execHealthMeasure (margin vdd : Nat) (temp : Int) (ratios : List (Nat × Nat)) (rth : Nat) (swing : Bool) (s : State) : Out :=
  actHlt (fun s =>
    let was := (BitVec.ofNat 16 (s.f (hltReg 0x10) 15 0)).toInt
    let worst := min margin (s.hlt.hourMargin.getD margin)
    let hot := decide (840 ≤ temp)
    let s := s.sf (hltReg 0x10) 15 0 (BitVec.ofInt 16 temp).toNat
    let s := ((s.sf (hltReg 0x14) 15 0 margin).sf (hltReg 0x14) 31 16 worst).sf (hltReg 0x18) 23 8 vdd
    let s := s.withHlt (fun h =>
      { h with ratios := ratios.foldl (fun t x => tput 0 t x.1 x.2) h.ratios, hourMargin := some worst,
               hotSecs := if hot then (h.hotSecs + 1) % 3600 else h.hotSecs })
    let m := ratioMax s
    let s := s.withLife (fun l =>
      { l with ratioMax := m.1, ratioChan := m.2, rth := rth, swings := l.swings + b2n swing,
               hotHours := l.hotHours + b2n (hot && s.hlt.hotSecs == 0), lowMargin := min l.lowMargin margin,
               tiles := max l.tiles (s.rd (rg 4 4)).toNat })
    let s := showLife s
    if was < 920 ∧ 920 ≤ temp then raiseAlarms [5] s else s) s

/-! ### The hourly evaluation and the life record (R559–R561) -/

/-- max(40, floor(64 / sqrt(RATIO_MAX))), at most 64; without a measured ratio, the baseline's. -/
def ilimScale (ratio : Nat) : Nat :=
  if ratio = 0 then 64
  else max 40 (((List.range 65).reverse.find? (fun k => decide (k * k * ratio ≤ 64 * 64 * 1024))).getD 0)

/-- min(30, round(100 × (RTH_RATIO − 1))), and 0 while the ratio is at most 1. -/
def dtReduce (rth : Nat) : Nat := if rth ≤ 1024 then 0 else min 30 ((200 * (rth - 1024) + 1024) / 2048)

/-- Write LCH.DERATE from the life record (R491). -/
def writeDerate (s : State) : State := s.wr (rg 15 0x14) (BitVec.ofNat 32 (s.hlt.life.ilim + s.hlt.life.dtReduce * 256))

/-- Save the life record into the older of its two copies. -/
def saveLife (s : State) : State :=
  let s := s.withLife (fun l => { l with saves := l.saves + 1 })
  let k := s.hlt.copy
  { s.withHlt (fun h => { h with copy := 1 - k }) with
    sys := { s.sys with lifeFlash := tput none s.sys.lifeFlash k (some s.hlt.life) } }

/-- GUARD_MV, ILIM_SCALE and DT_REDUCE are planned again. Without a valid copy of the record the first evaluation sets
them from measurement; what GUARD_MV then becomes is not given and is a free value up to 60 (log entry 26). -/
def replan (s : State) : State :=
  let low := decide (s.hlt.hourMargin.getD 35 < 35)
  let l := s.hlt.life
  let i := ilimScale l.ratioMax
  let d := dtReduce l.rth
  let s :=
    if s.hlt.first then
      let r := s.free
      r.2.withLife (fun l => { l with guard := r.1 % 61, ilim := i, dtReduce := d })
    else s.withLife (fun l =>
      { l with guard := if low then min 60 (l.guard + 5) else l.guard, ilim := min l.ilim i, dtReduce := max l.dtReduce d })
  s.withHlt (fun h => { h with first := false, hourMargin := none })

/-- Every hour of ON time. MARGIN_LOW is raised where the guard band was already at its most and the margin is still
low. -/
def execHourlyEvaluation (s : State) : Out :=
  actHlt (fun s =>
    let low := decide (s.hlt.hourMargin.getD 35 < 35) && s.hlt.life.guard == 60
    let s := s.withLife (fun l => { l with hours := l.hours + 1 })
    let s := saveLife (writeDerate (showLife (replan s)))
    if low then raiseAlarms [13] s else s) s

/-- At pour completion HLT takes the newer valid copy and applies it, or starts from its own values (R561); what has
happened since the last start is counted. -/
def loadLife (s : State) : State :=
  let pick := match tget none s.sys.lifeFlash 0, tget none s.sys.lifeFlash 1 with
    | some a, some b => if b.saves ≤ a.saves then some (a, 1) else some (b, 0)
    | some a, none => some (a, 1)
    | none, some b => some (b, 0)
    | none, none => none
  let s := match pick with
    | some (l, k) => s.withHlt (fun h =>
        { h with life := l, first := false, copy := k, ratios := if l.ratioMax = 0 then [] else [(l.ratioChan, l.ratioMax)] })
    | none => s
  let w := s.rd (rg 0 0x20)
  let kind := fld w 3 0
  let s := s.withLife (fun l =>
    { l with powerUps := l.powerUps + b2n (kind != 3), moduleResets := l.moduleResets + b2n (kind == 3),
             offs := l.offs + b2n (kind != 3 && fld w 7 4 == 1) })
  showLife (writeDerate s)

/-! ### Opcodes (R562–R564) -/

def effHltStatus : CmdEff := fun _ s => .res s (readRegs [hltReg 0, hltReg 0x14, hltReg 0x18, hltReg 0x1C, hltReg 0x20] s)

/-- A fixed alarm's field that differs from its fixed value. -/
def reactFixed (s : State) (v : Word) : Option Nat :=
  (List.range 15).find? (fun a => fld reactMask (2 * a + 1) (2 * a) == 0 && fld v (2 * a + 1) (2 * a) != reaction s a)

def effHltSetCfg : CmdEff := fun c s =>
  if fld (c.w 32) 31 25 ≠ 0 then reservedField c 32
  else if !hltCfgOk (c.w 32) then badParam 0x101 32 0
  else if fld (c.w 36) 31 30 ≠ 0 then reservedField c 36
  else match reactFixed s (c.w 36) with
    | some a => badParam 0x100 36 a
    | none => .done ((s.wr (hltReg 0xC) (c.w 32)).wr (hltReg 4) (c.w 36))

def effHltEccRead : CmdEff := fun _ s =>
  let r := takeCounters (regRun (eccReg 0) 8 ++ [hltReg 0x30, hltReg 0x34]) s
  .res (r.2.withHlt (fun h => { h with ueLogged := false })) r.1

/-- The life report (R563). -/
def lifeReport (l : Life) : List Byte :=
  leBytes 4 l.hours ++ leBytes 4 l.hotHours ++ leBytes 4 l.swings ++ leBytes 4 l.powerUps ++
  leBytes 1 l.guard ++ leBytes 1 l.ilim ++ leBytes 1 l.dtReduce ++ [0] ++ leBytes 2 l.lowMargin ++ leBytes 2 l.ratioMax ++
  leBytes 2 l.rth ++ leBytes 1 l.ratioChan ++ [0] ++ leBytes 4 l.tiles ++ leBytes 4 l.ues ++ leBytes 4 l.moduleResets ++
  leBytes 4 l.offs ++ leBytes 4 l.saves

def effHltLifeRead : CmdEff := fun _ s => .res s (lifeReport s.hlt.life)

def effHltLifeSave : CmdEff := fun _ s => .done (saveLife s)

def execHltStatus (ring slot : Nat) (s : State) : Out := opRow (specOf opsHlt 0x1200) effHltStatus ring slot s
def execHltSetCfg (ring slot : Nat) (s : State) : Out := opRow (specOf opsHlt 0x1201) effHltSetCfg ring slot s
def execHltEccRead (ring slot : Nat) (s : State) : Out := opRow (specOf opsHlt 0x1202) effHltEccRead ring slot s
def execHltLifeRead (ring slot : Nat) (s : State) : Out := opRow (specOf opsHlt 0x1203) effHltLifeRead ring slot s
def execHltLifeSave (ring slot : Nat) (s : State) : Out := opRow (specOf opsHlt 0x1204) effHltLifeSave ring slot s

/-- Executions of HLT. -/
def exeHlt : Nat → Option CmdEff
  | 0x1200 => some effHltStatus
  | 0x1201 => some effHltSetCfg
  | 0x1202 => some effHltEccRead
  | 0x1203 => some effHltLifeRead
  | 0x1204 => some effHltLifeSave
  | _ => none

end Sys2Proof.Machine
end

