-- ==== Sys2Proof/Machine/Sha.lean ====
section
/-! DEFINITION. SHA-256 and ECDSA over P-256 with SHA-256, which R548 cites (FIPS 180-4, FIPS 186-5; PRESUMED, log
entry 24). -/

namespace Sys2Proof.Machine

/-! ### SHA-256 -/

/-- The integer `k`-th root of `n` above `acc`, its `bits` low bits still to be found. -/
def rootFrom (k n : Nat) : Nat → Nat → Nat
  | 0, acc => acc
  | bits + 1, acc => rootFrom k n bits (if (acc + 2 ^ bits) ^ k ≤ n then acc + 2 ^ bits else acc)

/-- The first 32 bits of the fraction of the `k`-th root of `p`, a number below 1,000. -/
def rootFraction (k p : Nat) : Word := BitVec.ofNat 32 (rootFrom k (p * 2 ^ (32 * k)) 37 0)

/-- The first 64 primes. -/
def primes64 : List Nat := (List.range 312).filter (fun n => decide (2 ≤ n) && (List.range n).all (fun d => decide (d < 2) || n % d != 0))

/-- The round constants: fractions of the cube roots of the first 64 primes. -/
def shaK : List Word := primes64.map (rootFraction 3)

/-- The initial hash value: fractions of the square roots of the first eight primes. -/
def shaInit : List Word := (primes64.take 8).map (rootFraction 2)

/-- The next word of the message schedule, from the last sixteen, newest last. -/
def shaNext (w : List Word) : Word :=
  let a := w.getD 1 0
  let b := w.getD 14 0
  (b.rotateRight 17 ^^^ b.rotateRight 19 ^^^ (b >>> 10)) + w.getD 9 0 +
    (a.rotateRight 7 ^^^ a.rotateRight 18 ^^^ (a >>> 3)) + w.getD 0 0

/-- The rounds over the remaining constants, with the sixteen schedule words that come next. -/
def shaRounds : List Word → List Word → List Word → List Word
  | [], _, h => h
  | k :: ks, w, h =>
    let a := h.getD 0 0
    let b := h.getD 1 0
    let c := h.getD 2 0
    let e := h.getD 4 0
    let t1 := h.getD 7 0 + (e.rotateRight 6 ^^^ e.rotateRight 11 ^^^ e.rotateRight 25) +
      ((e &&& h.getD 5 0) ^^^ (~~~ e &&& h.getD 6 0)) + k + w.headD 0
    let t2 := (a.rotateRight 2 ^^^ a.rotateRight 13 ^^^ a.rotateRight 22) + ((a &&& b) ^^^ (a &&& c) ^^^ (b &&& c))
    shaRounds ks (w.tail ++ [shaNext w]) [t1 + t2, a, b, c, h.getD 3 0 + t1, e, h.getD 5 0, h.getD 6 0]

/-- Absorb blocks of 64 bytes, at most `fuel`. -/
def shaBlocks : Nat → List Byte → List Word → List Word
  | 0, _, h => h
  | fuel + 1, bs, h =>
    if bs.isEmpty then h
    else
      let w := (List.range 16).map (fun i => BitVec.ofNat 32 (beAt bs (4 * i) 4))
      shaBlocks fuel (bs.drop 64) (List.zipWith (· + ·) h (shaRounds shaK w h))

/-- The padding of a message of `n` bytes. -/
def shaPad (n : Nat) : List Byte := 0x80 :: List.replicate ((119 - n % 64) % 64) 0 ++ beBytes 8 (8 * n)

def sha256 (bs : List Byte) : List Byte :=
  let m := bs ++ shaPad bs.length
  (shaBlocks (m.length / 64) m shaInit).flatMap (fun w => beBytes 4 w.toNat)

/-! ### ECDSA over P-256 -/

def p256P : Nat := 2 ^ 256 - 2 ^ 224 + 2 ^ 192 + 2 ^ 96 - 1
def p256N : Nat := 0xFFFFFFFF00000000FFFFFFFFFFFFFFFFBCE6FAADA7179E84F3B9CAC2FC632551
def p256B : Nat := 0x5AC635D8AA3A93E7B3EBBD55769886BC651D06B0CC53B0F63BCE3C3E27D2604B
def p256G : Nat × Nat :=
  (0x6B17D1F2E12C4247F8BCE6E563A440F277037D812DEB33A0F4A13945D898C296,
   0x4FE342E2FE1A7F9B8EE7EB4A7C0F9E162BCE33576B315ECECBB6406837BF51F5)

/-- a^e modulo m, over the low `fuel` bits of e. -/
def modPow (m a : Nat) : Nat → Nat → Nat
  | 0, _ => 1 % m
  | fuel + 1, e =>
    let h := modPow m (a * a % m) fuel (e / 2)
    if e % 2 = 1 then h * a % m else h

/-- The inverse modulo a prime. -/
def modInv (m a : Nat) : Nat := modPow m a 256 (m - 2)

/-- Sum of two points; none is the point at infinity. -/
def ecAdd : Option (Nat × Nat) → Option (Nat × Nat) → Option (Nat × Nat)
  | none, q => q
  | p, none => p
  | some (x, y), some (u, v) =>
    let m := p256P
    if x = u ∧ (y + v) % m = 0 then none
    else
      let k := if x = u then (3 * x * x + (m - 3)) * modInv m (2 * y % m) % m
        else (v + m - y) * modInv m ((u + m - x) % m) % m
      let z := (k * k + 2 * m - x - u) % m
      some (z, (k * ((x + m - z) % m) + m - y) % m)

/-- k times a point, over the low `fuel` bits of k. -/
def ecMul (p : Option (Nat × Nat)) : Nat → Nat → Option (Nat × Nat)
  | 0, _ => none
  | fuel + 1, k =>
    let h := ecMul (ecAdd p p) fuel (k / 2)
    if k % 2 = 1 then ecAdd h p else h

/-- The point lies on the curve. -/
def ecOn (q : Nat × Nat) : Bool :=
  decide (q.1 < p256P) && decide (q.2 < p256P) &&
    (q.2 * q.2) % p256P == (q.1 * q.1 * q.1 + (p256P - 3) * q.1 + p256B) % p256P

/-- Whether a 64-byte signature (r then s) verifies under a 64-byte public key (X then Y), all big-endian. -/
def ecdsaOk (key sig msg : List Byte) : Bool :=
  let q := (beAt key 0 32, beAt key 32 32)
  let r := beAt sig 0 32
  let s := beAt sig 32 32
  if !ecOn q || r == 0 || decide (p256N ≤ r) || s == 0 || decide (p256N ≤ s) then false
  else
    let w := modInv p256N s
    let e := beNat (sha256 msg)
    match ecAdd (ecMul (some p256G) 256 (e * w % p256N)) (ecMul (some q) 256 (r * w % p256N)) with
    | some x => x.1 % p256N == r
    | none => false

end Sys2Proof.Machine
end

