-- ==== Sys2Proof/Machine/Image.lean ====
section
/-! DEFINITION. The flash, the Ladle image in it, and the SYS commands of the flash (R547–R550, R562). SHA-256 and
ECDSA P-256 are PRESUMED from FIPS 180-4 and FIPS 186-5, which the manual names (log entry 24). -/

namespace Sys2Proof.Machine

/-! ### Flash (R547) -/

def flashByte (s : State) (a : Nat) : Byte := tget 0xFF s.sys.flash a
def flashBytes (s : State) (a n : Nat) : List Byte := (List.range n).map (fun i => flashByte s (a + i))

/-- Write bytes from `a` upward. -/
def flashPut : Nat → List Byte → Tab Byte → Tab Byte
  | _, [], t => t
  | a, b :: r, t => flashPut (a + 1) r (tput 0xFF t a b)

/-- Offset and size of a flash area. -/
def areaBase (k : Nat) : Nat := [0, 0x1800000, 0x3000000, 0x3100000, 0x3200000].getD k 0
def areaSize (k : Nat) : Nat := [0x1800000, 0x1800000, 0x100000, 0x100000, 0xE00000].getD k 0

/-! ### Reading an image (R548) -/

/-- `n` bytes at offset `o` of the image in slot `k`. -/
def imgBytes (s : State) (k o n : Nat) : List Byte := flashBytes s (areaBase k + o) n
def imgAt (s : State) (k o n : Nat) : Nat := leNat (imgBytes s k o n)

def imgSections (s : State) (k : Nat) : Nat := imgAt s k 6 2
def imgVersion (s : State) (k : Nat) : Nat := imgAt s k 8 4
def imgTotal (s : State) (k : Nat) : Nat := imgAt s k 12 4

/-- MAGIC, FORMAT and HEADER_CRC are right (R550 step 1). -/
def imgCandidate (s : State) (k : Nat) : Bool :=
  imgAt s k 0 4 == 0x33475A53 && imgAt s k 4 2 == 1 && (crc32c (imgBytes s k 0 60)).toNat == imgAt s k 60 4

/-- The other fields of the header lie in their ranges. -/
def imgHeaderOk (s : State) (k : Nat) : Bool :=
  let n := imgSections s k
  let lg := fun (o : Nat) => decide (20 ≤ imgAt s k o 1) && decide (imgAt s k o 1 ≤ 39)
  decide (1 ≤ n) && decide (n ≤ 1024) && decide (imgTotal s k ≤ 0x1800000) && decide (64 + 48 * n + 128 ≤ imgTotal s k) &&
    lg 28 && lg 29 && decide (imgAt s k 30 1 < 4) && imgAt s k 31 29 == 0

/-- The key and the signature, with the SECURE fuse (R550 step 2). -/
def imgSigned (s : State) (k : Nat) : Bool :=
  let o := 64 + 48 * imgSections s k
  let key := imgBytes s k o 64
  !Config.secure || (sha256 key == Config.keyHash && ecdsaOk key (imgBytes s k (o + 64) 64) (imgBytes s k 0 o))

/-- A row of the section table. -/
structure Section where
  typ : Nat
  late : Bool
  off : Nat
  len : Nat
  hash : List Byte
  /-- The row's own form holds. -/
  form : Bool
  deriving DecidableEq, Repr

/-- Row `i` of the section table. -/
def sectionAt (s : State) (k i : Nat) : Section :=
  let r := imgBytes s k (64 + 48 * i) 48
  let typ := leAt r 0 1
  let late := (leAt r 1 1).testBit 0
  let off := leAt r 4 4
  let len := leAt r 8 4
  { typ := typ, late := late, off := off, len := len, hash := slice r 16 32,
    form := decide (1 ≤ typ) && decide (typ ≤ 5) && decide (leAt r 1 1 < 2) && leAt r 2 2 == 0 && leAt r 12 4 == 0 &&
      off % 4 == 0 && decide (64 + 48 * imgSections s k + 128 ≤ off) && decide (off + len ≤ imgTotal s k) &&
      (typ != 5 || late) && (typ != 1 || (!late && decide (len ≤ 0x80000))) }

/-- An entry of a REGS or COMMANDS section. -/
inductive ImgEntry where
  | reg (addr : Nat) (v : Word)
  | cmd (raw : List Byte)
  deriving DecidableEq, Repr

/-- Entries of a REGS section; none where malformed. -/
def regEntries (data : List Byte) : Option (List ImgEntry) :=
  if data.length % 12 ≠ 0 then none
  else
    let l := (List.range (data.length / 12)).map (fun i => (leAt data (12 * i) 8, leAt data (12 * i + 8) 4))
    if l.all (fun x => decide (x.1 < 2 ^ 40)) then some (l.map (fun x => .reg x.1 (BitVec.ofNat 32 x.2))) else none

/-- Entries of a COMMANDS section; none where malformed or INDIRECT. -/
def cmdEntries : Nat → List Byte → Option (List ImgEntry)
  | 0, data => if data.isEmpty then some [] else none
  | fuel + 1, data =>
    if data.isEmpty then some []
    else
      let n := 32 + (leAt data 6 2 + 3) / 4 * 4
      if data.length < n ∨ 224 < leAt data 6 2 ∨ (leAt data 0 4).testBit 17 = true then none
      else (cmdEntries fuel (data.drop n)).map (fun r => .cmd (data.take n) :: r)

/-- Target of a MEMORY section, where it lies wholly in system SRAM, a TCM or DRAM. -/
def memTarget (data : List Byte) : Option Nat :=
  let a := leAt data 0 8
  let r := region a
  if data.length ≤ 8 then none
  else if [Region.sram, .tcmA, .tcmB, .dram].contains r && region (a + data.length - 9) == r then some a else none

/-- What a section's data say. -/
inductive Content where
  | firmware (b : List Byte)
  | memory (addr : Nat) (b : List Byte)
  | entries (l : List ImgEntry)
  | start (entry mask : Nat)
  deriving DecidableEq, Repr

def sectionContent (x : Section) (data : List Byte) : Option Content :=
  match x.typ with
  | 1 => some (.firmware data)
  | 2 => (memTarget data).map (fun a => .memory a (data.drop 8))
  | 3 => (regEntries data).map .entries
  | 4 => (cmdEntries data.length data).map .entries
  | 5 => if data.length = 12 ∧ leAt data 9 3 = 0 then some (.start (leAt data 0 8) (leAt data 8 1)) else none
  | _ => none

/-- Reasons of a failed image: 1 HEADER, 2 SIGNATURE, 3 HASH, 4 SECTION_FORM, 5 COMMAND, 6 REGISTER. -/
def readSection (s : State) (k i : Nat) : Nat ⊕ (Section × Content) :=
  let x := sectionAt s k i
  let first := (List.range i).all (fun j => (sectionAt s k j).typ != 1)
  if !x.form || (x.typ == 1 && !first) then .inl 4
  else
    let data := imgBytes s k x.off x.len
    if sha256 data ≠ x.hash then .inl 3
    else match sectionContent x data with
      | some c => .inr (x, c)
      | none => .inl 4

/-- A row of the section table is wrong in itself; LATE sections are read later. -/
def rowBad (s : State) (k i : Nat) : Bool := !(sectionAt s k i).form

/-- No section carries Mason's firmware. -/
def noFirmware (s : State) (k : Nat) : Bool := (List.range (imgSections s k)).all (fun i => (sectionAt s k i).typ != 1)

/-- Check an image without applying it: the reason and section of the first failure (R550, R562). -/
def imgCheck (s : State) (k : Nat) : Option (Nat × Nat) :=
  if !imgCandidate s k || !imgHeaderOk s k then some (1, 0)
  else if !imgSigned s k then some (2, 0)
  else
    match (List.range (imgSections s k)).findSome? (fun i =>
      if (sectionAt s k i).late then (if rowBad s k i then some (4, i) else none)
      else match readSection s k i with
        | .inl r => some (r, i)
        | .inr _ => none) with
    | some x => some x
    | none => if noFirmware s k then some (4, imgSections s k) else none

/-! ### SYS commands of the flash (R562, R564) -/

/-- A span inside an area. -/
def spanOk (k off n : Nat) : Bool := decide (1 ≤ n) && decide (off + n ≤ areaSize k)

/-- The layout of areas 2 and 3 is not given, so their bytes are free values. -/
def effSysFlashRead : CmdEff := fun c s =>
  let n := c.p 36 4
  if n = 0 ∨ 65536 < n ∨ spanOk c.inst (c.p 32 4) n = false then badParam 0x101 32 (c.p 32 4)
  else if c.inst = 2 ∨ c.inst = 3 then
    let r := s.free
    .res r.2 (leBytes n r.1)
  else .res s (flashBytes s (areaBase c.inst + c.p 32 4) n)

/-- An area that SYS_FLASH_ERASE and SYS_FLASH_WRITE take. -/
def writableArea (c : Cmd) (s : State) (k : CmdOut) : CmdOut :=
  if c.inst = 2 ∨ c.inst = 3 then badParam 0x103 8 c.inst
  else if s.sys.slot = some c.inst then wrongState 0x102 c.inst
  else k

def effSysFlashErase : CmdEff := fun c s =>
  let off := c.p 32 4
  let n := c.p 36 4 * 65536
  if (c.inst ≠ 2 ∧ c.inst ≠ 3) ∧ (off % 65536 ≠ 0 ∨ spanOk c.inst off n = false) then badParam 0x101 32 off
  else writableArea c s
    (let a := areaBase c.inst + off
     .done { s with sys := { s.sys with flash := tdrop (fun x => decide (a ≤ x) && decide (x < a + n)) s.sys.flash } })

/-- Programming clears bits and sets none, so a byte that was not erased can read back wrong (log entry 27). -/
def effSysFlashWrite : CmdEff := fun c s =>
  let off := c.p 32 4
  let data := c.payload.drop 4
  if (c.inst ≠ 2 ∧ c.inst ≠ 3) ∧ (off % 256 ≠ 0 ∨ spanOk c.inst off data.length = false) then badParam 0x101 32 off
  else writableArea c s
    (let a := areaBase c.inst + off
     match (List.range data.length).find? (fun i => flashByte s (a + i) &&& data.getD i 0 != data.getD i 0) with
     | some i => .fail stIntegrity 0x104 noOffset (off + i)
     | none => .done { s with sys := { s.sys with flash := flashPut a data s.sys.flash } })

def effSysImageCheck : CmdEff := fun c s =>
  match imgCheck s c.inst with
  | some (r, i) => .fail stIntegrity 0x105 noOffset (r + i * 65536)
  | none => .res s (leBytes 4 (imgVersion s c.inst))

def execSysFlashRead (ring slot : Nat) (s : State) : Out := opRow (specOf opsSys 0x101) effSysFlashRead ring slot s
def execSysFlashErase (ring slot : Nat) (s : State) : Out := opRow (specOf opsSys 0x102) effSysFlashErase ring slot s
def execSysFlashWrite (ring slot : Nat) (s : State) : Out := opRow (specOf opsSys 0x103) effSysFlashWrite ring slot s
def execSysImageCheck (ring slot : Nat) (s : State) : Out := opRow (specOf opsSys 0x104) effSysImageCheck ring slot s

end Sys2Proof.Machine
end

