-- ==== Sys2Proof/Machine/PcieConfig.lean ====
section
/-! DEFINITION. The configuration space of the PCIe functions and the errors they report by AER (R522–R525, R528). Where
its registers lie, and what of them the spec does not name, is PCI Express's (log entry 23). -/

namespace Sys2Proof.Machine

/-- Size of a function's inbound aperture, a power of two (R525). -/
def apertureLog2 (s : State) (vf : Bool) : Nat := if vf then s.f (hbrReg 4) 27 22 else s.f (hbrReg 4) 21 16
def apertureSize (s : State) (f : Nat) : Nat := 2 ^ apertureLog2 s (f != 0)

/-- The address bits that a BAR of 2^`k` bytes holds, its low or its high dword. -/
def barMask (k : Nat) (high : Bool) : Word :=
  BitVec.ofNat 32 (if high then (2 ^ 64 - 2 ^ k) / 2 ^ 32 else 2 ^ 64 - 2 ^ k)

/-- Offset of BAR0 among its function's registers: in the header of PF0, in the SR-IOV capability for every VF. -/
def barOffset (vf : Bool) : Nat := if vf then 0x164 else 0x10

/-- The writable bits of a BAR dword: BAR0–1 of 64 KiB, BAR2–3 of the aperture; BAR4–5 are not implemented. -/
def barBits (s : State) (vf : Bool) (off : Nat) : Word :=
  let o := off - barOffset vf
  if off < barOffset vf then 0
  else if o = 0 then barMask 16 false else if o = 4 then barMask 16 true
  else if o = 8 then barMask (apertureLog2 s vf) false else if o = 0xC then barMask (apertureLog2 s vf) true
  else 0

/-- The fixed bits of a BAR dword: both are 64-bit memory, the aperture's prefetchable. -/
def barType (vf : Bool) (off : Nat) : Word :=
  if off = barOffset vf then 4 else if off = barOffset vf + 8 then 0xC else 0

/-- What the host may write of a configuration dword of function `f`. The SR-IOV capability and the settings that govern
every function are PF0's; the AER status is cleared by ones. -/
def cfgBits (s : State) (f off : Nat) : Word :=
  if off = 0x44 then 3
  else if off = 0x50 then 0xC0000000
  else if f ≠ 0 then (if off = 4 then 4 else 0)
  else if off = 4 then 0x546
  else if off = 0x3C then 0xFF
  else if off = 0x68 then 0x79FF
  else if off = 0x108 ∨ off = 0x10C then 0x001FF030
  else if off = 0x114 then 0xF1C1
  else if off = 0x118 then 0x140
  else if off = 0x148 then 9
  else if off = 0x150 then (if bitOf ((s.fn 0).word 0x148) 0 then 0 else 0xFFFF)
  else barBits s false off ||| barBits s true off

/-- A 16-bit value of the image: 0 Vendor ID, 1 Device ID, 2 VF Device ID, 3 Subsystem Vendor ID, 4 Subsystem ID. -/
def imageId (s : State) (k : Nat) : Nat := leAt s.hbr.ids (2 * k) 2

/-- The bits of a configuration dword of function `f` that no write changes: the header (R524, R525), power management
with D0 and D3hot and no PME, MSI-X with 32 vectors, the PCI Express capability of an endpoint with payloads of 256
bytes and no Completion Timeout ranges, AER, and in PF0 SR-IOV (R522–R525). -/
def cfgFixed (s : State) (f off : Nat) : Word :=
  let n := BitVec.ofNat 32
  if off = 0 then (if f = 0 then n (imageId s 0 + imageId s 1 * 2 ^ 16) else 0xFFFFFFFF)
  else if off = 4 then 0x00100000
  else if off = 8 then n (s.f (rg 0 4) 7 0 + 0x02800000)
  else if off = 0x2C then n (imageId s 3 + imageId s 4 * 2 ^ 16)
  else if off = 0x34 then 0x40
  else if off = 0x40 then 0x00035001
  else if off = 0x44 then 8
  else if off = 0x50 then 0x001F6011
  else if off = 0x54 then 0x2000
  else if off = 0x58 then 0x3000
  else if off = 0x60 then 0x00020010
  else if off = 0x64 then 0x10008021
  else if off = 0x6C then 0x44
  else if off = 0x70 then n ((s.f (hbrReg 0) 2 0 + s.f (hbrReg 0) 5 3 * 16) * 2 ^ 16)
  else if off = 0x8C then 0x1E
  else if off = 0x100 then (if f = 0 then 0x14020001 else 0x00020001)
  else if off = 0x118 then 0xA0
  else if f ≠ 0 then 0
  else if off = 0x140 then 0x00010010
  else if off = 0x14C then 0x00070007
  else if off = 0x154 then 0x00010001
  else if off = 0x158 then n (imageId s 2 * 2 ^ 16)
  else if off = 0x15C ∨ off = 0x160 then 1
  else barType false off ||| barType true off

/-- A configuration dword as the host reads it. -/
def cfgRead (s : State) (f off : Nat) : Word := cfgFixed s f off ||| (s.fn f).word off

/-- The virtual functions that SR-IOV enables come into being; one that is no more is reset (R523, R537). -/
def setVfs (s : State) : State :=
  let on := fun (n : Nat) => bitOf ((s.fn 0).word 0x148) 0 && decide (n ≤ fld ((s.fn 0).word 0x150) 15 0)
  let vfs := (List.range 8).map (fun n => n != 0 && on n)
  (List.range 8).foldl (fun s n =>
    if n = 0 ∨ (s.fn n).present = vfs.getD n false then s
    else if vfs.getD n false then s.setFn n { Fn.zero with present := true }
    else resetFn true n s) s

/-- A configuration write of function `f`, the dword at `off`. Of the D-states it takes D0 and D3hot; a one written to
Initiate Function Level Reset resets the function. -/
def fnConfig (f : Nat) (w : Nat × Word) (s : State) : State :=
  let off := w.1 / 4 * 4
  let x := s.fn f
  let bits := cfgBits s f off
  let old := x.word off
  let v := if off = 0x104 then old &&& ~~~ w.2
    else if off = 0x44 ∧ fld w.2 1 0 ≠ 0 ∧ fld w.2 1 0 ≠ 3 then old
    else (old &&& ~~~ bits) ||| (w.2 &&& bits)
  let s := s.setFn f (x.setWord off v)
  if off = 0x68 ∧ bitOf w.2 15 = true then functionReset f s
  else showHbr (msixUnmask f (if f = 0 then setVfs s else s))

/-! ### Inbound errors in AER (R528) -/

/-- An inbound request of function `fn`: to its BAR0 (space 0) or its aperture (space 1). -/
structure InReq where
  fn : Nat
  space : Nat
  off : Nat
  wr : Bool
  data : List Byte
  len : Nat
  tag : Nat
  poison : Bool
  deriving DecidableEq, Repr

/-- Its bytes. -/
def InReq.size (r : InReq) : Nat := if r.wr then r.data.length else r.len

/-- The PCIe address at which a BAR of a function starts: the VFs' lie one behind the other from the SR-IOV BAR on. -/
def barBase (s : State) (f space : Nat) : Nat :=
  let vf := f != 0
  let o := barOffset vf + space * 8
  let w := fun (k : Nat) => ((s.fn 0).word (o + k) &&& barBits s vf (o + k)).toNat
  w 0 + w 4 * 2 ^ 32 + (if vf then (f - 1) * (if space = 0 then 0x10000 else apertureSize s f) else 0)

/-- The byte enables of the first and the last dword of a request. -/
def byteEnables (off n : Nat) : Nat :=
  let one := fun (lo hi : Nat) => ((List.range 4).filter (fun i => decide (lo ≤ i) && decide (i < hi))).foldl (fun a i => a + 2 ^ i) 0
  let last := (off % 4 + n + 3) / 4 - 1
  if last = 0 then one (off % 4) (off % 4 + n) else one (off % 4) 4 + 16 * one 0 (off % 4 + n - 4 * last)

/-- The four dwords of the header of a posted write, as AER logs them. -/
def tlpHeader (s : State) (r : InReq) : List Word :=
  let n := BitVec.ofNat 32
  let a := (barBase s r.fn r.space + r.off) / 4 * 4
  let dws := (r.off % 4 + r.size + 3) / 4
  let long := decide (2 ^ 32 ≤ a)
  [n ((if long then 0x60000000 else 0x40000000) + b2n r.poison * 2 ^ 14 + dws % 1024),
   n (Config.hostId.toNat * 2 ^ 16 + r.tag % 256 * 2 ^ 8 + byteEnables r.off r.size),
   if long then n (a / 2 ^ 32) else n a, if long then n a else 0]

/-- AER's error of a failure: a poisoned TLP, Completer Abort or Unsupported Request. -/
def aerBit (kind : Nat) : Nat := if kind = 4 then 12 else if kind = 3 then 15 else 20

/-- Whether the host's settings let a non-fatal error be reported: its message is enabled, and the error is neither
masked nor made fatal. -/
def aerLets (s : State) (bit : Nat) : Bool :=
  let w := (s.fn 0).word
  (bitOf (w 4) 8 || bitOf (w 0x68) 1) && !bitOf (w 0x108) bit && !bitOf (w 0x10C) bit

/-- A dropped posted write is reported with ERR_NONFATAL, its header logged in AER, where the settings let it be. -/
def inReport (r : InReq) (kind : Nat) (s : State) : State :=
  let b := aerBit kind
  let x := s.fn r.fn
  let x := x.setWord 0x104 (setBit (x.word 0x104) b true)
  if aerLets s b then
    let x := (tlpHeader s r).zipIdx.foldl (fun x h => x.setWord (0x11C + 4 * h.2) h.1) x
    let x := x.setWord 0x118 ((x.word 0x118 &&& ~~~ 0x1F) ||| BitVec.ofNat 32 b)
    (s.setFn r.fn x).withHbr (fun h => { h with sent := h.sent ++ [.errNonfatal r.fn] })
  else s.setFn r.fn x

end Sys2Proof.Machine
end

