-- ==== Sys2Proof/Machine/Inbound.lean ====
section
/-! DEFINITION. Requests of the PCIe host: inbound memory requests (R525–R529) and configuration writes (R523). -/

namespace Sys2Proof.Machine

/-- What an inbound read gives function `f`: an erring one may read any value (R22). -/
def inShown (f : Nat) (data : List Byte) (s : State) : List Byte :=
  if s.erring (0x18 + f) then (List.range data.length).map (fun i => (Config.anyWord s.fresh i).setWidth 8) else data

/-- The completion of an inbound read: status 0 is successful, 1 UR, 2 CA. -/
def inComplete (f tag status : Nat) (data : List Byte) (s : State) : State :=
  s.withHbr (fun h => { h with sent := h.sent ++ [.completion f tag status (inShown f data s)] })

/-- An inbound request fails (R528): log kind 1 translation, 2 reach, 3 access table, 4 poisoned. -/
def inFail (r : InReq) (kind : Nat) (s : State) : State :=
  let s := (hbrLog r.fn 0 kind r.wr r.off s).raise 17 3
  if r.wr then inReport r kind (hbrCount 0x100 s) else inComplete r.fn r.tag (if kind = 3 then 2 else 1) [] (hbrCount 0x104 s)

/-- How an access of a master ended: 0 taken, 2 out of its reach, 3 refused by the access table. -/
def accessKind (m b : Nat) (run : State → Out) (s : State) : Nat :=
  let t := after (run { s with sys := { s.sys with dropped := tput 0 s.sys.dropped m 0, log := [] } }) s
  if tget 0 t.sys.dropped m ≠ 0 ∨ tget 0 t.sys.readRefused (b * 128 + m) ≠ tget 0 s.sys.readRefused (b * 128 + m) then 3
  else if t.sys.log.isEmpty then 0 else 2

/-- Register writes of a posted write, dword by dword in rising order, and how the worst of them ended. -/
def inRegWrite (m : Nat) : Nat → List Byte → State → Nat × State
  | a, b0 :: b1 :: b2 :: b3 :: r, s =>
    let b := (a - 0x40000000) / 0x100000
    let w := regWrite m b ((a - 0x40000000) % 0x100000) (BitVec.ofNat 32 (leNat [b0, b1, b2, b3]))
    let x := inRegWrite m (a + 4) r (after (w s) s)
    (max (accessKind m b w s) x.1, x.2)
  | _, _, s => (0, s)

/-- Register reads of an inbound read: the bytes, how the worst of them ended, and what they leave. -/
def inRegRead (m : Nat) : Nat → Nat → State → List Byte × Nat × State
  | _, 0, s => ([], 0, s)
  | a, n + 1, s =>
    let b := (a - 0x40000000) / 0x100000
    let rd := regRead m b ((a - 0x40000000) % 0x100000)
    let t := after (rd s) s
    let r := t.sys.reads.getLastD { master := m, words := [], error := true }
    let x := inRegRead m (a + 4) n t
    (leBytes 4 (r.words.headD 0).toNat ++ x.1, max (accessKind m b rd s) x.2.1, x.2.2)

/-- A request for registers, where the windows let the function reach them (R89). One that gives no whole dwords is
unpredictable in the block, as R18 gives (R526). -/
def inRegs (r : InReq) (p : Nat) (s : State) : State :=
  let m := 0x18 + r.fn
  let n := r.size
  let b := (p - 0x40000000) / 0x100000
  if !((List.range n).all (fun i => s.inWindows m (p + i) r.wr)) then inFail r 2 (s.busError m r.off r.wr)
  else if p % 4 ≠ 0 ∨ n % 4 ≠ 0 then
    let odd := fun (s : State) => Host.Outcome.next (oddAccess m b ((p - 0x40000000) % 0x100000) n r.wr s)
    let k := accessKind m b odd s
    let t := after (odd s) s
    if k ≠ 0 then inFail r k t else if r.wr then t else inComplete r.fn r.tag 0 (List.replicate n 0) t
  else if r.wr then
    let x := inRegWrite m p r.data s
    if x.1 = 0 then x.2 else inFail r x.1 x.2
  else
    let x := inRegRead m p (n / 4) s
    if x.2.1 = 0 then inComplete r.fn r.tag 0 x.1 x.2.2 else inFail r x.2.1 x.2.2

/-- A request for the cluster control region: an MSI, or any other access (log entry 12). -/
def inCluster (r : InReq) (p : Nat) (s : State) : State :=
  let m := 0x18 + r.fn
  let n := r.size
  if !((List.range n).all (fun i => clusterReach s m (p + i) r.wr)) then inFail r 2 (s.busError m r.off r.wr)
  else if r.wr then clusterWrite m p r.data s
  else
    let x := clusterRead (p - 0x50000000) ((n + 3) / 4) s
    inComplete r.fn r.tag 0 (slice x.1 0 n) x.2

/-- A request for a function's aperture (R526). -/
def inAperture (r : InReq) (s : State) : State :=
  let m := 0x18 + r.fn
  let n := r.size
  match ((List.range n).map (r.off + ·)).find? (fun a => (s.xlate m a r.wr).isNone), s.xlate m r.off r.wr with
  | none, some p =>
    match region p with
    | .cluster => inCluster r p s
    | .regs => inRegs r p s
    | _ =>
      if (List.range n).any (fun i => !s.reaches m (((s.xlate m (r.off + i) r.wr).getD 0)) r.wr) then
        inFail r 2 (s.busError m r.off r.wr)
      else if (s.badByte m r.off n r.wr).isSome then inFail r 2 s
      else if r.wr then s.dmaPut m r.off r.data else inComplete r.fn r.tag 0 (s.dmaBytes m r.off n) s
  | bad, _ => inFail r 1 (s.devFault r.fn m (bad.getD r.off) r.wr)

/-- Dword writes of a function page. -/
def pageWrites (f : Nat) : Nat → List Byte → State → State
  | o, b0 :: b1 :: b2 :: b3 :: r, s =>
    pageWrites f (o + 4) r (settle (0x18 + f) s (fnPageWrite f o (BitVec.ofNat 32 (leNat [b0, b1, b2, b3])) s))
  | _, _, s => s

/-- A request for a function page. One that gives no whole dwords is unpredictable there (R18). -/
def inPage (r : InReq) (s : State) : State :=
  if r.off % 4 ≠ 0 ∨ r.size % 4 ≠ 0 then
    let t := s.stray (0x18 + r.fn) (24 + r.fn)
    if r.wr then t else inComplete r.fn r.tag 0 (List.replicate r.len 0) t
  else if r.wr then pageWrites r.fn r.off r.data s
  else inComplete r.fn r.tag 0
    ((List.range (r.len / 4)).flatMap (fun i => leBytes 4 (fnPageRead s r.fn (r.off + 4 * i)).toNat)) s

/-- An inbound request of a function in D0 inside one of its BARs; any other is none of the bridge's (R523, R525). -/
def inboundGo (r : InReq) (s : State) : State :=
  if 8 ≤ r.fn ∨ fnExists s r.fn = false ∨ s.hbr.linkUp = false ∨ (s.fn r.fn).dstate ≠ 0 ∨ r.size = 0 then s
  else if (if r.space = 0 then 0x10000 else if r.space = 1 then apertureSize s r.fn else 0) < r.off + r.size then s
  else if r.poison then inFail r 4 s
  else if r.space = 0 then inPage r s
  else inAperture r s

/-- An inbound request is checked and passes to the fabric. -/
def execInboundRequest (f space off : Nat) (wr : Bool) (data : List Byte) (len tag : Nat) (poison : Bool) (s : State) : Out :=
  act (inboundGo { fn := f, space := space, off := off, wr := wr, data := data, len := len, tag := tag, poison := poison }) s

/-- A configuration write by the host: the offset of a dword, and what is written to it (log entry 23). -/
def execPcieConfigWrite (f : Nat) (w : Nat × Word) (s : State) : Out :=
  act (fun s => if f < 8 ∧ fnExists s f = true ∧ s.hbr.linkUp = true then fnConfig f w s else s) s

end Sys2Proof.Machine
end

