-- ==== Sys2Proof/Machine/Boot.lean ====
section
/-! DEFINITION. Ladle's pour, LATE sections, and the starts of the module (R16, R543–R545, R549–R554). -/

namespace Sys2Proof.Machine

/-! ### One entry of an image -/

/-- What an entry leaves: the state, and whether its command still runs; or why it fails, with the reason of R550 and the
status and DETAIL a command would give. -/
abbrev EntryOut := Except (Nat × Fail) (State × Bool)

/-- A REGS entry under master `m`: a refused write fails. -/
def runReg (m a : Nat) (v : Word) (s : State) : EntryOut :=
  let b := (a - 0x40000000) / 0x100000
  let w := fabricWrite m a (leBytes 4 v.toNat)
  if region a = .regs ∧ accessKind m b w s = 0 then .ok (after (w s) s, false)
  else .error (6, ⟨stDenied, 0x10, noOffset, b * 256 + 1⟩)

/-- SYS_RESET without a reload, as an image may carry it. -/
def effSysResetPlain : CmdEff := fun c s =>
  let b := c.p 33 1
  if 2 ≤ c.p 34 1 then reservedField c 34
  else if !c.zero 35 1 then reservedField c 35
  else if c.p 32 1 = 1 then .wait (moduleReset 0 0 s)
  else if c.p 32 1 ≠ 2 then badParam 0x107 32 0
  else if 18 < b then badParam 0x107 33 0
  else if !blockResettable b then badParam 0x100 33 b
  else if c.p 34 1 = 1 ∧ s.f (rg 0 0x24) 9 8 = 1 then wrongState 0x106 0
  else .done (endBlockReset b s)

/-- The execution of every opcode. -/
def exeAll (op : Nat) : Option CmdEff :=
  match op with
  | 0x100 => some effSysResetPlain
  | 0x101 => some effSysFlashRead
  | 0x102 => some effSysFlashErase
  | 0x103 => some effSysFlashWrite
  | 0x104 => some effSysImageCheck
  | _ => if op / 256 = 0x12 then exeHlt op else exeBase op

/-- A slot number no image command holds. -/
def imageSlot (s : State) : Nat := ((s.mason.cmds.filter (fun c => c.ring == imageRing)).map (fun c => c.slot + 1)).foldl max 0

/-- RUL commands find RUL at rest: what can retire has, and what can be swept is. -/
def restFor (op : Nat) (s : State) : State := if op / 256 = 6 then rulRest 8 s else s

/-- What the execution of an image's command `c` leaves. -/
def endEntry (c : Cmd) : CmdOut → EntryOut
  | .ok t r _ => if 224 < r.length then .error (5, ⟨stLength, 7, noOffset, r.length⟩) else .ok (complete c 0 0 noOffset 0 0 [] t, false)
  | .fail st code off v => .error (5, ⟨st, code, off, v⟩)
  | .part _ st code off v => .error (5, ⟨st, code, off, v⟩)
  | .wait t =>
    let u := restFor c.opcode (markRunning c t)
    .ok (u, u.mason.cmds.any (fun d => d.ring == imageRing && d.slot == c.slot))

/-- A COMMANDS entry under master `m`: any status but OK fails (R550). A command that must wait stays with Mason until it
completes. -/
def runCmd (m : Nat) (raw : List Byte) (s : State) : EntryOut :=
  let op := leAt raw 0 2
  match slotCheck false (opLookup op) raw, opLookup op, exeAll op with
  | some f, _, _ => .error (5, f)
  | none, some sp, some eff =>
    let s := restFor op s
    let c := { parseSlot imageRing (imageSlot s) m 0 raw with noReply := true }
    let u := { s with mason := { s.mason with cmds := s.mason.cmds ++ [c] } }
    match startCheck sp c u with
    | .inl f => .error (5, f.1)
    | .inr c =>
      match eff c u with
      | .wait t => if m = 1 ∧ t.sys.phase ≠ s.sys.phase then .error (5, ⟨stWrongState, 0, noOffset, 0⟩) else endEntry c (.wait t)
      | o => endEntry c o
  | _, _, _ => .error (5, ⟨stBadOpcode, 2, 0, 0⟩)

def runEntry (m : Nat) : ImgEntry → State → EntryOut
  | .reg a v, s => runReg m a v s
  | .cmd raw, s => runCmd m raw s

/-! ### What Ladle holds back (R549) -/

/-- The block an entry acts on: of its window, or of its opcode class. -/
def entryBlock : ImgEntry → Nat
  | .reg a _ => (a - 0x40000000) / 0x100000
  | .cmd raw => leAt raw 0 2 / 256

/-- An entry for ORD, LCH or KEY. -/
def isPower (e : ImgEntry) : Bool := decide (14 ≤ entryBlock e) && decide (entryBlock e ≤ 16)

/-- A field that takes its value at pour completion: PORT_CTRL.EN of a port, CAN_CTRL.MODE of a CAN channel or L_CTRL.EN
of a LIN channel. -/
inductive HeldField where
  | port (p : Nat)
  | can (ch : Nat)
  | lin (m : Nat)
  deriving DecidableEq, Repr

/-- The held field an entry writes, and its value. -/
def heldField : ImgEntry → Option (HeldField × Nat)
  | .reg a v =>
    let off := a % 0x100000
    let i := off / 0x100 % 0x10
    if off % 0x100 ≠ 0 then none
    else if a / 0x100000 = 0x408 ∧ 0x1000 ≤ off ∧ off < 0x2200 then some (.port ((off - 0x1000) / 0x100), fld v 0 0)
    else if a / 0x100000 = 0x409 ∧ off / 0x1000 = 1 then some (.can i, fld v 1 0)
    else if a / 0x100000 = 0x409 ∧ off / 0x800 = 6 then some (.lin i, fld v 0 0)
    else none
  | .cmd raw =>
    if leAt raw 0 2 = 0x801 then some (.port (leAt raw 8 2), leAt raw 32 1 % 2)
    else if leAt raw 0 2 = 0x901 then some (.can (leAt raw 8 2), leAt raw 32 1)
    else none

/-- What such an entry does at once: all but the held field, which stays 0. -/
def nowPart : ImgEntry → ImgEntry
  | .reg a v => .reg a (v &&& ~~~ (if a / 0x100000 = 0x409 ∧ a % 0x100000 < 0x2000 then 3#32 else 1#32))
  | .cmd raw => .cmd (lset raw 32 (if leAt raw 0 2 = 0x801 then BitVec.ofNat 8 (leAt raw 32 1) &&& 0xFE#8 else 0))

/-- A held field takes its value; the other fields of its register stay as the image left them. -/
def setHeld (x : HeldField × Nat) (s : State) : State :=
  match x.1 with
  | .port p =>
    if portFitted s.tier p then setPortCtrl p ((s.rd (ethPort p 0) &&& 2#32) ||| BitVec.ofNat 32 x.2) s else s
  | .can ch =>
    if canFitted s.tier ch then
      settle 1 s (canCtrl ch ((s.rd (canReg ch 0) &&& ~~~ 3#32) ||| BitVec.ofNat 32 x.2) s)
    else s
  | .lin m =>
    if linFitted s.tier m then
      settle 1 s (linCtrl m ((s.rd (linReg m 0) &&& ~~~ 1#32) ||| BitVec.ofNat 32 x.2) s)
    else s

/-- The held fields that entries write, each with the value written last. -/
def heldFields : List ImgEntry → List (HeldField × Nat)
  | [] => []
  | e :: r =>
    let l := heldFields r
    match heldField e with
    | some x => if l.any (fun y => y.1 == x.1) then l else x :: l
    | none => l

/-! ### The pour (R549, R550) -/

/-- A pour in progress: the module itself, a copy on which the held entries act too, so that their status is known
before the image has passed, and the number of entries held for the power die. -/
structure Pour where
  real : State
  shadow : State
  held : Nat

/-- How a pour fails: the reason, the section and the module as it stands. -/
structure PourStop where
  reason : Nat
  sec : Nat
  left : State

/-- An entry acts on both copies. -/
def pourBoth (e : ImgEntry) (p : Pour) : Except (Nat × Fail) Pour := do
  let t ← runEntry 1 e p.shadow
  let r ← runEntry 1 e p.real
  pure { p with real := r.1, shadow := t.1 }

/-- One entry of the image. -/
def pourEntry (e : ImgEntry) (p : Pour) : Except (Nat × Fail) Pour :=
  if isPower e then do
    let t ← runEntry 1 e p.shadow
    if p.held = 512 then .error (4, Fail.ok) else pure { p with shadow := t.1, held := p.held + 1 }
  else if (heldField e).isSome then do
    let _ ← runEntry 1 e p.shadow
    pourBoth (nowPart e) p
  else pourBoth e p

/-- The entries of a section, in order; the pour as far as it came stays known. -/
def pourEntries (sec : Nat) : List ImgEntry → Pour → Except PourStop Pour
  | [], p => .ok p
  | e :: r, p =>
    match pourEntry e p with
    | .ok q => pourEntries sec r q
    | .error e => .error ⟨e.1, sec, p.real⟩

def pourContent (sec : Nat) (c : Content) (p : Pour) : Except PourStop Pour :=
  let both := fun (f : State → State) => Except.ok { p with real := f p.real, shadow := f p.shadow }
  match c with
  | .firmware b => both (fun s => { s with mason := { s.mason with firmware := b } })
  | .memory a b => both (fun s => s.wrBytes a b)
  | .entries l => pourEntries sec l p
  | .start _ _ => .ok p

/-- The sections of slot `k` from `i` on, `n` of them; those marked LATE are passed over but for their table row. -/
def pourSections (k : Nat) : Nat → Nat → Pour → Except PourStop Pour
  | 0, _, p => .ok p
  | n + 1, i, p =>
    if (sectionAt p.real k i).late then
      (if rowBad p.real k i then .error ⟨4, i, p.real⟩ else pourSections k n (i + 1) p)
    else match readSection p.real k i with
      | .inl r => .error ⟨r, i, p.real⟩
      | .inr (_, c) =>
        match pourContent i c p with
        | .ok q => pourSections k n (i + 1) q
        | .error x => .error x

/-- Ladle pours slot `k`: the module with the image applied, its held entries not yet. -/
def pourImage (k : Nat) (s : State) : Except PourStop State :=
  if !imgHeaderOk s k then .error ⟨1, 0, s⟩
  else if !imgSigned s k then .error ⟨2, 0, s⟩
  else
    let u : State := { s with sys := { s.sys with phase := .running, ladleReach := true } }
    match pourSections k (imgSections s k) 0 { real := u, shadow := u, held := 0 } with
    | .error x => .error x
    | .ok p => if noFirmware s k then .error ⟨4, imgSections s k, p.real⟩ else .ok p.real

/-- BOOT_STATUS of a start. -/
def bootWord (slot : Nat) (fell recovery : Bool) (reason sec : Nat) : Word :=
  BitVec.ofNat 32 (slot + b2n Config.secure * 2 + b2n fell * 4 + reason * 16 + b2n recovery * 1024 + sec * 65536)

/-- An image has passed every check: Ladle's pour ends with LADLE_POUR_COMPLETE. -/
def poured (k : Nat) (fell : Bool) (reason sec : Nat) (s : State) : State :=
  let s := { s with sys := { s.sys with phase := .ladle, slot := some k } }
  let s := (s.wr (rg 0 0x24) (bootWord k fell false reason sec)).wr (rg 0 0x28) (BitVec.ofNat 32 (imgVersion s k))
  let s := (s.sf (hbrReg 4) 21 16 (imgAt s k 28 1)).sf (hbrReg 4) 27 22 (imgAt s k 29 1)
  s.withHbr (fun h => { h with ids := imgBytes s k 18 10 })

/-- No image: the boot ROM stays in recovery and raises the alarm (R554). -/
def recover (phase : Phase) (alarm reason sec : Nat) (s : State) : State :=
  let s := { s with sys := { s.sys with phase := phase } }.withKey (fun k => { k with pouring := false })
  (s.wr (rg 0 0x24) (bootWord 0 false true reason sec)).raise 18 alarm

/-- The reset between two images: as a MODULE reset, the power die untouched; it takes the distributed time again
(R494, R550 step 4). -/
def resetAgain (s : State) : State := lchReposition ((clearLogic false s).withLch (fun l => { l with clock := none }))

/-- Ladle tries the candidates in order (R550 steps 1 and 4). -/
def tryImages : List Nat → Bool → Nat → Nat → State → State
  | [], _, reason, sec, s => recover .recovery 1 reason sec s
  | k :: r, fell, reason, sec, s =>
    match pourImage k s with
    | .ok t => poured k fell reason sec t
    | .error x => tryImages r true x.reason x.sec ((resetAgain x.left).wr (rg 0 0x20) x.left.sys.cause)

/-- Candidate slots, in descending version, A first on a tie. -/
def bootSlots (s : State) : List Nat :=
  let a := imgCandidate s 0
  let b := imgCandidate s 1
  if a && b then (if imgVersion s 0 < imgVersion s 1 then [1, 0] else [0, 1])
  else (if a then [0] else []) ++ (if b then [1] else [])

/-- TIER and CHANNELS are values of R14. -/
def fusesOk (s : State) : Bool := [0xA, 0xB, 0xC].contains s.tier && [40, 28, 16, 0].contains s.population

/-- The logic die leaves reset: RESET_CAUSE is loaded and the boot ROM runs Ladle (R16, R543). -/
def boot (s : State) : State :=
  let s := s.wr (rg 0 0x20) s.sys.cause
  if fusesOk s then tryImages (bootSlots s) false (if (bootSlots s).isEmpty then 1 else 0) 0 s
  else recover .stuck 0 0 0 s

/-! ### Starts -/

/-- VBAT_L below Keystone's threshold (R543): everything returns to its reset values but flash and what lies outside. -/
def execKeystonePor (s : State) : Out :=
  .next { State.reset with
    pending := s.pending, fresh := s.fresh, notices := s.notices,
    sys := { SysState.reset with debug := s.sys.debug, flash := s.sys.flash, lifeFlash := s.sys.lifeFlash, reads := s.sys.reads },
    eth := { EthState.reset with rtFlash := s.eth.rtFlash } }

/-- The rails become good (R517): a POWER_UP reset, then Ladle. The record keeps an OFF reaction's alarm for this one
start. -/
def execRailsGood (s : State) : Out :=
  if s.sys.phase ≠ .rising then .next s
  else
    let w := s.sys.cause
    let kind := if fld (s.rd (keyReg 0x18)) 5 0 = 0 then 1 else 2
    let c := causeWord kind (fld w 7 4) (fld w 12 8) 0
    .next (setCause (causeWord kind 0 0 0) (boot (setCause c (clearLogic true s))))

/-- The 10 µs of a MODULE reset end (R544): the power die takes the distributed time again (R494). -/
def execModuleResetRelease (s : State) : Out :=
  .next (if s.sys.phase ≠ .inReset then s else boot (lchReposition (s.withLch (fun l => { l with clock := none }))))

/-! ### Pour completion (R552) -/

/-- The REGS and COMMANDS entries of an image in order, without those of LATE sections. -/
def imgEntries (s : State) (k : Nat) : List ImgEntry :=
  (List.range (imgSections s k)).flatMap (fun i =>
    if (sectionAt s k i).late then []
    else match readSection s k i with
      | .inr (_, .entries l) => l
      | _ => [])

/-- Held entries act; one that fails now changes nothing. -/
def applyHeld : List ImgEntry → State → State
  | [], s => s
  | e :: r, s =>
    match runEntry 1 e s with
    | .ok t => applyHeld r t.1
    | .error _ => applyHeld r s

/-- Steps 4–8 of R552, HLT's life record (R561) and the start of the LATE sections (R553). -/
def pourDone (k : Nat) (s : State) : State :=
  let kind := s.f (rg 0 0x20) 3 0
  let doms := imgAt s k 30 1
  let s := nmPour s
  let s := (List.range 2).foldl (fun s d => if doms.testBit d && domState s d == 0 then domHeld d s else s) s
  let s := (s.sf (rg 1 0) 15 0 (imgAt s k 16 2)).sb (rg 1 0) 16 true
  let s := { s with sys := { s.sys with ladleReach := false } }
  let s := loadLife (if kind = 3 then s else keyWindow s)
  if (List.range (imgSections s k)).any (fun i => (sectionAt s k i).late) then s.sf (rg 0 0x24) 9 8 1 else s

/-- Ladle's pour completes: the acts of R552, in order. -/
def execLadlePourComplete (s : State) : Out :=
  match s.sys.phase, s.sys.slot with
  | .ladle, some k =>
    let s := { s with sys := { s.sys with phase := .running } }
    let l := imgEntries s k
    let s := applyHeld (l.filter isPower) s
    let s := if s.f (rg 0 0x20) 3 0 ≠ 3 ∧ s.bit (lchReg 4) 0 = false then lchArm s else s
    .next (pourDone k ((heldFields l).foldl (fun s x => setHeld x s) s))
  | _, _ => .next s

/-! ### LATE sections (R553) -/

/-- One act of the LATE loading. -/
inductive LateItem where
  /-- A section that fails its check. -/
  | bad
  | memory (a : Nat) (b : List Byte)
  | entry (e : ImgEntry)

/-- What section `i`, where it is LATE, asks of Mason, in order. A MEMORY section may not target a TCM, which Mason does
not reach; a CLUSTER_START acts after all of them. -/
def sectionItems (s : State) (k i : Nat) : List LateItem :=
  if !(sectionAt s k i).late then []
  else match readSection s k i with
    | .inl _ => [.bad]
    | .inr (_, .memory a b) => [if region a = .sram ∨ region a = .dram then .memory a b else .bad]
    | .inr (_, .entries l) => l.map .entry
    | .inr _ => []

/-- What the LATE sections ask of Mason, in order. -/
def lateItems (s : State) (k : Nat) : List LateItem := (List.range (imgSections s k)).flatMap (sectionItems s k)

/-- CLUSTER_START acts after every other LATE section: the masked harts that are fitted start at the entry (R2). -/
def startHarts (k : Nat) (s : State) : State :=
  (List.range (imgSections s k)).foldl (fun s i =>
    match readSection s k i with
    | .inr (_, .start entry mask) =>
      ((bitsOf mask 8).filter (engineFitted s.tier)).foldl (fun s h =>
        { s with sys := { s.sys with harts := tput none s.sys.harts h (some entry) },
                 cpu := s.cpu.setHart h { Hart.zero with started := true, pc := entry } }) s
    | _ => s) s

/-- Every LATE section has loaded. -/
def lateDone (k : Nat) (s : State) : State :=
  let s := { s with sys := { s.sys with late := none } }
  (startHarts k (s.sf (rg 0 0x24) 9 8 2)).raise 0 2

/-- A failure stops the loading. -/
def lateFail (s : State) : State := raiseAlarms [2] ({ s with sys := { s.sys with late := none } }.sf (rg 0 0x24) 9 8 3)

/-- A command of the image waits for an earlier one of its pair (R70). -/
def entryWaits (e : ImgEntry) (s : State) : Bool :=
  match e with
  | .reg _ _ => false
  | .cmd raw =>
    let c := parseSlot imageRing 0 0 0 raw
    s.mason.cmds.any (fun d => samePair c d && !openBesideCommit d c)

/-- The LATE loading stands before act `i`. -/
def lateAt (i : Nat) (s : State) : State := { s with sys := { s.sys with late := some i, loaded := i } }

/-- The acts from number `i` on, under Mason's ID: until one fails, one must wait, or the module resets. -/
def lateGo (k : Nat) : Nat → List LateItem → State → State
  | i, [], s => lateDone k (lateAt i s)
  | i, .bad :: _, s => lateFail (lateAt i s)
  | i, .memory a b :: r, s => lateGo k (i + 1) r (s.wrBytes a b)
  | i, .entry e :: r, s =>
    if entryWaits e s then lateAt i s
    else match runEntry 0 e s with
      | .error _ => lateFail (lateAt i s)
      | .ok (t, true) => lateAt (i + 1) t
      | .ok (t, false) => if t.up then lateGo k (i + 1) r t else t

/-- Mason loads the LATE sections, or goes on where a command of theirs had to wait and has completed. -/
def execLateLoad (s : State) : Out :=
  act (fun s =>
    match s.sys.slot with
    | none => s
    | some k =>
      let i := s.sys.late.getD 0
      if s.f (rg 0 0x24) 9 8 ≠ 1 ∨ s.mason.cmds.any (fun c => c.ring == imageRing) = true then s
      else if s.sys.late.isSome && s.mason.image.1 != 0 then lateFail (lateAt (i - 1) s)
      else lateGo k i ((lateItems s k).drop i) s) s

/-! ### Recovery (R554) -/

/-- No debug connection within 60 s. -/
def execRecoveryTimeout (s : State) : Out :=
  .next (if [Phase.recovery, .stuck].contains s.sys.phase && !s.sys.debug then beginOff s else s)

/-! ### SYS_RESET (R545, R562) -/

/-- The entries of a section that loaded: all of it, or of a LATE section those among the first `n` of its acts. -/
def loadedEntries (s : State) (k i n : Nat) : List ImgEntry :=
  if (sectionAt s k i).late then
    ((sectionItems s k i).take n).filterMap (fun x =>
      match x with
      | .entry e => some e
      | _ => none)
  else match readSection s k i with
    | .inr (_, .entries l) => l
    | _ => []

/-- The poured image's entries in order, of `m` sections from `i` on; of the LATE sections those among the first `n` acts. -/
def imageEntries (s : State) (k : Nat) : Nat → Nat → Nat → List ImgEntry
  | 0, _, _ => []
  | m + 1, i, n => loadedEntries s k i n ++ imageEntries s k m (i + 1) (n - (sectionItems s k i).length)

/-- The entries of a RELOAD of block `b`; those of LATE sections that have loaded count. -/
def reloadList (b : Nat) (s : State) : List ImgEntry :=
  match s.sys.slot with
  | none => []
  | some k => (imageEntries s k (imgSections s k) 0 s.sys.loaded).filter (fun e => entryBlock e == b)

/-- A reload stands before its entry `i`. -/
def reloadAt (x : Option (Nat × Nat)) (s : State) : State := { s with sys := { s.sys with reload := x } }

/-- The entries of a reload of block `b` from number `i` on, under Mason's ID: a failure leaves those before it
(partial), and where a command must wait, the reload waits with it. -/
def reloadGo (b : Nat) : Nat → List ImgEntry → State → CmdOut
  | _, [], s => .done (reloadAt none s)
  | i, e :: r, s =>
    if entryWaits e s then .wait (reloadAt (some (b, i)) s)
    else match runEntry 0 e s with
      | .error x => .part (reloadAt none s) x.2.status x.2.code x.2.offset x.2.value
      | .ok (t, true) => .wait (reloadAt (some (b, i + 1)) t)
      | .ok (t, false) => reloadGo b (i + 1) r t

/-- SYS_RESET: a reload follows a BLOCK reset. -/
def effSysReset : CmdEff := fun c s =>
  match effSysResetPlain c s with
  | .ok t r v => if c.p 34 1 = 1 then reloadGo (c.p 33 1) 0 (reloadList (c.p 33 1) s) t else .ok t r v
  | o => o

/-- A SYS_RESET whose reload waited goes on, once the image's command has completed: Mason replies after the reload
(log entry 72). -/
def reloadMore (c : Cmd) (s : State) : State :=
  match s.sys.reload with
  | none => s
  | some (b, i) =>
    if s.mason.cmds.any (fun d => d.ring == imageRing) then s
    else if s.mason.image.1 ≠ 0 then
      completeFail c ⟨s.mason.image.1, s.mason.image.2.1, s.mason.image.2.2.1, s.mason.image.2.2.2⟩ (reloadAt none s)
    else match reloadGo b i ((reloadList b s).drop i) s with
      | .ok t _ _ => completeFail c Fail.ok t
      | .fail st code off v => completeFail c ⟨st, code, off, v⟩ s
      | .part t st code off v => completeFail c ⟨st, code, off, v⟩ t
      | .wait t => t

/-- The row of SYS_RESET: it starts a command that may start, or goes on with one whose reload waits. -/
def execSysReset (ring slot : Nat) (s : State) : Out :=
  match findCmd 0x100 ring slot s, s.mason.cmds.find? (fun c => c.ring == ring && c.slot == slot && c.opcode == 0x100 && c.running) with
  | none, some c => act (reloadMore c) s
  | _, _ => opRow (specOf opsSys 0x100) effSysReset ring slot s

end Sys2Proof.Machine
end

