-- ==== Sys2Proof/Machine/Fetch.lean ====
section
/-! DEFINITION. Mason's fetch of a command and its writing of a reply (R74–R79, R97). -/

namespace Sys2Proof.Machine

/-- Mason fetches from the ring its arbitration picks (R75, R79); once power-off has begun it fetches no more (R514). -/
def execCommandFetch (s : State) : Out :=
  act (fun s =>
    if poweringOff s then s
    else match pickRing s with
      | some n => fetchFrom opLookup n s
      | none => s) s

/-- Mason writes the reply of the command that completed first (R76): to the reply area of its ring, or as a frame
(R97). -/
def execCommandReply (s : State) : Out :=
  act (fun s =>
    match s.mason.replies with
    | [] => s
    | r :: rest =>
      let s := { s with mason := { s.mason with replies := rest } }
      if r.ring = 31 ∧ r.issuer = 0x20 then ncpAnswer r s else writeReply r s) s

end Sys2Proof.Machine
end

