-- ==== Sys2Proof/Machine/Dispatch.lean ====
section
/-! DEFINITION. The dispatch of commands to their meanings. -/

namespace Sys2Proof.Machine

/-- One arm for each constructor: a direct call of its meaning, or a rejection by name. -/
def exec (i : Instr) (s : State) : Host.Outcome State Fault Refusal :=
  match i with
  | .registerWrite m addr data => Sys2Proof.Machine.execRegisterWrite m addr data s
  | .sysFenceRead m waited => Sys2Proof.Machine.execSysFenceRead m waited s
  | .fenceTimeout m waited => Sys2Proof.Machine.execFenceTimeout m waited s
  | .ringDoorbell m n v => Sys2Proof.Machine.execRingDoorbell m n v s
  | .ringEnable m n => Sys2Proof.Machine.execRingEnable m n s
  | .ringDisable m n => Sys2Proof.Machine.execRingDisable m n s
  | .ringReset m n => Sys2Proof.Machine.execRingReset m n s
  | .cmdTimeoutWrite m v => Sys2Proof.Machine.execCmdTimeoutWrite m v s
  | .commandFetch => Sys2Proof.Machine.execCommandFetch s
  | .commandTimeout ring slot => Sys2Proof.Machine.execCommandTimeout ring slot s
  | .commandReply => Sys2Proof.Machine.execCommandReply s
  | .completionEventTimer n => Sys2Proof.Machine.execCompletionEventTimer n s
  | .nop ring slot => Sys2Proof.Machine.execNop ring slot s
  | .fence ring slot => Sys2Proof.Machine.execFence ring slot s
  | .echo ring slot => Sys2Proof.Machine.execEcho ring slot s
  | .getVariant ring slot => Sys2Proof.Machine.execGetVariant ring slot s
  | .ncpCommandFrame => Sys2Proof.Machine.execNcpCommandFrame s
  | .ncpCtrlWrite m v => Sys2Proof.Machine.execNcpCtrlWrite m v s
  | .aclSetEntry ring slot => Sys2Proof.Machine.execAclSetEntry ring slot s
  | .aclGetEntry ring slot => Sys2Proof.Machine.execAclGetEntry ring slot s
  | .aclLock ring slot => Sys2Proof.Machine.execAclLock ring slot s
  | .aclSetWindow ring slot => Sys2Proof.Machine.execAclSetWindow ring slot s
  | .aclGetWindow ring slot => Sys2Proof.Machine.execAclGetWindow ring slot s
  | .aclWindowWrite m off v => Sys2Proof.Machine.execAclWindowWrite m off v s
  | .aclLockWrite m v => Sys2Proof.Machine.execAclLockWrite m v s
  | .timeNsRead m => Sys2Proof.Machine.execTimeNsRead m s
  | .incrCommit m v => Sys2Proof.Machine.execIncrCommit m v s
  | .stepCommit m v => Sys2Proof.Machine.execStepCommit m v s
  | .timGetTime ring slot => Sys2Proof.Machine.execTimGetTime ring slot s
  | .timStep ring slot => Sys2Proof.Machine.execTimStep ring slot s
  | .timSetIncr ring slot => Sys2Proof.Machine.execTimSetIncr ring slot s
  | .timSetServo ring slot => Sys2Proof.Machine.execTimSetServo ring slot s
  | .timGptpCfg ring slot => Sys2Proof.Machine.execTimGptpCfg ring slot s
  | .timPulseCfg ring slot => Sys2Proof.Machine.execTimPulseCfg ring slot s
  | .timCaptureCfg ring slot => Sys2Proof.Machine.execTimCaptureCfg ring slot s
  | .syncAccepted domain offset => Sys2Proof.Machine.execSyncAccepted domain offset s
  | .syncReceiptTimeout => Sys2Proof.Machine.execSyncReceiptTimeout s
  | .gmChange => Sys2Proof.Machine.execGmChange s
  | .tpoEnableWrite m k v => Sys2Proof.Machine.execTpoEnableWrite m k v s
  | .tpoEdge k => Sys2Proof.Machine.execTpoEdge k s
  | .tciCapture k falling => Sys2Proof.Machine.execTciCapture k falling s
  | .tciPop m k => Sys2Proof.Machine.execTciPop m k s
  | .frameReceive p wire ago => Sys2Proof.Machine.execFrameReceive p wire ago s
  | .frameTake c bad => Sys2Proof.Machine.execFrameTake c bad s
  | .addG c => Sys2Proof.Machine.execAdd c s
  | .subG c => Sys2Proof.Machine.execSub c s
  | .andG c => Sys2Proof.Machine.execAnd c s
  | .orG c => Sys2Proof.Machine.execOr c s
  | .xorG c => Sys2Proof.Machine.execXor c s
  | .shlG c => Sys2Proof.Machine.execShl c s
  | .shrG c => Sys2Proof.Machine.execShr c s
  | .movi c => Sys2Proof.Machine.execMovi c s
  | .movhi c => Sys2Proof.Machine.execMovhi c s
  | .extG c => Sys2Proof.Machine.execExt c s
  | .cmpG c => Sys2Proof.Machine.execCmp c s
  | .ldG c => Sys2Proof.Machine.execLd c s
  | .adv c => Sys2Proof.Machine.execAdv c s
  | .ldm c => Sys2Proof.Machine.execLdm c s
  | .stm c => Sys2Proof.Machine.execStm c s
  | .putk c => Sys2Proof.Machine.execPutk c s
  | .lkf c => Sys2Proof.Machine.execLkf c s
  | .lka c => Sys2Proof.Machine.execLka c s
  | .scan c => Sys2Proof.Machine.execScan c s
  | .vload c => Sys2Proof.Machine.execVload c s
  | .vset c => Sys2Proof.Machine.execVset c s
  | .cnt c => Sys2Proof.Machine.execCnt c s
  | .doneG c => Sys2Proof.Machine.execDone c s
  | .brG c => Sys2Proof.Machine.execBr c s
  | .lookupResult c => Sys2Proof.Machine.execLookupResult c s
  | .scanResult c bad => Sys2Proof.Machine.execScanResult c bad s
  | .watchdogStop c => Sys2Proof.Machine.execWatchdogStop c s
  | .expressOver c => Sys2Proof.Machine.execExpressOver c s
  | .prsProgLoad ring slot => Sys2Proof.Machine.execPrsProgLoad ring slot s
  | .prsProgActivate ring slot => Sys2Proof.Machine.execPrsProgActivate ring slot s
  | .prsProgRead ring slot => Sys2Proof.Machine.execPrsProgRead ring slot s
  | .prsSetCfg ring slot => Sys2Proof.Machine.execPrsSetCfg ring slot s
  | .prsCounters ring slot => Sys2Proof.Machine.execPrsCounters ring slot s
  | .verdictAct => Sys2Proof.Machine.execVerdictAct s
  | .laneRelease p stream => Sys2Proof.Machine.execLaneRelease p stream s
  | .reseqTimeout p stream => Sys2Proof.Machine.execReseqTimeout p stream s
  | .frerReset stream => Sys2Proof.Machine.execFrerReset stream s
  | .transmitSelect p bad => Sys2Proof.Machine.execTransmitSelect p bad s
  | .copyTransmitted p bad ago => Sys2Proof.Machine.execCopyTransmitted p bad ago s
  | .linkdownFlushWrite m p v => Sys2Proof.Machine.execLinkdownFlushWrite m p v s
  | .swcSetShared ring slot => Sys2Proof.Machine.execSwcSetShared ring slot s
  | .swcSetQueue ring slot => Sys2Proof.Machine.execSwcSetQueue ring slot s
  | .swcFlushQueue ring slot => Sys2Proof.Machine.execSwcFlushQueue ring slot s
  | .swcSetPort ring slot => Sys2Proof.Machine.execSwcSetPort ring slot s
  | .swcFdbWrite ring slot => Sys2Proof.Machine.execSwcFdbWrite ring slot s
  | .swcFdbDelete ring slot => Sys2Proof.Machine.execSwcFdbDelete ring slot s
  | .swcFdbRead ring slot => Sys2Proof.Machine.execSwcFdbRead ring slot s
  | .swcVlanWrite ring slot => Sys2Proof.Machine.execSwcVlanWrite ring slot s
  | .swcFrerWrite ring slot => Sys2Proof.Machine.execSwcFrerWrite ring slot s
  | .swcFrerCounters ring slot => Sys2Proof.Machine.execSwcFrerCounters ring slot s
  | .swcPortCounters ring slot => Sys2Proof.Machine.execSwcPortCounters ring slot s
  | .rulPourOpen ring slot => Sys2Proof.Machine.execRulPourOpen ring slot s
  | .rulPourCommit ring slot => Sys2Proof.Machine.execRulPourCommit ring slot s
  | .rulPourAbandon ring slot => Sys2Proof.Machine.execRulPourAbandon ring slot s
  | .rulPourStatus ring slot => Sys2Proof.Machine.execRulPourStatus ring slot s
  | .rulFlowAdd ring slot => Sys2Proof.Machine.execRulFlowAdd ring slot s
  | .rulFlowDelete ring slot => Sys2Proof.Machine.execRulFlowDelete ring slot s
  | .rulFlowRead ring slot => Sys2Proof.Machine.execRulFlowRead ring slot s
  | .rulAclWrite ring slot => Sys2Proof.Machine.execRulAclWrite ring slot s
  | .rulAclDelete ring slot => Sys2Proof.Machine.execRulAclDelete ring slot s
  | .rulPatternWrite ring slot => Sys2Proof.Machine.execRulPatternWrite ring slot s
  | .rulPatternDelete ring slot => Sys2Proof.Machine.execRulPatternDelete ring slot s
  | .rulVerdictWrite ring slot => Sys2Proof.Machine.execRulVerdictWrite ring slot s
  | .rulVerdictDelete ring slot => Sys2Proof.Machine.execRulVerdictDelete ring slot s
  | .rulRewriteWrite ring slot => Sys2Proof.Machine.execRulRewriteWrite ring slot s
  | .rulRewriteDelete ring slot => Sys2Proof.Machine.execRulRewriteDelete ring slot s
  | .rulSetLayout ring slot => Sys2Proof.Machine.execRulSetLayout ring slot s
  | .rulCounters ring slot => Sys2Proof.Machine.execRulCounters ring slot s
  | .pourRetire => Sys2Proof.Machine.execPourRetire s
  | .logSweep => Sys2Proof.Machine.execLogSweep s
  | .courseBoundary p => Sys2Proof.Machine.execCourseBoundary p s
  | .listSwitched p => Sys2Proof.Machine.execListSwitched p s
  | .verifyTimer p ok => Sys2Proof.Machine.execVerifyTimer p ok s
  | .latencySample => Sys2Proof.Machine.execLatencySample s
  | .tmgSetPort ring slot => Sys2Proof.Machine.execTmgSetPort ring slot s
  | .tmgCoursesLoad ring slot => Sys2Proof.Machine.execTmgCoursesLoad ring slot s
  | .tmgGateSwitch ring slot => Sys2Proof.Machine.execTmgGateSwitch ring slot s
  | .tmgGateStatus ring slot => Sys2Proof.Machine.execTmgGateStatus ring slot s
  | .tmgSetQueue ring slot => Sys2Proof.Machine.execTmgSetQueue ring slot s
  | .tmgSetGroup ring slot => Sys2Proof.Machine.execTmgSetGroup ring slot s
  | .tmgSetPolicer ring slot => Sys2Proof.Machine.execTmgSetPolicer ring slot s
  | .tmgPolicerCounters ring slot => Sys2Proof.Machine.execTmgPolicerCounters ring slot s
  | .tmgSetStreamGate ring slot => Sys2Proof.Machine.execTmgSetStreamGate ring slot s
  | .tmgSetLatency ring slot => Sys2Proof.Machine.execTmgSetLatency ring slot s
  | .tmgLatRead ring slot => Sys2Proof.Machine.execTmgLatRead ring slot s
  | .tmgPortCounters ring slot => Sys2Proof.Machine.execTmgPortCounters ring slot s
  | .portCtrlWrite m p v => Sys2Proof.Machine.execPortCtrlWrite m p v s
  | .linkChange p up mbps addFrag offer => Sys2Proof.Machine.execLinkChange p up mbps addFrag offer s
  | .rtMarkerTimeout p => Sys2Proof.Machine.execRtMarkerTimeout p s
  | .tc10SleepAck p => Sys2Proof.Machine.execTc10SleepAck p s
  | .tc10SleepTimeout p => Sys2Proof.Machine.execTc10SleepTimeout p s
  | .tc10Wake p => Sys2Proof.Machine.execTc10Wake p s
  | .tc10Wur p => Sys2Proof.Machine.execTc10Wur p s
  | .plcaCycle p coll => Sys2Proof.Machine.execPlcaCycle p coll s
  | .podlCfgWrite m p v => Sys2Proof.Machine.execPodlCfgWrite m p v s
  | .podlClassified p cls => Sys2Proof.Machine.execPodlClassified p cls s
  | .podlClassTimeout p => Sys2Proof.Machine.execPodlClassTimeout p s
  | .podlTrip p => Sys2Proof.Machine.execPodlTrip p s
  | .podlRetry p => Sys2Proof.Machine.execPodlRetry p s
  | .podlTripsClear p => Sys2Proof.Machine.execPodlTripsClear p s
  | .txtsPop m p => Sys2Proof.Machine.execTxtsPop m p s
  | .icTxDoorbell m n v => Sys2Proof.Machine.execIcTxDoorbell m n v s
  | .ethSetPort ring slot => Sys2Proof.Machine.execEthSetPort ring slot s
  | .ethPortEnable ring slot => Sys2Proof.Machine.execEthPortEnable ring slot s
  | .ethLinkStatus ring slot => Sys2Proof.Machine.execEthLinkStatus ring slot s
  | .ethTc10 ring slot => Sys2Proof.Machine.execEthTc10 ring slot s
  | .ethRtSave ring slot => Sys2Proof.Machine.execEthRtSave ring slot s
  | .ethRtClear ring slot => Sys2Proof.Machine.execEthRtClear ring slot s
  | .ethPlcaCfg ring slot => Sys2Proof.Machine.execEthPlcaCfg ring slot s
  | .ethPodl ring slot => Sys2Proof.Machine.execEthPodl ring slot s
  | .ethSaInstall ring slot => Sys2Proof.Machine.execEthSaInstall ring slot s
  | .ethSaTxSwitch ring slot => Sys2Proof.Machine.execEthSaTxSwitch ring slot s
  | .ethSaDelete ring slot => Sys2Proof.Machine.execEthSaDelete ring slot s
  | .ethSaStatus ring slot => Sys2Proof.Machine.execEthSaStatus ring slot s
  | .ethPortCounters ring slot => Sys2Proof.Machine.execEthPortCounters ring slot s
  | .integrationDone ch => Sys2Proof.Machine.execIntegrationDone ch s
  | .canFrameReceived ch fmt id ide rr esi data sdt vcid sec af ago => Sys2Proof.Machine.execCanFrameReceived ch fmt id ide rr esi data sdt vcid sec af ago s
  | .canTxStart sof => Sys2Proof.Machine.execCanTxStart sof s
  | .canTxDone ch => Sys2Proof.Machine.execCanTxDone ch s
  | .canBusError ch kind at_ alt => Sys2Proof.Machine.execCanBusError ch kind at_ alt s
  | .busOffExit ch => Sys2Proof.Machine.execBusOffExit ch s
  | .txScheduleTime ch buf => Sys2Proof.Machine.execTxScheduleTime ch buf s
  | .txCycleOccurrence ch buf => Sys2Proof.Machine.execTxCycleOccurrence ch buf s
  | .txdTimeout ch => Sys2Proof.Machine.execTxdTimeout ch s
  | .canWakeDetect ch what ide id data => Sys2Proof.Machine.execCanWakeDetect ch what ide id data s
  | .linSlotStart m => Sys2Proof.Machine.execLinSlotStart m s
  | .linSlotEnd m data chk framing bitErr => Sys2Proof.Machine.execLinSlotEnd m data chk framing bitErr s
  | .linWakeDetect m => Sys2Proof.Machine.execLinWakeDetect m s
  | .linWakeDone m => Sys2Proof.Machine.execLinWakeDone m s
  | .clnCanConfig ring slot => Sys2Proof.Machine.execClnCanConfig ring slot s
  | .clnCanMode ring slot => Sys2Proof.Machine.execClnCanMode ring slot s
  | .clnCanTxLoad ring slot => Sys2Proof.Machine.execClnCanTxLoad ring slot s
  | .clnCanTxAbort ring slot => Sys2Proof.Machine.execClnCanTxAbort ring slot s
  | .clnCanTxStatus ring slot => Sys2Proof.Machine.execClnCanTxStatus ring slot s
  | .clnCanFilter ring slot => Sys2Proof.Machine.execClnCanFilter ring slot s
  | .clnCanRecover ring slot => Sys2Proof.Machine.execClnCanRecover ring slot s
  | .clnCanWakeCfg ring slot => Sys2Proof.Machine.execClnCanWakeCfg ring slot s
  | .clnCanCounters ring slot => Sys2Proof.Machine.execClnCanCounters ring slot s
  | .clnLinConfig ring slot => Sys2Proof.Machine.execClnLinConfig ring slot s
  | .clnLinSchedLoad ring slot => Sys2Proof.Machine.execClnLinSchedLoad ring slot s
  | .clnLinRun ring slot => Sys2Proof.Machine.execClnLinRun ring slot s
  | .clnLinData ring slot => Sys2Proof.Machine.execClnLinData ring slot s
  | .clnLinPower ring slot => Sys2Proof.Machine.execClnLinPower ring slot s
  | .clnLinCounters ring slot => Sys2Proof.Machine.execClnLinCounters ring slot s
  | .sprueRecord n par => Sys2Proof.Machine.execSprueRecord n par s
  | .authResult unit => Sys2Proof.Machine.execAuthResult unit s
  | .releaseTime => Sys2Proof.Machine.execReleaseTime s
  | .gwBufferLoad ch => Sys2Proof.Machine.execGwBufferLoad ch s
  | .bundleTimeout t => Sys2Proof.Machine.execBundleTimeout t s
  | .tunnelFrameIn => Sys2Proof.Machine.execTunnelFrameIn s
  | .injectDoorbell m n v => Sys2Proof.Machine.execInjectDoorbell m n v s
  | .hostqCfgWrite m n v => Sys2Proof.Machine.execHostqCfgWrite m n v s
  | .gwyRouteWrite ring slot => Sys2Proof.Machine.execGwyRouteWrite ring slot s
  | .gwyRouteDelete ring slot => Sys2Proof.Machine.execGwyRouteDelete ring slot s
  | .gwyRouteRead ring slot => Sys2Proof.Machine.execGwyRouteRead ring slot s
  | .gwySetSource ring slot => Sys2Proof.Machine.execGwySetSource ring slot s
  | .gwyTunnelCfg ring slot => Sys2Proof.Machine.execGwyTunnelCfg ring slot s
  | .gwyAuthProfile ring slot => Sys2Proof.Machine.execGwyAuthProfile ring slot s
  | .gwyFreshSet ring slot => Sys2Proof.Machine.execGwyFreshSet ring slot s
  | .gwyCounters ring slot => Sys2Proof.Machine.execGwyCounters ring slot s
  | .nmPduReceived e => Sys2Proof.Machine.execNmPduReceived e s
  | .nmRepeatTimeout e => Sys2Proof.Machine.execNmRepeatTimeout e s
  | .nmTimeout e => Sys2Proof.Machine.execNmTimeout e s
  | .nmWaitTimeout e => Sys2Proof.Machine.execNmWaitTimeout e s
  | .nmMsgTimer e => Sys2Proof.Machine.execNmMsgTimer e s
  | .nmCfgWrite m e v => Sys2Proof.Machine.execNmCfgWrite m e v s
  | .gwyNmCfg ring slot => Sys2Proof.Machine.execGwyNmCfg ring slot s
  | .gwyNmRequest ring slot => Sys2Proof.Machine.execGwyNmRequest ring slot s
  | .gwyNmStatus ring slot => Sys2Proof.Machine.execGwyNmStatus ring slot s
  | .gwyNmUdata ring slot => Sys2Proof.Machine.execGwyNmUdata ring slot s
  | .qryPoolCfg ring slot => Sys2Proof.Machine.execQryPoolCfg ring slot s
  | .qryReqCfg ring slot => Sys2Proof.Machine.execQryReqCfg ring slot s
  | .qryAlloc ring slot => Sys2Proof.Machine.execQryAlloc ring slot s
  | .qryFree ring slot => Sys2Proof.Machine.execQryFree ring slot s
  | .qryStatus ring slot => Sys2Proof.Machine.execQryStatus ring slot s
  | .sprCfg ring slot => Sys2Proof.Machine.execSprCfg ring slot s
  | .poolCfgWrite m p v => Sys2Proof.Machine.execPoolCfgWrite m p v s
  | .allocRead m r => Sys2Proof.Machine.execAllocRead m r s
  | .freeCommit m r v => Sys2Proof.Machine.execFreeCommit m r v s
  | .scrubDone p k => Sys2Proof.Machine.execScrubDone p k s
  | .qryErrPop m => Sys2Proof.Machine.execQryErrPop m s
  | .spruePushData m n => Sys2Proof.Machine.execSpruePushData m n s
  | .spruePushEnd m n => Sys2Proof.Machine.execSpruePushEnd m n s
  | .spruePushPoison m n => Sys2Proof.Machine.execSpruePushPoison m n s
  | .sprueRewind m n => Sys2Proof.Machine.execSprueRewind m n s
  | .spruePop m n bad => Sys2Proof.Machine.execSpruePop m n bad s
  | .sprueDropRest m n => Sys2Proof.Machine.execSprueDropRest m n s
  | .cruKeyLoad ring slot => Sys2Proof.Machine.execCruKeyLoad ring slot s
  | .cruKeyUnwrap ring slot => Sys2Proof.Machine.execCruKeyUnwrap ring slot s
  | .cruKeyWrap ring slot => Sys2Proof.Machine.execCruKeyWrap ring slot s
  | .cruKeyErase ring slot => Sys2Proof.Machine.execCruKeyErase ring slot s
  | .cruKeyStatus ring slot => Sys2Proof.Machine.execCruKeyStatus ring slot s
  | .cruEraseAll ring slot => Sys2Proof.Machine.execCruEraseAll ring slot s
  | .cruCounters ring slot => Sys2Proof.Machine.execCruCounters ring slot s
  | .jobRingCtrlWrite m n v => Sys2Proof.Machine.execJobRingCtrlWrite m n v s
  | .jobDoorbell m n v => Sys2Proof.Machine.execJobDoorbell m n v s
  | .jobStart core => Sys2Proof.Machine.execJobStart core s
  | .jobComplete ring => Sys2Proof.Machine.execJobComplete ring s
  | .cruAlarm src => Sys2Proof.Machine.execCruAlarm src s
  | .lockstepMismatch d iface pc => Sys2Proof.Machine.execLockstepMismatch d iface pc s
  | .faultResetTimeout d => Sys2Proof.Machine.execFaultResetTimeout d s
  | .syncCheckPeriodic d cope drag => Sys2Proof.Machine.execSyncCheckPeriodic d cope drag s
  | .activation d k => Sys2Proof.Machine.execActivation d k s
  | .debugHalt d => Sys2Proof.Machine.execDebugHalt d s
  | .debugResume d cope drag => Sys2Proof.Machine.execDebugResume d cope drag s
  | .lscStatus ring slot => Sys2Proof.Machine.execLscStatus ring slot s
  | .lscSetCfg ring slot => Sys2Proof.Machine.execLscSetCfg ring slot s
  | .lscRelease ring slot cope drag => Sys2Proof.Machine.execLscRelease ring slot cope drag s
  | .lscSyncCheck ring slot cope drag => Sys2Proof.Machine.execLscSyncCheck ring slot cope drag s
  | .lscSplit ring slot => Sys2Proof.Machine.execLscSplit ring slot s
  | .lscJoin ring slot cope drag => Sys2Proof.Machine.execLscJoin ring slot cope drag s
  | .lscRestart ring slot => Sys2Proof.Machine.execLscRestart ring slot s
  | .lscInject ring slot => Sys2Proof.Machine.execLscInject ring slot s
  | .lscActCfg ring slot => Sys2Proof.Machine.execLscActCfg ring slot s
  | .oSend m d v => Sys2Proof.Machine.execOSend m d v s
  | .oCtrlGo m d => Sys2Proof.Machine.execOCtrlGo m d s
  | .oCtrlRejoin m d => Sys2Proof.Machine.execOCtrlRejoin m d s
  | .statusFrameSend d bad => Sys2Proof.Machine.execStatusFrameSend d bad s
  | .mirrorLost d => Sys2Proof.Machine.execMirrorLost d s
  | .copyArrival l bad => Sys2Proof.Machine.execCopyArrival l bad s
  | .copyJudge l entry => Sys2Proof.Machine.execCopyJudge l entry s
  | .canRecordWrite => Sys2Proof.Machine.execCanRecordWrite s
  | .faultLineChange d wireOpen => Sys2Proof.Machine.execFaultLineChange d wireOpen s
  | .ordLinkTimeout l => Sys2Proof.Machine.execOrdLinkTimeout l s
  | .holdoffExpiry => Sys2Proof.Machine.execHoldoffExpiry s
  | .swapTestEnd => Sys2Proof.Machine.execSwapTestEnd s
  | .ordSetCfg ring slot => Sys2Proof.Machine.execOrdSetCfg ring slot s
  | .ordStatus ring slot => Sys2Proof.Machine.execOrdStatus ring slot s
  | .ordSwapTest ring slot => Sys2Proof.Machine.execOrdSwapTest ring slot s
  | .ordSwapCancel ring slot => Sys2Proof.Machine.execOrdSwapCancel ring slot s
  | .ordCounters ring slot => Sys2Proof.Machine.execOrdCounters ring slot s
  | .channelSet => Sys2Proof.Machine.execChannelSet s
  | .channelMask => Sys2Proof.Machine.execChannelMask s
  | .channelClear => Sys2Proof.Machine.execChannelClear s
  | .holdExpiry => Sys2Proof.Machine.execHoldExpiry s
  | .armWrite m v => Sys2Proof.Machine.execArmWrite m v s
  | .pwmPeriodStart t v1 v2 => Sys2Proof.Machine.execPwmPeriodStart t v1 v2 s
  | .pwmEdge c start => Sys2Proof.Machine.execPwmEdge c start s
  | .inrushEnd c => Sys2Proof.Machine.execInrushEnd c s
  | .shortDetect hit => Sys2Proof.Machine.execShortDetect hit s
  | .ocWarn c => Sys2Proof.Machine.execOcWarn c s
  | .thermalTrip c dT hot => Sys2Proof.Machine.execThermalTrip c dT hot s
  | .thermalReady c dT => Sys2Proof.Machine.execThermalReady c dT s
  | .restartsClear c => Sys2Proof.Machine.execRestartsClear c s
  | .railUndervoltage r mv => Sys2Proof.Machine.execRailUndervoltage r mv s
  | .railRecovery r mv => Sys2Proof.Machine.execRailRecovery r mv s
  | .openLoadOn c low => Sys2Proof.Machine.execOpenLoadOn c low s
  | .openLoadOff c high => Sys2Proof.Machine.execOpenLoadOff c high s
  | .lchChanCfg ring slot => Sys2Proof.Machine.execLchChanCfg ring slot s
  | .lchProfile ring slot => Sys2Proof.Machine.execLchProfile ring slot s
  | .lchTimebase ring slot => Sys2Proof.Machine.execLchTimebase ring slot s
  | .lchSetHold ring slot => Sys2Proof.Machine.execLchSetHold ring slot s
  | .lchChanStatus ring slot => Sys2Proof.Machine.execLchChanStatus ring slot s
  | .lchCounters ring slot => Sys2Proof.Machine.execLchCounters ring slot s
  | .wakeSourceFire src sub levels => Sys2Proof.Machine.execWakeSourceFire src sub levels s
  | .validationEnd => Sys2Proof.Machine.execValidationEnd s
  | .autoSleepBegin => Sys2Proof.Machine.execAutoSleepBegin s
  | .powerOffDone => Sys2Proof.Machine.execPowerOffDone s
  | .powerOffComplete => Sys2Proof.Machine.execPowerOffComplete s
  | .brownOut => Sys2Proof.Machine.execBrownOut s
  | .keystonePor => Sys2Proof.Machine.execKeystonePor s
  | .railsGood => Sys2Proof.Machine.execRailsGood s
  | .moduleResetRelease => Sys2Proof.Machine.execModuleResetRelease s
  | .ladlePourComplete => Sys2Proof.Machine.execLadlePourComplete s
  | .lateLoad => Sys2Proof.Machine.execLateLoad s
  | .recoveryTimeout => Sys2Proof.Machine.execRecoveryTimeout s
  | .keyStatus ring slot => Sys2Proof.Machine.execKeyStatus ring slot s
  | .keySetCfg ring slot => Sys2Proof.Machine.execKeySetCfg ring slot s
  | .keySleep ring slot => Sys2Proof.Machine.execKeySleep ring slot s
  | .keyWakeValid ring slot => Sys2Proof.Machine.execKeyWakeValid ring slot s
  | .keyUnlock ring slot => Sys2Proof.Machine.execKeyUnlock ring slot s
  | .keyLogRead ring slot => Sys2Proof.Machine.execKeyLogRead ring slot s
  | .keyCounters ring slot => Sys2Proof.Machine.execKeyCounters ring slot s
  | .inboundRequest f space off wr data len tag poison => Sys2Proof.Machine.execInboundRequest f space off wr data len tag poison s
  | .outboundWrite m addr data => Sys2Proof.Machine.execOutboundWrite m addr data s
  | .outboundRead m addr len => Sys2Proof.Machine.execOutboundRead m addr len s
  | .completionArrival tag status data => Sys2Proof.Machine.execCompletionArrival tag status data s
  | .completionTimeout tag => Sys2Proof.Machine.execCompletionTimeout tag s
  | .msixSend => Sys2Proof.Machine.execMsixSend s
  | .sidebandWrite f g => Sys2Proof.Machine.execSidebandWrite f g s
  | .sidebandPoll f g => Sys2Proof.Machine.execSidebandPoll f g s
  | .grpModeWrite f v => Sys2Proof.Machine.execGrpModeWrite f v s
  | .pcieLinkUp speed width => Sys2Proof.Machine.execPcieLinkUp speed width s
  | .pcieLinkReset => Sys2Proof.Machine.execPcieLinkReset s
  | .functionLevelReset f => Sys2Proof.Machine.execFunctionLevelReset f s
  | .hbrErrPop m => Sys2Proof.Machine.execHbrErrPop m s
  | .hbrSetRegion ring slot => Sys2Proof.Machine.execHbrSetRegion ring slot s
  | .hbrLinkStatus ring slot => Sys2Proof.Machine.execHbrLinkStatus ring slot s
  | .hbrFnStatus ring slot => Sys2Proof.Machine.execHbrFnStatus ring slot s
  | .hbrLogRead ring slot => Sys2Proof.Machine.execHbrLogRead ring slot s
  | .hbrCounters ring slot => Sys2Proof.Machine.execHbrCounters ring slot s
  | .hbrSetCfg ring slot => Sys2Proof.Machine.execHbrSetCfg ring slot s
  | .sysReset ring slot => Sys2Proof.Machine.execSysReset ring slot s
  | .sysFlashRead ring slot => Sys2Proof.Machine.execSysFlashRead ring slot s
  | .sysFlashErase ring slot => Sys2Proof.Machine.execSysFlashErase ring slot s
  | .sysFlashWrite ring slot => Sys2Proof.Machine.execSysFlashWrite ring slot s
  | .sysImageCheck ring slot => Sys2Proof.Machine.execSysImageCheck ring slot s
  | .sysErrPop m => Sys2Proof.Machine.execSysErrPop m s
  | .hltStatus ring slot => Sys2Proof.Machine.execHltStatus ring slot s
  | .hltSetCfg ring slot => Sys2Proof.Machine.execHltSetCfg ring slot s
  | .hltEccRead ring slot => Sys2Proof.Machine.execHltEccRead ring slot s
  | .hltLifeRead ring slot => Sys2Proof.Machine.execHltLifeRead ring slot s
  | .hltLifeSave ring slot => Sys2Proof.Machine.execHltLifeSave ring slot s
  | .alarmRaise set => Sys2Proof.Machine.execAlarmRaise set s
  | .debugAttach => Sys2Proof.Machine.execDebugAttach s
  | .eccError mem ue at_ => Sys2Proof.Machine.execEccError mem ue at_ s
  | .patrolScrub => Sys2Proof.Machine.execPatrolScrub s
  | .healthMeasure margin vdd temp ratios rth swing => Sys2Proof.Machine.execHealthMeasure margin vdd temp ratios rth swing s
  | .hourlyEvaluation => Sys2Proof.Machine.execHourlyEvaluation s
  | .gptpSyncSend domain port pdelay => Sys2Proof.Machine.execGptpSyncSend domain port pdelay s
  | .rtMarkerReceived p agrees => Sys2Proof.Machine.execRtMarkerReceived p agrees s
  | .retainedStartLimit p => Sys2Proof.Machine.execRetainedStartLimit p s
  | .tc10SleepRefused p => Sys2Proof.Machine.execTc10SleepRefused p s
  | .latchedWakePowerUp => Sys2Proof.Machine.execLatchedWakePowerUp s
  | .wakeSupplyGood => Sys2Proof.Machine.execWakeSupplyGood s
  | .wakeIgnoreExpiry => Sys2Proof.Machine.execWakeIgnoreExpiry s
  | .debugDetach => Sys2Proof.Machine.execDebugDetach s
  | .pcieConfigWrite f w => Sys2Proof.Machine.execPcieConfigWrite f w s

end Sys2Proof.Machine
end

