-- ==== Sys2Proof/Safety.lean ====
section
/-! DEFINITION. What a state of the part must be for a run to be sound, and what it means that a command of a ring runs
to its end. -/

namespace Sys2Proof.Machine

/-- The canonical form of memory: addresses strictly rising, and no listed byte equal to what an unlisted one reads as. -/
def Memory.wf (m : Tab Byte) : Bool := twf (fun _ => 0) m

/-- The canonical form of the flash, whose unlisted bytes are erased. -/
def Flash.wf (m : Tab Byte) : Bool := twf (fun _ => 0xFF) m

/-- Registers, memory and flash in canonical form, and a nanosecond count below one second (R99). -/
def wfParts (regs : Tab Word) (mem flash : Tab Byte) (ns : Nat) : Bool :=
  twf regReset regs && Memory.wf mem && Flash.wf flash && decide (ns < 1000000000)

/-- The invariant every step keeps. -/
def State.wf (s : State) : Bool := wfParts s.regs s.mem s.sys.flash s.tim.ns

/-- An outcome whose next state, where there is one, keeps the invariant. -/
def Outcome.wf : Out → Bool
  | .next t => t.wf
  | _ => true

/-! ### Commands of a ring -/

/-- Mason holds in this ring and slot a command of the opcode, the command may start (R43, R44, R70), and it passes the
checks of R67 steps 5–8 in state `s0`: `c` is that command, with the payload its checks read, and `s` the state after
that read. -/
def Admits (sp : OpSpec) (ring slot : Nat) (c : Cmd) (s0 s : State) : Bool :=
  s0.up && decide (s = inputRead c s0) &&
  match findCmd sp.opcode ring slot s0 with
  | some d =>
    match startCheck sp d s0 with
    | .inr e => decide (e = c)
    | .inl _ => false
  | none => false

/-- `t` after command `c` completes OK with an inline result and a DETAIL.VALUE (R65, R76). -/
def okReply (c : Cmd) (result : List Byte) (value : Nat) (t : State) : State :=
  complete c 0 0 noOffset value result.length result t

/-! ### Accesses and frames -/

/-- What master `m` issues leaves it: it is connected, and LSC_INJECT does not spoil it (R427, R439, R580). -/
def Issues (s : State) (m : Nat) : Bool := !absent s m && !injected s m

/-- A host's request that the bridge takes: the link is up, its function exists and is in D0, and it lies inside the space
it names (R523, R525). -/
def InTakes (s : State) (r : InReq) : Bool :=
  decide (r.fn < 8) && fnExists s r.fn && s.hbr.linkUp && (s.fn r.fn).dstate == 0 && r.size != 0 &&
    decide (r.off + r.size ≤ if r.space = 0 then 0x10000 else if r.space = 1 then apertureSize s r.fn else 0)

/-- Master `m` may write a register of block `b` under mask `k`: the die runs, the register is in its reach, and the
block's table grants WRITE with the mask bits (R34, R46, R85). -/
def MayWrite (s : State) (m b : Nat) (k : Mask) : Bool :=
  s.up && Issues s m && reachesRegs s m && (s.aclEntry b m).allows 1 k

/-- Master `m` may read a register of block `b` under mask `k` (R34, R85, R87). -/
def MayRead (s : State) (m b : Nat) (k : Mask) : Bool :=
  s.up && Issues s m && reachesRegs s m && (s.aclEntry b m).allows 0 k

/-- Every register outside `l` reads as before. -/
def SameRegs (l : List Nat) (s t : State) : Prop := ∀ a, a ∉ l → t.rd a = s.rd a

/-- Every byte of memory outside the `n` bytes at `a` reads as before. -/
def SameMem (a n : Nat) (s t : State) : Prop := ∀ x, x < a ∨ a + n ≤ x → t.rdB x = s.rdB x

/-- `t` is `s` after a step of the counter by `off` nanoseconds, with what R108 and R109 say of it. -/
def Stepped (off : Int) (s t : State) : Prop :=
  (t.now : Int) = s.now + off ∧ t.tim.ns < 1000000000 ∧ t.tim.frac = s.tim.frac ∧ t.tim.incr = s.tim.incr ∧
    t.f (rg 3 0x30) 15 0 = min 65535 (s.f (rg 3 0x30) 15 0 + 1) ∧ t.bit (rg 3 0x34) 3 = true

/-- The words of a TIM_PULSE_CFG stored, the output off (R128). -/
def pulseWords (c : Cmd) (s : State) : State :=
  let k := c.inst - 8
  let s := s.wr (tpoReg k 0) (BitVec.ofNat 32 (c.p 40 2 * 2 ^ 16 + 2 * b2n (bitOf (c.w 52) 1)))
  (((s.wr (tpoReg k 4) (c.w 32)).wr (tpoReg k 8) (c.w 36)).wr (tpoReg k 0xC) (c.w 44)).wr (tpoReg k 0x10) (c.w 48)

/-- Context `c` runs a frame `f` with run state `r`; its next instruction is `i` of opcode `op`, which is legal and may
issue: within the watchdog, stalling on nothing, no illegal operand, within the express budget or already counted
over it (R183, R187, R191, R193, R194, R195). -/
def AddanReady (c op : Nat) (i : Addan) (f : Frame) (r : Run) (s : State) : Bool :=
  let w := instrWord s (r.t.bank.getD 0) r.pc
  s.up && decide ((ctxOf s c).run = some r) && fld w 31 26 == op && decide (decodeAddan w = some i) &&
    decide (findFrame s r.t.frame = some f) && decide (r.icount < 512) && !r.stalls i && !operandIllegal r i &&
    (!exceeds r i || r.overBudget)

/-- The state after an instruction of context `c` that leaves run state `r`: ICOUNT and the pc advance, and the
engine's instruction counter counts. -/
def AddanStep (c : Nat) (r : Run) (s : State) : State :=
  prsSetRun c { r with icount := r.icount + 1, pc := (r.pc + 1) % 8192 } (engCount c 4 s)

/-! ### Rows of opcodes -/

/-- The opcode, ring and slot of a row that runs a command of a ring; none for the other rows. -/
def commandRow (i : Instr) : Option (Nat × Nat × Nat) :=
  match i with
  | .nop r n => some (0x0000, r, n)
  | .fence r n => some (0x0001, r, n)
  | .echo r n => some (0x0002, r, n)
  | .getVariant r n => some (0x0003, r, n)
  | .aclSetEntry r n => some (0x0200, r, n)
  | .aclGetEntry r n => some (0x0201, r, n)
  | .aclLock r n => some (0x0202, r, n)
  | .aclSetWindow r n => some (0x0203, r, n)
  | .aclGetWindow r n => some (0x0204, r, n)
  | .timGetTime r n => some (0x0300, r, n)
  | .timStep r n => some (0x0301, r, n)
  | .timSetIncr r n => some (0x0302, r, n)
  | .timSetServo r n => some (0x0303, r, n)
  | .timGptpCfg r n => some (0x0304, r, n)
  | .timPulseCfg r n => some (0x0305, r, n)
  | .timCaptureCfg r n => some (0x0306, r, n)
  | .prsProgLoad r n => some (0x0500, r, n)
  | .prsProgActivate r n => some (0x0501, r, n)
  | .prsProgRead r n => some (0x0502, r, n)
  | .prsSetCfg r n => some (0x0503, r, n)
  | .prsCounters r n => some (0x0504, r, n)
  | .swcSetShared r n => some (0x0400, r, n)
  | .swcSetQueue r n => some (0x0401, r, n)
  | .swcFlushQueue r n => some (0x0402, r, n)
  | .swcSetPort r n => some (0x0403, r, n)
  | .swcFdbWrite r n => some (0x0404, r, n)
  | .swcFdbDelete r n => some (0x0405, r, n)
  | .swcFdbRead r n => some (0x0406, r, n)
  | .swcVlanWrite r n => some (0x0407, r, n)
  | .swcFrerWrite r n => some (0x0408, r, n)
  | .swcFrerCounters r n => some (0x0409, r, n)
  | .swcPortCounters r n => some (0x040A, r, n)
  | .rulPourOpen r n => some (0x0600, r, n)
  | .rulPourCommit r n => some (0x0601, r, n)
  | .rulPourAbandon r n => some (0x0602, r, n)
  | .rulPourStatus r n => some (0x0603, r, n)
  | .rulFlowAdd r n => some (0x0604, r, n)
  | .rulFlowDelete r n => some (0x0605, r, n)
  | .rulFlowRead r n => some (0x0606, r, n)
  | .rulAclWrite r n => some (0x0607, r, n)
  | .rulAclDelete r n => some (0x0608, r, n)
  | .rulPatternWrite r n => some (0x0609, r, n)
  | .rulPatternDelete r n => some (0x060A, r, n)
  | .rulVerdictWrite r n => some (0x060B, r, n)
  | .rulVerdictDelete r n => some (0x060C, r, n)
  | .rulRewriteWrite r n => some (0x060D, r, n)
  | .rulRewriteDelete r n => some (0x060E, r, n)
  | .rulSetLayout r n => some (0x060F, r, n)
  | .rulCounters r n => some (0x0610, r, n)
  | .tmgSetPort r n => some (0x0700, r, n)
  | .tmgCoursesLoad r n => some (0x0701, r, n)
  | .tmgGateSwitch r n => some (0x0702, r, n)
  | .tmgGateStatus r n => some (0x0703, r, n)
  | .tmgSetQueue r n => some (0x0704, r, n)
  | .tmgSetGroup r n => some (0x0705, r, n)
  | .tmgSetPolicer r n => some (0x0706, r, n)
  | .tmgPolicerCounters r n => some (0x0707, r, n)
  | .tmgSetStreamGate r n => some (0x0708, r, n)
  | .tmgSetLatency r n => some (0x0709, r, n)
  | .tmgLatRead r n => some (0x070A, r, n)
  | .tmgPortCounters r n => some (0x070B, r, n)
  | .ethSetPort r n => some (0x0800, r, n)
  | .ethPortEnable r n => some (0x0801, r, n)
  | .ethLinkStatus r n => some (0x0802, r, n)
  | .ethTc10 r n => some (0x0803, r, n)
  | .ethRtSave r n => some (0x0804, r, n)
  | .ethRtClear r n => some (0x0805, r, n)
  | .ethPlcaCfg r n => some (0x0806, r, n)
  | .ethPodl r n => some (0x0807, r, n)
  | .ethSaInstall r n => some (0x0808, r, n)
  | .ethSaTxSwitch r n => some (0x0809, r, n)
  | .ethSaDelete r n => some (0x080A, r, n)
  | .ethSaStatus r n => some (0x080B, r, n)
  | .ethPortCounters r n => some (0x080C, r, n)
  | .clnCanConfig r n => some (0x0900, r, n)
  | .clnCanMode r n => some (0x0901, r, n)
  | .clnCanTxLoad r n => some (0x0902, r, n)
  | .clnCanTxAbort r n => some (0x0903, r, n)
  | .clnCanTxStatus r n => some (0x0904, r, n)
  | .clnCanFilter r n => some (0x0905, r, n)
  | .clnCanRecover r n => some (0x0906, r, n)
  | .clnCanWakeCfg r n => some (0x0907, r, n)
  | .clnCanCounters r n => some (0x0908, r, n)
  | .clnLinConfig r n => some (0x0910, r, n)
  | .clnLinSchedLoad r n => some (0x0911, r, n)
  | .clnLinRun r n => some (0x0912, r, n)
  | .clnLinData r n => some (0x0913, r, n)
  | .clnLinPower r n => some (0x0914, r, n)
  | .clnLinCounters r n => some (0x0915, r, n)
  | .gwyRouteWrite r n => some (0x0A00, r, n)
  | .gwyRouteDelete r n => some (0x0A01, r, n)
  | .gwyRouteRead r n => some (0x0A02, r, n)
  | .gwySetSource r n => some (0x0A03, r, n)
  | .gwyTunnelCfg r n => some (0x0A04, r, n)
  | .gwyAuthProfile r n => some (0x0A05, r, n)
  | .gwyFreshSet r n => some (0x0A06, r, n)
  | .gwyCounters r n => some (0x0A07, r, n)
  | .gwyNmCfg r n => some (0x0A20, r, n)
  | .gwyNmRequest r n => some (0x0A21, r, n)
  | .gwyNmStatus r n => some (0x0A22, r, n)
  | .gwyNmUdata r n => some (0x0A23, r, n)
  | .qryPoolCfg r n => some (0x0B00, r, n)
  | .qryReqCfg r n => some (0x0B01, r, n)
  | .qryAlloc r n => some (0x0B02, r, n)
  | .qryFree r n => some (0x0B03, r, n)
  | .qryStatus r n => some (0x0B04, r, n)
  | .sprCfg r n => some (0x0B10, r, n)
  | .cruKeyLoad r n => some (0x0C00, r, n)
  | .cruKeyUnwrap r n => some (0x0C01, r, n)
  | .cruKeyWrap r n => some (0x0C02, r, n)
  | .cruKeyErase r n => some (0x0C03, r, n)
  | .cruKeyStatus r n => some (0x0C04, r, n)
  | .cruEraseAll r n => some (0x0C05, r, n)
  | .cruCounters r n => some (0x0C06, r, n)
  | .lscStatus r n => some (0x0D00, r, n)
  | .lscSetCfg r n => some (0x0D01, r, n)
  | .lscRelease r n _ _ => some (0x0D02, r, n)
  | .lscSyncCheck r n _ _ => some (0x0D03, r, n)
  | .lscSplit r n => some (0x0D04, r, n.1)
  | .lscJoin r n _ _ => some (0x0D05, r, n)
  | .lscRestart r n => some (0x0D06, r, n)
  | .lscInject r n => some (0x0D07, r, n)
  | .lscActCfg r n => some (0x0D08, r, n)
  | .ordSetCfg r n => some (0x0E00, r, n)
  | .ordStatus r n => some (0x0E01, r, n)
  | .ordSwapTest r n => some (0x0E02, r, n)
  | .ordSwapCancel r n => some (0x0E03, r, n)
  | .ordCounters r n => some (0x0E04, r, n)
  | .lchChanCfg r n => some (0x0F00, r, n)
  | .lchProfile r n => some (0x0F01, r, n)
  | .lchTimebase r n => some (0x0F02, r, n)
  | .lchSetHold r n => some (0x0F03, r, n)
  | .lchChanStatus r n => some (0x0F04, r, n)
  | .lchCounters r n => some (0x0F05, r, n)
  | .keyStatus r n => some (0x1000, r, n)
  | .keySetCfg r n => some (0x1001, r, n)
  | .keySleep r n => some (0x1002, r, n)
  | .keyWakeValid r n => some (0x1003, r, n)
  | .keyUnlock r n => some (0x1004, r, n)
  | .keyLogRead r n => some (0x1005, r, n)
  | .keyCounters r n => some (0x1006, r, n)
  | .hbrSetRegion r n => some (0x1100, r, n)
  | .hbrLinkStatus r n => some (0x1101, r, n)
  | .hbrFnStatus r n => some (0x1102, r, n)
  | .hbrLogRead r n => some (0x1103, r, n)
  | .hbrCounters r n => some (0x1104, r, n)
  | .hbrSetCfg r n => some (0x1105, r, n)
  | .sysReset r n => some (0x0100, r, n)
  | .sysFlashRead r n => some (0x0101, r, n)
  | .sysFlashErase r n => some (0x0102, r, n)
  | .sysFlashWrite r n => some (0x0103, r, n)
  | .sysImageCheck r n => some (0x0104, r, n)
  | .hltStatus r n => some (0x1200, r, n)
  | .hltSetCfg r n => some (0x1201, r, n)
  | .hltEccRead r n => some (0x1202, r, n)
  | .hltLifeRead r n => some (0x1203, r, n)
  | .hltLifeSave r n => some (0x1204, r, n)
  | _ => none

end Sys2Proof.Machine
end

