-- ==== Sys2Proof/Certificates/Slice0/Obligations.lean ====
section
/-! DEFINITION. The statements about this model. Each cites the rules it rests on. -/

open Sys2Proof Sys2Proof.Machine

/-- With a command at the front of the queue, a step is the command's effect on the state with the rest of the queue
  (the block's command queue (log entry 5)). -/
def Obligations.StepRunsTheFrontCommand : Prop :=
    (∀ (c : Instr) (rest : List Instr) (s : State), step { s with pending := c :: rest } = exec c
        { s with pending := rest })

/-- Every command answers a next state in every state, and a step with none waiting is one TCLK tick (model's choice,
  log entry 4) (R22, R24, R99, R100). -/
def Obligations.EmptyQueueStepIsOneTick : Prop :=
    (∀ (c : Instr) (s : State), ∃ t, exec c s = .next t)
    ∧ (∀ (s : State), ∃ t, step s = .next t)
    ∧ (∀ (s : State), s.pending = [] → step s = .next (tick s))

/-- On each tick the counter adds INCR to (NS, FRAC); NS carries into SEC at 10^9 and SEC wraps at 2^48 (R99, R100).
  -/
def Obligations.CounterTickAddsIncr : Prop :=
    (∀ (s t : State), s.pending = [] → clocked s = true → (∀ d ∈ s.sys.doubt, d.1 ≠ 3) → s.tim.ns < 1000000000 →
        step s = .next t → t.tim.ns < 1000000000 ∧ (t.tim.sec.toNat * 1000000000 + t.tim.ns) * 2 ^ 32 +
        t.tim.frac.toNat = ((s.tim.sec.toNat * 1000000000 + s.tim.ns) * 2 ^ 32 + s.tim.frac.toNat + s.tim.incr.toNat)
        % (2 ^ 48 * 1000000000 * 2 ^ 32))

/-- The state after reset has its registers, memory and flash in canonical form and NS below 10^9 (R18, R20, R99). -/
def Obligations.ResetStateIsWellFormed : Prop :=
    (State.reset.wf = true)

/-- Every step keeps the invariant: registers, memory and flash in canonical form and NS below 10^9 (R18, R20, R99,
  R100). -/
def Obligations.StepKeepsTheInvariant : Prop :=
    (∀ (s t : State), s.wf = true → step s = .next t → t.wf = true)

/-- At every reset that clears TIM the counter is zero, INCR is nominal and the servo is FREE (R102, R543, R544,
  R545). -/
def Obligations.ResetValuesOfTheTimeBase : Prop :=
    (State.reset.tim.sec = 0 ∧ State.reset.tim.ns = 0 ∧ State.reset.tim.frac = 0 ∧ State.reset.tim.incr =
        0x0200000000#40 ∧ State.reset.tim.servo = .free)
    ∧ (∀ (power : Bool) (s : State), (clearLogic power s).tim.sec = 0 ∧ (clearLogic power s).tim.ns = 0 ∧ (clearLogic
        power s).tim.frac = 0 ∧ (clearLogic power s).tim.incr = 0x0200000000#40 ∧ (clearLogic power s).tim.servo =
        .free)
    ∧ (∀ (s : State), (blockReset 3 s).tim.sec = 0 ∧ (blockReset 3 s).tim.ns = 0 ∧ (blockReset 3 s).tim.frac = 0 ∧
        (blockReset 3 s).tim.incr = 0x0200000000#40 ∧ (blockReset 3 s).tim.servo = .free)

/-- The row of an opcode changes nothing where Mason does not hold that command in that ring and slot, or it may not
  start yet (R67, R75, log entry 6). -/
def Obligations.CommandRowsNeedTheirCommand : Prop :=
    (∀ (i : Instr) (op ring slot : Nat) (s : State), commandRow i = some (op, ring, slot) → findCmd op ring slot s =
        none → exec i s = .next s)

/-- A command that fails a check of R67 steps 5–8 has no effect but its failing reply and the record of a refused
  buffer access (R31, R59, R66, R67, R68, R85, R422). -/
def Obligations.RefusedCommandsOnlyReply : Prop :=
    (∀ (i : Instr) (op ring slot : Nat) (sp : OpSpec) (c : Cmd) (f : Fail) (a : Option Nat) (s : State), commandRow
        i = some (op, ring, slot) → opLookup op = some sp → s.up = true → findCmd op ring slot s = some c → startCheck
        sp c s = .inl (f, a) → exec i s = .next (completeFail c f (match a with
          | some x => s.accessFault c.issuer x false
          | none => s)))

/-- Completing a command moves it from Mason's commands to its replies and touches three fields of its ring's
  registers. The clause about the ring of an image's commands is the model's choice (log entry 60) (R65, R74, R76,
  R82, R87, log entry 60). -/
def Obligations.CompletionTouchesOnlyMason : Prop :=
    (∀ (c : Cmd) (status code offset value len : Nat) (result : List Byte) (s t : State), c.ring ≠ imageRing → t =
        complete c status code offset value len result s → SameRegs [ringReg c.ring 0x24, ringReg c.ring 0x2C] s t ∧
        t.mason.cmds = s.mason.cmds.filter (fun d => !(d.ring == c.ring && d.slot == c.slot && d.door == c.door)) ∧ (∃
        r, t.mason.replies = s.mason.replies ++ [r] ∧ r.ring = c.ring ∧ r.slot = c.slot ∧ r.issuer = c.issuer ∧
        r.opcode = c.opcode ∧ r.tag = c.tag ∧ r.noReply = c.noReply ∧ r.status = status ∧ r.code = code ∧ r.offset =
        offset ∧ r.value = value ∧ r.resultLen = len ∧ r.result = result ∧ r.doneNs = s.tim.ns ∧ r.doneSec =
        s.tim.sec.toNat % 2 ^ 32) ∧ { t with regs := s.regs, mason := s.mason } = s ∧
        { t.mason with cmds := s.mason.cmds, replies := s.mason.replies } = s.mason)
    ∧ (∀ (c : Cmd) (status code offset value len i : Nat) (result : List Byte) (s t : State), c.ring ≠ imageRing → t =
        complete c status code offset value len result s → t.f (ringReg c.ring 0x24) 11 8 = (t.mason.cmds.filter (fun
        d => d.ring == c.ring)).length % 16 ∧ t.bit (ringReg c.ring 0x24) 0 = (!s.bit (ringReg c.ring 0x10) 0 &&
        (t.mason.cmds.filter (fun d => d.ring == c.ring)).isEmpty) ∧ (i ≠ 0 → (i < 8 ∨ 11 < i) → t.bit (ringReg c.ring
        0x24) i = s.bit (ringReg c.ring 0x24) i) ∧ t.rd (ringReg c.ring 0x2C) = if status = stDenied ∧ c.noReply =
        false then (s.cntF (ringReg c.ring 0x2C) 31 16 1).rd (ringReg c.ring 0x2C) else s.rd (ringReg c.ring 0x2C))
    ∧ (∀ (c : Cmd) (status code offset value len : Nat) (result : List Byte) (s : State), c.ring = imageRing →
        complete c status code offset value len result s =
        { s with mason := { s.mason with cmds := s.mason.cmds.filter (fun d => !(d.ring == c.ring && d.slot == c.slot && d.door == c.door)), image := (status, code, offset, value) } })

/-- NOP, FENCE, ECHO and GET_VARIANT complete OK with the results of R84 and no other effect (R15, R43, R44, R65,
  R84). -/
def Obligations.GeneralOpcodes : Prop :=
    (∀ (ring slot : Nat) (c : Cmd) (s0 s : State), Admits (specOf opsGeneral 0) ring slot c s0 s = true → exec (.nop
        ring slot) s0 = .next (okReply c [] 0 s))
    ∧ (∀ (ring slot : Nat) (c : Cmd) (s0 s : State), Admits (specOf opsGeneral 1) ring slot c s0 s = true → exec
        (.fence ring slot) s0 = .next (okReply c [] 0 s))
    ∧ (∀ (ring slot : Nat) (s : State), (∀ c ∈ s.mason.cmds, c.ring = ring → c.slot = slot → c.opcode = 1 → fenceDone
        c s = false) → exec (.fence ring slot) s = .next s)
    ∧ (∀ (ring slot : Nat) (c : Cmd) (s0 s : State), Admits (specOf opsGeneral 2) ring slot c s0 s = true → exec
        (.echo ring slot) s0 = .next (okReply c (c.payload.take 224) (crc32c c.payload).toNat s))
    ∧ (∀ (ring slot : Nat) (c : Cmd) (s0 s : State), Admits (specOf opsGeneral 3) ring slot c s0 s = true → exec
        (.getVariant ring slot) s0 = .next (okReply c (leBytes 4 (s.rd 0x40000004).toNat) 0 s))

/-- A doorbell advances CMD_TAIL; EN = 0 stops a ring, RESET zeroes an idle ring's indices, and CMD.TIMEOUT takes the
  nearer limit. Details that the rules leave open are the model's choice (log entry 30) (R44, R71, R75, R80, R82, R86,
  R589). -/
def Obligations.RingRegisterWrites : Prop :=
    (∀ (m n : Nat) (v : Word) (s : State), MayWrite s m 1 (.bit n) = true → n ≤ 31 → ringOwner s n = m → v.toNat <
        ringSlots s n ∧ v.toNat ≠ s.f (ringReg n 0x14) 11 0 → (v.toNat + ringSlots s n - s.f (ringReg n 0x14) 11 0) %
        ringSlots s n ≤ (s.f (ringReg n 0x18) 11 0 + 2 * ringSlots s n - 1 - s.f (ringReg n 0x14) 11 0) % ringSlots s
        n → ∃ t, exec (.ringDoorbell m n v) s = .next t ∧ t.rd (ringReg n 0x14) = v ∧ SameRegs [ringReg n 0x14] s t ∧
        t.mason.doors = s.mason.doors ++ [⟨n, s.mason.doorCount, v.toNat, m⟩] ∧
        { t with regs := s.regs, mason := s.mason } = s)
    ∧ (∀ (m n : Nat) (v : Word) (s : State), MayWrite s m 1 (.bit n) = true → n ≤ 31 → ringOwner s n = m → ringSlots s
        n ≤ v.toNat → exec (.ringDoorbell m n v) s = .next (s.sb (ringReg n 0x24) 2 true))
    ∧ (∀ (m n : Nat) (v : Word) (s : State), MayWrite s m 1 (.bit n) = true → n ≤ 31 → ringOwner s n = m → v.toNat <
        ringSlots s n ∧ v.toNat = s.f (ringReg n 0x14) 11 0 → exec (.ringDoorbell m n v) s = .next s)
    ∧ (∀ (m n : Nat) (v : Word) (s : State), s.up = true → Issues s m = true → reachesRegs s m = true → n ≤ 31 →
        ringOwner s n ≠ m → exec (.ringDoorbell m n v) s = .next ((s.drop m).sb (ringReg n 0x24) 3 true))
    ∧ (∀ (m n : Nat) (s : State), MayWrite s m 1 (.bit n) = true → n ≤ 31 → ncpRing s n = false → exec (.ringDisable m
        n) s = .next (ringShow n ((s.mason.cmds.filter (fun c => c.ring == n && !c.running)).foldl (fun s c =>
        completeFail c ⟨stAborted, 0x15, noOffset, 0⟩ s) (s.sb (ringReg n 0x10) 0 false))))
    ∧ (∀ (m n : Nat) (s : State), MayWrite s m 1 (.bit n) = true → n ≤ 31 → ncpRing s n = false → s.bit (ringReg n
        0x24) 0 = true → ∃ t, exec (.ringReset m n) s = .next t ∧ (∀ o ∈ [0x14, 0x18, 0x1C, 0x20], t.rd (ringReg n o)
        = 0) ∧ SameRegs [ringReg n 0x14, ringReg n 0x18, ringReg n 0x1C, ringReg n 0x20] s t ∧ t.mason.doors =
        s.mason.doors.filter (fun d => d.ring != n) ∧ { t with regs := s.regs, mason := s.mason } = s)
    ∧ (∀ (m n : Nat) (s : State), MayWrite s m 1 (.bit n) = true → s.bit (ringReg n 0x24) 0 = false → exec (.ringReset
        m n) s = .next s)
    ∧ (∀ (m : Nat) (v : Word) (s : State), MayWrite s m 1 .full = true → fld v 31 20 = 0 → exec (.cmdTimeoutWrite m v)
        s = .next (s.wr (rg 1 8) (BitVec.ofNat 32 (max 100 (min 1000000 (fld v 19 0))))))

/-- EN = 1 is taken only with the configuration R81 asks for; else FAULT is set and the error event raised; no
  configuration write while EN = 1. Details that the rules leave open are the model's choice (log entry 50) (R81). -/
def Obligations.RingEnableChecksTheConfiguration : Prop :=
    (∀ (m n : Nat) (s : State), MayWrite s m 1 (.bit n) = true → n ≤ 31 → ncpRing s n = false → s.bit (ringReg n
        0x10) 0 = false → ringConfigOk s n = true → exec (.ringEnable m n) s = .next (ringShow n (s.sb (ringReg n
        0x10) 0 true)))
    ∧ (∀ (m n : Nat) (s : State), MayWrite s m 1 (.bit n) = true → n ≤ 31 → ncpRing s n = false → s.bit (ringReg n
        0x10) 0 = false → ringConfigOk s n = false → exec (.ringEnable m n) s = .next (((s.sb (ringReg n 0x24) 1
        true).sf (ringReg n 0x24) 5 4 0).notify (ringOwner s n) 1 n))
    ∧ (∀ (n : Nat) (s : State), (n ≠ 31 ∨ s.bit (rg 1 0x20) 0 = false) → (ringConfigOk s n = true ↔ s.f (ringReg n
        0xC) 6 0 ≠ 0 ∧ 4 ≤ s.f (ringReg n 8) 3 0 ∧ s.f (ringReg n 8) 3 0 ≤ 12 ∧ ∀ i < 2 ^ s.f (ringReg n 8) 3 0 / 16,
        ∀ w : Bool, ∃ p, s.physByte (s.f (ringReg n 0xC) 6 0) (ringBase s n + (i + if w then 2 ^ s.f (ringReg n 8) 3 0
        / 16 else 0) * 4096) w = some p ∧ (region p = .sram ∨ region p = .dram)))
    ∧ (∀ (m n o a : Nat) (v : Word) (s : State), MayWrite s m 1 (.bit n) = true → n ≤ 31 ∧ o ∈ [0, 4, 8, 0xC] →
        s.ownWalk m a true = .ok (ringReg n o) → s.bit (ringReg n 0x10) 0 = true → (o ≠ 0xC → (regDesc (ringReg n
        o)).all (fun d => decide (v &&& ~~~ BitVec.ofNat 32 d.known = 0)) = true) → (o = 0xC → bitOf (s.aclEntry 1
        m).rights 4 = true) → exec (.registerWrite m a (leBytes 4 v.toNat)) s = .next s)

/-- SYS.FENCE reads and the pop of the bus error log. That FENCE_TIMEOUT's bit carries no master ID is the model's
  choice (log entry 68); what a master in error reads is any (log entry 49) (R31, R45, R48, R49, R87, R531). -/
def Obligations.FenceReadsAndErrorPop : Prop :=
    (∀ (m waited : Nat) (s : State), s.up = true → Issues s m = true → reachesRegs s m = true → outWrites s m = 0 →
        exec (.sysFenceRead m waited) s = .next
        { s with sys := { s.sys with dropped := tput 0 s.sys.dropped m 0, reads := s.sys.reads ++ [⟨m, s.shown m [BitVec.ofNat 32 (min 0xFFFF waited + tget 0 s.sys.dropped m * 2 ^ 16)], false⟩] } })
    ∧ (∀ (m waited : Nat) (s : State), s.up = true → Issues s m = true → reachesRegs s m = true → outWrites s m ≠ 0 →
        exec (.sysFenceRead m waited) s = .next s)
    ∧ (∀ (m waited : Nat) (s : State), s.up = true → Issues s m = true → reachesRegs s m = true → exec (.fenceTimeout
        m waited) s = .next (State.sb
        { s with sys := { s.sys with dropped := tput 0 s.sys.dropped m 0, reads := s.sys.reads ++ [⟨m, s.shown m [BitVec.ofNat 32 (min 0xFFFF (waited + outWrites s m) + tget 0 s.sys.dropped m * 2 ^ 16 + 2 ^ 30)], false⟩] } }
        (rg 0 0x40) 0 true))
    ∧ (∀ (m : Nat) (s t : State), MayRead s m 0 .none = true → t =
        { s with sys := { s.sys with log := s.sys.log.tail, latch := tput LogEntry.none s.sys.latch m (s.sys.log.headD LogEntry.none) } }
        → exec (.sysErrPop m) s = .next ((t.sf (rg 0 0x38) 4 0 s.sys.log.tail.length).reply m [(s.sys.log.headD
        LogEntry.none).lo] false))

/-- Mason fetches the next slot of the ring its arbitration picks, ends a command whose wait reached CMD.TIMEOUT, and
  raises the completion event of the timer. Details that the rules leave open are the model's choice (log entries 7
  and 53) (R62, R67, R71, R74, R75, R76, R79, R514). -/
def Obligations.CommandsAreFetchedAndTimeOut : Prop :=
    (∀ (n : Nat) (c : Cmd) (s : State), s.up = true → poweringOff s = false → pickRing s = some n → ncpRing s n =
        false → s.badByte (ringOwner s n) (ringBase s n + s.f (ringReg n 0x18) 11 0 * 256) 256 false = none → c =
        parseSlot n (s.f (ringReg n 0x18) 11 0) (ringOwner s n) (doorOf s n) (s.dmaBytes (ringOwner s n) (ringBase s n
        + s.f (ringReg n 0x18) 11 0 * 256) 256) → slotCheck false (opLookup c.opcode) (s.dmaBytes (ringOwner s n)
        (ringBase s n + s.f (ringReg n 0x18) 11 0 * 256) 256) = none → ∃ t, exec .commandFetch s = .next t ∧
        t.mason.cmds = s.mason.cmds ++ [c] ∧ t.mason.replies = s.mason.replies ∧ t.rd (ringReg n 0x18) = BitVec.ofNat
        32 ((s.f (ringReg n 0x18) 11 0 + 1) % ringSlots s n) ∧ SameRegs [ringReg n 0x18, ringReg n 0x24] s t ∧
        { t with mason := s.mason, regs := s.regs } = s)
    ∧ (∀ (n : Nat) (c : Cmd) (f : Fail) (s : State), s.up = true → poweringOff s = false → pickRing s = some n →
        ncpRing s n = false → s.badByte (ringOwner s n) (ringBase s n + s.f (ringReg n 0x18) 11 0 * 256) 256 false =
        none → c = parseSlot n (s.f (ringReg n 0x18) 11 0) (ringOwner s n) (doorOf s n) (s.dmaBytes (ringOwner s n)
        (ringBase s n + s.f (ringReg n 0x18) 11 0 * 256) 256) → slotCheck false (opLookup c.opcode) (s.dmaBytes
        (ringOwner s n) (ringBase s n + s.f (ringReg n 0x18) 11 0 * 256) 256) = some f → ∃ t, exec .commandFetch s =
        .next (completeFail c f t) ∧ t.mason.cmds = s.mason.cmds ++ [c] ∧ t.mason.replies = s.mason.replies ∧ t.rd
        (ringReg n 0x18) = BitVec.ofNat 32 ((s.f (ringReg n 0x18) 11 0 + 1) % ringSlots s n) ∧ SameRegs [ringReg n
        0x18, ringReg n 0x24] s t ∧ { t with mason := s.mason, regs := s.regs } = s)
    ∧ (∀ (ring slot : Nat) (c : Cmd) (s : State), s.up = true → s.mason.cmds.find? (fun c => c.ring == ring && c.slot
        == slot && !c.running && pairBusy c s) = some c → exec (.commandTimeout ring slot) s = .next (completeFail c
        ⟨stTimeout, 0x17, noOffset, s.f (rg 1 8) 19 0⟩ s))
    ∧ (∀ (n : Nat) (s : State), s.up = true → s.f (ringReg n 0x28) 7 0 ≠ 0 ∧ s.f (ringReg n 0x28) 23 8 ≠ 0 ∧ tget 0
        s.mason.unannounced n ≠ 0 → exec (.completionEventTimer n) s = .next (State.notify
        { s with mason := { s.mason with unannounced := tput 0 s.mason.unannounced n 0 } } (ringOwner s n) 0 n))

/-- Mason writes the oldest waiting reply into the next reply slot and advances RSP_TAIL. Details that the rules leave
  open are the model's choice (log entry 51) (R65, R76, R77). -/
def Obligations.RepliesAreWrittenInOrder : Prop :=
    (∀ (r : Reply) (rest : List Reply) (s : State), s.up = true → s.mason.replies = r :: rest → ¬ (r.ring = 31 ∧
        r.issuer = 0x20) → r.noReply = false → s.badByte r.issuer (ringBase s r.ring + (ringSlots s r.ring + s.f
        (ringReg r.ring 0x1C) 11 0) * 256) 256 true = none → exec .commandReply s = .next (announce r.ring
        (State.dmaPut { s with mason := { s.mason with replies := rest } } r.issuer (ringBase s r.ring + (ringSlots s
        r.ring + s.f (ringReg r.ring 0x1C) 11 0) * 256) (replyBytes r))))
    ∧ (∀ (n : Nat) (s : State), (announce n s).f (ringReg n 0x1C) 11 0 = (s.f (ringReg n 0x1C) 11 0 + 1) % ringSlots s
        n % 4096 ∧ (s.f (ringReg n 0x28) 7 0 = 0 → SameRegs [ringReg n 0x1C] s (announce n s) ∧ (announce n s).notices
        = s.notices))

/-- A failed command with NO_REPLY increments RING_ERRCNT.QUIET_FAIL and raises the ring's error event, and nothing
  else records it (R78). -/
def Obligations.QuietFailuresAreOnlyCounted : Prop :=
    (∀ (r : Reply) (rest : List Reply) (s : State), s.up = true → s.mason.replies = r :: rest → ¬ (r.ring = 31 ∧
        r.issuer = 0x20) → r.noReply = true ∧ r.status ≠ 0 → exec .commandReply s = .next ((State.cntF
        { s with mason := { s.mason with replies := rest } } (ringReg r.ring 0x2C) 15 0 1).notify (ringOwner s r.ring)
        1 r.ring))
    ∧ (∀ (r : Reply) (rest : List Reply) (s : State), s.up = true → s.mason.replies = r :: rest → ¬ (r.ring = 31 ∧
        r.issuer = 0x20) → r.noReply = true ∧ r.status = 0 → exec .commandReply s = .next
        { s with mason := { s.mason with replies := rest } })

/-- The network command port's control register and its command frames. What a change of EN and an unsuitable slot
  leave is the model's choice (log entries 25 and 55) (R94, R95, R96, R98, log entries 25, 55). -/
def Obligations.NetworkCommandPort : Prop :=
    (∀ (m : Nat) (v : Word) (s : State), MayWrite s m 1 .full = true → v &&& ~~~ 0x3FF1#32 = 0 → (bitOf v 0 = true →
        ncpKeyOk s (fld v 13 4) = true) → bitOf v 0 = s.bit (rg 1 0x20) 0 → exec (.ncpCtrlWrite m v) s = .next
        { (s.wr (rg 1 0x20) v).wr (rg 1 0x28) 0 with mason := { s.mason with seqEnd := false } })
    ∧ (∀ (m : Nat) (v : Word) (s t : State), MayWrite s m 1 .full = true → v &&& ~~~ 0x3FF1#32 = 0 → (bitOf v 0 = true
        → ncpKeyOk s (fld v 13 4) = true) → bitOf v 0 ≠ s.bit (rg 1 0x20) 0 → t = ringZero 31 (stopRing 31 s) → exec
        (.ncpCtrlWrite m v) s = .next
        { (t.wr (rg 1 0x20) v).wr (rg 1 0x28) 0 with mason := { t.mason with ncp := [], seqEnd := false } })
    ∧ (∀ (m : Nat) (v : Word) (s : State), MayWrite s m 1 .full = true → v &&& ~~~ 0x3FF1#32 = 0 → bitOf v 0 = true ∧
        ncpKeyOk s (fld v 13 4) = false → s.bit (rg 1 0x20) 0 = false → exec (.ncpCtrlWrite m v) s = .next s)
    ∧ (∀ (m : Nat) (v : Word) (s t : State), MayWrite s m 1 .full = true → v &&& ~~~ 0x3FF1#32 = 0 → bitOf v 0 = true
        ∧ ncpKeyOk s (fld v 13 4) = false → s.bit (rg 1 0x20) 0 = true → t = ringZero 31 (stopRing 31 s) → exec
        (.ncpCtrlWrite m v) s = .next (State.sb { t with mason := { t.mason with ncp := [] } } (rg 1 0x20) 0 false))
    ∧ (∀ (bs : List Byte) (vid pcp : Nat) (rest : List (List Byte × Nat × Nat)) (s : State), s.up = true →
        s.mason.imRx = (bs, vid, pcp) :: rest → (s.bit (rg 1 0x20) 0 = false ∨ (etherBody bs).1 ≠ s.f (rg 1 0x24) 15
        0) → exec .ncpCommandFrame s = .next { s with mason := { s.mason with imRx := rest } })
    ∧ (∀ (bs : List Byte) (vid pcp : Nat) (rest : List (List Byte × Nat × Nat)) (s : State), s.up = true →
        s.mason.imRx = (bs, vid, pcp) :: rest → s.bit (rg 1 0x20) 0 = true ∧ (etherBody bs).1 = s.f (rg 1 0x24) 15 0 →
        ncpRoom s = false → exec .ncpCommandFrame s = .next s)
    ∧ (∀ (bs : List Byte) (vid pcp : Nat) (rest : List (List Byte × Nat × Nat)) (s : State), s.up = true →
        s.mason.imRx = (bs, vid, pcp) :: rest → s.bit (rg 1 0x20) 0 = true ∧ (etherBody bs).1 = s.f (rg 1 0x24) 15 0 →
        ncpRoom s = true → ncpForm s (etherBody bs).2 = false → exec .ncpCommandFrame s = .next (State.cnt
        { s with mason := { s.mason with imRx := rest } } (rg 1 0x2C) 1))
    ∧ (∀ (bs : List Byte) (vid pcp : Nat) (rest : List (List Byte × Nat × Nat)) (s t : State) (ok : Bool), s.up = true
        → s.mason.imRx = (bs, vid, pcp) :: rest → s.bit (rg 1 0x20) 0 = true ∧ (etherBody bs).1 = s.f (rg 1 0x24) 15 0
        → ncpRoom s = true → ncpForm s (etherBody bs).2 = true → useKey (ncpSlot s)
        { s with mason := { s.mason with imRx := rest } } = (ok, t) → (ok = false ∨ ncpAuthentic s (etherBody bs).2 =
        false) → exec .ncpCommandFrame s = .next (t.cnt (rg 1 0x2C) 1))
    ∧ (∀ (bs : List Byte) (vid pcp : Nat) (rest : List (List Byte × Nat × Nat)) (s t : State) (k seq : Nat), s.up =
        true → s.mason.imRx = (bs, vid, pcp) :: rest → s.bit (rg 1 0x20) 0 = true ∧ (etherBody bs).1 = s.f (rg 1 0x24)
        15 0 → ncpRoom s = true → ncpForm s (etherBody bs).2 = true ∧ ncpAuthentic s (etherBody bs).2 = true → useKey
        (ncpSlot s) { s with mason := { s.mason with imRx := rest } } = (true, t) → k = t.f (ringReg 31 0x14) 11 0 ∧
        seq = beAt (etherBody bs).2 4 4 → exec .ncpCommandFrame s = .next
        { (t.wr (rg 1 0x28) (BitVec.ofNat 32 seq)).sf (ringReg 31 0x14) 11 0 ((k + 1) % 16) with mason := { t.mason with ncp := t.mason.ncp ++ [{ slot := k, bytes := slice (etherBody bs).2 8 (32 + leAt (etherBody bs).2 14 2), seq := seq, da := slice bs 0 6, sa := slice bs 6 6, vid := vid, pcp := pcp, key := ncpSlot t, gen := (keySlot t (ncpSlot t)).gen, door := t.mason.doorCount }], doors := t.mason.doors ++ [⟨31, t.mason.doorCount, (k + 1) % 16, 0x20⟩], doorCount := t.mason.doorCount + 1, seqEnd := t.mason.seqEnd || seq == 0xFFFFFFFF } })

/-- Each ACL opcode, with ACL_ADMIN and a valid form, sets or returns the entry, window or lock it names. Details that
  the rules leave open are the model's choice (log entries 52 and 54) (R85, R89, R90, R91, R92, R588). -/
def Obligations.AclCommandsAct : Prop :=
    (∀ (ring slot : Nat) (c : Cmd) (s0 s : State), Admits (specOf opsAcl 0x0200) ring slot c s0 s = true → isAdmin s
        c.issuer c.inst = true → aclLocked s c.inst = false → 2 ≤ c.p 32 1 ∧ c.p 32 1 ≤ 0x7F → c.zero 33 3 = true →
        fld (c.w 36) 31 5 = 0 → exec (.aclSetEntry ring slot) s0 = .next (okReply c [] 0 (s.setEntry c.inst (c.p 32 1)
        (AclEntry.mk (c.w 36) (BitVec.ofNat 64 (c.p 40 8))))))
    ∧ (∀ (ring slot : Nat) (c : Cmd) (s0 s : State), Admits (specOf opsAcl 0x0201) ring slot c s0 s = true → isAdmin s
        c.issuer c.inst = true → c.p 32 1 ≤ 0x7F → c.zero 33 3 = true → exec (.aclGetEntry ring slot) s0 = .next
        (okReply c (leBytes 4 (s.aclEntry c.inst (c.p 32 1)).rights.toNat ++ leBytes 8 (s.aclEntry c.inst (c.p 32
        1)).mask.toNat) 0 s))
    ∧ (∀ (ring slot : Nat) (c : Cmd) (s0 s : State), Admits (specOf opsAcl 0x0202) ring slot c s0 s = true → isAdmin s
        c.issuer c.inst = true → exec (.aclLock ring slot) s0 = .next (okReply c [] 0 (s.sb (rg 2 0) c.inst true)))
    ∧ (∀ (ring slot : Nat) (c : Cmd) (s0 s : State), Admits (specOf opsAcl 0x0203) ring slot c s0 s = true → isAdmin s
        c.issuer c.inst = true → aclLocked s c.inst = false → c.p 32 1 ≤ 0x7F ∧ c.p 33 1 ≤ 7 → c.zero 34 2 = true →
        c.p 36 8 % 4096 = 0 ∧ c.p 36 8 < 2 ^ 40 → c.p 44 4 < 2 ^ 28 ∧ c.p 36 8 + c.p 44 4 * 4096 ≤ 2 ^ 40 → c.p 48 4 <
        4 → exec (.aclSetWindow ring slot) s0 = .next (okReply c [] 0 (s.setWindow (c.p 32 1) (c.p 33 1) (Window.mk
        (BitVec.ofNat 40 (c.p 36 8)) (BitVec.ofNat 28 (c.p 44 4)) ((c.p 48 4).testBit 0) ((c.p 48 4).testBit 1)))))
    ∧ (∀ (ring slot : Nat) (c : Cmd) (s0 s : State), Admits (specOf opsAcl 0x0204) ring slot c s0 s = true → isAdmin s
        c.issuer c.inst = true → c.p 32 1 ≤ 0x7F ∧ c.p 33 1 ≤ 7 → c.zero 34 2 = true → exec (.aclGetWindow ring slot)
        s0 = .next (okReply c (leBytes 8 (s.window (c.p 32 1) (c.p 33 1)).base.toNat ++ leBytes 4 (s.window (c.p 32 1)
        (c.p 33 1)).size.toNat ++ leBytes 4 (b2n (s.window (c.p 32 1) (c.p 33 1)).read + 2 * b2n (s.window (c.p 32 1)
        (c.p 33 1)).write)) 0 s))

/-- A write in the ACL register window changes one word of one entry or window, only with WRITE and ACL_ADMIN and no
  lock; without them it is dropped. Details that the rules leave open are the model's choice (log entry 54) (R34, R85,
  R89, R90, R91, R591). -/
def Obligations.AclRegisterWindow : Prop :=
    (∀ (m b t i off : Nat) (v : Word) (e : AclEntry) (s : State), s.up = true → Issues s m = true → reachesRegs s m
        = true → b ≤ 18 ∧ 2 ≤ t ∧ t ≤ 127 ∧ i ≤ 3 ∧ off = 0x10000 + b * 0x800 + t * 0x10 + i * 4 → aclMayWrite s m b =
        true → aclLocked s b = false → entryWrite (s.aclEntry b t) i v = some e → exec (.aclWindowWrite m off v) s =
        .next (s.setEntry b t e))
    ∧ (∀ (m t w i off : Nat) (v : Word) (x : Window) (s : State), s.up = true → Issues s m = true → reachesRegs s m =
        true → t ≤ 127 ∧ w ≤ 7 ∧ i ≤ 3 ∧ off = 0x20000 + t * 0x80 + w * 0x10 + i * 4 → aclMayWrite s m 19 = true →
        aclLocked s 19 = false → windowWrite (s.window t w) i v = some x → exec (.aclWindowWrite m off v) s = .next
        (s.setWindow t w x))
    ∧ (∀ (m b t i off : Nat) (v : Word) (s : State), s.up = true → Issues s m = true → reachesRegs s m = true → b ≤ 18
        ∧ t ≤ 127 ∧ i ≤ 3 ∧ off = 0x10000 + b * 0x800 + t * 0x10 + i * 4 → (aclMayWrite s m b = false ∨ t ≤ 1 ∨
        aclLocked s b = true) → exec (.aclWindowWrite m off v) s = .next (s.drop m))
    ∧ (∀ (m t w i off : Nat) (v : Word) (s : State), s.up = true → Issues s m = true → reachesRegs s m = true → t ≤
        127 ∧ w ≤ 7 ∧ i ≤ 3 ∧ off = 0x20000 + t * 0x80 + w * 0x10 + i * 4 → (aclMayWrite s m 19 = false ∨ aclLocked s
        19 = true) → exec (.aclWindowWrite m off v) s = .next (s.drop m))
    ∧ (∀ (m : Nat) (v : Word) (s : State), s.up = true → Issues s m = true → reachesRegs s m = true → fld v 31 20 = 0
        → (bitsOf v.toNat 20).all (aclMayWrite s m) = true → exec (.aclLockWrite m v) s = .next ((bitsOf v.toNat
        20).foldl (fun t b => t.sb (rg 2 0) b true) s))
    ∧ (∀ (m : Nat) (v : Word) (s : State), s.up = true → Issues s m = true → reachesRegs s m = true → fld v 31 20 = 0
        → (bitsOf v.toNat 20).all (aclMayWrite s m) = false → exec (.aclLockWrite m v) s = .next ((((bitsOf v.toNat
        20).filter (aclMayWrite s m)).foldl (fun t b => t.sb (rg 2 0) b true) s).drop m))

/-- A write of INCR_HI commits INCR limited to nominal ±500 ppm, and sets INCR_SAT and raises INCR_SAT where it was
  outside; INCR_LO alone changes no rate (R101, R107). -/
def Obligations.IncrIsLimitedAndCommitted : Prop :=
    (∀ (m : Nat) (v : Word) (s : State), MayWrite s m 3 (.bit 0) = true → fld v 31 8 = 0 → (hostMode s = true ∨ m =
        0) → ∃ t, exec (.incrCommit m v) s = .next t ∧ t.tim = { s.tim with incr := t.tim.incr } ∧ t.tim.incr.toNat =
        max 0x01FFBE76C9 (min 0x0200418937 (fld v 7 0 * 2 ^ 32 + (s.rd (rg 3 0x10)).toNat)) ∧ t.bit (rg 3 0x20) 4 =
        (s.bit (rg 3 0x20) 4 || decide (t.tim.incr.toNat ≠ fld v 7 0 * 2 ^ 32 + (s.rd (rg 3 0x10)).toNat)) ∧ t.bit (rg
        3 0x34) 5 = (s.bit (rg 3 0x34) 5 || decide (t.tim.incr.toNat ≠ fld v 7 0 * 2 ^ 32 + (s.rd (rg 3 0x10)).toNat))
        ∧ t.rd (rg 3 0x10) = BitVec.ofNat 32 t.tim.incr.toNat ∧ t.rd (rg 3 0x14) = BitVec.ofNat 32 (t.tim.incr.toNat /
        2 ^ 32) ∧ SameRegs [rg 3 0x10, rg 3 0x14, rg 3 0x20, rg 3 0x34] s t ∧ { t with tim := s.tim, regs := s.regs }
        = s)
    ∧ (∀ (m a : Nat) (v : Word) (s : State), MayWrite s m 3 (.bit 0) = true → s.ownWalk m a true = .ok (rg 3 0x10) → ∃
        t, exec (.registerWrite m a (leBytes 4 v.toNat)) s = .next t ∧ t.tim = s.tim ∧ t.rd (rg 3 0x10) = v ∧ SameRegs
        [rg 3 0x10] s t)

/-- A step by STEP_HI or TIM_STEP adds the offset to SEC and NS, keeps FRAC, increments COUNTS.STEPS and raises
  STEPPED (R109). -/
def Obligations.StepsAddTheOffsetAndAreCounted : Prop :=
    (∀ (m : Nat) (v : Word) (off : Int) (s : State), MayWrite s m 3 (.bit 0) = true → (hostMode s = true ∨ m = 0) →
        off = (BitVec.ofNat 64 (v.toNat * 2 ^ 32 + s.tim.stepLo.toNat)).toInt → stepFits off s = true → ∃ t, exec
        (.stepCommit m v) s = .next t ∧ Stepped off s t)
    ∧ (∀ (ring slot : Nat) (c : Cmd) (s0 s : State), Admits (specOf opsTim 0x0301) ring slot c s0 s = true → (hostMode
        s = true ∨ c.issuer = 0) → stepFits (BitVec.ofNat 64 (c.p 32 8)).toInt s = true → exec (.timStep ring slot) s0
        = .next (okReply c [] 0 (stepClock (BitVec.ofNat 64 (c.p 32 8)).toInt s)))
    ∧ (∀ (off : Int) (s : State), stepFits off s = true → s.tim.ns < 1000000000 → Stepped off s (stepClock off s))
    ∧ (∀ (domain : Nat) (offset : Int) (s : State), s.up = true → gptpRuns s domain = true ∧ gptpAny s domain 2 = true
        → domain = s.f (rg 3 0x24) 1 1 → s.tim.servo = .free → exec (.syncAccepted domain offset) s = .next (lockJudge
        offset (setServo .locking (stepClock (-offset) s))))

/-- Reads of the counter, TIM_SET_INCR, TIM_SET_SERVO, the servo's events and the other gPTP domain's offset. The
  corrected INCR is a free value (log entry 10), and that a copy of STATUS clears nothing is the model's choice (log
  entry 71) (R101, R103, R110, R112, R113, R114, R117, R128, R592). -/
def Obligations.CounterAndServoCommands : Prop :=
    (∀ (m : Nat) (s t : State), MayRead s m 3 .none = true → t =
        { s with tim := { s.tim with latches := tput ⟨0, 0⟩ s.tim.latches m ⟨s.tim.sec, s.tim.frac⟩ } } → exec
        (.timeNsRead m) s = .next (t.reply m [BitVec.ofNat 32 s.tim.ns] false))
    ∧ (∀ (ring slot : Nat) (c : Cmd) (s0 s : State), Admits (specOf opsTim 0x0300) ring slot c s0 s = true → exec
        (.timGetTime ring slot) s0 = .next (okReply c (leBytes 4 s.tim.ns ++ leBytes 6 s.tim.sec.toNat ++ leBytes 2 0
        ++ leBytes 4 s.tim.frac.toNat ++ leBytes 4 (s.rd (rg 3 0x20)).toNat) 0 s))
    ∧ (∀ (ring slot : Nat) (c : Cmd) (s0 s : State), Admits (specOf opsTim 0x0302) ring slot c s0 s = true →
        0x01FFBE76C9 ≤ c.p 32 8 ∧ c.p 32 8 ≤ 0x0200418937 → (hostMode s = true ∨ c.issuer = 0) → exec (.timSetIncr
        ring slot) s0 = .next (okReply c [] 0 (commitIncr (c.p 32 8) s)))
    ∧ (∀ (ring slot : Nat) (c : Cmd) (s0 s : State), Admits (specOf opsTim 0x0303) ring slot c s0 s = true → servoForm
        (c.w 32) = true → exec (.timSetServo ring slot) s0 = .next (okReply c [] 0 (showServo (s.wr (rg 3 0x24) (c.w
        32)))))
    ∧ (∀ (s : State), s.up = true → hostMode s = false → (s.tim.servo = .locking ∨ s.tim.servo = .locked) → exec
        .syncReceiptTimeout s = .next ((setServo .holdover { s with tim := { s.tim with lockCount := 0 } }).raise 3
        1))
    ∧ (∀ (s : State), s.up = true → gptpMaster s (s.f (rg 3 0x24) 1 1) = true → s.tim.servo ≠ .gm → exec .gmChange s =
        .next ((setServo .gm { s with tim := { s.tim with lockCount := 0 } }).raise 3 4))
    ∧ (∀ (domain k : Nat) (offset : Int) (s x t : State), s.up = true → gptpRuns s domain = true ∧ gptpAny s domain 2
        = true ∧ domain = s.f (rg 3 0x24) 1 1 → ((s.tim.servo = .locking ∧ x = s) ∨ (s.tim.servo = .holdover ∧ x =
        (setServo .locking { s with tim := { s.tim with lockCount := 0 } }).raise 3 2) ∨ (s.tim.servo = .gm ∧ x =
        (setServo .locking { s with tim := { s.tim with lockCount := 0 } }).raise 3 4)) → (offset.natAbs ≤ s.f (rg 3
        0x24) 15 4 * 1000 ∨ (s.f (rg 3 0x24) 15 4 = 0 ∧ s.tim.everLocked = true)) → t = commitIncr (Config.piIncr
        x.free.1 offset).toNat x.free.2 → (k = if offset.natAbs ≤ s.f (rg 3 0x24) 23 16 then x.tim.lockCount + 1 else
        0) → exec (.syncAccepted domain offset) s = .next (if 8 ≤ k then (setServo .locked
        { t with tim := { t.tim with lockCount := k, everLocked := true } }).raise 3 0 else
        { t with tim := { t.tim with lockCount := k } }))
    ∧ (∀ (domain : Nat) (offset : Int) (s : State), s.up = true → gptpRuns s domain = true ∧ gptpAny s domain 2 = true
        ∧ domain = s.f (rg 3 0x24) 1 1 → s.tim.servo = .locked → (offset.natAbs ≤ s.f (rg 3 0x24) 15 4 * 1000 ∨ (s.f
        (rg 3 0x24) 15 4 = 0 ∧ s.tim.everLocked = true)) → exec (.syncAccepted domain offset) s = .next (commitIncr
        (Config.piIncr s.free.1 offset).toNat s.free.2))
    ∧ (∀ (domain : Nat) (offset : Int) (s : State), s.up = true → gptpRuns s domain = true ∧ gptpAny s domain 2 = true
        ∧ domain = s.f (rg 3 0x24) 1 1 → s.tim.servo = .locked → s.f (rg 3 0x24) 15 4 * 1000 < offset.natAbs ∧ s.f (rg
        3 0x24) 15 4 ≠ 0 → exec (.syncAccepted domain offset) s = .next (setServo .locking (stepClock (-offset)
        { s with tim := { s.tim with lockCount := 0 } })))
    ∧ (∀ (domain : Nat) (offset : Int) (s : State), s.up = true → gptpRuns s domain = true ∧ gptpAny s domain 2 = true
        → domain ≠ s.f (rg 3 0x24) 1 1 → exec (.syncAccepted domain offset) s = .next (s.wr (rg 3 0x2C) (ofSInt (max
        (-2147483648) (min 2147483647 (-offset))))))

/-- Timed pulse outputs start, reach their edges and stop; captures enter and leave their FIFOs; gPTP configuration
  and Sync sending. Details that the rules leave open are the model's choice (log entries 56, 70 and 71) (R116, R119,
  R122, R123, R124, R125, R126, R128). -/
def Obligations.PulsesCapturesAndGptp : Prop :=
    (∀ (m k : Nat) (v : Word) (s : State), MayWrite s m 3 (.bit (8 + k)) = true → k < 8 → fld v 15 2 = 0 → s.bit
        (tpoReg k 0) 0 = false → bitOf v 0 = true → s.f (tpoReg k 4) 29 0 < 1000000000 → pulseShapeOk (s.rd (tpoReg k
        0xC)).toNat (s.rd (tpoReg k 0x10)).toNat = true → exec (.tpoEnableWrite m k v) s = .next (tpoBegin k (s.wr
        (tpoReg k 0) (setBit v 0 false))))
    ∧ (∀ (m k : Nat) (v : Word) (s : State), MayWrite s m 3 (.bit (8 + k)) = true → k < 8 → fld v 15 2 = 0 → s.bit
        (tpoReg k 0) 0 = true → bitOf v 0 = false → exec (.tpoEnableWrite m k v) s = .next (setPulse k Pulse.rest
        (s.sb (tpoReg k 0) 0 false)))
    ∧ (∀ (k : Nat) (p : Pulse) (s : State), s.up = true → k < 8 ∧ s.bit (tpoReg k 0) 0 = true → p = tget Pulse.rest
        s.tim.tpo k ∧ p.active = false → tpoStart s k + p.n * (s.rd (tpoReg k 0xC)).toNat ≤ s.now → exec (.tpoEdge k)
        s = .next (if p.late then ((setPulse k ⟨p.n, true, false⟩ s).cntF (rg 3 0x30) 31 16 1).raise 3 6 else setPulse
        k ⟨p.n, true, false⟩ s))
    ∧ (∀ (k : Nat) (p : Pulse) (s : State), s.up = true → k < 8 ∧ s.bit (tpoReg k 0) 0 = true → p = tget Pulse.rest
        s.tim.tpo k ∧ p.active = true → tpoStart s k + p.n * (s.rd (tpoReg k 0xC)).toNat + (s.rd (tpoReg k
        0x10)).toNat ≤ s.now → exec (.tpoEdge k) s = .next (if (s.rd (tpoReg k 0xC)).toNat = 0 then setPulse k
        Pulse.rest (s.sb (tpoReg k 0) 0 false) else setPulse k ⟨p.n + 1, false, false⟩ s))
    ∧ (∀ (k : Nat) (falling : Bool) (s : State), s.up = true → k < 4 ∧ s.bit (tciReg k 0) 0 = true ∧ (s.f (tciReg k 0)
        2 1).testBit (b2n falling) = true → (tget [] s.tim.tci k).length < 16 → ∃ t, exec (.tciCapture k falling) s =
        .next t ∧ tget [] t.tim.tci k = tget [] s.tim.tci k ++ [⟨BitVec.ofNat 48 ((s.now + timeSpan - 8) % timeSpan /
        1000000000), (s.now + timeSpan - 8) % timeSpan % 1000000000, falling⟩] ∧ t.f (tciReg k 0xC) 4 0 = (tget []
        s.tim.tci k).length + 1 ∧ SameRegs [tciReg k 0xC, rg 3 0x34] s t ∧ { t with tim := s.tim, regs := s.regs } =
        s)
    ∧ (∀ (k : Nat) (falling : Bool) (s : State), s.up = true → k < 4 ∧ s.bit (tciReg k 0) 0 = true ∧ (s.f (tciReg k 0)
        2 1).testBit (b2n falling) = true → 16 ≤ (tget [] s.tim.tci k).length → exec (.tciCapture k falling) s = .next
        ((s.cntF (tciReg k 0xC) 15 8 1).raise 3 (12 + k)))
    ∧ (∀ (m k : Nat) (x : Capture) (r : List Capture) (s : State), MayRead s m 3 (.bit (16 + k)) = true → tget []
        s.tim.tci k = x :: r → ∃ t, exec (.tciPop m k) s = .next t ∧ tget [] t.tim.tci k = r ∧ t.sys.reads =
        s.sys.reads ++ [⟨m, [BitVec.ofNat 32 (x.ns + b2n x.falling * 2 ^ 30 + 2 ^ 31)], false⟩] ∧ t.rd (tciReg k 8) =
        BitVec.ofNat 32 x.sec.toNat ∧ t.f (tciReg k 0xC) 31 16 = x.sec.toNat / 2 ^ 32 ∧ t.f (tciReg k 0xC) 4 0 =
        r.length % 32 ∧ SameRegs [tciReg k 8, tciReg k 0xC] s t)
    ∧ (∀ (m k : Nat) (s : State), MayRead s m 3 (.bit (16 + k)) = true → tget [] s.tim.tci k = [] → exec (.tciPop m k)
        s = .next (s.reply m [0] false))
    ∧ (∀ (ring slot : Nat) (c : Cmd) (s0 s : State), Admits (specOf opsTim 0x0304) ring slot c s0 s = true → fld (c.w
        32) 7 2 = 0 ∧ bitOf (c.w 32) 31 = false ∧ c.p 36 8 < 2 ^ 36 ∧ gptpForm (c.w 32) = true → fld (c.w 32) 30 24 ≠
        s.f (rg 3 (0x40 + (1 - (c.inst - 1)) * 0x10)) 30 24 → s.bit (rg 3 (0x40 + (c.inst - 1) * 0x10)) 0 = false →
        exec (.timGptpCfg ring slot) s0 = .next (okReply c [] 0 (((s.wr (rg 3 (0x40 + (c.inst - 1) * 0x10)) (c.w
        32)).wr (rg 3 (0x44 + (c.inst - 1) * 0x10)) (c.w 36)).wr (rg 3 (0x48 + (c.inst - 1) * 0x10)) (c.w 40))))
    ∧ (∀ (ring slot : Nat) (c : Cmd) (s0 s : State), Admits (specOf opsTim 0x0305) ring slot c s0 s = true →
        c.timeForm 32 = true ∧ c.timeNs 32 < 1000000000 ∧ c.p 52 4 < 4 ∧ pulseShapeOk (c.p 44 4) (c.p 48 4) = true →
        s.bit (tpoReg (c.inst - 8) 0) 0 = false → exec (.timPulseCfg ring slot) s0 = .next (okReply c [] 0 (if bitOf
        (c.w 52) 0 then tpoBegin (c.inst - 8) (pulseWords c s) else pulseWords c s)))
    ∧ (∀ (ring slot : Nat) (c : Cmd) (s0 s : State), Admits (specOf opsTim 0x0306) ring slot c s0 s = true → c.p 32 4
        < 8 ∧ c.p 32 4 / 2 ≠ 0 → exec (.timCaptureCfg ring slot) s0 = .next (okReply c [] 0 (s.wr (tciReg (c.inst -
        16) 0) (c.w 32))))
    ∧ (∀ (domain port : Nat) (pdelay : Bool) (s : State), s.up = true → gptpRuns s domain = true ∧ port < 18 →
        gptpRole s domain port = 1 → exec (.gptpSyncSend domain port pdelay) s = .next
        { s with tim := { s.tim with gptpSent := s.tim.gptpSent ++ [⟨domain, port, pdelay, s.now⟩] } })

/-- Each SWC opcode with a valid form stores its settings or table entry, or returns the counters or entry it names.
  Details that the rules leave open are the model's choice (log entry 57) (R143, R156, R157, R158, R162, R163, R164,
  R165, R167). -/
def Obligations.SwitchCoreOpcodes : Prop :=
    (∀ (ring slot : Nat) (c : Cmd) (s0 s : State), Admits (specOf opsSwc 0x0400) ring slot c s0 s = true →
        reserveSum s + c.p 32 4 + c.p 36 4 ≤ 98304 → 1 ≤ c.p 40 4 ∧ c.p 40 4 ≤ 1000 → exec (.swcSetShared ring slot)
        s0 = .next (okReply c [] 0 (((s.wr (rg 4 0x10) (c.w 32)).wr (rg 4 0x14) (c.w 36)).wr (rg 4 0x20) (c.w 40))))
    ∧ (∀ (ring slot : Nat) (c : Cmd) (s0 s : State), Admits (specOf opsSwc 0x0401) ring slot c s0 s = true → 1 ≤ c.p
        36 4 ∧ c.p 36 4 ≤ 98304 ∧ c.p 32 4 ≤ c.p 36 4 → areaSum ((setCharge c.inst (charge s c.inst) (c.p 32 4) s).wr
        (swcQueue c.inst 4) (c.w 36)) ≤ 98304 → exec (.swcSetQueue ring slot) s0 = .next (okReply c [] 0 ((setCharge
        c.inst (charge s c.inst) (c.p 32 4) s).wr (swcQueue c.inst 4) (c.w 36))))
    ∧ (∀ (ring slot : Nat) (c : Cmd) (s0 s : State), Admits (specOf opsSwc 0x0402) ring slot c s0 s = true → exec
        (.swcFlushQueue ring slot) s0 = .next (okReply c (leBytes 4 (flushQueue c.inst s).2.1 ++ leBytes 4 (flushQueue
        c.inst s).2.2) 0 (flushQueue c.inst s).1))
    ∧ (∀ (ring slot : Nat) (c : Cmd) (s0 s : State), Admits (specOf opsSwc 0x0403) ring slot c s0 s = true →
        swcPortForm (c.w 32) = true → c.p 36 4 < 2 ^ 24 → exec (.swcSetPort ring slot) s0 = .next (okReply c [] 0
        (setPortCfg c.inst (c.w 32) (s.wr (swcPort c.inst 4) (c.w 36)))))
    ∧ (∀ (ring slot : Nat) (c : Cmd) (s0 s : State) (w : Nat), Admits (specOf opsSwc 0x0404) ring slot c s0 s = true →
        1 ≤ c.p 38 2 ∧ c.p 38 2 ≤ 4094 → c.p 40 4 < 2 ^ 21 ∧ unfittedOf s (c.p 40 4) = none ∧ (bitsOf (c.p 40 4)
        21).all (fun p => (s.aclEntry 4 c.issuer).mask.getLsbD p) = true → ((fdbWay s (c.p 38 2) (slice c.payload 0
        6)).or ((List.range 4).find? (fun w => (tget none s.swc.fdb (fdbBucket (c.p 38 2) (slice c.payload 0 6) * 4 +
        w)).isNone))) = some w → exec (.swcFdbWrite ring slot) s0 = .next (okReply c [] 0 (s.withSwc (fun x =>
        { x with fdb := tput none x.fdb (fdbBucket (c.p 38 2) (slice c.payload 0 6) * 4 + w) (some ⟨c.p 38 2, slice c.payload 0 6, c.p 40 4⟩) }))))
    ∧ (∀ (ring slot : Nat) (c : Cmd) (s0 s : State) (w : Nat), Admits (specOf opsSwc 0x0405) ring slot c s0 s = true →
        1 ≤ c.p 38 2 ∧ c.p 38 2 ≤ 4094 → fdbWay s (c.p 38 2) (slice c.payload 0 6) = some w → exec (.swcFdbDelete ring
        slot) s0 = .next (okReply c [] 0 (s.withSwc (fun x =>
        { x with fdb := tput none x.fdb (fdbBucket (c.p 38 2) (slice c.payload 0 6) * 4 + w) none }))))
    ∧ (∀ (ring slot : Nat) (c : Cmd) (s0 s : State) (e : Fdb), Admits (specOf opsSwc 0x0406) ring slot c s0 s = true →
        1 ≤ c.p 38 2 ∧ c.p 38 2 ≤ 4094 → (fdbWay s (c.p 38 2) (slice c.payload 0 6)).bind (fun w => tget none
        s.swc.fdb (fdbBucket (c.p 38 2) (slice c.payload 0 6) * 4 + w)) = some e → exec (.swcFdbRead ring slot) s0 =
        .next (okReply c (leBytes 4 e.ports) 0 s))
    ∧ (∀ (ring slot : Nat) (c : Cmd) (s0 s : State), Admits (specOf opsSwc 0x0407) ring slot c s0 s = true → 1 ≤ c.p
        32 2 ∧ c.p 32 2 ≤ 4094 ∧ c.zero 34 2 = true → (∀ o ∈ [36, 40, 44], c.p o 4 < 2 ^ 21 ∧ unfittedOf s (c.p o 4) =
        none ∧ (bitsOf (c.p o 4) 21).all (fun p => (s.aclEntry 4 c.issuer).mask.getLsbD p) = true) → exec
        (.swcVlanWrite ring slot) s0 = .next (okReply c [] 0 (s.withSwc (fun x =>
        { x with vlans := tput Vlan.zero x.vlans (c.p 32 2) ⟨c.p 36 4, c.p 40 4, c.p 44 4⟩ }))))
    ∧ (∀ (ring slot : Nat) (c : Cmd) (s0 s : State), Admits (specOf opsSwc 0x0408) ring slot c s0 s = true → fld (c.w
        32) 31 10 = 0 ∧ 2 ≤ fld (c.w 32) 9 4 ∧ fld (c.w 32) 9 4 ≤ 32 → 1 ≤ c.p 36 4 ∧ c.p 36 4 ≤ 65535 → exec
        (.swcFrerWrite ring slot) s0 = .next (okReply c [] 0 (setFrer c.inst
        { frerOf s c.inst with word := c.w 32, resetMs := c.p 36 4, gen := 0, recov := 0, history := 0, takeAny := true }
        s)))
    ∧ (∀ (ring slot : Nat) (c : Cmd) (s0 s : State), Admits (specOf opsSwc 0x0409) ring slot c s0 s = true → exec
        (.swcFrerCounters ring slot) s0 = .next (okReply c ([(frerOf s c.inst).passed, (frerOf s c.inst).discarded,
        (frerOf s c.inst).outOfOrder, (frerOf s c.inst).rogue, (frerOf s c.inst).tagless, (frerOf s
        c.inst).resets].flatMap (leBytes 4)) 0 (setFrer c.inst
        { frerOf s c.inst with passed := 0, discarded := 0, outOfOrder := 0, rogue := 0, tagless := 0, resets := 0 }
        s)))
    ∧ (∀ (ring slot : Nat) (c : Cmd) (s0 s : State), Admits (specOf opsSwc 0x040A) ring slot c s0 s = true → exec
        (.swcPortCounters ring slot) s0 = .next (okReply c (readRegs (regRun (swcPort c.inst 0x20) 18) s) 0 s))

/-- SWC acts on the oldest verdict: a frame FRER recovery eliminates leaves holes and frees its tiles; otherwise the
  policer and then admission decide. Details that the rules leave open are the model's choice (log entries 16 and 31)
  (R146, R149, R150, R162, R163, R227, R228). -/
def Obligations.SwitchCoreActsOnVerdicts : Prop :=
    (∀ (v : Verdict) (r : List Verdict) (f : Frame) (a : Asked) (s t : State), s.up = true → s.swc.verdicts = v :: r
        → findFrame s v.frame = some f → t = s.withSwc (fun w => { w with verdicts := r }) ∧ a = asked t f v.words →
        bitOf (v.words.getD 2 0) 25 = true → (frerRecover (frerOf s (fld (v.words.getD 2 0) 24 13)) f).1 = false →
        exec .verdictAct s = .next (noCopies f (setFrer (fld (v.words.getD 2 0) 24 13) (frerRecover (frerOf s (fld
        (v.words.getD 2 0) 24 13)) f).2.2 (countUnfitted f (a.fwd ||| a.mirror) (if a.action = 0 then t.cnt (rg 6
        (0x1000 + fld (v.words.getD 1 0) 28 21 * 4)) 1 else t)))))
    ∧ (∀ (v : Verdict) (r : List Verdict) (f : Frame) (a : Asked) (s t : State), s.up = true → s.swc.verdicts = v :: r
        → findFrame s v.frame = some f → t = s.withSwc (fun w => { w with verdicts := r }) ∧ a = asked t f v.words →
        bitOf (v.words.getD 2 0) 25 = false ∧ bitOf (v.words.getD 2 0) 12 = false → exec .verdictAct s = .next
        (admitFrame f v a none false ⟨.pass, none, false⟩ (countUnfitted f (a.fwd ||| a.mirror) (if a.action = 0 then
        t.cnt (rg 6 (0x1000 + fld (v.words.getD 1 0) 28 21 * 4)) 1 else t))))
    ∧ (∀ (v : Verdict) (r : List Verdict) (f : Frame) (a : Asked) (s t u : State), s.up = true → s.swc.verdicts = v ::
        r → findFrame s v.frame = some f → t = s.withSwc (fun w => { w with verdicts := r }) ∧ a = asked t f v.words →
        (u = countUnfitted f (a.fwd ||| a.mirror) (if a.action = 0 then t.cnt (rg 6 (0x1000 + fld (v.words.getD 1 0)
        28 21 * 4)) 1 else t)) → bitOf (v.words.getD 2 0) 25 = false ∧ bitOf (v.words.getD 2 0) 12 = true → (judge
        (fld (v.words.getD 2 0) 11 0) f u).1.colour = .red → exec .verdictAct s = .next (refuseAll f a (judge (fld
        (v.words.getD 2 0) 11 0) f u).2))
    ∧ (∀ (v : Verdict) (r : List Verdict) (f : Frame) (a : Asked) (s t u : State), s.up = true → s.swc.verdicts = v ::
        r → findFrame s v.frame = some f → t = s.withSwc (fun w => { w with verdicts := r }) ∧ a = asked t f v.words →
        (u = countUnfitted f (a.fwd ||| a.mirror) (if a.action = 0 then t.cnt (rg 6 (0x1000 + fld (v.words.getD 1 0)
        28 21 * 4)) 1 else t)) → bitOf (v.words.getD 2 0) 25 = false ∧ bitOf (v.words.getD 2 0) 12 = true → (judge
        (fld (v.words.getD 2 0) 11 0) f u).1.colour ≠ .red → exec .verdictAct s = .next (admitFrame f v a none false
        (judge (fld (v.words.getD 2 0) 11 0) f u).1 (judge (fld (v.words.getD 2 0) 11 0) f u).2))
    ∧ (∀ (v : Verdict) (r : List Verdict) (f : Frame) (a : Asked) (x : Frer) (pop : Bool) (i : Nat) (s t u : State),
        s.up = true → s.swc.verdicts = v :: r → findFrame s v.frame = some f → t = s.withSwc (fun w =>
        { w with verdicts := r }) ∧ a = asked t f v.words ∧ i = fld (v.words.getD 2 0) 24 13 → (u = countUnfitted f
        (a.fwd ||| a.mirror) (if a.action = 0 then t.cnt (rg 6 (0x1000 + fld (v.words.getD 1 0) 28 21 * 4)) 1 else t))
        → bitOf (v.words.getD 2 0) 25 = true ∧ bitOf (v.words.getD 2 0) 12 = false → frerRecover (frerOf s i) f =
        (true, pop, x) → exec .verdictAct s = .next (if bitOf x.word 0 then admitFrame f v a (some x.gen) pop ⟨.pass,
        none, false⟩ (setFrer i { x with gen := (x.gen + 1) % 65536 } (setFrer i x u)) else admitFrame f v a none pop
        ⟨.pass, none, false⟩ (setFrer i x u)))

/-- A lane releases item E and expects the next number; its timeout advances E; an FRER stream's history resets;
  LINKDOWN_FLUSH takes effect at once. Details that the rules leave open are the model's choice (log entry 16) (R151,
  R152, R163, R164). -/
def Obligations.LanesFrerAndLinkDown : Prop :=
    (∀ (p stream : Nat) (c : Copy) (s : State), s.up = true → (lane s p stream).items.find? (fun i => i.1 == (lane s
        p stream).e) = some ((lane s p stream).e, some c) → exec (.laneRelease p stream) s = .next (enterQueue c
        (setLane p stream ⟨((lane s p stream).e + 1) % 65536, (lane s p stream).items.filter (fun i => i.1 != (lane s
        p stream).e)⟩ s)))
    ∧ (∀ (p stream : Nat) (s : State), s.up = true → (lane s p stream).items.find? (fun i => i.1 == (lane s p
        stream).e) = some ((lane s p stream).e, none) → exec (.laneRelease p stream) s = .next (setLane p stream
        ⟨((lane s p stream).e + 1) % 65536, (lane s p stream).items.filter (fun i => i.1 != (lane s p stream).e)⟩ s))
    ∧ (∀ (p stream d : Nat) (s : State), s.up = true → (lane s p stream).items.all (fun i => i.1 != (lane s p
        stream).e) = true → ((lane s p stream).items.map (fun i => ahead (lane s p stream).e i.1)).min? = some d →
        exec (.reseqTimeout p stream) s = .next ((swcCount p 0x48 (setLane p stream ⟨((lane s p stream).e + d) %
        65536, (lane s p stream).items⟩ s)).raise 4 2))
    ∧ (∀ (stream : Nat) (s : State), s.up = true → stream < 4096 ∧ bitOf (frerOf s stream).word 1 = true ∧ (frerOf s
        stream).takeAny = false → exec (.frerReset stream) s = .next ((setFrer stream
        { frerOf s stream with takeAny := true, history := 0, resets := sat32 (frerOf s stream).resets } s).raise 4
        5))
    ∧ (∀ (m p : Nat) (v : Word) (s : State), MayWrite s m 4 (.bit p) = true → portFitted s.tier p = true → swcPortForm
        v = true → exec (.linkdownFlushWrite m p v) s = .next (if linkDownRefuses (s.wr (swcPort p 0) v) p then
        flushPort p (s.wr (swcPort p 0) v) else s.wr (swcPort p 0) v))

/-- Each register, compare, metadata and branch instruction of Addan changes its context as R183 and R184 give it, and
  nothing else (R172, R178, R181, R182, R183, R184, R194). -/
def Obligations.AddanRegisterInstructions : Prop :=
    (∀ (c : Nat) (i : Addan) (f : Frame) (r : Run) (s : State), AddanReady c 1 i f r s = true → exec (.addG c) s =
        .next (AddanStep c (r.setReg i.d (r.reg i.a + i.x r)) s))
    ∧ (∀ (c : Nat) (i : Addan) (f : Frame) (r : Run) (s : State), AddanReady c 2 i f r s = true → exec (.subG c) s =
        .next (AddanStep c (r.setReg i.d (r.reg i.a - i.x r)) s))
    ∧ (∀ (c : Nat) (i : Addan) (f : Frame) (r : Run) (s : State), AddanReady c 3 i f r s = true → exec (.andG c) s =
        .next (AddanStep c (r.setReg i.d (r.reg i.a &&& i.x r)) s))
    ∧ (∀ (c : Nat) (i : Addan) (f : Frame) (r : Run) (s : State), AddanReady c 4 i f r s = true → exec (.orG c) s =
        .next (AddanStep c (r.setReg i.d (r.reg i.a ||| i.x r)) s))
    ∧ (∀ (c : Nat) (i : Addan) (f : Frame) (r : Run) (s : State), AddanReady c 5 i f r s = true → exec (.xorG c) s =
        .next (AddanStep c (r.setReg i.d (r.reg i.a ^^^ i.x r)) s))
    ∧ (∀ (c : Nat) (i : Addan) (f : Frame) (r : Run) (s : State), AddanReady c 6 i f r s = true → exec (.shlG c) s =
        .next (AddanStep c (r.setReg i.d (r.reg i.a <<< fld (i.x r) 4 0)) s))
    ∧ (∀ (c : Nat) (i : Addan) (f : Frame) (r : Run) (s : State), AddanReady c 7 i f r s = true → exec (.shrG c) s =
        .next (AddanStep c (r.setReg i.d (r.reg i.a >>> fld (i.x r) 4 0)) s))
    ∧ (∀ (c : Nat) (i : Addan) (f : Frame) (r : Run) (s : State), AddanReady c 8 i f r s = true → exec (.movi c) s =
        .next (AddanStep c (r.setReg i.d (BitVec.ofNat 32 i.imm)) s))
    ∧ (∀ (c : Nat) (i : Addan) (f : Frame) (r : Run) (s : State), AddanReady c 9 i f r s = true → exec (.movhi c) s =
        .next (AddanStep c (r.setReg i.d (BitVec.ofNat 32 (i.imm * 65536 + fld (r.reg i.d) 15 0))) s))
    ∧ (∀ (c : Nat) (i : Addan) (f : Frame) (r : Run) (s : State), AddanReady c 10 i f r s = true → exec (.extG c) s =
        .next (AddanStep c (r.setReg i.d (BitVec.ofNat 32 (((r.reg i.a).toNat >>> (i.imm % 32)) % 2 ^ (i.imm / 32 % 32
        + 1)))) s))
    ∧ (∀ (c : Nat) (i : Addan) (f : Frame) (r : Run) (s : State), AddanReady c 11 i f r s = true → exec (.cmpG c) s =
        .next (AddanStep c { r with z := r.reg i.a == i.x r, c := decide ((r.reg i.a).toNat < (i.x r).toNat) } s))
    ∧ (∀ (c : Nat) (i : Addan) (f : Frame) (r : Run) (s : State), AddanReady c 13 i f r s = true → exec (.adv c) s =
        .next (AddanStep c { r with cursor := min 0xFFFF (r.cursor + (i.x r).toNat) } s))
    ∧ (∀ (c : Nat) (i : Addan) (f : Frame) (r : Run) (s : State), AddanReady c 14 i f r s = true → exec (.ldm c) s =
        .next (AddanStep c (r.setReg i.d (metaField f r c i.imm)) s))
    ∧ (∀ (c : Nat) (i : Addan) (f : Frame) (r : Run) (s : State), AddanReady c 15 i f r s = true → exec (.stm c) s =
        .next (AddanStep c { r with cursor := min 0xFFFF (r.reg i.a).toNat } s))
    ∧ (∀ (c : Nat) (i : Addan) (f : Frame) (r : Run) (s : State), AddanReady c 16 i f r s = true → exec (.putk c) s =
        .next (AddanStep c { r with kb := lset r.kb i.imm (r.reg i.a) } s))
    ∧ (∀ (c : Nat) (i : Addan) (f : Frame) (r : Run) (s : State), AddanReady c 24 i f r s = true → exec (.brG c) s =
        .next (prsSetRun c
        { r with pc := if branchTaken r i.d i.a then i.imm else (r.pc + 1) % 8192, icount := r.icount + 1 } (engCount
        c 4 s)))

/-- The model's choices: a lookup is evaluated where its instruction issues, and which of a context's scans ends first
  (log entry 32); a free unit is given to a waiting scan once the cycle of its issue is over (log entry 73). (R179,
  R185, R186, R187, R188, R189, R190, R191, R193, R226). -/
def Obligations.AddanFrameLookupAndRecordInstructions : Prop :=
    (∀ (c : Nat) (i : Addan) (f : Frame) (r : Run) (s : State), AddanReady c 12 i f r s = true → (loadWindow f
        (r.cursor + (i.x r).toNat) (2 ^ i.a)).2 = false → exec (.ldG c) s = .next (AddanStep c (r.setReg i.d
        (loadWindow f (r.cursor + (i.x r).toNat) (2 ^ i.a)).1) s))
    ∧ (∀ (c : Nat) (i : Addan) (f : Frame) (r : Run) (s : State), AddanReady c 12 i f r s = true → (loadWindow f
        (r.cursor + (i.x r).toNat) (2 ^ i.a)).2 = true → exec (.ldG c) s = .next (prsSetRun c
        ({ r.setReg i.d (loadWindow f (r.cursor + (i.x r).toNat) (2 ^ i.a)).1 with overread := true }).issued
        (engCount c 0x18 (engCount c 4 s))))
    ∧ (∀ (c : Nat) (i : Addan) (f : Frame) (r : Run) (s : State), AddanReady c 17 i f r s = true → exec (.lkf c) s =
        .next (prsSetRun c
        ({ r with lookups := r.lookups + 1, pend := r.pend ++ [Pend.look i.d (lookupFlow r.t.pour r.kb (engCount c 4 s)).1] }).issued
        (lookupFlow r.t.pour r.kb (engCount c 4 s)).2))
    ∧ (∀ (c : Nat) (i : Addan) (f : Frame) (r : Run) (s : State), AddanReady c 18 i f r s = true → exec (.lka c) s =
        .next (prsSetRun c
        ({ r with lookups := r.lookups + 1, pend := r.pend ++ [Pend.look i.d (lookupAcl r.t.pour r.kb (engCount c 4 s)).1] }).issued
        (lookupAcl r.t.pour r.kb (engCount c 4 s)).2))
    ∧ (∀ (c : Nat) (i : Addan) (f : Frame) (r : Run) (s : State), AddanReady c 19 i f r s = true → exec (.scan c) s =
        .next ((settleUnits (fclk s) (AddanStep c
        { r with scans := r.scans + 1, pend := r.pend ++ [Pend.scan i.d r.scans (r.reg i.a).toNat i.imm] } s)).withPrs
        (fun p => if r.t.express then
        { p with waitExpress := queueScan ⟨c, r.scans, scanCycles f (r.reg i.a).toNat, fclk s⟩ p.waitExpress } else
        { p with waitNormal := queueScan ⟨c, r.scans, scanCycles f (r.reg i.a).toNat, fclk s⟩ p.waitNormal })))
    ∧ (∀ (c : Nat) (i : Addan) (f : Frame) (r : Run) (e : VerdictEntry) (s : State), AddanReady c 20 i f r s = true →
        (verdictLoad r.t.pour (fld (i.x r) 30 0) (engCount c 4 s)).1 = some e → exec (.vload c) s = .next (prsSetRun c
        ({ r with words := vload e r.words }).issued (verdictLoad r.t.pour (fld (i.x r) 30 0) (engCount c 4 s)).2))
    ∧ (∀ (c : Nat) (i : Addan) (f : Frame) (r : Run) (s : State), AddanReady c 20 i f r s = true → (verdictLoad
        r.t.pour (fld (i.x r) 30 0) (engCount c 4 s)).1 = none → exec (.vload c) s = .next (prsSetRun c r.issued
        (verdictLoad r.t.pour (fld (i.x r) 30 0) (engCount c 4 s)).2))
    ∧ (∀ (c : Nat) (i : Addan) (f : Frame) (r : Run) (s : State), AddanReady c 21 i f r s = true → exec (.vset c) s =
        .next (AddanStep c { r with words := vset i.d (i.x r) r.words } s))
    ∧ (∀ (c : Nat) (i : Addan) (f : Frame) (r : Run) (s : State), AddanReady c 22 i f r s = true → exec (.cnt c) s =
        .next (prsSetRun c r.issued ((engCount c 4 s).cnt (rg 5 (0x2000 + fld (i.x r) 7 0 * 4)) 1)))
    ∧ (∀ (c : Nat) (i : Addan) (f : Frame) (r : Run) (s : State), AddanReady c 23 i f r s = true → exec (.doneG c) s =
        .next (endRun c (maxPath c (r.icount + 1) (handVerdict c r.t r.words (engCount c 4 s)))))
    ∧ (∀ (c : Nat) (r : Run) (d : Nat) (w : Word) (rest : List Pend) (s : State), s.up = true → (ctxOf s c).run = some
        r → r.pend = Pend.look d w :: rest → exec (.lookupResult c) s = .next (prsSetRun c
        { r.setReg d w with pend := rest } s))
    ∧ (∀ (c : Nat) (x : Scan) (r : Run) (f : Frame) (d start group : Nat) (rest : List Pend) (s u : State), s.up =
        true ∧ u = fillUnits 0 4 s → (ctxOf u c).run = some r → firstEnd (u.prs.units.filter (fun y => y.ctx == c)) =
        some x → findFrame u r.t.frame = some f → r.pend = Pend.scan d x.n start group :: rest → exec (.scanResult c
        none) s = .next (fillUnits x.at_ 4 ((prsSetRun c
        { r.setReg d (scanWord r.t.pour group start f u) with pend := rest } u).withPrs (fun p =>
        { p with units := p.units.erase x }))))
    ∧ (∀ (c tile : Nat) (x : Scan) (r : Run) (f : Frame) (s u : State), s.up = true ∧ u = fillUnits 0 4 s → (ctxOf u
        c).run = some r → firstEnd (u.prs.units.filter (fun y => y.ctx == c)) = some x → findFrame u r.t.frame = some
        f → exec (.scanResult c (some tile)) s = .next (endRun c (dropFrame f (tcwFail f.port f.tiles[tile]? (maxPath
        c r.icount u)))))

/-- The model's choice: the order of the causes of a stop, the watchdog before an illegal form and before a stall (log
  entry 32); which rows the order of contexts holds back (log entry 73). (R173, R174, R176, R187, R193, R194, R195,
  R198). -/
def Obligations.AddanStopsAndFrameTaking : Prop :=
    (∀ (c : Nat) (r : Run) (s : State), s.up = true → (ctxOf s c).run = some r → 512 ≤ r.icount → exec
        (.watchdogStop c) s = .next (finishRun c r (stopRecord r s) ((engCount c 0xC s).raise 5 0)))
    ∧ (∀ (c : Nat) (r : Run) (s : State), s.up = true → (ctxOf s c).run = some r → r.icount < 512 → decodeAddan
        (instrWord s (r.t.bank.getD 0) r.pc) = none → exec (.watchdogStop c) s = .next (finishRun c r (stopRecord r s)
        ((engCount c 0x10 s).raise 5 1)))
    ∧ (∀ (c : Nat) (r : Run) (s : State), s.up = true → (ctxOf s c).run = some r → fld (instrWord s (r.t.bank.getD 0)
        r.pc) 31 26 = 1 → 512 ≤ r.icount → exec (.addG c) s = .next (finishRun c r (stopRecord r s) ((engCount c 0xC
        s).raise 5 0)))
    ∧ (∀ (c : Nat) (i : Addan) (f : Frame) (r : Run) (s : State), s.up = true → (ctxOf s c).run = some r → fld
        (instrWord s (r.t.bank.getD 0) r.pc) 31 26 = 1 ∧ decodeAddan (instrWord s (r.t.bank.getD 0) r.pc) = some i →
        r.icount < 512 → findFrame s r.t.frame = some f → r.stalls i = true → exec (.addG c) s = .next (engCount c 8
        s))
    ∧ (∀ (c : Nat) (i : Addan) (r : Run) (s : State), s.up = true → (ctxOf s c).run = some r → decodeAddan (instrWord
        s (r.t.bank.getD 0) r.pc) = some i → r.icount < 512 ∧ exceeds r i = true ∧ r.overBudget = false ∧ r.stalls i =
        false ∧ operandIllegal r i = false → s.bit (rg 5 8) 1 = false → exec (.expressOver c) s = .next (prsSetRun c
        { r with overBudget := true } ((engCount c 0x14 s).raise 5 2)))
    ∧ (∀ (c : Nat) (i : Addan) (r : Run) (s : State), s.up = true → (ctxOf s c).run = some r → decodeAddan (instrWord
        s (r.t.bank.getD 0) r.pc) = some i → r.icount < 512 ∧ exceeds r i = true ∧ r.overBudget = false ∧ r.stalls i =
        false ∧ operandIllegal r i = false → s.bit (rg 5 8) 1 = true → exec (.expressOver c) s = .next (finishRun c r
        (stopRecord r ((engCount c 0x14 s).raise 5 2)) ((engCount c 0x14 s).raise 5 2)))
    ∧ (∀ (c p b : Nat) (bad : Bool) (f : Nat) (rest : List Nat) (s : State), s.up = true → c < 64 ∧ engineFitted
        s.tier (c / 8) = true → (ctxOf s c).run = none → (frameWaits s 1 = true) ∧ outChosen s c 1 = false → nextPort
        s 1 s.prs.rrExpress = some p ∧ fifoOf s p 1 = f :: rest → activeBank s = some b → exec (.frameTake c bad) s =
        .next (showRul (showBanks (loadRun c ⟨f, bad, (currentPour s).map Prod.fst, (currentPour s).map Prod.snd,
        true, some b, s.f (rg 5 4) 28 16⟩ none ((s.withSwc (fun w =>
        { w with fifo := tput [] w.fifo (p * 2 + 1) rest })).withPrs (fun x => { x with rrExpress := p }))))))
    ∧ (∀ (c p b : Nat) (bad : Bool) (f : Nat) (rest : List Nat) (s : State), s.up = true → c < 64 ∧ engineFitted
        s.tier (c / 8) = true → (ctxOf s c).run = none → (frameWaits s 1 = false ∧ frameWaits s 0 = true ∧ c % 8 ≠ 7)
        ∧ outChosen s c 0 = false → nextPort s 0 s.prs.rrNormal = some p ∧ fifoOf s p 0 = f :: rest → activeBank s =
        some b → exec (.frameTake c bad) s = .next (showRul (showBanks (loadRun c ⟨f, bad, (currentPour s).map
        Prod.fst, (currentPour s).map Prod.snd, false, some b, s.f (rg 5 4) 28 16⟩ none ((s.withSwc (fun w =>
        { w with fifo := tput [] w.fifo (p * 2 + 0) rest })).withPrs (fun x => { x with rrNormal := p }))))))
    ∧ (∀ (c p b : Nat) (bad : Bool) (f : Nat) (r : Run) (rest : List Nat) (s : State), s.up = true → c < 64 ∧
        engineFitted s.tier (c / 8) = true → (ctxOf s c).run = some r ∧ (ctxOf s c).next = none → (frameWaits s 1 =
        false ∧ frameWaits s 0 = true ∧ c % 8 ≠ 7) ∧ outChosen s c 0 = false → nextPort s 0 s.prs.rrNormal = some p ∧
        fifoOf s p 0 = f :: rest → activeBank s = some b → exec (.frameTake c bad) s = .next (showRul (showBanks
        (setCtx c ⟨some r, some ⟨f, bad, (currentPour s).map Prod.fst, (currentPour s).map Prod.snd, false, some b,
        s.f (rg 5 4) 28 16⟩⟩ ((s.withSwc (fun w => { w with fifo := tput [] w.fifo (p * 2 + 0) rest })).withPrs (fun x
        => { x with rrNormal := p }))))))
    ∧ (∀ (c p : Nat) (bad : Bool) (f : Nat) (rest : List Nat) (s : State), s.up = true → c < 64 ∧ engineFitted s.tier
        (c / 8) = true → (ctxOf s c).run = none → (frameWaits s 1 = true) ∧ outChosen s c 1 = false → nextPort s 1
        s.prs.rrExpress = some p ∧ fifoOf s p 1 = f :: rest → activeBank s = none → exec (.frameTake c bad) s = .next
        (handVerdict c ⟨f, bad, (currentPour s).map Prod.fst, (currentPour s).map Prod.snd, true, none, s.f (rg 5 4)
        28 16⟩ recDrop ((State.cnt ((s.withSwc (fun w => { w with fifo := tput [] w.fifo (p * 2 + 1) rest })).withPrs
        (fun x => { x with rrExpress := p })) (rg 5 0xC) 1).raise 5 3)))
    ∧ (∀ (c p : Nat) (bad : Bool) (f : Nat) (rest : List Nat) (s : State), s.up = true → c < 64 ∧ engineFitted s.tier
        (c / 8) = true → (ctxOf s c).run = none → (frameWaits s 1 = false ∧ frameWaits s 0 = true ∧ c % 8 ≠ 7) ∧
        outChosen s c 0 = false → nextPort s 0 s.prs.rrNormal = some p ∧ fifoOf s p 0 = f :: rest → activeBank s =
        none → exec (.frameTake c bad) s = .next (handVerdict c ⟨f, bad, (currentPour s).map Prod.fst, (currentPour
        s).map Prod.snd, false, none, s.f (rg 5 4) 28 16⟩ recDrop ((State.cnt ((s.withSwc (fun w =>
        { w with fifo := tput [] w.fifo (p * 2 + 0) rest })).withPrs (fun x => { x with rrNormal := p })) (rg 5 0xC)
        1).raise 5 3)))
    ∧ (∀ (c d k : Nat) (bad : Bool) (s : State), s.up = true → d < c ∧ takesFrom s d = some k ∧ takesFrom s c = some k
        → exec (.frameTake c bad) s = .next s)

/-- PRS opcodes load, activate and read program banks, store PRS.CFG and return and clear an engine's counters (R64,
  R197, R199, R200, R201, R202). -/
def Obligations.ParseEngineOpcodes : Prop :=
    (∀ (ring slot : Nat) (c : Cmd) (s0 s : State), Admits (specOf opsPrs 0x0500) ring slot c s0 s = true → 1 ≤ c.p
        36 4 ∧ c.p 32 4 + c.p 36 4 ≤ 8192 ∧ c.len = 8 + 4 * c.p 36 4 → activeBank s ≠ some c.inst ∧ bankBusy s c.inst
        = false → exec (.prsProgLoad ring slot) s0 = .next (okReply c [] 0 (putWords (c.inst * 8192 + c.p 32 4)
        ((List.range (c.p 36 4)).map (fun i => c.w (40 + 4 * i))) s)))
    ∧ (∀ (ring slot : Nat) (c : Cmd) (s0 s : State), Admits (specOf opsPrs 0x0501) ring slot c s0 s = true → c.p 32 4
        ≤ 8191 → activeBank s ≠ some c.inst ∧ bankBusy s c.inst = false → bankCrc s c.inst = c.w 36 → exec
        (.prsProgActivate ring slot) s0 = .next (okReply c [] 0 (if (activeBank s).any (fun b => !bankRuns s b) then
        (((s.sb (rg 5 4) 0 true).sf (rg 5 4) 1 1 c.inst).sf (rg 5 4) 28 16 (c.p 32 4)).raise 5 4 else showBanks
        (((s.sb (rg 5 4) 0 true).sf (rg 5 4) 1 1 c.inst).sf (rg 5 4) 28 16 (c.p 32 4)))))
    ∧ (∀ (ring slot : Nat) (c : Cmd) (s0 s : State), Admits (specOf opsPrs 0x0502) ring slot c s0 s = true → 1 ≤ c.p
        36 4 ∧ c.p 32 4 + c.p 36 4 ≤ 8192 → exec (.prsProgRead ring slot) s0 = .next (finish (specOf opsPrs 0x0502) c
        ((List.range (c.p 36 4)).flatMap (fun i => leBytes 4 (instrWord s c.inst (c.p 32 4 + i)).toNat)) 0 s s))
    ∧ (∀ (ring slot : Nat) (c : Cmd) (s0 s : State), Admits (specOf opsPrs 0x0503) ring slot c s0 s = true → c.p 32 4
        < 4 → exec (.prsSetCfg ring slot) s0 = .next (okReply c [] 0 (s.wr (rg 5 8) (c.w 32))))
    ∧ (∀ (ring slot : Nat) (c : Cmd) (s0 s : State), Admits (specOf opsPrs 0x0504) ring slot c s0 s = true → exec
        (.prsCounters ring slot) s0 = .next (okReply c (takeCounters (regRun (rg 5 (0x1000 + c.inst * 0x40)) 8) s).1 0
        (takeCounters (regRun (rg 5 (0x1000 + c.inst * 0x40)) 8) s).2))
    ∧ (∀ (l : List Nat) (s : State), l.Nodup → (takeCounters l s).1 = readRegs l s ∧ (∀ a ∈ l, (takeCounters l s).2.rd
        a = 0) ∧ SameRegs l s (takeCounters l s).2)

/-- Pours are opened, committed into a free slot, abandoned, retired and swept as R208 and R213–R218 give. Details
  that the rules leave open are the model's choice (log entries 33 and 60) (R205, R208, R209, R213, R214, R215, R216,
  R217, R218, R234). -/
def Obligations.PourOpcodes : Prop :=
    (∀ (ring slot : Nat) (c : Cmd) (s0 s : State), Admits (specOf opsRul 0x0600) ring slot c s0 s = true →
        s.rul.staged = none → exec (.rulPourOpen ring slot) s0 = .next (okReply c (leBytes 2 ((s.rul.last.map (fun p
        => (p + 1) % 65536)).getD 1)) 0 (showRul (s.withRul (fun r =>
        { r with staged := some ⟨(s.rul.last.map (fun p => (p + 1) % 65536)).getD 1, c.issuer, [], false⟩ })))))
    ∧ (∀ (ring slot : Nat) (c : Cmd) (s0 s : State) (x : Staging), Admits (specOf opsRul 0x0600) ring slot c s0 s =
        true → s.rul.staged = some x → exec (.rulPourOpen ring slot) s0 = .next (completeFail c ⟨stWrongState, 0x101,
        noOffset, x.pour⟩ s))
    ∧ (∀ (ring slot : Nat) (c : Cmd) (s0 s : State) (x : Staging) (n : Nat), Admits (specOf opsRul 0x0601) ring slot c
        s0 s = true → s.rul.staged = some x ∧ x.committing = false ∧ x.owner = c.issuer → changesWait s = false →
        freeSlot s = some n → exec (.rulPourCommit ring slot) s0 = .next (okReply c (leBytes 2 x.pour ++ leBytes 2 n)
        0 (commitNow x n s)))
    ∧ (∀ (ring slot : Nat) (c : Cmd) (s0 s : State) (x : Staging), Admits (specOf opsRul 0x0601) ring slot c s0 s =
        true → s.rul.staged = some x ∧ x.committing = false ∧ x.owner = c.issuer → changesWait s = false → freeSlot s
        = none → exec (.rulPourCommit ring slot) s0 = .next (markRunning c (closeStaging x s)))
    ∧ (∀ (ring slot : Nat) (c : Cmd) (s0 s : State) (x : Staging), Admits (specOf opsRul 0x0602) ring slot c s0 s =
        true → s.rul.staged = some x → (x.owner = c.issuer ∨ bitOf (s.aclEntry 6 c.issuer).rights 4 = true) →
        changesWait s = false → exec (.rulPourAbandon ring slot) s0 = .next (okReply c (leBytes 4 (ruleEntries s -
        ruleEntries (abandonNow x s))) 0 (abandonNow x s)))
    ∧ (∀ (ring slot : Nat) (c : Cmd) (s0 s : State), Admits (specOf opsRul 0x0603) ring slot c s0 s = true → exec
        (.rulPourStatus ring slot) s0 = .next (okReply c (readRegs (regRun (rg 6 0) 3 ++ regRun (rg 6 0x10) 4) s) 0
        s))
    ∧ (∀ (ring slot : Nat) (c : Cmd) (s0 s : State), Admits (specOf opsRul 0x0610) ring slot c s0 s = true → exec
        (.rulCounters ring slot) s0 = .next (okReply c (takeCounters (regRun (rg 6 0x100) 9) s).1 0 (takeCounters
        (regRun (rg 6 0x100) 9) s).2))
    ∧ (∀ (slot p : Nat) (y : Nat × Nat) (r : List (Nat × Nat)) (s : State), s.up = true → s.rul.live = (slot, p) :: y
        :: r → holders s slot = 0 → exec .pourRetire s = .next (resumeRul ((showRul (s.withRul (fun t =>
        { t with live := y :: r }))).raise 6 1)))
    ∧ (∀ (p : Nat) (s : State), s.up = true → sweepable s = some p → exec .logSweep s = .next (resumeRul (sweepLog p
        s)))

/-- The change opcodes of a staged pour write and delete entries with BIRTH and DEATH marks, and RUL_FLOW_READ returns
  a visible entry. Details that the rules leave open are the model's choice (log entry 33) (R205, R209, R210, R212,
  R219, R220, R221, R222, R223, R225, R229). -/
def Obligations.RuleTableChanges : Prop :=
    (∀ (ring slot : Nat) (c : Cmd) (s0 s : State) (x : Staging) (k w : Nat), Admits (specOf opsRul 0x0604) ring slot
        c s0 s = true → layoutK s (keyLayout (payKey c)) = k ∧ k ≠ 0 ∧ (List.range 10).find? (fun i => decide (k ≤ i)
        && (payKey c).getD i 0 != 0) = none ∧ bitOf (c.w 72) 31 = false → s.rul.staged = some x ∧ x.committing = false
        ∧ x.owner = c.issuer ∧ x.log.length + keptLog s < 16384 → keyWays s (payKey c) (flowBucket (payKey c) k) = []
        → (List.range 4).find? (fun w => (flowWay s (flowBucket (payKey c) k) w).isNone) = some w → exec (.rulFlowAdd
        ring slot) s0 = .next (okReply c (leBytes 4 (flowBucket (payKey c) k) ++ leBytes 1 w ++ [0, 0, 0]) 0 (putFlow
        (flowBucket (payKey c) k) w (some ⟨⟨payKey c, c.w 72⟩, ⟨some x.pour, none⟩⟩) (setLog x (x.log ++ [⟨0,
        flowBucket (payKey c) k * 4 + w, true⟩]) s))))
    ∧ (∀ (ring slot : Nat) (c : Cmd) (s0 s : State) (x : Staging) (k w : Nat) (e : Entry Flow) (t : State), Admits
        (specOf opsRul 0x0605) ring slot c s0 s = true → layoutK s (keyLayout (payKey c)) = k ∧ k ≠ 0 ∧ (List.range
        10).find? (fun i => decide (k ≤ i) && (payKey c).getD i 0 != 0) = none → s.rul.staged = some x ∧ x.committing
        = false ∧ x.owner = c.issuer → ((keyWays s (payKey c) (flowBucket (payKey c) k)).find? (fun e =>
        e.2.marks.birth == some x.pour)).or ((keyWays s (payKey c) (flowBucket (payKey c) k)).find? (fun e =>
        visibleNow s e.2 && e.2.marks.death.isNone)) = some (w, e) → entryDelete c 0 (flowBucket (payKey c) k * 4 + w)
        (flowBucket (payKey c) k) (some e) x s (putFlow (flowBucket (payKey c) k) w) = .done t → exec (.rulFlowDelete
        ring slot) s0 = .next (okReply c [] 0 t))
    ∧ (∀ (ring slot : Nat) (c : Cmd) (s0 s : State) (k w : Nat) (e : Entry Flow), Admits (specOf opsRul 0x0606) ring
        slot c s0 s = true → layoutK s (keyLayout (payKey c)) = k ∧ k ≠ 0 ∧ (List.range 10).find? (fun i => decide (k
        ≤ i) && (payKey c).getD i 0 != 0) = none ∧ c.zero 74 2 = true → (s.rul.live.any (fun e => e.2 == c.p 72 2) ||
        s.rul.staged.any (fun x => x.pour == c.p 72 2)) = true → (keyWays s (payKey c) (flowBucket (payKey c)
        k)).find? (fun e => e.2.marks.visible (c.p 72 2)) = some (w, e) → exec (.rulFlowRead ring slot) s0 = .next
        (okReply c (leBytes 4 e.val.result.toNat ++ leBytes 2 (e.marks.birth.getD 0) ++ leBytes 2 (e.marks.death.getD
        0) ++ leBytes 4 (b2n e.marks.birth.isSome + 2 * b2n e.marks.death.isSome)) 0 s))
    ∧ (∀ (ring slot : Nat) (c : Cmd) (s0 s : State), Admits (specOf opsRul 0x060F) ring slot c s0 s = true → c.zero 34
        2 = true ∧ 1 ≤ c.p 32 1 ∧ c.p 32 1 ≤ 15 ∧ c.p 33 1 ≤ 10 → layoutUsed s (c.p 32 1) = false → exec
        (.rulSetLayout ring slot) s0 = .next (okReply c [] 0 (if c.p 32 1 < 8 then s.sf (rg 6 0x20) (4 * c.p 32 1 + 3)
        (4 * c.p 32 1) (c.p 33 1) else s.sf (rg 6 0x24) (4 * (c.p 32 1 - 8) + 3) (4 * (c.p 32 1 - 8)) (c.p 33 1))))
    ∧ (∀ (ring slot : Nat) (c : Cmd) (s0 s : State) (x : Staging) (t : State), Admits (specOf opsRul 0x0607) ring slot
        c s0 s = true → c.p 32 4 < 8192 ∧ pay320 c 36 &&& pay320 c 76 = pay320 c 36 → s.rul.staged = some x ∧
        x.committing = false ∧ x.owner = c.issuer → indexWrite c 1 (c.p 32 4) (tget none s.rul.acl (c.p 32 4)) ⟨pay320
        c 36, pay320 c 76, c.w 116⟩ x s (fun e => putAcl (c.p 32 4) (some e)) = .done t → exec (.rulAclWrite ring
        slot) s0 = .next (okReply c [] 0 t))
    ∧ (∀ (ring slot : Nat) (c : Cmd) (s0 s : State) (x : Staging) (v : Pattern) (t : State), Admits (specOf opsRul
        0x0609) ring slot c s0 s = true → c.p 32 4 < 4096 ∧ c.p 38 1 ≤ 1 ∧ c.zero 39 1 = true → v = ⟨c.p 36 1, c.p 37
        1, slice c.payload 16 64, c.p 40 8, (c.p 38 1).testBit 0⟩ ∧ patternForm v = true → s.rul.staged = some x ∧
        x.committing = false ∧ x.owner = c.issuer → indexWrite c 2 (c.p 32 4) (tget none s.rul.pats (c.p 32 4)) v x s
        (fun e => putPat (c.p 32 4) (some e)) = .done t → exec (.rulPatternWrite ring slot) s0 = .next (okReply c [] 0
        t))
    ∧ (∀ (ring slot : Nat) (c : Cmd) (s0 s : State) (x : Staging) (ws : List Word) (t : State), Admits (specOf opsRul
        0x060B) ring slot c s0 s = true → c.p 32 4 < 65536 ∧ ws = (List.range 7).map (fun j => c.w (36 + 4 * j)) ∧
        (List.range 7).find? (fun j => ws.getD j 0 &&& recReserved.getD j 0 != 0) = none → ((c.p 60 4).testBit 0 =
        true → fld (ws.getD 0 0) 3 0 ≤ 4) → ((c.p 60 4).testBit 6 = true → bitOf (ws.getD 3 0) 12 = true → 1 ≤ fld
        (ws.getD 3 0) 11 0 ∧ fld (ws.getD 3 0) 11 0 ≤ 4094) → ((c.p 60 4).testBit 1 = true → unfittedOf s (fld
        (ws.getD 0 0) 28 8) = none) → ((c.p 60 4).testBit 3 = true → unfittedOf s (fld (ws.getD 1 0) 20 0) = none) →
        s.rul.staged = some x ∧ x.committing = false ∧ x.owner = c.issuer → indexWrite c 3 (c.p 32 4) (tget none
        s.rul.verdicts (c.p 32 4)) ⟨ws.take 6, c.p 60 4⟩ x s (fun e => putVerdict (c.p 32 4) (some e)) = .done t →
        exec (.rulVerdictWrite ring slot) s0 = .next (okReply c [] 0 t))
    ∧ (∀ (ring slot : Nat) (c : Cmd) (s0 s : State) (x : Staging) (t : State), Admits (specOf opsRul 0x060D) ring slot
        c s0 s = true → c.p 32 4 < 8192 ∧ rewriteForm (slice c.payload 4 16) = true → s.rul.staged = some x ∧
        x.committing = false ∧ x.owner = c.issuer → indexWrite c 4 (c.p 32 4) (tget none s.rul.rewrites (c.p 32 4))
        (slice c.payload 4 16) x s (fun e => putRewrite (c.p 32 4) (some e)) = .done t → exec (.rulRewriteWrite ring
        slot) s0 = .next (okReply c [] 0 t))
    ∧ (∀ (ring slot : Nat) (c : Cmd) (s0 s : State) (x : Staging) (t : State), Admits (specOf opsRul 0x0608) ring slot
        c s0 s = true → c.p 32 4 < 8192 → s.rul.staged = some x ∧ x.committing = false ∧ x.owner = c.issuer →
        entryDelete c 1 (c.p 32 4) (c.p 32 4) (tget none s.rul.acl (c.p 32 4)) x s (putAcl (c.p 32 4)) = .done t →
        exec (.rulAclDelete ring slot) s0 = .next (okReply c [] 0 t))
    ∧ (∀ (ring slot : Nat) (c : Cmd) (s0 s : State) (x : Staging) (t : State), Admits (specOf opsRul 0x060A) ring slot
        c s0 s = true → c.p 32 4 < 4096 → s.rul.staged = some x ∧ x.committing = false ∧ x.owner = c.issuer →
        entryDelete c 2 (c.p 32 4) (c.p 32 4) (tget none s.rul.pats (c.p 32 4)) x s (putPat (c.p 32 4)) = .done t →
        exec (.rulPatternDelete ring slot) s0 = .next (okReply c [] 0 t))
    ∧ (∀ (ring slot : Nat) (c : Cmd) (s0 s : State) (x : Staging) (t : State), Admits (specOf opsRul 0x060C) ring slot
        c s0 s = true → c.p 32 4 < 65536 → s.rul.staged = some x ∧ x.committing = false ∧ x.owner = c.issuer →
        entryDelete c 3 (c.p 32 4) (c.p 32 4) (tget none s.rul.verdicts (c.p 32 4)) x s (putVerdict (c.p 32 4)) =
        .done t → exec (.rulVerdictDelete ring slot) s0 = .next (okReply c [] 0 t))
    ∧ (∀ (ring slot : Nat) (c : Cmd) (s0 s : State) (x : Staging) (t : State), Admits (specOf opsRul 0x060E) ring slot
        c s0 s = true → c.p 32 4 < 8192 → s.rul.staged = some x ∧ x.committing = false ∧ x.owner = c.issuer →
        entryDelete c 4 (c.p 32 4) (c.p 32 4) (tget none s.rul.rewrites (c.p 32 4)) x s (putRewrite (c.p 32 4)) =
        .done t → exec (.rulRewriteDelete ring slot) s0 = .next (okReply c [] 0 t))

/-- What a change of a staged pour does to an entry: new entries are born in it, its own are replaced or removed,
  visible ones get a DEATH mark (R205, R210, R212). -/
def Obligations.StagedChangesMarkEntries : Prop :=
    (∀ (α : Type) (c : Cmd) (table i : Nat) (v : α) (x : Staging) (s : State) (put : Entry α → State → State),
        x.log.length + keptLog s < 16384 → indexWrite c table i none v x s put = .done (put ⟨v, ⟨some x.pour, none⟩⟩
        (setLog x (x.log ++ [⟨table, i, true⟩]) s)))
    ∧ (∀ (α : Type) (c : Cmd) (table i : Nat) (v : α) (e : Entry α) (x : Staging) (s : State) (put : Entry α → State →
        State), e.marks.birth = some x.pour → indexWrite c table i (some e) v x s put = .done (put ⟨v, e.marks⟩ s))
    ∧ (∀ (α : Type) (c : Cmd) (table i d : Nat) (v : α) (e : Entry α) (x : Staging) (s : State) (put : Entry α → State
        → State), e.marks.birth ≠ some x.pour ∧ e.marks.death = some d ∧ d ≠ x.pour → c.running = false ∧ x.log.length
        + keptLog s < 16384 → indexWrite c table i (some e) v x s put = .wait (markRunning { c with kept := 16 } s))
    ∧ (∀ (α : Type) (c : Cmd) (table key name : Nat) (e : Entry α) (x : Staging) (s : State) (put : Option (Entry α) →
        State → State), e.marks.birth = some x.pour → entryDelete c table key name (some e) x s put = .done (put none
        (setLog x (x.log.erase ⟨table, key, true⟩) s)))
    ∧ (∀ (α : Type) (c : Cmd) (table key name : Nat) (e : Entry α) (x : Staging) (s : State) (put : Option (Entry α) →
        State → State), e.marks.birth ≠ some x.pour → visibleNow s e = true ∧ e.marks.death = none → x.log.length +
        keptLog s < 16384 → entryDelete c table key name (some e) x s put = .done (put (some ⟨e.val, ⟨e.marks.birth,
        some x.pour⟩⟩) (setLog x (x.log ++ [⟨table, key, false⟩]) s)))

/-- The TMG opcodes store ports, course banks, switches, queues, groups, policers and stream gates, and return their
  counters. Details that the rules leave open are the model's choice (log entries 57 and 59) (R240, R242, R248, R249,
  R250, R253, R256, R259, R260, R263, R264). -/
def Obligations.TrafficManagerOpcodes : Prop :=
    (∀ (ring slot : Nat) (c : Cmd) (s0 s : State), Admits (specOf opsTmg 0x0700) ring slot c s0 s = true → fld (c.w
        32) 15 15 = 0 ∧ fld (c.w 32) 31 24 = 0 ∧ tmgPortForm c.inst (c.w 32) = true ∧ c.p 36 4 ≤ 1000000 → exec
        (.tmgSetPort ring slot) s0 = .next (okReply c [] 0 (setTmgPort c.inst (c.w 32) (s.wr (tmgPort c.inst 4) (c.w
        36)))))
    ∧ (∀ (ring slot : Nat) (c : Cmd) (s0 s : State), Admits (specOf opsTmg 0x0701) ring slot c s0 s = true → c.p 32 1
        ≤ 1 ∧ c.zero 33 3 = true ∧ c.len = 8 + 8 * c.p 36 4 → badEntry (fun e => fld e.1 31 10 == 0 && fld e.1 9 8 !=
        3) (payEntries c 40 (c.p 36 4)) = none → 1000 ≤ ((payEntries c 40 (c.p 36 4)).map (fun e => e.2.toNat)).sum ∧
        ((payEntries c 40 (c.p 36 4)).map (fun e => e.2.toNat)).sum ≤ 1000000000 → (inForce s c.inst).map InForce.bank
        ≠ some (c.p 32 1) ∧ (pendingSwitch s c.inst).bind Switch.bank ≠ some (c.p 32 1) → exec (.tmgCoursesLoad ring
        slot) s0 = .next (okReply c [] 0 (s.withTmg (fun t =>
        { t with banks := tput [] t.banks (c.inst * 2 + c.p 32 1) ((payEntries c 40 (c.p 36 4)).map (fun e => ⟨fld e.1 7 0, fld e.1 9 8, e.2.toNat⟩)) }))))
    ∧ (∀ (ring slot : Nat) (c : Cmd) (s0 s : State) (t : Nat), Admits (specOf opsTmg 0x0702) ring slot c s0 s = true →
        c.p 32 1 < 4 ∧ c.zero 33 3 = true ∧ c.timeForm 36 = true ∧ c.timeNs 36 < 1000000000 → pendingSwitch s c.inst =
        none → ((c.p 32 1).testBit 1 = true ∨ bankOf s c.inst (c.p 32 1 % 2) ≠ []) → (t = if (c.p 32 1).testBit 1 then
        (max (c.time 36) s.now) else (firstInstant (c.time 36) (cycleOf (bankOf s c.inst (c.p 32 1 % 2))) s.nowUp)) →
        exec (.tmgGateSwitch ring slot) s0 = .next (okReply c (timeBytes t) 0 (showLists c.inst (holdBit s c.inst)
        (s.withTmg (fun x =>
        { x with switch := tput none x.switch c.inst (some ⟨if (c.p 32 1).testBit 1 then none else some (c.p 32 1 % 2), t⟩) })))))
    ∧ (∀ (ring slot : Nat) (c : Cmd) (s0 s : State), Admits (specOf opsTmg 0x0703) ring slot c s0 s = true → exec
        (.tmgGateStatus ring slot) s0 = .next (okReply c (leBytes 4 (s.rd (tmgPort c.inst 8)).toNat ++ leBytes 4 (s.rd
        (tmgPort c.inst 0xC)).toNat ++ leBytes 4 ((inForce s c.inst).elim 0 (fun f => cycleOf (bankOf s c.inst
        f.bank))) ++ (pendingSwitch s c.inst).elim (List.replicate 12 0) (fun w => timeBytes w.at_)) 0 s))
    ∧ (∀ (ring slot : Nat) (c : Cmd) (s0 s : State), Admits (specOf opsTmg 0x0704) ring slot c s0 s = true → fld (c.w
        32) 31 7 = 0 ∧ rateOk (c.p 36 4) = true ∧ burstOk (c.p 40 4) = true ∧ quantumOk (c.p 44 4) = true →
        queueCfgBad s c.inst (c.w 32) = none → exec (.tmgSetQueue ring slot) s0 = .next (okReply c [] 0 (setShaper
        c.inst (c.w 32) (c.w 36) (c.w 40) (s.wr (tmgQueue c.inst 0xC) (c.w 44)))))
    ∧ (∀ (ring slot : Nat) (c : Cmd) (s0 s : State), Admits (specOf opsTmg 0x0705) ring slot c s0 s = true → c.p 32 1
        ≤ 31 ∧ c.p 33 1 ≤ 20 ∧ c.p 34 1 ≤ 1 ∧ c.zero 35 1 = true → rateOk (c.p 36 4) = true ∧ burstOk (c.p 40 4) =
        true ∧ rateOk (c.p 44 4) = true ∧ burstOk (c.p 48 4) = true ∧ c.p 36 4 ≤ c.p 44 4 → portFitted s.tier (c.p 33
        1) = true ∧ (s.aclEntry 7 c.issuer).mask.getLsbD (c.p 33 1) = true → (s.f (tmgGroup (c.p 32 1) 0) 12 8 = c.p
        33 1 ∨ groupMembers s (c.p 32 1) = false) → exec (.tmgSetGroup ring slot) s0 = .next (okReply c [] 0 (setGroup
        (c.p 32 1) (BitVec.ofNat 32 (c.p 34 1 + c.p 33 1 * 256)) (c.w 36) (c.w 40) (c.w 44) (c.w 48) s)))
    ∧ (∀ (ring slot : Nat) (c : Cmd) (s0 s : State), Admits (specOf opsTmg 0x0706) ring slot c s0 s = true → c.p 32 2
        ≤ 4095 ∧ c.zero 34 2 = true ∧ fld (c.w 36) 31 10 = 0 ∧ fld (c.w 36) 8 7 ≠ 3 → rateOk (c.p 40 4) = true ∧
        burstOk (c.p 44 4) = true ∧ rateOk (c.p 48 4) = true ∧ burstOk (c.p 52 4) = true ∧ c.p 40 4 ≤ c.p 48 4 → exec
        (.tmgSetPolicer ring slot) s0 = .next (okReply c [] 0 (setPolicer (c.p 32 2)
        { policer s (c.p 32 2) with cfg := c.w 36, cir := c.p 40 4, cbs := c.p 44 4, pir := c.p 48 4, pbs := c.p 52 4, maxSdu := c.p 56 4, blocked := false, ctok := c.p 44 4 * 65536, ptok := c.p 52 4 * 65536 }
        s)))
    ∧ (∀ (ring slot : Nat) (c : Cmd) (s0 s : State), Admits (specOf opsTmg 0x0707) ring slot c s0 s = true → c.p 32 2
        ≤ 4095 ∧ c.zero 34 2 = true → exec (.tmgPolicerCounters ring slot) s0 = .next (okReply c ([(policer s (c.p 32
        2)).green, (policer s (c.p 32 2)).yellow, (policer s (c.p 32 2)).red, (policer s (c.p 32 2)).gateClosed,
        (policer s (c.p 32 2)).oversize, b2n (policer s (c.p 32 2)).blocked].flatMap (leBytes 4)) 0 (setPolicer (c.p
        32 2) { policer s (c.p 32 2) with green := 0, yellow := 0, red := 0, gateClosed := 0, oversize := 0 } s)))
    ∧ (∀ (ring slot : Nat) (c : Cmd) (s0 s : State), Admits (specOf opsTmg 0x0708) ring slot c s0 s = true → c.p 32 1
        ≤ 1 ∧ c.zero 33 3 = true ∧ c.timeForm 36 = true ∧ c.timeNs 36 < 1000000000 ∧ c.len = 20 + 8 * c.p 48 4 →
        badEntry (fun e => fld e.1 31 5 == 0) (payEntries c 52 (c.p 48 4)) = none → 1000 ≤ ((payEntries c 52 (c.p 48
        4)).map (fun e => e.2.toNat)).sum ∧ ((payEntries c 52 (c.p 48 4)).map (fun e => e.2.toNat)).sum ≤ 1000000000 →
        (tget StreamGate.zero s.tmg.gates c.inst).en = false → exec (.tmgSetStreamGate ring slot) s0 = .next (okReply
        c [] 0 (s.withTmg (fun t =>
        { t with gates := tput StreamGate.zero t.gates c.inst ⟨(c.p 32 1).testBit 0, c.time 36, firstInstant (c.time 36) ((payEntries c 52 (c.p 48 4)).map (fun e => e.2.toNat)).sum s.nowUp, (payEntries c 52 (c.p 48 4)).map (fun e => ⟨e.1, e.2.toNat⟩)⟩ }))))
    ∧ (∀ (ring slot : Nat) (c : Cmd) (s0 s : State), Admits (specOf opsTmg 0x0708) ring slot c s0 s = true → c.p 32 1
        = 0 ∧ c.zero 33 3 = true ∧ c.timeForm 36 = true ∧ c.timeNs 36 < 1000000000 ∧ c.len = 20 + 8 * c.p 48 4 →
        badEntry (fun e => fld e.1 31 5 == 0) (payEntries c 52 (c.p 48 4)) = none → 1000 ≤ ((payEntries c 52 (c.p 48
        4)).map (fun e => e.2.toNat)).sum ∧ ((payEntries c 52 (c.p 48 4)).map (fun e => e.2.toNat)).sum ≤ 1000000000 →
        (tget StreamGate.zero s.tmg.gates c.inst).en = true → exec (.tmgSetStreamGate ring slot) s0 = .next (okReply c
        [] 0 (s.withTmg (fun t =>
        { t with gates := tput StreamGate.zero t.gates c.inst { tget StreamGate.zero s.tmg.gates c.inst with en := false } }))))
    ∧ (∀ (ring slot : Nat) (c : Cmd) (s0 s : State), Admits (specOf opsTmg 0x0709) ring slot c s0 s = true → fld (c.w
        32) 31 11 = 0 ∧ 1 ≤ fld (c.w 32) 10 1 ∧ fld (c.w 32) 10 1 ≤ 1000 → exec (.tmgSetLatency ring slot) s0 = .next
        (okReply c [] 0 (s.wr (rg 7 0) (c.w 32))))
    ∧ (∀ (ring slot : Nat) (c : Cmd) (s0 s : State), Admits (specOf opsTmg 0x070A) ring slot c s0 s = true → exec
        (.tmgLatRead ring slot) s0 = .next (okReply c (takeCounters (regRun (latReg c.inst 0) 18) s).1 0 (takeCounters
        (regRun (latReg c.inst 0) 18) s).2))
    ∧ (∀ (ring slot : Nat) (c : Cmd) (s0 s : State), Admits (specOf opsTmg 0x070B) ring slot c s0 s = true → exec
        (.tmgPortCounters ring slot) s0 = .next (okReply c (readRegs (regRun (tmgPort c.inst 0x20) 5) s) 0 s))

/-- The model's choices: where a copy can be cut (log entry 58), and at which rows it is (log entry 34). (R239, R240,
  R242, R246, R247, R253, R260, R261). -/
def Obligations.TrafficManagerEvents : Prop :=
    (∀ (p : Nat) (f : InForce) (s : State), s.up = true → inForce s p = some f → f.ends ≤ s.now → exec
        (.courseBoundary p) s = .next (preempt p (beginCourse p ((f.idx + 1) % max 1 (bankOf s p f.bank).length)
        (f.ends + (((bankOf s p f.bank)[(f.idx + 1) % max 1 (bankOf s p f.bank).length]?).map Course.dur).getD 0) s)))
    ∧ (∀ (p : Nat) (w : Switch) (s : State), s.up = true → pendingSwitch s p = some w → w.at_ ≤ s.now → exec
        (.listSwitched p) s = .next (preempt p (purgePort p (applySwitch p w s))))
    ∧ (∀ (p : Nat) (s : State), s.up = true → s.f (tmgPort p 8) 19 17 = 2 → exec (.verifyTimer p true) s = .next
        (showPreempt p (s.sf (tmgPort p 8) 19 17 3)))
    ∧ (∀ (p : Nat) (s : State), s.up = true → s.f (tmgPort p 8) 19 17 = 2 → tget 0 s.tmg.verifyTries p < 2 → exec
        (.verifyTimer p false) s = .next (s.withTmg (fun t =>
        { t with verifyTries := tput 0 t.verifyTries p (tget 0 s.tmg.verifyTries p + 1) })))
    ∧ (∀ (p : Nat) (s : State), s.up = true → s.f (tmgPort p 8) 19 17 = 2 → tget 0 s.tmg.verifyTries p = 2 → exec
        (.verifyTimer p false) s = .next (((showPreempt p (s.sf (tmgPort p 8) 19 17 4)).cnt (tmgPort p 0x2C) 1).raise
        7 2))
    ∧ (∀ (s : State), s.up = true → s.bit (rg 7 0) 0 = true → exec .latencySample s = .next ((fittedPorts s).foldl
        (fun s p => (List.range 8).foldl (fun s t => sampleQueue (p * 8 + t) s) s) s))
    ∧ (∀ (p : Nat) (bad : Option Nat) (s t : State), s.up = true → portFitted s.tier p = true ∧ portUp s p = true → t
        = cutNow p (preempt p (purgePort p s)) → tget none t.swc.tx p = none ∧ tget none t.swc.cut p = none →
        (judgeQueue (p * 8 + 7) t).1 = true → exec (.transmitSelect p bad) s = .next (startCopy p (p * 8 + 7) bad
        (judgeQueue (p * 8 + 7) t).2))
    ∧ (∀ (p : Nat) (bad : Option Nat) (x : Copy) (s t : State), s.up = true → portFitted s.tier p = true ∧ portUp s p
        = true → t = cutNow p (preempt p (purgePort p s)) → tget none t.swc.tx p = none ∧ tget none t.swc.cut p = some
        x → (judgeQueue (p * 8 + 7) t).1 = false → (holdBit t p && preemptActive t p) = false → exec (.transmitSelect
        p bad) s = .next (setTx p (some { x with began := fclk t }) ((judgeQueue (p * 8 + 7) t).2.withSwc (fun w =>
        { w with cut := tput none w.cut p none }))))
    ∧ (∀ (p : Nat) (bad : Option Nat) (q : Nat) (s t : State), s.up = true → portFitted s.tier p = true ∧ portUp s p =
        true → t = cutNow p (preempt p (purgePort p s)) → tget none t.swc.tx p = none ∧ tget none t.swc.cut p = none →
        (choose p t).1 = some q → exec (.transmitSelect p bad) s = .next (startCopy p q bad (choose p t).2))
    ∧ (∀ (p : Nat) (bad : Option Nat) (s t : State), s.up = true → portFitted s.tier p = true ∧ portUp s p = true → t
        = cutNow p (preempt p (purgePort p s)) → tget none t.swc.tx p = none ∧ tget none t.swc.cut p = none → (choose
        p t).1 = none → exec (.transmitSelect p bad) s = .next (choose p t).2)
    ∧ (∀ (p : Nat) (bad : Option Nat) (x : Copy) (s t : State), s.up = true → portFitted s.tier p = true ∧ portUp s p
        = true → t = cutNow p (preempt p (purgePort p s)) → tget none t.swc.tx p = none ∧ tget none t.swc.cut p = some
        x → (judgeQueue (p * 8 + 7) t).1 = false → (holdBit t p && preemptActive t p) = true → exec (.transmitSelect p
        bad) s = .next (judgeQueue (p * 8 + 7) t).2)
    ∧ (∀ (p : Nat) (bad : Option Nat) (x : Copy) (s t : State), s.up = true → portFitted s.tier p = true ∧ portUp s p
        = true → t = cutNow p (preempt p (purgePort p s)) → tget none t.swc.tx p = some x → exec (.transmitSelect p
        bad) s = .next t)
    ∧ (∀ (p : Nat) (bad : Option Nat) (s : State), s.up = true → (portFitted s.tier p = false ∨ portUp s p = false) →
        exec (.transmitSelect p bad) s = .next s)

/-- The ETH opcodes configure ports, PHYs, TC10, PLCA, PoDL and MACsec SAs, save and clear retained records, and
  return status and counters. Details that the rules leave open are the model's choice (log entry 35) (R276, R277,
  R281, R283, R284, R289, R290, R293, R298, R299). -/
def Obligations.EthernetOpcodes : Prop :=
    (∀ (ring slot : Nat) (c : Cmd) (s0 s : State), Admits (specOf opsEth 0x0800) ring slot c s0 s = true → fld (c.w
        32) 31 9 = 0 ∧ modeOk c.inst (fld (c.w 32) 3 0) = true ∧ (bitOf (c.w 32) 7 && (c.inst == 4 || c.inst == 5)) =
        false → c.w 36 &&& 0xC000C000#32 = 0 ∧ maxOk (c.w 36) = true ∧ c.inst < 14 ∧ fld (c.w 40) 31 9 = 0 ∧ fld (c.w
        40) 5 4 ≠ 3 → s.bit (ethPort c.inst 0) 0 = false → exec (.ethSetPort ring slot) s0 = .next (okReply c [] 0
        ((((((s.wr (ethPort c.inst 4) (c.w 32)).wr (ethPort c.inst 8) (c.w 36)).wr (ethPort c.inst 0x1C) (c.w 40)).wr
        (ethPort c.inst 0x20) (c.w 44)).wr (ethPort c.inst 0x24) (c.w 48)).wr (ethPort c.inst 0x28) (c.w 52))))
    ∧ (∀ (ring slot : Nat) (c : Cmd) (s0 s : State), Admits (specOf opsEth 0x0800) ring slot c s0 s = true → fld (c.w
        32) 31 9 = 0 ∧ modeOk c.inst (fld (c.w 32) 3 0) = true → c.w 36 &&& 0xC000C000#32 = 0 ∧ maxOk (c.w 36) = true
        ∧ 14 ≤ c.inst ∧ c.w 40 = 0 ∧ c.p 44 4 = 0 ∧ c.p 48 8 = 0 → s.bit (ethPort c.inst 0) 0 = false → exec
        (.ethSetPort ring slot) s0 = .next (okReply c [] 0 ((s.wr (ethPort c.inst 4) (c.w 32)).wr (ethPort c.inst 8)
        (c.w 36))))
    ∧ (∀ (ring slot : Nat) (c : Cmd) (s0 s : State), Admits (specOf opsEth 0x0801) ring slot c s0 s = true → c.p 32 4
        < 4 → exec (.ethPortEnable ring slot) s0 = .next (okReply c [] 0 (setPortCtrl c.inst (c.w 32) s)))
    ∧ (∀ (ring slot : Nat) (c : Cmd) (s0 s : State), Admits (specOf opsEth 0x0802) ring slot c s0 s = true → exec
        (.ethLinkStatus ring slot) s0 = .next (okReply c (readRegs [ethPort c.inst 0xC] s ++ (if 14 ≤ c.inst then
        readRegs [ethPort c.inst 0x18] s else [0, 0, 0, 0])) 0 s))
    ∧ (∀ (ring slot : Nat) (c : Cmd) (s0 s : State), Admits (specOf opsEth 0x0803) ring slot c s0 s = true → c.inst ≠
        4 ∧ c.inst ≠ 5 ∧ s.bit (ethPort c.inst 4) 7 = true → c.p 32 4 = 1 ∧ linkUp s c.inst = true → exec (.ethTc10
        ring slot) s0 = .next (okReply c [] 0 (setSleeping c.inst true s)))
    ∧ (∀ (ring slot : Nat) (c : Cmd) (s0 s : State), Admits (specOf opsEth 0x0803) ring slot c s0 s = true → c.inst ≠
        4 ∧ c.inst ≠ 5 ∧ s.bit (ethPort c.inst 4) 7 = true → c.p 32 4 = 2 ∧ phyState s c.inst = 4 → exec (.ethTc10
        ring slot) s0 = .next (okReply c [] 0 (podlWake c.inst (startPhy c.inst s))))
    ∧ (∀ (ring slot : Nat) (c : Cmd) (s0 s : State), Admits (specOf opsEth 0x0804) ring slot c s0 s = true → exec
        (.ethRtSave ring slot) s0 = .next (okReply c (leBytes 4 ((List.range 14).filter (fun p => decide (tget none
        s.eth.rt p ≠ tget none s.eth.rtFlash p))).length) 0 (s.withEth (fun e => { e with rtFlash := e.rt }))))
    ∧ (∀ (ring slot : Nat) (c : Cmd) (s0 s : State), Admits (specOf opsEth 0x0805) ring slot c s0 s = true → c.inst ≠
        4 ∧ c.inst ≠ 5 → exec (.ethRtClear ring slot) s0 = .next (okReply c [] 0 (s.withEth (fun e =>
        { e with rt := terase e.rt c.inst, rtFlash := terase e.rtFlash c.inst }))))
    ∧ (∀ (ring slot : Nat) (c : Cmd) (s0 s : State), Admits (specOf opsEth 0x0806) ring slot c s0 s = true → fld (c.w
        32) 31 25 = 0 ∧ plcaOk (c.w 32) = true → s.bit (ethPort c.inst 0) 0 = false → exec (.ethPlcaCfg ring slot) s0
        = .next (okReply c [] 0 (s.wr (ethPort c.inst 0x10) (c.w 32))))
    ∧ (∀ (ring slot : Nat) (c : Cmd) (s0 s : State), Admits (specOf opsEth 0x0807) ring slot c s0 s = true → fld (c.w
        32) 31 13 = 0 → exec (.ethPodl ring slot) s0 = .next (okReply c [] 0 (setPodlCfg c.inst (c.w 32) s)))
    ∧ (∀ (ring slot : Nat) (c : Cmd) (s0 s : State), Admits (specOf opsEth 0x0808) ring slot c s0 s = true → (c.p 32 1
        ≤ 1 ∧ c.p 33 1 ≤ 7 ∧ (c.p 32 1 = 0 → c.p 33 1 = 0) ∧ c.p 34 1 ≤ 3 ∧ c.zero 35 1 = true ∧ c.zero 38 2 = true) →
        c.p 40 8 ≠ 0 ∧ c.p 40 8 ≤ pnMax s c.inst → c.p 36 2 ≤ 1023 ∧ (s.aclEntry 12 c.issuer).mask.getLsbD (keyMaskBit
        (c.p 36 2)) = true → saInUse s c.inst (c.p 32 1 == 1) (c.p 34 1) = false ∧ (keySlot s (c.p 36 2)).st = 1 ∧
        (keySlot s (c.p 36 2)).usage.testBit 5 = true → exec (.ethSaInstall ring slot) s0 = .next (okReply c [] 0 (if
        c.p 32 1 = 1 then setRxSa c.inst (c.p 33 1 * 4 + c.p 34 1) (some ⟨c.p 36 2, c.p 40 8, c.p 40 8, c.p 48 4,
        slice c.payload 20 12, c.p 64 8, false, false⟩) s else setTxSa c.inst (c.p 34 1) (some ⟨c.p 36 2, c.p 40 8,
        c.p 40 8, c.p 48 4, slice c.payload 20 12, c.p 64 8, false, false⟩) s)))
    ∧ (∀ (ring slot : Nat) (c : Cmd) (s0 s : State), Admits (specOf opsEth 0x0809) ring slot c s0 s = true → c.p 32 4
        ≤ 3 → (txSa s c.inst (c.p 32 4)).isSome = true → exec (.ethSaTxSwitch ring slot) s0 = .next (okReply c [] 0
        (s.withEth (fun e => { e with txAn := tput none e.txAn c.inst (some (c.p 32 4)) }))))
    ∧ (∀ (ring slot : Nat) (c : Cmd) (s0 s : State), Admits (specOf opsEth 0x080A) ring slot c s0 s = true → (c.p 32 1
        ≤ 1 ∧ c.p 33 1 ≤ 7 ∧ (c.p 32 1 = 0 → c.p 33 1 = 0) ∧ c.p 34 1 ≤ 3 ∧ c.zero 35 1 = true) → (saAt s c.inst (c.p
        32 1 == 1) (c.p 33 1) (c.p 34 1)).isSome = true ∧ saInUse s c.inst (c.p 32 1 == 1) (c.p 34 1) = false → exec
        (.ethSaDelete ring slot) s0 = .next (okReply c [] 0 (if c.p 32 1 = 1 then setRxSa c.inst (c.p 33 1 * 4 + c.p
        34 1) none s else setTxSa c.inst (c.p 34 1) none s)))
    ∧ (∀ (ring slot : Nat) (c : Cmd) (s0 s : State) (x : Sa), Admits (specOf opsEth 0x080B) ring slot c s0 s = true →
        (c.p 32 1 ≤ 1 ∧ c.p 33 1 ≤ 7 ∧ (c.p 32 1 = 0 → c.p 33 1 = 0) ∧ c.p 34 1 ≤ 3 ∧ c.zero 35 1 = true) → saAt s
        c.inst (c.p 32 1 == 1) (c.p 33 1) (c.p 34 1) = some x → exec (.ethSaStatus ring slot) s0 = .next (okReply c
        (leBytes 8 (if c.p 32 1 = 1 then x.low else x.pn) ++ leBytes 4 (b2n x.stopped + 2 * b2n (saActive s c.inst
        (c.p 32 1 == 1) (c.p 34 1)))) 0 s))
    ∧ (∀ (ring slot : Nat) (c : Cmd) (s0 s : State), Admits (specOf opsEth 0x080C) ring slot c s0 s = true → exec
        (.ethPortCounters ring slot) s0 = .next (okReply c (readRegs (regRun (ethPort c.inst 0x40) 16) s) 0 s))

/-- Frames arrive and leave: a good frame is stored, a bad one counted; a sent copy leaves its port; IC doorbells send
  a ring's frames. Details that the rules leave open are the model's choice (log entries 31, 35 and 74) (R118, R229,
  R276, R285, R286, R287, R288, R294, R296). -/
def Obligations.FramesArriveAndLeave : Prop :=
    (∀ (p ago : Nat) (wire : List Byte) (s : State), s.up = true → p ≤ 17 ∧ portFitted s.tier p = true ∧ linkUp s p
        = true → 4 ≤ wire.length ∧ fcs (wire.take (wire.length - 4)) ≠ wire.drop (wire.length - 4) → exec
        (.frameReceive p wire ago) s = .next (ethCount p 0x44 s))
    ∧ (∀ (p ago : Nat) (wire : List Byte) (s : State), s.up = true → p ≤ 17 ∧ portFitted s.tier p = true ∧ linkUp s p
        = true → 4 ≤ wire.length ∧ wire.length < 64 ∧ fcs (wire.take (wire.length - 4)) = wire.drop (wire.length - 4)
        → exec (.frameReceive p wire ago) s = .next (ethCount p 0x48 s))
    ∧ (∀ (p ago : Nat) (wire : List Byte) (s : State), s.up = true → p ≤ 17 ∧ portFitted s.tier p = true ∧ linkUp s p
        = true → 64 ≤ wire.length ∧ fcs (wire.take (wire.length - 4)) = wire.drop (wire.length - 4) → min (s.f
        (ethPort p 8) 13 0) 9216 < wire.length → exec (.frameReceive p wire ago) s = .next (ethCount p 0x4C s))
    ∧ (∀ (p ago : Nat) (wire : List Byte) (s : State), s.up = true → p ≤ 17 ∧ portFitted s.tier p = true ∧ linkUp s p
        = true → 64 ≤ wire.length ∧ fcs (wire.take (wire.length - 4)) = wire.drop (wire.length - 4) → wire.length ≤
        min (s.f (ethPort p 8) 13 0) 9216 → macsecOn s p wire = false → exec (.frameReceive p wire ago) s = .next
        (passFrame p wire 0 (stampOf s ago) (stampFrac s) s))
    ∧ (∀ (p ago : Nat) (c : Copy) (f : Frame) (s u t : State), s.up = true ∧ u = cutAtEnd p s → tget none u.swc.tx p =
        some c ∧ findFrame u c.frame = some f → (p ≤ 17 ∧ (14 ≤ p → tget 0 u.eth.plca p ≠ 0)) → t = State.withEth
        (u.withSwc (fun w => { w with tx := tput none w.tx p none })) (fun e =>
        { e with plca := tput 0 e.plca p (tget 0 e.plca p - 1) }) → macsecOn t p (egressForm f c).1 = false →
        (egressForm f c).2 = false ∧ u.eth.shared.contains (.tx p) = false → exec (.copyTransmitted p none ago) s =
        .next (showQueue c.queue (releaseCopy c (sendCopy c f (egressForm f c).1 false ago t))))
    ∧ (∀ (m p : Nat) (x : TxStamp) (r : List TxStamp) (s : State), MayRead s m 8 (.bit p) = true → tget [] s.eth.txts
        p = x :: r → exec (.txtsPop m p) s = .next ((State.sf (State.sf (State.wr (s.withEth (fun e =>
        { e with txts := tput [] e.txts p r })) (ethPort p 0x30) (BitVec.ofNat 32 x.sec)) (ethPort p 0x34) 15 0 (x.sec
        / 2 ^ 32)) (ethPort p 0x34) 27 16 x.tag).reply m [BitVec.ofNat 32 (x.ns + 2 ^ 31)] false))
    ∧ (∀ (m n : Nat) (v : Word) (s t : State), MayWrite s m 8 (.bit (32 + n)) = true → n ≤ 31 ∧ v.toNat < icSlots s
        true n → s.bit (icReg true n 8) 0 = true → icTake n v.toNat (icSlots s true n) (s.wr (icReg true n 0x10) v) =
        some t → exec (.icTxDoorbell m n v) s = .next t)

/-- The model's choices: what the counters TC10_WAKES and LINK_DOWNS take in, and the state of a PHY whose link is
  lost (log entry 35). (R273, R274, R276, R277, R279, R280, R281, R283, R284, R300). -/
def Obligations.EthernetPortEvents : Prop :=
    (∀ (m p : Nat) (v : Word) (s : State), MayWrite s m 8 (.bit p) = true → portFitted s.tier p = true ∧ fld v 31 2
        = 0 → exec (.portCtrlWrite m p v) s = .next (setPortCtrl p (if 18 ≤ p then v &&& 2#32 else v) s))
    ∧ (∀ (p mbps addFrag : Nat) (fec master : Bool) (s : State), s.up = true → p ≤ 17 ∧ portFitted s.tier p = true →
        (phyState s p = 1 ∨ (phyState s p = 2 ∧ tget false s.eth.rtProbed p = true)) → sameRole s p master = false →
        exec (.linkChange p true mbps addFrag (fec, master)) s = .next (bringUp p mbps addFrag fec s))
    ∧ (∀ (p mbps addFrag : Nat) (fec master : Bool) (s : State), s.up = true → sameRole s p master = true → exec
        (.linkChange p true mbps addFrag (fec, master)) s = .next s)
    ∧ (∀ (p mbps addFrag : Nat) (fec master : Bool) (s : State), s.up = true → p ≤ 17 ∧ portFitted s.tier p = true →
        linkUp s p = true → exec (.linkChange p false mbps addFrag (fec, master)) s = .next (ethCount p 0x74 (dropLink
        p 1 s)))
    ∧ (∀ (p : Nat) (agrees : Bool) (s : State), s.up = true → phyState s p = 2 ∧ tget false s.eth.rtProbed p = false →
        exec (.rtMarkerReceived p agrees) s = .next (if agrees then setProbed p true s else fallBack p 2 s))
    ∧ (∀ (p : Nat) (s : State), s.up = true → phyState s p = 2 ∧ tget false s.eth.rtProbed p = false → exec
        (.rtMarkerTimeout p) s = .next (fallBack p 1 s))
    ∧ (∀ (p : Nat) (s : State), s.up = true → phyState s p = 2 → exec (.retainedStartLimit p) s = .next (fallBack p 3
        s))
    ∧ (∀ (p : Nat) (s : State), s.up = true → tget false s.eth.sleeping p = true → exec (.tc10SleepAck p) s = .next
        (podlSleep p (dropLink p 4 s)))
    ∧ (∀ (p : Nat) (s : State), s.up = true → tget false s.eth.sleeping p = true → exec (.tc10SleepTimeout p) s =
        .next (ethEvent p 3 (setSleeping p false s)))
    ∧ (∀ (p : Nat) (s : State), s.up = true → tget false s.eth.sleeping p = true → exec (.tc10SleepRefused p) s =
        .next (ethEvent p 3 (setSleeping p false s)))
    ∧ (∀ (p : Nat) (s : State), s.up = true → tget false s.eth.sleeping p = false → phyState s p = 4 → exec (.tc10Wake
        p) s = .next (podlWake p (ethEvent p 2 (ethCount p 0x7C (startPhy p s)))))
    ∧ (∀ (p : Nat) (s : State), s.up = true → linkUp s p = true ∧ s.bit (ethPort p 4) 7 = true → exec (.tc10Wur p) s =
        .next (ethEvent p 4 (setSleeping p false s)))
    ∧ (∀ (p coll : Nat) (s : State), s.up = true → 14 ≤ p ∧ p ≤ 17 ∧ linkUp s p = true → exec (.plcaCycle p coll) s =
        .next ((s.cnt (ethPort p 0x6C) coll).withEth (fun e =>
        { e with plca := tput 0 e.plca p ((s.cnt (ethPort p 0x6C) coll).f (ethPort p 0x10) 16 13 + 1) })))
    ∧ (∀ (m p : Nat) (v : Word) (s : State), MayWrite s m 8 (.bit p) = true → t1s s p = true ∧ fld v 31 13 = 0 → exec
        (.podlCfgWrite m p v) s = .next (setPodlCfg p v s))
    ∧ (∀ (p cls : Nat) (s : State), s.up = true → t1s s p = true ∧ podlState s p = 1 → cls < 10 ∧ s.bit (ethPort p
        0x14) (cls + 2) = true → exec (.podlClassified p cls) s = .next ((setPodl p 2 s).sf (ethPort p 0x18) 7 4 cls))
    ∧ (∀ (p cls : Nat) (s : State), s.up = true → t1s s p = true ∧ podlState s p = 1 → (10 ≤ cls ∨ s.bit (ethPort p
        0x14) (cls + 2) = false) → exec (.podlClassified p cls) s = .next (ethEvent p 6 (setPodl p 0 s)))
    ∧ (∀ (p : Nat) (s : State), s.up = true → t1s s p = true ∧ podlState s p = 1 → exec (.podlClassTimeout p) s =
        .next (ethEvent p 6 (setPodl p 0 s)))
    ∧ (∀ (p : Nat) (s t : State), s.up = true → t1s s p = true ∧ podlState s p = 2 → t = setPodl p 0 (ethCount p 0x78
        s) → exec (.podlTrip p) s = .next (ethEvent p 5 (setRetry p true ((t.sf (ethPort p 0x18) 11 8 (min 8 (s.f
        (ethPort p 0x18) 11 8 + 1))).sb (ethPort p 0x18) 12 false))))
    ∧ (∀ (p : Nat) (s : State), s.up = true → t1s s p = true ∧ tget false s.eth.podlRetry p = true → exec (.podlRetry
        p) s = .next (if s.f (ethPort p 0x18) 11 8 < 8 then podlStart p s else setRetry p false (setPodl p 3 s)))
    ∧ (∀ (p : Nat) (s : State), s.up = true → t1s s p = true ∧ podlState s p = 2 → exec (.podlTripsClear p) s = .next
        (s.sf (ethPort p 0x18) 11 8 0))

/-- The CLN opcodes configure CAN and LIN channels, load, abort and report buffers, set filters and wake, and run
  schedules. Details that the rules leave open are the model's choice (log entries 36 and 37) (R301, R302, R308, R310,
  R311, R314, R317, R320, R322, R324, R325, R329). -/
def Obligations.CanAndLinOpcodes : Prop :=
    (∀ (ring slot : Nat) (c : Cmd) (s0 s : State), Admits (specOf opsCln 0x0900) ring slot c s0 s = true → fld (c.w
        32) 31 15 = 0 ∧ fld (c.w 32) 14 8 ≤ 64 ∧ nbtReserved (c.w 36) = false ∧ dbtReserved (c.w 40) = false ∧
        xbtReserved (c.w 44) = false ∧ tdcReserved (c.w 48) = false → timingFault (c.w 36) (c.w 40) (c.w 44) (c.w 48)
        = none → canMode s c.inst = 0 → handedOver s c.inst (fld (c.w 32) 14 8) = none → exec (.clnCanConfig ring
        slot) s0 = .next (okReply c [] 0 (((((s.wr (canReg c.inst 0) ((c.w 32 &&& ~~~ 0xF#32) ||| (s.rd (canReg c.inst
        0) &&& 0xF#32))).wr (canReg c.inst 4) (c.w 36)).wr (canReg c.inst 8) (c.w 40)).wr (canReg c.inst 0xC) (c.w
        44)).wr (canReg c.inst 0x10) (c.w 48))))
    ∧ (∀ (ring slot : Nat) (c : Cmd) (s0 s : State), Admits (specOf opsCln 0x0901) ring slot c s0 s = true → modeTrxOk
        (c.p 32 1) (c.p 33 1) = true ∧ c.p 32 1 ≤ 2 ∧ c.p 33 1 ≤ 2 ∧ c.zero 34 2 = true → badTiming s c.inst (c.p 32
        1) = false → exec (.clnCanMode ring slot) s0 = .next (okReply c [] 0 (setMode c.inst (c.p 32 1) (c.p 33 1)
        s)))
    ∧ (∀ (ring slot : Nat) (c : Cmd) (s0 s : State), Admits (specOf opsCln 0x0902) ring slot c s0 s = true → c.len =
        32 + c.p 40 2 ∧ c.p 32 1 ≤ 63 ∧ c.p 33 1 ≤ 15 ∧ c.p 34 1 ≤ 2 ∧ c.p 35 1 ≤ 7 → (bitOf (c.w 36) 31 ||
        (!(loadFrame c).ide && decide (0x7FF < (loadFrame c).id)) || ((loadFrame c).fmt == 3 && decide (0x7FF <
        (loadFrame c).id))) = false → canLenOk (loadFrame c).fmt (c.p 40 2) = true ∧ ¬ ((loadFrame c).fmt = 3 ∧
        (loadFrame c).ide = true) → c.timeForm 48 = true ∧ c.timeNs 48 < 1000000000 → (c.p 34 1 = 2 → 100000 ≤ c.p 60
        4 ∧ c.p 60 4 ≤ 4000000000) → (buf s c.inst (c.p 32 1)).loadable = true ∧ c.p 32 1 < gwFirst s c.inst → fmtOn s
        c.inst (loadFrame c).fmt = true ∧ storeShare (c.p 40 2) ≤ storeFree s c.inst (c.p 32 1) → exec (.clnCanTxLoad
        ring slot) s0 = .next (okReply c [] 0 (loadBuf c.inst (c.p 32 1) (loadFrame c) (c.p 33 1) (c.p 34 1) (c.time
        48) (c.p 60 4) s)))
    ∧ (∀ (ring slot : Nat) (c : Cmd) (s0 s : State), Admits (specOf opsCln 0x0903) ring slot c s0 s = true → c.p 32 1
        ≤ 63 ∧ c.zero 33 3 = true ∧ c.p 32 1 < gwFirst s c.inst → ((buf s c.inst (c.p 32 1)).st = 1 ∨ (buf s c.inst
        (c.p 32 1)).st = 2) → exec (.clnCanTxAbort ring slot) s0 = .next (okReply c [6] 0 (setBuf c.inst (c.p 32 1)
        { buf s c.inst (c.p 32 1) with st := 6 } s)))
    ∧ (∀ (ring slot : Nat) (c : Cmd) (s0 s : State), Admits (specOf opsCln 0x0903) ring slot c s0 s = true → c.p 32 1
        ≤ 63 ∧ c.zero 33 3 = true ∧ c.p 32 1 < gwFirst s c.inst → (buf s c.inst (c.p 32 1)).st = 3 → exec
        (.clnCanTxAbort ring slot) s0 = .next (markRunning c (setBuf c.inst (c.p 32 1)
        { buf s c.inst (c.p 32 1) with abort := true } s)))
    ∧ (∀ (ring slot : Nat) (c : Cmd) (s0 s : State), Admits (specOf opsCln 0x0904) ring slot c s0 s = true → c.p 32 1
        ≤ 63 ∧ c.zero 33 3 = true → exec (.clnCanTxStatus ring slot) s0 = .next (okReply c (leBytes 1 (buf s c.inst
        (c.p 32 1)).st ++ leBytes 1 (buf s c.inst (c.p 32 1)).retries ++ leBytes 1 (buf s c.inst (c.p 32 1)).coll ++
        [0] ++ timeBytes (buf s c.inst (c.p 32 1)).sof) 0 s))
    ∧ (∀ (ring slot : Nat) (c : Cmd) (s0 s : State), Admits (specOf opsCln 0x0905) ring slot c s0 s = true → c.p 32 1
        ≤ 63 ∧ c.p 33 1 ≤ 7 ∧ c.p 34 1 ≤ 15 ∧ c.zero 35 1 = true ∧ c.p 36 4 < 2 ^ 29 ∧ c.p 40 4 < 2 ^ 29 → exec
        (.clnCanFilter ring slot) s0 = .next (okReply c [] 0 (s.withCln (fun t =>
        { t with filters := tput Filter.zero t.filters (c.inst * 64 + c.p 32 1) ⟨(c.p 33 1).testBit 0, (c.p 33 1).testBit 1, (c.p 33 1).testBit 2, c.p 34 1, c.p 36 4, c.p 40 4⟩ }))))
    ∧ (∀ (ring slot : Nat) (c : Cmd) (s0 s : State), Admits (specOf opsCln 0x0906) ring slot c s0 s = true → canState
        s c.inst = 3 ∧ s.bit (canReg c.inst 0) 4 = false → exec (.clnCanRecover ring slot) s0 = .next (okReply c [] 0
        (setCanState c.inst 4 s)))
    ∧ (∀ (ring slot : Nat) (c : Cmd) (s0 s : State), Admits (specOf opsCln 0x0907) ring slot c s0 s = true → c.p 32 1
        ≤ 2 ∧ c.p 33 1 ≤ 3 ∧ c.p 34 1 ≤ 3 ∧ c.p 35 1 ≤ 8 ∧ c.p 36 4 < 2 ^ 29 ∧ c.p 40 4 < 2 ^ 29 → exec
        (.clnCanWakeCfg ring slot) s0 = .next (okReply c [] 0 (s.withCln (fun t =>
        { t with wake := tput WakeCfg.zero t.wake c.inst ⟨c.p 32 1, c.p 33 1, (c.p 34 1).testBit 0, (c.p 34 1).testBit 1, c.p 35 1, c.p 36 4, c.p 40 4, slice c.payload 12 8⟩, wufErr := terase t.wufErr c.inst }))))
    ∧ (∀ (ring slot : Nat) (c : Cmd) (s0 s : State), Admits (specOf opsCln 0x0908) ring slot c s0 s = true → exec
        (.clnCanCounters ring slot) s0 = .next (okReply c (readRegs (regRun (canReg c.inst 0x40) 16) s) 0 s))
    ∧ (∀ (ring slot : Nat) (c : Cmd) (s0 s : State), Admits (specOf opsCln 0x0910) ring slot c s0 s = true → fld (c.w
        32) 14 1 = 0 ∧ 4000 ≤ fld (c.w 32) 31 15 ∧ fld (c.w 32) 31 15 ≤ 80000 ∧ fld (c.w 36) 31 9 = 0 ∧ lcfgOk (c.w
        36) = true → s.bit (linReg (c.inst - 16) 0) 0 = false → exec (.clnLinConfig ring slot) s0 = .next (okReply c
        [] 0 ((s.wr (linReg (c.inst - 16) 0) (setBit (c.w 32) 0 false)).wr (linReg (c.inst - 16) 4) (c.w 36))))
    ∧ (∀ (ring slot : Nat) (c : Cmd) (s0 s : State), Admits (specOf opsCln 0x0911) ring slot c s0 s = true → c.p 32 1
        ≤ 63 ∧ 1 ≤ c.p 33 1 ∧ c.p 32 1 + c.p 33 1 ≤ 64 ∧ c.len = 4 + 8 * c.p 33 1 ∧ c.zero 34 2 = true → schedFault c
        s (c.inst - 16) (c.p 32 1) (c.p 33 1) 0 = none → (tget none s.cln.runs (c.inst - 16)).all (fun r => !(decide
        (c.p 32 1 ≤ r.last) && decide (r.first < c.p 32 1 + c.p 33 1))) = true → exec (.clnLinSchedLoad ring slot) s0
        = .next (okReply c [] 0 ((List.range (c.p 33 1)).foldl (fun s k => s.withCln (fun t =>
        { t with sched := tput (0, 0) t.sched ((c.inst - 16) * 64 + c.p 32 1 + k) (c.w (36 + 8 * k), c.w (40 + 8 * k)) }))
        s)))
    ∧ (∀ (ring slot : Nat) (c : Cmd) (s0 s : State) (t : Nat), Admits (specOf opsCln 0x0912) ring slot c s0 s = true →
        c.p 33 1 ≤ 63 ∧ c.p 32 1 ≤ c.p 33 1 ∧ c.p 34 1 = 0 ∧ c.zero 35 1 = true ∧ c.timeForm 36 = true ∧ c.timeNs 36 <
        1000000000 → 1000 ≤ linCycle s (c.inst - 16) (c.p 32 1) (c.p 33 1) ∧ linCycle s (c.inst - 16) (c.p 32 1) (c.p
        33 1) ≤ 10000000 → tget none s.cln.next (c.inst - 16) = none ∧ linState s (c.inst - 16) ≠ 0 ∧ linState s
        (c.inst - 16) ≠ 3 → t = firstInstant (c.time 36) (linCycle s (c.inst - 16) (c.p 32 1) (c.p 33 1) * 1000)
        (slotEnd s (c.inst - 16)) → exec (.clnLinRun ring slot) s0 = .next (okReply c (timeBytes t) 0 (setNext (c.inst
        - 16) (some (.switch (c.p 32 1) (c.p 33 1) t)) s)))
    ∧ (∀ (ring slot : Nat) (c : Cmd) (s0 s : State) (r : LinRun), Admits (specOf opsCln 0x0912) ring slot c s0 s =
        true → c.p 33 1 ≤ 63 ∧ c.p 32 1 ≤ c.p 33 1 ∧ c.p 34 1 = 1 ∧ c.zero 35 1 = true ∧ c.timeForm 36 = true ∧
        c.timeNs 36 < 1000000000 → tget none s.cln.next (c.inst - 16) = none ∧ linState s (c.inst - 16) ≠ 0 ∧ linState
        s (c.inst - 16) ≠ 3 → tget none s.cln.runs (c.inst - 16) = some r → exec (.clnLinRun ring slot) s0 = .next
        (okReply c (timeBytes (slotEnd s (c.inst - 16))) 0 (setNext (c.inst - 16) (some .stop) s)))
    ∧ (∀ (ring slot : Nat) (c : Cmd) (s0 s : State), Admits (specOf opsCln 0x0913) ring slot c s0 s = true → c.p 32 1
        ≤ 63 ∧ 1 ≤ c.p 33 1 ∧ c.p 33 1 ≤ 8 ∧ c.zero 34 2 = true → exec (.clnLinData ring slot) s0 = .next (okReply c
        [] 0 (setPublish (c.inst - 16) (c.p 32 1) (slice c.payload 4 (c.p 33 1)) s)))
    ∧ (∀ (ring slot : Nat) (c : Cmd) (s0 s : State), Admits (specOf opsCln 0x0914) ring slot c s0 s = true → c.p 32 1
        = 1 ∧ c.zero 33 3 = true ∧ linState s (c.inst - 16) ≠ 0 ∧ linState s (c.inst - 16) ≠ 3 → exec (.clnLinPower
        ring slot) s0 = .next (markRunning c (if slotOver s (c.inst - 16) && (tget none s.cln.onBus (c.inst -
        16)).isNone then linGoToSleep (c.inst - 16) s else setNext (c.inst - 16) (some .sleep) s)))
    ∧ (∀ (ring slot : Nat) (c : Cmd) (s0 s : State), Admits (specOf opsCln 0x0914) ring slot c s0 s = true → c.p 32 1
        = 2 ∧ c.zero 33 3 = true ∧ linState s (c.inst - 16) = 3 → exec (.clnLinPower ring slot) s0 = .next
        (markRunning c (busSend (.linPulse (c.inst - 16)) s)))
    ∧ (∀ (ring slot : Nat) (c : Cmd) (s0 s : State), Admits (specOf opsCln 0x0915) ring slot c s0 s = true → exec
        (.clnLinCounters ring slot) s0 = .next (okReply c (readRegs (regRun (linReg (c.inst - 16) 0x40) 8) s) 0 s))

/-- CAN frames, errors, bus-off, schedules, transceivers and LIN slots change a channel as R307–R328 give. Details
  that the rules leave open are the model's choice (log entries 20, 36 and 37) (R305, R307, R308, R311, R312, R313,
  R317, R321, R322, R326, R327, R328). -/
def Obligations.CanAndLinBuses : Prop :=
    (∀ (ch : Nat) (s : State), s.up = true → ch < 16 ∧ canState s ch = 1 ∧ canBusy s ch = false → exec
        (.integrationDone ch) s = .next (gwyReport ch (setCanState ch 2 s)))
    ∧ (∀ (ch : Nat) (s : State), s.up = true → ch < 16 ∧ canState s ch = 4 → exec (.busOffExit ch) s = .next
        (gwyReport ch (clnEvent ch 1 (setErr ch 0 0 (setCanState ch 2 s)))))
    ∧ (∀ (ch fmt id : Nat) (ide rr esi : Bool) (data : List Byte) (sdt vcid : Nat) (sec : Bool) (af ago : Nat) (s :
        State), s.up = true → canRuns s ch = true ∧ canLenOk fmt data.length = true → exec (.canFrameReceived ch fmt
        id ide rr esi data sdt vcid sec af ago) s = .next (gwyReport ch (frameEnded ch (canTake ch ((s.now + timeSpan
        - ago % timeSpan) % timeSpan) ⟨fmt, id % 2 ^ 29, ide, rr, esi, data, sdt % 256, vcid % 256, sec, af % 2 ^ 32⟩
        (lostArbitration ch s)))))
    ∧ (∀ (ch fmt id : Nat) (ide rr esi : Bool) (data : List Byte) (sdt vcid : Nat) (sec : Bool) (af ago : Nat) (s :
        State), s.up = true → ch < 16 ∧ canFitted s.tier ch = true ∧ canRuns s ch = false ∧ canLenOk fmt data.length =
        true → exec (.canFrameReceived ch fmt id ide rr esi data sdt vcid sec af ago) s = .next (gwyReport ch
        (frameEnded ch s)))
    ∧ (∀ (ch i : Nat) (s : State), s.up = true → canActive s ch = true ∧ onBus s ch = none ∧ canBusy s ch = false →
        winner s ch = some i → exec (.canTxStart (ch, true)) s = .next (setBuf ch i
        { buf s ch i with st := 3, sof := s.now } s))
    ∧ (∀ (ch : Nat) (s : State), s.up = true → ch < 16 ∧ canFitted s.tier ch = true ∧ onBus s ch = none ∧ canBusy s ch
        = false → exec (.canTxStart (ch, false)) s = .next (setBusy ch true s))
    ∧ (∀ (ch i : Nat) (s t : State), s.up = true → canRuns s ch = true ∧ onBus s ch = some i ∧ (buf s ch i).abort =
        false → t = measureDelay ch (buf s ch i).frame.fmt (busSend (.can ch (buf s ch i).frame) (canCount ch 0x40 s))
        → exec (.canTxDone ch) s = .next (gwyReport ch (frameEnded ch (setErr ch (tec t ch - 1) (recv t ch) (setBuf ch
        i (buf s ch i).sent t)))))
    ∧ (∀ (ch kind at_ : Nat) (alt : Bool) (s : State), s.up = true → canRuns s ch = true ∧ onBus s ch = none → exec
        (.canBusError ch kind at_ alt) s = .next (errorEnded ch (rxError ch kind at_ alt (canCount ch (errOff kind)
        s))))
    ∧ (∀ (ch kind i at_ : Nat) (alt : Bool) (s : State), s.up = true → canRuns s ch = true ∧ onBus s ch = some i →
        exec (.canBusError ch kind at_ alt) s = .next (errorEnded ch (txError ch i kind at_ alt (canCount ch (errOff
        kind) s))))
    ∧ (∀ (ch i : Nat) (s t : State), onBus s ch = some i ∧ (buf s ch i).abort = false ∧ (buf s ch i).failed.2 = false
        → t = errorFrame ch true (setBuf ch i (buf s ch i).failed.1 s) → tec t ch + 8 ≤ 255 → txError ch i 1 1 false s
        = setErr ch (tec t ch + 8) (recv t ch) t)
    ∧ (∀ (ch i : Nat) (s : State), s.up = true → i < 64 ∧ (buf s ch i).st = 1 ∧ (buf s ch i).timing = 1 ∧ (buf s ch
        i).at_ ≤ s.now → exec (.txScheduleTime ch i) s = .next (setBuf ch i { buf s ch i with st := 2, late := false }
        (if (buf s ch i).late then canLate ch s else s)))
    ∧ (∀ (ch i : Nat) (s : State), s.up = true → i < 64 ∧ (buf s ch i).timing = 2 ∧ (buf s ch i).st ≠ 6 ∧ (buf s ch
        i).at_ ≤ s.now → exec (.txCycleOccurrence ch i) s = .next (if (buf s ch i).st = 2 ∨ (buf s ch i).st = 3 then
        clnEvent ch 10 (canCount ch 0x74 (setBuf ch i
        { buf s ch i with at_ := (buf s ch i).at_ + (buf s ch i).period } s)) else setBuf ch i
        { buf s ch i with at_ := (buf s ch i).at_ + (buf s ch i).period, st := 2, retries := 0 } s))
    ∧ (∀ (ch : Nat) (s : State), s.up = true → ch < 16 ∧ canFitted s.tier ch = true → exec (.txdTimeout ch) s = .next
        (clnEvent ch 7 (canCount ch 0x7C s)))
    ∧ (∀ (ch : Nat) (ide : Bool) (id dlc : Nat) (data : List Byte) (s : State), ch < 16 ∧ canFitted s.tier ch = true ∧
        canWatches s ch = true → (tget WakeCfg.zero s.cln.wake ch).mode = 1 → exec (.canWakeDetect ch 0 ide id
        (dlc, data)) s = .next (keyFire (8 + ch) 0 (if s.up then clnEvent ch 8 s else s)))
    ∧ (∀ (m : Nat) (r : LinRun) (s : State), s.up = true → m < 8 ∧ s.bit (linReg m 0) 0 = true ∧ tget none s.cln.onBus
        m = none ∧ slotOver s m = true → tget none s.cln.next m = none ∧ tget none s.cln.runs m = some r → exec
        (.linSlotStart m) s = .next (startSlot m r.first r.last (if r.slot = r.last then r.first else r.slot + 1)
        r.ends s))
    ∧ (∀ (m f l t : Nat) (s : State), s.up = true → m < 8 ∧ s.bit (linReg m 0) 0 = true ∧ tget none s.cln.onBus m =
        none ∧ slotOver s m = true → tget none s.cln.next m = some (.switch f l t) ∧ t ≤ s.now → exec (.linSlotStart
        m) s = .next (startSlot m f l f t (setLinState m 2 (setNext m none s))))
    ∧ (∀ (m : Nat) (s : State), s.up = true → m < 8 ∧ s.bit (linReg m 0) 0 = true ∧ tget none s.cln.onBus m = none ∧
        slotOver s m = true → tget none s.cln.next m = some .stop → exec (.linSlotStart m) s = .next (setLinState m 1
        (setNext m none (setRun m none s))))
    ∧ (∀ (m : Nat) (s : State), s.up = true → m < 8 ∧ s.bit (linReg m 0) 0 = true ∧ tget none s.cln.onBus m = none ∧
        slotOver s m = true → tget none s.cln.next m = some .sleep → exec (.linSlotStart m) s = .next (linGoToSleep m
        s))
    ∧ (∀ (m : Nat) (data : List Byte) (chk : Option Nat) (framing : Bool) (x : LinFrame) (s : State), s.up = true →
        tget none s.cln.onBus m = some x → x.publish.isSome = true ∧ x.toSleep = false → exec (.linSlotEnd m data chk
        framing false) s = .next (linOk m (s.withCln (fun c => { c with onBus := tput none c.onBus m none }))))
    ∧ (∀ (m : Nat) (data : List Byte) (chk : Option Nat) (framing : Bool) (x : LinFrame) (s t : State), s.up = true →
        tget none s.cln.onBus m = some x → x.publish = none ∧ x.toSleep = false → t = s.withCln (fun c =>
        { c with onBus := tput none c.onBus m none }) → linFlags x (data.take x.len) chk framing ≠ 0 → exec
        (.linSlotEnd m data chk framing false) s = .next (clnRecord (16 + m) [x.start % 1000000000 + x.start /
        1000000000 % 2 ^ 32 * 2 ^ 32, x.id + x.typ * 64 + (data.take x.len).length * 512 + linFlags x (data.take
        x.len) chk framing * 2 ^ 13 + (16 + m) * 2 ^ 48, leAt (data.take x.len) 0 8] (linErrors m (linFlags x
        (data.take x.len) chk framing) t)).2)
    ∧ (∀ (m : Nat) (s : State), m < 8 ∧ linFitted s.tier m = true ∧ s.sys.phase = .running → linState s m = 3 ∧ s.bit
        (linReg m 4) 8 = true → exec (.linWakeDetect m) s = .next (keyFire (24 + m) 0 (clnEvent (16 + m) 8 (linCount m
        0x5C s))))
    ∧ (∀ (m : Nat) (s : State), s.up = true → s.mason.cmds.any (fun c => c.running && (c.opcode == 0x0914 && c.inst ==
        16 + m && c.p 32 1 == 2)) = true → exec (.linWakeDone m) s = .next (endRunning (fun c => c.opcode == 0x0914 &&
        c.inst == 16 + m && c.p 32 1 == 2) (fun _ => Fail.ok) (fun _ => []) (gwyReport (16 + m) (setLinState m 1 s))))

/-- The GWY opcodes write, read and delete routes, set sources, tunnels and profiles, and configure and drive the NM
  engines. Details that the rules leave open are the model's choice (log entry 38) (R335, R336, R337, R338, R339,
  R340, R353, R361, R362, R512, R519, R520). -/
def Obligations.GatewayOpcodes : Prop :=
    (∀ (ring slot : Nat) (c : Cmd) (s0 s : State) (k i : Nat), Admits (specOf opsGwy 0x0A00) ring slot c s0 s = true
        → (k = c.p 32 8 ∧ routeKeyForm k = true ∧ (keySrc k ≤ 23 → clnFitted s (keySrc k) = true) ∧ (s.aclEntry 10
        c.issuer).mask.getLsbD (srcMaskBit (keySrc k)) = true) → c.p 40 1 ≤ 3 ∧ c.p 41 1 ≤ 63 ∧ c.p 44 4 ≤ 10000000 →
        (∀ t ∈ entryTargets (slice c.payload 0 48), targetForm t = true ∧ (tKind t = 0 ∨ ((tKind t = 1 ∨ tKind t = 2 →
        clnFitted s (tIndex t) = true) ∧ (s.aclEntry 10 c.issuer).mask.getLsbD (targetMaskBit t) = true))) → findRoute
        s k = some i → exec (.gwyRouteWrite ring slot) s0 = .next (okReply c (leBytes 4 i) 0 (setRoute i (some ⟨slice
        c.payload 0 48, routeFresh s i (slice c.payload 0 48)⟩) s)))
    ∧ (∀ (ring slot : Nat) (c : Cmd) (s0 s : State) (k i : Nat), Admits (specOf opsGwy 0x0A00) ring slot c s0 s = true
        → (k = c.p 32 8 ∧ routeKeyForm k = true ∧ (keySrc k ≤ 23 → clnFitted s (keySrc k) = true) ∧ (s.aclEntry 10
        c.issuer).mask.getLsbD (srcMaskBit (keySrc k)) = true) → c.p 40 1 ≤ 3 ∧ c.p 41 1 ≤ 63 ∧ c.p 44 4 ≤ 10000000 →
        (∀ t ∈ entryTargets (slice c.payload 0 48), targetForm t = true ∧ (tKind t = 0 ∨ ((tKind t = 1 ∨ tKind t = 2 →
        clnFitted s (tIndex t) = true) ∧ (s.aclEntry 10 c.issuer).mask.getLsbD (targetMaskBit t) = true))) → findRoute
        s k = none → freeWay s k = some i → exec (.gwyRouteWrite ring slot) s0 = .next (okReply c (leBytes 4 i) 0
        (setRoute i (some ⟨slice c.payload 0 48, 0⟩) s)))
    ∧ (∀ (ring slot : Nat) (c : Cmd) (s0 s : State) (k i : Nat), Admits (specOf opsGwy 0x0A01) ring slot c s0 s = true
        → (k = c.p 32 8 ∧ routeKeyForm k = true ∧ (keySrc k ≤ 23 → clnFitted s (keySrc k) = true) ∧ (s.aclEntry 10
        c.issuer).mask.getLsbD (srcMaskBit (keySrc k)) = true) → findRoute s k = some i → exec (.gwyRouteDelete ring
        slot) s0 = .next (okReply c [] 0 (setRoute i none s)))
    ∧ (∀ (ring slot : Nat) (c : Cmd) (s0 s : State) (k i : Nat) (r : Route), Admits (specOf opsGwy 0x0A02) ring slot c
        s0 s = true → (k = c.p 32 8 ∧ routeKeyForm k = true ∧ (keySrc k ≤ 23 → clnFitted s (keySrc k) = true) ∧
        (s.aclEntry 10 c.issuer).mask.getLsbD (srcMaskBit (keySrc k)) = true) → findRoute s k = some i ∧ route s i =
        some r ∧ r.bytes.length = 48 → exec (.gwyRouteRead ring slot) s0 = .next (okReply c (r.bytes ++ leBytes 4 i ++
        leBytes 8 r.fresh) 0 s))
    ∧ (∀ (ring slot : Nat) (c : Cmd) (s0 s : State) (k i : Nat) (r : Route), Admits (specOf opsGwy 0x0A06) ring slot c
        s0 s = true → (k = c.p 32 8 ∧ routeKeyForm k = true ∧ (keySrc k ≤ 23 → clnFitted s (keySrc k) = true) ∧
        (s.aclEntry 10 c.issuer).mask.getLsbD (srcMaskBit (keySrc k)) = true) → findRoute s k = some i ∧ route s i =
        some r → exec (.gwyFreshSet ring slot) s0 = .next (okReply c [] 0 (setRoute i (some ⟨r.bytes, c.p 40 8⟩) s)))
    ∧ (∀ (ring slot : Nat) (c : Cmd) (s0 s : State) (n : Nat), Admits (specOf opsGwy 0x0A03) ring slot c s0 s = true →
        (n = c.p 32 2 ∧ srcOk n = true ∧ (n ≤ 23 → clnFitted s n = true) ∧ (s.aclEntry 10 c.issuer).mask.getLsbD
        (srcMaskBit n) = true) → c.p 34 1 = 0 ∧ c.zero 35 1 = true → exec (.gwySetSource ring slot) s0 = .next
        (okReply c [] 0 (s.withGwy (fun g => { g with defaults := tput none g.defaults n none }))))
    ∧ (∀ (ring slot : Nat) (c : Cmd) (s0 s : State) (n k : Nat), Admits (specOf opsGwy 0x0A03) ring slot c s0 s = true
        → (n = c.p 32 2 ∧ srcOk n = true ∧ (n ≤ 23 → clnFitted s n = true) ∧ (s.aclEntry 10 c.issuer).mask.getLsbD
        (srcMaskBit n) = true) → c.p 34 1 = 1 ∧ c.zero 35 1 = true → (k = c.p 36 8 ∧ routeKeyForm k = true ∧ (keySrc k
        ≤ 23 → clnFitted s (keySrc k) = true) ∧ (s.aclEntry 10 c.issuer).mask.getLsbD (srcMaskBit (keySrc k)) = true)
        → exec (.gwySetSource ring slot) s0 = .next (okReply c [] 0 (s.withGwy (fun g =>
        { g with defaults := tput none g.defaults n (some (leBytes 8 k)) }))))
    ∧ (∀ (ring slot : Nat) (c : Cmd) (s0 s : State), Admits (specOf opsGwy 0x0A04) ring slot c s0 s = true → fld (c.w
        32) 31 6 = 0 ∧ (c.p 42 2).testBit 12 = false ∧ tunnelRange c = none ∧ c.zero 61 1 = true → (tunnel s
        c.inst).en = false → exec (.gwyTunnelCfg ring slot) s0 = .next (okReply c [] 0 (setTunnel c.inst
        { tunnel s c.inst with flags := c.w 32, da := slice c.payload 4 6, vidPcp := c.p 42 2, streamOut := slice c.payload 12 8, streamIn := slice c.payload 20 8, bundleMax := c.p 60 1, maxPayload := c.p 62 2, timeoutUs := c.p 64 4, latencyUs := c.p 68 4 }
        s)))
    ∧ (∀ (ring slot : Nat) (c : Cmd) (s0 s : State), Admits (specOf opsGwy 0x0A04) ring slot c s0 s = true → fld (c.w
        32) 31 6 = 0 ∧ (c.p 42 2).testBit 12 = false ∧ tunnelRange c = none ∧ c.zero 61 1 = true → (tunnel s
        c.inst).en = true ∧ bitOf (c.w 32) 0 = false → exec (.gwyTunnelCfg ring slot) s0 = .next (okReply c [] 0
        (setTunnel c.inst
        { tunnel (closeBundle c.inst s) c.inst with flags := setBit (tunnel (closeBundle c.inst s) c.inst).flags 0 false }
        (closeBundle c.inst s))))
    ∧ (∀ (ring slot : Nat) (c : Cmd) (s0 s : State), Admits (specOf opsGwy 0x0A05) ring slot c s0 s = true → c.p 32 1
        ≤ 63 ∧ 3 ≤ c.p 33 1 ∧ c.p 33 1 ≤ 16 ∧ c.p 34 1 ≤ 8 ∧ c.zero 35 1 = true ∧ c.p 36 2 ≤ 1023 ∧ c.zero 38 2 = true
        ∧ c.p 40 4 ≠ 0 → exec (.gwyAuthProfile ring slot) s0 = .next (okReply c [] 0 (s.withGwy (fun g =>
        { g with profiles := tput Profile.zero g.profiles (c.p 32 1) ⟨c.p 36 2, c.p 33 1, c.p 34 1, c.p 40 4⟩ }))))
    ∧ (∀ (ring slot : Nat) (c : Cmd) (s0 s : State), Admits (specOf opsGwy 0x0A07) ring slot c s0 s = true → exec
        (.gwyCounters ring slot) s0 = .next (okReply c (takeCounters (regRun (rg 10 0x100) 20) s).1 0 (takeCounters
        (regRun (rg 10 0x100) 20) s).2))
    ∧ (∀ (ring slot : Nat) (c : Cmd) (s0 s : State), Admits (specOf opsNm 0x0A20) ring slot c s0 s = true → c.w 32 &&&
        ~~~ 0x0001FF0F#32 = 0 ∧ nmForm c = none ∧ 100 ≤ c.p 48 2 ∧ 100 ≤ c.p 52 2 ∧ 10 ≤ c.p 54 2 → (c.p 70 2).testBit
        12 = false ∧ c.inst < 16 → nmEn s c.inst = false → exec (.gwyNmCfg ring slot) s0 = .next (okReply c [] 0
        (nmEnable c.inst (bitOf (c.w 32) 0) ((((((s.wr (nmReg c.inst 0) (setBit (c.w 32) 0 false)).wr (nmReg c.inst 4)
        (c.w 36)).wr (nmReg c.inst 8) (c.w 40)).wr (nmReg c.inst 0xC) (c.w 44)).wr (nmReg c.inst 0x10) (c.w 48)).wr
        (nmReg c.inst 0x14) (c.w 52)))))
    ∧ (∀ (ring slot : Nat) (c : Cmd) (s0 s : State), Admits (specOf opsNm 0x0A20) ring slot c s0 s = true → c.w 32 &&&
        ~~~ 0x0001FF0F#32 = 0 ∧ nmForm c = none ∧ 100 ≤ c.p 48 2 ∧ 100 ≤ c.p 52 2 ∧ 10 ≤ c.p 54 2 → (c.p 70 2).testBit
        12 = false ∧ 16 ≤ c.inst ∧ c.p 70 2 % 4096 ≠ 0 ∧ c.p 70 2 % 4096 ≠ 4095 → nmEn s c.inst = false → exec
        (.gwyNmCfg ring slot) s0 = .next (okReply c [] 0 (nmEnable c.inst (bitOf (c.w 32) 0) ((((((((((s.wr (nmReg
        c.inst 0) (setBit (c.w 32) 0 false)).wr (nmReg c.inst 4) (c.w 36)).wr (nmReg c.inst 8) (c.w 40)).wr (nmReg
        c.inst 0xC) (c.w 44)).wr (nmReg c.inst 0x10) (c.w 48)).wr (nmReg c.inst 0x14) (c.w 52)).wr (nmReg c.inst 0x2C)
        (c.w 56)).wr (nmReg c.inst 0x30) (c.w 60)).wr (nmReg c.inst 0x34) (c.w 64)).wr (nmReg c.inst 0x38)
        (BitVec.ofNat 32 (c.p 68 2 + c.p 70 2 % 4096 * 2 ^ 16 + c.p 70 2 / 8192 * 2 ^ 29))))))
    ∧ (∀ (ring slot : Nat) (c : Cmd) (s0 s : State), Admits (specOf opsNm 0x0A21) ring slot c s0 s = true → c.p 32 1 =
        1 ∧ c.zero 33 3 = true ∧ nmEn s c.inst = true → exec (.gwyNmRequest ring slot) s0 = .next (okReply c [] 0 (if
        nmState s c.inst = 1 ∨ nmState s c.inst = 2 then nmRepeat c.inst 0x10 (s.sb (nmReg c.inst 0x20) 3 true) else
        if nmState s c.inst = 5 then nmSend c.inst 0 (setNm c.inst 4 (s.sb (nmReg c.inst 0x20) 3 true)) else s.sb
        (nmReg c.inst 0x20) 3 true)))
    ∧ (∀ (ring slot : Nat) (c : Cmd) (s0 s : State), Admits (specOf opsNm 0x0A21) ring slot c s0 s = true → c.p 32 1 =
        2 ∧ c.zero 33 3 = true ∧ nmEn s c.inst = true → exec (.gwyNmRequest ring slot) s0 = .next (okReply c [] 0 (if
        nmState s c.inst = 4 then setNm c.inst 5 (s.sb (nmReg c.inst 0x20) 3 false) else s.sb (nmReg c.inst 0x20) 3
        false)))
    ∧ (∀ (ring slot : Nat) (c : Cmd) (s0 s : State), Admits (specOf opsNm 0x0A21) ring slot c s0 s = true → c.p 32 1 =
        3 ∧ c.zero 33 3 = true ∧ nmEn s c.inst = true → exec (.gwyNmRequest ring slot) s0 = .next (okReply c [] 0 (if
        nmState s c.inst = 4 ∨ nmState s c.inst = 5 then nmRepeat c.inst 1 s else s)))
    ∧ (∀ (ring slot : Nat) (c : Cmd) (s0 s : State), Admits (specOf opsNm 0x0A22) ring slot c s0 s = true → (tget
        (List.replicate 6 0) s.gwy.lastUdata c.inst).length = 6 → exec (.gwyNmStatus ring slot) s0 = .next (okReply c
        (readRegs [nmReg c.inst 0x20] s ++ tget (List.replicate 6 0) s.gwy.lastUdata c.inst ++ [0, 0] ++ (takeCounters
        [nmReg c.inst 0x24, nmReg c.inst 0x28] s).1) 0 (takeCounters [nmReg c.inst 0x24, nmReg c.inst 0x28] s).2))
    ∧ (∀ (ring slot : Nat) (c : Cmd) (s0 s : State), Admits (specOf opsNm 0x0A23) ring slot c s0 s = true → c.zero 38
        2 = true → exec (.gwyNmUdata ring slot) s0 = .next (okReply c [] 0 ((s.wr (nmReg c.inst 0x18) (c.w 32)).wr
        (nmReg c.inst 0x1C) (BitVec.ofNat 32 (c.p 36 2)))))

/-- GWY takes records, tunnel frames and injection slots as messages, and completes jobs, releases, queues and
  bundles. Details that the rules leave open are the model's choice (log entry 38) (R334, R341, R345, R348, R352,
  R356, R357, R360, R378). -/
def Obligations.GatewayTakesMessages : Prop :=
    (∀ (n : Nat) (p : List SWord) (r : List (List SWord)) (s u : State), s.up = true → u = hwDrain n s ∧ gwyInbox u
        n = p :: r → n ≤ 24 ∧ recordGood p = true ∧ p.any (fun w => w.tag == 3) = false → (n < 16 → nmTakes u n
        (recordMsg u n (p.map (·.data))).frame = false) → exec (.sprueRecord n false) s = .next (takeMsg (recordMsg u
        n (p.map (·.data))) (popRecord n u)))
    ∧ (∀ (n : Nat) (p : List SWord) (r : List (List SWord)) (s u : State), s.up = true → u = hwDrain n s ∧ gwyInbox u
        n = p :: r → n ≤ 24 → exec (.sprueRecord n true) s = .next (poisoned (((popRecord n u).cnt (sprReg n 0x24)
        1).raise 11 2)))
    ∧ (∀ (n : Nat) (p : List SWord) (r : List (List SWord)) (s u : State), s.up = true → u = hwDrain n s ∧ gwyInbox u
        n = p :: r → n ≤ 24 ∧ p.any (fun w => w.tag == 3) = true → exec (.sprueRecord n false) s = .next ((gwyCount
        0x108 (popRecord n u)).raise 10 1))
    ∧ (∀ (n : Nat) (p : List SWord) (r : List (List SWord)) (s u : State), s.up = true → u = hwDrain n s ∧ gwyInbox u
        n = p :: r → n ≤ 24 ∧ p.any (fun w => w.tag == 3) = false ∧ recordGood p = false → exec (.sprueRecord n false)
        s = .next (gwyCount 0x10C (popRecord n u)))
    ∧ (∀ (i : Nat) (w : AuthWait) (j : AuthJob) (s t : State), s.up = true → s.gwy.waits.find? (fun w => w.route == i)
        = some w → w.job = some j → t = endAuth w j (s.withGwy (fun g => { g with waits := popWait i g.waits })) →
        exec (.authResult i) s = .next (endErases (nextAuth t)))
    ∧ (∀ (x : Timed) (s : State), s.up = true → firstTimed s.gwy.timed = some x ∧ x.at_ ≤ s.now → exec .releaseTime s
        = .next (handOn x.mid x.target (if x.late then gwyCount 0x12C (s.withGwy (fun g =>
        { g with timed := g.timed.erase x })) else s.withGwy (fun g => { g with timed := g.timed.erase x }))))
    ∧ (∀ (ch : Nat) (s : State), s.up = true → ch < 16 → exec (.gwBufferLoad ch) s = .next (gwLoad ch ((canQueue s
        ch).length) s))
    ∧ (∀ (t : Nat) (s : State), s.up = true → exec (.bundleTimeout t) s = .next (closeBundle t s))
    ∧ (∀ (x : IgCopy) (r : List IgCopy) (t : Nat) (s : State), s.up = true → s.eth.igRx = x :: r ∧ x.tunnel = some t →
        exec .tunnelFrameIn s = .next (tunnelIn x t (s.withEth (fun e => { e with igRx := r }))))
    ∧ (∀ (m n : Nat) (v : Word) (s t : State), MayWrite s m 10 (.bit (32 + n)) = true → n < 16 ∧ v.toNat ≤ 65535 ∧
        v.toNat < hostSlots s n ∧ s.bit (hostReg n 0x10) 0 = true → injectTake n v.toNat (hostSlots s n) (s.wr
        (hostReg n 0x20) v) = some t → exec (.injectDoorbell m n v) s = .next t)
    ∧ (∀ (m n : Nat) (v : Word) (s : State), MayWrite s m 10 (.bit (32 + n)) = true → n < 16 ∧ v &&& ~~~ 0x007F01FF#32
        = 0 → exec (.hostqCfgWrite m n v) s = .next (if s.bit (hostReg n 0x10) 0 then s.sb (hostReg n 0x10) 0 (bitOf v
        0) else s.wr (hostReg n 0x10) (setBit v 0 (bitOf v 0 && (decide (4 ≤ fld v 4 1) && decide (fld v 4 1 ≤ 12) &&
        decide (6 ≤ fld v 8 5) && decide (fld v 8 5 ≤ 12) && fld v 22 16 != 0)))))

/-- NM engines take PDUs and their timers: repeat, timeout, wait and message timers move and send as R512 gives.
  Details that the rules leave open are the model's choice (log entry 38) (R508, R509, R510, R511, R512). -/
def Obligations.NetworkManagementRuns : Prop :=
    (∀ (e : Nat) (p : List SWord) (r : List (List SWord)) (m : Msg) (s u : State), s.up = true → e < 16 ∧ u =
        hwDrain e s ∧ gwyInbox u e = p :: r ∧ m = recordMsg u e (p.map (·.data)) → recordGood p = true ∧ nmTakes u e
        m.frame = true ∧ 2 ≤ m.frame.data.length → (nmReceive e m.frame.data (popRecord e u)).bit (nmReg e 0) 16 =
        false → exec (.nmPduReceived e) s = .next (nmReceive e m.frame.data (popRecord e u)))
    ∧ (∀ (e : Nat) (p : List SWord) (r : List (List SWord)) (m : Msg) (s u : State), s.up = true → e < 16 ∧ u =
        hwDrain e s ∧ gwyInbox u e = p :: r ∧ m = recordMsg u e (p.map (·.data)) → recordGood p = true ∧ nmTakes u e
        m.frame = true ∧ m.frame.data.length < 2 → (nmBad (popRecord e u)).bit (nmReg e 0) 16 = false → exec
        (.nmPduReceived e) s = .next (nmBad (popRecord e u)))
    ∧ (∀ (e : Nat) (s : State), s.up = true → e < 20 ∧ nmState s e = 3 → exec (.nmRepeatTimeout e) s = .next (setNm e
        (if nmRequested s e then 4 else 5) s))
    ∧ (∀ (e : Nat) (s : State), s.up = true → e < 20 ∧ nmState s e = 4 → exec (.nmTimeout e) s = .next (s.cnt (rg 10
        0x880C) 1))
    ∧ (∀ (e : Nat) (s : State), s.up = true → e < 20 ∧ nmState s e = 5 → exec (.nmTimeout e) s = .next (setNm e 2 s))
    ∧ (∀ (e : Nat) (s : State), s.up = true → e < 20 ∧ nmState s e = 2 → exec (.nmWaitTimeout e) s = .next ((setNm e 1
        s).sb (rg 10 0x8800) e true))
    ∧ (∀ (e : Nat) (s : State), s.up = true → e < 20 → (nmState s e = 3 ∨ nmState s e = 4) → exec (.nmMsgTimer e) s =
        .next (nmSend e 0 s))
    ∧ (∀ (m e : Nat) (v : Word) (s : State), (MayWrite s m 10 (if e < 16 then .bit e else .bit 26) = true) → nmFitted
        s e = true ∧ nmCfgOk v = true → (!nmEn s e && bitOf v 0 && !nmRegsOk s e v) = false → exec (.nmCfgWrite m e v)
        s = .next (nmEnable e (bitOf v 0) (if nmEn s e then s else s.wr (nmReg e 0) (setBit v 0 false))))

/-- The model's choices: the order in which blocks are given, and how far words move in a cycle (log entry 39). (R365,
  R366, R368, R369, R371, R372, R373, R377, R379, R380, R381, R382). -/
def Obligations.QuarryAndSprueFifos : Prop :=
    (∀ (ring slot : Nat) (c : Cmd) (s0 s : State), Admits (specOf opsQry 0x0B00) ring slot c s0 s = true → c.p 32 1
        ≤ 7 ∧ c.p 33 1 ≤ 3 ∧ c.zero 34 2 = true ∧ c.p 36 4 ≤ 65536 ∧ c.p 40 8 < 2 ^ 40 → ((c.p 33 1).testBit 0 = true
        → placeOk s (c.p 32 1) (c.p 40 8) (c.p 36 4) ((c.p 33 1).testBit 1) = true) → poolBusy s (c.p 32 1) = 0 → exec
        (.qryPoolCfg ring slot) s0 = .next (okReply c [] 0 (setPoolCfg (c.p 32 1) (c.p 40 8) (BitVec.ofNat 32 (c.p 36
        4 + c.p 33 1 * 2 ^ 24)) s)))
    ∧ (∀ (ring slot : Nat) (c : Cmd) (s0 s : State), Admits (specOf opsQry 0x0B01) ring slot c s0 s = true →
        (List.range 8).find? (fun p => decide (65536 < c.p (32 + 4 * p) 4)) = none → exec (.qryReqCfg ring slot) s0 =
        .next (okReply c [] 0 ((List.range 8).foldl (fun s p => s.wr (reqReg c.inst (4 * p)) (c.w (32 + 4 * p))) s)))
    ∧ (∀ (ring slot : Nat) (c : Cmd) (s0 s : State) (p0 p : Nat), Admits (specOf opsQry 0x0B02) ring slot c s0 s =
        true → allocate c.inst (c.p 32 4) s = .inl (p0, p) → exec (.qryAlloc ring slot) s0 = .next (okReply c (leBytes
        8 (takeBlock c.inst p0 p s).1 ++ leBytes 1 p ++ [0, 0, 0]) 0 (takeBlock c.inst p0 p s).2))
    ∧ (∀ (ring slot : Nat) (c : Cmd) (s0 s : State) (p k : Nat) (t : State), Admits (specOf opsQry 0x0B03) ring slot c
        s0 s = true → c.p 32 8 < 2 ^ 40 → blockAt s (c.p 32 8) = some (p, k) ∧ (pool s p).held.find? (fun e => e.1 ==
        k) = some (k, c.inst) → (t = setPool p (if poolZero s p then ⟨(pool s p).mark, (pool s p).freed, (pool s
        p).held.filter (fun e => e.1 != k), (pool s p).scrub ++ [k]⟩ else ⟨(pool s p).mark, (pool s p).freed ++ [k],
        (pool s p).held.filter (fun e => e.1 != k), (pool s p).scrub⟩) s) → exec (.qryFree ring slot) s0 = .next
        (okReply c [] 0 ((setUsed c.inst p (used s c.inst p - 1) t).cnt (rg 11 0x84) 1)))
    ∧ (∀ (ring slot : Nat) (c : Cmd) (s0 s : State), Admits (specOf opsQry 0x0B04) ring slot c s0 s = true → exec
        (.qryStatus ring slot) s0 = .next (okReply c ((List.range 8).flatMap (fun p => leBytes 4 (poolFree s p)) ++
        (takeCounters (regRun (rg 11 0x80) 9) s).1) 0 (takeCounters (regRun (rg 11 0x80) 9) s).2))
    ∧ (∀ (ring slot : Nat) (c : Cmd) (s0 s : State), Admits (specOf opsQry 0x0B10) ring slot c s0 s = true → 25 ≤
        c.inst ∧ c.inst < 48 ∧ c.p 32 1 ≤ 1 ∧ c.zero 35 1 = true ∧ c.p 33 1 ≤ 127 ∧ c.p 34 1 ≤ 127 → sprEn s c.inst =
        false → exec (.sprCfg ring slot) s0 = .next (okReply c [] 0 (s.wr (sprReg c.inst 0) (BitVec.ofNat 32 (c.p 32 1
        + c.p 33 1 * 256 + c.p 34 1 * 65536)))))
    ∧ (∀ (ring slot : Nat) (c : Cmd) (s0 s : State), Admits (specOf opsQry 0x0B10) ring slot c s0 s = true → 25 ≤
        c.inst ∧ c.inst < 48 ∧ c.p 32 1 = 0 ∧ c.zero 35 1 = true ∧ c.p 33 1 ≤ 127 ∧ c.p 34 1 ≤ 127 → sprEn s c.inst =
        true → exec (.sprCfg ring slot) s0 = .next (okReply c [] 0 (sprDisable c.inst s)))
    ∧ (∀ (m p : Nat) (v : Word) (s : State), MayWrite s m 11 (.bit 32) = true → p < 8 ∧ v &&& ~~~ 0x301FFFF#32 = 0 ∧
        fld v 16 0 ≤ 65536 ∧ poolEn s p = false → (bitOf v 24 = true → placeOk s p (poolBase s p) (fld v 16 0) (bitOf
        v 25) = true) → exec (.poolCfgWrite m p v) s = .next (setPoolCfg p (poolBase s p) v s))
    ∧ (∀ (m r p0 p : Nat) (t : State)  (s : State), MayRead s m 11 (.bit r) = true → r < 32 ∧ allocate r (s.f (reqReg
        r 0x40) 13 0) s = .inl (p0, p) → t = State.withQry (takeBlock r p0 p s).2 (fun q =>
        { q with allocHi := tput 0 q.allocHi (m * 32 + r) (BitVec.ofNat 32 ((takeBlock r p0 p s).1 / 2 ^ 32 % 256 + p * 256)) })
        → exec (.allocRead m r) s = .next (t.reply m [BitVec.ofNat 32 (takeBlock r p0 p s).1] false))
    ∧ (∀ (m r : Nat) (v : Word) (s : State), MayWrite s m 11 (.bit r) = true → r < 32 ∧ fld v 31 8 = 0 → exec
        (.freeCommit m r v) s = .next (free r (fld v 7 0 * 2 ^ 32 + (s.rd (reqReg r 0x4C)).toNat) s).2)
    ∧ (∀ (p k : Nat) (t : State) (s : State), s.up = true → p < 8 ∧ (pool s p).scrub.contains k = true → s.badByte
        0x28 (poolBase s p + k * poolSize p) (poolSize p) true = none → t = State.cnt (setPool p
        { pool s p with scrub := (pool s p).scrub.filter (· != k), freed := (pool s p).freed ++ [k] } (s.dmaPut 0x28
        (poolBase s p + k * poolSize p) (List.replicate (poolSize p) 0))) (rg 11 0xA0) 1 → exec (.scrubDone p k) s =
        .next t ∧ SameMem (poolBase s p + k * poolSize p) (poolSize p) s t)
    ∧ (∀ (p k y : Nat) (s : State), s.up = true → p < 8 ∧ (pool s p).scrub.contains k = true → s.badByte 0x28
        (poolBase s p + k * poolSize p) (poolSize p) true = some y → exec (.scrubDone p k) s = .next (s.accessFault
        0x28 y true))
    ∧ (∀ (m : Nat) (s : State), MayRead s m 11 .none = true → exec (.qryErrPop m) s = .next ((State.sf (s.withQry (fun
        q => { q with log := q.log.tail, latch := tput LogEntry.none q.latch m (q.log.headD LogEntry.none) })) (rg 11
        0x48) 3 0 s.qry.log.tail.length).reply m [(s.qry.log.headD LogEntry.none).lo] false))
    ∧ (∀ (m n : Nat) (s : State), MayWrite s m 11 (.bit (sprMask n)) = true → soft n = true ∧ sprProducer s n = m ∧
        sprEn s n = true → exec (.spruePushData m n) s = .next (sprPush n 0 s))
    ∧ (∀ (m n : Nat) (s : State), MayWrite s m 11 (.bit (sprMask n)) = true → soft n = true ∧ sprProducer s n = m ∧
        sprEn s n = true → exec (.spruePushEnd m n) s = .next (sprPush n 1 s))
    ∧ (∀ (m n : Nat) (s : State), MayWrite s m 11 (.bit (sprMask n)) = true → soft n = true ∧ sprProducer s n = m ∧
        sprEn s n = true → exec (.spruePushPoison m n) s = .next (sprPush n 3 s))
    ∧ (∀ (m n : Nat) (s : State), MayWrite s m 11 (.bit (sprMask n)) = true → soft n = true ∧ sprProducer s n = m ∧
        sprEn s n = true → (fifo s n).written ≠ 0 → exec (.sprueRewind m n) s = .next ((setFifo n (fifo s
        n).cycle.close s).cnt (sprReg n 0x2C) 1))
    ∧ (∀ (m n : Nat) (w : SWord) (r : List (Option SWord)) (s : State), MayRead s m 11 (.bit (sprMask n)) = true →
        soft n = true ∧ sprConsumer s n = m → (fifo s n).stages = some w :: r ∧ w.fails = false → exec (.spruePop m n
        false) s = .next ((setFifo n (Fifo.cycle
        { fifo s n with stages := none :: r, mid := !w.ends, failing := false }) ((s.wr (sprReg n 0x18) (BitVec.ofNat
        32 (w.data / 2 ^ 32))).wr (sprReg n 0x1C) (BitVec.ofNat 32 (w.tag + 4)))).reply m [BitVec.ofNat 32 w.data]
        false))
    ∧ (∀ (m n : Nat) (bad : Bool) (w : SWord) (r : List (Option SWord)) (s : State), MayRead s m 11 (.bit (sprMask n))
        = true → soft n = true ∧ sprConsumer s n = m → (fifo s n).stages = some w :: r ∧ (bad || w.fails) = true →
        exec (.spruePop m n bad) s = .next ((((setFifo n (Fifo.cycle
        { fifo s n with stages := none :: r, mid := false, failing := !w.ends }) ((s.wr (sprReg n 0x18) (BitVec.ofNat
        32 (w.data / 2 ^ 32))).wr (sprReg n 0x1C) 7)).cnt (sprReg n 0x24) 1).raise 11 2).reply m [BitVec.ofNat 32
        w.data] false))
    ∧ (∀ (m n : Nat) (s : State), MayWrite s m 11 (.bit (sprMask n)) = true → soft n = true ∧ sprConsumer s n = m →
        (fifo s n).mid = true ∧ (fifo s n).dropping = false → exec (.sprueDropRest m n) s = .next ((setFifo n
        (Fifo.cycle { fifo s n with dropping := true }) s).cnt (sprReg n 0x30) 1))

/-- The CRU opcodes load, unwrap, wrap and erase keys, each wrap counting a use, and an enabled alarm erases every
  user slot. Details that the rules leave open are the model's choice (log entry 40) (R390, R391, R392, R393, R394,
  R395, R409, R410, R413). -/
def Obligations.CrucibleKeysAndAlarms : Prop :=
    (∀ (ring slot : Nat) (c : Cmd) (s0 s : State), Admits (specOf opsCru 0x0C00) ring slot c s0 s = true → c.inst ≠
        0 ∧ 1 ≤ c.p 32 1 ∧ c.p 32 1 ≤ 3 ∧ c.zero 34 2 = true ∧ c.len = 12 + keyLen (c.p 32 1) → loadFail c.inst s =
        none → exec (.cruKeyLoad ring slot) s0 = .next (okReply c [] 0 (loadKey c.inst (c.p 32 1) (c.p 33 1) (c.p 36
        8) (c.payload.drop 12) s)))
    ∧ (∀ (ring slot : Nat) (c : Cmd) (s0 s : State), Admits (specOf opsCru 0x0C01) ring slot c s0 s = true → c.inst ≠
        0 ∧ c.zero 34 2 = true ∧ c.p 32 2 ≤ 1023 ∧ (s.aclEntry 12 c.issuer).mask.getLsbD (keyMaskBit (c.p 32 2)) =
        true → loadFail c.inst s = none → (keySlot s (c.p 32 2)).st ≠ 0 ∧ (keySlot s (c.p 32 2)).usage.testBit 4 =
        true ∧ (useKey (c.p 32 2) s).1 = true → exec (.cruKeyUnwrap ring slot) s0 = .next (((kwUnwrap (keySlot s (c.p
        32 2)).key (c.payload.drop 4)).bind blobForm).elim (completeFail c ⟨stIntegrity, 0x10B, noOffset, 0⟩
        (countCode 0x10B (useKey (c.p 32 2) s).2)) (fun b => okReply c [] 0 (loadKey c.inst b.1 b.2.1 b.2.2.1 b.2.2.2
        (useKey (c.p 32 2) s).2))))
    ∧ (∀ (ring slot : Nat) (c : Cmd) (s0 s : State), Admits (specOf opsCru 0x0C02) ring slot c s0 s = true → c.zero 34
        2 = true ∧ c.p 32 2 ≤ 1023 ∧ (s.aclEntry 12 c.issuer).mask.getLsbD (keyMaskBit (c.p 32 2)) = true → (keySlot s
        c.inst).st ≠ 0 ∧ (keySlot s c.inst).usage.testBit 6 = true → (keySlot s (c.p 32 2)).st ≠ 0 ∧ (keySlot s (c.p
        32 2)).usage.testBit 4 = true ∧ (useKey (c.p 32 2) s).1 = true → (kwWrap (keySlot s (c.p 32 2)).key ((leBytes
        1 1 ++ leBytes 1 (keySlot s c.inst).typ ++ leBytes 1 (keySlot s c.inst).usage ++ [0] ++ leBytes 8 (keySlot s
        c.inst).limit ++ [0, 0, 0, 0]) ++ (keySlot s c.inst).key)).length ≤ 224 → exec (.cruKeyWrap ring slot) s0 =
        .next (okReply c (kwWrap (keySlot s (c.p 32 2)).key ((leBytes 1 1 ++ leBytes 1 (keySlot s c.inst).typ ++
        leBytes 1 (keySlot s c.inst).usage ++ [0] ++ leBytes 8 (keySlot s c.inst).limit ++ [0, 0, 0, 0]) ++ (keySlot s
        c.inst).key)) 0 (useKey (c.p 32 2) s).2))
    ∧ (∀ (ring slot : Nat) (c : Cmd) (s0 s : State), Admits (specOf opsCru 0x0C03) ring slot c s0 s = true → c.inst ≠
        0 → keyHeld s c.inst = false → exec (.cruKeyErase ring slot) s0 = .next (okReply c [] 0 (eraseKey c.inst s)))
    ∧ (∀ (ring slot : Nat) (c : Cmd) (s0 s : State), Admits (specOf opsCru 0x0C03) ring slot c s0 s = true → c.inst ≠
        0 → keyHeld s c.inst = true → exec (.cruKeyErase ring slot) s0 = .next (markRunning c (eraseKey c.inst s)))
    ∧ (∀ (ring slot : Nat) (c : Cmd) (s0 s : State), Admits (specOf opsCru 0x0C04) ring slot c s0 s = true → exec
        (.cruKeyStatus ring slot) s0 = .next (okReply c (readRegs (regRun (rg 12 (0x8000 + c.inst * 0x20)) 5) s) 0 s))
    ∧ (∀ (ring slot : Nat) (c : Cmd) (s0 s : State), Admits (specOf opsCru 0x0C05) ring slot c s0 s = true → exec
        (.cruEraseAll ring slot) s0 = .next (okReply c [] 0 (cruAlarm 4 s)))
    ∧ (∀ (ring slot : Nat) (c : Cmd) (s0 s : State), Admits (specOf opsCru 0x0C06) ring slot c s0 s = true → exec
        (.cruCounters ring slot) s0 = .next (okReply c (takeCounters (regRun (rg 12 0x100) 6) s).1 0 (takeCounters
        (regRun (rg 12 0x100) 6) s).2))
    ∧ (∀ (src : Nat) (s : State), s.up = true → src < 5 → (src ≤ 1 ∨ s.bit (rg 12 0xC) src = true) → exec (.cruAlarm
        src) s = .next (cruErase src s))

/-- Job rings take doorbells and jobs: a core starts the job R408 picks, counting a key use, and completes the oldest
  job of a ring. Details that the rules leave open are the model's choice (log entries 40, 63 and 64) (R396, R397,
  R398, R399, R400, R402, R408, R411). -/
def Obligations.CrucibleJobs : Prop :=
    (∀ (m n : Nat) (v : Word) (s : State), MayWrite s m 12 (.bit n) = true → n < 16 ∧ gwyRing s n = false ∧ v &&&
        ~~~ 0x17F#32 = 0 ∧ s.bit (cruRing n 8) 0 = false → (bitOf v 0 = true → cruConfigOk (s.wr (cruRing n 8) v) n =
        true) → exec (.jobRingCtrlWrite m n v) s = .next (if bitOf v 0 then cruShow n (s.wr (cruRing n 8) v) else s.wr
        (cruRing n 8) v))
    ∧ (∀ (m n : Nat) (v : Word) (s : State), MayWrite s m 12 (.bit n) = true → n < 16 ∧ gwyRing s n = false ∧ v &&&
        ~~~ 0x17F#32 = 0 ∧ s.bit (cruRing n 8) 0 = true ∧ bitOf v 0 = false → exec (.jobRingCtrlWrite m n v) s = .next
        (cruShow n (s.sb (cruRing n 8) 0 false)))
    ∧ (∀ (m n : Nat) (v : Word) (s : State), MayWrite s m 12 (.bit n) = true → n < 16 ∧ gwyRing s n = false ∧ v &&&
        ~~~ 0x17F#32 = 0 ∧ s.bit (cruRing n 8) 0 = false ∧ bitOf v 0 = true → cruConfigOk (s.wr (cruRing n 8) v) n =
        false → exec (.jobRingCtrlWrite m n v) s = .next ((((s.wr (cruRing n 8) v).sb (cruRing n 8) 0 false).sb
        (cruRing n 0x20) 1 true).raise 12 3))
    ∧ (∀ (m n : Nat) (v : Word) (s : State), MayWrite s m 12 (.bit n) = true → n < 16 ∧ gwyRing s n = false ∧ v &&&
        ~~~ 0x17F#32 = 0 ∧ s.bit (cruRing n 8) 0 = true ∧ bitOf v 0 = true → exec (.jobRingCtrlWrite m n v) s = .next
        s)
    ∧ (∀ (m n : Nat) (v : Word) (s : State), MayWrite s m 12 (.bit n) = true → n < 16 ∧ gwyRing s n = false ∧ cruOwner
        s n = m ∧ v.toNat < cruSlots s n → (v.toNat + cruSlots s n - s.f (cruRing n 0x10) 15 0) % cruSlots s n ≤ (s.f
        (cruRing n 0x14) 15 0 + 2 * cruSlots s n - 1 - s.f (cruRing n 0x10) 15 0) % cruSlots s n → exec (.jobDoorbell
        m n v) s = .next (s.wr (cruRing n 0x10) v))
    ∧ (∀ (core n : Nat) (d : List Byte) (ch : Chain) (s u t v : State), s.up = true → coreFitted s core = true ∧
        (s.cru.jobs.filter (fun j => j.core == core)).length < 16 ∧ pickJobRing s core = some n ∧ n < 16 → u =
        s.withCru (fun c => { c with served := tput 16 c.served (s.f (cruRing n 8) 6 5) n }) → t = u.wr (cruRing n
        0x14) (BitVec.ofNat 32 ((u.f (cruRing n 0x14) 15 0 + 1) % cruSlots u n)) → readSlot u n = (d, none) → jobCheck
        (cruOwner u n) (jobOf d) t = .inl ch ∧ v = jobReads (cruOwner u n) (jobOf d) t ∧ (useKey (jobOf d).key v).1 =
        true → exec (.jobStart core) s = .next (cruShow n ((useKey (jobOf d).key v).2.withCru (fun r =>
        { r with jobs := r.jobs ++ [⟨n, u.f (cruRing n 0x14) 15 0, core, cruOwner u n, d, (keySlot v (jobOf d).key).key, ch, none⟩] }))))
    ∧ (∀ (core n : Nat) (d : List Byte) (e : JobFail) (s u t : State), s.up = true → coreFitted s core = true ∧
        (s.cru.jobs.filter (fun j => j.core == core)).length < 16 ∧ pickJobRing s core = some n ∧ n < 16 → u =
        s.withCru (fun c => { c with served := tput 16 c.served (s.f (cruRing n 8) 6 5) n }) → t = u.wr (cruRing n
        0x14) (BitVec.ofNat 32 ((u.f (cruRing n 0x14) 15 0 + 1) % cruSlots u n)) → readSlot u n = (d, none) →
        (jobCheck (cruOwner u n) (jobOf d) t = .inr e ∧ e.refused = none ∧ (e.code < 0x107 ∨ 0x109 < e.code)) → exec
        (.jobStart core) s = .next (cruShow n (t.withCru (fun r =>
        { r with jobs := r.jobs ++ [⟨n, u.f (cruRing n 0x14) 15 0, core, cruOwner u n, d, [], Chain.zero, some (e.status, e.code)⟩] }))))
    ∧ (∀ (core n x : Nat) (d : List Byte) (s u t : State), s.up = true → coreFitted s core = true ∧ (s.cru.jobs.filter
        (fun j => j.core == core)).length < 16 ∧ pickJobRing s core = some n ∧ n < 16 → u = s.withCru (fun c =>
        { c with served := tput 16 c.served (s.f (cruRing n 8) 6 5) n }) → t = u.wr (cruRing n 0x14) (BitVec.ofNat 32
        ((u.f (cruRing n 0x14) 15 0 + 1) % cruSlots u n)) → readSlot u n = (d, some x) → exec (.jobStart core) s =
        .next (cruShow n ((cruRefuse (cruOwner u n) x false t).withCru (fun r =>
        { r with jobs := r.jobs ++ [⟨n, u.f (cruRing n 0x14) 15 0, core, cruOwner u n, d, [], Chain.zero, some (stAborted, 0x14)⟩] }))))
    ∧ (∀ (core : Nat) (s : State), s.up = true → coreFitted s core = true ∧ (s.cru.jobs.filter (fun j => j.core ==
        core)).length < 16 ∧ pickJobRing s core = some 16 → exec (.jobStart core) s = .next (doShared (s.withCru (fun
        c => { c with served := tput 16 c.served (s.f (rg 12 4) 1 0) 16 }))))
    ∧ (∀ (ring : Nat) (x : Job) (e : Nat × Nat) (s : State), s.up = true → s.cru.jobs.find? (fun j => j.ring == ring)
        = some x ∧ x.failed = some e → exec (.jobComplete ring) s = .next (endErases (endJob x e.1 e.2 0 s)))
    ∧ (∀ (ring : Nat) (x : Job) (j : JobSpec) (len : Nat) (b : List Byte) (s : State), s.up = true → s.cru.jobs.find?
        (fun j => j.ring == ring) = some x ∧ x.failed = none → j = jobOf x.slot ∧ len = jobInput j → cruBad s x.owner
        j.src len false = none ∧ b = cruBytes s x.owner j.src len → exec (.jobComplete ring) s = .next (endErases (if
        6 ≤ j.mode then runWrap x j (slice b j.aadLen j.dataLen) (cruRead x.owner j.src len s) else runCipher x j
        (b.take j.aadLen) (slice b j.aadLen j.dataLen) (b.drop (j.aadLen + j.dataLen)) (cruRead x.owner j.src len
        s))))
    ∧ (∀ (ring y : Nat) (x : Job) (j : JobSpec) (s : State), s.up = true → s.cru.jobs.find? (fun j => j.ring == ring)
        = some x ∧ x.failed = none → j = jobOf x.slot → cruBad s x.owner j.src (jobInput j) false = some y → exec
        (.jobComplete ring) s = .next (endErases (endJob x stAborted 0x14 0 (cruRefuse x.owner y false s))))

/-- Safety domains fault, check, halt, split, join and restart, activation timers fire, and output ports queue and
  send messages. Details that the rules leave open are the model's choice (log entries 21, 41 and 65) (R428, R429,
  R430, R431, R432, R434, R437, R439, R442, R443, R444, R446). -/
def Obligations.LockstepDomainsAndPorts : Prop :=
    (∀ (d iface : Nat) (pc : Word) (s : State), s.up = true → d < 2 ∧ iface < 4 → (domState s d = 1 ∨ domState s d =
        2 ∨ domState s d = 4) → exec (.lockstepMismatch d iface pc) s = .next (domFault d (if (dom s d).inject then 3
        else 1) iface pc s))
    ∧ (∀ (d : Nat) (s : State), s.up = true → d < 2 ∧ domState s d = 0 ∧ (dom s d).resetting = true → exec
        (.faultResetTimeout d) s = .next (domHeld d s))
    ∧ (∀ (d : Nat) (cope drag : List Word) (s : State), s.up = true ∧ copiesOk cope drag = true → d < 2 → (domState s
        d = 1 ∨ domState s d = 2) → exec (.syncCheckPeriodic d cope drag) s = .next (syncCheck d cope drag s).2)
    ∧ (∀ (d : Nat) (s : State), s.up = true → d < 2 ∧ s.sys.debug = true ∧ dbgEn s d = true → (domState s d = 1 ∨
        domState s d = 2) → exec (.debugHalt d) s = .next (debugStop d s))
    ∧ (∀ (d : Nat) (cope drag : List Word) (s : State), s.up = true ∧ copiesOk cope drag = true → d < 2 ∧ domState s d
        = 4 ∧ s.sys.debug = true ∧ dbgEn s d = true → ((syncCheck d cope drag (setDom d 1 s)).1 && (dom s
        d).dcsr.testBit 2) = false → exec (.debugResume d cope drag) s = .next (syncCheck d cope drag (setDom d 1
        s)).2)
    ∧ (∀ (d : Nat) (cope drag : List Word) (s : State), s.up = true ∧ copiesOk cope drag = true → d < 2 ∧ domState s d
        = 4 ∧ s.sys.debug = true ∧ dbgEn s d = true → ((syncCheck d cope drag (setDom d 1 s)).1 && (dom s
        d).dcsr.testBit 2) = true → exec (.debugResume d cope drag) s = .next (setDom d 4 (copiesStop d 4 (syncCheck d
        cope drag (setDom d 1 s)).2)))
    ∧ (∀ (d k : Nat) (s t : State), s.up = true → d < 2 ∧ k < 8 ∧ s.bit (actReg d k 0) 0 = true ∧ actNext s d k ≤
        s.now → (t = if s.bit (domReg d 0x44) (24 + k) then (s.cnt (domReg d 0x2C) 1).raise 13 (4 + d) else s.sb
        (domReg d 0x44) (24 + k) true) → exec (.activation d k) s = .next (if actPeriod t d k = 0 then actEnable d k
        false t else setActNext d k (actNext s d k + actPeriod t d k) t))
    ∧ (∀ (m d kind n : Nat) (v : Word) (body : List Word) (s : State), s.up = true → d < 2 ∧ domainOf m = some d ∧
        domReach s m = true ∧ MayWrite s m 13 (.bit d) = true → v &&& ~~~ 0x1F03#32 = 0 ∧ kind = fld v 1 0 ∧ n = fld v
        12 8 ∧ n ≤ 18 ∧ kind ≠ 3 → body = (List.range n).map (fun i => s.rd (domReg d (0x800 + 4 * i))) ∧ bodyForm
        kind body = true → portState s d = 2 → exec (.oSend m d v) s = .next (portSend d (oFrame d (portSeq s d) kind
        body) s))
    ∧ (∀ (m d : Nat) (s : State), d < 2 ∧ domainOf m = some d ∧ domReach s m = true ∧ MayWrite s m 13 (.bit d) = true
        → portState s d = 1 → exec (.oCtrlGo m d) s = .next (setPort d 2 s))
    ∧ (∀ (m d : Nat) (s : State), d < 2 ∧ domainOf m = some d ∧ domReach s m = true ∧ MayWrite s m 13 (.bit d) = true
        → portState s d = 3 ∧ portMirror s d = true → exec (.oCtrlRejoin m d) s = .next (setPort d 1 s))
    ∧ (∀ (d : Nat) (s t u : State), s.up = true → d < 2 ∧ domState s d ≠ 0 ∧ domState s d ≠ 3 ∧ (dom s d).inject =
        false → t = portStatus d s → u = ((t.wr (domReg (1 - d) 0x890) (BitVec.ofNat 32 (portSeq t d))).sb (domReg (1
        - d) 0x888) 2 true).sb (domReg (1 - d) 0x888) 3 (!faultLine (t.wr (domReg (1 - d) 0x890) (BitVec.ofNat 32
        (portSeq t d))) d) → exec (.statusFrameSend d false) s = .next u)
    ∧ (∀ (s t : State), s.up = true → faultLine s 0 = false → t = ((s.sb (domReg 1 0x888) 2 false).sb (domReg 1 0x888)
        3 false).cnt (domReg 1 0x8A0) 1 → (portState t 1 = 1 ∨ portState t 1 = 2) → exec (.mirrorLost 1) s = .next
        (setPort 1 3 (setPortQueue 1 ((dom t 1).queue.filter (fun f => f.kind == 0 || f.kind == 3)) t)))
    ∧ (∀ (ring slot : Nat) (c : Cmd) (s0 s : State), Admits (specOf opsLsc 0x0D00) ring slot c s0 s = true → exec
        (.lscStatus ring slot) s0 = .next (okReply c (readRegs [domReg c.inst 0, domReg c.inst 0xC, domReg c.inst
        0x10, domReg c.inst 0x14] s) 0 s))
    ∧ (∀ (ring slot : Nat) (c : Cmd) (s0 s : State), Admits (specOf opsLsc 0x0D01) ring slot c s0 s = true → c.w 32
        &&& ~~~ 0x3FF0F#32 = 0 ∧ syncMsOk (c.w 32) = true ∧ splitPcOk c.inst (c.p 36 4) = true → (bitOf (s.rd (domReg
        c.inst 4)) 2 = true → bitOf (s.rd (domReg c.inst 4)) 1 = bitOf (c.w 32) 1) → exec (.lscSetCfg ring slot) s0 =
        .next (okReply c [] 0 ((s.wr (domReg c.inst 4) (dcfgWrite (s.rd (domReg c.inst 4)) (c.w 32))).wr (domReg
        c.inst 8) (c.w 36))))
    ∧ (∀ (ring slot : Nat) (c : Cmd) (cope drag : List Word) (s0 s : State), Admits (specOf opsLsc 0x0D02) ring slot c
        s0 s = true → copiesOk cope drag = true ∧ domState s c.inst = 1 ∧ c.issuer = 0x10 + 2 * c.inst → (syncCheck
        c.inst cope drag s).1 = true → exec (.lscRelease ring slot cope drag) s0 = .next (okReply c [] 0 (setDom
        c.inst 2 (syncCheck c.inst cope drag s).2)))
    ∧ (∀ (ring slot : Nat) (c : Cmd) (cope drag : List Word) (s0 s : State), Admits (specOf opsLsc 0x0D03) ring slot c
        s0 s = true → copiesOk cope drag = true → (domState s c.inst = 1 ∨ domState s c.inst = 2) → (syncCheck c.inst
        cope drag s).1 = true → exec (.lscSyncCheck ring slot cope drag) s0 = .next (okReply c (leBytes 4 (syncHash
        cope).toNat) 0 (syncCheck c.inst cope drag s).2))
    ∧ (∀ (ring slot : Nat) (c : Cmd) (s0 s : State), Admits (specOf opsLsc 0x0D04) ring slot c s0 s = true → domState
        s (1 - c.inst) = 2 ∧ s.bit (domReg c.inst 4) 3 = true → (domState s c.inst = 1 ∨ domState s c.inst = 2) → exec
        (.lscSplit ring (slot, none)) s0 = .next (okReply c [] 0 (splitCore c.inst (setDom c.inst 5 s))))
    ∧ (∀ (ring slot : Nat) (c : Cmd) (cope drag : List Word) (s0 s : State), Admits (specOf opsLsc 0x0D05) ring slot c
        s0 s = true → copiesOk cope drag = true ∧ domState s c.inst = 5 → (syncCheck c.inst cope drag (setCopies
        c.inst (dom s c.inst).cope (dom s c.inst).cope s)).1 = true → exec (.lscJoin ring slot cope drag) s0 = .next
        (okReply c [] 0 (setDom c.inst 1 (syncCheck c.inst cope drag (setCopies c.inst (dom s c.inst).cope (dom s
        c.inst).cope s)).2)))
    ∧ (∀ (ring slot : Nat) (c : Cmd) (s0 s : State), Admits (specOf opsLsc 0x0D06) ring slot c s0 s = true → domState
        s c.inst ≠ 0 → exec (.lscRestart ring slot) s0 = .next (markRunning c (setDom c.inst 0 (setDomInfo c.inst
        { dom s c.inst with resetting := true, inject := false } s))))
    ∧ (∀ (ring slot : Nat) (c : Cmd) (s0 s : State), Admits (specOf opsLsc 0x0D07) ring slot c s0 s = true → domState
        s (1 - c.inst) = 2 → (domState s c.inst = 1 ∨ domState s c.inst = 2) → exec (.lscInject ring slot) s0 = .next
        (markRunning c (setDomInfo c.inst { dom s c.inst with inject := true } s)))
    ∧ (∀ (ring slot : Nat) (c : Cmd) (s0 s : State), Admits (specOf opsLsc 0x0D08) ring slot c s0 s = true → c.p 32 1
        ≤ 7 ∧ c.p 33 1 ≤ 1 ∧ c.zero 34 2 = true ∧ c.timeForm 36 = true ∧ c.timeNs 36 ≤ 999999999 ∧ actPeriodOk (c.p 48
        4) = true → s.bit (actReg c.inst (c.p 32 1) 0) 0 = false → exec (.lscActCfg ring slot) s0 = .next (okReply c
        [] 0 (actEnable c.inst (c.p 32 1) (c.p 33 1 == 1) ((((s.wr (actReg c.inst (c.p 32 1) 0) (BitVec.ofNat 32 (c.p
        44 2 * 65536))).wr (actReg c.inst (c.p 32 1) 4) (c.w 36)).wr (actReg c.inst (c.p 32 1) 8) (c.w 40)).wr (actReg
        c.inst (c.p 32 1) 0xC) (c.w 48)))))
    ∧ (∀ (ring slot : Nat) (c : Cmd) (s0 s : State), Admits (specOf opsLsc 0x0D08) ring slot c s0 s = true → c.p 32 1
        ≤ 7 ∧ c.p 33 1 = 0 ∧ c.zero 34 2 = true ∧ c.timeForm 36 = true ∧ c.timeNs 36 ≤ 999999999 ∧ actPeriodOk (c.p 48
        4) = true → s.bit (actReg c.inst (c.p 32 1) 0) 0 = true → exec (.lscActCfg ring slot) s0 = .next (okReply c []
        0 (actEnable c.inst (c.p 32 1) false s)))

/-- Fault lines, links, hold-off, swap tests and copies drive the output receiver, which accepts a copy, drops a
  repeat and records safety CAN. Details that the rules leave open are the model's choice (log entry 42) (R448, R449,
  R450, R451, R452, R453, R455, R456, R457, R459, R463, R464). -/
def Obligations.OutputReceiverEvents : Prop :=
    (∀ (wire : Bool) (s : State), s.sys.phase ≠ .off → (wire || faultLine s 0) = true ∧ ordLine s 0 = false → exec
        (.faultLineChange 0 wire) s = .next (chargeUpdate (endSwap 3 (setOrdBit 2 false (setOrdBit 5 true s)))))
    ∧ (∀ (wire : Bool) (s : State), s.sys.phase ≠ .off → (wire || faultLine s 1) = true ∧ ordLine s 1 = false → exec
        (.faultLineChange 1 wire) s = .next (chargeUpdate (endSwap 4 (setOrdBit 6 true s))))
    ∧ (∀ (s t : State), s.sys.phase ≠ .off → faultLine s 0 = false ∧ ordLine s 0 = true → t = setOrdBit 5 false s ∧
        ordCharge t = 2 → exec (.faultLineChange 0 false) s = .next (chargeUpdate (startHoldoff t)))
    ∧ (∀ (l : Nat) (s t : State), s.sys.phase ≠ .off → l < 2 ∧ ordUp s l = true → t = setOrdBit (7 + l) false s → exec
        (.ordLinkTimeout l) s = .next (chargeUpdate (endSwap 5 (if ordLine t l then t else t.raise 14 4))))
    ∧ (∀ (s : State), s.sys.phase ≠ .off → ordHoldoff s = true ∧ s.bit (ordReg 0) 26 = true → exec .holdoffExpiry s =
        .next (chargeUpdate (ordCount 0x134 (setOrdBit 2 false s))))
    ∧ (∀ (s : State), s.sys.phase ≠ .off → ordSwap s = true → exec .swapTestEnd s = .next (becomeFirst 0 (((setOrdBit
        3 false s).wr (ordReg 0xC) 0x10000).raise 14 8)))
    ∧ (∀ (l : Nat) (f : OFrame) (s : State), s.sys.phase ≠ .off → onAir s l = some f → exec (.copyArrival l true) s =
        .next (ordCount 0x120 (portPump l (setAir l none s))))
    ∧ (∀ (l : Nat) (f : OFrame) (s : State), s.sys.phase ≠ .off → onAir s l = some f ∧ f.valid = false → exec
        (.copyArrival l false) s = .next (ordCount 0x120 (portPump l (setAir l none s))))
    ∧ (∀ (l : Nat) (f : OFrame) (s : State), s.sys.phase ≠ .off → onAir s l = some f ∧ f.valid = true ∧ f.isStatus =
        true → exec (.copyArrival l false) s = .next (ordStatusFrame l (f.body.headD 0) (portPump l (setAir l none
        s))))
    ∧ (∀ (l w : Nat) (f : OFrame) (s t : State), s.sys.phase ≠ .off → onAir s l = some f ∧ f.valid = true ∧ f.isStatus
        = false → (t = portPump l (setAir l none s) ∧ w = if l = firstLink t ∨ f.kind = 3 then 1 else 1 + 20 * t.f
        (ordReg 0) 9 0) → (ordStage t l).length < 64 → exec (.copyArrival l false) s = .next (setOrdStage l (ordStage
        t l ++ [⟨f, w⟩]) t))
    ∧ (∀ (l : Nat) (f : OFrame) (s t : State), s.sys.phase ≠ .off → onAir s l = some f ∧ f.valid = true ∧ f.isStatus =
        false → t = portPump l (setAir l none s) → 64 ≤ (ordStage t l).length → exec (.copyArrival l false) s = .next
        ((ordCount 0x124 t).raise 14 9))
    ∧ (∀ (l i : Nat) (x : OCopy) (s t u v : State), s.sys.phase ≠ .off → (ordStage s l)[i]? = some x ∧ ((ordStage s
        l).take i).all (fun y => decide (x.wait < y.wait)) = true → t = setOrdStage l ((ordStage s l).eraseIdx i) s →
        x.frame.kind ≠ 3 ∧ admitted t l = true → (ordAnchored t = false ∨ (1 ≤ (x.frame.seq + 65536 - ordH t) % 65536
        ∧ (x.frame.seq + 65536 - ordH t) % 65536 ≤ 64)) → u = ordCount (0x100 + 4 * l) (setH x.frame.seq t) → v =
        u.withOrd (fun o => { o with seen := (x.frame.seq :: o.seen).take 64 }) → exec (.copyJudge l i) s = .next (if
        ordCharge t = 0 then v else if x.frame.kind = 1 then lchPass x.frame.body v else holdRecord x.frame v))
    ∧ (∀ (l i : Nat) (x : OCopy) (s t : State), s.sys.phase ≠ .off → (ordStage s l)[i]? = some x ∧ ((ordStage s
        l).take i).all (fun y => decide (x.wait < y.wait)) = true → t = setOrdStage l ((ordStage s l).eraseIdx i) s →
        x.frame.kind ≠ 3 ∧ admitted t l = true ∧ ordAnchored t = true ∧ t.ord.seen.contains x.frame.seq = true →
        ((x.frame.seq + 65536 - ordH t) % 65536 = 0 ∨ 32768 ≤ (x.frame.seq + 65536 - ordH t) % 65536) → exec
        (.copyJudge l i) s = .next (ordCount (0x108 + 4 * l) t))
    ∧ (∀ (l i : Nat) (x : OCopy) (s t : State), s.sys.phase ≠ .off → (ordStage s l)[i]? = some x ∧ ((ordStage s
        l).take i).all (fun y => decide (x.wait < y.wait)) = true → t = setOrdStage l ((ordStage s l).eraseIdx i) s →
        x.frame.kind = 3 → exec (.copyJudge l i) s = .next (ordClaim l x.frame t))
    ∧ (∀ (r : List Nat) (rest : List (List Nat)) (s : State), s.up = true → (hwDrain 24 s).ord.records = r :: rest ∧
        hwFrames (hwDrain 24 s) 24 = 0 → exec .canRecordWrite s = .next (hwQueue 24 r ((hwDrain 24 s).withOrd (fun o
        => { o with records := rest }))))

/-- The output receiver's opcodes set CFG, report, begin and cancel a swap test and take the counters; a swap test
  begins as R463 says. Details that the rules leave open are the model's choice (log entry 42) (R463, R465, R466,
  R467). -/
def Obligations.OutputReceiverOpcodes : Prop :=
    (∀ (ring slot : Nat) (c : Cmd) (s0 s : State), Admits (specOf opsOrd 0x0E00) ring slot c s0 s = true → c.w 32
        &&& ~~~ 0x7FFF3FF#32 = 0 ∧ ordCfgOk (c.w 32) = true ∧ ordSwap s = false → exec (.ordSetCfg ring slot) s0 =
        .next (okReply c [] 0 (s.wr (ordReg 0) (c.w 32))))
    ∧ (∀ (ring slot : Nat) (c : Cmd) (s0 s : State), Admits (specOf opsOrd 0x0E01) ring slot c s0 s = true → exec
        (.ordStatus ring slot) s0 = .next (okReply c (readRegs [ordReg 4] s ++ leBytes 4 (holdoffLeft s) ++ leBytes 4
        (swapInfo s).toNat) 0 s))
    ∧ (∀ (ring slot : Nat) (c : Cmd) (s0 s : State), Admits (specOf opsOrd 0x0E02) ring slot c s0 s = true → c.p 32 2
        ≠ 0 ∧ c.p 32 2 ≤ 60000 ∧ c.zero 34 2 = true → ordCharge s = 1 ∧ ordLine s 0 = false ∧ ordLine s 1 = false ∧
        ordUp s 0 = true ∧ ordUp s 1 = true ∧ ordHoldoff s = false ∧ bIsolated s = false ∧ ordSwap s = false → exec
        (.ordSwapTest ring slot) s0 = .next (okReply c [] 0 (becomeFirst 1 (((setOrdBit 3 true s).wr (ordReg 0xC)
        0).withOrd (fun o => { o with swapStart := s.sys.ticks, swapMs := c.p 32 2 })))))
    ∧ (∀ (ring slot : Nat) (c : Cmd) (s0 s : State), Admits (specOf opsOrd 0x0E02) ring slot c s0 s = true → c.p 32 2
        ≠ 0 ∧ c.p 32 2 ≤ 60000 ∧ c.zero 34 2 = true → ¬ (ordCharge s = 1 ∧ ordLine s 0 = false ∧ ordLine s 1 = false ∧
        ordUp s 0 = true ∧ ordUp s 1 = true ∧ ordHoldoff s = false ∧ bIsolated s = false ∧ ordSwap s = false) → exec
        (.ordSwapTest ring slot) s0 = .next (completeFail c ⟨stWrongState, 0x100, noOffset, (s.rd (ordReg 4)).toNat⟩
        s))
    ∧ (∀ (ring slot : Nat) (c : Cmd) (s0 s : State), Admits (specOf opsOrd 0x0E03) ring slot c s0 s = true → ordSwap s
        = true → exec (.ordSwapCancel ring slot) s0 = .next (okReply c [] 0 (becomeFirst 0 (((setOrdBit 3 false s).wr
        (ordReg 0xC) 0x20000).raise 14 8))))
    ∧ (∀ (ring slot : Nat) (c : Cmd) (s0 s : State), Admits (specOf opsOrd 0x0E04) ring slot c s0 s = true → exec
        (.ordCounters ring slot) s0 = .next (okReply c (takeCounters (regRun (ordReg 0x100) 15) s).1 0 (takeCounters
        (regRun (ordReg 0x100) 15) s).2))

/-- Commands, the HOLD window, PWM edges and the protection events change a load channel as the rules say. Details
  that the rules leave open are the model's choice (log entries 43 and 66) (R474, R475, R476, R478, R479, R483, R484,
  R486, R487, R488, R489, R493). -/
def Obligations.LoadChannelEvents : Prop :=
    (∀ (b : List Word) (r : List (List Word)) (s t : State), s.sys.phase ≠ .off → s.lch.passed = b :: r ∧ t =
        s.withLch (fun l => { l with passed := r }) → cmdOp b = 0 ∧ cmdReason t b = 0 → exec .channelSet s = .next (if
        cmdTarget b = 2 then setPwm (cmdCh b) (fld (b.getD 1 0) 13 0) (fld (b.getD 2 0) 24 0) (named (cmdCh b)
        (cmdApplied t)) else cmdMode (cmdCh b) (cmdTarget b) (cmdApplied t)))
    ∧ (∀ (b : List Word) (r : List (List Word)) (s t : State), s.sys.phase ≠ .off → s.lch.passed = b :: r ∧ t =
        s.withLch (fun l => { l with passed := r }) → (cmdOp b = 0 ∨ cmdOp b = 3) → cmdReason t b ≠ 0 → exec
        .channelSet s = .next (cmdReject (b.headD 0) (cmdReason t b) t))
    ∧ (∀ (b : List Word) (r : List (List Word)) (mask value : Nat) (s t u : State), s.sys.phase ≠ .off → s.lch.passed
        = b :: r ∧ t = cmdApplied (s.withLch (fun l => { l with passed := r })) → cmdOp b = 1 ∧ cmdReason (s.withLch
        (fun l => { l with passed := r })) b = 0 → mask = (b.getD 1 0).toNat + fld (b.getD 2 0) 7 0 * 2 ^ 32 ∧ value =
        (b.getD 3 0).toNat + fld (b.getD 2 0) 15 8 * 2 ^ 32 → (u = if (bitsOf mask 40).all (chFitted t) then t else
        (t.cnt (lchReg 0x108) 1).raise 15 9) → exec .channelMask s = .next (((bitsOf mask 40).filter (chFitted
        u)).foldl (fun s c => cmdMode c (b2n (value.testBit c)) s) u))
    ∧ (∀ (b : List Word) (r : List (List Word)) (c : Nat) (s t : State), s.sys.phase ≠ .off → s.lch.passed = b :: r ∧
        cmdOp b = 2 ∧ cmdReason (s.withLch (fun l => { l with passed := r })) b = 0 → c = cmdCh b ∧ t = setRestarts c
        0 (named c (cmdApplied (s.withLch (fun l => { l with passed := r })))) → chProt t c ≠ 3 → exec .channelClear s
        = .next t)
    ∧ (∀ (b : List Word) (r : List (List Word)) (c : Nat) (s t u : State), s.sys.phase ≠ .off → s.lch.passed = b :: r
        ∧ cmdOp b = 2 ∧ cmdReason (s.withLch (fun l => { l with passed := r })) b = 0 → c = cmdCh b ∧ t = setRestarts
        c 0 (named c (cmdApplied (s.withLch (fun l => { l with passed := r })))) → chProt t c = 3 → (u = liveFlag c 7
        false (liveFlag c 6 false (t.sf (chReg c 0x10) 2 0 (if live t c 5 then 2 else 0)))) → exec .channelClear s =
        .next (showChan c (profileResume c (setChan c { chan u c with left := 0 } u))))
    ∧ (∀ (s : State), s.sys.phase ≠ .off → holdRuns s = true → exec .holdExpiry s = .next ((List.range 40).foldl (fun
        s c => if chFitted s c && (chSource s c == 0 || chSource s c == 2) then takeFailsafe c s else s) (((s.sb
        (lchReg 8) 0 false).cnt (lchReg 0x110) 1).raise 15 8)))
    ∧ (∀ (m : Nat) (v : Word) (s t : State), MayWrite s m 15 (.bit 42) = true → v &&& ~~~ 0x7FF0001#32 = 0 ∧ 10 ≤ fld
        v 26 16 ∧ fld v 26 16 ≤ 2000 → t = s.sf (lchReg 4) 26 16 (fld v 26 16) → exec (.armWrite m v) s = .next (if
        bitOf v 0 = true ∧ t.bit (lchReg 4) 0 = false then if (t.sb (lchReg 4) 0 true).f (rg 14 4) 1 0 = 0 ∧ holdRuns
        (t.sb (lchReg 4) 0 true) = false then holdStart (t.sb (lchReg 4) 0 true) else t.sb (lchReg 4) 0 true else t))
    ∧ (∀ (k v1 v2 : Nat) (s : State), s.sys.phase ≠ .off → k < 8 ∧ tbPeriod s k ≠ 0 ∧ tget 0 s.lch.tbNext k ≤ lchNow s
        → exec (.pwmPeriodStart k v1 v2) s = .next ((List.range 40).foldl (fun s c => if chMode s c = 2 ∧ chTb s c = k
        then s.sf (chReg c 0x18) 13 0 (chDutyEff c s) else s) (s.withLch (fun l =>
        { l with tbNext := tput 0 l.tbNext k (tget 0 s.lch.tbNext k + tbPeriod s k), avg := tput (0, 0) l.avg k (v1, v2) }))))
    ∧ (∀ (c on : Nat) (s t : State), s.sys.phase ≠ .off → c < 40 ∧ chMode s c = 2 ∧ tbPeriod s (chTb s c) ≠ 0 ∧ (chan
        s c).next ≤ lchNow s → on = onTime (tbPeriod s (chTb s c)) (chDutyEff c s) → t = setChan c
        { chan s c with next := (chan s c).next + tbPeriod s (chTb s c), ends := if on = 0 then (chan s c).ends else (chan s c).ends ++ [(chan s c).next + on], on := on }
        (s.sf (chReg c 0x18) 13 0 (chDutyEff c s)) → exec (.pwmEdge c true) s = .next (showChan c (if (chan s
        c).starting && chConducts t c then inrushBegin c t else t)))
    ∧ (∀ (c x : Nat) (r : List Nat) (s : State), s.sys.phase ≠ .off → c < 40 ∧ chMode s c = 2 ∧ tbPeriod s (chTb s c)
        ≠ 0 ∧ (chan s c).ends = x :: r ∧ x ≤ lchNow s → exec (.pwmEdge c false) s = .next (showChan c (setChan c
        { chan s c with ends := r } s)))
    ∧ (∀ (c : Nat) (s : State), s.sys.phase ≠ .off → c < 40 ∧ s.bit (chReg c 0x10) 5 = true → exec (.inrushEnd c) s =
        .next (s.sb (chReg c 0x10) 5 false))
    ∧ (∀ (c : Nat) (low : Bool) (s u v : State), s.sys.phase ≠ .off → c < 40 ∧ u = stopUndo c s ∧ chConducts u c =
        true → (low = false ∨ (chan s c).since + fld (chan s c).prof1 25 16 * 500 ≤ s.sys.ticks) → (v = if u.bit
        (lchReg 0x10) (chRail c) then liveFlag c 5 true u else u) → exec (.shortDetect (c, low)) s = .next (chEvent c
        0 ((liveFlag c 6 true (showChan c (stopOutput c (v.sf (chReg c 0x10) 2 0 3)))).cnt (chReg c 0x20) 1)))
    ∧ (∀ (c : Nat) (s : State), s.sys.phase ≠ .off → s.sys.ticks < (chan s c).since + fld (chan s c).prof1 25 16 * 500
        → exec (.shortDetect (c, true)) s = .next s)
    ∧ (∀ (c : Nat) (s : State), s.sys.phase ≠ .off → c < 40 ∧ chConducts s c = true ∧ s.bit (chReg c 0x10) 5 = false →
        exec (.ocWarn c) s = .next (chEvent c 4 ((liveFlag c 1 true s).cnt (chReg c 0x2C) 1)))
    ∧ (∀ (c dT : Nat) (hot : Bool) (s t u : State), s.sys.phase ≠ .off → c < 40 ∧ t = s.sf (chReg c 0x18) 23 16 (min
        dT 255) → (chConducts t c = true ∧ (dtLimit t c ≤ dT ∨ hot = true) ∧ chRestarts t c < 8) → u = (stopMark c 1
        t).cnt (chReg c 0x24) 1 → exec (.thermalTrip c dT hot) s = .next (chEvent c 1 (liveFlag c 4 true (setProt c 1
        (setRestarts c (chRestarts u c + 1) u)))))
    ∧ (∀ (c dT : Nat) (hot : Bool) (s t u : State), s.sys.phase ≠ .off → c < 40 ∧ t = s.sf (chReg c 0x18) 23 16 (min
        dT 255) → (chConducts t c = true ∧ (dtLimit t c ≤ dT ∨ hot = true) ∧ 8 ≤ chRestarts t c) → u = (stopMark c 2
        t).cnt (chReg c 0x24) 1 → exec (.thermalTrip c dT hot) s = .next (chEvent c 2 (liveFlag c 7 true (setProt c 3
        u))))
    ∧ (∀ (c dT : Nat) (s t : State), s.sys.phase ≠ .off → c < 40 ∧ t = s.sf (chReg c 0x18) 23 16 (min dT 255) → chProt
        t c = 1 ∧ dT + 10 ≤ dtLimit t c → exec (.thermalReady c dT) s = .next (showChan c (profileResume c (liveFlag c
        4 false (t.sf (chReg c 0x10) 2 0 0)))))
    ∧ (∀ (c : Nat) (s : State), s.sys.phase ≠ .off → c < 40 ∧ chProt s c = 0 → exec (.restartsClear c) s = .next (s.sf
        (chReg c 0x10) 11 8 0))
    ∧ (∀ (r mv : Nat) (s t : State), s.sys.phase ≠ .off → r < 2 ∧ s.bit (lchReg 0x10) r = false → t = (((setRail r mv
        s).sb (lchReg 0x10) r true).cnt (lchReg (0x114 + 4 * r)) 1).raise 15 3 → exec (.railUndervoltage r mv) s =
        .next ((onRail t r).foldl (fun s c => uvStop c s) t))
    ∧ (∀ (c : Nat) (s t : State), t = liveFlag c 5 true (stopUndo c s) → uvStop c s = (if chProt t c = 0 ∨ chProt t c
        = 1 then chEvent c 3 ((liveFlag c 4 false (setProt c 2 (setChan c
        { chan (stopMark c 0 t) c with left := chProt t c } (stopMark c 0 t)))).cnt (chReg c 0x28) 1) else t))
    ∧ (∀ (r mv : Nat) (s : State), s.sys.phase ≠ .off → r < 2 ∧ s.bit (lchReg 0x10) r = true → exec (.railRecovery r
        mv) s = .next ((onRail ((setRail r mv s).sb (lchReg 0x10) r false) r).foldl (fun s c => if chProt (liveFlag c
        5 false s) c = 2 then showChan c (profileResume c (setChan c
        { chan (liveFlag c 4 ((chan (liveFlag c 5 false s) c).left == 1) ((liveFlag c 5 false s).sf (chReg c 0x10) 2 0 (chan (liveFlag c 5 false s) c).left)) c with left := 0 }
        (liveFlag c 4 ((chan (liveFlag c 5 false s) c).left == 1) ((liveFlag c 5 false s).sf (chReg c 0x10) 2 0 (chan
        (liveFlag c 5 false s) c).left)))) else liveFlag c 5 false s) ((setRail r mv s).sb (lchReg 0x10) r false)))
    ∧ (∀ (c : Nat) (low : Bool) (s : State), s.sys.phase ≠ .off → c < 40 ∧ chConducts s c = true ∧ fld (chan s
        c).prof1 15 8 ≠ 0 → chMode s c = 1 ∧ s.bit (chReg c 0x10) 5 = false → exec (.openLoadOn c low) s = .next (if
        low = true ∧ live s c 2 = false then chEvent c 5 (liveFlag c 2 low s) else liveFlag c 2 low s))
    ∧ (∀ (c : Nat) (s : State), s.sys.phase ≠ .off → c < 40 ∧ chConducts s c = true ∧ fld (chan s c).prof1 15 8 ≠ 0 →
        chMode s c ≠ 1 ∧ 100000 ≤ (chan s c).on ∧ (chan s c).low < 7 → exec (.openLoadOn c true) s = .next (setChan c
        { chan s c with low := (chan s c).low + 1 } s))
    ∧ (∀ (c : Nat) (s t : State), s.sys.phase ≠ .off → c < 40 ∧ chConducts s c = true ∧ fld (chan s c).prof1 15 8 ≠ 0
        → chMode s c ≠ 1 ∧ 100000 ≤ (chan s c).on ∧ 7 ≤ (chan s c).low → t = setChan c { chan s c with low := 8 } s →
        exec (.openLoadOn c true) s = .next (if live t c 2 then liveFlag c 2 true t else chEvent c 5 (liveFlag c 2
        true t)))
    ∧ (∀ (c : Nat) (s t : State), s.sys.phase ≠ .off → c < 40 ∧ chConducts s c = true ∧ fld (chan s c).prof1 15 8 ≠ 0
        → chMode s c ≠ 1 ∧ 100000 ≤ (chan s c).on → t = setChan c { chan s c with low := 0 } s → exec (.openLoadOn c
        false) s = .next (liveFlag c 2 false t))
    ∧ (∀ (c : Nat) (high : Bool) (s : State), s.sys.phase ≠ .off → c < 40 ∧ chFitted s c = true ∧ chMode s c = 0 ∧
        bitOf (chan s c).prof0 14 = true → exec (.openLoadOff c high) s = .next (if high = true ∧ live s c 3 = false
        then chEvent c 5 (liveFlag c 3 high s) else liveFlag c 3 high s))

/-- The load channels' opcodes configure a channel, a profile, a timebase and HOLD_MS, and report status and counters.
  Details that the rules leave open are the model's choice (log entry 43) (R470, R472, R477, R481, R482, R493, R495,
  R496). -/
def Obligations.LoadChannelOpcodes : Prop :=
    (∀ (ring slot : Nat) (c : Cmd) (s0 s : State), Admits (specOf opsLch 0x0F00) ring slot c s0 s = true → c.p 32 1
        ≤ 15 ∧ c.p 33 1 ≤ 2 ∧ c.p 34 1 ≤ 7 ∧ 20 ≤ c.p 35 1 ∧ c.p 35 1 ≤ 80 ∧ c.p 36 2 ≤ 10000 ∧ c.zero 38 2 = true →
        (c.p 33 1 = 2 → tbPeriod s (c.p 34 1) ≠ 0) → chMode s c.inst = 0 → exec (.lchChanCfg ring slot) s0 = .next
        (okReply c [] 0 ((s.wr (chReg c.inst 0) (BitVec.ofNat 32 (c.p 32 1 + c.p 33 1 * 16 + c.p 34 1 * 256 + c.p 35 1
        * 65536))).wr (chReg c.inst 4) (BitVec.ofNat 32 (c.p 36 2)))))
    ∧ (∀ (ring slot : Nat) (c : Cmd) (s0 s : State), Admits (specOf opsLch 0x0F01) ring slot c s0 s = true → 6 ≤ c.p
        32 1 ∧ c.p 32 1 ≤ 15 ∧ c.p 33 1 ≤ 3 ∧ c.p 34 1 ≤ 1 ∧ c.zero 35 1 = true ∧ c.p 36 2 ≤ 2000 → 4 ≤ c.p 38 1 ∧ c.p
        38 1 ≤ 64 ∧ 4 ≤ c.p 39 1 ∧ c.p 39 1 ≤ 64 ∧ 4 ≤ c.p 40 1 ∧ c.p 40 1 ≤ 64 → c.p 42 2 ≤ 1000 ∧ 8000 ≤ c.p 44 2 ∧
        c.p 44 2 ≤ 16000 ∧ c.zero 46 2 = true → exec (.lchProfile ring slot) s0 = .next (okReply c [] 0 (((s.wr (rg 15
        (0x4000 + c.p 32 1 * 0x10)) (BitVec.ofNat 32 (c.p 36 2 + c.p 33 1 * 2 ^ 12 + c.p 34 1 * 2 ^ 14 + c.p 38 1 * 2
        ^ 16 + c.p 39 1 * 2 ^ 24))).wr (rg 15 (0x4000 + c.p 32 1 * 0x10) + 4) (BitVec.ofNat 32 (c.p 40 1 + c.p 41 1 *
        256 + c.p 42 2 * 65536))).wr (rg 15 (0x4000 + c.p 32 1 * 0x10) + 8) (BitVec.ofNat 32 (c.p 44 2)))))
    ∧ (∀ (ring slot : Nat) (c : Cmd) (s0 s : State), Admits (specOf opsLch 0x0F02) ring slot c s0 s = true → c.p 32 1
        ≤ 7 ∧ c.zero 33 3 = true ∧ c.timeForm 36 = true ∧ c.timeNs 36 ≤ 999999999 ∧ tbPeriodOk (c.p 48 4) = true ∧
        tbUser s (c.p 32 1) = none → exec (.lchTimebase ring slot) s0 = .next (okReply c [] 0 (tbArm (c.p 32 1)
        ((((s.wr (tbReg (c.p 32 1) 0) (BitVec.ofNat 32 (c.p 44 2 * 65536))).wr (tbReg (c.p 32 1) 4) (c.w 36)).wr
        (tbReg (c.p 32 1) 8) (c.w 40)).wr (tbReg (c.p 32 1) 0xC) (c.w 48)))))
    ∧ (∀ (ring slot : Nat) (c : Cmd) (s0 s : State), Admits (specOf opsLch 0x0F03) ring slot c s0 s = true → 10 ≤ c.p
        32 2 ∧ c.p 32 2 ≤ 2000 ∧ c.zero 34 2 = true → exec (.lchSetHold ring slot) s0 = .next (okReply c [] 0 (s.sf
        (lchReg 4) 26 16 (c.p 32 2))))
    ∧ (∀ (ring slot : Nat) (c : Cmd) (s0 s : State), Admits (specOf opsLch 0x0F04) ring slot c s0 s = true → exec
        (.lchChanStatus ring slot) s0 = .next (okReply c (readRegs [chReg c.inst 0x10, chReg c.inst 0x14, chReg c.inst
        8, chReg c.inst 0xC, chReg c.inst 0x18] s) 0 s))
    ∧ (∀ (ring slot : Nat) (c : Cmd) (s0 s : State), Admits (specOf opsLch 0x0F05) ring slot c s0 s = true → c.inst ≠
        42 → exec (.lchCounters ring slot) s0 = .next (okReply c (takeCounters (regRun (chReg c.inst 0x20) 4) s).1 0
        (takeCounters (regRun (chReg c.inst 0x20) 4) s).2))
    ∧ (∀ (ring slot : Nat) (c : Cmd) (s0 s : State), Admits (specOf opsLch 0x0F05) ring slot c s0 s = true → c.inst =
        42 → exec (.lchCounters ring slot) s0 = .next (okReply c (takeCounters (regRun (lchReg 0x100) 7) s).1 0
        (takeCounters (regRun (lchReg 0x100) 7) s).2))

/-- The model's choices: which of several waiting wakes is the cause, and what the log's entries of valid, false and
  latched wakes hold (log entry 44). (R502, R503, R504, R505, R506, R513, R514, R515, R516, R543, R554, R556). -/
def Obligations.KeystoneWakesAndPowersOff : Prop :=
    (∀ (src sub levels : Nat) (w : List (Nat × Nat)) (s t u : State), (t = setLevels levels s ∧ u = if src = 0 then
        powerOnFirst t else keyLog src sub 0 (powerOnFirst t)) → fires s t src sub = true ∧ mayFire t src = true ∧
        t.sys.phase = .off ∧ u.key.supplyGood = true → (w = u.key.latched ++ u.key.held ++ if src = 0 then [] else
        [(src, sub)]) → exec (.wakeSourceFire src sub levels) s = .next (powerUp (w.headD (src, sub)) (w.drop 1) u))
    ∧ (∀ (src sub levels : Nat) (s t u : State), (t = setLevels levels s ∧ u = if src = 0 then powerOnFirst t else
        keyLog src sub 0 (powerOnFirst t)) → fires s t src sub = true ∧ mayFire t src = true ∧ t.sys.phase = .off ∧
        u.key.supplyGood = false → exec (.wakeSourceFire src sub levels) s = .next (u.withKey (fun k =>
        { k with held := k.held ++ if src = 0 then [] else [(src, sub)] })))
    ∧ (∀ (src sub levels : Nat) (s t u : State), t = setLevels levels s ∧ u = (keyLog src sub 4 t).cnt (keyReg 0x48) 1
        → fires s t src sub = true ∧ mayFire t src = true ∧ t.sys.phase ≠ .off ∧ poweringOff t = true → exec
        (.wakeSourceFire src sub levels) s = .next ((if src = 1 then clearLockouts u else u).withKey (fun k =>
        { k with latched := k.latched ++ [(src, sub)] })))
    ∧ (∀ (src sub levels : Nat) (s t u v w x : State), t = setLevels levels s → fires s t src sub = true ∧ mayFire t
        src = true ∧ t.sys.phase ≠ .off ∧ poweringOff t = false → u = setPair 0x1C src true (keyLog src sub 0 t) → (v
        = if src = 1 then clearLockouts u else u) → w = v.withKey (fun k => { k with fired := some (pclk v) }) → (x =
        if src ≤ 2 || (decide (src ≤ 7) && wakeValidate w (src - 4) == 0) then keyValidate [src] w else w) → exec
        (.wakeSourceFire src sub levels) s = .next (if x.key.pouring then x else if x.up then localWake (x.raise 16 0)
        else x.raise 16 0))
    ∧ (∀ (s : State), (powerOnFirst s = if s.key.powerOn then (keyLog 0 0 0 s).withKey (fun k =>
        { k with powerOn := false, held := (0, 0) :: k.held }) else s))
    ∧ (∀ (x : Nat × Nat) (r : List (Nat × Nat)) (s : State), s.key.held = x :: r ∧ s.sys.phase = .off → exec
        .wakeSupplyGood s = .next (powerUp x r (s.withKey (fun k => { k with supplyGood := true }))))
    ∧ (∀ (x : Nat × Nat) (r : List (Nat × Nat)) (s : State), s.key.latched = x :: r ∧ s.sys.phase = .off → exec
        .latchedWakePowerUp s = .next (powerUp x r s))
    ∧ (∀ (s : State), exec .wakeIgnoreExpiry s = .next (s.withKey (fun k => { k with ignoring := false })))
    ∧ (∀ (s t : State), s.up = true → t = keyValidate (((List.range 4).filter (fun k => wakeValidate s k == 1 &&
        wakeActive s k)).map (4 + ·)) s → exec .validationEnd s = .next (if validating t then falseWakeEnds t else t))
    ∧ (∀ (s : State), s.up = true → s.bit (keyReg 4) 24 = true ∧ sleepBlocks s = 0 ∧ poweringOff s = false → exec
        .autoSleepBegin s = .next ((((s.withKey (fun k => { k with offReaction := false })).sb (keyReg 0) 0 true).sb
        (keyReg 0) 1 false).raise 16 4))
    ∧ (∀ (s t : State), s.up = true → poweringOff s = true ∧ t = s.withEth (fun e => { e with rtFlash := e.rt }) →
        exec .powerOffDone s = .next (showChans (podlAllOff (armPorts
        { t with sys := { t.sys with phase := .stopping } }))))
    ∧ (∀ (s : State), s.sys.phase = .stopping → exec .powerOffComplete s = .next (goOff s))
    ∧ (∀ (s : State), s.sys.phase ≠ .off → exec .brownOut s = .next (goOff (podlAllOff ((if s.sys.phase = .stopping
        then s else armPorts s).withKey (fun k => { k with supplyGood := false })))))
    ∧ (∀ (s : State), exec .keystonePor s = .next
        { State.reset with pending := s.pending, fresh := s.fresh, notices := s.notices, sys := { SysState.reset with debug := s.sys.debug, flash := s.sys.flash, lifeFlash := s.sys.lifeFlash, reads := s.sys.reads }, eth := { EthState.reset with rtFlash := s.eth.rtFlash } })
    ∧ (∀ (s : State), ((s.sys.phase = .recovery ∨ s.sys.phase = .stuck) ∧ s.sys.debug = false ∧ poweringOff s = false)
        → exec .recoveryTimeout s = .next ((((s.withKey (fun k => { k with offReaction := false })).sb (keyReg 0) 0
        true).sb (keyReg 0) 1 false).raise 16 4))

/-- The rails' start and a module reset's end run Ladle on the candidate images; the pour completes and the LATE
  sections load. Details that the rules leave open are the model's choice (log entries 44, 47 and 72) (R16, R517,
  R543, R544, R549, R550, R552, R553, R554). -/
def Obligations.StartsOfTheModule : Prop :=
    (∀ (kind : Nat) (c : Word) (s t : State), s.sys.phase = .rising → (kind = (if fld (s.rd (keyReg 0x18)) 5 0 = 0
        then 1 else 2) ∧ c = causeWord kind (fld s.sys.cause 7 4) (fld s.sys.cause 12 8) 0) → t = (setCause c
        (clearLogic true s)).wr (rg 0 0x20) (setCause c (clearLogic true s)).sys.cause → fusesOk t = true ∧ bootSlots
        t = [] → exec .railsGood s = .next (setCause (causeWord kind 0 0 0) (recover .recovery 1 1 0 t)))
    ∧ (∀ (k kind : Nat) (c : Word) (s t : State), s.sys.phase = .rising → (kind = (if fld (s.rd (keyReg 0x18)) 5 0 = 0
        then 1 else 2) ∧ c = causeWord kind (fld s.sys.cause 7 4) (fld s.sys.cause 12 8) 0) → t = (setCause c
        (clearLogic true s)).wr (rg 0 0x20) (setCause c (clearLogic true s)).sys.cause → fusesOk t = true ∧ bootSlots
        t = [k] → exec .railsGood s = match pourImage k t with
          | .ok u => .next (setCause (causeWord kind 0 0 0) (poured k false 0 0 u))
          | .error x => .next (setCause (causeWord kind 0 0 0) (recover .recovery 1 x.reason x.sec ((resetAgain
        x.left).wr (rg 0 0x20) x.left.sys.cause))))
    ∧ (∀ (s t : State), s.sys.phase = .inReset → t = (lchReposition (s.withLch (fun l =>
        { l with clock := none }))).wr (rg 0 0x20) (lchReposition (s.withLch (fun l =>
        { l with clock := none }))).sys.cause → fusesOk t = true ∧ bootSlots t = [] → exec .moduleResetRelease s =
        .next (recover .recovery 1 1 0 t))
    ∧ (∀ (k : Nat) (s t : State), s.sys.phase = .inReset → t = (lchReposition (s.withLch (fun l =>
        { l with clock := none }))).wr (rg 0 0x20) (lchReposition (s.withLch (fun l =>
        { l with clock := none }))).sys.cause → fusesOk t = true ∧ bootSlots t = [k] → exec .moduleResetRelease s =
        match pourImage k t with
          | .ok u => .next (poured k false 0 0 u)
          | .error x => .next (recover .recovery 1 x.reason x.sec ((resetAgain x.left).wr (rg 0 0x20)
        x.left.sys.cause)))
    ∧ (∀ (k l : Nat) (x : PourStop) (s t u : State), s.sys.phase = .inReset → t = (lchReposition (s.withLch (fun l =>
        { l with clock := none }))).wr (rg 0 0x20) (lchReposition (s.withLch (fun l =>
        { l with clock := none }))).sys.cause → fusesOk t = true ∧ bootSlots t = [k, l] → pourImage k t = .error x ∧ u
        = (resetAgain x.left).wr (rg 0 0x20) x.left.sys.cause → exec .moduleResetRelease s = match pourImage l u with
          | .ok v => .next (poured l true x.reason x.sec v)
          | .error y => .next (recover .recovery 1 y.reason y.sec ((resetAgain y.left).wr (rg 0 0x20)
        y.left.sys.cause)))
    ∧ (∀ (k : Nat) (s t u v : State), s.sys.phase = .ladle ∧ s.sys.slot = some k → t =
        { s with sys := { s.sys with phase := .running } } → u = applyHeld ((imgEntries t k).filter isPower) t → (v =
        if u.f (rg 0 0x20) 3 0 ≠ 3 ∧ u.bit (lchReg 4) 0 = false then lchArm u else u) → exec .ladlePourComplete s =
        .next (pourDone k ((heldFields (imgEntries t k)).foldl (fun s x => setHeld x s) v)))
    ∧ (∀ (k : Nat) (s : State), s.up = true → s.sys.slot = some k ∧ s.f (rg 0 0x24) 9 8 = 1 → s.mason.cmds.any (fun c
        => c.ring == imageRing) = false ∧ (s.sys.late.isSome && s.mason.image.1 != 0) = false → exec .lateLoad s =
        .next (lateGo k (s.sys.late.getD 0) ((lateItems s k).drop (s.sys.late.getD 0)) s))
    ∧ (∀ (k i : Nat) (s : State), s.up = true → s.sys.slot = some k ∧ s.f (rg 0 0x24) 9 8 = 1 → s.mason.cmds.any (fun
        c => c.ring == imageRing) = false ∧ s.sys.late = some i ∧ s.mason.image.1 ≠ 0 → exec .lateLoad s = .next
        (raiseAlarms [2] ({ s with sys := { s.sys with late := none, loaded := i - 1 } }.sf (rg 0 0x24) 9 8 3)))
    ∧ (∀ (k : Nat) (s : State), s.up = true → s.sys.slot = some k ∧ s.f (rg 0 0x24) 9 8 = 1 → s.mason.cmds.any (fun c
        => c.ring == imageRing) = false ∧ s.sys.late = none ∧ lateItems s k = [] → exec .lateLoad s = .next
        ((startHarts k ({ s with sys := { s.sys with late := none, loaded := 0 } }.sf (rg 0 0x24) 9 8 2)).raise 0 2))
    ∧ (∀ (k : Nat) (s : State) (r : List LateItem), s.up = true → s.sys.slot = some k ∧ s.f (rg 0 0x24) 9 8 = 1 →
        s.mason.cmds.any (fun c => c.ring == imageRing) = false ∧ s.sys.late = none ∧ lateItems s k = .bad :: r → exec
        .lateLoad s = .next (raiseAlarms [2] ({ s with sys := { s.sys with late := none, loaded := 0 } }.sf (rg 0
        0x24) 9 8 3)))

/-- Keystone's opcodes report, configure, begin power-off, validate the wake, clear lockouts, read the log and take
  the counters. Details that the rules leave open are the model's choice (log entry 44) (R505, R507, R508, R511, R513,
  R518, R520). -/
def Obligations.KeystoneOpcodes : Prop :=
    (∀ (ring slot : Nat) (c : Cmd) (s0 s : State), Admits (specOf opsKey 0x1000) ring slot c s0 s = true → exec
        (.keyStatus ring slot) s0 = .next (okReply c (readRegs [keyReg 0, keyReg 0x18, keyReg 0x1C, keyReg 0x20,
        keyReg 0x24, keyReg 0x28, keyReg 0x2C] s) 0 s))
    ∧ (∀ (ring slot : Nat) (c : Cmd) (s0 s : State), Admits (specOf opsKey 0x1001) ring slot c s0 s = true → c.w 32
        &&& ~~~ 0x03FFF7FF#32 = 0 ∧ keyCfgOk (c.w 32) = true ∧ c.p 40 4 < 2 ^ 18 → wakeCfgOk (c.w 44) = true ∧ c.p 48
        4 < 2 ^ 17 ∧ timerOk (c.w 48) = true → exec (.keySetCfg ring slot) s0 = .next (okReply c [] 0 (validNow
        (((((s.wr (keyReg 4) (c.w 32)).wr (keyReg 8) (c.w 36)).wr (keyReg 0xC) (c.w 40)).wr (keyReg 0x10) (c.w 44)).wr
        (keyReg 0x14) (c.w 48)))))
    ∧ (∀ (ring slot : Nat) (c : Cmd) (s0 s : State), Admits (specOf opsKey 0x1002) ring slot c s0 s = true → (c.p 32 4
        = 1 ∨ (c.p 32 4 = 0 ∧ sleepBlocks s = 0)) → firedNow s = false → exec (.keySleep ring slot) s0 = .next
        (okReply c [] 0 (beginOff s)))
    ∧ (∀ (ring slot : Nat) (c : Cmd) (s0 s : State), Admits (specOf opsKey 0x1003) ring slot c s0 s = true →
        validating s = true → exec (.keyWakeValid ring slot) s0 = .next (okReply c [] 0 (keyValidate ((List.range
        50).filter (pairBit s 0x1C)) s)))
    ∧ (∀ (ring slot : Nat) (c : Cmd) (s0 s : State), Admits (specOf opsKey 0x1004) ring slot c s0 s = true → exec
        (.keyUnlock ring slot) s0 = .next (okReply c [] 0 ((bitsOf (c.p 32 8) 50).foldl (fun s n => clearLockout n s)
        s)))
    ∧ (∀ (ring slot : Nat) (c : Cmd) (s0 s : State), Admits (specOf opsKey 0x1005) ring slot c s0 s = true → exec
        (.keyLogRead ring slot) s0 = .next (okReply c ((List.range 16).reverse.flatMap (fun i => readRegs [keyReg
        (0x200 + 8 * i), keyReg (0x204 + 8 * i)] s)) 0 s))
    ∧ (∀ (ring slot : Nat) (c : Cmd) (s0 s : State), Admits (specOf opsKey 0x1006) ring slot c s0 s = true → exec
        (.keyCounters ring slot) s0 = .next (okReply c (takeCounters (regRun (keyReg 0x40) 4) s).1 0 (takeCounters
        (regRun (keyReg 0x40) 4) s).2))

/-- The model's choices: an OFF reaction's record is for one start, the fourth reset within 10 s is OFF, and when
  TJ_WARN is raised (log entry 45); a RESET reaction gives way to a power-off under way (log entry 26); the 8 bytes of
  an uncorrectable word and the reader of it (log entry 76). (R409, R546, R555, R556, R557, R558, R559, R560, R561,
  R580). -/
def Obligations.HealthMonitorEvents : Prop :=
    (∀ (l : List Nat) (set : Nat) (s : State), clocked s = true → l = (bitsOf set 15).filter (fun a => [3, 4, 5, 6,
        7, 9, 10].contains a || (a == 11 && decide (s.f (hltReg 0xC) 24 12 ≤ (s.rd (rg 4 4)).toNat))) → exec
        (.alarmRaise set) s = .next (raiseAlarms l s))
    ∧ (∀ (s t : State), clocked t = true → t = { s with sys := { s.sys with debug := true } } → exec .debugAttach s =
        .next (raiseAlarms [12] (cruAlarm 2 t)))
    ∧ (∀ (s : State), exec .debugDetach s = .next { s with sys := { s.sys with debug := false } })
    ∧ (∀ (a : Nat) (s : State), (poweringOff s && s.key.offReaction) = false → react (some (3, a)) s = (beginOff
        (setCause (causeWord (fld s.sys.cause 3 0) 1 a (fld s.sys.cause 31 16)) s)).withKey (fun k =>
        { k with ignoring := true, offReaction := true }) ∧ react (some (1, a)) s = cruAlarm 3 s ∧ (poweringOff s =
        false → react (some (2, a)) s = reactReset a s))
    ∧ (∀ (k : Nat) (x : Nat × Option Nat) (s : State), clocked s = true → k < 8 → exec (.eccError k false x) s = .next
        (s.cntF (eccReg k) 15 0 1))
    ∧ (∀ (k addr : Nat) (m : Option Nat) (s r t u v : State), clocked s = true → k < 8 → (r = (if [0, 1, 2,
        5].contains k then
        { s with bad := s.bad ++ ((List.range 8).map (addr / 8 * 8 + ·)).filter (fun a => !s.bad.contains a) } else
        s)) → t = ((m.elim r (fun m => r.reply m [0] true)).cntF (eccReg k) 31 16 1).withLife (fun l =>
        { l with ues := l.ues + 1 }) → (u = if t.hlt.ueLogged then t else ((t.wr (hltReg 0x30) (BitVec.ofNat 32
        addr)).wr (hltReg 0x34) (BitVec.ofNat 32 (addr / 2 ^ 32 % 256 + k * 256 + 2 ^ 15))).withHlt (fun h =>
        { h with ueLogged := true })) → (v = if k = 7 then ruleLost addr u else u) → exec (.eccError k true (addr, m))
        s = .next (raiseAlarms [if k = 6 then 9 else 8] v))
    ∧ (∀ (k : Nat) (ue : Bool) (x : Nat × Option Nat) (s : State), (clocked s = false ∨ 8 ≤ k) → exec (.eccError k ue
        x) s = .next s)
    ∧ (∀ (s : State), exec .patrolScrub s = .next s)
    ∧ (∀ (margin vdd rth worst : Nat) (temp : Int) (ratios : List (Nat × Nat)) (swing hot : Bool) (m : Nat × Nat) (s t
        u v : State), clocked s = true → worst = min margin (s.hlt.hourMargin.getD margin) ∧ hot = decide (840 ≤ temp)
        → t = ((((s.sf (hltReg 0x10) 15 0 (BitVec.ofInt 16 temp).toNat).sf (hltReg 0x14) 15 0 margin).sf (hltReg 0x14)
        31 16 worst).sf (hltReg 0x18) 23 8 vdd) → u = t.withHlt (fun h =>
        { h with ratios := ratios.foldl (fun t x => tput 0 t x.1 x.2) h.ratios, hourMargin := some worst, hotSecs := if hot then (h.hotSecs + 1) % 3600 else h.hotSecs })
        → m = ratioMax u → v = u.withLife (fun l =>
        { l with ratioMax := m.1, ratioChan := m.2, rth := rth, swings := l.swings + b2n swing, hotHours := l.hotHours + b2n (hot && u.hlt.hotSecs == 0), lowMargin := min l.lowMargin margin, tiles := max l.tiles (u.rd (rg 4 4)).toNat })
        → exec (.healthMeasure margin vdd temp ratios rth swing) s = .next (if (BitVec.ofNat 16 (s.f (hltReg 0x10) 15
        0)).toInt < 920 ∧ 920 ≤ temp then raiseAlarms [5] (showLife v) else showLife v))
    ∧ (∀ (s t u : State), clocked s = true → t = s.withLife (fun l => { l with hours := l.hours + 1 }) → u = saveLife
        (writeDerate (showLife (replan t))) → exec .hourlyEvaluation s = .next (if s.hlt.hourMargin.getD 35 < 35 ∧
        s.hlt.life.guard = 60 then raiseAlarms [13] u else u))

/-- The model's choice: what a byte that was not erased holds after a write, and what flash holds before any (log
  entry 27). (R545, R547, R550, R557, R561, R562, R563, R564). -/
def Obligations.SystemAndHealthOpcodes : Prop :=
    (∀ (ring slot : Nat) (c : Cmd) (s0 s : State), Admits (specOf opsSys 0x0100) ring slot c s0 s = true → c.p 32 1
        = 1 ∧ c.p 34 1 ≤ 1 ∧ c.zero 35 1 = true → exec (.sysReset ring slot) s0 = .next (markRunning c (moduleReset 0
        0 s)))
    ∧ (∀ (ring slot : Nat) (c : Cmd) (s0 s : State), Admits (specOf opsSys 0x0100) ring slot c s0 s = true → c.p 32 1
        = 2 ∧ c.p 34 1 = 0 ∧ c.zero 35 1 = true ∧ c.p 33 1 ≤ 18 ∧ blockResettable (c.p 33 1) = true → exec (.sysReset
        ring slot) s0 = .next (okReply c [] 0 (endBlockReset (c.p 33 1) s)))
    ∧ (∀ (ring slot : Nat) (c : Cmd) (s0 s : State) (t : State), Admits (specOf opsSys 0x0100) ring slot c s0 s = true
        → c.p 32 1 = 2 ∧ c.p 34 1 = 1 ∧ c.zero 35 1 = true ∧ c.p 33 1 ≤ 18 ∧ blockResettable (c.p 33 1) = true → s.f
        (rg 0 0x24) 9 8 ≠ 1 → reloadGo (c.p 33 1) 0 (reloadList (c.p 33 1) s) (endBlockReset (c.p 33 1) s) = .ok t []
        0 → exec (.sysReset ring slot) s0 = .next (okReply c [] 0 t))
    ∧ (∀ (ring slot : Nat) (c : Cmd) (s t : State), s.up = true ∧ findCmd 0x100 ring slot s = none →
        s.mason.cmds.find? (fun c => c.ring == ring && c.slot == slot && c.opcode == 0x100 && c.running) = some c →
        s.mason.cmds.any (fun d => d.ring == imageRing) = false ∧ s.mason.image.1 = 0 → (s.sys.reload).map (fun x =>
        reloadGo x.1 x.2 ((reloadList x.1 s).drop x.2) s) = some (.ok t [] 0) → exec (.sysReset ring slot) s = .next
        (okReply c [] 0 t))
    ∧ (∀ (ring slot : Nat) (c : Cmd) (s0 s : State), Admits (specOf opsSys 0x0101) ring slot c s0 s = true → 1 ≤ c.p
        36 4 ∧ c.p 36 4 ≤ 224 ∧ spanOk c.inst (c.p 32 4) (c.p 36 4) = true ∧ c.inst ≠ 2 ∧ c.inst ≠ 3 → c.indirect =
        false → exec (.sysFlashRead ring slot) s0 = .next (okReply c (flashBytes s (areaBase c.inst + c.p 32 4) (c.p
        36 4)) 0 s))
    ∧ (∀ (ring slot : Nat) (c : Cmd) (s0 s : State), Admits (specOf opsSys 0x0101) ring slot c s0 s = true → 1 ≤ c.p
        36 4 ∧ c.p 36 4 ≤ 65536 ∧ spanOk c.inst (c.p 32 4) (c.p 36 4) = true ∧ c.inst ≠ 2 ∧ c.inst ≠ 3 → c.indirect =
        true ∧ c.p 36 4 ≤ c.bufSize ∧ s.badByte c.issuer c.bufAddr (c.p 36 4) true = none → exec (.sysFlashRead ring
        slot) s0 = .next (complete c 0 0 noOffset 0 (c.p 36 4) [] (s.dmaPut c.issuer c.bufAddr (flashBytes s (areaBase
        c.inst + c.p 32 4) (c.p 36 4)))))
    ∧ (∀ (ring slot : Nat) (c : Cmd) (s0 s : State), Admits (specOf opsSys 0x0102) ring slot c s0 s = true → c.inst ≠
        2 ∧ c.inst ≠ 3 ∧ c.p 32 4 % 65536 = 0 ∧ spanOk c.inst (c.p 32 4) (c.p 36 4 * 65536) = true ∧ s.sys.slot ≠ some
        c.inst → exec (.sysFlashErase ring slot) s0 = .next (okReply c [] 0
        { s with sys := { s.sys with flash := tdrop (fun x => decide (areaBase c.inst + c.p 32 4 ≤ x) && decide (x < areaBase c.inst + c.p 32 4 + c.p 36 4 * 65536)) s.sys.flash } }))
    ∧ (∀ (ring slot : Nat) (c : Cmd) (s0 s : State), Admits (specOf opsSys 0x0103) ring slot c s0 s = true → c.inst ≠
        2 ∧ c.inst ≠ 3 ∧ c.p 32 4 % 256 = 0 ∧ spanOk c.inst (c.p 32 4) (c.payload.drop 4).length = true ∧ s.sys.slot ≠
        some c.inst → (∀ i, i < (c.payload.drop 4).length → flashByte s (areaBase c.inst + c.p 32 4 + i) &&&
        (c.payload.drop 4).getD i 0 = (c.payload.drop 4).getD i 0) → exec (.sysFlashWrite ring slot) s0 = .next
        (okReply c [] 0
        { s with sys := { s.sys with flash := flashPut (areaBase c.inst + c.p 32 4) (c.payload.drop 4) s.sys.flash } }))
    ∧ (∀ (ring slot : Nat) (c : Cmd) (s0 s : State) (i : Nat), Admits (specOf opsSys 0x0103) ring slot c s0 s = true →
        c.inst ≠ 2 ∧ c.inst ≠ 3 ∧ c.p 32 4 % 256 = 0 ∧ spanOk c.inst (c.p 32 4) (c.payload.drop 4).length = true ∧
        s.sys.slot ≠ some c.inst → (List.range (c.payload.drop 4).length).find? (fun i => flashByte s (areaBase c.inst
        + c.p 32 4 + i) &&& (c.payload.drop 4).getD i 0 != (c.payload.drop 4).getD i 0) = some i → exec
        (.sysFlashWrite ring slot) s0 = .next (completeFail c ⟨stIntegrity, 0x104, noOffset, c.p 32 4 + i⟩ s))
    ∧ (∀ (ring slot : Nat) (c : Cmd) (s0 s : State), Admits (specOf opsSys 0x0104) ring slot c s0 s = true → exec
        (.sysImageCheck ring slot) s0 = .next (match imgCheck s c.inst with
          | some (r, i) => completeFail c ⟨stIntegrity, 0x105, noOffset, r + i * 65536⟩ s
          | none => okReply c (leBytes 4 (imgVersion s c.inst)) 0 s))
    ∧ (∀ (ring slot : Nat) (c : Cmd) (s0 s : State), Admits (specOf opsHlt 0x1200) ring slot c s0 s = true → exec
        (.hltStatus ring slot) s0 = .next (okReply c (readRegs [hltReg 0, hltReg 0x14, hltReg 0x18, hltReg 0x1C,
        hltReg 0x20] s) 0 s))
    ∧ (∀ (ring slot : Nat) (c : Cmd) (s0 s : State), Admits (specOf opsHlt 0x1201) ring slot c s0 s = true → fld (c.w
        32) 31 25 = 0 ∧ hltCfgOk (c.w 32) = true ∧ fld (c.w 36) 31 30 = 0 ∧ reactFixed s (c.w 36) = none → exec
        (.hltSetCfg ring slot) s0 = .next (okReply c [] 0 ((s.wr (hltReg 0xC) (c.w 32)).wr (hltReg 4) (c.w 36))))
    ∧ (∀ (ring slot : Nat) (c : Cmd) (s0 s : State), Admits (specOf opsHlt 0x1202) ring slot c s0 s = true → exec
        (.hltEccRead ring slot) s0 = .next (okReply c (takeCounters (regRun (eccReg 0) 8 ++ [hltReg 0x30, hltReg
        0x34]) s).1 0 ((takeCounters (regRun (eccReg 0) 8 ++ [hltReg 0x30, hltReg 0x34]) s).2.withHlt (fun h =>
        { h with ueLogged := false }))))
    ∧ (∀ (ring slot : Nat) (c : Cmd) (s0 s : State), Admits (specOf opsHlt 0x1203) ring slot c s0 s = true → exec
        (.hltLifeRead ring slot) s0 = .next (okReply c (lifeReport s.hlt.life) 0 s))
    ∧ (∀ (ring slot : Nat) (c : Cmd) (s0 s : State), Admits (specOf opsHlt 0x1204) ring slot c s0 s = true → exec
        (.hltLifeSave ring slot) s0 = .next (okReply c [] 0 (saveLife s)))

/-- The PCIe link, configuration writes, function-level resets and inbound requests to a function's page and aperture
  act as the rules say. Details that the rules leave open are the model's choice (log entries 23, 46 and 76) (R22,
  R523, R525, R526, R528, R529, R534, R535, R537, R538). -/
def Obligations.HostRequestsAndLink : Prop :=
    (∀ (speed width : Nat) (s : State), s.up = true → s.hbr.linkUp = false ∧ speed ∈ [1, 2, 3, 4] ∧ width ∈ [1, 2,
        4] → exec (.pcieLinkUp speed width) s = .next (showHbr ((((s.sf (hbrReg 0) 2 0 speed).sf (hbrReg 0) 5 3
        width).raise 17 0).withHbr (fun h => { h with linkUp := true }))))
    ∧ (∀ (s : State), s.up = true → s.hbr.linkUp = true → exec .pcieLinkReset s = .next ((resetAllFns ((s.sf (hbrReg
        0) 5 0 0).withHbr (fun h => { h with linkUp := false }))).raise 17 1))
    ∧ (∀ (f : Nat) (s : State), s.up = true → f < 8 ∧ f ≠ 0 ∧ fnExists s f = true → exec (.functionLevelReset f) s =
        .next (showHbr (resetFn false f s)))
    ∧ (∀ (s : State), s.up = true → exec (.functionLevelReset 0) s = .next (resetAllFns s))
    ∧ (∀ (f : Nat) (w : Nat × Word) (s : State), s.up = true → f < 8 ∧ fnExists s f = true ∧ s.hbr.linkUp = true →
        exec (.pcieConfigWrite f w) s = .next (fnConfig f w s))
    ∧ (∀ (f off k : Nat) (v : Word) (s : State), off = k * 4 ∧ off ≠ 0x68 ∧ off ≠ 0x104 ∧ off ≠ 0x44 ∧ f ≠ 0 →
        fnConfig f (off, v) s = showHbr (msixUnmask f (s.setFn f ((s.fn f).setWord off (((s.fn f).word off &&& ~~~
        cfgBits s f off) ||| (v &&& cfgBits s f off))))))
    ∧ (∀ (f : Nat) (v : Word) (s : State), s.up = true → f < 8 ∧ fnExists s f = true ∧ grpModeOk v = true → exec
        (.grpModeWrite f v) s = .next (setGrpMode f v s))
    ∧ (∀ (f space off len tag : Nat) (wr : Bool) (data : List Byte) (r : InReq) (s : State), s.up = true → r = ⟨f,
        space, off, wr, data, len, tag, true⟩ ∧ InTakes s r = true → exec (.inboundRequest f space off wr data len tag
        true) s = .next (inFail r 4 s))
    ∧ (∀ (f off len tag : Nat) (data : List Byte) (r : InReq) (s : State), s.up = true → r = ⟨f, 0, off, false, data,
        len, tag, false⟩ ∧ InTakes s r = true → off % 4 = 0 ∧ len % 4 = 0 → exec (.inboundRequest f 0 off false data
        len tag false) s = .next (inComplete f tag 0 ((List.range (len / 4)).flatMap (fun i => leBytes 4 (fnPageRead s
        f (off + 4 * i)).toNat)) s))
    ∧ (∀ (f len tag : Nat) (v : Word) (r : InReq) (s : State), s.up = true → r = ⟨f, 0, 8, true, leBytes 4 v.toNat,
        len, tag, false⟩ ∧ InTakes s r = true → 1 ≤ v.toNat ∧ v.toNat ≤ 1000 → exec (.inboundRequest f 0 8 true
        (leBytes 4 v.toNat) len tag false) s = .next (s.setFn f { s.fn f with pollUs := v.toNat }))
    ∧ (∀ (f off len tag : Nat) (wr : Bool) (data : List Byte) (r : InReq) (s : State), s.up = true → r = ⟨f, 0, off,
        wr, data, len, tag, false⟩ ∧ InTakes s r = true → (off % 4 ≠ 0 ∨ r.size % 4 ≠ 0) → exec (.inboundRequest f 0
        off wr data len tag false) s = .next (if wr then s.stray (0x18 + f) (24 + f) else inComplete f tag 0
        (List.replicate len 0) (s.stray (0x18 + f) (24 + f))))
    ∧ (∀ (f off len tag : Nat) (wr : Bool) (data : List Byte) (r : InReq) (x : Nat) (s : State), s.up = true → r = ⟨f,
        1, off, wr, data, len, tag, false⟩ ∧ InTakes s r = true → ((List.range r.size).map (off + ·)).find? (fun a =>
        (s.xlate (0x18 + f) a wr).isNone) = some x → exec (.inboundRequest f 1 off wr data len tag false) s = .next
        (inFail r 1 (s.devFault f (0x18 + f) x wr)))
    ∧ (∀ (f off len tag : Nat) (wr : Bool) (data : List Byte) (r : InReq) (p : Nat) (s : State), s.up = true → r = ⟨f,
        1, off, wr, data, len, tag, false⟩ ∧ InTakes s r = true → ((List.range r.size).map (off + ·)).find? (fun a =>
        (s.xlate (0x18 + f) a wr).isNone) = none → (s.xlate (0x18 + f) off wr = some p ∧ (region p = .sram ∨ region p
        = .dram)) → (List.range r.size).any (fun i => !s.reaches (0x18 + f) ((s.xlate (0x18 + f) (off + i) wr).getD 0)
        wr) = false ∧ s.badByte (0x18 + f) off r.size wr = none → exec (.inboundRequest f 1 off wr data len tag false)
        s = .next (if wr then s.dmaPut (0x18 + f) off data else inComplete f tag 0 (s.dmaBytes (0x18 + f) off r.size)
        s))
    ∧ (∀ (f off len tag : Nat) (wr : Bool) (data : List Byte) (r : InReq) (p : Nat) (s : State), s.up = true → r = ⟨f,
        1, off, wr, data, len, tag, false⟩ ∧ InTakes s r = true → ((List.range r.size).map (off + ·)).find? (fun a =>
        (s.xlate (0x18 + f) a wr).isNone) = none → (s.xlate (0x18 + f) off wr = some p ∧ (region p = .sram ∨ region p
        = .dram)) → (List.range r.size).any (fun i => !s.reaches (0x18 + f) ((s.xlate (0x18 + f) (off + i) wr).getD 0)
        wr) = true → exec (.inboundRequest f 1 off wr data len tag false) s = .next (inFail r 2 (s.busError (0x18 + f)
        off wr)))
    ∧ (∀ (f off len tag : Nat) (wr : Bool) (data : List Byte) (r : InReq) (p x : Nat) (s : State), s.up = true → r =
        ⟨f, 1, off, wr, data, len, tag, false⟩ ∧ InTakes s r = true → ((List.range r.size).map (off + ·)).find? (fun a
        => (s.xlate (0x18 + f) a wr).isNone) = none → (s.xlate (0x18 + f) off wr = some p ∧ (region p = .sram ∨ region
        p = .dram)) → (List.range r.size).any (fun i => !s.reaches (0x18 + f) ((s.xlate (0x18 + f) (off + i) wr).getD
        0) wr) = false ∧ s.badByte (0x18 + f) off r.size wr = some x → exec (.inboundRequest f 1 off wr data len tag
        false) s = .next (inFail r 2 s))
    ∧ (∀ (f off len tag : Nat) (wr : Bool) (data : List Byte) (r : InReq) (p : Nat) (s : State), s.up = true → r = ⟨f,
        1, off, wr, data, len, tag, false⟩ ∧ InTakes s r = true → ((List.range r.size).map (off + ·)).find? (fun a =>
        (s.xlate (0x18 + f) a wr).isNone) = none → s.xlate (0x18 + f) off wr = some p ∧ region p = .regs → (List.range
        r.size).all (fun i => s.inWindows (0x18 + f) (p + i) wr) = false → exec (.inboundRequest f 1 off wr data len
        tag false) s = .next (inFail r 2 (s.busError (0x18 + f) off wr)))
    ∧ (∀ (r : InReq) (kind : Nat) (s t : State), t = (hbrLog r.fn 0 kind r.wr r.off s).raise 17 3 → inFail r kind s =
        if r.wr then inReport r kind (hbrCount 0x100 t) else inComplete r.fn r.tag (if kind = 3 then 2 else 1) []
        (hbrCount 0x104 t))

/-- Outbound accesses, completions and timeouts, MSI-X messages, side-band writes and polls, and the error log act on
  the bridge. Details that the rules leave open are the model's choice (log entry 46) (R530, R531, R532, R533, R535,
  R536, R540, R542). -/
def Obligations.HostMessagesAndOutbound : Prop :=
    (∀ (m a k : Nat) (data : List Byte) (s : State), s.up = true ∧ Issues s m = true → region a = .pcie ∧
        data.length ≠ 0 ∧ (List.range data.length).all (fun i => s.reaches m (a + i) true) = true → outRegion s a =
        some k ∧ a + data.length ≤ regionBase s k + regionSize s k ∧ fnMasters s (regionFn s k) = true → exec
        (.outboundWrite m a data) s = .next (issueReq
        { tag := 0, kind := .write, initiator := m, fn := regionFn s k, region := k, addr := a, pciAddr := pciAddr s k a, len := data.length, data := data, serial := 0 }
        s))
    ∧ (∀ (m a k n : Nat) (s : State), s.up = true ∧ Issues s m = true → region a = .pcie ∧ n ≠ 0 ∧ (List.range n).all
        (fun i => s.reaches m (a + i) false) = true → outRegion s a = some k ∧ a + n ≤ regionBase s k + regionSize s k
        ∧ fnMasters s (regionFn s k) = true → exec (.outboundRead m a n) s = .next (issueReq
        { tag := 0, kind := .read, initiator := m, fn := regionFn s k, region := k, addr := a, pciAddr := pciAddr s k a, len := n, data := [], serial := 0 }
        s))
    ∧ (∀ (m a n : Nat) (s : State), s.up = true ∧ Issues s m = true → region a = .pcie ∧ n ≠ 0 ∧ (List.range n).all
        (fun i => s.reaches m (a + i) false) = true ∧ outRegion s a = none → exec (.outboundRead m a n) s = .next
        (respond m true (List.replicate n 0) ((hbrCount 0x108 (hbrLog 0 m 5 false a s)).raise 17 4)))
    ∧ (∀ (tag : Nat) (data : List Byte) (r : OutReq) (s : State), s.up = true → s.hbr.requests.find? (fun r => r.tag
        == tag) = some r → exec (.completionArrival tag 0 data) s = .next (quietRegions (reqDone r data (dropReq tag
        s))))
    ∧ (∀ (tag st : Nat) (data : List Byte) (r : OutReq) (s : State), s.up = true → s.hbr.requests.find? (fun r =>
        r.tag == tag) = some r ∧ st ≠ 0 → exec (.completionArrival tag st data) s = .next (quietRegions (reqFail r (if
        st = 1 then 7 else if st = 2 then 8 else 10) (dropReq tag s))))
    ∧ (∀ (tag st : Nat) (data : List Byte) (s : State), s.up = true → s.hbr.requests.find? (fun r => r.tag == tag) =
        none → exec (.completionArrival tag st data) s = .next (s.cnt (hbrReg 0x11C) 1))
    ∧ (∀ (tag : Nat) (r : OutReq) (s : State), s.up = true → s.hbr.requests.find? (fun r => r.tag == tag) = some r →
        exec (.completionTimeout tag) s = .next (quietRegions (reqFail r 9 (dropReq tag s))))
    ∧ (∀ (f v mark : Nat) (s t : State), s.up = true → s.hbr.msixQueue.find? (fun e => fnMasters s e.1 && (s.fn
        e.1).msixEn && earlierDone s e.2.2) = some (f, v, mark) → t = s.withHbr (fun h =>
        { h with msixQueue := h.msixQueue.erase (f, v, mark) }) → exec .msixSend s = .next (if vectorMasked (t.fn f) v
        then t.setFn f { t.fn f with pba := setBit (t.fn f).pba v true } else msixGo f v t))
    ∧ (∀ (f g : Nat) (x : SbGroup) (s : State), s.up = true → f < 8 ∧ g < 4 ∧ grpMode s f g = 2 → x = sbGroup s f g ∧
        x.want = true ∧ x.inFlight = false ∧ earlierDone s x.mark = true → exec (.sidebandWrite f g) s = .next
        (bridgeIssue (bridgeReq f g (.sbWrite g) 0 8 (leBytes 4 x.pend.toNat ++ leBytes 4 (x.seq + 1).toNat)
        (setSbGroup f g
        { x with seq := x.seq + 1, written := x.pend, since := 0, want := false, inFlight := true, retry := false }
        s)) (setSbGroup f g
        { x with seq := x.seq + 1, written := x.pend, since := 0, want := false, inFlight := true, retry := false }
        s)))
    ∧ (∀ (f g : Nat) (x : SbGroup) (s : State), s.up = true → f < 8 ∧ g < 4 ∧ grpMode s f g = 2 → x = sbGroup s f g ∧
        x.retry = true ∧ x.polling = false → exec (.sidebandPoll f g) s = .next (setSbGroup f g
        { x with retry := false, want := true } s))
    ∧ (∀ (f g : Nat) (x : SbGroup) (s : State), s.up = true → f < 8 ∧ g < 4 ∧ grpMode s f g = 2 → x = sbGroup s f g ∧
        x.pend ≠ 0 ∧ x.ready = true ∧ x.retry = false ∧ x.polling = false → exec (.sidebandPoll f g) s = .next
        (bridgeIssue (bridgeReq f g (.sbPoll g) 8 4 [] s) (setSbGroup f g { x with polling := true } s)))
    ∧ (∀ (m : Nat) (s t : State), MayRead s m 17 .none = true → t = s.withHbr (fun h =>
        { h with log := h.log.tail, latch := tput LogEntry.none h.latch m (s.hbr.log.headD LogEntry.none) }) → exec
        (.hbrErrPop m) s = .next ((t.sf (hbrReg 0x4C) 4 0 t.hbr.log.length).reply m [(s.hbr.log.headD
        LogEntry.none).lo] false))

/-- The bridge's opcodes set a region and the timeout, report the link and a function's groups, and return the log and
  the counters. Details that the rules leave open are the model's choice (log entry 46) (R530, R534, R539, R540, R541,
  R542). -/
def Obligations.HostBridgeOpcodes : Prop :=
    (∀ (ring slot : Nat) (c : Cmd) (s0 s : State), Admits (specOf opsHbr 0x1100) ring slot c s0 s = true → c.p 32 8
        % 4096 = 0 ∧ 0x8000000000 ≤ c.p 32 8 ∧ c.p 40 4 ≠ 0 ∧ c.p 32 8 + c.p 40 4 * 4096 ≤ 0x10000000000 ∧ c.p 44 1 ≤
        7 ∧ c.p 45 1 ≤ 1 ∧ c.zero 46 2 = true ∧ c.p 48 8 % 4096 = 0 → (c.p 45 1 = 1 → overlaps s c.inst (c.p 32 8)
        (c.p 40 4 * 4096) = none) → regionEn s c.inst = false → exec (.hbrSetRegion ring slot) s0 = .next (okReply c
        [] 0 ((((((s.wr (regionReg c.inst 0) (BitVec.ofNat 32 (c.p 32 8))).wr (regionReg c.inst 4) (BitVec.ofNat 32
        (c.p 32 8 / 2 ^ 32))).wr (regionReg c.inst 8) (c.w 40)).wr (regionReg c.inst 0xC) (c.w 48)).wr (regionReg
        c.inst 0x10) (c.w 52)).wr (regionReg c.inst 0x14) (BitVec.ofNat 32 (c.p 45 1 + c.p 44 1 * 256)))))
    ∧ (∀ (ring slot : Nat) (c : Cmd) (s0 s : State), Admits (specOf opsHbr 0x1100) ring slot c s0 s = true → c.p 32 8
        % 4096 = 0 ∧ 0x8000000000 ≤ c.p 32 8 ∧ c.p 40 4 ≠ 0 ∧ c.p 32 8 + c.p 40 4 * 4096 ≤ 0x10000000000 ∧ c.p 44 1 ≤
        7 ∧ c.p 45 1 = 0 ∧ c.zero 46 2 = true ∧ c.p 48 8 % 4096 = 0 → regionEn s c.inst = true ∧ ((s.sb (regionReg
        c.inst 0x14) 0 false).hbr.requests ++ s.hbr.waiting).any (fun q => q.region == c.inst) = false → exec
        (.hbrSetRegion ring slot) s0 = .next (okReply c [] 0 (s.sb (regionReg c.inst 0x14) 0 false)))
    ∧ (∀ (ring slot : Nat) (c : Cmd) (s0 s : State), Admits (specOf opsHbr 0x1100) ring slot c s0 s = true → c.p 32 8
        % 4096 = 0 ∧ 0x8000000000 ≤ c.p 32 8 ∧ c.p 40 4 ≠ 0 ∧ c.p 32 8 + c.p 40 4 * 4096 ≤ 0x10000000000 ∧ c.p 44 1 ≤
        7 ∧ c.p 45 1 = 0 ∧ c.zero 46 2 = true ∧ c.p 48 8 % 4096 = 0 → regionEn s c.inst = true ∧ (s.hbr.requests ++
        s.hbr.waiting).any (fun q => q.region == c.inst) = true → exec (.hbrSetRegion ring slot) s0 = .next
        (markRunning c (s.sb (regionReg c.inst 0x14) 0 false)))
    ∧ (∀ (ring slot : Nat) (c : Cmd) (s0 s : State), Admits (specOf opsHbr 0x1101) ring slot c s0 s = true → exec
        (.hbrLinkStatus ring slot) s0 = .next (okReply c (readRegs [hbrReg 0, hbrReg 4] s) 0 s))
    ∧ (∀ (ring slot : Nat) (c : Cmd) (s0 s : State), Admits (specOf opsHbr 0x1102) ring slot c s0 s = true → exec
        (.hbrFnStatus ring slot) s0 = .next (okReply c (leBytes 4 (s.fn c.inst).grpMode.toNat ++ (List.range
        4).flatMap (fun g => leBytes 4 (sbGroup s c.inst g).pend.toNat)) 0 s))
    ∧ (∀ (ring slot : Nat) (c : Cmd) (s0 s : State), Admits (specOf opsHbr 0x1103) ring slot c s0 s = true →
        s.hbr.log.length ≤ 16 → exec (.hbrLogRead ring slot) s0 = .next (okReply c (s.hbr.log.flatMap (fun e =>
        leBytes 4 e.lo.toNat ++ leBytes 4 e.hi.toNat ++ leBytes 2 e.info.toNat ++ [0, 0])) 0 ((s.withHbr (fun h =>
        { h with log := [] })).sf (hbrReg 0x4C) 4 0 0)))
    ∧ (∀ (ring slot : Nat) (c : Cmd) (s0 s : State), Admits (specOf opsHbr 0x1104) ring slot c s0 s = true → exec
        (.hbrCounters ring slot) s0 = .next (okReply c (takeCounters (regRun (hbrReg 0x100) 8) s).1 0 (takeCounters
        (regRun (hbrReg 0x100) 8) s).2))
    ∧ (∀ (ring slot : Nat) (c : Cmd) (s0 s : State), Admits (specOf opsHbr 0x1105) ring slot c s0 s = true → fld (c.w
        32) 31 28 = 0 ∧ cplTimeoutOk (c.w 32) = true → exec (.hbrSetCfg ring slot) s0 = .next (okReply c [] 0 (s.sf
        (hbrReg 4) 15 0 (fld (c.w 32) 15 0))))

/-- Writes on the fabric, and what a result listed as unpredictable keeps. Which contents such a result may change
  beside those is the model's choice (log entry 49). (R7, R18, R20, R21, R22, R23, R31, R32, R34, R36, R37, R46). -/
def Obligations.FabricWrites : Prop :=
    (∀ (d : RegDesc) (old v : Word) (i : Nat), i < 32 → ((d.rw ||| d.wo).testBit i = false ∨ (d.w1c.testBit i =
        false ∧ d.w1s.testBit i = false)) → (d.w1c.testBit i = false ∨ d.w1s.testBit i = false) → (writeByType d old
        v).getLsbD i = if (d.rw ||| d.wo).testBit i then v.getLsbD i else if d.w1c.testBit i then old.getLsbD i &&
        !v.getLsbD i else if d.w1s.testBit i then old.getLsbD i || v.getLsbD i else old.getLsbD i)
    ∧ (∀ (m a b off : Nat) (v : Word) (d : RegDesc) (s : State), MayWrite s m b (regMask b off) = true → s.ownWalk m a
        true = .ok (rg b off) ∧ b ≤ 18 ∧ off < 0x100000 ∧ off % 4 = 0 ∧ (b == 13 && lscRefused m off) = false →
        (rowWrite m b off v s).isNone = true ∧ regDesc (rg b off) = some d ∧ regFitted s b off = true → v &&& ~~~
        BitVec.ofNat 32 d.known = 0 ∧ (blockWrite m b off v s).isNone = true → exec (.registerWrite m a (leBytes 4
        v.toNat)) s = .next (s.wr (rg b off) (writeByType d (s.rd (rg b off)) v)))
    ∧ (∀ (m a b off : Nat) (v : Word) (d : RegDesc) (s : State), MayWrite s m b (regMask b off) = true → s.ownWalk m a
        true = .ok (rg b off) ∧ b ≤ 18 ∧ off < 0x100000 ∧ off % 4 = 0 ∧ (b == 13 && lscRefused m off) = false →
        (rowWrite m b off v s).isNone = true ∧ regDesc (rg b off) = some d ∧ regFitted s b off = true → v &&& ~~~
        BitVec.ofNat 32 d.known ≠ 0 → exec (.registerWrite m a (leBytes 4 v.toNat)) s = .next (s.stray m b))
    ∧ (∀ (m a b off : Nat) (v : Word) (d : RegDesc) (s : State), MayWrite s m b (regMask b off) = true → s.ownWalk m a
        true = .ok (rg b off) ∧ b ≤ 18 ∧ off < 0x100000 ∧ off % 4 = 0 ∧ (b == 13 && lscRefused m off) = false →
        (rowWrite m b off v s).isNone = true ∧ regDesc (rg b off) = some d ∧ regFitted s b off = false → exec
        (.registerWrite m a (leBytes 4 v.toNat)) s = .next s)
    ∧ (∀ (m a off : Nat) (v : Word) (s : State), s.up = true ∧ Issues s m = true → s.ownWalk m a true = .ok (rg 13
        off) ∧ off < 0x100000 ∧ off % 4 = 0 ∧ lscRefused m off = true → exec (.registerWrite m a (leBytes 4 v.toNat))
        s = .next (s.refuse m (rg 13 off) true))
    ∧ (∀ (m a b off : Nat) (v : Word) (s : State), s.up = true ∧ Issues s m = true ∧ reachesRegs s m = true →
        s.ownWalk m a true = .ok (rg b off) ∧ b ≤ 18 ∧ off < 0x100000 ∧ off % 4 = 0 ∧ (b == 13 && lscRefused m off) =
        false → (rowWrite m b off v s).isNone = true ∧ regDesc (rg b off) = none → exec (.registerWrite m a (leBytes 4
        v.toNat)) s = .next s)
    ∧ (∀ (m a b off : Nat) (v : Word) (d : RegDesc) (s : State), s.up = true ∧ Issues s m = true → s.ownWalk m a true
        = .ok (rg b off) ∧ b ≤ 18 ∧ off < 0x100000 ∧ off % 4 = 0 ∧ (b == 13 && lscRefused m off) = false → (rowWrite m
        b off v s).isNone = true ∧ regDesc (rg b off) = some d → (reachesRegs s m = false → exec (.registerWrite m a
        (leBytes 4 v.toNat)) s = .next (s.refuse m (rg b off) true)) ∧ (reachesRegs s m = true → (s.aclEntry b
        m).allows 1 (regMask b off) = false → exec (.registerWrite m a (leBytes 4 v.toNat)) s = .next (s.drop m)))
    ∧ (∀ (m a p : Nat) (data : List Byte) (s : State), s.up = true ∧ Issues s m = true → s.ownWalk m a true = .ok p ∧
        region p ≠ .regs ∧ region p ≠ .cluster ∧ region p ≠ .pcie → (List.range data.length).all (fun i => s.reaches m
        (p + i) true) = true → exec (.registerWrite m a data) s = .next (s.wrBytes p data) ∧ SameMem p data.length s
        (s.wrBytes p data) ∧ (∀ i, i < data.length → (s.wrBytes p data).rdB (p + i) = data.getD i 0) ∧ (∀ r,
        (s.wrBytes p data).rd r = s.rd r))
    ∧ (∀ (m a p : Nat) (data : List Byte) (s : State), s.up = true ∧ Issues s m = true → s.ownWalk m a true = .ok p ∧
        region p ≠ .regs ∧ region p ≠ .cluster ∧ region p ≠ .pcie → (List.range data.length).any (fun i => !s.reaches
        m (p + i) true) = true → exec (.registerWrite m a data) s = .next (s.refuse m p true))
    ∧ (∀ (m a p : Nat) (data : List Byte) (s : State), s.up = true ∧ Issues s m = true → s.ownWalk m a true = .ok p →
        (region p = .cluster → exec (.registerWrite m a data) s = .next (clusterWrite m p data s)) ∧ (region p = .regs
        → (data.length ≠ 4 ∨ p % 4 ≠ 0) → exec (.registerWrite m a data) s = .next (oddAccess m ((p - 0x40000000) /
        0x100000) ((p - 0x40000000) % 0x100000) data.length true s)))
    ∧ (∀ (m a : Nat) (e : XFault) (data : List Byte) (s : State), s.up = true ∧ Issues s m = true → s.ownWalk m a true
        = .error e → exec (.registerWrite m a data) s = .next (ownFault m a true e s))
    ∧ (∀ (m c : Nat) (s : State), (s.stray m c).acl = s.acl ∧ (∀ e ∈ (s.stray m c).cru.keys, e ∈ s.cru.keys) ∧
        (s.stray m c).rd (rg 0 4) = s.rd (rg 0 4) ∧ (∀ d, domainOf m ≠ some d → dom (s.stray m c) d = dom s d) ∧ (∀ d
        off, off < 0x1000 → domainOf m ≠ some d → d < 2 → (s.stray m c).rd (rg 13 (0x1000 + d * 0x1000 + off)) = s.rd
        (rg 13 (0x1000 + d * 0x1000 + off))) ∧ (∀ a, domainOf m = none → s.reaches m a true = false → (s.stray m
        c).rdB a = s.rdB a))
end

