-- ==== Sys2Proof/Laws/State.lean ====
section
/-! SUPPORT. What each update of the state leaves of each field, so that no later proof unfolds a record update. -/

namespace Sys2Proof.Machine

variable (s : State)

/-! ### State.wr changes `regs` alone -/

@[simp] theorem State.wr_pending (a : Nat) (v : Word) : (s.wr a v).pending = s.pending := rfl
@[simp] theorem State.wr_mem (a : Nat) (v : Word) : (s.wr a v).mem = s.mem := rfl
@[simp] theorem State.wr_bad (a : Nat) (v : Word) : (s.wr a v).bad = s.bad := rfl
@[simp] theorem State.wr_fresh (a : Nat) (v : Word) : (s.wr a v).fresh = s.fresh := rfl
@[simp] theorem State.wr_sys (a : Nat) (v : Word) : (s.wr a v).sys = s.sys := rfl
@[simp] theorem State.wr_mason (a : Nat) (v : Word) : (s.wr a v).mason = s.mason := rfl
@[simp] theorem State.wr_acl (a : Nat) (v : Word) : (s.wr a v).acl = s.acl := rfl
@[simp] theorem State.wr_tim (a : Nat) (v : Word) : (s.wr a v).tim = s.tim := rfl
@[simp] theorem State.wr_swc (a : Nat) (v : Word) : (s.wr a v).swc = s.swc := rfl
@[simp] theorem State.wr_prs (a : Nat) (v : Word) : (s.wr a v).prs = s.prs := rfl
@[simp] theorem State.wr_rul (a : Nat) (v : Word) : (s.wr a v).rul = s.rul := rfl
@[simp] theorem State.wr_tmg (a : Nat) (v : Word) : (s.wr a v).tmg = s.tmg := rfl
@[simp] theorem State.wr_eth (a : Nat) (v : Word) : (s.wr a v).eth = s.eth := rfl
@[simp] theorem State.wr_cln (a : Nat) (v : Word) : (s.wr a v).cln = s.cln := rfl
@[simp] theorem State.wr_gwy (a : Nat) (v : Word) : (s.wr a v).gwy = s.gwy := rfl
@[simp] theorem State.wr_cru (a : Nat) (v : Word) : (s.wr a v).cru = s.cru := rfl
@[simp] theorem State.wr_qry (a : Nat) (v : Word) : (s.wr a v).qry = s.qry := rfl
@[simp] theorem State.wr_lsc (a : Nat) (v : Word) : (s.wr a v).lsc = s.lsc := rfl
@[simp] theorem State.wr_ord (a : Nat) (v : Word) : (s.wr a v).ord = s.ord := rfl
@[simp] theorem State.wr_lch (a : Nat) (v : Word) : (s.wr a v).lch = s.lch := rfl
@[simp] theorem State.wr_key (a : Nat) (v : Word) : (s.wr a v).key = s.key := rfl
@[simp] theorem State.wr_hbr (a : Nat) (v : Word) : (s.wr a v).hbr = s.hbr := rfl
@[simp] theorem State.wr_hlt (a : Nat) (v : Word) : (s.wr a v).hlt = s.hlt := rfl
@[simp] theorem State.wr_cpu (a : Nat) (v : Word) : (s.wr a v).cpu = s.cpu := rfl
@[simp] theorem State.wr_notices (a : Nat) (v : Word) : (s.wr a v).notices = s.notices := rfl
@[simp] theorem State.wr_rdB (a : Nat) (v : Word) (r : Nat) : (s.wr a v).rdB r = s.rdB r := rfl

/-! ### State.wrB changes `mem` alone -/

@[simp] theorem State.wrB_pending (a : Nat) (b : Byte) : (s.wrB a b).pending = s.pending := rfl
@[simp] theorem State.wrB_regs (a : Nat) (b : Byte) : (s.wrB a b).regs = s.regs := rfl
@[simp] theorem State.wrB_fresh (a : Nat) (b : Byte) : (s.wrB a b).fresh = s.fresh := rfl
@[simp] theorem State.wrB_sys (a : Nat) (b : Byte) : (s.wrB a b).sys = s.sys := rfl
@[simp] theorem State.wrB_mason (a : Nat) (b : Byte) : (s.wrB a b).mason = s.mason := rfl
@[simp] theorem State.wrB_acl (a : Nat) (b : Byte) : (s.wrB a b).acl = s.acl := rfl
@[simp] theorem State.wrB_tim (a : Nat) (b : Byte) : (s.wrB a b).tim = s.tim := rfl
@[simp] theorem State.wrB_swc (a : Nat) (b : Byte) : (s.wrB a b).swc = s.swc := rfl
@[simp] theorem State.wrB_prs (a : Nat) (b : Byte) : (s.wrB a b).prs = s.prs := rfl
@[simp] theorem State.wrB_rul (a : Nat) (b : Byte) : (s.wrB a b).rul = s.rul := rfl
@[simp] theorem State.wrB_tmg (a : Nat) (b : Byte) : (s.wrB a b).tmg = s.tmg := rfl
@[simp] theorem State.wrB_eth (a : Nat) (b : Byte) : (s.wrB a b).eth = s.eth := rfl
@[simp] theorem State.wrB_cln (a : Nat) (b : Byte) : (s.wrB a b).cln = s.cln := rfl
@[simp] theorem State.wrB_gwy (a : Nat) (b : Byte) : (s.wrB a b).gwy = s.gwy := rfl
@[simp] theorem State.wrB_cru (a : Nat) (b : Byte) : (s.wrB a b).cru = s.cru := rfl
@[simp] theorem State.wrB_qry (a : Nat) (b : Byte) : (s.wrB a b).qry = s.qry := rfl
@[simp] theorem State.wrB_lsc (a : Nat) (b : Byte) : (s.wrB a b).lsc = s.lsc := rfl
@[simp] theorem State.wrB_ord (a : Nat) (b : Byte) : (s.wrB a b).ord = s.ord := rfl
@[simp] theorem State.wrB_lch (a : Nat) (b : Byte) : (s.wrB a b).lch = s.lch := rfl
@[simp] theorem State.wrB_key (a : Nat) (b : Byte) : (s.wrB a b).key = s.key := rfl
@[simp] theorem State.wrB_hbr (a : Nat) (b : Byte) : (s.wrB a b).hbr = s.hbr := rfl
@[simp] theorem State.wrB_hlt (a : Nat) (b : Byte) : (s.wrB a b).hlt = s.hlt := rfl
@[simp] theorem State.wrB_cpu (a : Nat) (b : Byte) : (s.wrB a b).cpu = s.cpu := rfl
@[simp] theorem State.wrB_notices (a : Nat) (b : Byte) : (s.wrB a b).notices = s.notices := rfl
@[simp] theorem State.wrB_rd (a : Nat) (b : Byte) (r : Nat) : (s.wrB a b).rd r = s.rd r := rfl

/-! ### State.sf changes `regs` alone -/

@[simp] theorem State.sf_pending (a hi lo n : Nat) : (s.sf a hi lo n).pending = s.pending := rfl
@[simp] theorem State.sf_mem (a hi lo n : Nat) : (s.sf a hi lo n).mem = s.mem := rfl
@[simp] theorem State.sf_bad (a hi lo n : Nat) : (s.sf a hi lo n).bad = s.bad := rfl
@[simp] theorem State.sf_fresh (a hi lo n : Nat) : (s.sf a hi lo n).fresh = s.fresh := rfl
@[simp] theorem State.sf_sys (a hi lo n : Nat) : (s.sf a hi lo n).sys = s.sys := rfl
@[simp] theorem State.sf_mason (a hi lo n : Nat) : (s.sf a hi lo n).mason = s.mason := rfl
@[simp] theorem State.sf_acl (a hi lo n : Nat) : (s.sf a hi lo n).acl = s.acl := rfl
@[simp] theorem State.sf_tim (a hi lo n : Nat) : (s.sf a hi lo n).tim = s.tim := rfl
@[simp] theorem State.sf_swc (a hi lo n : Nat) : (s.sf a hi lo n).swc = s.swc := rfl
@[simp] theorem State.sf_prs (a hi lo n : Nat) : (s.sf a hi lo n).prs = s.prs := rfl
@[simp] theorem State.sf_rul (a hi lo n : Nat) : (s.sf a hi lo n).rul = s.rul := rfl
@[simp] theorem State.sf_tmg (a hi lo n : Nat) : (s.sf a hi lo n).tmg = s.tmg := rfl
@[simp] theorem State.sf_eth (a hi lo n : Nat) : (s.sf a hi lo n).eth = s.eth := rfl
@[simp] theorem State.sf_cln (a hi lo n : Nat) : (s.sf a hi lo n).cln = s.cln := rfl
@[simp] theorem State.sf_gwy (a hi lo n : Nat) : (s.sf a hi lo n).gwy = s.gwy := rfl
@[simp] theorem State.sf_cru (a hi lo n : Nat) : (s.sf a hi lo n).cru = s.cru := rfl
@[simp] theorem State.sf_qry (a hi lo n : Nat) : (s.sf a hi lo n).qry = s.qry := rfl
@[simp] theorem State.sf_lsc (a hi lo n : Nat) : (s.sf a hi lo n).lsc = s.lsc := rfl
@[simp] theorem State.sf_ord (a hi lo n : Nat) : (s.sf a hi lo n).ord = s.ord := rfl
@[simp] theorem State.sf_lch (a hi lo n : Nat) : (s.sf a hi lo n).lch = s.lch := rfl
@[simp] theorem State.sf_key (a hi lo n : Nat) : (s.sf a hi lo n).key = s.key := rfl
@[simp] theorem State.sf_hbr (a hi lo n : Nat) : (s.sf a hi lo n).hbr = s.hbr := rfl
@[simp] theorem State.sf_hlt (a hi lo n : Nat) : (s.sf a hi lo n).hlt = s.hlt := rfl
@[simp] theorem State.sf_cpu (a hi lo n : Nat) : (s.sf a hi lo n).cpu = s.cpu := rfl
@[simp] theorem State.sf_notices (a hi lo n : Nat) : (s.sf a hi lo n).notices = s.notices := rfl
@[simp] theorem State.sf_rdB (a hi lo n : Nat) (r : Nat) : (s.sf a hi lo n).rdB r = s.rdB r := rfl

/-! ### State.sb changes `regs` alone -/

@[simp] theorem State.sb_pending (a i : Nat) (v : Bool) : (s.sb a i v).pending = s.pending := rfl
@[simp] theorem State.sb_mem (a i : Nat) (v : Bool) : (s.sb a i v).mem = s.mem := rfl
@[simp] theorem State.sb_bad (a i : Nat) (v : Bool) : (s.sb a i v).bad = s.bad := rfl
@[simp] theorem State.sb_fresh (a i : Nat) (v : Bool) : (s.sb a i v).fresh = s.fresh := rfl
@[simp] theorem State.sb_sys (a i : Nat) (v : Bool) : (s.sb a i v).sys = s.sys := rfl
@[simp] theorem State.sb_mason (a i : Nat) (v : Bool) : (s.sb a i v).mason = s.mason := rfl
@[simp] theorem State.sb_acl (a i : Nat) (v : Bool) : (s.sb a i v).acl = s.acl := rfl
@[simp] theorem State.sb_tim (a i : Nat) (v : Bool) : (s.sb a i v).tim = s.tim := rfl
@[simp] theorem State.sb_swc (a i : Nat) (v : Bool) : (s.sb a i v).swc = s.swc := rfl
@[simp] theorem State.sb_prs (a i : Nat) (v : Bool) : (s.sb a i v).prs = s.prs := rfl
@[simp] theorem State.sb_rul (a i : Nat) (v : Bool) : (s.sb a i v).rul = s.rul := rfl
@[simp] theorem State.sb_tmg (a i : Nat) (v : Bool) : (s.sb a i v).tmg = s.tmg := rfl
@[simp] theorem State.sb_eth (a i : Nat) (v : Bool) : (s.sb a i v).eth = s.eth := rfl
@[simp] theorem State.sb_cln (a i : Nat) (v : Bool) : (s.sb a i v).cln = s.cln := rfl
@[simp] theorem State.sb_gwy (a i : Nat) (v : Bool) : (s.sb a i v).gwy = s.gwy := rfl
@[simp] theorem State.sb_cru (a i : Nat) (v : Bool) : (s.sb a i v).cru = s.cru := rfl
@[simp] theorem State.sb_qry (a i : Nat) (v : Bool) : (s.sb a i v).qry = s.qry := rfl
@[simp] theorem State.sb_lsc (a i : Nat) (v : Bool) : (s.sb a i v).lsc = s.lsc := rfl
@[simp] theorem State.sb_ord (a i : Nat) (v : Bool) : (s.sb a i v).ord = s.ord := rfl
@[simp] theorem State.sb_lch (a i : Nat) (v : Bool) : (s.sb a i v).lch = s.lch := rfl
@[simp] theorem State.sb_key (a i : Nat) (v : Bool) : (s.sb a i v).key = s.key := rfl
@[simp] theorem State.sb_hbr (a i : Nat) (v : Bool) : (s.sb a i v).hbr = s.hbr := rfl
@[simp] theorem State.sb_hlt (a i : Nat) (v : Bool) : (s.sb a i v).hlt = s.hlt := rfl
@[simp] theorem State.sb_cpu (a i : Nat) (v : Bool) : (s.sb a i v).cpu = s.cpu := rfl
@[simp] theorem State.sb_notices (a i : Nat) (v : Bool) : (s.sb a i v).notices = s.notices := rfl
@[simp] theorem State.sb_rdB (a i : Nat) (v : Bool) (r : Nat) : (s.sb a i v).rdB r = s.rdB r := rfl

/-! ### State.cnt changes `regs` alone -/

@[simp] theorem State.cnt_pending (a n : Nat) : (s.cnt a n).pending = s.pending := rfl
@[simp] theorem State.cnt_mem (a n : Nat) : (s.cnt a n).mem = s.mem := rfl
@[simp] theorem State.cnt_bad (a n : Nat) : (s.cnt a n).bad = s.bad := rfl
@[simp] theorem State.cnt_fresh (a n : Nat) : (s.cnt a n).fresh = s.fresh := rfl
@[simp] theorem State.cnt_sys (a n : Nat) : (s.cnt a n).sys = s.sys := rfl
@[simp] theorem State.cnt_mason (a n : Nat) : (s.cnt a n).mason = s.mason := rfl
@[simp] theorem State.cnt_acl (a n : Nat) : (s.cnt a n).acl = s.acl := rfl
@[simp] theorem State.cnt_tim (a n : Nat) : (s.cnt a n).tim = s.tim := rfl
@[simp] theorem State.cnt_swc (a n : Nat) : (s.cnt a n).swc = s.swc := rfl
@[simp] theorem State.cnt_prs (a n : Nat) : (s.cnt a n).prs = s.prs := rfl
@[simp] theorem State.cnt_rul (a n : Nat) : (s.cnt a n).rul = s.rul := rfl
@[simp] theorem State.cnt_tmg (a n : Nat) : (s.cnt a n).tmg = s.tmg := rfl
@[simp] theorem State.cnt_eth (a n : Nat) : (s.cnt a n).eth = s.eth := rfl
@[simp] theorem State.cnt_cln (a n : Nat) : (s.cnt a n).cln = s.cln := rfl
@[simp] theorem State.cnt_gwy (a n : Nat) : (s.cnt a n).gwy = s.gwy := rfl
@[simp] theorem State.cnt_cru (a n : Nat) : (s.cnt a n).cru = s.cru := rfl
@[simp] theorem State.cnt_qry (a n : Nat) : (s.cnt a n).qry = s.qry := rfl
@[simp] theorem State.cnt_lsc (a n : Nat) : (s.cnt a n).lsc = s.lsc := rfl
@[simp] theorem State.cnt_ord (a n : Nat) : (s.cnt a n).ord = s.ord := rfl
@[simp] theorem State.cnt_lch (a n : Nat) : (s.cnt a n).lch = s.lch := rfl
@[simp] theorem State.cnt_key (a n : Nat) : (s.cnt a n).key = s.key := rfl
@[simp] theorem State.cnt_hbr (a n : Nat) : (s.cnt a n).hbr = s.hbr := rfl
@[simp] theorem State.cnt_hlt (a n : Nat) : (s.cnt a n).hlt = s.hlt := rfl
@[simp] theorem State.cnt_cpu (a n : Nat) : (s.cnt a n).cpu = s.cpu := rfl
@[simp] theorem State.cnt_notices (a n : Nat) : (s.cnt a n).notices = s.notices := rfl
@[simp] theorem State.cnt_rdB (a n : Nat) (r : Nat) : (s.cnt a n).rdB r = s.rdB r := rfl

/-! ### State.cntF changes `regs` alone -/

@[simp] theorem State.cntF_pending (a hi lo n : Nat) : (s.cntF a hi lo n).pending = s.pending := rfl
@[simp] theorem State.cntF_mem (a hi lo n : Nat) : (s.cntF a hi lo n).mem = s.mem := rfl
@[simp] theorem State.cntF_bad (a hi lo n : Nat) : (s.cntF a hi lo n).bad = s.bad := rfl
@[simp] theorem State.cntF_fresh (a hi lo n : Nat) : (s.cntF a hi lo n).fresh = s.fresh := rfl
@[simp] theorem State.cntF_sys (a hi lo n : Nat) : (s.cntF a hi lo n).sys = s.sys := rfl
@[simp] theorem State.cntF_mason (a hi lo n : Nat) : (s.cntF a hi lo n).mason = s.mason := rfl
@[simp] theorem State.cntF_acl (a hi lo n : Nat) : (s.cntF a hi lo n).acl = s.acl := rfl
@[simp] theorem State.cntF_tim (a hi lo n : Nat) : (s.cntF a hi lo n).tim = s.tim := rfl
@[simp] theorem State.cntF_swc (a hi lo n : Nat) : (s.cntF a hi lo n).swc = s.swc := rfl
@[simp] theorem State.cntF_prs (a hi lo n : Nat) : (s.cntF a hi lo n).prs = s.prs := rfl
@[simp] theorem State.cntF_rul (a hi lo n : Nat) : (s.cntF a hi lo n).rul = s.rul := rfl
@[simp] theorem State.cntF_tmg (a hi lo n : Nat) : (s.cntF a hi lo n).tmg = s.tmg := rfl
@[simp] theorem State.cntF_eth (a hi lo n : Nat) : (s.cntF a hi lo n).eth = s.eth := rfl
@[simp] theorem State.cntF_cln (a hi lo n : Nat) : (s.cntF a hi lo n).cln = s.cln := rfl
@[simp] theorem State.cntF_gwy (a hi lo n : Nat) : (s.cntF a hi lo n).gwy = s.gwy := rfl
@[simp] theorem State.cntF_cru (a hi lo n : Nat) : (s.cntF a hi lo n).cru = s.cru := rfl
@[simp] theorem State.cntF_qry (a hi lo n : Nat) : (s.cntF a hi lo n).qry = s.qry := rfl
@[simp] theorem State.cntF_lsc (a hi lo n : Nat) : (s.cntF a hi lo n).lsc = s.lsc := rfl
@[simp] theorem State.cntF_ord (a hi lo n : Nat) : (s.cntF a hi lo n).ord = s.ord := rfl
@[simp] theorem State.cntF_lch (a hi lo n : Nat) : (s.cntF a hi lo n).lch = s.lch := rfl
@[simp] theorem State.cntF_key (a hi lo n : Nat) : (s.cntF a hi lo n).key = s.key := rfl
@[simp] theorem State.cntF_hbr (a hi lo n : Nat) : (s.cntF a hi lo n).hbr = s.hbr := rfl
@[simp] theorem State.cntF_hlt (a hi lo n : Nat) : (s.cntF a hi lo n).hlt = s.hlt := rfl
@[simp] theorem State.cntF_cpu (a hi lo n : Nat) : (s.cntF a hi lo n).cpu = s.cpu := rfl
@[simp] theorem State.cntF_notices (a hi lo n : Nat) : (s.cntF a hi lo n).notices = s.notices := rfl
@[simp] theorem State.cntF_rdB (a hi lo n : Nat) (r : Nat) : (s.cntF a hi lo n).rdB r = s.rdB r := rfl

/-! ### State.setFn changes `hbr` alone -/

@[simp] theorem State.setFn_pending (f : Nat) (x : Fn) : (s.setFn f x).pending = s.pending := rfl
@[simp] theorem State.setFn_regs (f : Nat) (x : Fn) : (s.setFn f x).regs = s.regs := rfl
@[simp] theorem State.setFn_mem (f : Nat) (x : Fn) : (s.setFn f x).mem = s.mem := rfl
@[simp] theorem State.setFn_bad (f : Nat) (x : Fn) : (s.setFn f x).bad = s.bad := rfl
@[simp] theorem State.setFn_fresh (f : Nat) (x : Fn) : (s.setFn f x).fresh = s.fresh := rfl
@[simp] theorem State.setFn_sys (f : Nat) (x : Fn) : (s.setFn f x).sys = s.sys := rfl
@[simp] theorem State.setFn_mason (f : Nat) (x : Fn) : (s.setFn f x).mason = s.mason := rfl
@[simp] theorem State.setFn_acl (f : Nat) (x : Fn) : (s.setFn f x).acl = s.acl := rfl
@[simp] theorem State.setFn_tim (f : Nat) (x : Fn) : (s.setFn f x).tim = s.tim := rfl
@[simp] theorem State.setFn_swc (f : Nat) (x : Fn) : (s.setFn f x).swc = s.swc := rfl
@[simp] theorem State.setFn_prs (f : Nat) (x : Fn) : (s.setFn f x).prs = s.prs := rfl
@[simp] theorem State.setFn_rul (f : Nat) (x : Fn) : (s.setFn f x).rul = s.rul := rfl
@[simp] theorem State.setFn_tmg (f : Nat) (x : Fn) : (s.setFn f x).tmg = s.tmg := rfl
@[simp] theorem State.setFn_eth (f : Nat) (x : Fn) : (s.setFn f x).eth = s.eth := rfl
@[simp] theorem State.setFn_cln (f : Nat) (x : Fn) : (s.setFn f x).cln = s.cln := rfl
@[simp] theorem State.setFn_gwy (f : Nat) (x : Fn) : (s.setFn f x).gwy = s.gwy := rfl
@[simp] theorem State.setFn_cru (f : Nat) (x : Fn) : (s.setFn f x).cru = s.cru := rfl
@[simp] theorem State.setFn_qry (f : Nat) (x : Fn) : (s.setFn f x).qry = s.qry := rfl
@[simp] theorem State.setFn_lsc (f : Nat) (x : Fn) : (s.setFn f x).lsc = s.lsc := rfl
@[simp] theorem State.setFn_ord (f : Nat) (x : Fn) : (s.setFn f x).ord = s.ord := rfl
@[simp] theorem State.setFn_lch (f : Nat) (x : Fn) : (s.setFn f x).lch = s.lch := rfl
@[simp] theorem State.setFn_key (f : Nat) (x : Fn) : (s.setFn f x).key = s.key := rfl
@[simp] theorem State.setFn_hlt (f : Nat) (x : Fn) : (s.setFn f x).hlt = s.hlt := rfl
@[simp] theorem State.setFn_cpu (f : Nat) (x : Fn) : (s.setFn f x).cpu = s.cpu := rfl
@[simp] theorem State.setFn_notices (f : Nat) (x : Fn) : (s.setFn f x).notices = s.notices := rfl
@[simp] theorem State.setFn_rd (f : Nat) (x : Fn) (r : Nat) : (s.setFn f x).rd r = s.rd r := rfl
@[simp] theorem State.setFn_rdB (f : Nat) (x : Fn) (r : Nat) : (s.setFn f x).rdB r = s.rdB r := rfl

/-! ### State.reply changes `sys` alone -/

@[simp] theorem State.reply_pending (m : Nat) (ws : List Word) (e : Bool) : (s.reply m ws e).pending = s.pending := rfl
@[simp] theorem State.reply_regs (m : Nat) (ws : List Word) (e : Bool) : (s.reply m ws e).regs = s.regs := rfl
@[simp] theorem State.reply_mem (m : Nat) (ws : List Word) (e : Bool) : (s.reply m ws e).mem = s.mem := rfl
@[simp] theorem State.reply_bad (m : Nat) (ws : List Word) (e : Bool) : (s.reply m ws e).bad = s.bad := rfl
@[simp] theorem State.reply_fresh (m : Nat) (ws : List Word) (e : Bool) : (s.reply m ws e).fresh = s.fresh := rfl
@[simp] theorem State.reply_mason (m : Nat) (ws : List Word) (e : Bool) : (s.reply m ws e).mason = s.mason := rfl
@[simp] theorem State.reply_acl (m : Nat) (ws : List Word) (e : Bool) : (s.reply m ws e).acl = s.acl := rfl
@[simp] theorem State.reply_tim (m : Nat) (ws : List Word) (e : Bool) : (s.reply m ws e).tim = s.tim := rfl
@[simp] theorem State.reply_swc (m : Nat) (ws : List Word) (e : Bool) : (s.reply m ws e).swc = s.swc := rfl
@[simp] theorem State.reply_prs (m : Nat) (ws : List Word) (e : Bool) : (s.reply m ws e).prs = s.prs := rfl
@[simp] theorem State.reply_rul (m : Nat) (ws : List Word) (e : Bool) : (s.reply m ws e).rul = s.rul := rfl
@[simp] theorem State.reply_tmg (m : Nat) (ws : List Word) (e : Bool) : (s.reply m ws e).tmg = s.tmg := rfl
@[simp] theorem State.reply_eth (m : Nat) (ws : List Word) (e : Bool) : (s.reply m ws e).eth = s.eth := rfl
@[simp] theorem State.reply_cln (m : Nat) (ws : List Word) (e : Bool) : (s.reply m ws e).cln = s.cln := rfl
@[simp] theorem State.reply_gwy (m : Nat) (ws : List Word) (e : Bool) : (s.reply m ws e).gwy = s.gwy := rfl
@[simp] theorem State.reply_cru (m : Nat) (ws : List Word) (e : Bool) : (s.reply m ws e).cru = s.cru := rfl
@[simp] theorem State.reply_qry (m : Nat) (ws : List Word) (e : Bool) : (s.reply m ws e).qry = s.qry := rfl
@[simp] theorem State.reply_lsc (m : Nat) (ws : List Word) (e : Bool) : (s.reply m ws e).lsc = s.lsc := rfl
@[simp] theorem State.reply_ord (m : Nat) (ws : List Word) (e : Bool) : (s.reply m ws e).ord = s.ord := rfl
@[simp] theorem State.reply_lch (m : Nat) (ws : List Word) (e : Bool) : (s.reply m ws e).lch = s.lch := rfl
@[simp] theorem State.reply_key (m : Nat) (ws : List Word) (e : Bool) : (s.reply m ws e).key = s.key := rfl
@[simp] theorem State.reply_hbr (m : Nat) (ws : List Word) (e : Bool) : (s.reply m ws e).hbr = s.hbr := rfl
@[simp] theorem State.reply_hlt (m : Nat) (ws : List Word) (e : Bool) : (s.reply m ws e).hlt = s.hlt := rfl
@[simp] theorem State.reply_cpu (m : Nat) (ws : List Word) (e : Bool) : (s.reply m ws e).cpu = s.cpu := rfl
@[simp] theorem State.reply_notices (m : Nat) (ws : List Word) (e : Bool) : (s.reply m ws e).notices = s.notices := rfl
@[simp] theorem State.reply_rd (m : Nat) (ws : List Word) (e : Bool) (r : Nat) : (s.reply m ws e).rd r = s.rd r := rfl
@[simp] theorem State.reply_rdB (m : Nat) (ws : List Word) (e : Bool) (r : Nat) : (s.reply m ws e).rdB r = s.rdB r := rfl

/-! ### State.drop changes `sys` alone -/

@[simp] theorem State.drop_pending (m : Nat) : (s.drop m).pending = s.pending := rfl
@[simp] theorem State.drop_regs (m : Nat) : (s.drop m).regs = s.regs := rfl
@[simp] theorem State.drop_mem (m : Nat) : (s.drop m).mem = s.mem := rfl
@[simp] theorem State.drop_bad (m : Nat) : (s.drop m).bad = s.bad := rfl
@[simp] theorem State.drop_fresh (m : Nat) : (s.drop m).fresh = s.fresh := rfl
@[simp] theorem State.drop_mason (m : Nat) : (s.drop m).mason = s.mason := rfl
@[simp] theorem State.drop_acl (m : Nat) : (s.drop m).acl = s.acl := rfl
@[simp] theorem State.drop_tim (m : Nat) : (s.drop m).tim = s.tim := rfl
@[simp] theorem State.drop_swc (m : Nat) : (s.drop m).swc = s.swc := rfl
@[simp] theorem State.drop_prs (m : Nat) : (s.drop m).prs = s.prs := rfl
@[simp] theorem State.drop_rul (m : Nat) : (s.drop m).rul = s.rul := rfl
@[simp] theorem State.drop_tmg (m : Nat) : (s.drop m).tmg = s.tmg := rfl
@[simp] theorem State.drop_eth (m : Nat) : (s.drop m).eth = s.eth := rfl
@[simp] theorem State.drop_cln (m : Nat) : (s.drop m).cln = s.cln := rfl
@[simp] theorem State.drop_gwy (m : Nat) : (s.drop m).gwy = s.gwy := rfl
@[simp] theorem State.drop_cru (m : Nat) : (s.drop m).cru = s.cru := rfl
@[simp] theorem State.drop_qry (m : Nat) : (s.drop m).qry = s.qry := rfl
@[simp] theorem State.drop_lsc (m : Nat) : (s.drop m).lsc = s.lsc := rfl
@[simp] theorem State.drop_ord (m : Nat) : (s.drop m).ord = s.ord := rfl
@[simp] theorem State.drop_lch (m : Nat) : (s.drop m).lch = s.lch := rfl
@[simp] theorem State.drop_key (m : Nat) : (s.drop m).key = s.key := rfl
@[simp] theorem State.drop_hbr (m : Nat) : (s.drop m).hbr = s.hbr := rfl
@[simp] theorem State.drop_hlt (m : Nat) : (s.drop m).hlt = s.hlt := rfl
@[simp] theorem State.drop_cpu (m : Nat) : (s.drop m).cpu = s.cpu := rfl
@[simp] theorem State.drop_notices (m : Nat) : (s.drop m).notices = s.notices := rfl
@[simp] theorem State.drop_rd (m : Nat) (r : Nat) : (s.drop m).rd r = s.rd r := rfl
@[simp] theorem State.drop_rdB (m : Nat) (r : Nat) : (s.drop m).rdB r = s.rdB r := rfl

/-! ### State.refuseRead changes `sys` alone -/

@[simp] theorem State.refuseRead_pending (b m : Nat) : (s.refuseRead b m).pending = s.pending := rfl
@[simp] theorem State.refuseRead_regs (b m : Nat) : (s.refuseRead b m).regs = s.regs := rfl
@[simp] theorem State.refuseRead_mem (b m : Nat) : (s.refuseRead b m).mem = s.mem := rfl
@[simp] theorem State.refuseRead_bad (b m : Nat) : (s.refuseRead b m).bad = s.bad := rfl
@[simp] theorem State.refuseRead_fresh (b m : Nat) : (s.refuseRead b m).fresh = s.fresh := rfl
@[simp] theorem State.refuseRead_mason (b m : Nat) : (s.refuseRead b m).mason = s.mason := rfl
@[simp] theorem State.refuseRead_acl (b m : Nat) : (s.refuseRead b m).acl = s.acl := rfl
@[simp] theorem State.refuseRead_tim (b m : Nat) : (s.refuseRead b m).tim = s.tim := rfl
@[simp] theorem State.refuseRead_swc (b m : Nat) : (s.refuseRead b m).swc = s.swc := rfl
@[simp] theorem State.refuseRead_prs (b m : Nat) : (s.refuseRead b m).prs = s.prs := rfl
@[simp] theorem State.refuseRead_rul (b m : Nat) : (s.refuseRead b m).rul = s.rul := rfl
@[simp] theorem State.refuseRead_tmg (b m : Nat) : (s.refuseRead b m).tmg = s.tmg := rfl
@[simp] theorem State.refuseRead_eth (b m : Nat) : (s.refuseRead b m).eth = s.eth := rfl
@[simp] theorem State.refuseRead_cln (b m : Nat) : (s.refuseRead b m).cln = s.cln := rfl
@[simp] theorem State.refuseRead_gwy (b m : Nat) : (s.refuseRead b m).gwy = s.gwy := rfl
@[simp] theorem State.refuseRead_cru (b m : Nat) : (s.refuseRead b m).cru = s.cru := rfl
@[simp] theorem State.refuseRead_qry (b m : Nat) : (s.refuseRead b m).qry = s.qry := rfl
@[simp] theorem State.refuseRead_lsc (b m : Nat) : (s.refuseRead b m).lsc = s.lsc := rfl
@[simp] theorem State.refuseRead_ord (b m : Nat) : (s.refuseRead b m).ord = s.ord := rfl
@[simp] theorem State.refuseRead_lch (b m : Nat) : (s.refuseRead b m).lch = s.lch := rfl
@[simp] theorem State.refuseRead_key (b m : Nat) : (s.refuseRead b m).key = s.key := rfl
@[simp] theorem State.refuseRead_hbr (b m : Nat) : (s.refuseRead b m).hbr = s.hbr := rfl
@[simp] theorem State.refuseRead_hlt (b m : Nat) : (s.refuseRead b m).hlt = s.hlt := rfl
@[simp] theorem State.refuseRead_cpu (b m : Nat) : (s.refuseRead b m).cpu = s.cpu := rfl
@[simp] theorem State.refuseRead_notices (b m : Nat) : (s.refuseRead b m).notices = s.notices := rfl
@[simp] theorem State.refuseRead_rd (b m : Nat) (r : Nat) : (s.refuseRead b m).rd r = s.rd r := rfl
@[simp] theorem State.refuseRead_rdB (b m : Nat) (r : Nat) : (s.refuseRead b m).rdB r = s.rdB r := rfl

/-! ### State.setEntry changes `acl` alone -/

@[simp] theorem State.setEntry_pending (b m : Nat) (e : AclEntry) : (s.setEntry b m e).pending = s.pending := rfl
@[simp] theorem State.setEntry_regs (b m : Nat) (e : AclEntry) : (s.setEntry b m e).regs = s.regs := rfl
@[simp] theorem State.setEntry_mem (b m : Nat) (e : AclEntry) : (s.setEntry b m e).mem = s.mem := rfl
@[simp] theorem State.setEntry_bad (b m : Nat) (e : AclEntry) : (s.setEntry b m e).bad = s.bad := rfl
@[simp] theorem State.setEntry_fresh (b m : Nat) (e : AclEntry) : (s.setEntry b m e).fresh = s.fresh := rfl
@[simp] theorem State.setEntry_sys (b m : Nat) (e : AclEntry) : (s.setEntry b m e).sys = s.sys := rfl
@[simp] theorem State.setEntry_mason (b m : Nat) (e : AclEntry) : (s.setEntry b m e).mason = s.mason := rfl
@[simp] theorem State.setEntry_tim (b m : Nat) (e : AclEntry) : (s.setEntry b m e).tim = s.tim := rfl
@[simp] theorem State.setEntry_swc (b m : Nat) (e : AclEntry) : (s.setEntry b m e).swc = s.swc := rfl
@[simp] theorem State.setEntry_prs (b m : Nat) (e : AclEntry) : (s.setEntry b m e).prs = s.prs := rfl
@[simp] theorem State.setEntry_rul (b m : Nat) (e : AclEntry) : (s.setEntry b m e).rul = s.rul := rfl
@[simp] theorem State.setEntry_tmg (b m : Nat) (e : AclEntry) : (s.setEntry b m e).tmg = s.tmg := rfl
@[simp] theorem State.setEntry_eth (b m : Nat) (e : AclEntry) : (s.setEntry b m e).eth = s.eth := rfl
@[simp] theorem State.setEntry_cln (b m : Nat) (e : AclEntry) : (s.setEntry b m e).cln = s.cln := rfl
@[simp] theorem State.setEntry_gwy (b m : Nat) (e : AclEntry) : (s.setEntry b m e).gwy = s.gwy := rfl
@[simp] theorem State.setEntry_cru (b m : Nat) (e : AclEntry) : (s.setEntry b m e).cru = s.cru := rfl
@[simp] theorem State.setEntry_qry (b m : Nat) (e : AclEntry) : (s.setEntry b m e).qry = s.qry := rfl
@[simp] theorem State.setEntry_lsc (b m : Nat) (e : AclEntry) : (s.setEntry b m e).lsc = s.lsc := rfl
@[simp] theorem State.setEntry_ord (b m : Nat) (e : AclEntry) : (s.setEntry b m e).ord = s.ord := rfl
@[simp] theorem State.setEntry_lch (b m : Nat) (e : AclEntry) : (s.setEntry b m e).lch = s.lch := rfl
@[simp] theorem State.setEntry_key (b m : Nat) (e : AclEntry) : (s.setEntry b m e).key = s.key := rfl
@[simp] theorem State.setEntry_hbr (b m : Nat) (e : AclEntry) : (s.setEntry b m e).hbr = s.hbr := rfl
@[simp] theorem State.setEntry_hlt (b m : Nat) (e : AclEntry) : (s.setEntry b m e).hlt = s.hlt := rfl
@[simp] theorem State.setEntry_cpu (b m : Nat) (e : AclEntry) : (s.setEntry b m e).cpu = s.cpu := rfl
@[simp] theorem State.setEntry_notices (b m : Nat) (e : AclEntry) : (s.setEntry b m e).notices = s.notices := rfl
@[simp] theorem State.setEntry_rd (b m : Nat) (e : AclEntry) (r : Nat) : (s.setEntry b m e).rd r = s.rd r := rfl
@[simp] theorem State.setEntry_rdB (b m : Nat) (e : AclEntry) (r : Nat) : (s.setEntry b m e).rdB r = s.rdB r := rfl

/-! ### State.setWindow changes `acl` alone -/

@[simp] theorem State.setWindow_pending (m w : Nat) (x : Window) : (s.setWindow m w x).pending = s.pending := rfl
@[simp] theorem State.setWindow_regs (m w : Nat) (x : Window) : (s.setWindow m w x).regs = s.regs := rfl
@[simp] theorem State.setWindow_mem (m w : Nat) (x : Window) : (s.setWindow m w x).mem = s.mem := rfl
@[simp] theorem State.setWindow_bad (m w : Nat) (x : Window) : (s.setWindow m w x).bad = s.bad := rfl
@[simp] theorem State.setWindow_fresh (m w : Nat) (x : Window) : (s.setWindow m w x).fresh = s.fresh := rfl
@[simp] theorem State.setWindow_sys (m w : Nat) (x : Window) : (s.setWindow m w x).sys = s.sys := rfl
@[simp] theorem State.setWindow_mason (m w : Nat) (x : Window) : (s.setWindow m w x).mason = s.mason := rfl
@[simp] theorem State.setWindow_tim (m w : Nat) (x : Window) : (s.setWindow m w x).tim = s.tim := rfl
@[simp] theorem State.setWindow_swc (m w : Nat) (x : Window) : (s.setWindow m w x).swc = s.swc := rfl
@[simp] theorem State.setWindow_prs (m w : Nat) (x : Window) : (s.setWindow m w x).prs = s.prs := rfl
@[simp] theorem State.setWindow_rul (m w : Nat) (x : Window) : (s.setWindow m w x).rul = s.rul := rfl
@[simp] theorem State.setWindow_tmg (m w : Nat) (x : Window) : (s.setWindow m w x).tmg = s.tmg := rfl
@[simp] theorem State.setWindow_eth (m w : Nat) (x : Window) : (s.setWindow m w x).eth = s.eth := rfl
@[simp] theorem State.setWindow_cln (m w : Nat) (x : Window) : (s.setWindow m w x).cln = s.cln := rfl
@[simp] theorem State.setWindow_gwy (m w : Nat) (x : Window) : (s.setWindow m w x).gwy = s.gwy := rfl
@[simp] theorem State.setWindow_cru (m w : Nat) (x : Window) : (s.setWindow m w x).cru = s.cru := rfl
@[simp] theorem State.setWindow_qry (m w : Nat) (x : Window) : (s.setWindow m w x).qry = s.qry := rfl
@[simp] theorem State.setWindow_lsc (m w : Nat) (x : Window) : (s.setWindow m w x).lsc = s.lsc := rfl
@[simp] theorem State.setWindow_ord (m w : Nat) (x : Window) : (s.setWindow m w x).ord = s.ord := rfl
@[simp] theorem State.setWindow_lch (m w : Nat) (x : Window) : (s.setWindow m w x).lch = s.lch := rfl
@[simp] theorem State.setWindow_key (m w : Nat) (x : Window) : (s.setWindow m w x).key = s.key := rfl
@[simp] theorem State.setWindow_hbr (m w : Nat) (x : Window) : (s.setWindow m w x).hbr = s.hbr := rfl
@[simp] theorem State.setWindow_hlt (m w : Nat) (x : Window) : (s.setWindow m w x).hlt = s.hlt := rfl
@[simp] theorem State.setWindow_cpu (m w : Nat) (x : Window) : (s.setWindow m w x).cpu = s.cpu := rfl
@[simp] theorem State.setWindow_notices (m w : Nat) (x : Window) : (s.setWindow m w x).notices = s.notices := rfl
@[simp] theorem State.setWindow_rd (m w : Nat) (x : Window) (r : Nat) : (s.setWindow m w x).rd r = s.rd r := rfl
@[simp] theorem State.setWindow_rdB (m w : Nat) (x : Window) (r : Nat) : (s.setWindow m w x).rdB r = s.rdB r := rfl

/-! ### State.withSwc changes `swc` alone -/

@[simp] theorem State.withSwc_pending (g : SwcState → SwcState) : (s.withSwc g).pending = s.pending := rfl
@[simp] theorem State.withSwc_regs (g : SwcState → SwcState) : (s.withSwc g).regs = s.regs := rfl
@[simp] theorem State.withSwc_mem (g : SwcState → SwcState) : (s.withSwc g).mem = s.mem := rfl
@[simp] theorem State.withSwc_bad (g : SwcState → SwcState) : (s.withSwc g).bad = s.bad := rfl
@[simp] theorem State.withSwc_fresh (g : SwcState → SwcState) : (s.withSwc g).fresh = s.fresh := rfl
@[simp] theorem State.withSwc_sys (g : SwcState → SwcState) : (s.withSwc g).sys = s.sys := rfl
@[simp] theorem State.withSwc_mason (g : SwcState → SwcState) : (s.withSwc g).mason = s.mason := rfl
@[simp] theorem State.withSwc_acl (g : SwcState → SwcState) : (s.withSwc g).acl = s.acl := rfl
@[simp] theorem State.withSwc_tim (g : SwcState → SwcState) : (s.withSwc g).tim = s.tim := rfl
@[simp] theorem State.withSwc_swc (g : SwcState → SwcState) : (s.withSwc g).swc = g s.swc := rfl
@[simp] theorem State.withSwc_prs (g : SwcState → SwcState) : (s.withSwc g).prs = s.prs := rfl
@[simp] theorem State.withSwc_rul (g : SwcState → SwcState) : (s.withSwc g).rul = s.rul := rfl
@[simp] theorem State.withSwc_tmg (g : SwcState → SwcState) : (s.withSwc g).tmg = s.tmg := rfl
@[simp] theorem State.withSwc_eth (g : SwcState → SwcState) : (s.withSwc g).eth = s.eth := rfl
@[simp] theorem State.withSwc_cln (g : SwcState → SwcState) : (s.withSwc g).cln = s.cln := rfl
@[simp] theorem State.withSwc_gwy (g : SwcState → SwcState) : (s.withSwc g).gwy = s.gwy := rfl
@[simp] theorem State.withSwc_cru (g : SwcState → SwcState) : (s.withSwc g).cru = s.cru := rfl
@[simp] theorem State.withSwc_qry (g : SwcState → SwcState) : (s.withSwc g).qry = s.qry := rfl
@[simp] theorem State.withSwc_lsc (g : SwcState → SwcState) : (s.withSwc g).lsc = s.lsc := rfl
@[simp] theorem State.withSwc_ord (g : SwcState → SwcState) : (s.withSwc g).ord = s.ord := rfl
@[simp] theorem State.withSwc_lch (g : SwcState → SwcState) : (s.withSwc g).lch = s.lch := rfl
@[simp] theorem State.withSwc_key (g : SwcState → SwcState) : (s.withSwc g).key = s.key := rfl
@[simp] theorem State.withSwc_hbr (g : SwcState → SwcState) : (s.withSwc g).hbr = s.hbr := rfl
@[simp] theorem State.withSwc_hlt (g : SwcState → SwcState) : (s.withSwc g).hlt = s.hlt := rfl
@[simp] theorem State.withSwc_cpu (g : SwcState → SwcState) : (s.withSwc g).cpu = s.cpu := rfl
@[simp] theorem State.withSwc_notices (g : SwcState → SwcState) : (s.withSwc g).notices = s.notices := rfl
@[simp] theorem State.withSwc_rd (g : SwcState → SwcState) (r : Nat) : (s.withSwc g).rd r = s.rd r := rfl
@[simp] theorem State.withSwc_rdB (g : SwcState → SwcState) (r : Nat) : (s.withSwc g).rdB r = s.rdB r := rfl

/-! ### State.withPrs changes `prs` alone -/

@[simp] theorem State.withPrs_pending (g : PrsState → PrsState) : (s.withPrs g).pending = s.pending := rfl
@[simp] theorem State.withPrs_regs (g : PrsState → PrsState) : (s.withPrs g).regs = s.regs := rfl
@[simp] theorem State.withPrs_mem (g : PrsState → PrsState) : (s.withPrs g).mem = s.mem := rfl
@[simp] theorem State.withPrs_bad (g : PrsState → PrsState) : (s.withPrs g).bad = s.bad := rfl
@[simp] theorem State.withPrs_fresh (g : PrsState → PrsState) : (s.withPrs g).fresh = s.fresh := rfl
@[simp] theorem State.withPrs_sys (g : PrsState → PrsState) : (s.withPrs g).sys = s.sys := rfl
@[simp] theorem State.withPrs_mason (g : PrsState → PrsState) : (s.withPrs g).mason = s.mason := rfl
@[simp] theorem State.withPrs_acl (g : PrsState → PrsState) : (s.withPrs g).acl = s.acl := rfl
@[simp] theorem State.withPrs_tim (g : PrsState → PrsState) : (s.withPrs g).tim = s.tim := rfl
@[simp] theorem State.withPrs_swc (g : PrsState → PrsState) : (s.withPrs g).swc = s.swc := rfl
@[simp] theorem State.withPrs_prs (g : PrsState → PrsState) : (s.withPrs g).prs = g s.prs := rfl
@[simp] theorem State.withPrs_rul (g : PrsState → PrsState) : (s.withPrs g).rul = s.rul := rfl
@[simp] theorem State.withPrs_tmg (g : PrsState → PrsState) : (s.withPrs g).tmg = s.tmg := rfl
@[simp] theorem State.withPrs_eth (g : PrsState → PrsState) : (s.withPrs g).eth = s.eth := rfl
@[simp] theorem State.withPrs_cln (g : PrsState → PrsState) : (s.withPrs g).cln = s.cln := rfl
@[simp] theorem State.withPrs_gwy (g : PrsState → PrsState) : (s.withPrs g).gwy = s.gwy := rfl
@[simp] theorem State.withPrs_cru (g : PrsState → PrsState) : (s.withPrs g).cru = s.cru := rfl
@[simp] theorem State.withPrs_qry (g : PrsState → PrsState) : (s.withPrs g).qry = s.qry := rfl
@[simp] theorem State.withPrs_lsc (g : PrsState → PrsState) : (s.withPrs g).lsc = s.lsc := rfl
@[simp] theorem State.withPrs_ord (g : PrsState → PrsState) : (s.withPrs g).ord = s.ord := rfl
@[simp] theorem State.withPrs_lch (g : PrsState → PrsState) : (s.withPrs g).lch = s.lch := rfl
@[simp] theorem State.withPrs_key (g : PrsState → PrsState) : (s.withPrs g).key = s.key := rfl
@[simp] theorem State.withPrs_hbr (g : PrsState → PrsState) : (s.withPrs g).hbr = s.hbr := rfl
@[simp] theorem State.withPrs_hlt (g : PrsState → PrsState) : (s.withPrs g).hlt = s.hlt := rfl
@[simp] theorem State.withPrs_cpu (g : PrsState → PrsState) : (s.withPrs g).cpu = s.cpu := rfl
@[simp] theorem State.withPrs_notices (g : PrsState → PrsState) : (s.withPrs g).notices = s.notices := rfl
@[simp] theorem State.withPrs_rd (g : PrsState → PrsState) (r : Nat) : (s.withPrs g).rd r = s.rd r := rfl
@[simp] theorem State.withPrs_rdB (g : PrsState → PrsState) (r : Nat) : (s.withPrs g).rdB r = s.rdB r := rfl

/-! ### State.withRul changes `rul` alone -/

@[simp] theorem State.withRul_pending (g : RulState → RulState) : (s.withRul g).pending = s.pending := rfl
@[simp] theorem State.withRul_regs (g : RulState → RulState) : (s.withRul g).regs = s.regs := rfl
@[simp] theorem State.withRul_mem (g : RulState → RulState) : (s.withRul g).mem = s.mem := rfl
@[simp] theorem State.withRul_bad (g : RulState → RulState) : (s.withRul g).bad = s.bad := rfl
@[simp] theorem State.withRul_fresh (g : RulState → RulState) : (s.withRul g).fresh = s.fresh := rfl
@[simp] theorem State.withRul_sys (g : RulState → RulState) : (s.withRul g).sys = s.sys := rfl
@[simp] theorem State.withRul_mason (g : RulState → RulState) : (s.withRul g).mason = s.mason := rfl
@[simp] theorem State.withRul_acl (g : RulState → RulState) : (s.withRul g).acl = s.acl := rfl
@[simp] theorem State.withRul_tim (g : RulState → RulState) : (s.withRul g).tim = s.tim := rfl
@[simp] theorem State.withRul_swc (g : RulState → RulState) : (s.withRul g).swc = s.swc := rfl
@[simp] theorem State.withRul_prs (g : RulState → RulState) : (s.withRul g).prs = s.prs := rfl
@[simp] theorem State.withRul_rul (g : RulState → RulState) : (s.withRul g).rul = g s.rul := rfl
@[simp] theorem State.withRul_tmg (g : RulState → RulState) : (s.withRul g).tmg = s.tmg := rfl
@[simp] theorem State.withRul_eth (g : RulState → RulState) : (s.withRul g).eth = s.eth := rfl
@[simp] theorem State.withRul_cln (g : RulState → RulState) : (s.withRul g).cln = s.cln := rfl
@[simp] theorem State.withRul_gwy (g : RulState → RulState) : (s.withRul g).gwy = s.gwy := rfl
@[simp] theorem State.withRul_cru (g : RulState → RulState) : (s.withRul g).cru = s.cru := rfl
@[simp] theorem State.withRul_qry (g : RulState → RulState) : (s.withRul g).qry = s.qry := rfl
@[simp] theorem State.withRul_lsc (g : RulState → RulState) : (s.withRul g).lsc = s.lsc := rfl
@[simp] theorem State.withRul_ord (g : RulState → RulState) : (s.withRul g).ord = s.ord := rfl
@[simp] theorem State.withRul_lch (g : RulState → RulState) : (s.withRul g).lch = s.lch := rfl
@[simp] theorem State.withRul_key (g : RulState → RulState) : (s.withRul g).key = s.key := rfl
@[simp] theorem State.withRul_hbr (g : RulState → RulState) : (s.withRul g).hbr = s.hbr := rfl
@[simp] theorem State.withRul_hlt (g : RulState → RulState) : (s.withRul g).hlt = s.hlt := rfl
@[simp] theorem State.withRul_cpu (g : RulState → RulState) : (s.withRul g).cpu = s.cpu := rfl
@[simp] theorem State.withRul_notices (g : RulState → RulState) : (s.withRul g).notices = s.notices := rfl
@[simp] theorem State.withRul_rd (g : RulState → RulState) (r : Nat) : (s.withRul g).rd r = s.rd r := rfl
@[simp] theorem State.withRul_rdB (g : RulState → RulState) (r : Nat) : (s.withRul g).rdB r = s.rdB r := rfl

/-! ### State.withTmg changes `tmg` alone -/

@[simp] theorem State.withTmg_pending (g : TmgState → TmgState) : (s.withTmg g).pending = s.pending := rfl
@[simp] theorem State.withTmg_regs (g : TmgState → TmgState) : (s.withTmg g).regs = s.regs := rfl
@[simp] theorem State.withTmg_mem (g : TmgState → TmgState) : (s.withTmg g).mem = s.mem := rfl
@[simp] theorem State.withTmg_bad (g : TmgState → TmgState) : (s.withTmg g).bad = s.bad := rfl
@[simp] theorem State.withTmg_fresh (g : TmgState → TmgState) : (s.withTmg g).fresh = s.fresh := rfl
@[simp] theorem State.withTmg_sys (g : TmgState → TmgState) : (s.withTmg g).sys = s.sys := rfl
@[simp] theorem State.withTmg_mason (g : TmgState → TmgState) : (s.withTmg g).mason = s.mason := rfl
@[simp] theorem State.withTmg_acl (g : TmgState → TmgState) : (s.withTmg g).acl = s.acl := rfl
@[simp] theorem State.withTmg_tim (g : TmgState → TmgState) : (s.withTmg g).tim = s.tim := rfl
@[simp] theorem State.withTmg_swc (g : TmgState → TmgState) : (s.withTmg g).swc = s.swc := rfl
@[simp] theorem State.withTmg_prs (g : TmgState → TmgState) : (s.withTmg g).prs = s.prs := rfl
@[simp] theorem State.withTmg_rul (g : TmgState → TmgState) : (s.withTmg g).rul = s.rul := rfl
@[simp] theorem State.withTmg_tmg (g : TmgState → TmgState) : (s.withTmg g).tmg = g s.tmg := rfl
@[simp] theorem State.withTmg_eth (g : TmgState → TmgState) : (s.withTmg g).eth = s.eth := rfl
@[simp] theorem State.withTmg_cln (g : TmgState → TmgState) : (s.withTmg g).cln = s.cln := rfl
@[simp] theorem State.withTmg_gwy (g : TmgState → TmgState) : (s.withTmg g).gwy = s.gwy := rfl
@[simp] theorem State.withTmg_cru (g : TmgState → TmgState) : (s.withTmg g).cru = s.cru := rfl
@[simp] theorem State.withTmg_qry (g : TmgState → TmgState) : (s.withTmg g).qry = s.qry := rfl
@[simp] theorem State.withTmg_lsc (g : TmgState → TmgState) : (s.withTmg g).lsc = s.lsc := rfl
@[simp] theorem State.withTmg_ord (g : TmgState → TmgState) : (s.withTmg g).ord = s.ord := rfl
@[simp] theorem State.withTmg_lch (g : TmgState → TmgState) : (s.withTmg g).lch = s.lch := rfl
@[simp] theorem State.withTmg_key (g : TmgState → TmgState) : (s.withTmg g).key = s.key := rfl
@[simp] theorem State.withTmg_hbr (g : TmgState → TmgState) : (s.withTmg g).hbr = s.hbr := rfl
@[simp] theorem State.withTmg_hlt (g : TmgState → TmgState) : (s.withTmg g).hlt = s.hlt := rfl
@[simp] theorem State.withTmg_cpu (g : TmgState → TmgState) : (s.withTmg g).cpu = s.cpu := rfl
@[simp] theorem State.withTmg_notices (g : TmgState → TmgState) : (s.withTmg g).notices = s.notices := rfl
@[simp] theorem State.withTmg_rd (g : TmgState → TmgState) (r : Nat) : (s.withTmg g).rd r = s.rd r := rfl
@[simp] theorem State.withTmg_rdB (g : TmgState → TmgState) (r : Nat) : (s.withTmg g).rdB r = s.rdB r := rfl

/-! ### State.withEth changes `eth` alone -/

@[simp] theorem State.withEth_pending (g : EthState → EthState) : (s.withEth g).pending = s.pending := rfl
@[simp] theorem State.withEth_regs (g : EthState → EthState) : (s.withEth g).regs = s.regs := rfl
@[simp] theorem State.withEth_mem (g : EthState → EthState) : (s.withEth g).mem = s.mem := rfl
@[simp] theorem State.withEth_bad (g : EthState → EthState) : (s.withEth g).bad = s.bad := rfl
@[simp] theorem State.withEth_fresh (g : EthState → EthState) : (s.withEth g).fresh = s.fresh := rfl
@[simp] theorem State.withEth_sys (g : EthState → EthState) : (s.withEth g).sys = s.sys := rfl
@[simp] theorem State.withEth_mason (g : EthState → EthState) : (s.withEth g).mason = s.mason := rfl
@[simp] theorem State.withEth_acl (g : EthState → EthState) : (s.withEth g).acl = s.acl := rfl
@[simp] theorem State.withEth_tim (g : EthState → EthState) : (s.withEth g).tim = s.tim := rfl
@[simp] theorem State.withEth_swc (g : EthState → EthState) : (s.withEth g).swc = s.swc := rfl
@[simp] theorem State.withEth_prs (g : EthState → EthState) : (s.withEth g).prs = s.prs := rfl
@[simp] theorem State.withEth_rul (g : EthState → EthState) : (s.withEth g).rul = s.rul := rfl
@[simp] theorem State.withEth_tmg (g : EthState → EthState) : (s.withEth g).tmg = s.tmg := rfl
@[simp] theorem State.withEth_eth (g : EthState → EthState) : (s.withEth g).eth = g s.eth := rfl
@[simp] theorem State.withEth_cln (g : EthState → EthState) : (s.withEth g).cln = s.cln := rfl
@[simp] theorem State.withEth_gwy (g : EthState → EthState) : (s.withEth g).gwy = s.gwy := rfl
@[simp] theorem State.withEth_cru (g : EthState → EthState) : (s.withEth g).cru = s.cru := rfl
@[simp] theorem State.withEth_qry (g : EthState → EthState) : (s.withEth g).qry = s.qry := rfl
@[simp] theorem State.withEth_lsc (g : EthState → EthState) : (s.withEth g).lsc = s.lsc := rfl
@[simp] theorem State.withEth_ord (g : EthState → EthState) : (s.withEth g).ord = s.ord := rfl
@[simp] theorem State.withEth_lch (g : EthState → EthState) : (s.withEth g).lch = s.lch := rfl
@[simp] theorem State.withEth_key (g : EthState → EthState) : (s.withEth g).key = s.key := rfl
@[simp] theorem State.withEth_hbr (g : EthState → EthState) : (s.withEth g).hbr = s.hbr := rfl
@[simp] theorem State.withEth_hlt (g : EthState → EthState) : (s.withEth g).hlt = s.hlt := rfl
@[simp] theorem State.withEth_cpu (g : EthState → EthState) : (s.withEth g).cpu = s.cpu := rfl
@[simp] theorem State.withEth_notices (g : EthState → EthState) : (s.withEth g).notices = s.notices := rfl
@[simp] theorem State.withEth_rd (g : EthState → EthState) (r : Nat) : (s.withEth g).rd r = s.rd r := rfl
@[simp] theorem State.withEth_rdB (g : EthState → EthState) (r : Nat) : (s.withEth g).rdB r = s.rdB r := rfl

/-! ### State.withCln changes `cln` alone -/

@[simp] theorem State.withCln_pending (g : ClnState → ClnState) : (s.withCln g).pending = s.pending := rfl
@[simp] theorem State.withCln_regs (g : ClnState → ClnState) : (s.withCln g).regs = s.regs := rfl
@[simp] theorem State.withCln_mem (g : ClnState → ClnState) : (s.withCln g).mem = s.mem := rfl
@[simp] theorem State.withCln_bad (g : ClnState → ClnState) : (s.withCln g).bad = s.bad := rfl
@[simp] theorem State.withCln_fresh (g : ClnState → ClnState) : (s.withCln g).fresh = s.fresh := rfl
@[simp] theorem State.withCln_sys (g : ClnState → ClnState) : (s.withCln g).sys = s.sys := rfl
@[simp] theorem State.withCln_mason (g : ClnState → ClnState) : (s.withCln g).mason = s.mason := rfl
@[simp] theorem State.withCln_acl (g : ClnState → ClnState) : (s.withCln g).acl = s.acl := rfl
@[simp] theorem State.withCln_tim (g : ClnState → ClnState) : (s.withCln g).tim = s.tim := rfl
@[simp] theorem State.withCln_swc (g : ClnState → ClnState) : (s.withCln g).swc = s.swc := rfl
@[simp] theorem State.withCln_prs (g : ClnState → ClnState) : (s.withCln g).prs = s.prs := rfl
@[simp] theorem State.withCln_rul (g : ClnState → ClnState) : (s.withCln g).rul = s.rul := rfl
@[simp] theorem State.withCln_tmg (g : ClnState → ClnState) : (s.withCln g).tmg = s.tmg := rfl
@[simp] theorem State.withCln_eth (g : ClnState → ClnState) : (s.withCln g).eth = s.eth := rfl
@[simp] theorem State.withCln_cln (g : ClnState → ClnState) : (s.withCln g).cln = g s.cln := rfl
@[simp] theorem State.withCln_gwy (g : ClnState → ClnState) : (s.withCln g).gwy = s.gwy := rfl
@[simp] theorem State.withCln_cru (g : ClnState → ClnState) : (s.withCln g).cru = s.cru := rfl
@[simp] theorem State.withCln_qry (g : ClnState → ClnState) : (s.withCln g).qry = s.qry := rfl
@[simp] theorem State.withCln_lsc (g : ClnState → ClnState) : (s.withCln g).lsc = s.lsc := rfl
@[simp] theorem State.withCln_ord (g : ClnState → ClnState) : (s.withCln g).ord = s.ord := rfl
@[simp] theorem State.withCln_lch (g : ClnState → ClnState) : (s.withCln g).lch = s.lch := rfl
@[simp] theorem State.withCln_key (g : ClnState → ClnState) : (s.withCln g).key = s.key := rfl
@[simp] theorem State.withCln_hbr (g : ClnState → ClnState) : (s.withCln g).hbr = s.hbr := rfl
@[simp] theorem State.withCln_hlt (g : ClnState → ClnState) : (s.withCln g).hlt = s.hlt := rfl
@[simp] theorem State.withCln_cpu (g : ClnState → ClnState) : (s.withCln g).cpu = s.cpu := rfl
@[simp] theorem State.withCln_notices (g : ClnState → ClnState) : (s.withCln g).notices = s.notices := rfl
@[simp] theorem State.withCln_rd (g : ClnState → ClnState) (r : Nat) : (s.withCln g).rd r = s.rd r := rfl
@[simp] theorem State.withCln_rdB (g : ClnState → ClnState) (r : Nat) : (s.withCln g).rdB r = s.rdB r := rfl

/-! ### State.withGwy changes `gwy` alone -/

@[simp] theorem State.withGwy_pending (g : GwyState → GwyState) : (s.withGwy g).pending = s.pending := rfl
@[simp] theorem State.withGwy_regs (g : GwyState → GwyState) : (s.withGwy g).regs = s.regs := rfl
@[simp] theorem State.withGwy_mem (g : GwyState → GwyState) : (s.withGwy g).mem = s.mem := rfl
@[simp] theorem State.withGwy_bad (g : GwyState → GwyState) : (s.withGwy g).bad = s.bad := rfl
@[simp] theorem State.withGwy_fresh (g : GwyState → GwyState) : (s.withGwy g).fresh = s.fresh := rfl
@[simp] theorem State.withGwy_sys (g : GwyState → GwyState) : (s.withGwy g).sys = s.sys := rfl
@[simp] theorem State.withGwy_mason (g : GwyState → GwyState) : (s.withGwy g).mason = s.mason := rfl
@[simp] theorem State.withGwy_acl (g : GwyState → GwyState) : (s.withGwy g).acl = s.acl := rfl
@[simp] theorem State.withGwy_tim (g : GwyState → GwyState) : (s.withGwy g).tim = s.tim := rfl
@[simp] theorem State.withGwy_swc (g : GwyState → GwyState) : (s.withGwy g).swc = s.swc := rfl
@[simp] theorem State.withGwy_prs (g : GwyState → GwyState) : (s.withGwy g).prs = s.prs := rfl
@[simp] theorem State.withGwy_rul (g : GwyState → GwyState) : (s.withGwy g).rul = s.rul := rfl
@[simp] theorem State.withGwy_tmg (g : GwyState → GwyState) : (s.withGwy g).tmg = s.tmg := rfl
@[simp] theorem State.withGwy_eth (g : GwyState → GwyState) : (s.withGwy g).eth = s.eth := rfl
@[simp] theorem State.withGwy_cln (g : GwyState → GwyState) : (s.withGwy g).cln = s.cln := rfl
@[simp] theorem State.withGwy_gwy (g : GwyState → GwyState) : (s.withGwy g).gwy = g s.gwy := rfl
@[simp] theorem State.withGwy_cru (g : GwyState → GwyState) : (s.withGwy g).cru = s.cru := rfl
@[simp] theorem State.withGwy_qry (g : GwyState → GwyState) : (s.withGwy g).qry = s.qry := rfl
@[simp] theorem State.withGwy_lsc (g : GwyState → GwyState) : (s.withGwy g).lsc = s.lsc := rfl
@[simp] theorem State.withGwy_ord (g : GwyState → GwyState) : (s.withGwy g).ord = s.ord := rfl
@[simp] theorem State.withGwy_lch (g : GwyState → GwyState) : (s.withGwy g).lch = s.lch := rfl
@[simp] theorem State.withGwy_key (g : GwyState → GwyState) : (s.withGwy g).key = s.key := rfl
@[simp] theorem State.withGwy_hbr (g : GwyState → GwyState) : (s.withGwy g).hbr = s.hbr := rfl
@[simp] theorem State.withGwy_hlt (g : GwyState → GwyState) : (s.withGwy g).hlt = s.hlt := rfl
@[simp] theorem State.withGwy_cpu (g : GwyState → GwyState) : (s.withGwy g).cpu = s.cpu := rfl
@[simp] theorem State.withGwy_notices (g : GwyState → GwyState) : (s.withGwy g).notices = s.notices := rfl
@[simp] theorem State.withGwy_rd (g : GwyState → GwyState) (r : Nat) : (s.withGwy g).rd r = s.rd r := rfl
@[simp] theorem State.withGwy_rdB (g : GwyState → GwyState) (r : Nat) : (s.withGwy g).rdB r = s.rdB r := rfl

/-! ### State.withCru changes `cru` alone -/

@[simp] theorem State.withCru_pending (g : CruState → CruState) : (s.withCru g).pending = s.pending := rfl
@[simp] theorem State.withCru_regs (g : CruState → CruState) : (s.withCru g).regs = s.regs := rfl
@[simp] theorem State.withCru_mem (g : CruState → CruState) : (s.withCru g).mem = s.mem := rfl
@[simp] theorem State.withCru_bad (g : CruState → CruState) : (s.withCru g).bad = s.bad := rfl
@[simp] theorem State.withCru_fresh (g : CruState → CruState) : (s.withCru g).fresh = s.fresh := rfl
@[simp] theorem State.withCru_sys (g : CruState → CruState) : (s.withCru g).sys = s.sys := rfl
@[simp] theorem State.withCru_mason (g : CruState → CruState) : (s.withCru g).mason = s.mason := rfl
@[simp] theorem State.withCru_acl (g : CruState → CruState) : (s.withCru g).acl = s.acl := rfl
@[simp] theorem State.withCru_tim (g : CruState → CruState) : (s.withCru g).tim = s.tim := rfl
@[simp] theorem State.withCru_swc (g : CruState → CruState) : (s.withCru g).swc = s.swc := rfl
@[simp] theorem State.withCru_prs (g : CruState → CruState) : (s.withCru g).prs = s.prs := rfl
@[simp] theorem State.withCru_rul (g : CruState → CruState) : (s.withCru g).rul = s.rul := rfl
@[simp] theorem State.withCru_tmg (g : CruState → CruState) : (s.withCru g).tmg = s.tmg := rfl
@[simp] theorem State.withCru_eth (g : CruState → CruState) : (s.withCru g).eth = s.eth := rfl
@[simp] theorem State.withCru_cln (g : CruState → CruState) : (s.withCru g).cln = s.cln := rfl
@[simp] theorem State.withCru_gwy (g : CruState → CruState) : (s.withCru g).gwy = s.gwy := rfl
@[simp] theorem State.withCru_cru (g : CruState → CruState) : (s.withCru g).cru = g s.cru := rfl
@[simp] theorem State.withCru_qry (g : CruState → CruState) : (s.withCru g).qry = s.qry := rfl
@[simp] theorem State.withCru_lsc (g : CruState → CruState) : (s.withCru g).lsc = s.lsc := rfl
@[simp] theorem State.withCru_ord (g : CruState → CruState) : (s.withCru g).ord = s.ord := rfl
@[simp] theorem State.withCru_lch (g : CruState → CruState) : (s.withCru g).lch = s.lch := rfl
@[simp] theorem State.withCru_key (g : CruState → CruState) : (s.withCru g).key = s.key := rfl
@[simp] theorem State.withCru_hbr (g : CruState → CruState) : (s.withCru g).hbr = s.hbr := rfl
@[simp] theorem State.withCru_hlt (g : CruState → CruState) : (s.withCru g).hlt = s.hlt := rfl
@[simp] theorem State.withCru_cpu (g : CruState → CruState) : (s.withCru g).cpu = s.cpu := rfl
@[simp] theorem State.withCru_notices (g : CruState → CruState) : (s.withCru g).notices = s.notices := rfl
@[simp] theorem State.withCru_rd (g : CruState → CruState) (r : Nat) : (s.withCru g).rd r = s.rd r := rfl
@[simp] theorem State.withCru_rdB (g : CruState → CruState) (r : Nat) : (s.withCru g).rdB r = s.rdB r := rfl

/-! ### State.withQry changes `qry` alone -/

@[simp] theorem State.withQry_pending (g : QryState → QryState) : (s.withQry g).pending = s.pending := rfl
@[simp] theorem State.withQry_regs (g : QryState → QryState) : (s.withQry g).regs = s.regs := rfl
@[simp] theorem State.withQry_mem (g : QryState → QryState) : (s.withQry g).mem = s.mem := rfl
@[simp] theorem State.withQry_bad (g : QryState → QryState) : (s.withQry g).bad = s.bad := rfl
@[simp] theorem State.withQry_fresh (g : QryState → QryState) : (s.withQry g).fresh = s.fresh := rfl
@[simp] theorem State.withQry_sys (g : QryState → QryState) : (s.withQry g).sys = s.sys := rfl
@[simp] theorem State.withQry_mason (g : QryState → QryState) : (s.withQry g).mason = s.mason := rfl
@[simp] theorem State.withQry_acl (g : QryState → QryState) : (s.withQry g).acl = s.acl := rfl
@[simp] theorem State.withQry_tim (g : QryState → QryState) : (s.withQry g).tim = s.tim := rfl
@[simp] theorem State.withQry_swc (g : QryState → QryState) : (s.withQry g).swc = s.swc := rfl
@[simp] theorem State.withQry_prs (g : QryState → QryState) : (s.withQry g).prs = s.prs := rfl
@[simp] theorem State.withQry_rul (g : QryState → QryState) : (s.withQry g).rul = s.rul := rfl
@[simp] theorem State.withQry_tmg (g : QryState → QryState) : (s.withQry g).tmg = s.tmg := rfl
@[simp] theorem State.withQry_eth (g : QryState → QryState) : (s.withQry g).eth = s.eth := rfl
@[simp] theorem State.withQry_cln (g : QryState → QryState) : (s.withQry g).cln = s.cln := rfl
@[simp] theorem State.withQry_gwy (g : QryState → QryState) : (s.withQry g).gwy = s.gwy := rfl
@[simp] theorem State.withQry_cru (g : QryState → QryState) : (s.withQry g).cru = s.cru := rfl
@[simp] theorem State.withQry_qry (g : QryState → QryState) : (s.withQry g).qry = g s.qry := rfl
@[simp] theorem State.withQry_lsc (g : QryState → QryState) : (s.withQry g).lsc = s.lsc := rfl
@[simp] theorem State.withQry_ord (g : QryState → QryState) : (s.withQry g).ord = s.ord := rfl
@[simp] theorem State.withQry_lch (g : QryState → QryState) : (s.withQry g).lch = s.lch := rfl
@[simp] theorem State.withQry_key (g : QryState → QryState) : (s.withQry g).key = s.key := rfl
@[simp] theorem State.withQry_hbr (g : QryState → QryState) : (s.withQry g).hbr = s.hbr := rfl
@[simp] theorem State.withQry_hlt (g : QryState → QryState) : (s.withQry g).hlt = s.hlt := rfl
@[simp] theorem State.withQry_cpu (g : QryState → QryState) : (s.withQry g).cpu = s.cpu := rfl
@[simp] theorem State.withQry_notices (g : QryState → QryState) : (s.withQry g).notices = s.notices := rfl
@[simp] theorem State.withQry_rd (g : QryState → QryState) (r : Nat) : (s.withQry g).rd r = s.rd r := rfl
@[simp] theorem State.withQry_rdB (g : QryState → QryState) (r : Nat) : (s.withQry g).rdB r = s.rdB r := rfl

/-! ### State.withLsc changes `lsc` alone -/

@[simp] theorem State.withLsc_pending (g : LscState → LscState) : (s.withLsc g).pending = s.pending := rfl
@[simp] theorem State.withLsc_regs (g : LscState → LscState) : (s.withLsc g).regs = s.regs := rfl
@[simp] theorem State.withLsc_mem (g : LscState → LscState) : (s.withLsc g).mem = s.mem := rfl
@[simp] theorem State.withLsc_bad (g : LscState → LscState) : (s.withLsc g).bad = s.bad := rfl
@[simp] theorem State.withLsc_fresh (g : LscState → LscState) : (s.withLsc g).fresh = s.fresh := rfl
@[simp] theorem State.withLsc_sys (g : LscState → LscState) : (s.withLsc g).sys = s.sys := rfl
@[simp] theorem State.withLsc_mason (g : LscState → LscState) : (s.withLsc g).mason = s.mason := rfl
@[simp] theorem State.withLsc_acl (g : LscState → LscState) : (s.withLsc g).acl = s.acl := rfl
@[simp] theorem State.withLsc_tim (g : LscState → LscState) : (s.withLsc g).tim = s.tim := rfl
@[simp] theorem State.withLsc_swc (g : LscState → LscState) : (s.withLsc g).swc = s.swc := rfl
@[simp] theorem State.withLsc_prs (g : LscState → LscState) : (s.withLsc g).prs = s.prs := rfl
@[simp] theorem State.withLsc_rul (g : LscState → LscState) : (s.withLsc g).rul = s.rul := rfl
@[simp] theorem State.withLsc_tmg (g : LscState → LscState) : (s.withLsc g).tmg = s.tmg := rfl
@[simp] theorem State.withLsc_eth (g : LscState → LscState) : (s.withLsc g).eth = s.eth := rfl
@[simp] theorem State.withLsc_cln (g : LscState → LscState) : (s.withLsc g).cln = s.cln := rfl
@[simp] theorem State.withLsc_gwy (g : LscState → LscState) : (s.withLsc g).gwy = s.gwy := rfl
@[simp] theorem State.withLsc_cru (g : LscState → LscState) : (s.withLsc g).cru = s.cru := rfl
@[simp] theorem State.withLsc_qry (g : LscState → LscState) : (s.withLsc g).qry = s.qry := rfl
@[simp] theorem State.withLsc_lsc (g : LscState → LscState) : (s.withLsc g).lsc = g s.lsc := rfl
@[simp] theorem State.withLsc_ord (g : LscState → LscState) : (s.withLsc g).ord = s.ord := rfl
@[simp] theorem State.withLsc_lch (g : LscState → LscState) : (s.withLsc g).lch = s.lch := rfl
@[simp] theorem State.withLsc_key (g : LscState → LscState) : (s.withLsc g).key = s.key := rfl
@[simp] theorem State.withLsc_hbr (g : LscState → LscState) : (s.withLsc g).hbr = s.hbr := rfl
@[simp] theorem State.withLsc_hlt (g : LscState → LscState) : (s.withLsc g).hlt = s.hlt := rfl
@[simp] theorem State.withLsc_cpu (g : LscState → LscState) : (s.withLsc g).cpu = s.cpu := rfl
@[simp] theorem State.withLsc_notices (g : LscState → LscState) : (s.withLsc g).notices = s.notices := rfl
@[simp] theorem State.withLsc_rd (g : LscState → LscState) (r : Nat) : (s.withLsc g).rd r = s.rd r := rfl
@[simp] theorem State.withLsc_rdB (g : LscState → LscState) (r : Nat) : (s.withLsc g).rdB r = s.rdB r := rfl

/-! ### State.withOrd changes `ord` alone -/

@[simp] theorem State.withOrd_pending (g : OrdState → OrdState) : (s.withOrd g).pending = s.pending := rfl
@[simp] theorem State.withOrd_regs (g : OrdState → OrdState) : (s.withOrd g).regs = s.regs := rfl
@[simp] theorem State.withOrd_mem (g : OrdState → OrdState) : (s.withOrd g).mem = s.mem := rfl
@[simp] theorem State.withOrd_bad (g : OrdState → OrdState) : (s.withOrd g).bad = s.bad := rfl
@[simp] theorem State.withOrd_fresh (g : OrdState → OrdState) : (s.withOrd g).fresh = s.fresh := rfl
@[simp] theorem State.withOrd_sys (g : OrdState → OrdState) : (s.withOrd g).sys = s.sys := rfl
@[simp] theorem State.withOrd_mason (g : OrdState → OrdState) : (s.withOrd g).mason = s.mason := rfl
@[simp] theorem State.withOrd_acl (g : OrdState → OrdState) : (s.withOrd g).acl = s.acl := rfl
@[simp] theorem State.withOrd_tim (g : OrdState → OrdState) : (s.withOrd g).tim = s.tim := rfl
@[simp] theorem State.withOrd_swc (g : OrdState → OrdState) : (s.withOrd g).swc = s.swc := rfl
@[simp] theorem State.withOrd_prs (g : OrdState → OrdState) : (s.withOrd g).prs = s.prs := rfl
@[simp] theorem State.withOrd_rul (g : OrdState → OrdState) : (s.withOrd g).rul = s.rul := rfl
@[simp] theorem State.withOrd_tmg (g : OrdState → OrdState) : (s.withOrd g).tmg = s.tmg := rfl
@[simp] theorem State.withOrd_eth (g : OrdState → OrdState) : (s.withOrd g).eth = s.eth := rfl
@[simp] theorem State.withOrd_cln (g : OrdState → OrdState) : (s.withOrd g).cln = s.cln := rfl
@[simp] theorem State.withOrd_gwy (g : OrdState → OrdState) : (s.withOrd g).gwy = s.gwy := rfl
@[simp] theorem State.withOrd_cru (g : OrdState → OrdState) : (s.withOrd g).cru = s.cru := rfl
@[simp] theorem State.withOrd_qry (g : OrdState → OrdState) : (s.withOrd g).qry = s.qry := rfl
@[simp] theorem State.withOrd_lsc (g : OrdState → OrdState) : (s.withOrd g).lsc = s.lsc := rfl
@[simp] theorem State.withOrd_ord (g : OrdState → OrdState) : (s.withOrd g).ord = g s.ord := rfl
@[simp] theorem State.withOrd_lch (g : OrdState → OrdState) : (s.withOrd g).lch = s.lch := rfl
@[simp] theorem State.withOrd_key (g : OrdState → OrdState) : (s.withOrd g).key = s.key := rfl
@[simp] theorem State.withOrd_hbr (g : OrdState → OrdState) : (s.withOrd g).hbr = s.hbr := rfl
@[simp] theorem State.withOrd_hlt (g : OrdState → OrdState) : (s.withOrd g).hlt = s.hlt := rfl
@[simp] theorem State.withOrd_cpu (g : OrdState → OrdState) : (s.withOrd g).cpu = s.cpu := rfl
@[simp] theorem State.withOrd_notices (g : OrdState → OrdState) : (s.withOrd g).notices = s.notices := rfl
@[simp] theorem State.withOrd_rd (g : OrdState → OrdState) (r : Nat) : (s.withOrd g).rd r = s.rd r := rfl
@[simp] theorem State.withOrd_rdB (g : OrdState → OrdState) (r : Nat) : (s.withOrd g).rdB r = s.rdB r := rfl

/-! ### State.withLch changes `lch` alone -/

@[simp] theorem State.withLch_pending (g : LchState → LchState) : (s.withLch g).pending = s.pending := rfl
@[simp] theorem State.withLch_regs (g : LchState → LchState) : (s.withLch g).regs = s.regs := rfl
@[simp] theorem State.withLch_mem (g : LchState → LchState) : (s.withLch g).mem = s.mem := rfl
@[simp] theorem State.withLch_bad (g : LchState → LchState) : (s.withLch g).bad = s.bad := rfl
@[simp] theorem State.withLch_fresh (g : LchState → LchState) : (s.withLch g).fresh = s.fresh := rfl
@[simp] theorem State.withLch_sys (g : LchState → LchState) : (s.withLch g).sys = s.sys := rfl
@[simp] theorem State.withLch_mason (g : LchState → LchState) : (s.withLch g).mason = s.mason := rfl
@[simp] theorem State.withLch_acl (g : LchState → LchState) : (s.withLch g).acl = s.acl := rfl
@[simp] theorem State.withLch_tim (g : LchState → LchState) : (s.withLch g).tim = s.tim := rfl
@[simp] theorem State.withLch_swc (g : LchState → LchState) : (s.withLch g).swc = s.swc := rfl
@[simp] theorem State.withLch_prs (g : LchState → LchState) : (s.withLch g).prs = s.prs := rfl
@[simp] theorem State.withLch_rul (g : LchState → LchState) : (s.withLch g).rul = s.rul := rfl
@[simp] theorem State.withLch_tmg (g : LchState → LchState) : (s.withLch g).tmg = s.tmg := rfl
@[simp] theorem State.withLch_eth (g : LchState → LchState) : (s.withLch g).eth = s.eth := rfl
@[simp] theorem State.withLch_cln (g : LchState → LchState) : (s.withLch g).cln = s.cln := rfl
@[simp] theorem State.withLch_gwy (g : LchState → LchState) : (s.withLch g).gwy = s.gwy := rfl
@[simp] theorem State.withLch_cru (g : LchState → LchState) : (s.withLch g).cru = s.cru := rfl
@[simp] theorem State.withLch_qry (g : LchState → LchState) : (s.withLch g).qry = s.qry := rfl
@[simp] theorem State.withLch_lsc (g : LchState → LchState) : (s.withLch g).lsc = s.lsc := rfl
@[simp] theorem State.withLch_ord (g : LchState → LchState) : (s.withLch g).ord = s.ord := rfl
@[simp] theorem State.withLch_lch (g : LchState → LchState) : (s.withLch g).lch = g s.lch := rfl
@[simp] theorem State.withLch_key (g : LchState → LchState) : (s.withLch g).key = s.key := rfl
@[simp] theorem State.withLch_hbr (g : LchState → LchState) : (s.withLch g).hbr = s.hbr := rfl
@[simp] theorem State.withLch_hlt (g : LchState → LchState) : (s.withLch g).hlt = s.hlt := rfl
@[simp] theorem State.withLch_cpu (g : LchState → LchState) : (s.withLch g).cpu = s.cpu := rfl
@[simp] theorem State.withLch_notices (g : LchState → LchState) : (s.withLch g).notices = s.notices := rfl
@[simp] theorem State.withLch_rd (g : LchState → LchState) (r : Nat) : (s.withLch g).rd r = s.rd r := rfl
@[simp] theorem State.withLch_rdB (g : LchState → LchState) (r : Nat) : (s.withLch g).rdB r = s.rdB r := rfl

/-! ### State.withKey changes `key` alone -/

@[simp] theorem State.withKey_pending (g : KeyState → KeyState) : (s.withKey g).pending = s.pending := rfl
@[simp] theorem State.withKey_regs (g : KeyState → KeyState) : (s.withKey g).regs = s.regs := rfl
@[simp] theorem State.withKey_mem (g : KeyState → KeyState) : (s.withKey g).mem = s.mem := rfl
@[simp] theorem State.withKey_bad (g : KeyState → KeyState) : (s.withKey g).bad = s.bad := rfl
@[simp] theorem State.withKey_fresh (g : KeyState → KeyState) : (s.withKey g).fresh = s.fresh := rfl
@[simp] theorem State.withKey_sys (g : KeyState → KeyState) : (s.withKey g).sys = s.sys := rfl
@[simp] theorem State.withKey_mason (g : KeyState → KeyState) : (s.withKey g).mason = s.mason := rfl
@[simp] theorem State.withKey_acl (g : KeyState → KeyState) : (s.withKey g).acl = s.acl := rfl
@[simp] theorem State.withKey_tim (g : KeyState → KeyState) : (s.withKey g).tim = s.tim := rfl
@[simp] theorem State.withKey_swc (g : KeyState → KeyState) : (s.withKey g).swc = s.swc := rfl
@[simp] theorem State.withKey_prs (g : KeyState → KeyState) : (s.withKey g).prs = s.prs := rfl
@[simp] theorem State.withKey_rul (g : KeyState → KeyState) : (s.withKey g).rul = s.rul := rfl
@[simp] theorem State.withKey_tmg (g : KeyState → KeyState) : (s.withKey g).tmg = s.tmg := rfl
@[simp] theorem State.withKey_eth (g : KeyState → KeyState) : (s.withKey g).eth = s.eth := rfl
@[simp] theorem State.withKey_cln (g : KeyState → KeyState) : (s.withKey g).cln = s.cln := rfl
@[simp] theorem State.withKey_gwy (g : KeyState → KeyState) : (s.withKey g).gwy = s.gwy := rfl
@[simp] theorem State.withKey_cru (g : KeyState → KeyState) : (s.withKey g).cru = s.cru := rfl
@[simp] theorem State.withKey_qry (g : KeyState → KeyState) : (s.withKey g).qry = s.qry := rfl
@[simp] theorem State.withKey_lsc (g : KeyState → KeyState) : (s.withKey g).lsc = s.lsc := rfl
@[simp] theorem State.withKey_ord (g : KeyState → KeyState) : (s.withKey g).ord = s.ord := rfl
@[simp] theorem State.withKey_lch (g : KeyState → KeyState) : (s.withKey g).lch = s.lch := rfl
@[simp] theorem State.withKey_key (g : KeyState → KeyState) : (s.withKey g).key = g s.key := rfl
@[simp] theorem State.withKey_hbr (g : KeyState → KeyState) : (s.withKey g).hbr = s.hbr := rfl
@[simp] theorem State.withKey_hlt (g : KeyState → KeyState) : (s.withKey g).hlt = s.hlt := rfl
@[simp] theorem State.withKey_cpu (g : KeyState → KeyState) : (s.withKey g).cpu = s.cpu := rfl
@[simp] theorem State.withKey_notices (g : KeyState → KeyState) : (s.withKey g).notices = s.notices := rfl
@[simp] theorem State.withKey_rd (g : KeyState → KeyState) (r : Nat) : (s.withKey g).rd r = s.rd r := rfl
@[simp] theorem State.withKey_rdB (g : KeyState → KeyState) (r : Nat) : (s.withKey g).rdB r = s.rdB r := rfl

/-! ### State.withHbr changes `hbr` alone -/

@[simp] theorem State.withHbr_pending (g : HbrState → HbrState) : (s.withHbr g).pending = s.pending := rfl
@[simp] theorem State.withHbr_regs (g : HbrState → HbrState) : (s.withHbr g).regs = s.regs := rfl
@[simp] theorem State.withHbr_mem (g : HbrState → HbrState) : (s.withHbr g).mem = s.mem := rfl
@[simp] theorem State.withHbr_bad (g : HbrState → HbrState) : (s.withHbr g).bad = s.bad := rfl
@[simp] theorem State.withHbr_fresh (g : HbrState → HbrState) : (s.withHbr g).fresh = s.fresh := rfl
@[simp] theorem State.withHbr_sys (g : HbrState → HbrState) : (s.withHbr g).sys = s.sys := rfl
@[simp] theorem State.withHbr_mason (g : HbrState → HbrState) : (s.withHbr g).mason = s.mason := rfl
@[simp] theorem State.withHbr_acl (g : HbrState → HbrState) : (s.withHbr g).acl = s.acl := rfl
@[simp] theorem State.withHbr_tim (g : HbrState → HbrState) : (s.withHbr g).tim = s.tim := rfl
@[simp] theorem State.withHbr_swc (g : HbrState → HbrState) : (s.withHbr g).swc = s.swc := rfl
@[simp] theorem State.withHbr_prs (g : HbrState → HbrState) : (s.withHbr g).prs = s.prs := rfl
@[simp] theorem State.withHbr_rul (g : HbrState → HbrState) : (s.withHbr g).rul = s.rul := rfl
@[simp] theorem State.withHbr_tmg (g : HbrState → HbrState) : (s.withHbr g).tmg = s.tmg := rfl
@[simp] theorem State.withHbr_eth (g : HbrState → HbrState) : (s.withHbr g).eth = s.eth := rfl
@[simp] theorem State.withHbr_cln (g : HbrState → HbrState) : (s.withHbr g).cln = s.cln := rfl
@[simp] theorem State.withHbr_gwy (g : HbrState → HbrState) : (s.withHbr g).gwy = s.gwy := rfl
@[simp] theorem State.withHbr_cru (g : HbrState → HbrState) : (s.withHbr g).cru = s.cru := rfl
@[simp] theorem State.withHbr_qry (g : HbrState → HbrState) : (s.withHbr g).qry = s.qry := rfl
@[simp] theorem State.withHbr_lsc (g : HbrState → HbrState) : (s.withHbr g).lsc = s.lsc := rfl
@[simp] theorem State.withHbr_ord (g : HbrState → HbrState) : (s.withHbr g).ord = s.ord := rfl
@[simp] theorem State.withHbr_lch (g : HbrState → HbrState) : (s.withHbr g).lch = s.lch := rfl
@[simp] theorem State.withHbr_key (g : HbrState → HbrState) : (s.withHbr g).key = s.key := rfl
@[simp] theorem State.withHbr_hbr (g : HbrState → HbrState) : (s.withHbr g).hbr = g s.hbr := rfl
@[simp] theorem State.withHbr_hlt (g : HbrState → HbrState) : (s.withHbr g).hlt = s.hlt := rfl
@[simp] theorem State.withHbr_cpu (g : HbrState → HbrState) : (s.withHbr g).cpu = s.cpu := rfl
@[simp] theorem State.withHbr_notices (g : HbrState → HbrState) : (s.withHbr g).notices = s.notices := rfl
@[simp] theorem State.withHbr_rd (g : HbrState → HbrState) (r : Nat) : (s.withHbr g).rd r = s.rd r := rfl
@[simp] theorem State.withHbr_rdB (g : HbrState → HbrState) (r : Nat) : (s.withHbr g).rdB r = s.rdB r := rfl

/-! ### State.withHlt changes `hlt` alone -/

@[simp] theorem State.withHlt_pending (g : HltState → HltState) : (s.withHlt g).pending = s.pending := rfl
@[simp] theorem State.withHlt_regs (g : HltState → HltState) : (s.withHlt g).regs = s.regs := rfl
@[simp] theorem State.withHlt_mem (g : HltState → HltState) : (s.withHlt g).mem = s.mem := rfl
@[simp] theorem State.withHlt_bad (g : HltState → HltState) : (s.withHlt g).bad = s.bad := rfl
@[simp] theorem State.withHlt_fresh (g : HltState → HltState) : (s.withHlt g).fresh = s.fresh := rfl
@[simp] theorem State.withHlt_sys (g : HltState → HltState) : (s.withHlt g).sys = s.sys := rfl
@[simp] theorem State.withHlt_mason (g : HltState → HltState) : (s.withHlt g).mason = s.mason := rfl
@[simp] theorem State.withHlt_acl (g : HltState → HltState) : (s.withHlt g).acl = s.acl := rfl
@[simp] theorem State.withHlt_tim (g : HltState → HltState) : (s.withHlt g).tim = s.tim := rfl
@[simp] theorem State.withHlt_swc (g : HltState → HltState) : (s.withHlt g).swc = s.swc := rfl
@[simp] theorem State.withHlt_prs (g : HltState → HltState) : (s.withHlt g).prs = s.prs := rfl
@[simp] theorem State.withHlt_rul (g : HltState → HltState) : (s.withHlt g).rul = s.rul := rfl
@[simp] theorem State.withHlt_tmg (g : HltState → HltState) : (s.withHlt g).tmg = s.tmg := rfl
@[simp] theorem State.withHlt_eth (g : HltState → HltState) : (s.withHlt g).eth = s.eth := rfl
@[simp] theorem State.withHlt_cln (g : HltState → HltState) : (s.withHlt g).cln = s.cln := rfl
@[simp] theorem State.withHlt_gwy (g : HltState → HltState) : (s.withHlt g).gwy = s.gwy := rfl
@[simp] theorem State.withHlt_cru (g : HltState → HltState) : (s.withHlt g).cru = s.cru := rfl
@[simp] theorem State.withHlt_qry (g : HltState → HltState) : (s.withHlt g).qry = s.qry := rfl
@[simp] theorem State.withHlt_lsc (g : HltState → HltState) : (s.withHlt g).lsc = s.lsc := rfl
@[simp] theorem State.withHlt_ord (g : HltState → HltState) : (s.withHlt g).ord = s.ord := rfl
@[simp] theorem State.withHlt_lch (g : HltState → HltState) : (s.withHlt g).lch = s.lch := rfl
@[simp] theorem State.withHlt_key (g : HltState → HltState) : (s.withHlt g).key = s.key := rfl
@[simp] theorem State.withHlt_hbr (g : HltState → HltState) : (s.withHlt g).hbr = s.hbr := rfl
@[simp] theorem State.withHlt_hlt (g : HltState → HltState) : (s.withHlt g).hlt = g s.hlt := rfl
@[simp] theorem State.withHlt_cpu (g : HltState → HltState) : (s.withHlt g).cpu = s.cpu := rfl
@[simp] theorem State.withHlt_notices (g : HltState → HltState) : (s.withHlt g).notices = s.notices := rfl
@[simp] theorem State.withHlt_rd (g : HltState → HltState) (r : Nat) : (s.withHlt g).rd r = s.rd r := rfl
@[simp] theorem State.withHlt_rdB (g : HltState → HltState) (r : Nat) : (s.withHlt g).rdB r = s.rdB r := rfl

/-! ### State.withCpu changes `cpu` alone -/

@[simp] theorem State.withCpu_pending (g : CpuState → CpuState) : (s.withCpu g).pending = s.pending := rfl
@[simp] theorem State.withCpu_regs (g : CpuState → CpuState) : (s.withCpu g).regs = s.regs := rfl
@[simp] theorem State.withCpu_mem (g : CpuState → CpuState) : (s.withCpu g).mem = s.mem := rfl
@[simp] theorem State.withCpu_bad (g : CpuState → CpuState) : (s.withCpu g).bad = s.bad := rfl
@[simp] theorem State.withCpu_fresh (g : CpuState → CpuState) : (s.withCpu g).fresh = s.fresh := rfl
@[simp] theorem State.withCpu_sys (g : CpuState → CpuState) : (s.withCpu g).sys = s.sys := rfl
@[simp] theorem State.withCpu_mason (g : CpuState → CpuState) : (s.withCpu g).mason = s.mason := rfl
@[simp] theorem State.withCpu_acl (g : CpuState → CpuState) : (s.withCpu g).acl = s.acl := rfl
@[simp] theorem State.withCpu_tim (g : CpuState → CpuState) : (s.withCpu g).tim = s.tim := rfl
@[simp] theorem State.withCpu_swc (g : CpuState → CpuState) : (s.withCpu g).swc = s.swc := rfl
@[simp] theorem State.withCpu_prs (g : CpuState → CpuState) : (s.withCpu g).prs = s.prs := rfl
@[simp] theorem State.withCpu_rul (g : CpuState → CpuState) : (s.withCpu g).rul = s.rul := rfl
@[simp] theorem State.withCpu_tmg (g : CpuState → CpuState) : (s.withCpu g).tmg = s.tmg := rfl
@[simp] theorem State.withCpu_eth (g : CpuState → CpuState) : (s.withCpu g).eth = s.eth := rfl
@[simp] theorem State.withCpu_cln (g : CpuState → CpuState) : (s.withCpu g).cln = s.cln := rfl
@[simp] theorem State.withCpu_gwy (g : CpuState → CpuState) : (s.withCpu g).gwy = s.gwy := rfl
@[simp] theorem State.withCpu_cru (g : CpuState → CpuState) : (s.withCpu g).cru = s.cru := rfl
@[simp] theorem State.withCpu_qry (g : CpuState → CpuState) : (s.withCpu g).qry = s.qry := rfl
@[simp] theorem State.withCpu_lsc (g : CpuState → CpuState) : (s.withCpu g).lsc = s.lsc := rfl
@[simp] theorem State.withCpu_ord (g : CpuState → CpuState) : (s.withCpu g).ord = s.ord := rfl
@[simp] theorem State.withCpu_lch (g : CpuState → CpuState) : (s.withCpu g).lch = s.lch := rfl
@[simp] theorem State.withCpu_key (g : CpuState → CpuState) : (s.withCpu g).key = s.key := rfl
@[simp] theorem State.withCpu_hbr (g : CpuState → CpuState) : (s.withCpu g).hbr = s.hbr := rfl
@[simp] theorem State.withCpu_hlt (g : CpuState → CpuState) : (s.withCpu g).hlt = s.hlt := rfl
/-- A core that is not fitted takes no act (R7). -/
@[simp] theorem State.withCpu_cpu (g : CpuState → CpuState) : (s.withCpu g).cpu =
    { g s.cpu with harts := tdrop (fun h => decide (h < 8) && !engineFitted s.tier h) (g s.cpu).harts } := rfl
@[simp] theorem State.withCpu_notices (g : CpuState → CpuState) : (s.withCpu g).notices = s.notices := rfl
@[simp] theorem State.withCpu_rd (g : CpuState → CpuState) (r : Nat) : (s.withCpu g).rd r = s.rd r := rfl
@[simp] theorem State.withCpu_rdB (g : CpuState → CpuState) (r : Nat) : (s.withCpu g).rdB r = s.rdB r := rfl

end Sys2Proof.Machine
end

