-- ==== Sys2Proof/Laws/Tab.lean ====
section
/-! SUPPORT. Laws of the sparse tables: a read after a write, and the canonical form that every table operation
keeps. -/

namespace Sys2Proof.Machine

variable {α : Type}

theorem tget_tinsert (d : α) (t : Tab α) (k : Nat) (v : α) (j : Nat) :
    tget d (tinsert t k v) j = if k = j then v else tget d t j := by
  induction t with
  | nil => simp [tinsert, tget]
  | cons e r ih =>
    obtain ⟨a, w⟩ := e
    simp only [tinsert]
    split
    · simp [tget]
    · split
      · subst_vars
        simp only [tget]
        split <;> rfl
      · simp only [tget, ih]
        by_cases h : a = j
        · have : k ≠ j := by omega
          simp [h, this]
        · simp [h]

theorem tget_terase (d : α) (t : Tab α) (k j : Nat) : tget d (terase t k) j = if k = j then d else tget d t j := by
  induction t with
  | nil => simp [terase, tget]
  | cons e r ih =>
    obtain ⟨a, w⟩ := e
    have hr : terase ((a, w) :: r) k = if a = k then terase r k else (a, w) :: terase r k := by
      by_cases h : a = k <;> simp [terase, h]
    rw [hr]
    by_cases h : a = k
    · subst h
      simp only [if_true, ih, tget]
      split <;> rfl
    · simp only [h, if_false, tget, ih]
      by_cases hj : a = j
      · have : k ≠ j := by omega
        simp [hj, this]
      · simp [hj]

/-- A table reads what was last written, and a write leaves every other key alone. -/
theorem tget_tput [DecidableEq α] (d : α) (t : Tab α) (k : Nat) (v : α) (j : Nat) :
    tget d (tput d t k v) j = if k = j then v else tget d t j := by
  unfold tput
  split
  · subst_vars
    rw [tget_terase]
  · rw [tget_tinsert]

theorem tget_tput_same [DecidableEq α] (d : α) (t : Tab α) (k : Nat) (v : α) : tget d (tput d t k v) k = v := by
  simp [tget_tput]

theorem tget_tput_ne [DecidableEq α] (d d' : α) (t : Tab α) {k j : Nat} (v : α) (h : k ≠ j) :
    tget d' (tput d t k v) j = tget d' t j := by
  unfold tput
  split
  · simp [tget_terase, h]
  · simp [tget_tinsert, h]

/-! ### The canonical form -/

theorem tsorted_iff (t : Tab α) : tsorted t = true ↔ t.Pairwise (fun x y => x.1 < y.1) := by
  induction t with
  | nil => simp [tsorted]
  | cons e r ih =>
    cases r with
    | nil => simp [tsorted]
    | cons f r =>
      obtain ⟨a, v⟩ := e
      obtain ⟨b, w⟩ := f
      simp only [tsorted, Bool.and_eq_true, decide_eq_true_eq, ih, List.pairwise_cons, List.mem_cons,
        forall_eq_or_imp]
      constructor
      · rintro ⟨h, h1, h2⟩
        exact ⟨⟨h, fun x hx => Nat.lt_trans h (h1 x hx)⟩, h1, h2⟩
      · rintro ⟨⟨h, -⟩, h1, h2⟩
        exact ⟨h, h1, h2⟩

theorem mem_tinsert {t : Tab α} {k : Nat} {v : α} {e : Nat × α} (h : e ∈ tinsert t k v) : e = (k, v) ∨ e ∈ t := by
  induction t with
  | nil => simpa [tinsert] using h
  | cons f r ih =>
    obtain ⟨a, w⟩ := f
    simp only [tinsert] at h
    split at h
    · simpa using h
    · split at h
      · simp only [List.mem_cons] at h ⊢
        tauto
      · simp only [List.mem_cons] at h ⊢
        rcases h with h | h
        · tauto
        · have := ih h
          tauto

theorem tinsert_sorted (t : Tab α) (k : Nat) (v : α) (h : t.Pairwise (fun x y => x.1 < y.1)) :
    (tinsert t k v).Pairwise (fun x y => x.1 < y.1) := by
  induction t with
  | nil => simp [tinsert]
  | cons f r ih =>
    obtain ⟨a, w⟩ := f
    simp only [List.pairwise_cons] at h
    simp only [tinsert]
    split
    · rename_i hk
      simp only [List.pairwise_cons, List.mem_cons, forall_eq_or_imp]
      exact ⟨⟨hk, fun x hx => Nat.lt_trans hk (h.1 x hx)⟩, h.1, h.2⟩
    · split
      · subst_vars
        simp only [List.pairwise_cons]
        exact h
      · rename_i h1 h2
        simp only [List.pairwise_cons]
        refine ⟨fun x hx => ?_, ih h.2⟩
        rcases mem_tinsert hx with rfl | hx
        · show a < k
          omega
        · exact h.1 x hx

theorem twf_iff [DecidableEq α] (d : Nat → α) (t : Tab α) :
    twf d t = true ↔ t.Pairwise (fun x y => x.1 < y.1) ∧ ∀ e ∈ t, e.2 ≠ d e.1 := by
  simp [twf, tsorted_iff]

/-- Filtering keeps the canonical form. -/
theorem filter_twf [DecidableEq α] (d : Nat → α) (t : Tab α) (p : Nat × α → Bool) (h : twf d t = true) :
    twf d (t.filter p) = true := by
  rw [twf_iff] at *
  exact ⟨h.1.filter p, fun e he => h.2 e (List.mem_filter.mp he).1⟩

/-- A write keeps the canonical form. -/
theorem tput_twf [DecidableEq α] (d : Nat → α) (t : Tab α) (k : Nat) (v : α) (h : twf d t = true) :
    twf d (tput (d k) t k v) = true := by
  unfold tput
  split
  · exact filter_twf d t _ h
  · rename_i hv
    rw [twf_iff] at *
    refine ⟨tinsert_sorted t k v h.1, fun e he => ?_⟩
    rcases mem_tinsert he with rfl | he
    · exact hv
    · exact h.2 e he

/-- Dropping a set of keys keeps the canonical form. -/
theorem tdrop_twf [DecidableEq α] (d : Nat → α) (t : Tab α) (p : Nat → Bool) (h : twf d t = true) :
    twf d (tdrop p t) = true := filter_twf d t _ h

theorem nil_twf [DecidableEq α] (d : Nat → α) : twf d ([] : Tab α) = true := rfl

end Sys2Proof.Machine
end

