-- ==== Sys2Proof/Laws/Ops.lean ====
section
/-! SUPPORT. What the shared operations do: registers, memory, and the run of a command. -/

namespace Sys2Proof.Machine

/-! ### Registers and memory -/

/-- A register reads what was last written to it, and a write leaves every other register alone. -/
theorem State.rd_wr (s : State) (a b : Nat) (v : Word) : (s.wr a v).rd b = if a = b then v else s.rd b := by
  unfold State.rd State.wr
  by_cases h : a = b
  · subst h
    simp [tget_tput_same]
  · simp [h, tget_tput_ne]

@[simp] theorem State.rd_wr_same (s : State) (a : Nat) (v : Word) : (s.wr a v).rd a = v := by simp [State.rd_wr]

/-- A read depends on the registers alone. -/
theorem State.rd_of_regs {s t : State} (h : t.regs = s.regs) (a : Nat) : t.rd a = s.rd a := by
  unfold State.rd; rw [h]

theorem State.rd_wr_ne (s : State) {a b : Nat} (v : Word) (h : a ≠ b) : (s.wr a v).rd b = s.rd b := by
  simp [State.rd_wr, h]

/-- Setting a field leaves every other register alone. -/
theorem State.rd_sf_ne (s : State) {a b : Nat} (hi lo n : Nat) (h : a ≠ b) : (s.sf a hi lo n).rd b = s.rd b :=
  State.rd_wr_ne s _ h

theorem State.rd_sb_ne (s : State) {a b : Nat} (i : Nat) (v : Bool) (h : a ≠ b) : (s.sb a i v).rd b = s.rd b :=
  State.rd_wr_ne s _ h

theorem State.rd_cnt_ne (s : State) {a b : Nat} (n : Nat) (h : a ≠ b) : (s.cnt a n).rd b = s.rd b :=
  State.rd_wr_ne s _ h

theorem State.rd_cntF_ne (s : State) {a b : Nat} (hi lo n : Nat) (h : a ≠ b) : (s.cntF a hi lo n).rd b = s.rd b :=
  State.rd_wr_ne s _ h

/-- A byte reads what was last written to it, and a write leaves every other byte alone. -/
theorem State.rdB_wrB (s : State) (a b : Nat) (v : Byte) : (s.wrB a v).rdB b = if a = b then v else s.rdB b := by
  simp [State.rdB, State.wrB, tget_tput]

/-- A run of bytes written leaves every byte outside it alone. -/
theorem State.rdB_wrBytes (l : List Byte) (s : State) (a b : Nat) (h : b < a ∨ a + l.length ≤ b) :
    (s.wrBytes a l).rdB b = s.rdB b := by
  induction l generalizing s a with
  | nil => rfl
  | cons x r ih =>
    simp only [State.wrBytes, List.length_cons] at *
    rw [ih _ _ (by omega), State.rdB_wrB]
    have : a ≠ b := by omega
    simp [this]

/-- A run of bytes written is what it reads as. -/
theorem State.rdB_wrBytes_at (l : List Byte) (s : State) (a i : Nat) (h : i < l.length) :
    (s.wrBytes a l).rdB (a + i) = l.getD i 0 := by
  induction l generalizing s a i with
  | nil => simp at h
  | cons x r ih =>
    simp only [State.wrBytes, List.length_cons] at *
    cases i with
    | zero => rw [State.rdB_wrBytes r _ _ _ (by omega)]; simp [State.rdB_wrB]
    | succ j =>
      rw [show a + (j + 1) = a + 1 + j by omega, ih _ _ _ (by omega)]
      simp

/-- Bytes of memory are no registers. -/
@[simp] theorem State.rd_wrBytes (l : List Byte) (s : State) (a r : Nat) : (s.wrBytes a l).rd r = s.rd r := by
  induction l generalizing s a with
  | nil => rfl
  | cons x l ih => simp only [State.wrBytes, ih]; rfl

theorem State.outGo_mem (s : State) (wr : Bool) (l : List (Nat × Nat × Byte)) : (s.outGo wr l).mem = s.mem := by
  unfold State.outGo; split <;> rfl

/-- Bytes written at physical addresses leave every other byte alone. -/
theorem State.rdB_putCells (cs : List (Nat × Byte)) (s : State) {b : Nat} (h : ∀ c ∈ cs, c.1 ≠ b) :
    (s.putCells cs).rdB b = s.rdB b := by
  induction cs generalizing s with
  | nil => rfl
  | cons c r ih =>
    rw [State.putCells, ih _ (fun x hx => h x (List.mem_cons_of_mem _ hx))]
    split
    · rfl
    · rw [State.rdB_wrB, if_neg (h c (List.mem_cons_self ..))]

theorem State.rdB_putAll (cs : List (Nat × Byte)) (s : State) {b : Nat} (h : ∀ c ∈ cs, c.1 ≠ b) :
    (s.putAll cs).rdB b = s.rdB b := by
  rw [State.putAll, State.rdB, State.outGo_mem]
  exact State.rdB_putCells cs s h

/-- A DMA write of a master outside the IOMMU leaves every byte outside it alone. -/
theorem State.rdB_dmaPut (s : State) {m a b : Nat} {l : List Byte} (hm : iommuDev m = none) (h : b < a ∨ a + l.length ≤ b) :
    (s.dmaPut m a l).rdB b = s.rdB b := by
  apply State.rdB_putAll
  intro c hc
  obtain ⟨i, hi, he⟩ := List.mem_filterMap.mp hc
  have hi := List.mem_range.mp hi
  simp only [State.physByte, State.xlate, hm, Option.map_eq_some_iff] at he
  obtain ⟨q, hq, rfl⟩ := he
  split at hq
  · simp only [Option.some.injEq] at hq; simp only; omega
  · cases hq

/-! ### Register addresses and words -/

theorem rg_eq (b off : Nat) : rg b off = 0x40000000 + b * 0x100000 + off := by simp only [rg, blockBase]

/-- Registers of different blocks are different. -/
theorem rg_ne {b c o p : Nat} (h : c < b) (hp : p < 0x100000) : rg b o ≠ rg c p := by simp only [rg_eq]; omega

theorem region_rg {b off : Nat} (hb : b ≤ 18) (ho : off < 0x100000) : region (rg b off) = .regs := by
  have e := rg_eq b off
  generalize rg b off = a at *
  unfold region
  rw [if_neg (by omega), if_neg (by omega), if_neg (by omega), if_neg (by omega), if_pos (by omega)]

theorem rg_block {b off : Nat} (ho : off < 0x100000) : (rg b off - 0x40000000) / 0x100000 = b := by
  have e := rg_eq b off
  generalize rg b off = a at *
  omega

theorem rg_offset {b off : Nat} (ho : off < 0x100000) : (rg b off - 0x40000000) % 0x100000 = off := by
  have e := rg_eq b off
  generalize rg b off = a at *
  omega

theorem rg_aligned {b off : Nat} (ho : off % 4 = 0) : rg b off % 4 = 0 := by
  have e := rg_eq b off
  generalize rg b off = a at *
  omega

/-- The four bytes of a word spell it. -/
theorem leWord (v : Word) : BitVec.ofNat 32 (leNat (leBytes 4 v.toNat)) = v := by
  apply BitVec.eq_of_toNat_eq
  have h := v.isLt
  simp only [leBytes, leNat, BitVec.toNat_ofNat]
  omega

/-! ### Fields -/

theorem maskOf_bit {hi lo i : Nat} (hlo : lo ≤ hi) (h : i < 32) :
    (maskOf hi lo).getLsbD i = (decide (lo ≤ i) && decide (i ≤ hi)) := by
  unfold maskOf
  rw [BitVec.getLsbD_ofNat, Nat.testBit_shiftLeft, Nat.testBit_two_pow_sub_one]
  simp only [h, decide_true, Bool.true_and]
  by_cases h1 : lo ≤ i <;> simp [h1]; omega

/-- A bit of a word after a field of it is set. -/
theorem bitOf_setFld (v : Word) {hi lo i : Nat} (n : Nat) (_ : hi < 32) (hlo : lo ≤ hi) (h : i < 32) :
    bitOf (setFld v hi lo n) i = if lo ≤ i ∧ i ≤ hi then n.testBit (i - lo) else bitOf v i := by
  unfold bitOf setFld
  rw [BitVec.getLsbD_or, BitVec.getLsbD_and, BitVec.getLsbD_not, maskOf_bit hlo h, BitVec.getLsbD_ofNat,
    Nat.testBit_shiftLeft, Nat.testBit_mod_two_pow]
  by_cases h1 : lo ≤ i <;> by_cases h2 : i ≤ hi <;> simp [h, h1, h2] <;> omega

/-- Bit `j` of a field. -/
theorem testBit_fld (v : Word) (hi lo j : Nat) : (fld v hi lo).testBit j = (decide (j < hi + 1 - lo) && bitOf v (lo + j)) := by
  unfold fld bitOf
  rw [Nat.testBit_mod_two_pow, Nat.testBit_shiftRight]
  rfl

/-- A field reads what was set in it. -/
theorem fld_setFld (v : Word) {hi lo : Nat} (n : Nat) (hi32 : hi < 32) (hlo : lo ≤ hi) :
    fld (setFld v hi lo n) hi lo = n % 2 ^ (hi + 1 - lo) := by
  apply Nat.eq_of_testBit_eq
  intro j
  rw [testBit_fld, Nat.testBit_mod_two_pow]
  by_cases h : j < hi + 1 - lo
  · rw [bitOf_setFld v n hi32 hlo (by omega), if_pos ⟨by omega, by omega⟩]
    simp [h]
  · simp [h]

/-- Setting a field leaves a field beside it alone. -/
theorem fld_setFld_ne (v : Word) {hi lo hi' lo' : Nat} (n : Nat) (hi32 : hi < 32) (hlo : lo ≤ hi) (h' : hi' < 32)
    (h : hi' < lo ∨ hi < lo') : fld (setFld v hi lo n) hi' lo' = fld v hi' lo' := by
  apply Nat.eq_of_testBit_eq
  intro j
  rw [testBit_fld, testBit_fld]
  by_cases hj : j < hi' + 1 - lo'
  · rw [bitOf_setFld v n hi32 hlo (by omega), if_neg (by omega)]
  · simp [hj]

theorem bitOf_setBit_same (v : Word) {i : Nat} (b : Bool) (h : i < 32) : bitOf (setBit v i b) i = b := by
  unfold setBit
  rw [bitOf_setFld v _ h (Nat.le_refl i) h]
  cases b <;> simp

theorem bitOf_setBit_ne (v : Word) {i j : Nat} (b : Bool) (h : i < 32) (hj : j < 32) (hij : i ≠ j) :
    bitOf (setBit v i b) j = bitOf v j := by
  unfold setBit
  rw [bitOf_setFld v _ h (Nat.le_refl i) hj, if_neg (by omega)]

/-- A field of a register reads what was set in it. -/
theorem State.f_sf_same (s : State) (a : Nat) {hi lo : Nat} (n : Nat) (hi32 : hi < 32) (hlo : lo ≤ hi) :
    (s.sf a hi lo n).f a hi lo = n % 2 ^ (hi + 1 - lo) := by
  unfold State.f State.sf
  rw [State.rd_wr_same, fld_setFld _ _ hi32 hlo]

theorem State.bit_sb_same (s : State) (a : Nat) {i : Nat} (v : Bool) (h : i < 32) : (s.sb a i v).bit a i = v := by
  unfold State.bit State.sb
  rw [State.rd_wr_same, bitOf_setBit_same _ _ h]

/-! ### The canonical form of memory and registers -/

/-- A register write keeps the invariant. -/
theorem State.wr_wf (s : State) (a : Nat) (v : Word) (h : s.wf = true) : (s.wr a v).wf = true := by
  simp only [State.wf, wfParts, Bool.and_eq_true] at h ⊢
  exact ⟨⟨⟨tput_twf regReset _ a v h.1.1.1, h.1.1.2⟩, h.1.2⟩, h.2⟩

/-- A memory write keeps the canonical form of memory. -/
theorem State.wrB_mem_wf (s : State) (a : Nat) (b : Byte) (h : Memory.wf s.mem = true) :
    Memory.wf (s.wrB a b).mem = true :=
  tput_twf (fun _ => 0) _ a b h

/-- A memory write keeps the invariant. -/
theorem State.wrB_wf (s : State) (a : Nat) (b : Byte) (h : s.wf = true) : (s.wrB a b).wf = true := by
  simp only [State.wf, wfParts, Bool.and_eq_true] at h ⊢
  exact ⟨⟨⟨h.1.1.1, State.wrB_mem_wf s a b h.1.1.2⟩, h.1.2⟩, h.2⟩

/-- A run of bytes written keeps the invariant. -/
theorem State.wrBytes_wf (l : List Byte) (s : State) (a : Nat) (h : s.wf = true) : (s.wrBytes a l).wf = true := by
  induction l generalizing s a with
  | nil => exact h
  | cons x r ih => exact ih _ _ (State.wrB_wf s a x h)

/-! ### Commands of a ring -/

/-- The command that a row names is one of its opcode, ring and slot that may start. -/
theorem findCmd_some {op ring slot : Nat} {s : State} {c : Cmd} (h : findCmd op ring slot s = some c) :
    c ∈ s.mason.cmds ∧ c.ring = ring ∧ c.slot = slot ∧ c.opcode = op ∧ startable c s = true := by
  have p := List.find?_some h
  simp only [Bool.and_eq_true, beq_iff_eq] at p
  exact ⟨List.mem_of_find?_eq_some h, p.1.1.1, p.1.1.2, p.1.2, p.2⟩

/-- Where a command is admitted: the die runs, Mason holds it, and its checks pass. -/
theorem admits_iff {sp : OpSpec} {ring slot : Nat} {c : Cmd} {s0 s : State} (h : Admits sp ring slot c s0 s = true) :
    s0.up = true ∧ s = inputRead c s0 ∧ ∃ d, findCmd sp.opcode ring slot s0 = some d ∧
      d.opcode = sp.opcode ∧ startable d s0 = true ∧ startCheck sp d s0 = .inr c := by
  simp only [Admits, Bool.and_eq_true, decide_eq_true_eq] at h
  obtain ⟨⟨hu, hr⟩, h⟩ := h
  refine ⟨hu, hr, ?_⟩
  split at h
  · rename_i d hd
    obtain ⟨-, -, -, ho, hs⟩ := findCmd_some hd
    split at h
    · rename_i e he
      exact ⟨d, hd, ho, hs, by rw [he, of_decide_eq_true h]⟩
    · cases h
  · cases h

/-- A command that is admitted has not started before (R69). -/
theorem admits_idle {sp : OpSpec} {ring slot : Nat} {c : Cmd} {s0 s : State} (h : Admits sp ring slot c s0 s = true) :
    c.running = false := by
  obtain ⟨-, -, d, -, -, hs, hc⟩ := admits_iff h
  have hd : d.running = false := by
    simp only [startable, freeToStart, Bool.and_eq_true, Bool.not_eq_true'] at hs
    simp_all
  unfold startCheck at hc
  repeat' split at hc
  all_goals cases hc
  all_goals exact hd

/-- A command without a buffer reads nothing before it runs. -/
theorem inputRead_inline {c : Cmd} (s : State) (h : c.indirect = false) : inputRead c s = s := by
  simp [inputRead, h]

/-- A command that Mason holds, that may start and that passes its checks runs to what its execution answers. -/
theorem opRow_admits {sp : OpSpec} {eff : CmdEff} {ring slot : Nat} {c : Cmd} {s0 s : State}
    (h : Admits sp ring slot c s0 s = true) :
    opRow sp eff ring slot s0 = .next (match eff c s with
      | .ok t r v => finish sp c r v s t
      | .fail st code off v => completeFail c ⟨st, code, off, v⟩ s
      | .part t st code off v => completeFail c ⟨st, code, off, v⟩ t
      | .wait t => markRunning c t) := by
  obtain ⟨hu, rfl, d, hf, ho, hs, hc⟩ := admits_iff h
  unfold opRow act
  rw [if_pos hu]
  congr 1
  unfold runOp
  simp only [hf, hc]
  all_goals rfl

/-- A command that Mason holds, that may start and that passes its checks is the one its row runs. -/
theorem runnable_admits {sp : OpSpec} {ring slot : Nat} {c : Cmd} {s0 s : State}
    (h : Admits sp ring slot c s0 s = true) : runnable sp ring slot s0 = some c := by
  obtain ⟨hu, -, d, hf, ho, hs, hc⟩ := admits_iff h
  simp [runnable, hf, hu, hc]

/-- A row whose command Mason does not hold, or which may not start, changes nothing. -/
theorem opRow_idle (sp : OpSpec) (eff : CmdEff) {ring slot : Nat} {s : State}
    (h : findCmd sp.opcode ring slot s = none) : opRow sp eff ring slot s = .next s := by
  have : runOp sp eff ring slot s = s := by unfold runOp; rw [h]
  simp [opRow, act, this]

/-- A command that fails a check of R67 steps 5–8 only completes with that failure. -/
theorem opRow_refused (sp : OpSpec) (eff : CmdEff) {ring slot : Nat} {c : Cmd} {f : Fail} {a : Option Nat} {s : State}
    (hu : s.up = true) (hf : findCmd sp.opcode ring slot s = some c)
    (hc : startCheck sp c s = .inl (f, a)) : opRow sp eff ring slot s =
      .next (completeFail c f (match a with | some a => s.accessFault c.issuer a false | none => s)) := by
  cases a <;> simp [opRow, act, runOp, hu, hf, hc]

/-- An inline result that fits its reply completes the command OK. -/
theorem finish_inline {sp : OpSpec} (c : Cmd) {r : List Byte} (v : Nat) (s t : State) (hb : sp.buf ≠ .output)
    (hr : r.length ≤ 224) : finish sp c r v s t = okReply c r v t := by
  unfold finish okReply
  have : ¬ 224 < r.length := by omega
  simp [hb, this]

/-- A command that Mason holds and whose execution answers OK completes OK. -/
theorem opRow_ok {sp : OpSpec} {eff : CmdEff} {ring slot : Nat} {c : Cmd} {s0 s t : State} {r : List Byte} {v : Nat}
    (h : Admits sp ring slot c s0 s = true) (he : eff c s = .ok t r v) (hb : sp.buf ≠ .output) (hr : r.length ≤ 224) :
    opRow sp eff ring slot s0 = .next (okReply c r v t) := by
  rw [opRow_admits h, he]
  simp only [finish_inline c v s t hb hr]

/-- A command whose execution goes on is marked as running. -/
theorem opRow_wait {sp : OpSpec} {eff : CmdEff} {ring slot : Nat} {c : Cmd} {s0 s t : State}
    (h : Admits sp ring slot c s0 s = true) (he : eff c s = .wait t) :
    opRow sp eff ring slot s0 = .next (markRunning c t) := by
  rw [opRow_admits h, he]

/-- A port set without reserved bits, whose ports are fitted and under the issuer's mask, passes. -/
theorem portSetCheck_ok {b o : Nat} {c : Cmd} {s : State} {k : CmdOut} (hr : c.p o 4 < 2 ^ 21)
    (hu : unfittedOf s (c.p o 4) = none)
    (ha : (bitsOf (c.p o 4) 21).all (fun p => (s.aclEntry b c.issuer).mask.getLsbD p) = true) :
    portSetCheck b c o s k = k := by
  have h : (bitsOf (c.p o 4) 21).find? (fun p => !(s.aclEntry b c.issuer).mask.getLsbD p) = none := by
    rw [List.find?_eq_none]
    intro x hx
    rw [List.all_eq_true] at ha
    simp [ha x hx]
  simp only [portSetCheck, ge_iff_le, Nat.not_le.mpr hr, if_false, hu, h]

/-! ### Addan instructions -/

/-- An instruction that is ready issues: only its own action happens. -/
theorem issue_ready {c op : Nat} {i : Addan} {f : Frame} {r : Run} {s : State} (h : AddanReady c op i f r s = true)
    (g : Addan → Frame → Run → State → State) : issue c op g s = g i f r (engCount c 4 s) := by
  simp only [AddanReady, Bool.and_eq_true, decide_eq_true_eq, Bool.not_eq_true', Bool.or_eq_true, beq_iff_eq] at h
  obtain ⟨⟨⟨⟨⟨⟨⟨⟨-, hr⟩, ho⟩, hd⟩, hf⟩, hc⟩, hs⟩, hi⟩, hx⟩ := h
  have hc : ¬ 512 ≤ r.icount := by omega
  have hx : (exceeds r i && !r.overBudget) = false := by rcases hx with h | h <;> simp [h]
  unfold issue
  simp only [hr, ho, hd, hf, hc, hs, hi, hx, ne_eq, not_true_eq_false, if_false, Bool.false_eq_true, Bool.false_and]

/-- A decoded instruction has the opcode of its word. -/
theorem decodeAddan_op {w : Word} {i : Addan} (h : decodeAddan w = some i) : i.op = fld w 31 26 := by
  unfold decodeAddan at h
  simp only [Option.ite_none_right_eq_some, Option.some.injEq] at h
  rw [← h.2]
  split <;> simp_all

/-- The opcode of an instruction that is ready. -/
theorem addanReady_op {c op : Nat} {i : Addan} {f : Frame} {r : Run} {s : State} (h : AddanReady c op i f r s = true) :
    i.op = op := by
  simp only [AddanReady, Bool.and_eq_true, decide_eq_true_eq, beq_iff_eq] at h
  rw [decodeAddan_op h.1.1.1.1.1.2, h.1.1.1.1.1.1.2]

/-- The die runs where an instruction is ready. -/
theorem addanReady_up {c op : Nat} {i : Addan} {f : Frame} {r : Run} {s : State} (h : AddanReady c op i f r s = true) :
    s.up = true := by
  simp only [AddanReady, Bool.and_eq_true] at h
  exact h.1.1.1.1.1.1.1.1

@[simp] theorem leBytes_length (k n : Nat) : (leBytes k n).length = k := by
  induction k generalizing n with
  | zero => rfl
  | succ k ih => simp [leBytes, ih]

@[simp] theorem readRegs_length (l : List Nat) (s : State) : (readRegs l s).length = 4 * l.length := by
  induction l with
  | nil => rfl
  | cons a r ih => simp only [readRegs, List.flatMap_cons, List.length_append, List.length_cons, leBytes_length] at *; omega

@[simp] theorem takeCounters_length (l : List Nat) (s : State) : (takeCounters l s).1.length = 4 * l.length := by
  induction l generalizing s with
  | nil => rfl
  | cons a r ih => simp only [takeCounters, List.length_append, leBytes_length, ih, List.length_cons]; omega

@[simp] theorem regRun_length (a n : Nat) : (regRun a n).length = n := by simp [regRun]

@[simp] theorem timeBytes_length (t : Nat) : (timeBytes t).length = 12 := by simp [timeBytes]

/-- Targets whose form, fitting and mask bits are good pass R67 step 9. -/
theorem targetsCheck_ok {c : Cmd} {s : State} {k : CmdOut} (l : List (List Byte)) (i : Nat)
    (h : ∀ t ∈ l, targetForm t = true ∧ (tKind t = 0 ∨ ((tKind t = 1 ∨ tKind t = 2 → clnFitted s (tIndex t) = true) ∧
      (s.aclEntry 10 c.issuer).mask.getLsbD (targetMaskBit t) = true))) : targetsCheck c s l i k = k := by
  induction l generalizing i with
  | nil => rfl
  | cons t r ih =>
    obtain ⟨hf, ht⟩ := h t (by simp)
    have hr := ih (i + 1) (fun u hu => h u (by simp [hu]))
    simp only [targetsCheck, hf, Bool.not_true, Bool.false_eq_true, if_false, hr]
    split
    · rfl
    · rename_i hk
      obtain ⟨h1, h2⟩ := ht.resolve_left hk
      rw [if_neg (fun h => by simp [h1 h.1] at h), h2]
      simp

end Sys2Proof.Machine
end

