-- ==== Sys2Proof/Laws/Boot.lean ====
section
/-! SUPPORT. What the row of SYS_RESET does with a command that may start (R545, R562). -/

open Sys2Proof Sys2Proof.Machine

/-- A SYS_RESET that Mason holds fetched is executed as any other command. -/
theorem execSysReset_admits {ring slot : Nat} {c : Cmd} {s0 s : State}
    (h : Admits (specOf opsSys 0x0100) ring slot c s0 s = true) :
    execSysReset ring slot s0 = opRow (specOf opsSys 0x0100) effSysReset ring slot s0 := by
  obtain ⟨_, _, d, hf, _⟩ := admits_iff h
  have hf : findCmd 0x100 ring slot s0 = some d := hf
  simp only [execSysReset, hf]

/-- One whose reload waits goes on. -/
theorem execSysReset_more {ring slot : Nat} {c : Cmd} {s : State} (hu : s.up = true) (hn : findCmd 0x100 ring slot s = none)
    (hc : s.mason.cmds.find? (fun c => c.ring == ring && c.slot == slot && c.opcode == 0x100 && c.running) = some c) :
    execSysReset ring slot s = .next (reloadMore c s) := by
  simp only [execSysReset, hn, hc, act, hu, if_true]
end

