-- ==== Sys2Proof/Laws/Doubt.lean ====
section
/-! SUPPORT. What no unpredictable result changes (R23). -/

namespace Sys2Proof.Machine

/-- What a block's contents beside registers keep when the block is in doubt: registers, the access tables, memory, the
reach of masters, keys loaded, and the other safety domain. -/
theorem strayBlock_keeps (m c : Nat) (s : State) :
    (strayBlock m c s).regs = s.regs ∧ (strayBlock m c s).acl = s.acl ∧ (strayBlock m c s).mem = s.mem ∧
      (strayBlock m c s).sys.ladleReach = s.sys.ladleReach ∧ (∀ e ∈ (strayBlock m c s).cru.keys, e ∈ s.cru.keys) ∧
      (∀ d, domainOf m ≠ some d → dom (strayBlock m c s) d = dom s d) := by
  have hd : ∀ d x t, domainOf m = some x → domainOf m ≠ some d → tget Dom.zero (tput Dom.zero t x (Config.anyDom s.fresh)) d = tget Dom.zero t d := by
    intro d x t h1 h2
    exact tget_tput_ne _ _ _ _ (by rintro rfl; exact h2 h1)
  unfold strayBlock
  dsimp only
  split
  all_goals try (simp [straySys, strayRings, strayJobs, tdrop, dom]; done)
  · refine ⟨rfl, rfl, rfl, rfl, fun e h => ?_, fun d _ => rfl⟩
    simp only [strayJobs, tdrop, List.mem_filter] at h
    exact h.1
  · split
    · next x h => exact ⟨rfl, rfl, rfl, rfl, fun e h => h, fun d h' => hd d x _ h h'⟩
    · exact ⟨rfl, rfl, rfl, rfl, fun e h => h, fun d _ => rfl⟩
  · repeat' split
    all_goals simp [strayPage, strayRings, strayJobs, State.setFn, dom]

/-- An absolute address names one block and offset. -/
theorem rg_inj {b c o p : Nat} (ho : o < 0x100000) (hp : p < 0x100000) (h : rg b o = rg c p) : b = c ∧ o = p := by
  simp only [rg_eq] at h
  omega

/-- The registers of a safety domain are firm for a master of another. -/
theorem firmBits_lsc {s : State} {m d off : Nat} (ho : off < 0x1000) (h : d < 2) (hd : domainOf m ≠ some d) :
    firmBits s m 13 (0x1000 + d * 0x1000 + off) = BitVec.allOnes 32 := by
  have h1 : (0x1000 + d * 0x1000 + off) / 0x1000 - 1 = d := by omega
  have h2 : decide (0x1000 ≤ 0x1000 + d * 0x1000 + off) = true := by rw [decide_eq_true_eq]; omega
  have h3 : (domainOf m != some d) = true := by simpa using hd
  simp only [firmBits, h1, h2, h3, Bool.and_self, if_true]

/-- What leaves the rights of a master alone leaves the bits that its errors keep alone. -/
theorem firmBits_of {s t : State} (ha : t.acl = s.acl) (hl : t.sys.ladleReach = s.sys.ladleReach) (m b off : Nat) :
    firmBits t m b off = firmBits s m b off := by
  have h : t.aclEntry b m = s.aclEntry b m := by simp only [State.aclEntry, ha, hl]
  simp only [firmBits, h]

/-- Of a register in doubt the bits `k` stay, and no other register changes. -/
theorem strayBits_keeps (s : State) (a : Nat) (k v : Word) (d : Option RegDesc) :
    (∃ r, strayBits s a k v d = { s with regs := r }) ∧
      (∀ i, k.getLsbD i = true → ((strayBits s a k v d).rd a).getLsbD i = (s.rd a).getLsbD i) ∧
      ∀ b, a ≠ b → (strayBits s a k v d).rd b = s.rd b := by
  cases d with
  | none => exact ⟨⟨s.regs, rfl⟩, fun _ _ => rfl, fun _ _ => rfl⟩
  | some d =>
    refine ⟨⟨_, rfl⟩, fun i hi => ?_, fun b h => State.rd_wr_ne s _ h⟩
    simp only [strayBits, State.rd_wr_same, BitVec.getLsbD_or, BitVec.getLsbD_and, BitVec.getLsbD_not, hi, Bool.not_true,
      Bool.and_false, Bool.and_true, Bool.false_or]

/-- A register in doubt: nothing but registers changes, and of those no bit that an error never changes. -/
theorem strayReg_keeps (m c : Nat) (s : State) (e : Nat × Word) :
    (∃ r, strayReg m c s e = { s with regs := r }) ∧
      ∀ b off i, off < 0x100000 → (firmBits s m b off).getLsbD i = true →
        ((strayReg m c s e).rd (rg b off)).getLsbD i = (s.rd (rg b off)).getLsbD i := by
  unfold strayReg
  split
  · exact ⟨⟨s.regs, rfl⟩, fun _ _ _ _ _ => rfl⟩
  · next h =>
    obtain ⟨h1, h2, h3⟩ := strayBits_keeps s (rg (doubtBlock c) e.1) (firmBits s m (doubtBlock c) e.1) e.2
      (regDesc (rg (doubtBlock c) e.1))
    refine ⟨h1, fun b off i ho hi => ?_⟩
    by_cases k : rg (doubtBlock c) e.1 = rg b off
    · have hp : e.1 < 0x100000 := by
        simp only [mayStray, Bool.or_eq_true, Bool.not_eq_true', not_or, Bool.not_eq_false, Bool.and_eq_true,
          decide_eq_true_eq] at h
        exact h.2.1
      obtain ⟨rfl, rfl⟩ := rg_inj hp ho k
      exact h2 i hi
    · rw [h3 _ k]

theorem strayRegs_keeps (m c : Nat) (l : List (Nat × Word)) (s : State) :
    (∃ r, l.foldl (strayReg m c) s = { s with regs := r }) ∧
      ∀ b off i, off < 0x100000 → (firmBits s m b off).getLsbD i = true →
        ((l.foldl (strayReg m c) s).rd (rg b off)).getLsbD i = (s.rd (rg b off)).getLsbD i := by
  induction l generalizing s with
  | nil => exact ⟨⟨s.regs, rfl⟩, fun _ _ _ _ _ => rfl⟩
  | cons e l ih =>
    obtain ⟨⟨r, hr⟩, h⟩ := strayReg_keeps m c s e
    obtain ⟨⟨r', hr'⟩, h'⟩ := ih (strayReg m c s e)
    refine ⟨⟨r', ?_⟩, fun b off i ho hi => ?_⟩
    · rw [List.foldl_cons, hr', hr]
    · rw [List.foldl_cons, h' b off i ho ?_, h b off i ho hi]
      exact (congrArg (·.getLsbD i) (firmBits_of (s := s) (t := strayReg m c s e) (by rw [hr]) (by rw [hr]) m b off)).trans hi

/-- Memory in doubt: only bytes that the master's windows let it write change. -/
theorem strayBytes_keeps (m : Nat) (l : List (Nat × Byte)) (s : State) :
    (∃ r q, l.foldl (strayByte m) s = { s with mem := r, bad := q }) ∧
      ∀ a, s.reaches m a true = false → (l.foldl (strayByte m) s).rdB a = s.rdB a := by
  induction l generalizing s with
  | nil => exact ⟨⟨s.mem, s.bad, rfl⟩, fun _ _ => rfl⟩
  | cons e l ih =>
    obtain ⟨⟨r, q, h1⟩, h2⟩ := ih (strayByte m s e)
    have hw : ∃ r q, strayByte m s e = { s with mem := r, bad := q } := by
      unfold strayByte; simp only; repeat' split
      all_goals exact ⟨_, _, rfl⟩
    obtain ⟨r', q', hw⟩ := hw
    refine ⟨⟨r, q, by rw [List.foldl_cons, h1, hw]⟩, fun a ha => ?_⟩
    rw [List.foldl_cons, h2 a (by rw [hw]; exact ha)]
    by_cases k : e.1 = a
    · subst k
      simp [strayByte, ha]
    · unfold strayByte
      dsimp only
      repeat' split
      all_goals first | rfl | rw [State.rdB_wrB, if_neg k]

/-- What a result listed as unpredictable keeps, whatever its block's contents become (R23): the access tables and the
keys are no one's gain, no firm bit of a register changes, the other safety domain and the memory that the master may
not write stay. -/
theorem unsettle_keeps (c m : Nat) (s : State) :
    (unsettle c m s).acl = s.acl ∧ (unsettle c m s).sys.ladleReach = s.sys.ladleReach ∧
      (∀ e ∈ (unsettle c m s).cru.keys, e ∈ s.cru.keys) ∧
      (∀ d, domainOf m ≠ some d → dom (unsettle c m s) d = dom s d) ∧
      (∀ b off i, off < 0x100000 → (firmBits s m b off).getLsbD i = true →
        ((unsettle c m s).rd (rg b off)).getLsbD i = (s.rd (rg b off)).getLsbD i) ∧
      (∀ a, domainOf m = none → s.reaches m a true = false → (unsettle c m s).rdB a = s.rdB a) := by
  obtain ⟨⟨r, h1⟩, h2⟩ := strayRegs_keeps m c (Config.anyRegs s.fresh) s
  obtain ⟨k1, k2, k3, k4, k5, k6⟩ := strayBlock_keeps m c ((Config.anyRegs s.fresh).foldl (strayReg m c) s)
  unfold unsettle
  dsimp only
  generalize strayBlock m c ((Config.anyRegs s.fresh).foldl (strayReg m c) s) = u at *
  obtain ⟨⟨x, q, e1⟩, e2⟩ := strayBytes_keeps m (Config.anyMem s.fresh) u
  have a1 : u.acl = s.acl := by rw [k2, h1]
  have a2 : u.sys.ladleReach = s.sys.ladleReach := by rw [k4, h1]
  refine ⟨by rw [e1]; exact a1, by rw [e1]; exact a2, fun a ha => ?_, fun d hd => ?_, fun b off i ho hi => ?_,
    fun a hd ha => ?_⟩
  · rw [e1] at ha
    have := k5 a ha
    rwa [h1] at this
  · have := k6 d hd
    rw [h1] at this
    rw [e1]
    exact this
  · rw [← h2 b off i ho hi, ← State.rd_of_regs k1]
    rw [e1]
    rfl
  · have hr : u.reaches m a true = s.reaches m a true := by
      simp only [State.reaches, domReach, hd, a2, State.inWindows, State.window, a1]
    have := e2 a (hr.trans ha)
    refine Eq.trans (b := u.rdB a) this ?_
    simp only [State.rdB, k3, h1]

/-- The doubt itself keeps the same. -/
theorem stray_keeps (c m : Nat) (s : State) :
    (s.stray m c).acl = s.acl ∧ (∀ e ∈ (s.stray m c).cru.keys, e ∈ s.cru.keys) ∧
      (∀ d, domainOf m ≠ some d → dom (s.stray m c) d = dom s d) ∧
      (∀ b off i, off < 0x100000 → (firmBits s m b off).getLsbD i = true →
        ((s.stray m c).rd (rg b off)).getLsbD i = (s.rd (rg b off)).getLsbD i) ∧
      (∀ a, domainOf m = none → s.reaches m a true = false → (s.stray m c).rdB a = s.rdB a) := by
  obtain ⟨h1, -, h3, h4, h5, h6⟩ := unsettle_keeps c m
    { s with sys := { s.sys with doubt := if s.sys.doubt.contains (c, m) then s.sys.doubt else s.sys.doubt ++ [(c, m)] } }
  exact ⟨h1, h3, h4, h5, h6⟩

end Sys2Proof.Machine
end

