-- ==== Sys2Proof/Laws/Hbr.lean ====
section
/-! SUPPORT. What the bridge does with a request of the host that it takes (R525–R528). -/

open Sys2Proof Sys2Proof.Machine

theorem inboundGo_takes {s : State} {r : InReq} (h : InTakes s r = true) :
    inboundGo r s = if r.poison then inFail r 4 s else if r.space = 0 then inPage r s else inAperture r s := by
  simp only [InTakes, Bool.and_eq_true, decide_eq_true_eq, beq_iff_eq, bne_iff_ne] at h
  obtain ⟨⟨⟨⟨⟨a, b⟩, c⟩, d⟩, e⟩, f⟩ := h
  unfold inboundGo
  rw [if_neg (by simp [b, c, d, e]; omega), if_neg (Nat.not_lt.mpr f)]
end

