-- ==== Sys2Proof/Laws/Prs.lean ====
section
/-! SUPPORT. Contexts, branches and counters of the parse engines. -/

namespace Sys2Proof.Machine

/-- A context that was set is what it reads as. -/
@[simp] theorem ctxOf_setCtx (c : Nat) (x : Ctx) (s : State) : ctxOf (setCtx c x s) c = x := by
  simp [ctxOf, setCtx, State.withPrs, tget_tput]

/-- The target of a branch is an instruction of the bank. -/
theorem decodeAddan_target {w : Word} {i : Addan} (h : decodeAddan w = some i) (ho : i.op = 24) : i.imm < 8192 := by
  have hw := decodeAddan_op h
  unfold decodeAddan at h
  simp only [Option.ite_none_right_eq_some, Option.some.injEq] at h
  have h24 : fld w 31 26 = 24 := by omega
  rw [← h.2, if_pos h24]
  exact Nat.mod_lt _ (by decide)

/-- Counting an overrun leaves PRS.CFG alone. -/
theorem countOver_bit (c : Nat) (s : State) : (countOver c s).bit (rg 5 8) 1 = s.bit (rg 5 8) 1 := by
  simp only [countOver, engCount, State.bit, State.raise, eventOff]
  rw [State.rd_sb_ne _ _ _ (by simp [rg]), State.rd_cnt_ne _ _ (by simp [engReg, rg])]

/-- Counters that are read and cleared: their values, and zero after. -/
theorem takeCounters_spec (l : List Nat) (s : State) (h : l.Nodup) :
    (takeCounters l s).1 = readRegs l s ∧ (∀ a ∈ l, (takeCounters l s).2.rd a = 0) ∧ SameRegs l s (takeCounters l s).2 := by
  induction l generalizing s with
  | nil => exact ⟨rfl, by simp, fun _ _ => rfl⟩
  | cons a r ih =>
    obtain ⟨ha, hr⟩ := List.nodup_cons.mp h
    obtain ⟨h1, h2, h3⟩ := ih (s.wr a 0) hr
    simp only [takeCounters]
    refine ⟨?_, ?_, ?_⟩
    · rw [h1]
      have : readRegs r (s.wr a 0) = readRegs r s := by
        simp only [readRegs, List.flatMap_def]
        congr 1
        refine List.map_congr_left fun b hb => ?_
        rw [State.rd_wr_ne s (0 : Word) (show a ≠ b from fun e => ha (by rw [e]; exact hb))]
      rw [this]; simp [readRegs]
    · intro b hb
      rcases List.mem_cons.mp hb with rfl | hb
      · rw [h3 _ ha, State.rd_wr_same]
      · exact h2 b hb
    · intro b hb
      simp only [List.mem_cons, not_or] at hb
      rw [h3 b hb.2, State.rd_wr_ne _ _ (Ne.symm hb.1)]

end Sys2Proof.Machine
end

