-- ==== Sys2Proof/Laws/RegWrite.lean ====
section
/-! SUPPORT. What a write on the fabric does, by where it goes. -/

namespace Sys2Proof.Machine

/-- A write at an address of the register region. -/
theorem fabricWrite_regs (m a : Nat) (data : List Byte) (s : State) (h : region a = .regs) :
    fabricWrite m a data s =
      (if data.length ≠ 4 ∨ a % 4 ≠ 0 then
        .next (oddAccess m ((a - 0x40000000) / 0x100000) ((a - 0x40000000) % 0x100000) data.length true s)
      else regWrite m ((a - 0x40000000) / 0x100000) ((a - 0x40000000) % 0x100000) (BitVec.ofNat 32 (leNat data)) s) := by
  delta fabricWrite
  rw [h]

/-- A word written at the address of a register is a register write. -/
theorem fabricWrite_reg {b off : Nat} (m : Nat) (v : Word) (s : State) (hb : b ≤ 18) (ho : off < 0x100000)
    (ha : off % 4 = 0) : fabricWrite m (rg b off) (leBytes 4 v.toNat) s = regWrite m b off v s := by
  rw [fabricWrite_regs m _ _ s (region_rg hb ho), if_neg (by simp [rg_aligned ha]), rg_block ho, rg_offset ho, leWord]

/-- A write at an address of memory, of the boot ROM, of a debug window or of none. -/
theorem fabricWrite_memory {a : Nat} (m : Nat) (data : List Byte) (s : State) (h0 : region a ≠ .regs) (h1 : region a ≠ .cluster)
    (h2 : region a ≠ .pcie) :
    fabricWrite m a data s =
      .next (if (List.range data.length).any (fun i => !s.reaches m (a + i) true) then s.refuse m a true
        else s.wrBytes a data) := by
  delta fabricWrite
  split <;> first | contradiction | rfl

/-- The state that an outcome leaves. -/
@[simp] theorem after_next (t s : State) : after (.next t) s = t := rfl

/-- The address of a master that is neither the cluster's nor a PCIe function is physical (R417, R421). -/
theorem ownWalk_physical {s : State} {m a : Nat} {wr : Bool} (hg : isCluster m = false) (hp : isPcie m = false) :
    s.ownWalk m a wr = .ok a := by
  simp [State.ownWalk, hg, hp]

/-- What a master does on the fabric is done where the die runs, the master exists and no injection waits. -/
theorem fabricAct_go {m a : Nat} {f : State → State} {s : State} (hu : s.up = true) (hi : Issues s m = true) :
    fabricAct m a f s = .next (f s) := by
  simp only [Issues, Bool.and_eq_true, Bool.not_eq_true'] at hi
  simp only [fabricAct, act, hu, hi.1, hi.2, if_true, Bool.false_eq_true, if_false]

/-- What a right to write says. -/
theorem mayWrite_parts {s : State} {m b : Nat} {k : Mask} (h : MayWrite s m b k = true) :
    s.up = true ∧ Issues s m = true ∧ (s.aclEntry b m).allows 1 k = true := by
  simp only [MayWrite, Bool.and_eq_true] at h
  exact ⟨h.1.1.1, h.1.1.2, h.2⟩

/-- A write that the master may make is done. -/
theorem withWrite_ok {b off m : Nat} {k : Mask} {f : State → Ans} {s : State} (h : MayWrite s m b k = true) :
    withWrite b off k m f s = .next (settle m s (f s)) := by
  simp only [MayWrite, Bool.and_eq_true] at h
  unfold withWrite
  rw [fabricAct_go h.1.1.1 h.1.1.2]
  simp only [h.1.2, h.2, if_true, Bool.not_true, Bool.false_eq_true, if_false]

/-- A read that the master may make is done. -/
theorem withRead_ok {b off m : Nat} {k : Mask} {f : State → State} {s : State} (h : MayRead s m b k = true) :
    withRead b off k m f s = .next (f s) := by
  simp only [MayRead, Bool.and_eq_true] at h
  unfold withRead
  rw [fabricAct_go h.1.1.1 h.1.1.2]
  simp only [h.1.2, h.2, if_true, Bool.not_true, Bool.false_eq_true, if_false]

/-- The row of register writes at an address that the master's own translation makes that of a register. -/
theorem execRegisterWrite_reg {m a b off : Nat} {v : Word} {s t : State} (hu : s.up = true)
    (hi : Issues s m = true) (hw : s.ownWalk m a true = .ok (rg b off)) (hb : b ≤ 18) (ho : off < 0x100000) (ha : off % 4 = 0)
    (h : regWrite m b off v s = .next t) : execRegisterWrite m a (leBytes 4 v.toNat) s = .next t := by
  unfold execRegisterWrite
  rw [fabricAct_go hu hi]
  simp only [hw, fabricWrite_reg m v s hb ho ha, h, after_next]

/-- A register without a row of its own, by the right to write it. -/
theorem regWrite_plain {m b off : Nat} {v : Word} {d : RegDesc} {s : State} (hl : (b == 13 && lscRefused m off) = false)
    (hr : rowWrite m b off v s = none) (hd : regDesc (rg b off) = some d) :
    regWrite m b off v s = withWrite b off (regMask b off) m (plainWrite m b off v d) s := by
  have h : ¬ (b = 13 ∧ lscRefused m off = true) := by simpa using hl
  unfold regWrite
  rw [if_neg h, hr, hd]

/-- An offset that no chapter defines takes no write. -/
theorem regWrite_none {m b off : Nat} {v : Word} {s : State} (hl : (b == 13 && lscRefused m off) = false)
    (hr : rowWrite m b off v s = none) (hd : regDesc (rg b off) = none) :
    regWrite m b off v s = .next (if reachesRegs s m then s else s.refuse m (rg b off) true) := by
  have h : ¬ (b = 13 ∧ lscRefused m off = true) := by simpa using hl
  unfold regWrite
  rw [if_neg h, hr, hd]

end Sys2Proof.Machine
end

