-- ==== Sys2Proof/Laws/Swc.lean ====
section
/-! SUPPORT. What the operations of the switch core leave alone. -/

namespace Sys2Proof.Machine

/-- Counting unfitted ports changes registers only. -/
@[simp] theorem countUnfitted_swc (f : Frame) (set : Nat) (s : State) : (countUnfitted f set s).swc = s.swc := by
  unfold countUnfitted
  simp only
  generalize ((bitsOf set 21).filter (fun p => !portFitted s.tier p)) = l
  generalize ((bitsOf set 21).find? (fun p => portFitted s.tier p)).getD f.port = a
  induction l generalizing s with
  | nil => rfl
  | cons x r ih => exact ih _

end Sys2Proof.Machine
end

