-- ==== Sys2Proof/Laws/Tim.lean ====
section
/-! SUPPORT. What a step of network time leaves alone as it puts every block's schedules where the new time has them,
and all that committing INCR does. -/

namespace Sys2Proof.Machine

/-- `t` has the counter and the servo state of `s`, and the registers of `s` in blocks 0 to 3. -/
def Kept (s t : State) : Prop :=
  (t.tim.sec = s.tim.sec ∧ t.tim.servo = s.tim.servo) ∧ t.tim.ns = s.tim.ns ∧ t.tim.frac = s.tim.frac ∧ t.tim.incr = s.tim.incr ∧
    ∀ b o, b ≤ 3 → o < 0x100000 → t.rd (rg b o) = s.rd (rg b o)

theorem Kept.refl (s : State) : Kept s s := ⟨⟨rfl, rfl⟩, rfl, rfl, rfl, fun _ _ _ _ => rfl⟩

theorem Kept.trans {a b c : State} (h : Kept a b) (k : Kept b c) : Kept a c :=
  ⟨⟨k.1.1.trans h.1.1, k.1.2.trans h.1.2⟩, k.2.1.trans h.2.1, k.2.2.1.trans h.2.2.1, k.2.2.2.1.trans h.2.2.2.1,
    fun x o hx ho => (k.2.2.2.2 x o hx ho).trans (h.2.2.2.2 x o hx ho)⟩

theorem Kept.same {s t : State} (h : t.tim = s.tim) (r : t.regs = s.regs) : Kept s t :=
  ⟨⟨by rw [h], by rw [h]⟩, by rw [h], by rw [h], by rw [h], fun _ _ _ _ => State.rd_of_regs r _⟩

theorem Kept.tim (s : State) (t : TimState) (h1 : t.sec = s.tim.sec ∧ t.servo = s.tim.servo) (h2 : t.ns = s.tim.ns) (h3 : t.frac = s.tim.frac)
    (h4 : t.incr = s.tim.incr) : Kept s { s with tim := t } :=
  ⟨h1, h2, h3, h4, fun _ _ _ _ => State.rd_of_regs rfl _⟩

theorem Kept.wrAt (s : State) {a : Nat} (v : Word) (h : ∀ b o, b ≤ 3 → o < 0x100000 → a ≠ rg b o) : Kept s (s.wr a v) :=
  ⟨⟨rfl, rfl⟩, rfl, rfl, rfl, fun b o hb ho => State.rd_wr_ne s v (h b o hb ho)⟩

theorem Kept.wr (s : State) {b o : Nat} (v : Word) (hb : 3 < b) : Kept s (s.wr (rg b o) v) :=
  Kept.wrAt s v (fun _ _ hx ho => rg_ne (Nat.lt_of_le_of_lt hx hb) ho)

theorem Kept.sb (s : State) {b o : Nat} (i : Nat) (v : Bool) (hb : 3 < b) : Kept s (s.sb (rg b o) i v) := by
  unfold State.sb; exact Kept.wr _ _ hb

theorem Kept.sf (s : State) {b o : Nat} (i j v : Nat) (hb : 3 < b) : Kept s (s.sf (rg b o) i j v) := by
  unfold State.sf; exact Kept.wr _ _ hb

theorem Kept.cnt (s : State) {b o : Nat} (v : Nat) (hb : 3 < b) : Kept s (s.cnt (rg b o) v) := by
  unfold State.cnt; exact Kept.wr _ _ hb

theorem Kept.fold {α : Type} (l : List α) (f : State → α → State) (h : ∀ s x, Kept s (f s x)) (s : State) : Kept s (l.foldl f s) := by
  induction l generalizing s with
  | nil => exact Kept.refl s
  | cons a r ih => exact (h s a).trans (ih _)

theorem tpoReposition_keep (s : State) : Kept s (tpoReposition s) := by
  unfold tpoReposition
  refine Kept.fold _ _ (fun s k => ?_) s
  simp only
  split
  · exact Kept.tim _ _ ⟨rfl, rfl⟩ rfl rfl rfl
  · exact Kept.refl s

theorem showLists_keep (p : Nat) (h : Bool) (s : State) : Kept s (showLists p h s) := by
  unfold showLists
  simp only [tmgPort]
  refine Kept.trans ?_ (Kept.sf _ _ _ _ (by decide))
  refine Kept.trans ?_ (Kept.sb _ _ _ (by decide))
  refine Kept.trans ?_ (Kept.sb _ _ _ (by decide))
  refine Kept.trans ?_ (Kept.sb _ _ _ (by decide))
  exact Kept.sb _ _ _ (by decide)

theorem beginCourse_keep (p i e : Nat) (s : State) : Kept s (beginCourse p i e s) := by
  unfold beginCourse
  split
  · exact Kept.refl s
  · simp only
    refine Kept.trans (b := s.withTmg _) (Kept.same rfl rfl) (showLists_keep _ _ _)

theorem applySwitch_keep (p : Nat) (w : Switch) (s : State) : Kept s (applySwitch p w s) := by
  unfold applySwitch
  simp only
  refine Kept.trans ?_ (Kept.trans (Kept.cnt _ _ (by decide)) (Kept.sb _ _ _ (by decide)))
  split
  · refine Kept.trans ?_ (showLists_keep _ _ _)
    exact Kept.same rfl rfl
  · refine Kept.trans ?_ (showLists_keep _ _ _)
    exact Kept.same rfl rfl

theorem course_keep (p : Nat) (s : State) : Kept s (match inForce s p with
    | none => s
    | some f =>
      let l := bankOf s p f.bank
      let x := courseAt l 0 (cycleOffset f.base (cycleOf l) s.now)
      if x.1 = f.idx then
        s.withTmg (fun t => { t with force := tput none t.force p (some { f with ends := s.now + x.2 }) })
      else beginCourse p x.1 (s.now + x.2) s) := by
  split
  · exact Kept.refl _
  · simp only
    split
    · exact Kept.same rfl rfl
    · exact beginCourse_keep _ _ _ _

theorem gatesReposition_keep (s : State) : Kept s (gatesReposition s) := Kept.same rfl rfl

theorem tmgReposition_keep (s : State) : Kept s (tmgReposition s) := by
  unfold tmgReposition
  refine (gatesReposition_keep s).trans (Kept.fold _ _ (fun s p => ?_) _)
  refine Kept.trans ?_ (course_keep p _)
  split
  · split
    · exact applySwitch_keep p _ s
    · exact Kept.refl s
  · exact Kept.refl s

theorem showLin_keep (m : Nat) (s : State) : Kept s (showLin m s) := by
  unfold showLin
  simp only [linReg]
  split
  · refine Kept.trans ?_ (Kept.sf _ _ _ _ (by decide))
    exact Kept.sb _ _ _ (by decide)
  · exact Kept.sb _ _ _ (by decide)

theorem setRun_keep (m : Nat) (r : Option LinRun) (s : State) : Kept s (setRun m r s) := by
  unfold setRun
  refine Kept.trans ?_ (showLin_keep _ _)
  exact Kept.same rfl rfl

theorem setNext_keep (m : Nat) (x : Option LinNext) (s : State) : Kept s (setNext m x s) := by
  unfold setNext
  refine Kept.trans ?_ (showLin_keep _ _)
  exact Kept.same rfl rfl

theorem linPlace_keep (m f l : Nat) (i : Int) (s : State) : Kept s (linPlace m f l i s) := by
  unfold linPlace
  exact setRun_keep _ _ _

theorem linStay_keep (m : Nat) (s : State) : Kept s (linReposition.linStay m s) := by
  unfold linReposition.linStay
  split
  · exact Kept.refl s
  · exact linPlace_keep _ _ _ _ _

theorem clnReposition_keep (s : State) : Kept s (clnReposition s) := by
  unfold clnReposition linReposition
  refine Kept.trans (b := s.withCln _) (Kept.same rfl rfl) (Kept.fold _ _ (fun s m => ?_) _)
  split
  · split
    · refine Kept.trans ?_ (linPlace_keep _ _ _ _ _)
      refine (setNext_keep m none s).trans ?_
      simp only [setLinState, linReg]
      exact Kept.sf _ _ _ _ (by decide)
    · exact linStay_keep _ _
  · exact linStay_keep _ _

theorem lscReposition_keep (s : State) : Kept s (lscReposition s) := by
  unfold lscReposition
  refine Kept.fold _ _ (fun s m => ?_) _
  split
  · exact Kept.same rfl rfl
  · exact Kept.refl _

theorem setChan_keep (c : Nat) (x : Chan) (s : State) : Kept s (setChan c x s) := Kept.same rfl rfl

theorem showChan_keep (c : Nat) (s : State) : Kept s (showChan c s) := by
  unfold showChan
  simp only [chReg, lchReg]
  refine Kept.trans ?_ (Kept.sb _ _ _ (by decide))
  have h : Kept s (if chConducts s c && !s.bit (rg 15 (0x1000 + c * 0x40 + 0x10)) 4
      then setChan c { chan s c with since := s.sys.ticks } s else s) := by
    split
    · exact setChan_keep _ _ _
    · exact Kept.refl _
  split
  · exact h.trans (Kept.sb _ _ _ (by decide))
  · exact (h.trans (Kept.sb _ _ _ (by decide))).trans (Kept.sb _ _ _ (by decide))

theorem inrushBegin_keep (c : Nat) (s : State) : Kept s (inrushBegin c s) := by
  unfold inrushBegin
  simp only [chReg]
  exact (setChan_keep _ _ _).trans (Kept.sb _ _ _ (by decide))

theorem lchReposition_keep (s : State) : Kept s (lchReposition s) := by
  unfold lchReposition
  refine Kept.trans ?_ (Kept.fold _ _ (fun s c => ?_) _)
  · refine Kept.fold _ _ (fun s t => ?_) _
    exact Kept.same rfl rfl
  unfold pwmReposition
  simp only
  split
  · exact Kept.refl _
  · split
    · exact (setChan_keep _ _ _).trans (showChan_keep _ _)
    · refine Kept.trans ?_ (showChan_keep _ _)
      generalize hx : Chan.mk _ _ _ _ _ _ _ _ _ _ _ _ _ = x
      by_cases h : ((chan s c).starting && chConducts (setChan c x s) c) = true
      · rw [if_pos h]; exact (setChan_keep _ _ _).trans (inrushBegin_keep _ _)
      · rw [if_neg h]; exact setChan_keep _ _ _

theorem gwyReposition_keep (s : State) : Kept s (gwyReposition s) := Kept.same rfl rfl

theorem reposition_keep (s : State) : Kept s (reposition s) := by
  unfold reposition
  refine Kept.trans ?_ (lchReposition_keep _)
  refine Kept.trans ?_ (lscReposition_keep _)
  refine Kept.trans ?_ (gwyReposition_keep _)
  refine Kept.trans ?_ (clnReposition_keep _)
  exact (tpoReposition_keep s).trans (tmgReposition_keep _)

/-- All that committing INCR does (R101, R107): INCR is the value or the nearer limit, INCR_LO and INCR_HI show it,
INCR_SAT is set and its event raised exactly where the value was replaced, and nothing else changes. -/
theorem commitIncr_spec (s : State) (v : Nat) :
    (commitIncr v s).tim = { s.tim with incr := BitVec.ofNat 40 (max incrLow (min incrHigh v)) } ∧
    (commitIncr v s).tim.incr.toNat = max incrLow (min incrHigh v) ∧
    (commitIncr v s).rd (rg 3 0x10) = BitVec.ofNat 32 (max incrLow (min incrHigh v)) ∧
    (commitIncr v s).rd (rg 3 0x14) = BitVec.ofNat 32 (max incrLow (min incrHigh v) / 2 ^ 32) ∧
    (commitIncr v s).bit (rg 3 0x20) 4 = (s.bit (rg 3 0x20) 4 || decide (max incrLow (min incrHigh v) ≠ v)) ∧
    (commitIncr v s).bit (rg 3 0x34) 5 = (s.bit (rg 3 0x34) 5 || decide (max incrLow (min incrHigh v) ≠ v)) ∧
    (∀ a, a ∉ [rg 3 0x10, rg 3 0x14, rg 3 0x20, rg 3 0x34] → (commitIncr v s).rd a = s.rd a) ∧
    { commitIncr v s with tim := s.tim, regs := s.regs } = s := by
  have ht : (commitIncr v s).tim = { s.tim with incr := BitVec.ofNat 40 (max incrLow (min incrHigh v)) } := by
    unfold commitIncr; simp only; split <;> rfl
  have hb : max incrLow (min incrHigh v) < 2 ^ 40 := by simp only [incrLow, incrHigh]; omega
  refine ⟨ht, by rw [ht]; exact (BitVec.toNat_ofNat _ _).trans (Nat.mod_eq_of_lt hb), ?_, ?_, ?_, ?_, ?_, ?_⟩
  all_goals clear ht hb; unfold commitIncr; generalize max incrLow (min incrHigh v) = x; simp only
  · split
    · rw [State.rd_wr_ne _ _ (by decide), State.rd_wr_same]
    · simp only [State.raise, eventOff]
      rw [State.rd_sb_ne _ _ _ (by decide), State.rd_sb_ne _ _ _ (by decide), State.rd_wr_ne _ _ (by decide), State.rd_wr_same]
  · split
    · rw [State.rd_wr_same]
    · simp only [State.raise, eventOff]
      rw [State.rd_sb_ne _ _ _ (by decide), State.rd_sb_ne _ _ _ (by decide), State.rd_wr_same]
  · split
    · rename_i e
      simp only [State.bit, e, ne_eq, not_true, decide_false, Bool.or_false]
      rw [State.rd_wr_ne _ _ (by decide), State.rd_wr_ne _ _ (by decide)]; rfl
    · rename_i e
      simp only [State.raise, eventOff, State.bit]
      rw [State.rd_sb_ne _ _ _ (by decide)]
      simp only [State.sb, State.rd_wr_same]
      rw [bitOf_setBit_same _ _ (by decide)]
      simp [e]
  · split
    · rename_i e
      simp only [State.bit, e, ne_eq, not_true, decide_false, Bool.or_false]
      rw [State.rd_wr_ne _ _ (by decide), State.rd_wr_ne _ _ (by decide)]; rfl
    · rename_i e
      simp only [State.raise, eventOff]
      rw [State.bit_sb_same _ _ _ (by decide)]
      simp [e]
  · intro a ha
    simp only [List.mem_cons, List.not_mem_nil, or_false, not_or] at ha
    split
    · rw [State.rd_wr_ne _ _ (Ne.symm ha.2.1), State.rd_wr_ne _ _ (Ne.symm ha.1)]; rfl
    · simp only [State.raise, eventOff]
      rw [State.rd_sb_ne _ _ _ (Ne.symm ha.2.2.2), State.rd_sb_ne _ _ _ (Ne.symm ha.2.2.1), State.rd_wr_ne _ _ (Ne.symm ha.2.1),
        State.rd_wr_ne _ _ (Ne.symm ha.1)]; rfl
  · split <;> rfl

end Sys2Proof.Machine
end

