-- ==== Sys2Proof/Tests/Slice0.lean ====
section
/-! SUPPORT. Tests: ill-formed terms that the check refuses, single steps, and for each statement a state and operands
that meet its hypotheses. -/

namespace Sys2Proof.Tests

open Sys2Proof.Machine

set_option Elab.async false

/-- A command of domain A in slot 0 of ring 0. -/
def W.cmd (op inst : Nat) (payload : List Byte) : Cmd :=
  { ring := 0, slot := 0, issuer := 0x10, opcode := op, ordered := false, indirect := false, noReply := false, tag := 7,
    len := payload.length, inst := inst, bufSize := 0, bufAddr := 0, payload := payload, door := 0, running := false }

/-- The die running, nothing else since reset. -/
def W.up : State := { State.reset with sys := { SysState.reset with phase := .running } }

/-- The die running, with one command of Mason's and no right for its issuer. -/
def W.one (c : Cmd) : State := { W.up with mason := { MasonState.reset with cmds := [c] } }

/-- The die running, with one command that domain A may issue under block `b`'s table. -/
def W.st (b : Nat) (c : Cmd) : State :=
  (W.one c).setEntry b 0x10 AclEntry.all

/-- Domain A holds every right in ACL's table and in block `b`'s. -/
def W.adm (b : Nat) : State := (W.up.setEntry 2 0x10 AclEntry.all).setEntry b 0x10 AclEntry.all

/-- A reply that waits in ring 0, of domain A. -/
def W.reply : Reply :=
  { ring := 0, slot := 0, issuer := 0x10, opcode := 0, tag := 7, noReply := false, status := 0, code := 0,
    offset := noOffset, value := 0, resultLen := 0, result := [], doneNs := 0, doneSec := 0, door := 0, ordered := false }

/-- Ring `n` of domain A enabled and idle, 16 slots at the start of system SRAM, which domain A's window 0 covers. -/
def W.ring (n : Nat) : State :=
  ((((((W.adm 1).setWindow 0x10 0 { base := 0x10000000, size := 0x800, read := true, write := true }).wr
    (ringReg n 0) 0x10000000).wr (ringReg n 8) 4).wr (ringReg n 0xC) 0x10).wr (ringReg n 0x10) 1).wr (ringReg n 0x24) 1

/-- One slot waits in ring 0: a NOP of header version 3. -/
def W.slot : State := ((W.ring 0).wr (ringReg 0 0x14) 1).wrB 0x10000003 3

/-- One slot of zeros waits in ring 0. -/
def W.slotBad : State := (W.ring 0).wr (ringReg 0 0x14) 1

/-- The network command port's key. -/
def W.key : KeySlot := { KeySlot.zero with typ := 1, st := 1, usage := 0xC, key := List.replicate 16 0 }

/-- A frame with the port's EtherType and a PDU. -/
def W.ncpFrame (pdu : List Byte) : List Byte :=
  List.replicate 12 0 ++ beBytes 2 (W.up.f (rg 1 0x24) 15 0) ++ pdu ++ [0, 0, 0, 0]

/-- The network command port enabled with key slot 1, and one frame delivered. -/
def W.ncpWith (bs : List Byte) : State :=
  { ((W.adm 1).wr (rg 1 0x20) 0x11).withCru (fun g => { g with keys := [(1, W.key)] }) with
    mason := { MasonState.reset with imRx := [(bs, 0, 0)] } }

/-- A frame too short for its form. -/
def W.badNcp : List Byte := W.ncpFrame [1, 2]

/-- A NOP with SEQ 1 and its CMAC. -/
def W.ncpHead : List Byte := [1, 1, 0, 0, 0, 0, 0, 1] ++ List.replicate 32 0
def W.goodNcp : List Byte := 
  W.ncpFrame (W.ncpHead ++ [137, 105, 27, 200, 237, 252, 132, 102, 99, 133, 70, 230, 241, 37, 147, 165])

/-- A stored frame of one tile with an R-TAG of sequence number 5. -/
def W.rframe : Frame :=
  { id := 0, bytes := List.replicate 12 0 ++ [0xF1, 0xC1, 0, 0, 0, 5] ++ List.replicate 50 0, tiles := [0], port := 0,
    tc := 0, vid := 1, pcp := 0, tagged := false, prio := false, macsec := 0, seq := 0, rxSec := 0, rxNs := 0, rxFrac := 0,
    tsReq := false, tsTag := 0, fclk := 0, refs := none }

/-- The frame in the store with a verdict of words `ws`. -/
def W.withVerdict (ws : List Word) : State :=
  W.up.withSwc (fun w => { w with frames := [W.rframe], nextId := 1, verdicts := [⟨0, ws, none, 0, 0⟩] })

/-- FRER stream 0 recovers and has taken number 5 already. -/
def W.vact : State :=
  setFrer 0 { Frer.zero with word := 0x86, takeAny := false, recov := 5, history := 1 } (W.withVerdict [1, 0, 0x2000000, 0, 0, 0])
def W.vact1 : State := W.withVerdict [1, 0, 0, 0, 0, 0]

/-- Policer 0 is blocked. -/
def W.vact2 : State :=
  (W.withVerdict [1, 0, 0x1000, 0, 0, 0]).withTmg (fun g => { g with policers := [(0, { Policer.zero with cfg := 1, blocked := true })] })

/-- Policer 0 has tokens in plenty. -/
def W.vact3 : State :=
  (W.withVerdict [1, 0, 0x1000, 0, 0, 0]).withTmg (fun g => { g with policers := [(0, { Policer.zero with cfg := 1, cbs := 2000, pbs := 2000, ctok := 131072000, ptok := 131072000 })] })

/-- FRER stream 0 recovers and generates, and takes any number. -/
def W.vact4 : State :=
  setFrer 0 { Frer.zero with word := 0x87, takeAny := true } (W.withVerdict [1, 0, 0x2000000, 0, 0, 0])

/-- A copy of the frame for port 20. -/
def W.copy : Copy :=
  { frame := 0, port := 20, tc := 0, n := 1, mirror := false, vid := 1, untag := false, rewrite := none, rtag := none,
    pop := false, dei := false, tsReq := false, reason := 0, user := 0, redirect := false, tunnel := none, seq := 65535,
    stream := 167, released := 0, an := none, began := 0, gone := 0, cutLen := none }

/-- A forwarding entry in way 3. -/
def W.fdb (s : State) : State :=
  s.withSwc (fun w => { w with fdb := [(fdbBucket 1 [0, 1, 2, 3, 4, 5] * 4 + 3, some ⟨1, [0, 1, 2, 3, 4, 5], 5⟩)] })

/-- A stored frame of 64 zero bytes. -/
def W.frame : Frame := { W.rframe with bytes := List.replicate 64 0 }

/-- The run of that frame at the start of bank 0, and an express run at its instruction budget. -/
def W.taken : Taken := { frame := 0, bad := false, slot := none, pour := some 1, express := false, bank := some 0, entry := 0 }
def W.run : Run := Run.start W.taken
def W.xrun : Run := { Run.start { W.taken with express := true } with icount := 96 }

/-- The servo in state `v` governed by domain 1, which has a slave port; STEP_US 1, LOCK_NS 4. -/
def W.sync (v : Servo) : State :=
  { ((W.up.wr (rg 3 0x50) 1).wr (rg 3 0x54) 2).wr (rg 3 0x24) 0x40012 with tim := { TimState.reset with servo := v } }

/-- Context 63 runs `r`. -/
def W.ctx (r : Run) : State :=
  (W.up.withSwc (fun w => { w with frames := [W.frame] })).withPrs (fun p => { p with ctxs := [(63, ⟨some r, none⟩)] })

/-- Context 63 runs `r` at an instruction with an immediate operand. -/
def W.addanR (op d a imm : Nat) (r : Run) : State :=
  (W.ctx r).withPrs (fun p => { p with store := [(0, BitVec.ofNat 32 (op * 2 ^ 26 + d * 2 ^ 22 + a * 2 ^ 18 + imm))] })
def W.addan (op d a imm : Nat) : State := W.addanR op d a imm W.run

/-- Copies that hold the same words agree, whatever their hash is. -/
theorem syncCheck_same (d : Nat) (l : List Word) (s : State) : (syncCheck d l l s).1 = true := by simp [syncCheck]

/-- A PRS_PROG_ACTIVATE of bank 1 with the CRC that bank 1 has. -/
def W.activate : Cmd := W.cmd 0x501 1 ([0, 0, 0, 0] ++ leBytes 4 (bankCrc W.up 1).toNat)

theorem leNat_leBytes4 (v : Word) : BitVec.ofNat 32 (leNat (leBytes 4 v.toNat)) = v := by
  apply BitVec.eq_of_toNat_eq
  have h := v.isLt
  simp only [leBytes, leNat, BitVec.toNat_ofNat]
  omega

theorem test_activate_admitted : Admits (specOf opsPrs 0x0501) 0 0 W.activate (W.st 5 W.activate) (W.st 5 W.activate) = true := by
  have h : startCheck (specOf opsPrs 0x0501) W.activate (W.st 5 W.activate) = .inr W.activate := rfl
  have f : findCmd (specOf opsPrs 0x0501).opcode 0 0 (W.st 5 W.activate) = some W.activate := rfl
  have o : (W.activate.opcode == (specOf opsPrs 0x0501).opcode) = true := rfl
  have p : startable W.activate (W.st 5 W.activate) = true := rfl
  have u : (W.st 5 W.activate).up = true := rfl
  have r : inputRead W.activate (W.st 5 W.activate) = W.st 5 W.activate := rfl
  simp [Admits, u, f, h, o, p, r]

theorem test_ParseEngineOpcodes_prsProgActivate_holds :
    ∃ (ring slot : Nat) (c : Cmd) (s0 s : State), Admits (specOf opsPrs 0x0501) ring slot c s0 s = true ∧ c.p 32 4 ≤ 8191 ∧
      (activeBank s ≠ some c.inst ∧ bankBusy s c.inst = false) ∧ bankCrc s c.inst = c.w 36 := by
  refine ⟨0, 0, W.activate, W.st 5 W.activate, W.st 5 W.activate, test_activate_admitted, by decide, by decide +kernel, ?_⟩
  have w : W.activate.w 36 = BitVec.ofNat 32 (leNat (leBytes 4 (bankCrc W.up 1).toNat)) := rfl
  rw [w, leNat_leBytes4]
  rfl

/-- Pour 1 staged by domain A. -/
def W.staged (s : State) : State := s.withRul (fun r => { r with staged := some ⟨1, 0x10, [], false⟩ })

/-- A flow key of layout 15 with K = 10, and an entry for it in way 3 of its bucket, born in pour 1. -/
def W.flowKey : List Byte := [0, 15] ++ List.replicate 38 1
def W.flowKeyWords : List Word := (List.range 10).map (fun i => BitVec.ofNat 32 (leAt W.flowKey (4 * i) 4))
def W.flowIn (s : State) : State :=
  ((W.staged s).wr (rg 6 0x24) 0xA0000000).withRul (fun r => { r with
    flow := [(flowBucket W.flowKeyWords 10 * 4 + 3, some ⟨⟨W.flowKeyWords, 7⟩, ⟨some 1, none⟩⟩)] })

/-- An entry born in pour 1 at the highest index of each indexed table. -/
def W.stagedAll (s : State) : State :=
  (W.staged s).withRul (fun r => { r with
    acl := [(8191, some ⟨⟨0, 0, 0⟩, ⟨some 1, none⟩⟩)], pats := [(4095, some ⟨⟨0, 1, [], 1, false⟩, ⟨some 1, none⟩⟩)],
    verdicts := [(65535, some ⟨⟨[], 0⟩, ⟨some 1, none⟩⟩)], rewrites := [(8191, some ⟨[], ⟨some 1, none⟩⟩)] })

/-- Bank 1 of port 20 holds two courses. -/
def W.bank (s : State) : State := s.withTmg (fun t => { t with banks := [(41, [⟨255, 1, 500⟩, ⟨1, 2, 600⟩])] })

/-- That list is in force and its last course has ended. -/
def W.forced : State := (W.bank W.up).withTmg (fun t => { t with force := [(20, some ⟨1, 0, 1, 0⟩)] })

/-- Port 20 is up, and the copy of the frame waits in its queue `tc`. -/
def W.imUp (tc : Nat) : State :=
  (W.up.wr (rg 8 0x2400) 2).withSwc (fun w => { w with
    frames := [W.rframe], nextId := 1, queues := [(160 + tc, [{ W.copy with tc := tc, stream := 160 + tc }])] })

/-- Port 13 is up and preempts, and its hold state keeps a copy that was cut. -/
def W.held : State :=
  (((W.up.wr (ethPort 13 0) 3).wr (ethPort 13 0xC) 7).wr (tmgPort 13 8) 0x810000).withSwc (fun w => { w with
    frames := [W.rframe], nextId := 1, cut := [(13, some { W.copy with port := 13 })] })

/-- A debugger is attached. -/
def W.attached (s : State) : State := { s with sys := { s.sys with debug := true } }

/-- Key slot 1023 may protect MACsec frames, and domain A may name it. -/
def W.saKey (s : State) : State :=
  (s.withCru (fun g => { g with keys := [(1023, { W.key with usage := 0x20 })] })).setEntry 12 0x10 AclEntry.all

/-- Port 13 has transmit SA 3 and receive SA 3 of channel 7. -/
def W.sa (s : State) : State :=
  s.withEth (fun e => { e with txSa := [(55, some ⟨1, 9, 8, 0, [], 0, false, false⟩)],
                               rxSa := [(13 * 32 + 31, some ⟨1, 9, 8, 0, [], 0, false, false⟩)] })

/-- The link of port 17 is up. -/
def W.linkUp : State := ((W.up.wr (ethPort 17 0) 3).wr (ethPort 17 4) 0x8C).wr (ethPort 17 0xC) 7

/-- A copy of the frame with rewrite action `an` in transmission on port `p`, which has a transmit opportunity. -/
def W.sending (p : Nat) (q : List (Nat × List Copy)) : State :=
  (W.up.withSwc (fun w => { w with frames := [W.rframe], nextId := 1, tx := [(p, some { W.copy with port := p })], queues := q })).withEth
    (fun e => { e with plca := [(p, 1)] })

/-- A sleep handshake is under way on port 17. -/
def W.sleeping : State := W.linkUp.withEth (fun e => { e with sleeping := [(17, true)] })

/-- CAN channel 15 in RUN; and with a frame of its own, `b`, in buffer 63. -/
def W.can : State := (W.up.wr (canReg 15 0) 1).wr (canReg 15 0x14) 2
def W.canBuf (b : TxBuf) : State := W.can.withCln (fun c => { c with bufs := [(15 * 64 + 63, b)] })
def W.tx : TxBuf := { TxBuf.zero with st := 3 }

/-- LIN channel 7 runs entries 62 and 63, and the slot in progress has ended. -/
def W.lin : State :=
  (W.up.wr (linReg 7 0) 1).withCln (fun c => { c with
    sched := [(7 * 64 + 62, (0, 100)), (7 * 64 + 63, (0, 100))], runs := [(7, some ⟨62, 63, 63, 0⟩)] })

/-- A subscribed LIN frame on the bus. -/
def W.linFrame (pub : Option (List Byte)) (sleep : Bool) : LinFrame :=
  { id := 1, typ := 0, len := 2, enhanced := false, publish := pub, start := 0, toSleep := sleep }
def W.linBus (x : LinFrame) : State := W.up.withCln (fun c => { c with onBus := [(7, some x)] })

/-- A route entry of LIN channel 7's identifier 1, towards CAN channel 15, and its bucket. -/
def W.route : List Byte := leBytes 8 0x1700000001 ++ [0, 0, 0, 0, 0x80, 0x96, 0x98, 0] ++ [1, 15, 0, 15, 0, 0, 0, 0] ++
  List.replicate 24 0
def W.bucket : Nat := keyBucket 0x1700000001
def W.routed (s : State) : State := setRoute (W.bucket * 4 + 3) (some ⟨W.route, 7⟩) s

/-- A message whose job on route 3 has started. -/
def W.wait : AuthWait :=
  { msg := { src := 0, bus := 0, frame := Can.zero, lin := false, rx := 0, release := none, errs := 0, authOk := false },
    route := 3, entry := [], job := some ⟨Profile.zero, [], 0⟩ }

/-- A CAN record of 8 bytes, and NM engine 15 in BUS_SLEEP that takes it. -/
def W.nmRec : List SWord := [.mk' 0 0, .mk' (8 * 2 ^ 36) 0, .mk' 0 0, .mk' 0 1]
def W.nmRx : State := setHw 15 [W.nmRec] ((W.up.wr (nmReg 15 0) 3).wr (nmReg 15 0x20) 1)

/-- Pool 7 is enabled at 0x10000000 with 4 blocks, of which requester 31 holds block 1; its quota allows more. -/
def W.pool (s : State) : State :=
  ((((s.wr (poolReg 7 0) 0x10000000).wr (poolReg 7 8) 0x1000004).wr (reqReg 31 0x1C) 65536).wr (reqReg 31 0x3C) 1).withQry
    (fun q => { q with pools := [(7, ⟨2, [0], [(1, 31)], []⟩)] })

/-- Slots 1 (WRAPPABLE) and 5 (WRAP) hold keys. -/
def W.kek (s : State) : State :=
  s.withCru (fun g => { g with keys := [(1, { W.key with usage := 0x41 }), (5, { W.key with usage := 0x10 })] })

/-- A job slot of key 1 with no data, and a job of ring 15 made of it. -/
def W.jobSlot (ctl : Nat) : List Byte := [BitVec.ofNat 8 ctl, 0, 1, 0] ++ List.replicate 60 0
def W.jobSlot4 : List Byte := [0x62, 0, 1, 0, 16, 0, 0, 0] ++ List.replicate 56 0
def W.job : Job :=
  { ring := 15, index := 0, core := 0, owner := 0x10, slot := W.jobSlot 0x60, key := List.replicate 16 0,
    chain := Chain.zero, failed := none }

/-- Job ring 15 of domain A holds one slot; the windows of the domain and of Crucible cover it. -/
def W.jobRing (ctl : Nat) : State :=
  let w : Window := { base := 0x10000000, size := 0x800, read := true, write := true }
  let s := ((W.kek W.up).setWindow 0x10 0 w).setWindow 0x29 0 w
  let s := (s.setEntry 12 0x10 AclEntry.all).wrBytes 0x10000000 (W.jobSlot ctl)
  (((s.wr (cruRing 15 0) 0x10000000).wr (cruRing 15 8) 9).wr (cruRing 15 0xC) 0x10).wr (cruRing 15 0x10) 1

/-- Frames of an output link: a status frame, a message of levels, a TAKEOVER; and one in transmission on link B. -/
def W.status : OFrame := oFrame 1 0 0 [0]
def W.msg : OFrame := oFrame 1 5 1 [0, 0, 0, 0]
def W.claim : OFrame := oFrame 1 6 3 [6]
def W.onAir (f : OFrame) : State := setAir 1 (some f) W.up

/-- Flash slot 1 has a header with MAGIC, FORMAT 1 and a right CRC and nothing else; the module is in reset. -/
def W.imgHead : List Byte := [0x53, 0x5A, 0x47, 0x33, 1, 0] ++ List.replicate 54 0
def W.oneImage : State :=
  { State.reset with sys := { SysState.reset with
      phase := .inReset,
      flash := flashPut 0x1800000 (W.imgHead ++ leBytes 4 (crc32c W.imgHead).toNat) [] } }

/-- Both slots have such a header. -/
def W.twoImages : State :=
  { W.oneImage with sys := { W.oneImage.sys with
      flash := flashPut 0 (W.imgHead ++ leBytes 4 (crc32c W.imgHead).toNat) W.oneImage.sys.flash } }

/-- The module of two images as the boot ROM finds it. -/
def W.twoBoot : State :=
  let s := lchReposition (W.twoImages.withLch (fun l => { l with clock := none }))
  s.wr (rg 0 0x20) s.sys.cause

theorem test_StartsOfTheModule_fallback_holds :
    ∃ (k l : Nat) (x : PourStop) (s t u : State), s.sys.phase = .inReset ∧
      t = (lchReposition (s.withLch (fun l => { l with clock := none }))).wr (rg 0 0x20)
        (lchReposition (s.withLch (fun l => { l with clock := none }))).sys.cause ∧
      (fusesOk t = true ∧ bootSlots t = [k, l]) ∧
      pourImage k t = .error x ∧ u = (resetAgain x.left).wr (rg 0 0x20) x.left.sys.cause :=
  ⟨0, 1, ⟨1, 0, W.twoBoot⟩, W.twoImages, W.twoBoot, _, by decide, rfl, by decide +kernel,
    by unfold pourImage; exact if_pos (by decide +kernel), rfl⟩

/-- Slot 0 has an image of `n` sections, whose rows are malformed; LATE sections are due. -/
def W.late (n : Nat) : State :=
  { W.up with sys := { W.up.sys with slot := some 0, flash := [(6, BitVec.ofNat 8 n), (7, 0)] } }.sf (rg 0 0x24) 9 8 1

/-- A command of a LATE section has failed. -/
def W.lateFailed : State :=
  let s := W.late 1
  { s with sys := { s.sys with late := some 1 }, mason := { s.mason with image := (0x11, 1, 0, 0) } }

/-- A SYS_RESET of SWC whose reload waits. -/
def W.reloading : Cmd := { W.cmd 0x0100 0 [2, 4, 1, 0] with running := true }
def W.reloadSt : State := let s := W.one W.reloading; { s with sys := { s.sys with reload := some (4, 0) } }

/-- A pour of an image of no sections has ended. -/
def W.ladle : State := { W.late 0 with sys := { (W.late 0).sys with phase := .ladle } }

/-- SYS_FLASH_READ of the first two bytes of area 4, its payload and its result in domain A's window. -/
def W.flashRead : Cmd :=
  { W.cmd 0x0101 4 [0, 0, 0, 0, 2, 0, 0, 0] with indirect := true, bufSize := 8, bufAddr := 0x10000000 }
def W.flashReadSt : State :=
  ((W.st 0 W.flashRead).setWindow 0x10 0 { base := 0x10000000, size := 0x800, read := true, write := true }).wrB 0x10000004 2

theorem test_SysFlashRead_holds :
    ∃ (ring slot : Nat) (c : Cmd) (s0 s : State), Admits (specOf opsSys 0x0101) ring slot c s0 s = true ∧
      (1 ≤ c.p 36 4 ∧ c.p 36 4 ≤ 65536 ∧ spanOk c.inst (c.p 32 4) (c.p 36 4) = true ∧ c.inst ≠ 2 ∧ c.inst ≠ 3) ∧
      c.indirect = true ∧ c.p 36 4 ≤ c.bufSize ∧ s.badByte c.issuer c.bufAddr (c.p 36 4) true = none :=
  ⟨0, 0, W.flashRead, W.flashReadSt, W.flashReadSt, by decide +kernel⟩

/-- The PCIe link is up and virtual function 7 exists and may master the bus; apertures of 2^20 bytes. -/
def W.fn : Fn := { Fn.zero with present := true, cfg := [(4, 4), (0x50, 0x80000000)], grpMode := 0xAA }
def W.linkF (fn : Fn) : State :=
  (W.up.wr (hbrReg 4) (0x5140064)).withHbr (fun h => { h with linkUp := true, fns := [(7, fn)] })
def W.link : State := W.linkF W.fn

/-- The IOMMU passes every address, the functions' apertures cover the map, and a window lets function 7 reach memory. -/
def W.linkBare : State :=
  let s := { W.link with cpu := { W.link.cpu with iommu := [(16, 1)] } }
  (s.sf (hbrReg 4) 27 16 0xFFF).setWindow 0x1F 0 { base := 0x10000000, size := 0x800, read := true, write := true }

/-- The same, with an uncorrectable word there. -/
def W.linkBad : State := { W.linkBare with bad := [0x10000000] }

/-- Outbound region 15 of function 7 covers the window's first page. -/
def W.out : State := ((W.link.wr (regionReg 15 4) 0x80).wr (regionReg 15 8) 1).wr (regionReg 15 0x14) 0x701

/-- A read in flight with tag 255, of region 15. -/
def W.req : OutReq :=
  { tag := 255, kind := .read, initiator := 0, fn := 7, region := 15, addr := 0x8000000000, pciAddr := 0, len := 4, data := [],
    serial := 0 }
def W.inFlight : State := W.link.withHbr (fun h => { h with requests := [W.req] })

/-- A message of vector 31 waits; group 3 of function 7 in `x`. -/
def W.msix : State := W.link.withHbr (fun h => { h with msixQueue := [(7, 31, 0)] })
def W.side (x : SbGroup) : State := W.linkF { W.fn with groups := [(3, x)] }

/-- A register whose bit 31 is RW. -/
def W.desc : RegDesc := ⟨0, 1, 1, 1, 1, 2 ^ 31, 0, 0, 0, 0, 0xFFFFFFFF, 0⟩

/-! ### Ill-formed terms: one for each check -/

theorem test_ringOk_refuses : Instr.wellFormed (.ringDisable 0x10 32) = false := by decide
theorem test_slotOk_refuses : Instr.wellFormed (.nop 0 4096) = false := by decide
theorem test_masterOk_refuses : Instr.wellFormed (.fenceTimeout 128 0) = false := by decide
theorem test_portOk_refuses : Instr.wellFormed (.laneRelease 21 0) = false := by decide
theorem test_canOk_refuses : Instr.wellFormed (.integrationDone 16) = false := by decide
theorem test_linOk_refuses : Instr.wellFormed (.linSlotStart 8) = false := by decide
theorem test_nmOk_refuses : Instr.wellFormed (.nmPduReceived 20) = false := by decide
theorem test_domOk_refuses : Instr.wellFormed (.syncAccepted 2 0) = false := by decide
theorem test_fnOk_refuses : Instr.wellFormed (.sidebandWrite 8 0) = false := by decide
theorem test_queueOk_refuses : Instr.wellFormed (.injectDoorbell 0x10 16 0) = false := by decide
theorem test_fifoOk_refuses : Instr.wellFormed (.spruePushData 0x10 48) = false := by decide
theorem test_octetOk_refuses : Instr.wellFormed (.tpoEdge 8) = false := by decide
theorem test_quadOk_refuses : Instr.wellFormed (.tciPop 0x10 4) = false := by decide
theorem test_crAlarmOk_refuses : Instr.wellFormed (.cruAlarm 5) = false := by decide
theorem test_wakeOk_refuses : Instr.wellFormed (.wakeSourceFire 50 0 0) = false := by decide
theorem test_chanOk_refuses : Instr.wellFormed (.inrushEnd 40) = false := by decide
theorem test_ctxOk_refuses : Instr.wellFormed (.addG 64) = false := by decide

/-- A term at the highest number of each kind passes. -/
theorem test_wellFormed_passes : Instr.wellFormed (.ringDisable 127 31) = true ∧ Instr.wellFormed (.nop 31 4095) = true ∧
    Instr.wellFormed (.laneRelease 20 0) = true ∧ Instr.wellFormed (.inrushEnd 39) = true ∧ Instr.wellFormed (.addG 63) = true := by decide

/-! ### Values the manual works out, and check values of the standards it names -/

/-- Ladle's check word is CRC-32C (R133): its check value over "123456789". -/
theorem test_crc32c_check : crc32c [0x31, 0x32, 0x33, 0x34, 0x35, 0x36, 0x37, 0x38, 0x39] = 0xE3069283 := by decide +kernel

/-- The Ethernet FCS over "123456789", least significant byte first. -/
theorem test_fcs_check : fcs [0x31, 0x32, 0x33, 0x34, 0x35, 0x36, 0x37, 0x38, 0x39] = [0x26, 0x39, 0xF4, 0xCB] := by
  decide +kernel

/-- AES-128 of FIPS 197, appendix C.1. -/
theorem test_aes128_block :
    aesBlock (roundKeys [0, 1, 2, 3, 4, 5, 6, 7, 8, 9, 10, 11, 12, 13, 14, 15])
      [0x00, 0x11, 0x22, 0x33, 0x44, 0x55, 0x66, 0x77, 0x88, 0x99, 0xAA, 0xBB, 0xCC, 0xDD, 0xEE, 0xFF] =
      [0x69, 0xC4, 0xE0, 0xD8, 0x6A, 0x7B, 0x04, 0x30, 0xD8, 0xCD, 0xB7, 0x80, 0x70, 0xB4, 0xC5, 0x5A] := by decide +kernel

/-- LIN identifiers 0x3C and 0x3D have the protected forms 0x3C and 0x7D. -/
theorem test_linPid : linPid 0x3C = 0x3C ∧ linPid 0x3D = 0x7D := by decide

/-- The tail lamp on a weak battery: DUTY 5,000, COMP_K 2, VREF 13,200 mV. -/
theorem test_compensate :
    [13200, 12000, 9000, 7000].map (compensate 2 5000 13200) = [5000, 5824, 9228, 10000] := by decide +kernel

/-- The lamp's ON_TIME at D′ = 5,824 and 200 Hz. -/
theorem test_onTime : onTime 5000000 5824 = 2912000 := by decide

/-- The refuse truck's limits: RATIO_MAX 1,331 and RTH_RATIO 1,087. -/
theorem test_weathering : ilimScale 1331 = 56 ∧ dtReduce 1087 = 6 := by decide +kernel

/-- The cyclic door message: base 1,200.002 s, period 10 ms, now 1,200.035 s gives 1,200.042 s (R54). -/
theorem test_firstInstant : firstInstant 1200002000000 10000000 1200035000000 = 1200042000000 := by decide

/-- The door bus's nominal and data timing words are valid. -/
theorem test_door_bus_timing : nbtOk 0x10103F02 = true ∧ dbtOk 0x0A0A1D01 0x10103F02 0x11E = true := by decide

/-! ### Single steps -/

/-- A tick adds INCR, 2 ns at its reset value (R100, R102). -/
theorem test_tick_adds_incr : (tick W.up).tim.ns = 2 := by decide +kernel

/-- The tick that reaches a second carries (R100). -/
theorem test_tick_carries :
    ((tick { W.up with tim := { W.up.tim with ns := 999999999 } }).tim.ns,
     (tick { W.up with tim := { W.up.tim with ns := 999999999 } }).tim.sec) = (1, 1) := by decide +kernel

/-- The commit of INCR_HI takes the staged INCR_LO: 12 ppm below nominal is 0x01_FFFE_6D59 (R107). -/
theorem test_incr_commit :
    (match execIncrCommit 0x10 1 ((((W.up.setEntry 3 0x10 AclEntry.all).wr (rg 3 0x10) 0xFFFE6D59)).wr (rg 3 0x24) 1) with
     | .next t => some t.tim.incr
     | _ => none) = some 0x1FFFE6D59 := by decide +kernel

/-- A write that its master's table does not allow changes no register and is counted (R46). -/
theorem test_refused_write_is_dropped :
    (match execRegisterWrite 0x10 (rg 4 0x20) (leBytes 4 9) W.up with
     | .next t => some (t.rd (rg 4 0x20), tget 0 t.sys.dropped 0x10)
     | _ => none) = some (8, 1) := by decide +kernel


/-! ### Witnesses -/

theorem test_EmptyQueueStepIsOneTick_x_holds_3 :
    ∃ (s : State), (s.pending = []) :=
    ⟨W.up, by decide +kernel⟩

theorem test_CounterTickAddsIncr_x_holds :
    ∃ (s t : State), (s.pending = []) ∧ (clocked s = true) ∧ (∀ d ∈ s.sys.doubt, d.1 ≠ 3) ∧ (s.tim.ns < 1000000000) ∧
      (step s = .next t) :=
    ⟨W.up, tick W.up, rfl, by decide, by decide, by decide, rfl⟩

theorem test_StepKeepsTheInvariant_x_holds :
    ∃ (s t : State), (s.wf = true) ∧ (step s = .next t) :=
    ⟨W.up, tick W.up, by decide, rfl⟩

theorem test_CommandRowsNeedTheirCommand_x_holds :
    ∃ (i : Instr) (op ring slot : Nat) (s : State), (commandRow i = some (op, ring, slot)) ∧ (findCmd op ring slot s =
      none) :=
    ⟨.nop 0 0, 0, 0, 0, W.up, by decide +kernel⟩

theorem test_RefusedCommandsOnlyReply_x_holds :
    ∃ (i : Instr) (op ring slot : Nat) (sp : OpSpec) (c : Cmd) (f : Fail) (a : Option Nat) (s : State), (commandRow i
      = some (op, ring, slot)) ∧ (opLookup op = some sp) ∧ (s.up = true) ∧ (findCmd op ring slot s = some c) ∧
      (startCheck sp c s = .inl (f, a)) :=
    ⟨.nop 0 0, 0, 0, 0, specOf opsGeneral 0, W.cmd 0 0 [], ⟨stDenied, 0x10, noOffset, 258⟩, none, W.one (W.cmd 0 0
      []), rfl, rfl, by decide, rfl, rfl⟩

theorem test_CompletionTouchesOnlyMason_x_holds :
    ∃ (c : Cmd) (status code offset value len : Nat) (result : List Byte) (s t : State), (c.ring ≠ imageRing) ∧ (t =
      complete c status code offset value len result s) :=
    ⟨W.cmd 0 0 [], 0, 0, 0, 0, 0, [], W.up, _, by decide, rfl⟩

theorem test_CompletionTouchesOnlyMason_x_holds_2 :
    ∃ (c : Cmd) (status code offset value len i : Nat) (result : List Byte) (s t : State), (c.ring ≠ imageRing) ∧ (t =
      complete c status code offset value len result s) :=
    ⟨W.cmd 0 0 [], 0, 0, 0, 0, 0, 0, [], W.up, _, by decide, rfl⟩

theorem test_CompletionTouchesOnlyMason_x_holds_3 :
    ∃ (c : Cmd) (status code offset value len : Nat) (result : List Byte) (s : State), (c.ring = imageRing) :=
    ⟨{ W.cmd 0 0 [] with ring := 32 }, 0, 0, 0, 0, 0, [], W.up, by decide +kernel⟩

theorem test_GeneralOpcodes_nop_holds :
    ∃ (ring slot : Nat) (c : Cmd) (s0 s : State), (Admits (specOf opsGeneral 0) ring slot c s0 s = true) :=
    ⟨0, 0, W.cmd 0 0 [], (W.st 1 (W.cmd 0 0 [])), (W.st 1 (W.cmd 0 0 [])), by decide +kernel⟩

theorem test_GeneralOpcodes_fence_holds :
    ∃ (ring slot : Nat) (c : Cmd) (s0 s : State), (Admits (specOf opsGeneral 1) ring slot c s0 s = true) :=
    ⟨0, 0, W.cmd 1 0 [], (W.st 1 (W.cmd 1 0 [])), (W.st 1 (W.cmd 1 0 [])), by decide +kernel⟩

theorem test_GeneralOpcodes_fence_holds_2 :
    ∃ (ring slot : Nat) (s : State), (∀ c ∈ s.mason.cmds, c.ring = ring → c.slot = slot → c.opcode = 1 → fenceDone c s
      = false) :=
    ⟨0, 0, { W.one (W.cmd 1 0 []) with mason := { (W.one (W.cmd 1 0 [])).mason with replies := [W.reply] } },
      by decide +kernel⟩

theorem test_GeneralOpcodes_echo_holds :
    ∃ (ring slot : Nat) (c : Cmd) (s0 s : State), (Admits (specOf opsGeneral 2) ring slot c s0 s = true) :=
    ⟨0, 0, W.cmd 2 0 [1, 2, 3], (W.st 1 (W.cmd 2 0 [1, 2, 3])), (W.st 1 (W.cmd 2 0 [1, 2, 3])), by decide +kernel⟩

theorem test_GeneralOpcodes_getVariant_holds :
    ∃ (ring slot : Nat) (c : Cmd) (s0 s : State), (Admits (specOf opsGeneral 3) ring slot c s0 s = true) :=
    ⟨0, 0, W.cmd 3 0 [], (W.st 0 (W.cmd 3 0 [])), (W.st 0 (W.cmd 3 0 [])), by decide +kernel⟩

theorem test_RingRegisterWrites_ringDoorbell_holds :
    ∃ (m n : Nat) (v : Word) (s : State), (MayWrite s m 1 (.bit n) = true) ∧ (n ≤ 31) ∧ (ringOwner s n = m) ∧ (v.toNat
      < ringSlots s n ∧ v.toNat ≠ s.f (ringReg n 0x14) 11 0) ∧ ((v.toNat + ringSlots s n - s.f (ringReg n 0x14) 11 0)
      % ringSlots s n ≤ (s.f (ringReg n 0x18) 11 0 + 2 * ringSlots s n - 1 - s.f (ringReg n 0x14) 11 0) % ringSlots s
      n) :=
    ⟨0x10, 31, 15, W.ring 31, by decide +kernel⟩

theorem test_RingRegisterWrites_ringDoorbell_holds_2 :
    ∃ (m n : Nat) (v : Word) (s : State), (MayWrite s m 1 (.bit n) = true) ∧ (n ≤ 31) ∧ (ringOwner s n = m) ∧
      (ringSlots s n ≤ v.toNat) :=
    ⟨0x10, 31, 16, W.ring 31, by decide +kernel⟩

theorem test_RingRegisterWrites_ringDoorbell_holds_3 :
    ∃ (m n : Nat) (v : Word) (s : State), (MayWrite s m 1 (.bit n) = true) ∧ (n ≤ 31) ∧ (ringOwner s n = m) ∧ (v.toNat
      < ringSlots s n ∧ v.toNat = s.f (ringReg n 0x14) 11 0) :=
    ⟨0x10, 31, 0, W.ring 31, by decide +kernel⟩

theorem test_RingRegisterWrites_ringDoorbell_holds_4 :
    ∃ (m n : Nat) (v : Word) (s : State), (s.up = true) ∧ (Issues s m = true) ∧ (reachesRegs s m = true) ∧ (n ≤ 31) ∧
      (ringOwner s n ≠ m) :=
    ⟨0x10, 31, 0, W.adm 1, by decide +kernel⟩

theorem test_RingRegisterWrites_ringDisable_holds :
    ∃ (m n : Nat) (s : State), (MayWrite s m 1 (.bit n) = true) ∧ (n ≤ 31) ∧ (ncpRing s n = false) :=
    ⟨0x10, 31, W.ring 31, by decide +kernel⟩

theorem test_RingRegisterWrites_ringReset_holds :
    ∃ (m n : Nat) (s : State), (MayWrite s m 1 (.bit n) = true) ∧ (n ≤ 31) ∧ (ncpRing s n = false) ∧ (s.bit (ringReg n
      0x24) 0 = true) :=
    ⟨0x10, 31, W.ring 31, by decide +kernel⟩

theorem test_RingRegisterWrites_ringReset_holds_2 :
    ∃ (m n : Nat) (s : State), (MayWrite s m 1 (.bit n) = true) ∧ (s.bit (ringReg n 0x24) 0 = false) :=
    ⟨0x10, 31, (W.ring 31).wr (ringReg 31 0x24) 0, by decide +kernel⟩

theorem test_RingRegisterWrites_cmdTimeoutWrite_holds :
    ∃ (m : Nat) (v : Word) (s : State), (MayWrite s m 1 .full = true) ∧ (fld v 31 20 = 0) :=
    ⟨0x10, 0xFFFFF, W.adm 1, by decide +kernel⟩

theorem test_RingEnableChecksTheConfiguration_ringEnable_holds :
    ∃ (m n : Nat) (s : State), (MayWrite s m 1 (.bit n) = true) ∧ (n ≤ 31) ∧ (ncpRing s n = false) ∧ (s.bit (ringReg n
      0x10) 0 = false) ∧ (ringConfigOk s n = true) :=
    ⟨0x10, 31, (W.ring 31).wr (ringReg 31 0x10) 0, by decide +kernel⟩

theorem test_RingEnableChecksTheConfiguration_ringEnable_holds_2 :
    ∃ (m n : Nat) (s : State), (MayWrite s m 1 (.bit n) = true) ∧ (n ≤ 31) ∧ (ncpRing s n = false) ∧ (s.bit (ringReg n
      0x10) 0 = false) ∧ (ringConfigOk s n = false) :=
    ⟨0x10, 31, W.adm 1, by decide +kernel⟩

theorem test_RingEnableChecksTheConfiguration_ringEnable_holds_3 :
    ∃ (n : Nat) (s : State), (n ≠ 31 ∨ s.bit (rg 1 0x20) 0 = false) :=
    ⟨0, W.up, by decide +kernel⟩

theorem test_RingEnableChecksTheConfiguration_registerWrite_holds :
    ∃ (m n o a : Nat) (v : Word) (s : State), (MayWrite s m 1 (.bit n) = true) ∧ (n ≤ 31 ∧ o ∈ [0, 4, 8, 0xC]) ∧
      (s.ownWalk m a true = .ok (ringReg n o)) ∧ (s.bit (ringReg n 0x10) 0 = true) ∧ (o ≠ 0xC → (regDesc (ringReg n
      o)).all (fun d => decide (v &&& ~~~ BitVec.ofNat 32 d.known = 0)) = true) ∧ (o = 0xC → bitOf (s.aclEntry 1
      m).rights 4 = true) :=
    ⟨0x10, 31, 0xC, ringReg 31 0xC, 0x7F, W.ring 31, by decide, by decide, rfl, by decide, by decide, by decide⟩

theorem test_FenceReadsAndErrorPop_sysFenceRead_holds :
    ∃ (m waited : Nat) (s : State), (s.up = true) ∧ (Issues s m = true) ∧ (reachesRegs s m = true) ∧ (outWrites s m =
      0) :=
    ⟨0x10, 3, W.up, by decide +kernel⟩

theorem test_FenceReadsAndErrorPop_sysFenceRead_holds_2 :
    ∃ (m waited : Nat) (s : State), (s.up = true) ∧ (Issues s m = true) ∧ (reachesRegs s m = true) ∧ (outWrites s m ≠
      0) :=
    ⟨0, 3, W.up.withHbr (fun h => { h with requests := [{ W.req with kind := .write, initiator := 0 }] }),
      by decide +kernel⟩

theorem test_FenceReadsAndErrorPop_fenceTimeout_holds :
    ∃ (m waited : Nat) (s : State), (s.up = true) ∧ (Issues s m = true) ∧ (reachesRegs s m = true) :=
    ⟨0x10, 3, W.up, by decide +kernel⟩

theorem test_FenceReadsAndErrorPop_sysErrPop_holds :
    ∃ (m : Nat) (s t : State), (MayRead s m 0 .none = true) ∧ (t =
      { s with sys := { s.sys with log := s.sys.log.tail, latch := tput LogEntry.none s.sys.latch m (s.sys.log.headD LogEntry.none) } })
      :=
    ⟨0x10, W.adm 0, _, by decide +kernel, rfl⟩

theorem test_CommandsAreFetchedAndTimeOut_commandFetch_holds :
    ∃ (n : Nat) (c : Cmd) (s : State), (s.up = true) ∧ (poweringOff s = false) ∧ (pickRing s = some n) ∧ (ncpRing s n
      = false) ∧ (s.badByte (ringOwner s n) (ringBase s n + s.f (ringReg n 0x18) 11 0 * 256) 256 false = none) ∧ (c =
      parseSlot n (s.f (ringReg n 0x18) 11 0) (ringOwner s n) (doorOf s n) (s.dmaBytes (ringOwner s n) (ringBase s n +
      s.f (ringReg n 0x18) 11 0 * 256) 256)) ∧ (slotCheck false (opLookup c.opcode) (s.dmaBytes (ringOwner s n)
      (ringBase s n + s.f (ringReg n 0x18) 11 0 * 256) 256) = none) :=
    ⟨0, parseSlot 0 0 0x10 0 (W.slot.dmaBytes 0x10 0x10000000 256), W.slot, by decide +kernel⟩

theorem test_CommandsAreFetchedAndTimeOut_commandFetch_holds_2 :
    ∃ (n : Nat) (c : Cmd) (f : Fail) (s : State), (s.up = true) ∧ (poweringOff s = false) ∧ (pickRing s = some n) ∧
      (ncpRing s n = false) ∧ (s.badByte (ringOwner s n) (ringBase s n + s.f (ringReg n 0x18) 11 0 * 256) 256 false =
      none) ∧ (c = parseSlot n (s.f (ringReg n 0x18) 11 0) (ringOwner s n) (doorOf s n) (s.dmaBytes (ringOwner s n)
      (ringBase s n + s.f (ringReg n 0x18) 11 0 * 256) 256)) ∧ (slotCheck false (opLookup c.opcode) (s.dmaBytes
      (ringOwner s n) (ringBase s n + s.f (ringReg n 0x18) 11 0 * 256) 256) = some f) :=
    ⟨0, parseSlot 0 0 0x10 0 (W.slotBad.dmaBytes 0x10 0x10000000 256), ⟨stBadOpcode, 1, 3, 0⟩, W.slotBad, by decide,
      by decide, by decide +kernel, by decide, by decide +kernel, by rfl, by rfl⟩

theorem test_CommandsAreFetchedAndTimeOut_commandTimeout_holds :
    ∃ (ring slot : Nat) (c : Cmd) (s : State), (s.up = true) ∧ (s.mason.cmds.find? (fun c => c.ring == ring && c.slot
      == slot && !c.running && pairBusy c s) = some c) :=
    ⟨0, 1, { W.cmd 0x300 0 [] with slot := 1 },
      { W.up with mason := { MasonState.reset with cmds := [W.cmd 0x300 0 [], { W.cmd 0x300 0 [] with slot := 1 }] } },
      by decide +kernel⟩

theorem test_CommandsAreFetchedAndTimeOut_completionEventTimer_holds :
    ∃ (n : Nat) (s : State), (s.up = true) ∧ (s.f (ringReg n 0x28) 7 0 ≠ 0 ∧ s.f (ringReg n 0x28) 23 8 ≠ 0 ∧ tget 0
      s.mason.unannounced n ≠ 0) :=
    ⟨31,
      { (W.ring 31).wr (ringReg 31 0x28) 0x10101 with mason := { MasonState.reset with unannounced := [(31, 1)] } },
      by decide +kernel⟩

theorem test_RepliesAreWrittenInOrder_commandReply_holds :
    ∃ (r : Reply) (rest : List Reply) (s : State), (s.up = true) ∧ (s.mason.replies = r :: rest) ∧ (¬ (r.ring = 31 ∧
      r.issuer = 0x20)) ∧ (r.noReply = false) ∧ (s.badByte r.issuer (ringBase s r.ring + (ringSlots s r.ring + s.f
      (ringReg r.ring 0x1C) 11 0) * 256) 256 true = none) :=
    ⟨W.reply, [], { W.ring 0 with mason := { MasonState.reset with replies := [W.reply] } }, by decide +kernel⟩

theorem test_QuietFailuresAreOnlyCounted_commandReply_holds :
    ∃ (r : Reply) (rest : List Reply) (s : State), (s.up = true) ∧ (s.mason.replies = r :: rest) ∧ (¬ (r.ring = 31 ∧
      r.issuer = 0x20)) ∧ (r.noReply = true ∧ r.status ≠ 0) :=
    ⟨{ W.reply with noReply := true, status := 0x11 }, [],
      { W.ring 0 with mason := { MasonState.reset with replies := [{ W.reply with noReply := true, status := 0x11 }] } },
      by decide +kernel⟩

theorem test_QuietFailuresAreOnlyCounted_commandReply_holds_2 :
    ∃ (r : Reply) (rest : List Reply) (s : State), (s.up = true) ∧ (s.mason.replies = r :: rest) ∧ (¬ (r.ring = 31 ∧
      r.issuer = 0x20)) ∧ (r.noReply = true ∧ r.status = 0) :=
    ⟨{ W.reply with noReply := true }, [],
      { W.ring 0 with mason := { MasonState.reset with replies := [{ W.reply with noReply := true }] } },
      by decide +kernel⟩

theorem test_NetworkCommandPort_ncpCtrlWrite_holds :
    ∃ (m : Nat) (v : Word) (s : State), (MayWrite s m 1 .full = true) ∧ (v &&& ~~~ 0x3FF1#32 = 0) ∧ (bitOf v 0 = true
      → ncpKeyOk s (fld v 13 4) = true) ∧ (bitOf v 0 = s.bit (rg 1 0x20) 0) :=
    ⟨0x10, 0x11, ((W.adm 1).wr (rg 1 0x20) 0x11).withCru (fun g => { g with keys := [(1, W.key)] }),
      by decide +kernel⟩

theorem test_NetworkCommandPort_ncpCtrlWrite_holds_2 :
    ∃ (m : Nat) (v : Word) (s t : State), (MayWrite s m 1 .full = true) ∧ (v &&& ~~~ 0x3FF1#32 = 0) ∧ (bitOf v 0 =
      true → ncpKeyOk s (fld v 13 4) = true) ∧ (bitOf v 0 ≠ s.bit (rg 1 0x20) 0) ∧ (t = ringZero 31 (stopRing 31 s))
      :=
    ⟨0x10, 0x11, (W.adm 1).withCru (fun g => { g with keys := [(1, W.key)] }), _, by decide +kernel, by decide,
      by decide +kernel, by decide +kernel, rfl⟩

theorem test_NetworkCommandPort_ncpCtrlWrite_holds_3 :
    ∃ (m : Nat) (v : Word) (s : State), (MayWrite s m 1 .full = true) ∧ (v &&& ~~~ 0x3FF1#32 = 0) ∧ (bitOf v 0 = true
      ∧ ncpKeyOk s (fld v 13 4) = false) ∧ (s.bit (rg 1 0x20) 0 = false) :=
    ⟨0x10, 1, W.adm 1, by decide +kernel⟩

theorem test_NetworkCommandPort_ncpCtrlWrite_holds_4 :
    ∃ (m : Nat) (v : Word) (s t : State), (MayWrite s m 1 .full = true) ∧ (v &&& ~~~ 0x3FF1#32 = 0) ∧ (bitOf v 0 =
      true ∧ ncpKeyOk s (fld v 13 4) = false) ∧ (s.bit (rg 1 0x20) 0 = true) ∧ (t = ringZero 31 (stopRing 31 s)) :=
    ⟨0x10, 1, (W.adm 1).wr (rg 1 0x20) 1, _, by decide +kernel, by decide, by decide +kernel, by decide +kernel, rfl⟩

theorem test_NetworkCommandPort_ncpCommandFrame_holds :
    ∃ (bs : List Byte) (vid pcp : Nat) (rest : List (List Byte × Nat × Nat)) (s : State), (s.up = true) ∧
      (s.mason.imRx = (bs, vid, pcp) :: rest) ∧ (s.bit (rg 1 0x20) 0 = false ∨ (etherBody bs).1 ≠ s.f (rg 1 0x24) 15
      0) :=
    ⟨W.badNcp, 0, 0, [], (W.ncpWith W.badNcp).wr (rg 1 0x20) 0, by decide +kernel⟩

theorem test_NetworkCommandPort_ncpCommandFrame_holds_2 :
    ∃ (bs : List Byte) (vid pcp : Nat) (rest : List (List Byte × Nat × Nat)) (s : State), (s.up = true) ∧
      (s.mason.imRx = (bs, vid, pcp) :: rest) ∧ (s.bit (rg 1 0x20) 0 = true ∧ (etherBody bs).1 = s.f (rg 1 0x24) 15 0)
      ∧ (ncpRoom s = false) :=
    ⟨W.badNcp, 0, 0, [], (W.ncpWith W.badNcp).wr (ringReg 31 0x18) 1, by decide +kernel, rfl, by decide +kernel,
      by decide +kernel⟩

theorem test_NetworkCommandPort_ncpCommandFrame_holds_3 :
    ∃ (bs : List Byte) (vid pcp : Nat) (rest : List (List Byte × Nat × Nat)) (s : State), (s.up = true) ∧
      (s.mason.imRx = (bs, vid, pcp) :: rest) ∧ (s.bit (rg 1 0x20) 0 = true ∧ (etherBody bs).1 = s.f (rg 1 0x24) 15 0)
      ∧ (ncpRoom s = true) ∧ (ncpForm s (etherBody bs).2 = false) :=
    ⟨W.badNcp, 0, 0, [], W.ncpWith W.badNcp, by decide +kernel, rfl, by decide +kernel, by decide +kernel,
      by decide +kernel⟩

theorem test_NetworkCommandPort_ncpCommandFrame_holds_4 :
    ∃ (bs : List Byte) (vid pcp : Nat) (rest : List (List Byte × Nat × Nat)) (s t : State) (ok : Bool), (s.up = true)
      ∧ (s.mason.imRx = (bs, vid, pcp) :: rest) ∧ (s.bit (rg 1 0x20) 0 = true ∧ (etherBody bs).1 = s.f (rg 1 0x24) 15
      0) ∧ (ncpRoom s = true) ∧ (ncpForm s (etherBody bs).2 = true) ∧ (useKey (ncpSlot s)
      { s with mason := { s.mason with imRx := rest } } = (ok, t)) ∧ (ok = false ∨ ncpAuthentic s (etherBody bs).2 =
      false) :=
    ⟨W.goodNcp, 0, 0, [], (W.ncpWith W.goodNcp).wr (rg 1 0x28) 0xFFFFFFFF, _, _, by decide +kernel, rfl,
      by decide +kernel, by decide +kernel, by decide +kernel, rfl, by decide +kernel⟩

theorem test_NetworkCommandPort_ncpCommandFrame_holds_5 :
    ∃ (bs : List Byte) (vid pcp : Nat) (rest : List (List Byte × Nat × Nat)) (s t : State) (k seq : Nat), (s.up =
      true) ∧ (s.mason.imRx = (bs, vid, pcp) :: rest) ∧ (s.bit (rg 1 0x20) 0 = true ∧ (etherBody bs).1 = s.f (rg 1
      0x24) 15 0) ∧ (ncpRoom s = true) ∧ (ncpForm s (etherBody bs).2 = true ∧ ncpAuthentic s (etherBody bs).2 = true)
      ∧ (useKey (ncpSlot s) { s with mason := { s.mason with imRx := rest } } = (true, t)) ∧ (k = t.f (ringReg 31
      0x14) 11 0 ∧ seq = beAt (etherBody bs).2 4 4) :=
    ⟨W.goodNcp, 0, 0, [], W.ncpWith W.goodNcp, _, _, _, by decide +kernel, rfl, by decide +kernel, by decide +kernel,
      by decide +kernel, rfl, ⟨rfl, rfl⟩⟩

theorem test_AclCommandsAct_aclSetEntry_holds :
    ∃ (ring slot : Nat) (c : Cmd) (s0 s : State), (Admits (specOf opsAcl 0x0200) ring slot c s0 s = true) ∧ (isAdmin s
      c.issuer c.inst = true) ∧ (aclLocked s c.inst = false) ∧ (2 ≤ c.p 32 1 ∧ c.p 32 1 ≤ 0x7F) ∧ (c.zero 33 3 = true)
      ∧ (fld (c.w 36) 31 5 = 0) :=
    ⟨0, 0, W.cmd 0x0200 18 [0x7F, 0, 0, 0, 0x1F, 0, 0, 0, 1, 0, 0, 0, 0, 0, 0, 0x80], (let s := (W.st 2 (W.cmd 0x0200
      18 [0x7F, 0, 0, 0, 0x1F, 0, 0, 0, 1, 0, 0, 0, 0, 0, 0, 0x80])); s.setEntry 18 0x10 AclEntry.all), (let s :=
      (W.st 2 (W.cmd 0x0200 18 [0x7F, 0, 0, 0, 0x1F, 0, 0, 0, 1, 0, 0, 0, 0, 0, 0, 0x80])); s.setEntry 18 0x10
      AclEntry.all), by decide +kernel⟩

theorem test_AclCommandsAct_aclGetEntry_holds :
    ∃ (ring slot : Nat) (c : Cmd) (s0 s : State), (Admits (specOf opsAcl 0x0201) ring slot c s0 s = true) ∧ (isAdmin s
      c.issuer c.inst = true) ∧ (c.p 32 1 ≤ 0x7F) ∧ (c.zero 33 3 = true) :=
    ⟨0, 0, W.cmd 0x0201 0 [0, 0, 0, 0], (let s := (W.st 2 (W.cmd 0x0201 0 [0, 0, 0, 0])); s.setEntry 0 0x10
      AclEntry.all), (let s := (W.st 2 (W.cmd 0x0201 0 [0, 0, 0, 0])); s.setEntry 0 0x10 AclEntry.all),
      by decide +kernel⟩

theorem test_AclCommandsAct_aclLock_holds :
    ∃ (ring slot : Nat) (c : Cmd) (s0 s : State), (Admits (specOf opsAcl 0x0202) ring slot c s0 s = true) ∧ (isAdmin s
      c.issuer c.inst = true) :=
    ⟨0, 0, W.cmd 0x0202 19 [], (let s := (W.st 2 (W.cmd 0x0202 19 [])); s.setEntry 0 0x10 AclEntry.all), (let s :=
      (W.st 2 (W.cmd 0x0202 19 [])); s.setEntry 0 0x10 AclEntry.all), by decide +kernel⟩

theorem test_AclCommandsAct_aclSetWindow_holds :
    ∃ (ring slot : Nat) (c : Cmd) (s0 s : State), (Admits (specOf opsAcl 0x0203) ring slot c s0 s = true) ∧ (isAdmin s
      c.issuer c.inst = true) ∧ (aclLocked s c.inst = false) ∧ (c.p 32 1 ≤ 0x7F ∧ c.p 33 1 ≤ 7) ∧ (c.zero 34 2 = true)
      ∧ (c.p 36 8 % 4096 = 0 ∧ c.p 36 8 < 2 ^ 40) ∧ (c.p 44 4 < 2 ^ 28 ∧ c.p 36 8 + c.p 44 4 * 4096 ≤ 2 ^ 40) ∧ (c.p
      48 4 < 4) :=
    ⟨0, 0, W.cmd 0x0203 19 [0x10, 7, 0, 0, 0, 0, 0, 0x10, 0, 0, 0, 0, 1, 0, 0, 0, 3, 0, 0, 0], (let s := (W.st 2
      (W.cmd 0x0203 19 [0x10, 7, 0, 0, 0, 0, 0, 0x10, 0, 0, 0, 0, 1, 0, 0, 0, 3, 0, 0, 0])); s.setEntry 0 0x10
      AclEntry.all), (let s := (W.st 2 (W.cmd 0x0203 19 [0x10, 7, 0, 0, 0, 0, 0, 0x10, 0, 0, 0, 0, 1, 0, 0, 0, 3, 0,
      0, 0])); s.setEntry 0 0x10 AclEntry.all), by decide +kernel⟩

theorem test_AclCommandsAct_aclGetWindow_holds :
    ∃ (ring slot : Nat) (c : Cmd) (s0 s : State), (Admits (specOf opsAcl 0x0204) ring slot c s0 s = true) ∧ (isAdmin s
      c.issuer c.inst = true) ∧ (c.p 32 1 ≤ 0x7F ∧ c.p 33 1 ≤ 7) ∧ (c.zero 34 2 = true) :=
    ⟨0, 0, W.cmd 0x0204 19 [0x7F, 0, 0, 0], (let s := (W.st 2 (W.cmd 0x0204 19 [0x7F, 0, 0, 0])); s.setEntry 0 0x10
      AclEntry.all), (let s := (W.st 2 (W.cmd 0x0204 19 [0x7F, 0, 0, 0])); s.setEntry 0 0x10 AclEntry.all),
      by decide +kernel⟩

theorem test_AclRegisterWindow_aclWindowWrite_holds :
    ∃ (m b t i off : Nat) (v : Word) (e : AclEntry) (s : State), (s.up = true) ∧ (Issues s m = true) ∧ (reachesRegs s
      m = true) ∧ (b ≤ 18 ∧ 2 ≤ t ∧ t ≤ 127 ∧ i ≤ 3 ∧ off = 0x10000 + b * 0x800 + t * 0x10 + i * 4) ∧ (aclMayWrite s m
      b = true) ∧ (aclLocked s b = false) ∧ (entryWrite (s.aclEntry b t) i v = some e) :=
    ⟨0x10, 18, 127, 2, 0x10000 + 18 * 0x800 + 127 * 0x10 + 8, 5, ⟨0, 0x500000000⟩, W.adm 18, by decide +kernel⟩

theorem test_AclRegisterWindow_aclWindowWrite_holds_2 :
    ∃ (m t w i off : Nat) (v : Word) (x : Window) (s : State), (s.up = true) ∧ (Issues s m = true) ∧ (reachesRegs s m
      = true) ∧ (t ≤ 127 ∧ w ≤ 7 ∧ i ≤ 3 ∧ off = 0x20000 + t * 0x80 + w * 0x10 + i * 4) ∧ (aclMayWrite s m 19 = true)
      ∧ (aclLocked s 19 = false) ∧ (windowWrite (s.window t w) i v = some x) :=
    ⟨0x10, 127, 7, 3, 0x20000 + 127 * 0x80 + 7 * 0x10 + 12, 3, ⟨0, 0, true, true⟩, W.adm 0, by decide +kernel⟩

theorem test_AclRegisterWindow_aclWindowWrite_holds_3 :
    ∃ (m b t i off : Nat) (v : Word) (s : State), (s.up = true) ∧ (Issues s m = true) ∧ (reachesRegs s m = true) ∧ (b
      ≤ 18 ∧ t ≤ 127 ∧ i ≤ 3 ∧ off = 0x10000 + b * 0x800 + t * 0x10 + i * 4) ∧ (aclMayWrite s m b = false ∨ t ≤ 1 ∨
      aclLocked s b = true) :=
    ⟨0x10, 18, 1, 3, 0x10000 + 18 * 0x800 + 1 * 0x10 + 12, 0, W.adm 18, by decide +kernel⟩

theorem test_AclRegisterWindow_aclWindowWrite_holds_4 :
    ∃ (m t w i off : Nat) (v : Word) (s : State), (s.up = true) ∧ (Issues s m = true) ∧ (reachesRegs s m = true) ∧ (t
      ≤ 127 ∧ w ≤ 7 ∧ i ≤ 3 ∧ off = 0x20000 + t * 0x80 + w * 0x10 + i * 4) ∧ (aclMayWrite s m 19 = false ∨ aclLocked s
      19 = true) :=
    ⟨0x10, 127, 7, 3, 0x20000 + 127 * 0x80 + 7 * 0x10 + 12, 3, W.adm 18, by decide +kernel⟩

theorem test_AclRegisterWindow_aclLockWrite_holds :
    ∃ (m : Nat) (v : Word) (s : State), (s.up = true) ∧ (Issues s m = true) ∧ (reachesRegs s m = true) ∧ (fld v 31 20
      = 0) ∧ ((bitsOf v.toNat 20).all (aclMayWrite s m) = true) :=
    ⟨0x10, 0x40000, W.adm 18, by decide +kernel⟩

theorem test_AclRegisterWindow_aclLockWrite_holds_2 :
    ∃ (m : Nat) (v : Word) (s : State), (s.up = true) ∧ (Issues s m = true) ∧ (reachesRegs s m = true) ∧ (fld v 31 20
      = 0) ∧ ((bitsOf v.toNat 20).all (aclMayWrite s m) = false) :=
    ⟨0x10, 0x80001, W.adm 18, by decide +kernel⟩

theorem test_IncrIsLimitedAndCommitted_incrCommit_holds :
    ∃ (m : Nat) (v : Word) (s : State), (MayWrite s m 3 (.bit 0) = true) ∧ (fld v 31 8 = 0) ∧ (hostMode s = true ∨ m =
      0) :=
    ⟨0x10, 0xFF, (W.adm 3).wr (rg 3 0x24) 1, by decide +kernel⟩

theorem test_IncrIsLimitedAndCommitted_registerWrite_holds :
    ∃ (m a : Nat) (v : Word) (s : State), (MayWrite s m 3 (.bit 0) = true) ∧ (s.ownWalk m a true = .ok (rg 3 0x10)) :=
    ⟨0x10, rg 3 0x10, 5, W.adm 3, by decide, rfl⟩

theorem test_StepsAddTheOffsetAndAreCounted_stepCommit_holds :
    ∃ (m : Nat) (v : Word) (off : Int) (s : State), (MayWrite s m 3 (.bit 0) = true) ∧ (hostMode s = true ∨ m = 0) ∧
      (off = (BitVec.ofNat 64 (v.toNat * 2 ^ 32 + s.tim.stepLo.toNat)).toInt) ∧ (stepFits off s = true) :=
    ⟨0x10, 0, 0, (W.adm 3).wr (rg 3 0x24) 1, by decide +kernel⟩

theorem test_StepsAddTheOffsetAndAreCounted_timStep_holds :
    ∃ (ring slot : Nat) (c : Cmd) (s0 s : State), (Admits (specOf opsTim 0x0301) ring slot c s0 s = true) ∧ (hostMode
      s = true ∨ c.issuer = 0) ∧ (stepFits (BitVec.ofNat 64 (c.p 32 8)).toInt s = true) :=
    ⟨0, 0, W.cmd 0x0301 0 [0xFF, 0xFF, 0xFF, 0xFF, 0, 0, 0, 0], (let s := (W.st 3 (W.cmd 0x0301 0 [0xFF, 0xFF, 0xFF,
      0xFF, 0, 0, 0, 0])); s.wr (rg 3 0x24) 1), (let s := (W.st 3 (W.cmd 0x0301 0 [0xFF, 0xFF, 0xFF, 0xFF, 0, 0, 0,
      0])); s.wr (rg 3 0x24) 1), by decide +kernel⟩

theorem test_StepsAddTheOffsetAndAreCounted_timStep_holds_2 :
    ∃ (off : Int) (s : State), (stepFits off s = true) ∧ (s.tim.ns < 1000000000) :=
    ⟨5, W.up, by decide +kernel⟩

theorem test_StepsAddTheOffsetAndAreCounted_syncAccepted_holds :
    ∃ (domain : Nat) (offset : Int) (s : State), (s.up = true) ∧ (gptpRuns s domain = true ∧ gptpAny s domain 2 =
      true) ∧ (domain = s.f (rg 3 0x24) 1 1) ∧ (s.tim.servo = .free) :=
    ⟨1, -5, ((W.up.wr (rg 3 0x50) 1).wr (rg 3 0x54) 2).wr (rg 3 0x24) 2, by decide +kernel⟩

theorem test_CounterAndServoCommands_timeNsRead_holds :
    ∃ (m : Nat) (s t : State), (MayRead s m 3 .none = true) ∧ (t =
      { s with tim := { s.tim with latches := tput ⟨0, 0⟩ s.tim.latches m ⟨s.tim.sec, s.tim.frac⟩ } }) :=
    ⟨0x10, W.adm 3, _, by decide +kernel, rfl⟩

theorem test_CounterAndServoCommands_timGetTime_holds :
    ∃ (ring slot : Nat) (c : Cmd) (s0 s : State), (Admits (specOf opsTim 0x0300) ring slot c s0 s = true) :=
    ⟨0, 0, W.cmd 0x0300 0 [], (W.st 3 (W.cmd 0x0300 0 [])), (W.st 3 (W.cmd 0x0300 0 [])), by decide +kernel⟩

theorem test_CounterAndServoCommands_timSetIncr_holds :
    ∃ (ring slot : Nat) (c : Cmd) (s0 s : State), (Admits (specOf opsTim 0x0302) ring slot c s0 s = true) ∧
      (0x01FFBE76C9 ≤ c.p 32 8 ∧ c.p 32 8 ≤ 0x0200418937) ∧ (hostMode s = true ∨ c.issuer = 0) :=
    ⟨0, 0, W.cmd 0x0302 0 [0x37, 0x89, 0x41, 0, 2, 0, 0, 0], (let s := (W.st 3 (W.cmd 0x0302 0 [0x37, 0x89, 0x41, 0,
      2, 0, 0, 0])); s.wr (rg 3 0x24) 1), (let s := (W.st 3 (W.cmd 0x0302 0 [0x37, 0x89, 0x41, 0, 2, 0, 0, 0])); s.wr
      (rg 3 0x24) 1), by decide +kernel⟩

theorem test_CounterAndServoCommands_timSetServo_holds :
    ∃ (ring slot : Nat) (c : Cmd) (s0 s : State), (Admits (specOf opsTim 0x0303) ring slot c s0 s = true) ∧ (servoForm
      (c.w 32) = true) :=
    ⟨0, 0, W.cmd 0x0303 0 [0, 0, 1, 4], (W.st 3 (W.cmd 0x0303 0 [0, 0, 1, 4])), (W.st 3 (W.cmd 0x0303 0 [0, 0, 1,
      4])), by decide +kernel⟩

theorem test_CounterAndServoCommands_syncReceiptTimeout_holds :
    ∃ (s : State), (s.up = true) ∧ (hostMode s = false) ∧ (s.tim.servo = .locking ∨ s.tim.servo = .locked) :=
    ⟨{ W.up with tim := { TimState.reset with servo := .locked } }, by decide +kernel⟩

theorem test_CounterAndServoCommands_gmChange_holds :
    ∃ (s : State), (s.up = true) ∧ (gptpMaster s (s.f (rg 3 0x24) 1 1) = true) ∧ (s.tim.servo ≠ .gm) :=
    ⟨W.up.wr (rg 3 0x40) 1, by decide +kernel⟩

theorem test_CounterAndServoCommands_syncAccepted_holds :
    ∃ (domain k : Nat) (offset : Int) (s x t : State), (s.up = true) ∧ (gptpRuns s domain = true ∧ gptpAny s domain 2
      = true ∧ domain = s.f (rg 3 0x24) 1 1) ∧ ((s.tim.servo = .locking ∧ x = s) ∨ (s.tim.servo = .holdover ∧ x =
      (setServo .locking { s with tim := { s.tim with lockCount := 0 } }).raise 3 2) ∨ (s.tim.servo = .gm ∧ x =
      (setServo .locking { s with tim := { s.tim with lockCount := 0 } }).raise 3 4)) ∧ (offset.natAbs ≤ s.f (rg 3
      0x24) 15 4 * 1000 ∨ (s.f (rg 3 0x24) 15 4 = 0 ∧ s.tim.everLocked = true)) ∧ (t = commitIncr (Config.piIncr
      x.free.1 offset).toNat x.free.2) ∧ (k = if offset.natAbs ≤ s.f (rg 3 0x24) 23 16 then x.tim.lockCount + 1 else
      0) :=
    ⟨1, 0, 5, W.sync .gm, _, _, by decide, by decide, .inr (.inr ⟨by decide, rfl⟩), .inl (by decide), rfl, by decide⟩

theorem test_CounterAndServoCommands_syncAccepted_holds_2 :
    ∃ (domain : Nat) (offset : Int) (s : State), (s.up = true) ∧ (gptpRuns s domain = true ∧ gptpAny s domain 2 = true
      ∧ domain = s.f (rg 3 0x24) 1 1) ∧ (s.tim.servo = .locked) ∧ (offset.natAbs ≤ s.f (rg 3 0x24) 15 4 * 1000 ∨ (s.f
      (rg 3 0x24) 15 4 = 0 ∧ s.tim.everLocked = true)) :=
    ⟨1, 5, W.sync .locked, by decide, by decide, by decide, by decide⟩

theorem test_CounterAndServoCommands_syncAccepted_holds_3 :
    ∃ (domain : Nat) (offset : Int) (s : State), (s.up = true) ∧ (gptpRuns s domain = true ∧ gptpAny s domain 2 = true
      ∧ domain = s.f (rg 3 0x24) 1 1) ∧ (s.tim.servo = .locked) ∧ (s.f (rg 3 0x24) 15 4 * 1000 < offset.natAbs ∧ s.f
      (rg 3 0x24) 15 4 ≠ 0) :=
    ⟨1, 5000, W.sync .locked, by decide, by decide, by decide, by decide⟩

theorem test_CounterAndServoCommands_syncAccepted_holds_4 :
    ∃ (domain : Nat) (offset : Int) (s : State), (s.up = true) ∧ (gptpRuns s domain = true ∧ gptpAny s domain 2 =
      true) ∧ (domain ≠ s.f (rg 3 0x24) 1 1) :=
    ⟨1, -5, (W.up.wr (rg 3 0x50) 1).wr (rg 3 0x54) 2, by decide +kernel⟩

theorem test_PulsesCapturesAndGptp_tpoEnableWrite_holds :
    ∃ (m k : Nat) (v : Word) (s : State), (MayWrite s m 3 (.bit (8 + k)) = true) ∧ (k < 8) ∧ (fld v 15 2 = 0) ∧ (s.bit
      (tpoReg k 0) 0 = false) ∧ (bitOf v 0 = true) ∧ (s.f (tpoReg k 4) 29 0 < 1000000000) ∧ (pulseShapeOk (s.rd
      (tpoReg k 0xC)).toNat (s.rd (tpoReg k 0x10)).toNat = true) :=
    ⟨0x10, 7, 1, ((W.adm 3).wr (tpoReg 7 0xC) 8).wr (tpoReg 7 0x10) 4, by decide +kernel⟩

theorem test_PulsesCapturesAndGptp_tpoEnableWrite_holds_2 :
    ∃ (m k : Nat) (v : Word) (s : State), (MayWrite s m 3 (.bit (8 + k)) = true) ∧ (k < 8) ∧ (fld v 15 2 = 0) ∧ (s.bit
      (tpoReg k 0) 0 = true) ∧ (bitOf v 0 = false) :=
    ⟨0x10, 7, 0, (W.adm 3).wr (tpoReg 7 0) 1, by decide +kernel⟩

theorem test_PulsesCapturesAndGptp_tpoEdge_holds :
    ∃ (k : Nat) (p : Pulse) (s : State), (s.up = true) ∧ (k < 8 ∧ s.bit (tpoReg k 0) 0 = true) ∧ (p = tget Pulse.rest
      s.tim.tpo k ∧ p.active = false) ∧ (tpoStart s k + p.n * (s.rd (tpoReg k 0xC)).toNat ≤ s.now) :=
    ⟨7, Pulse.rest, W.up.wr (tpoReg 7 0) 1, by decide +kernel⟩

theorem test_PulsesCapturesAndGptp_tpoEdge_holds_2 :
    ∃ (k : Nat) (p : Pulse) (s : State), (s.up = true) ∧ (k < 8 ∧ s.bit (tpoReg k 0) 0 = true) ∧ (p = tget Pulse.rest
      s.tim.tpo k ∧ p.active = true) ∧ (tpoStart s k + p.n * (s.rd (tpoReg k 0xC)).toNat + (s.rd (tpoReg k
      0x10)).toNat ≤ s.now) :=
    ⟨7, ⟨0, true, false⟩,
      { ((W.up.wr (tpoReg 7 0) 1).wr (tpoReg 7 0xC) 8).wr (tpoReg 7 0x10) 4 with tim := { TimState.reset with ns := 4, tpo := [(7, ⟨0, true, false⟩)] } },
      by decide +kernel⟩

theorem test_PulsesCapturesAndGptp_tciCapture_holds :
    ∃ (k : Nat) (falling : Bool) (s : State), (s.up = true) ∧ (k < 4 ∧ s.bit (tciReg k 0) 0 = true ∧ (s.f (tciReg k 0)
      2 1).testBit (b2n falling) = true) ∧ ((tget [] s.tim.tci k).length < 16) :=
    ⟨3, true, W.up.wr (tciReg 3 0) 7, by decide +kernel⟩

theorem test_PulsesCapturesAndGptp_tciCapture_holds_2 :
    ∃ (k : Nat) (falling : Bool) (s : State), (s.up = true) ∧ (k < 4 ∧ s.bit (tciReg k 0) 0 = true ∧ (s.f (tciReg k 0)
      2 1).testBit (b2n falling) = true) ∧ (16 ≤ (tget [] s.tim.tci k).length) :=
    ⟨3, true,
      { W.up.wr (tciReg 3 0) 7 with tim := { TimState.reset with tci := [(3, List.replicate 16 ⟨0, 0, false⟩)] } },
      by decide +kernel⟩

theorem test_PulsesCapturesAndGptp_tciPop_holds :
    ∃ (m k : Nat) (x : Capture) (r : List Capture) (s : State), (MayRead s m 3 (.bit (16 + k)) = true) ∧ (tget []
      s.tim.tci k = x :: r) :=
    ⟨0x10, 3, ⟨1, 2, true⟩, [], { W.adm 3 with tim := { TimState.reset with tci := [(3, [⟨1, 2, true⟩])] } },
      by decide +kernel⟩

theorem test_PulsesCapturesAndGptp_tciPop_holds_2 :
    ∃ (m k : Nat) (s : State), (MayRead s m 3 (.bit (16 + k)) = true) ∧ (tget [] s.tim.tci k = []) :=
    ⟨0x10, 3, W.adm 3, by decide +kernel⟩

theorem test_PulsesCapturesAndGptp_timGptpCfg_holds :
    ∃ (ring slot : Nat) (c : Cmd) (s0 s : State), (Admits (specOf opsTim 0x0304) ring slot c s0 s = true) ∧ (fld (c.w
      32) 7 2 = 0 ∧ bitOf (c.w 32) 31 = false ∧ c.p 36 8 < 2 ^ 36 ∧ gptpForm (c.w 32) = true) ∧ (fld (c.w 32) 30 24 ≠
      s.f (rg 3 (0x40 + (1 - (c.inst - 1)) * 0x10)) 30 24) ∧ (s.bit (rg 3 (0x40 + (c.inst - 1) * 0x10)) 0 = false) :=
    ⟨0, 0, W.cmd 0x0304 2 [1, 0, 0xDB, 0x7F, 1, 0, 0, 0, 8, 0, 0, 0], (W.st 3 (W.cmd 0x0304 2 [1, 0, 0xDB, 0x7F, 1, 0,
      0, 0, 8, 0, 0, 0])), (W.st 3 (W.cmd 0x0304 2 [1, 0, 0xDB, 0x7F, 1, 0, 0, 0, 8, 0, 0, 0])), by decide +kernel⟩

theorem test_PulsesCapturesAndGptp_timPulseCfg_holds :
    ∃ (ring slot : Nat) (c : Cmd) (s0 s : State), (Admits (specOf opsTim 0x0305) ring slot c s0 s = true) ∧
      (c.timeForm 32 = true ∧ c.timeNs 32 < 1000000000 ∧ c.p 52 4 < 4 ∧ pulseShapeOk (c.p 44 4) (c.p 48 4) = true) ∧
      (s.bit (tpoReg (c.inst - 8) 0) 0 = false) :=
    ⟨0, 0, W.cmd 0x0305 15 [0, 0, 0, 0, 1, 0, 0, 0, 0, 0, 0, 0, 8, 0, 0, 0, 4, 0, 0, 0, 3, 0, 0, 0], (W.st 3 (W.cmd
      0x0305 15 [0, 0, 0, 0, 1, 0, 0, 0, 0, 0, 0, 0, 8, 0, 0, 0, 4, 0, 0, 0, 3, 0, 0, 0])), (W.st 3 (W.cmd 0x0305 15
      [0, 0, 0, 0, 1, 0, 0, 0, 0, 0, 0, 0, 8, 0, 0, 0, 4, 0, 0, 0, 3, 0, 0, 0])), by decide +kernel⟩

theorem test_PulsesCapturesAndGptp_timCaptureCfg_holds :
    ∃ (ring slot : Nat) (c : Cmd) (s0 s : State), (Admits (specOf opsTim 0x0306) ring slot c s0 s = true) ∧ (c.p 32 4
      < 8 ∧ c.p 32 4 / 2 ≠ 0) :=
    ⟨0, 0, W.cmd 0x0306 19 [7, 0, 0, 0], (W.st 3 (W.cmd 0x0306 19 [7, 0, 0, 0])), (W.st 3 (W.cmd 0x0306 19 [7, 0, 0,
      0])), by decide +kernel⟩

theorem test_PulsesCapturesAndGptp_gptpSyncSend_holds :
    ∃ (domain port : Nat) (pdelay : Bool) (s : State), (s.up = true) ∧ (gptpRuns s domain = true ∧ port < 18) ∧
      (gptpRole s domain port = 1) :=
    ⟨1, 17, false, (W.up.wr (rg 3 0x50) 1).wr (rg 3 0x58) 4, by decide +kernel⟩

theorem test_SwitchCoreOpcodes_swcSetShared_holds :
    ∃ (ring slot : Nat) (c : Cmd) (s0 s : State), (Admits (specOf opsSwc 0x0400) ring slot c s0 s = true) ∧
      (reserveSum s + c.p 32 4 + c.p 36 4 ≤ 98304) ∧ (1 ≤ c.p 40 4 ∧ c.p 40 4 ≤ 1000) :=
    ⟨0, 0, W.cmd 0x0400 0 [0, 0, 0, 0, 0, 0, 0, 0, 0xE8, 3, 0, 0], (W.st 4 (W.cmd 0x0400 0 [0, 0, 0, 0, 0, 0, 0, 0,
      0xE8, 3, 0, 0])), (W.st 4 (W.cmd 0x0400 0 [0, 0, 0, 0, 0, 0, 0, 0, 0xE8, 3, 0, 0])), by decide +kernel⟩

theorem test_SwitchCoreOpcodes_swcSetQueue_holds :
    ∃ (ring slot : Nat) (c : Cmd) (s0 s : State), (Admits (specOf opsSwc 0x0401) ring slot c s0 s = true) ∧ (1 ≤ c.p
      36 4 ∧ c.p 36 4 ≤ 98304 ∧ c.p 32 4 ≤ c.p 36 4) ∧ (areaSum ((setCharge c.inst (charge s c.inst) (c.p 32 4) s).wr
      (swcQueue c.inst 4) (c.w 36)) ≤ 98304) :=
    ⟨0, 0, W.cmd 0x0401 167 [0, 0, 0, 0, 0, 0x80, 1, 0], (W.st 4 (W.cmd 0x0401 167 [0, 0, 0, 0, 0, 0x80, 1, 0])),
      (W.st 4 (W.cmd 0x0401 167 [0, 0, 0, 0, 0, 0x80, 1, 0])), by decide +kernel⟩

theorem test_SwitchCoreOpcodes_swcFlushQueue_holds :
    ∃ (ring slot : Nat) (c : Cmd) (s0 s : State), (Admits (specOf opsSwc 0x0402) ring slot c s0 s = true) :=
    ⟨0, 0, W.cmd 0x0402 167 [], (W.st 4 (W.cmd 0x0402 167 [])), (W.st 4 (W.cmd 0x0402 167 [])), by decide +kernel⟩

theorem test_SwitchCoreOpcodes_swcSetPort_holds :
    ∃ (ring slot : Nat) (c : Cmd) (s0 s : State), (Admits (specOf opsSwc 0x0403) ring slot c s0 s = true) ∧
      (swcPortForm (c.w 32) = true) ∧ (c.p 36 4 < 2 ^ 24) :=
    ⟨0, 0, W.cmd 0x0403 20 [0xFE, 0x2F, 0, 0, 0, 0, 0, 0], (W.st 4 (W.cmd 0x0403 20 [0xFE, 0x2F, 0, 0, 0, 0, 0, 0])),
      (W.st 4 (W.cmd 0x0403 20 [0xFE, 0x2F, 0, 0, 0, 0, 0, 0])), by decide +kernel⟩

theorem test_SwitchCoreOpcodes_swcFdbWrite_holds :
    ∃ (ring slot : Nat) (c : Cmd) (s0 s : State) (w : Nat), (Admits (specOf opsSwc 0x0404) ring slot c s0 s = true) ∧
      (1 ≤ c.p 38 2 ∧ c.p 38 2 ≤ 4094) ∧ (c.p 40 4 < 2 ^ 21 ∧ unfittedOf s (c.p 40 4) = none ∧ (bitsOf (c.p 40 4)
      21).all (fun p => (s.aclEntry 4 c.issuer).mask.getLsbD p) = true) ∧ (((fdbWay s (c.p 38 2) (slice c.payload 0
      6)).or ((List.range 4).find? (fun w => (tget none s.swc.fdb (fdbBucket (c.p 38 2) (slice c.payload 0 6) * 4 +
      w)).isNone))) = some w) :=
    ⟨0, 0, W.cmd 0x0404 0 [0, 1, 2, 3, 4, 5, 0xFE, 0xF, 0xFF, 0xFF, 0x1F, 0], (W.st 4 (W.cmd 0x0404 0 [0, 1, 2, 3, 4,
      5, 0xFE, 0xF, 0xFF, 0xFF, 0x1F, 0])), (W.st 4 (W.cmd 0x0404 0 [0, 1, 2, 3, 4, 5, 0xFE, 0xF, 0xFF, 0xFF, 0x1F,
      0])), 0, by decide +kernel⟩

theorem test_SwitchCoreOpcodes_swcFdbDelete_holds :
    ∃ (ring slot : Nat) (c : Cmd) (s0 s : State) (w : Nat), (Admits (specOf opsSwc 0x0405) ring slot c s0 s = true) ∧
      (1 ≤ c.p 38 2 ∧ c.p 38 2 ≤ 4094) ∧ (fdbWay s (c.p 38 2) (slice c.payload 0 6) = some w) :=
    ⟨0, 0, W.cmd 0x0405 0 [0, 1, 2, 3, 4, 5, 1, 0], (let s := (W.st 4 (W.cmd 0x0405 0 [0, 1, 2, 3, 4, 5, 1, 0]));
      W.fdb s), (let s := (W.st 4 (W.cmd 0x0405 0 [0, 1, 2, 3, 4, 5, 1, 0])); W.fdb s), 3, by decide +kernel⟩

theorem test_SwitchCoreOpcodes_swcFdbRead_holds :
    ∃ (ring slot : Nat) (c : Cmd) (s0 s : State) (e : Fdb), (Admits (specOf opsSwc 0x0406) ring slot c s0 s = true) ∧
      (1 ≤ c.p 38 2 ∧ c.p 38 2 ≤ 4094) ∧ ((fdbWay s (c.p 38 2) (slice c.payload 0 6)).bind (fun w => tget none
      s.swc.fdb (fdbBucket (c.p 38 2) (slice c.payload 0 6) * 4 + w)) = some e) :=
    ⟨0, 0, W.cmd 0x0406 0 [0, 1, 2, 3, 4, 5, 1, 0], (let s := (W.st 4 (W.cmd 0x0406 0 [0, 1, 2, 3, 4, 5, 1, 0]));
      W.fdb s), (let s := (W.st 4 (W.cmd 0x0406 0 [0, 1, 2, 3, 4, 5, 1, 0])); W.fdb s), ⟨1, [0, 1, 2, 3, 4, 5], 5⟩,
      by decide +kernel⟩

theorem test_SwitchCoreOpcodes_swcVlanWrite_holds :
    ∃ (ring slot : Nat) (c : Cmd) (s0 s : State), (Admits (specOf opsSwc 0x0407) ring slot c s0 s = true) ∧ (1 ≤ c.p
      32 2 ∧ c.p 32 2 ≤ 4094 ∧ c.zero 34 2 = true) ∧ (∀ o ∈ [36, 40, 44], c.p o 4 < 2 ^ 21 ∧ unfittedOf s (c.p o 4) =
      none ∧ (bitsOf (c.p o 4) 21).all (fun p => (s.aclEntry 4 c.issuer).mask.getLsbD p) = true) :=
    ⟨0, 0, W.cmd 0x0407 0 [0xFE, 0xF, 0, 0, 0xFF, 0xFF, 0x1F, 0, 1, 0, 0, 0, 0xFF, 0xFF, 0x1F, 0], (W.st 4 (W.cmd
      0x0407 0 [0xFE, 0xF, 0, 0, 0xFF, 0xFF, 0x1F, 0, 1, 0, 0, 0, 0xFF, 0xFF, 0x1F, 0])), (W.st 4 (W.cmd 0x0407 0
      [0xFE, 0xF, 0, 0, 0xFF, 0xFF, 0x1F, 0, 1, 0, 0, 0, 0xFF, 0xFF, 0x1F, 0])), by decide +kernel⟩

theorem test_SwitchCoreOpcodes_swcFrerWrite_holds :
    ∃ (ring slot : Nat) (c : Cmd) (s0 s : State), (Admits (specOf opsSwc 0x0408) ring slot c s0 s = true) ∧ (fld (c.w
      32) 31 10 = 0 ∧ 2 ≤ fld (c.w 32) 9 4 ∧ fld (c.w 32) 9 4 ≤ 32) ∧ (1 ≤ c.p 36 4 ∧ c.p 36 4 ≤ 65535) :=
    ⟨0, 0, W.cmd 0x0408 4095 [0, 2, 0, 0, 0xFF, 0xFF, 0, 0], (W.st 4 (W.cmd 0x0408 4095 [0, 2, 0, 0, 0xFF, 0xFF, 0,
      0])), (W.st 4 (W.cmd 0x0408 4095 [0, 2, 0, 0, 0xFF, 0xFF, 0, 0])), by decide +kernel⟩

theorem test_SwitchCoreOpcodes_swcFrerCounters_holds :
    ∃ (ring slot : Nat) (c : Cmd) (s0 s : State), (Admits (specOf opsSwc 0x0409) ring slot c s0 s = true) :=
    ⟨0, 0, W.cmd 0x0409 4095 [], (W.st 4 (W.cmd 0x0409 4095 [])), (W.st 4 (W.cmd 0x0409 4095 [])), by decide +kernel⟩

theorem test_SwitchCoreOpcodes_swcPortCounters_holds :
    ∃ (ring slot : Nat) (c : Cmd) (s0 s : State), (Admits (specOf opsSwc 0x040A) ring slot c s0 s = true) :=
    ⟨0, 0, W.cmd 0x040A 20 [], (W.st 4 (W.cmd 0x040A 20 [])), (W.st 4 (W.cmd 0x040A 20 [])), by decide +kernel⟩

theorem test_SwitchCoreActsOnVerdicts_verdictAct_holds :
    ∃ (v : Verdict) (r : List Verdict) (f : Frame) (a : Asked) (s t : State), (s.up = true) ∧ (s.swc.verdicts = v ::
      r) ∧ (findFrame s v.frame = some f) ∧ (t = s.withSwc (fun w => { w with verdicts := r }) ∧ a = asked t f
      v.words) ∧ (bitOf (v.words.getD 2 0) 25 = true) ∧ ((frerRecover (frerOf s (fld (v.words.getD 2 0) 24 13)) f).1 =
      false) :=
    ⟨⟨0, [1, 0, 0x2000000, 0, 0, 0], none, 0, 0⟩, [], W.rframe, _, W.vact, _, by decide, rfl, by rfl, ⟨rfl, rfl⟩,
      by decide, by decide +kernel⟩

theorem test_SwitchCoreActsOnVerdicts_verdictAct_holds_2 :
    ∃ (v : Verdict) (r : List Verdict) (f : Frame) (a : Asked) (s t : State), (s.up = true) ∧ (s.swc.verdicts = v ::
      r) ∧ (findFrame s v.frame = some f) ∧ (t = s.withSwc (fun w => { w with verdicts := r }) ∧ a = asked t f
      v.words) ∧ (bitOf (v.words.getD 2 0) 25 = false ∧ bitOf (v.words.getD 2 0) 12 = false) :=
    ⟨⟨0, [1, 0, 0, 0, 0, 0], none, 0, 0⟩, [], W.rframe, _, W.vact1, _, by decide, rfl, by rfl, ⟨rfl, rfl⟩, by decide⟩

theorem test_SwitchCoreActsOnVerdicts_verdictAct_holds_3 :
    ∃ (v : Verdict) (r : List Verdict) (f : Frame) (a : Asked) (s t u : State), (s.up = true) ∧ (s.swc.verdicts = v ::
      r) ∧ (findFrame s v.frame = some f) ∧ (t = s.withSwc (fun w => { w with verdicts := r }) ∧ a = asked t f
      v.words) ∧ (u = countUnfitted f (a.fwd ||| a.mirror) (if a.action = 0 then t.cnt (rg 6 (0x1000 + fld
      (v.words.getD 1 0) 28 21 * 4)) 1 else t)) ∧ (bitOf (v.words.getD 2 0) 25 = false ∧ bitOf (v.words.getD 2 0) 12 =
      true) ∧ ((judge (fld (v.words.getD 2 0) 11 0) f u).1.colour = .red) :=
    ⟨⟨0, [1, 0, 0x1000, 0, 0, 0], none, 0, 0⟩, [], W.rframe, _, W.vact2, _, _, by decide, rfl, by rfl, ⟨rfl, rfl⟩,
      rfl, by decide, by decide +kernel⟩

theorem test_SwitchCoreActsOnVerdicts_verdictAct_holds_4 :
    ∃ (v : Verdict) (r : List Verdict) (f : Frame) (a : Asked) (s t u : State), (s.up = true) ∧ (s.swc.verdicts = v ::
      r) ∧ (findFrame s v.frame = some f) ∧ (t = s.withSwc (fun w => { w with verdicts := r }) ∧ a = asked t f
      v.words) ∧ (u = countUnfitted f (a.fwd ||| a.mirror) (if a.action = 0 then t.cnt (rg 6 (0x1000 + fld
      (v.words.getD 1 0) 28 21 * 4)) 1 else t)) ∧ (bitOf (v.words.getD 2 0) 25 = false ∧ bitOf (v.words.getD 2 0) 12 =
      true) ∧ ((judge (fld (v.words.getD 2 0) 11 0) f u).1.colour ≠ .red) :=
    ⟨⟨0, [1, 0, 0x1000, 0, 0, 0], none, 0, 0⟩, [], W.rframe, _, W.vact3, _, _, by decide, rfl, by rfl, ⟨rfl, rfl⟩,
      rfl, by decide, by decide +kernel⟩

theorem test_SwitchCoreActsOnVerdicts_verdictAct_holds_5 :
    ∃ (v : Verdict) (r : List Verdict) (f : Frame) (a : Asked) (x : Frer) (pop : Bool) (i : Nat) (s t u : State),
      (s.up = true) ∧ (s.swc.verdicts = v :: r) ∧ (findFrame s v.frame = some f) ∧ (t = s.withSwc (fun w =>
      { w with verdicts := r }) ∧ a = asked t f v.words ∧ i = fld (v.words.getD 2 0) 24 13) ∧ (u = countUnfitted f
      (a.fwd ||| a.mirror) (if a.action = 0 then t.cnt (rg 6 (0x1000 + fld (v.words.getD 1 0) 28 21 * 4)) 1 else t)) ∧
      (bitOf (v.words.getD 2 0) 25 = true ∧ bitOf (v.words.getD 2 0) 12 = false) ∧ (frerRecover (frerOf s i) f =
      (true, pop, x)) :=
    ⟨⟨0, [1, 0, 0x2000000, 0, 0, 0], none, 0, 0⟩, [], W.rframe, _, _, _, 0, W.vact4, _, _, by decide, rfl, by rfl,
      ⟨rfl, rfl, rfl⟩, rfl, by decide, by rfl⟩

theorem test_LanesFrerAndLinkDown_laneRelease_holds :
    ∃ (p stream : Nat) (c : Copy) (s : State), (s.up = true) ∧ ((lane s p stream).items.find? (fun i => i.1 == (lane s
      p stream).e) = some ((lane s p stream).e, some c)) :=
    ⟨20, 167, W.copy, setLane 20 167 ⟨65535, [(65535, some W.copy)]⟩ W.up, by decide +kernel⟩

theorem test_LanesFrerAndLinkDown_laneRelease_holds_2 :
    ∃ (p stream : Nat) (s : State), (s.up = true) ∧ ((lane s p stream).items.find? (fun i => i.1 == (lane s p
      stream).e) = some ((lane s p stream).e, none)) :=
    ⟨20, 167, setLane 20 167 ⟨65535, [(65535, none)]⟩ W.up, by decide +kernel⟩

theorem test_LanesFrerAndLinkDown_reseqTimeout_holds :
    ∃ (p stream d : Nat) (s : State), (s.up = true) ∧ ((lane s p stream).items.all (fun i => i.1 != (lane s p
      stream).e) = true) ∧ (((lane s p stream).items.map (fun i => ahead (lane s p stream).e i.1)).min? = some d) :=
    ⟨20, 167, 2, setLane 20 167 ⟨65535, [(1, none)]⟩ W.up, by decide +kernel⟩

theorem test_LanesFrerAndLinkDown_frerReset_holds :
    ∃ (stream : Nat) (s : State), (s.up = true) ∧ (stream < 4096 ∧ bitOf (frerOf s stream).word 1 = true ∧ (frerOf s
      stream).takeAny = false) :=
    ⟨4095, setFrer 4095 { Frer.zero with word := 2, takeAny := false } W.up, by decide +kernel⟩

theorem test_LanesFrerAndLinkDown_linkdownFlushWrite_holds :
    ∃ (m p : Nat) (v : Word) (s : State), (MayWrite s m 4 (.bit p) = true) ∧ (portFitted s.tier p = true) ∧
      (swcPortForm v = true) :=
    ⟨0x10, 20, 0x8FFE, W.adm 4, by decide +kernel⟩

theorem test_AddanRegisterInstructions_addG_holds :
    ∃ (c : Nat) (i : Addan) (f : Frame) (r : Run) (s : State), (AddanReady c 1 i f r s = true) :=
    ⟨63, ⟨1, 2, 3, false, 0, 0xFFFF⟩, W.frame, W.run, W.addan 1 2 3 0xFFFF, by decide +kernel⟩

theorem test_AddanRegisterInstructions_subG_holds :
    ∃ (c : Nat) (i : Addan) (f : Frame) (r : Run) (s : State), (AddanReady c 2 i f r s = true) :=
    ⟨63, ⟨2, 2, 3, false, 0, 1⟩, W.frame, W.run, W.addan 2 2 3 1, by decide +kernel⟩

theorem test_AddanRegisterInstructions_andG_holds :
    ∃ (c : Nat) (i : Addan) (f : Frame) (r : Run) (s : State), (AddanReady c 3 i f r s = true) :=
    ⟨63, ⟨3, 2, 3, false, 0, 1⟩, W.frame, W.run, W.addan 3 2 3 1, by decide +kernel⟩

theorem test_AddanRegisterInstructions_orG_holds :
    ∃ (c : Nat) (i : Addan) (f : Frame) (r : Run) (s : State), (AddanReady c 4 i f r s = true) :=
    ⟨63, ⟨4, 2, 3, false, 0, 1⟩, W.frame, W.run, W.addan 4 2 3 1, by decide +kernel⟩

theorem test_AddanRegisterInstructions_xorG_holds :
    ∃ (c : Nat) (i : Addan) (f : Frame) (r : Run) (s : State), (AddanReady c 5 i f r s = true) :=
    ⟨63, ⟨5, 2, 3, false, 0, 1⟩, W.frame, W.run, W.addan 5 2 3 1, by decide +kernel⟩

theorem test_AddanRegisterInstructions_shlG_holds :
    ∃ (c : Nat) (i : Addan) (f : Frame) (r : Run) (s : State), (AddanReady c 6 i f r s = true) :=
    ⟨63, ⟨6, 2, 3, false, 0, 32⟩, W.frame, W.run, W.addan 6 2 3 32, by decide +kernel⟩

theorem test_AddanRegisterInstructions_shrG_holds :
    ∃ (c : Nat) (i : Addan) (f : Frame) (r : Run) (s : State), (AddanReady c 7 i f r s = true) :=
    ⟨63, ⟨7, 2, 3, false, 0, 31⟩, W.frame, W.run, W.addan 7 2 3 31, by decide +kernel⟩

theorem test_AddanRegisterInstructions_movi_holds :
    ∃ (c : Nat) (i : Addan) (f : Frame) (r : Run) (s : State), (AddanReady c 8 i f r s = true) :=
    ⟨63, ⟨8, 15, 0, false, 0, 0xFFFF⟩, W.frame, W.run, W.addan 8 15 0 0xFFFF, by decide +kernel⟩

theorem test_AddanRegisterInstructions_movhi_holds :
    ∃ (c : Nat) (i : Addan) (f : Frame) (r : Run) (s : State), (AddanReady c 9 i f r s = true) :=
    ⟨63, ⟨9, 15, 0, false, 0, 0xFFFF⟩, W.frame, W.run, W.addan 9 15 0 0xFFFF, by decide +kernel⟩

theorem test_AddanRegisterInstructions_extG_holds :
    ∃ (c : Nat) (i : Addan) (f : Frame) (r : Run) (s : State), (AddanReady c 10 i f r s = true) :=
    ⟨63, ⟨10, 0, 1, false, 0, 1023⟩, W.frame, W.run, W.addan 10 0 1 1023, by decide +kernel⟩

theorem test_AddanRegisterInstructions_cmpG_holds :
    ∃ (c : Nat) (i : Addan) (f : Frame) (r : Run) (s : State), (AddanReady c 11 i f r s = true) :=
    ⟨63, ⟨11, 0, 1, false, 0, 5⟩, W.frame, W.run, W.addan 11 0 1 5, by decide +kernel⟩

theorem test_AddanRegisterInstructions_adv_holds :
    ∃ (c : Nat) (i : Addan) (f : Frame) (r : Run) (s : State), (AddanReady c 13 i f r s = true) :=
    ⟨63, ⟨13, 0, 0, false, 0, 0xFFFF⟩, W.frame, W.run, W.addan 13 0 0 0xFFFF, by decide +kernel⟩

theorem test_AddanRegisterInstructions_ldm_holds :
    ∃ (c : Nat) (i : Addan) (f : Frame) (r : Run) (s : State), (AddanReady c 14 i f r s = true) :=
    ⟨63, ⟨14, 0, 0, false, 0, 13⟩, W.frame, W.run, W.addan 14 0 0 13, by decide +kernel⟩

theorem test_AddanRegisterInstructions_stm_holds :
    ∃ (c : Nat) (i : Addan) (f : Frame) (r : Run) (s : State), (AddanReady c 15 i f r s = true) :=
    ⟨63, ⟨15, 0, 7, false, 0, 10⟩, W.frame, W.run, W.addan 15 0 7 10, by decide +kernel⟩

theorem test_AddanRegisterInstructions_putk_holds :
    ∃ (c : Nat) (i : Addan) (f : Frame) (r : Run) (s : State), (AddanReady c 16 i f r s = true) :=
    ⟨63, ⟨16, 0, 7, false, 0, 9⟩, W.frame, W.run, W.addan 16 0 7 9, by decide +kernel⟩

theorem test_AddanRegisterInstructions_brG_holds :
    ∃ (c : Nat) (i : Addan) (f : Frame) (r : Run) (s : State), (AddanReady c 24 i f r s = true) :=
    ⟨63, ⟨24, 0, 0, false, 0, 8191⟩, W.frame, W.run, W.addan 24 0 0 8191, by decide +kernel⟩

theorem test_AddanFrameLookupAndRecordInstructions_ldG_holds :
    ∃ (c : Nat) (i : Addan) (f : Frame) (r : Run) (s : State), (AddanReady c 12 i f r s = true) ∧ ((loadWindow f
      (r.cursor + (i.x r).toNat) (2 ^ i.a)).2 = false) :=
    ⟨63, ⟨12, 0, 2, false, 0, 60⟩, W.frame, W.run, W.addan 12 0 2 60, by decide +kernel⟩

theorem test_AddanFrameLookupAndRecordInstructions_ldG_holds_2 :
    ∃ (c : Nat) (i : Addan) (f : Frame) (r : Run) (s : State), (AddanReady c 12 i f r s = true) ∧ ((loadWindow f
      (r.cursor + (i.x r).toNat) (2 ^ i.a)).2 = true) :=
    ⟨63, ⟨12, 0, 2, false, 0, 61⟩, W.frame, W.run, W.addan 12 0 2 61, by decide +kernel⟩

theorem test_AddanFrameLookupAndRecordInstructions_lkf_holds :
    ∃ (c : Nat) (i : Addan) (f : Frame) (r : Run) (s : State), (AddanReady c 17 i f r s = true) :=
    ⟨63, ⟨17, 4, 0, false, 0, 0⟩, W.frame, W.run, W.addan 17 4 0 0, by decide +kernel⟩

theorem test_AddanFrameLookupAndRecordInstructions_lka_holds :
    ∃ (c : Nat) (i : Addan) (f : Frame) (r : Run) (s : State), (AddanReady c 18 i f r s = true) :=
    ⟨63, ⟨18, 4, 0, false, 0, 0⟩, W.frame, W.run, W.addan 18 4 0 0, by decide +kernel⟩

theorem test_AddanFrameLookupAndRecordInstructions_scan_holds :
    ∃ (c : Nat) (i : Addan) (f : Frame) (r : Run) (s : State), (AddanReady c 19 i f r s = true) :=
    ⟨63, ⟨19, 4, 0, false, 0, 63⟩, W.frame, W.run, W.addan 19 4 0 63, by decide +kernel⟩

theorem test_AddanFrameLookupAndRecordInstructions_vload_holds :
    ∃ (c : Nat) (i : Addan) (f : Frame) (r : Run) (e : VerdictEntry) (s : State), (AddanReady c 20 i f r s = true) ∧
      ((verdictLoad r.t.pour (fld (i.x r) 30 0) (engCount c 4 s)).1 = some e) :=
    ⟨63, ⟨20, 0, 0, false, 0, 9⟩, W.frame, W.run, ⟨[1], 1⟩, (W.addan 20 0 0 9).withRul (fun g =>
      { g with verdicts := [(9, some ⟨⟨[1], 1⟩, ⟨none, none⟩⟩)] }), by decide +kernel⟩

theorem test_AddanFrameLookupAndRecordInstructions_vload_holds_2 :
    ∃ (c : Nat) (i : Addan) (f : Frame) (r : Run) (s : State), (AddanReady c 20 i f r s = true) ∧ ((verdictLoad
      r.t.pour (fld (i.x r) 30 0) (engCount c 4 s)).1 = none) :=
    ⟨63, ⟨20, 0, 0, false, 0, 9⟩, W.frame, W.run, W.addan 20 0 0 9, by decide +kernel⟩

theorem test_AddanFrameLookupAndRecordInstructions_vset_holds :
    ∃ (c : Nat) (i : Addan) (f : Frame) (r : Run) (s : State), (AddanReady c 21 i f r s = true) :=
    ⟨63, ⟨21, 11, 0, false, 0, 1⟩, W.frame, W.run, W.addan 21 11 0 1, by decide +kernel⟩

theorem test_AddanFrameLookupAndRecordInstructions_cnt_holds :
    ∃ (c : Nat) (i : Addan) (f : Frame) (r : Run) (s : State), (AddanReady c 22 i f r s = true) :=
    ⟨63, ⟨22, 0, 0, false, 0, 255⟩, W.frame, W.run, W.addan 22 0 0 255, by decide +kernel⟩

theorem test_AddanFrameLookupAndRecordInstructions_doneG_holds :
    ∃ (c : Nat) (i : Addan) (f : Frame) (r : Run) (s : State), (AddanReady c 23 i f r s = true) :=
    ⟨63, ⟨23, 0, 0, false, 0, 0⟩, W.frame, W.run, W.addan 23 0 0 0, by decide +kernel⟩

theorem test_AddanFrameLookupAndRecordInstructions_lookupResult_holds :
    ∃ (c : Nat) (r : Run) (d : Nat) (w : Word) (rest : List Pend) (s : State), (s.up = true) ∧ ((ctxOf s c).run = some
      r) ∧ (r.pend = Pend.look d w :: rest) :=
    ⟨63, { W.run with pend := [Pend.look 4 9] }, 4, 9, [], W.ctx { W.run with pend := [Pend.look 4 9] },
      by decide +kernel⟩

theorem test_AddanFrameLookupAndRecordInstructions_scanResult_holds :
    ∃ (c : Nat) (x : Scan) (r : Run) (f : Frame) (d start group : Nat) (rest : List Pend) (s u : State), (s.up = true
      ∧ u = fillUnits 0 4 s) ∧ ((ctxOf u c).run = some r) ∧ (firstEnd (u.prs.units.filter (fun y => y.ctx == c)) =
      some x) ∧ (findFrame u r.t.frame = some f) ∧ (r.pend = Pend.scan d x.n start group :: rest) :=
    ⟨63, ⟨63, 0, 9, 9⟩, { W.run with pend := [Pend.scan 4 0 0 63] }, W.frame, 4, 0, 63, [], (W.ctx
      { W.run with pend := [Pend.scan 4 0 0 63] }).withPrs (fun p => { p with units := [⟨63, 0, 9, 9⟩] }), (W.ctx
      { W.run with pend := [Pend.scan 4 0 0 63] }).withPrs (fun p => { p with units := [⟨63, 0, 9, 9⟩] }),
      by decide +kernel⟩

theorem test_AddanFrameLookupAndRecordInstructions_scanResult_holds_2 :
    ∃ (c tile : Nat) (x : Scan) (r : Run) (f : Frame) (s u : State), (s.up = true ∧ u = fillUnits 0 4 s) ∧ ((ctxOf u
      c).run = some r) ∧ (firstEnd (u.prs.units.filter (fun y => y.ctx == c)) = some x) ∧ (findFrame u r.t.frame =
      some f) :=
    ⟨63, 2, ⟨63, 0, 9, 9⟩, { W.run with pend := [Pend.scan 4 0 0 63] }, W.frame, (W.ctx
      { W.run with pend := [Pend.scan 4 0 0 63] }).withPrs (fun p => { p with units := [⟨63, 0, 9, 9⟩] }), (W.ctx
      { W.run with pend := [Pend.scan 4 0 0 63] }).withPrs (fun p => { p with units := [⟨63, 0, 9, 9⟩] }),
      by decide +kernel⟩

theorem test_AddanStopsAndFrameTaking_watchdogStop_holds :
    ∃ (c : Nat) (r : Run) (s : State), (s.up = true) ∧ ((ctxOf s c).run = some r) ∧ (512 ≤ r.icount) :=
    ⟨63, { W.run with icount := 512 }, W.ctx { W.run with icount := 512 }, by decide +kernel⟩

theorem test_AddanStopsAndFrameTaking_watchdogStop_holds_2 :
    ∃ (c : Nat) (r : Run) (s : State), (s.up = true) ∧ ((ctxOf s c).run = some r) ∧ (r.icount < 512) ∧ (decodeAddan
      (instrWord s (r.t.bank.getD 0) r.pc) = none) :=
    ⟨63, W.run, W.ctx W.run, by decide +kernel⟩

theorem test_AddanStopsAndFrameTaking_addG_holds :
    ∃ (c : Nat) (r : Run) (s : State), (s.up = true) ∧ ((ctxOf s c).run = some r) ∧ (fld (instrWord s (r.t.bank.getD
      0) r.pc) 31 26 = 1) ∧ (512 ≤ r.icount) :=
    ⟨63, { W.run with icount := 512 }, W.addanR 1 0 0 0 { W.run with icount := 512 }, by decide +kernel⟩

theorem test_AddanStopsAndFrameTaking_addG_holds_2 :
    ∃ (c : Nat) (i : Addan) (f : Frame) (r : Run) (s : State), (s.up = true) ∧ ((ctxOf s c).run = some r) ∧ (fld
      (instrWord s (r.t.bank.getD 0) r.pc) 31 26 = 1 ∧ decodeAddan (instrWord s (r.t.bank.getD 0) r.pc) = some i) ∧
      (r.icount < 512) ∧ (findFrame s r.t.frame = some f) ∧ (r.stalls i = true) :=
    ⟨63, ⟨1, 4, 0, false, 0, 0⟩, W.frame, { W.run with pend := [Pend.look 4 9] }, W.addanR 1 4 0 0
      { W.run with pend := [Pend.look 4 9] }, by decide +kernel⟩

theorem test_AddanStopsAndFrameTaking_expressOver_holds :
    ∃ (c : Nat) (i : Addan) (r : Run) (s : State), (s.up = true) ∧ ((ctxOf s c).run = some r) ∧ (decodeAddan
      (instrWord s (r.t.bank.getD 0) r.pc) = some i) ∧ (r.icount < 512 ∧ exceeds r i = true ∧ r.overBudget = false ∧
      r.stalls i = false ∧ operandIllegal r i = false) ∧ (s.bit (rg 5 8) 1 = false) :=
    ⟨63, ⟨1, 0, 0, false, 0, 0⟩, W.xrun, (W.addanR 1 0 0 0 W.xrun).wr (rg 5 8) 0, by decide +kernel⟩

theorem test_AddanStopsAndFrameTaking_expressOver_holds_2 :
    ∃ (c : Nat) (i : Addan) (r : Run) (s : State), (s.up = true) ∧ ((ctxOf s c).run = some r) ∧ (decodeAddan
      (instrWord s (r.t.bank.getD 0) r.pc) = some i) ∧ (r.icount < 512 ∧ exceeds r i = true ∧ r.overBudget = false ∧
      r.stalls i = false ∧ operandIllegal r i = false) ∧ (s.bit (rg 5 8) 1 = true) :=
    ⟨63, ⟨1, 0, 0, false, 0, 0⟩, W.xrun, (W.addanR 1 0 0 0 W.xrun).wr (rg 5 8) 2, by decide +kernel⟩

theorem test_AddanStopsAndFrameTaking_frameTake_holds :
    ∃ (c p b : Nat) (bad : Bool) (f : Nat) (rest : List Nat) (s : State), (s.up = true) ∧ (c < 64 ∧ engineFitted
      s.tier (c / 8) = true) ∧ ((ctxOf s c).run = none) ∧ ((frameWaits s 1 = true) ∧ outChosen s c 1 = false) ∧
      (nextPort s 1 s.prs.rrExpress = some p ∧ fifoOf s p 1 = f :: rest) ∧ (activeBank s = some b) :=
    ⟨0, 20, 1, false, 0, [], (W.up.wr (rg 5 4) 3).withSwc (fun w =>
      { w with frames := [W.frame], fifo := [(41, [0])] }), by decide +kernel⟩

theorem test_AddanStopsAndFrameTaking_frameTake_holds_2 :
    ∃ (c p b : Nat) (bad : Bool) (f : Nat) (rest : List Nat) (s : State), (s.up = true) ∧ (c < 64 ∧ engineFitted
      s.tier (c / 8) = true) ∧ ((ctxOf s c).run = none) ∧ ((frameWaits s 1 = false ∧ frameWaits s 0 = true ∧ c % 8 ≠
      7) ∧ outChosen s c 0 = false) ∧ (nextPort s 0 s.prs.rrNormal = some p ∧ fifoOf s p 0 = f :: rest) ∧ (activeBank
      s = some b) :=
    ⟨0, 20, 1, false, 0, [], (W.up.wr (rg 5 4) 3).withSwc (fun w =>
      { w with frames := [W.frame], fifo := [(40, [0])] }), by decide +kernel⟩

theorem test_AddanStopsAndFrameTaking_frameTake_holds_3 :
    ∃ (c p b : Nat) (bad : Bool) (f : Nat) (r : Run) (rest : List Nat) (s : State), (s.up = true) ∧ (c < 64 ∧
      engineFitted s.tier (c / 8) = true) ∧ ((ctxOf s c).run = some r ∧ (ctxOf s c).next = none) ∧ ((frameWaits s 1 =
      false ∧ frameWaits s 0 = true ∧ c % 8 ≠ 7) ∧ outChosen s c 0 = false) ∧ (nextPort s 0 s.prs.rrNormal = some p ∧
      fifoOf s p 0 = f :: rest) ∧ (activeBank s = some b) :=
    ⟨0, 20, 1, false, 0, W.run, [], ((setCtx 0 ⟨some W.run, none⟩ W.up).wr (rg 5 4) 3).withSwc (fun w =>
      { w with frames := [W.frame], fifo := [(40, [0])] }), by decide +kernel⟩

theorem test_AddanStopsAndFrameTaking_frameTake_holds_4 :
    ∃ (c p : Nat) (bad : Bool) (f : Nat) (rest : List Nat) (s : State), (s.up = true) ∧ (c < 64 ∧ engineFitted s.tier
      (c / 8) = true) ∧ ((ctxOf s c).run = none) ∧ ((frameWaits s 1 = true) ∧ outChosen s c 1 = false) ∧ (nextPort s 1
      s.prs.rrExpress = some p ∧ fifoOf s p 1 = f :: rest) ∧ (activeBank s = none) :=
    ⟨0, 20, false, 0, [], (W.up.wr (rg 5 4) 0).withSwc (fun w => { w with frames := [W.frame], fifo := [(41, [0])] }),
      by decide +kernel⟩

theorem test_AddanStopsAndFrameTaking_frameTake_holds_5 :
    ∃ (c p : Nat) (bad : Bool) (f : Nat) (rest : List Nat) (s : State), (s.up = true) ∧ (c < 64 ∧ engineFitted s.tier
      (c / 8) = true) ∧ ((ctxOf s c).run = none) ∧ ((frameWaits s 1 = false ∧ frameWaits s 0 = true ∧ c % 8 ≠ 7) ∧
      outChosen s c 0 = false) ∧ (nextPort s 0 s.prs.rrNormal = some p ∧ fifoOf s p 0 = f :: rest) ∧ (activeBank s =
      none) :=
    ⟨0, 20, false, 0, [], (W.up.wr (rg 5 4) 0).withSwc (fun w => { w with frames := [W.frame], fifo := [(40, [0])] }),
      by decide +kernel⟩

theorem test_AddanStopsAndFrameTaking_frameTake_holds_6 :
    ∃ (c d k : Nat) (bad : Bool) (s : State), (s.up = true) ∧ (d < c ∧ takesFrom s d = some k ∧ takesFrom s c = some
      k) :=
    ⟨63, 0, 1, false, (W.up.wr (rg 5 4) 3).withSwc (fun w => { w with frames := [W.frame], fifo := [(41, [0])] }),
      by decide +kernel⟩

theorem test_ParseEngineOpcodes_prsProgLoad_holds :
    ∃ (ring slot : Nat) (c : Cmd) (s0 s : State), (Admits (specOf opsPrs 0x0500) ring slot c s0 s = true) ∧ (1 ≤ c.p
      36 4 ∧ c.p 32 4 + c.p 36 4 ≤ 8192 ∧ c.len = 8 + 4 * c.p 36 4) ∧ (activeBank s ≠ some c.inst ∧ bankBusy s c.inst
      = false) :=
    ⟨0, 0, W.cmd 0x0500 1 [0xFF, 0x1F, 0, 0, 1, 0, 0, 0, 0, 0, 0, 0x5C], (W.st 5 (W.cmd 0x0500 1 [0xFF, 0x1F, 0, 0, 1,
      0, 0, 0, 0, 0, 0, 0x5C])), (W.st 5 (W.cmd 0x0500 1 [0xFF, 0x1F, 0, 0, 1, 0, 0, 0, 0, 0, 0, 0x5C])),
      by decide +kernel⟩

theorem test_ParseEngineOpcodes_prsProgRead_holds :
    ∃ (ring slot : Nat) (c : Cmd) (s0 s : State), (Admits (specOf opsPrs 0x0502) ring slot c s0 s = true) ∧ (1 ≤ c.p
      36 4 ∧ c.p 32 4 + c.p 36 4 ≤ 8192) :=
    ⟨0, 0, W.cmd 0x0502 1 [0xFF, 0x1F, 0, 0, 1, 0, 0, 0], (W.st 5 (W.cmd 0x0502 1 [0xFF, 0x1F, 0, 0, 1, 0, 0, 0])),
      (W.st 5 (W.cmd 0x0502 1 [0xFF, 0x1F, 0, 0, 1, 0, 0, 0])), by decide +kernel⟩

theorem test_ParseEngineOpcodes_prsSetCfg_holds :
    ∃ (ring slot : Nat) (c : Cmd) (s0 s : State), (Admits (specOf opsPrs 0x0503) ring slot c s0 s = true) ∧ (c.p 32 4
      < 4) :=
    ⟨0, 0, W.cmd 0x0503 0 [3, 0, 0, 0], (W.st 5 (W.cmd 0x0503 0 [3, 0, 0, 0])), (W.st 5 (W.cmd 0x0503 0 [3, 0, 0,
      0])), by decide +kernel⟩

theorem test_ParseEngineOpcodes_prsCounters_holds :
    ∃ (ring slot : Nat) (c : Cmd) (s0 s : State), (Admits (specOf opsPrs 0x0504) ring slot c s0 s = true) :=
    ⟨0, 0, W.cmd 0x0504 7 [], (W.st 5 (W.cmd 0x0504 7 [])), (W.st 5 (W.cmd 0x0504 7 [])), by decide +kernel⟩

theorem test_ParseEngineOpcodes_prsCounters_holds_2 :
    ∃ (l : List Nat) (s : State), (l.Nodup) :=
    ⟨[1, 2], W.up, by decide +kernel⟩

theorem test_PourOpcodes_rulPourOpen_holds :
    ∃ (ring slot : Nat) (c : Cmd) (s0 s : State), (Admits (specOf opsRul 0x0600) ring slot c s0 s = true) ∧
      (s.rul.staged = none) :=
    ⟨0, 0, W.cmd 0x0600 5 [], (W.st 6 (W.cmd 0x0600 5 [])), (W.st 6 (W.cmd 0x0600 5 [])), by decide +kernel⟩

theorem test_PourOpcodes_rulPourOpen_holds_2 :
    ∃ (ring slot : Nat) (c : Cmd) (s0 s : State) (x : Staging), (Admits (specOf opsRul 0x0600) ring slot c s0 s =
      true) ∧ (s.rul.staged = some x) :=
    ⟨0, 0, W.cmd 0x0600 5 [], (let s := (W.st 6 (W.cmd 0x0600 5 [])); W.staged s), (let s := (W.st 6 (W.cmd 0x0600 5
      [])); W.staged s), ⟨1, 0x10, [], false⟩, by decide +kernel⟩

theorem test_PourOpcodes_rulPourCommit_holds :
    ∃ (ring slot : Nat) (c : Cmd) (s0 s : State) (x : Staging) (n : Nat), (Admits (specOf opsRul 0x0601) ring slot c
      s0 s = true) ∧ (s.rul.staged = some x ∧ x.committing = false ∧ x.owner = c.issuer) ∧ (changesWait s = false) ∧
      (freeSlot s = some n) :=
    ⟨0, 0, W.cmd 0x0601 5 [], (let s := (W.st 6 (W.cmd 0x0601 5 [])); W.staged s), (let s := (W.st 6 (W.cmd 0x0601 5
      [])); W.staged s), ⟨1, 0x10, [], false⟩, 0, by decide +kernel⟩

theorem test_PourOpcodes_rulPourCommit_holds_2 :
    ∃ (ring slot : Nat) (c : Cmd) (s0 s : State) (x : Staging), (Admits (specOf opsRul 0x0601) ring slot c s0 s =
      true) ∧ (s.rul.staged = some x ∧ x.committing = false ∧ x.owner = c.issuer) ∧ (changesWait s = false) ∧
      (freeSlot s = none) :=
    ⟨0, 0, W.cmd 0x0601 5 [], (let s := (W.st 6 (W.cmd 0x0601 5 [])); (W.staged s).withRul (fun r =>
      { r with live := [(0, 2), (1, 3), (2, 4), (3, 5)] })), (let s := (W.st 6 (W.cmd 0x0601 5 [])); (W.staged
      s).withRul (fun r => { r with live := [(0, 2), (1, 3), (2, 4), (3, 5)] })), ⟨1, 0x10, [], false⟩,
      by decide +kernel⟩

theorem test_PourOpcodes_rulPourAbandon_holds :
    ∃ (ring slot : Nat) (c : Cmd) (s0 s : State) (x : Staging), (Admits (specOf opsRul 0x0602) ring slot c s0 s =
      true) ∧ (s.rul.staged = some x) ∧ (x.owner = c.issuer ∨ bitOf (s.aclEntry 6 c.issuer).rights 4 = true) ∧
      (changesWait s = false) :=
    ⟨0, 0, W.cmd 0x0602 5 [], (let s := (W.st 6 (W.cmd 0x0602 5 [])); W.staged s), (let s := (W.st 6 (W.cmd 0x0602 5
      [])); W.staged s), ⟨1, 0x10, [], false⟩, by decide +kernel⟩

theorem test_PourOpcodes_rulPourStatus_holds :
    ∃ (ring slot : Nat) (c : Cmd) (s0 s : State), (Admits (specOf opsRul 0x0603) ring slot c s0 s = true) :=
    ⟨0, 0, W.cmd 0x0603 5 [], (W.st 6 (W.cmd 0x0603 5 [])), (W.st 6 (W.cmd 0x0603 5 [])), by decide +kernel⟩

theorem test_PourOpcodes_rulCounters_holds :
    ∃ (ring slot : Nat) (c : Cmd) (s0 s : State), (Admits (specOf opsRul 0x0610) ring slot c s0 s = true) :=
    ⟨0, 0, W.cmd 0x0610 5 [], (W.st 6 (W.cmd 0x0610 5 [])), (W.st 6 (W.cmd 0x0610 5 [])), by decide +kernel⟩

theorem test_PourOpcodes_pourRetire_holds :
    ∃ (slot p : Nat) (y : Nat × Nat) (r : List (Nat × Nat)) (s : State), (s.up = true) ∧ (s.rul.live = (slot, p) :: y
      :: r) ∧ (holders s slot = 0) :=
    ⟨3, 4, (0, 5), [], W.up.withRul (fun r => { r with live := [(3, 4), (0, 5)] }), by decide +kernel⟩

theorem test_PourOpcodes_logSweep_holds :
    ∃ (p : Nat) (s : State), (s.up = true) ∧ (sweepable s = some p) :=
    ⟨4, W.up.withRul (fun r => { r with logs := [(4, [])] }), by decide +kernel⟩

theorem test_RuleTableChanges_rulFlowAdd_holds :
    ∃ (ring slot : Nat) (c : Cmd) (s0 s : State) (x : Staging) (k w : Nat), (Admits (specOf opsRul 0x0604) ring slot c
      s0 s = true) ∧ (layoutK s (keyLayout (payKey c)) = k ∧ k ≠ 0 ∧ (List.range 10).find? (fun i => decide (k ≤ i) &&
      (payKey c).getD i 0 != 0) = none ∧ bitOf (c.w 72) 31 = false) ∧ (s.rul.staged = some x ∧ x.committing = false ∧
      x.owner = c.issuer ∧ x.log.length + keptLog s < 16384) ∧ (keyWays s (payKey c) (flowBucket (payKey c) k) = []) ∧
      ((List.range 4).find? (fun w => (flowWay s (flowBucket (payKey c) k) w).isNone) = some w) :=
    ⟨0, 0, W.cmd 0x0604 0 ([0, 15] ++ List.replicate 42 1), (let s := (W.st 6 (W.cmd 0x0604 0 ([0, 15] ++
      List.replicate 42 1))); (W.staged s).wr (rg 6 0x24) 0xA0000000), (let s := (W.st 6 (W.cmd 0x0604 0 ([0, 15] ++
      List.replicate 42 1))); (W.staged s).wr (rg 6 0x24) 0xA0000000), ⟨1, 0x10, [], false⟩, 10, 0, by decide +kernel⟩

theorem test_RuleTableChanges_rulFlowDelete_holds :
    ∃ (ring slot : Nat) (c : Cmd) (s0 s : State) (x : Staging) (k w : Nat) (e : Entry Flow) (t : State), (Admits
      (specOf opsRul 0x0605) ring slot c s0 s = true) ∧ (layoutK s (keyLayout (payKey c)) = k ∧ k ≠ 0 ∧ (List.range
      10).find? (fun i => decide (k ≤ i) && (payKey c).getD i 0 != 0) = none) ∧ (s.rul.staged = some x ∧ x.committing
      = false ∧ x.owner = c.issuer) ∧ (((keyWays s (payKey c) (flowBucket (payKey c) k)).find? (fun e =>
      e.2.marks.birth == some x.pour)).or ((keyWays s (payKey c) (flowBucket (payKey c) k)).find? (fun e => visibleNow
      s e.2 && e.2.marks.death.isNone)) = some (w, e)) ∧ (entryDelete c 0 (flowBucket (payKey c) k * 4 + w)
      (flowBucket (payKey c) k) (some e) x s (putFlow (flowBucket (payKey c) k) w) = .done t) :=
    ⟨0, 0, W.cmd 0x0605 0 W.flowKey, (let s := (W.st 6 (W.cmd 0x0605 0 W.flowKey)); W.flowIn s), (let s := (W.st 6
      (W.cmd 0x0605 0 W.flowKey)); W.flowIn s), ⟨1, 0x10, [], false⟩, 10, 3, ⟨⟨W.flowKeyWords, 7⟩, ⟨some 1, none⟩⟩, _,
      by decide +kernel, by decide +kernel, by decide +kernel, by decide +kernel, rfl⟩

theorem test_RuleTableChanges_rulFlowRead_holds :
    ∃ (ring slot : Nat) (c : Cmd) (s0 s : State) (k w : Nat) (e : Entry Flow), (Admits (specOf opsRul 0x0606) ring
      slot c s0 s = true) ∧ (layoutK s (keyLayout (payKey c)) = k ∧ k ≠ 0 ∧ (List.range 10).find? (fun i => decide (k
      ≤ i) && (payKey c).getD i 0 != 0) = none ∧ c.zero 74 2 = true) ∧ ((s.rul.live.any (fun e => e.2 == c.p 72 2) ||
      s.rul.staged.any (fun x => x.pour == c.p 72 2)) = true) ∧ ((keyWays s (payKey c) (flowBucket (payKey c)
      k)).find? (fun e => e.2.marks.visible (c.p 72 2)) = some (w, e)) :=
    ⟨0, 0, W.cmd 0x0606 0 (W.flowKey ++ [1, 0, 0, 0]), (let s := (W.st 6 (W.cmd 0x0606 0 (W.flowKey ++ [1, 0, 0,
      0]))); W.flowIn s), (let s := (W.st 6 (W.cmd 0x0606 0 (W.flowKey ++ [1, 0, 0, 0]))); W.flowIn s), 10, 3,
      ⟨⟨W.flowKeyWords, 7⟩, ⟨some 1, none⟩⟩, by decide +kernel⟩

theorem test_RuleTableChanges_rulSetLayout_holds :
    ∃ (ring slot : Nat) (c : Cmd) (s0 s : State), (Admits (specOf opsRul 0x060F) ring slot c s0 s = true) ∧ (c.zero 34
      2 = true ∧ 1 ≤ c.p 32 1 ∧ c.p 32 1 ≤ 15 ∧ c.p 33 1 ≤ 10) ∧ (layoutUsed s (c.p 32 1) = false) :=
    ⟨0, 0, W.cmd 0x060F 0 [15, 10, 0, 0], (W.st 6 (W.cmd 0x060F 0 [15, 10, 0, 0])), (W.st 6 (W.cmd 0x060F 0 [15, 10,
      0, 0])), by decide +kernel⟩

theorem test_RuleTableChanges_rulAclWrite_holds :
    ∃ (ring slot : Nat) (c : Cmd) (s0 s : State) (x : Staging) (t : State), (Admits (specOf opsRul 0x0607) ring slot c
      s0 s = true) ∧ (c.p 32 4 < 8192 ∧ pay320 c 36 &&& pay320 c 76 = pay320 c 36) ∧ (s.rul.staged = some x ∧
      x.committing = false ∧ x.owner = c.issuer) ∧ (indexWrite c 1 (c.p 32 4) (tget none s.rul.acl (c.p 32 4)) ⟨pay320
      c 36, pay320 c 76, c.w 116⟩ x s (fun e => putAcl (c.p 32 4) (some e)) = .done t) :=
    ⟨0, 0, W.cmd 0x0607 1 ([0xFF, 0x1F, 0, 0] ++ List.replicate 84 1), (let s := (W.st 6 (W.cmd 0x0607 1 ([0xFF, 0x1F,
      0, 0] ++ List.replicate 84 1))); W.staged s), (let s := (W.st 6 (W.cmd 0x0607 1 ([0xFF, 0x1F, 0, 0] ++
      List.replicate 84 1))); W.staged s), ⟨1, 0x10, [], false⟩, _, by decide +kernel, by decide +kernel,
      by decide +kernel, rfl⟩

theorem test_RuleTableChanges_rulPatternWrite_holds :
    ∃ (ring slot : Nat) (c : Cmd) (s0 s : State) (x : Staging) (v : Pattern) (t : State), (Admits (specOf opsRul
      0x0609) ring slot c s0 s = true) ∧ (c.p 32 4 < 4096 ∧ c.p 38 1 ≤ 1 ∧ c.zero 39 1 = true) ∧ (v = ⟨c.p 36 1, c.p
      37 1, slice c.payload 16 64, c.p 40 8, (c.p 38 1).testBit 0⟩ ∧ patternForm v = true) ∧ (s.rul.staged = some x ∧
      x.committing = false ∧ x.owner = c.issuer) ∧ (indexWrite c 2 (c.p 32 4) (tget none s.rul.pats (c.p 32 4)) v x s
      (fun e => putPat (c.p 32 4) (some e)) = .done t) :=
    ⟨0, 0, W.cmd 0x0609 2 ([0xFF, 0xF, 0, 0, 63, 64, 1, 0] ++ List.replicate 72 0xFF), (let s := (W.st 6 (W.cmd 0x0609
      2 ([0xFF, 0xF, 0, 0, 63, 64, 1, 0] ++ List.replicate 72 0xFF))); W.staged s), (let s := (W.st 6 (W.cmd 0x0609 2
      ([0xFF, 0xF, 0, 0, 63, 64, 1, 0] ++ List.replicate 72 0xFF))); W.staged s), ⟨1, 0x10, [], false⟩, ⟨63, 64,
      List.replicate 64 0xFF, 0xFFFFFFFFFFFFFFFF, true⟩, _, by decide +kernel, by decide +kernel, by decide +kernel,
      by decide +kernel, rfl⟩

theorem test_RuleTableChanges_rulVerdictWrite_holds :
    ∃ (ring slot : Nat) (c : Cmd) (s0 s : State) (x : Staging) (ws : List Word) (t : State), (Admits (specOf opsRul
      0x060B) ring slot c s0 s = true) ∧ (c.p 32 4 < 65536 ∧ ws = (List.range 7).map (fun j => c.w (36 + 4 * j)) ∧
      (List.range 7).find? (fun j => ws.getD j 0 &&& recReserved.getD j 0 != 0) = none) ∧ ((c.p 60 4).testBit 0 = true
      → fld (ws.getD 0 0) 3 0 ≤ 4) ∧ ((c.p 60 4).testBit 6 = true → bitOf (ws.getD 3 0) 12 = true → 1 ≤ fld (ws.getD 3
      0) 11 0 ∧ fld (ws.getD 3 0) 11 0 ≤ 4094) ∧ ((c.p 60 4).testBit 1 = true → unfittedOf s (fld (ws.getD 0 0) 28 8)
      = none) ∧ ((c.p 60 4).testBit 3 = true → unfittedOf s (fld (ws.getD 1 0) 20 0) = none) ∧ (s.rul.staged = some x
      ∧ x.committing = false ∧ x.owner = c.issuer) ∧ (indexWrite c 3 (c.p 32 4) (tget none s.rul.verdicts (c.p 32 4))
      ⟨ws.take 6, c.p 60 4⟩ x s (fun e => putVerdict (c.p 32 4) (some e)) = .done t) :=
    ⟨0, 0, W.cmd 0x060B 3 [0xFF, 0xFF, 0, 0, 4, 0xFF, 0xFF, 0x1F, 0xFF, 0xFF, 0x1F, 0, 0, 0, 0, 0, 0xFE, 0x1F, 0, 0,
      0, 0, 0, 0, 0, 0, 0, 0, 0xFF, 0xF, 0, 0], (let s := (W.st 6 (W.cmd 0x060B 3 [0xFF, 0xFF, 0, 0, 4, 0xFF, 0xFF,
      0x1F, 0xFF, 0xFF, 0x1F, 0, 0, 0, 0, 0, 0xFE, 0x1F, 0, 0, 0, 0, 0, 0, 0, 0, 0, 0, 0xFF, 0xF, 0, 0])); W.staged
      s), (let s := (W.st 6 (W.cmd 0x060B 3 [0xFF, 0xFF, 0, 0, 4, 0xFF, 0xFF, 0x1F, 0xFF, 0xFF, 0x1F, 0, 0, 0, 0, 0,
      0xFE, 0x1F, 0, 0, 0, 0, 0, 0, 0, 0, 0, 0, 0xFF, 0xF, 0, 0])); W.staged s), ⟨1, 0x10, [], false⟩, _, _,
      by decide +kernel, ⟨by decide, rfl, by decide +kernel⟩, by decide +kernel, by decide +kernel, by decide +kernel,
      by decide +kernel, by decide +kernel, rfl⟩

theorem test_RuleTableChanges_rulRewriteWrite_holds :
    ∃ (ring slot : Nat) (c : Cmd) (s0 s : State) (x : Staging) (t : State), (Admits (specOf opsRul 0x060D) ring slot c
      s0 s = true) ∧ (c.p 32 4 < 8192 ∧ rewriteForm (slice c.payload 4 16) = true) ∧ (s.rul.staged = some x ∧
      x.committing = false ∧ x.owner = c.issuer) ∧ (indexWrite c 4 (c.p 32 4) (tget none s.rul.rewrites (c.p 32 4))
      (slice c.payload 4 16) x s (fun e => putRewrite (c.p 32 4) (some e)) = .done t) :=
    ⟨0, 0, W.cmd 0x060D 4 [0xFF, 0x1F, 0, 0, 1, 1, 1, 1, 1, 1, 1, 1, 1, 1, 1, 1, 15, 63, 7, 0], (let s := (W.st 6
      (W.cmd 0x060D 4 [0xFF, 0x1F, 0, 0, 1, 1, 1, 1, 1, 1, 1, 1, 1, 1, 1, 1, 15, 63, 7, 0])); W.staged s), (let s :=
      (W.st 6 (W.cmd 0x060D 4 [0xFF, 0x1F, 0, 0, 1, 1, 1, 1, 1, 1, 1, 1, 1, 1, 1, 1, 15, 63, 7, 0])); W.staged s), ⟨1,
      0x10, [], false⟩, _, by decide +kernel, by decide +kernel, by decide +kernel, rfl⟩

theorem test_RuleTableChanges_rulAclDelete_holds :
    ∃ (ring slot : Nat) (c : Cmd) (s0 s : State) (x : Staging) (t : State), (Admits (specOf opsRul 0x0608) ring slot c
      s0 s = true) ∧ (c.p 32 4 < 8192) ∧ (s.rul.staged = some x ∧ x.committing = false ∧ x.owner = c.issuer) ∧
      (entryDelete c 1 (c.p 32 4) (c.p 32 4) (tget none s.rul.acl (c.p 32 4)) x s (putAcl (c.p 32 4)) = .done t) :=
    ⟨0, 0, W.cmd 0x0608 1 [0xFF, 0x1F, 0, 0], (let s := (W.st 6 (W.cmd 0x0608 1 [0xFF, 0x1F, 0, 0])); W.stagedAll s),
      (let s := (W.st 6 (W.cmd 0x0608 1 [0xFF, 0x1F, 0, 0])); W.stagedAll s), ⟨1, 0x10, [], false⟩, _,
      by decide +kernel, by decide +kernel, by decide +kernel, rfl⟩

theorem test_RuleTableChanges_rulPatternDelete_holds :
    ∃ (ring slot : Nat) (c : Cmd) (s0 s : State) (x : Staging) (t : State), (Admits (specOf opsRul 0x060A) ring slot c
      s0 s = true) ∧ (c.p 32 4 < 4096) ∧ (s.rul.staged = some x ∧ x.committing = false ∧ x.owner = c.issuer) ∧
      (entryDelete c 2 (c.p 32 4) (c.p 32 4) (tget none s.rul.pats (c.p 32 4)) x s (putPat (c.p 32 4)) = .done t) :=
    ⟨0, 0, W.cmd 0x060A 2 [0xFF, 0xF, 0, 0], (let s := (W.st 6 (W.cmd 0x060A 2 [0xFF, 0xF, 0, 0])); W.stagedAll s),
      (let s := (W.st 6 (W.cmd 0x060A 2 [0xFF, 0xF, 0, 0])); W.stagedAll s), ⟨1, 0x10, [], false⟩, _,
      by decide +kernel, by decide +kernel, by decide +kernel, rfl⟩

theorem test_RuleTableChanges_rulVerdictDelete_holds :
    ∃ (ring slot : Nat) (c : Cmd) (s0 s : State) (x : Staging) (t : State), (Admits (specOf opsRul 0x060C) ring slot c
      s0 s = true) ∧ (c.p 32 4 < 65536) ∧ (s.rul.staged = some x ∧ x.committing = false ∧ x.owner = c.issuer) ∧
      (entryDelete c 3 (c.p 32 4) (c.p 32 4) (tget none s.rul.verdicts (c.p 32 4)) x s (putVerdict (c.p 32 4)) = .done
      t) :=
    ⟨0, 0, W.cmd 0x060C 3 [0xFF, 0xFF, 0, 0], (let s := (W.st 6 (W.cmd 0x060C 3 [0xFF, 0xFF, 0, 0])); W.stagedAll s),
      (let s := (W.st 6 (W.cmd 0x060C 3 [0xFF, 0xFF, 0, 0])); W.stagedAll s), ⟨1, 0x10, [], false⟩, _,
      by decide +kernel, by decide +kernel, by decide +kernel, rfl⟩

theorem test_RuleTableChanges_rulRewriteDelete_holds :
    ∃ (ring slot : Nat) (c : Cmd) (s0 s : State) (x : Staging) (t : State), (Admits (specOf opsRul 0x060E) ring slot c
      s0 s = true) ∧ (c.p 32 4 < 8192) ∧ (s.rul.staged = some x ∧ x.committing = false ∧ x.owner = c.issuer) ∧
      (entryDelete c 4 (c.p 32 4) (c.p 32 4) (tget none s.rul.rewrites (c.p 32 4)) x s (putRewrite (c.p 32 4)) = .done
      t) :=
    ⟨0, 0, W.cmd 0x060E 4 [0xFF, 0x1F, 0, 0], (let s := (W.st 6 (W.cmd 0x060E 4 [0xFF, 0x1F, 0, 0])); W.stagedAll s),
      (let s := (W.st 6 (W.cmd 0x060E 4 [0xFF, 0x1F, 0, 0])); W.stagedAll s), ⟨1, 0x10, [], false⟩, _,
      by decide +kernel, by decide +kernel, by decide +kernel, rfl⟩

theorem test_StagedChangesMarkEntries_rulAclWrite_holds :
    ∃ (α : Type) (c : Cmd) (table i : Nat) (v : α) (x : Staging) (s : State) (put : Entry α → State → State),
      (x.log.length + keptLog s < 16384) :=
    ⟨Nat, W.cmd 0x607 1 [], 1, 2, 3, ⟨1, 0x10, [], false⟩, W.up, fun _ t => t, by decide +kernel⟩

theorem test_StagedChangesMarkEntries_rulAclWrite_holds_2 :
    ∃ (α : Type) (c : Cmd) (table i : Nat) (v : α) (e : Entry α) (x : Staging) (s : State) (put : Entry α → State →
      State), (e.marks.birth = some x.pour) :=
    ⟨Nat, W.cmd 0x607 1 [], 1, 2, 3, ⟨4, ⟨some 1, none⟩⟩, ⟨1, 0x10, [], false⟩, W.up, fun _ t => t, by decide +kernel⟩

theorem test_StagedChangesMarkEntries_rulAclWrite_holds_3 :
    ∃ (α : Type) (c : Cmd) (table i d : Nat) (v : α) (e : Entry α) (x : Staging) (s : State) (put : Entry α → State →
      State), (e.marks.birth ≠ some x.pour ∧ e.marks.death = some d ∧ d ≠ x.pour) ∧ (c.running = false ∧ x.log.length
      + keptLog s < 16384) :=
    ⟨Nat, W.cmd 0x607 1 [], 1, 2, 0, 3, ⟨4, ⟨none, some 0⟩⟩, ⟨1, 0x10, [], false⟩, W.up, fun _ t => t,
      by decide +kernel⟩

theorem test_StagedChangesMarkEntries_rulAclDelete_holds :
    ∃ (α : Type) (c : Cmd) (table key name : Nat) (e : Entry α) (x : Staging) (s : State) (put : Option (Entry α) →
      State → State), (e.marks.birth = some x.pour) :=
    ⟨Nat, W.cmd 0x608 1 [], 1, 2, 3, ⟨4, ⟨some 1, none⟩⟩, ⟨1, 0x10, [], false⟩, W.up, fun _ t => t, by decide +kernel⟩

theorem test_StagedChangesMarkEntries_rulAclDelete_holds_2 :
    ∃ (α : Type) (c : Cmd) (table key name : Nat) (e : Entry α) (x : Staging) (s : State) (put : Option (Entry α) →
      State → State), (e.marks.birth ≠ some x.pour) ∧ (visibleNow s e = true ∧ e.marks.death = none) ∧ (x.log.length +
      keptLog s < 16384) :=
    ⟨Nat, W.cmd 0x608 1 [], 1, 2, 3, ⟨4, ⟨none, none⟩⟩, ⟨2, 0x10, [], false⟩, W.up.withRul (fun r =>
      { r with live := [(0, 1)] }), fun _ t => t, by decide +kernel⟩

theorem test_TrafficManagerOpcodes_tmgSetPort_holds :
    ∃ (ring slot : Nat) (c : Cmd) (s0 s : State), (Admits (specOf opsTmg 0x0700) ring slot c s0 s = true) ∧ (fld (c.w
      32) 15 15 = 0 ∧ fld (c.w 32) 31 24 = 0 ∧ tmgPortForm c.inst (c.w 32) = true ∧ c.p 36 4 ≤ 1000000) :=
    ⟨0, 0, W.cmd 0x0700 13 [0xE0, 0x7D, 128, 0, 0x40, 0x42, 0xF, 0], (W.st 7 (W.cmd 0x0700 13 [0xE0, 0x7D, 128, 0,
      0x40, 0x42, 0xF, 0])), (W.st 7 (W.cmd 0x0700 13 [0xE0, 0x7D, 128, 0, 0x40, 0x42, 0xF, 0])), by decide +kernel⟩

theorem test_TrafficManagerOpcodes_tmgCoursesLoad_holds :
    ∃ (ring slot : Nat) (c : Cmd) (s0 s : State), (Admits (specOf opsTmg 0x0701) ring slot c s0 s = true) ∧ (c.p 32 1
      ≤ 1 ∧ c.zero 33 3 = true ∧ c.len = 8 + 8 * c.p 36 4) ∧ (badEntry (fun e => fld e.1 31 10 == 0 && fld e.1 9 8 !=
      3) (payEntries c 40 (c.p 36 4)) = none) ∧ (1000 ≤ ((payEntries c 40 (c.p 36 4)).map (fun e => e.2.toNat)).sum ∧
      ((payEntries c 40 (c.p 36 4)).map (fun e => e.2.toNat)).sum ≤ 1000000000) ∧ ((inForce s c.inst).map InForce.bank
      ≠ some (c.p 32 1) ∧ (pendingSwitch s c.inst).bind Switch.bank ≠ some (c.p 32 1)) :=
    ⟨0, 0, W.cmd 0x0701 20 [1, 0, 0, 0, 2, 0, 0, 0, 0xFF, 2, 0, 0, 8, 0, 0, 0, 0, 1, 0, 0, 0xE0, 3, 0, 0], (W.st 7
      (W.cmd 0x0701 20 [1, 0, 0, 0, 2, 0, 0, 0, 0xFF, 2, 0, 0, 8, 0, 0, 0, 0, 1, 0, 0, 0xE0, 3, 0, 0])), (W.st 7
      (W.cmd 0x0701 20 [1, 0, 0, 0, 2, 0, 0, 0, 0xFF, 2, 0, 0, 8, 0, 0, 0, 0, 1, 0, 0, 0xE0, 3, 0, 0])),
      by decide +kernel⟩

theorem test_TrafficManagerOpcodes_tmgGateSwitch_holds :
    ∃ (ring slot : Nat) (c : Cmd) (s0 s : State) (t : Nat), (Admits (specOf opsTmg 0x0702) ring slot c s0 s = true) ∧
      (c.p 32 1 < 4 ∧ c.zero 33 3 = true ∧ c.timeForm 36 = true ∧ c.timeNs 36 < 1000000000) ∧ (pendingSwitch s c.inst
      = none) ∧ ((c.p 32 1).testBit 1 = true ∨ bankOf s c.inst (c.p 32 1 % 2) ≠ []) ∧ (t = if (c.p 32 1).testBit 1
      then (max (c.time 36) s.now) else (firstInstant (c.time 36) (cycleOf (bankOf s c.inst (c.p 32 1 % 2))) s.nowUp))
      :=
    ⟨0, 0, W.cmd 0x0702 20 [1, 0, 0, 0, 0xFF, 0xC9, 0x9A, 0x3B, 0, 0, 0, 0, 0, 0, 0, 0], (let s := (W.st 7 (W.cmd
      0x0702 20 [1, 0, 0, 0, 0xFF, 0xC9, 0x9A, 0x3B, 0, 0, 0, 0, 0, 0, 0, 0])); W.bank s), (let s := (W.st 7 (W.cmd
      0x0702 20 [1, 0, 0, 0, 0xFF, 0xC9, 0x9A, 0x3B, 0, 0, 0, 0, 0, 0, 0, 0])); W.bank s), 999999999,
      by decide +kernel⟩

theorem test_TrafficManagerOpcodes_tmgGateStatus_holds :
    ∃ (ring slot : Nat) (c : Cmd) (s0 s : State), (Admits (specOf opsTmg 0x0703) ring slot c s0 s = true) :=
    ⟨0, 0, W.cmd 0x0703 20 [], (W.st 7 (W.cmd 0x0703 20 [])), (W.st 7 (W.cmd 0x0703 20 [])), by decide +kernel⟩

theorem test_TrafficManagerOpcodes_tmgSetQueue_holds :
    ∃ (ring slot : Nat) (c : Cmd) (s0 s : State), (Admits (specOf opsTmg 0x0704) ring slot c s0 s = true) ∧ (fld (c.w
      32) 31 7 = 0 ∧ rateOk (c.p 36 4) = true ∧ burstOk (c.p 40 4) = true ∧ quantumOk (c.p 44 4) = true) ∧
      (queueCfgBad s c.inst (c.w 32) = none) :=
    ⟨0, 0, W.cmd 0x0704 166 [1, 0, 0, 0, 0x80, 0xF0, 0xFA, 2, 0xFF, 0xFF, 0xFF, 0, 0, 0, 4, 0], (W.st 7 (W.cmd 0x0704
      166 [1, 0, 0, 0, 0x80, 0xF0, 0xFA, 2, 0xFF, 0xFF, 0xFF, 0, 0, 0, 4, 0])), (W.st 7 (W.cmd 0x0704 166 [1, 0, 0, 0,
      0x80, 0xF0, 0xFA, 2, 0xFF, 0xFF, 0xFF, 0, 0, 0, 4, 0])), by decide +kernel⟩

theorem test_TrafficManagerOpcodes_tmgSetGroup_holds :
    ∃ (ring slot : Nat) (c : Cmd) (s0 s : State), (Admits (specOf opsTmg 0x0705) ring slot c s0 s = true) ∧ (c.p 32 1
      ≤ 31 ∧ c.p 33 1 ≤ 20 ∧ c.p 34 1 ≤ 1 ∧ c.zero 35 1 = true) ∧ (rateOk (c.p 36 4) = true ∧ burstOk (c.p 40 4) =
      true ∧ rateOk (c.p 44 4) = true ∧ burstOk (c.p 48 4) = true ∧ c.p 36 4 ≤ c.p 44 4) ∧ (portFitted s.tier (c.p 33
      1) = true ∧ (s.aclEntry 7 c.issuer).mask.getLsbD (c.p 33 1) = true) ∧ (s.f (tmgGroup (c.p 32 1) 0) 12 8 = c.p 33
      1 ∨ groupMembers s (c.p 32 1) = false) :=
    ⟨0, 0, W.cmd 0x0705 0 [31, 20, 1, 0, 0x80, 0xF0, 0xFA, 2, 0xFF, 0xFF, 0xFF, 0, 0x80, 0xF0, 0xFA, 2, 0, 0, 0, 0],
      (W.st 7 (W.cmd 0x0705 0 [31, 20, 1, 0, 0x80, 0xF0, 0xFA, 2, 0xFF, 0xFF, 0xFF, 0, 0x80, 0xF0, 0xFA, 2, 0, 0, 0,
      0])), (W.st 7 (W.cmd 0x0705 0 [31, 20, 1, 0, 0x80, 0xF0, 0xFA, 2, 0xFF, 0xFF, 0xFF, 0, 0x80, 0xF0, 0xFA, 2, 0,
      0, 0, 0])), by decide +kernel⟩

theorem test_TrafficManagerOpcodes_tmgSetPolicer_holds :
    ∃ (ring slot : Nat) (c : Cmd) (s0 s : State), (Admits (specOf opsTmg 0x0706) ring slot c s0 s = true) ∧ (c.p 32 2
      ≤ 4095 ∧ c.zero 34 2 = true ∧ fld (c.w 36) 31 10 = 0 ∧ fld (c.w 36) 8 7 ≠ 3) ∧ (rateOk (c.p 40 4) = true ∧
      burstOk (c.p 44 4) = true ∧ rateOk (c.p 48 4) = true ∧ burstOk (c.p 52 4) = true ∧ c.p 40 4 ≤ c.p 48 4) :=
    ⟨0, 0, W.cmd 0x0706 0 [0xFF, 0xF, 0, 0, 0x7F, 3, 0, 0, 1, 0, 0, 0, 0xFF, 0xFF, 0xFF, 0, 1, 0, 0, 0, 0, 0, 0, 0, 0,
      0, 0, 0], (W.st 7 (W.cmd 0x0706 0 [0xFF, 0xF, 0, 0, 0x7F, 3, 0, 0, 1, 0, 0, 0, 0xFF, 0xFF, 0xFF, 0, 1, 0, 0, 0,
      0, 0, 0, 0, 0, 0, 0, 0])), (W.st 7 (W.cmd 0x0706 0 [0xFF, 0xF, 0, 0, 0x7F, 3, 0, 0, 1, 0, 0, 0, 0xFF, 0xFF,
      0xFF, 0, 1, 0, 0, 0, 0, 0, 0, 0, 0, 0, 0, 0])), by decide +kernel⟩

theorem test_TrafficManagerOpcodes_tmgPolicerCounters_holds :
    ∃ (ring slot : Nat) (c : Cmd) (s0 s : State), (Admits (specOf opsTmg 0x0707) ring slot c s0 s = true) ∧ (c.p 32 2
      ≤ 4095 ∧ c.zero 34 2 = true) :=
    ⟨0, 0, W.cmd 0x0707 0 [0xFF, 0xF, 0, 0], (W.st 7 (W.cmd 0x0707 0 [0xFF, 0xF, 0, 0])), (W.st 7 (W.cmd 0x0707 0
      [0xFF, 0xF, 0, 0])), by decide +kernel⟩

theorem test_TrafficManagerOpcodes_tmgSetStreamGate_holds :
    ∃ (ring slot : Nat) (c : Cmd) (s0 s : State), (Admits (specOf opsTmg 0x0708) ring slot c s0 s = true) ∧ (c.p 32 1
      ≤ 1 ∧ c.zero 33 3 = true ∧ c.timeForm 36 = true ∧ c.timeNs 36 < 1000000000 ∧ c.len = 20 + 8 * c.p 48 4) ∧
      (badEntry (fun e => fld e.1 31 5 == 0) (payEntries c 52 (c.p 48 4)) = none) ∧ (1000 ≤ ((payEntries c 52 (c.p 48
      4)).map (fun e => e.2.toNat)).sum ∧ ((payEntries c 52 (c.p 48 4)).map (fun e => e.2.toNat)).sum ≤ 1000000000) ∧
      ((tget StreamGate.zero s.tmg.gates c.inst).en = false) :=
    ⟨0, 0, W.cmd 0x0708 31 ([1, 0, 0, 0] ++ List.replicate 12 0 ++ [1, 0, 0, 0, 31, 0, 0, 0, 0xE8, 3, 0, 0]), (W.st 7
      (W.cmd 0x0708 31 ([1, 0, 0, 0] ++ List.replicate 12 0 ++ [1, 0, 0, 0, 31, 0, 0, 0, 0xE8, 3, 0, 0]))), (W.st 7
      (W.cmd 0x0708 31 ([1, 0, 0, 0] ++ List.replicate 12 0 ++ [1, 0, 0, 0, 31, 0, 0, 0, 0xE8, 3, 0, 0]))),
      by decide +kernel⟩

theorem test_TrafficManagerOpcodes_tmgSetStreamGate_holds_2 :
    ∃ (ring slot : Nat) (c : Cmd) (s0 s : State), (Admits (specOf opsTmg 0x0708) ring slot c s0 s = true) ∧ (c.p 32 1
      = 0 ∧ c.zero 33 3 = true ∧ c.timeForm 36 = true ∧ c.timeNs 36 < 1000000000 ∧ c.len = 20 + 8 * c.p 48 4) ∧
      (badEntry (fun e => fld e.1 31 5 == 0) (payEntries c 52 (c.p 48 4)) = none) ∧ (1000 ≤ ((payEntries c 52 (c.p 48
      4)).map (fun e => e.2.toNat)).sum ∧ ((payEntries c 52 (c.p 48 4)).map (fun e => e.2.toNat)).sum ≤ 1000000000) ∧
      ((tget StreamGate.zero s.tmg.gates c.inst).en = true) :=
    ⟨0, 0, W.cmd 0x0708 31 ([0, 0, 0, 0] ++ List.replicate 12 0 ++ [1, 0, 0, 0, 31, 0, 0, 0, 0xE8, 3, 0, 0]), (let s
      := (W.st 7 (W.cmd 0x0708 31 ([0, 0, 0, 0] ++ List.replicate 12 0 ++ [1, 0, 0, 0, 31, 0, 0, 0, 0xE8, 3, 0, 0])));
      s.withTmg (fun t => { t with gates := [(31, ⟨true, 0, 0, [⟨1, 1000⟩]⟩)] })), (let s := (W.st 7 (W.cmd 0x0708 31
      ([0, 0, 0, 0] ++ List.replicate 12 0 ++ [1, 0, 0, 0, 31, 0, 0, 0, 0xE8, 3, 0, 0]))); s.withTmg (fun t =>
      { t with gates := [(31, ⟨true, 0, 0, [⟨1, 1000⟩]⟩)] })), by decide +kernel⟩

theorem test_TrafficManagerOpcodes_tmgSetLatency_holds :
    ∃ (ring slot : Nat) (c : Cmd) (s0 s : State), (Admits (specOf opsTmg 0x0709) ring slot c s0 s = true) ∧ (fld (c.w
      32) 31 11 = 0 ∧ 1 ≤ fld (c.w 32) 10 1 ∧ fld (c.w 32) 10 1 ≤ 1000) :=
    ⟨0, 0, W.cmd 0x0709 0 [0xD1, 7, 0, 0], (W.st 7 (W.cmd 0x0709 0 [0xD1, 7, 0, 0])), (W.st 7 (W.cmd 0x0709 0 [0xD1,
      7, 0, 0])), by decide +kernel⟩

theorem test_TrafficManagerOpcodes_tmgLatRead_holds :
    ∃ (ring slot : Nat) (c : Cmd) (s0 s : State), (Admits (specOf opsTmg 0x070A) ring slot c s0 s = true) :=
    ⟨0, 0, W.cmd 0x070A 167 [], (W.st 7 (W.cmd 0x070A 167 [])), (W.st 7 (W.cmd 0x070A 167 [])), by decide +kernel⟩

theorem test_TrafficManagerOpcodes_tmgPortCounters_holds :
    ∃ (ring slot : Nat) (c : Cmd) (s0 s : State), (Admits (specOf opsTmg 0x070B) ring slot c s0 s = true) :=
    ⟨0, 0, W.cmd 0x070B 20 [], (W.st 7 (W.cmd 0x070B 20 [])), (W.st 7 (W.cmd 0x070B 20 [])), by decide +kernel⟩

theorem test_TrafficManagerEvents_courseBoundary_holds :
    ∃ (p : Nat) (f : InForce) (s : State), (s.up = true) ∧ (inForce s p = some f) ∧ (f.ends ≤ s.now) :=
    ⟨20, ⟨1, 0, 1, 0⟩, W.forced, by decide +kernel⟩

theorem test_TrafficManagerEvents_listSwitched_holds :
    ∃ (p : Nat) (w : Switch) (s : State), (s.up = true) ∧ (pendingSwitch s p = some w) ∧ (w.at_ ≤ s.now) :=
    ⟨20, ⟨some 1, 0⟩, (W.bank W.up).withTmg (fun t => { t with switch := [(20, some ⟨some 1, 0⟩)] }),
      by decide +kernel⟩

theorem test_TrafficManagerEvents_verifyTimer_holds :
    ∃ (p : Nat) (s : State), (s.up = true) ∧ (s.f (tmgPort p 8) 19 17 = 2) :=
    ⟨13, W.up.wr (tmgPort 13 8) 0x40000, by decide +kernel⟩

theorem test_TrafficManagerEvents_verifyTimer_holds_2 :
    ∃ (p : Nat) (s : State), (s.up = true) ∧ (s.f (tmgPort p 8) 19 17 = 2) ∧ (tget 0 s.tmg.verifyTries p < 2) :=
    ⟨13, W.up.wr (tmgPort 13 8) 0x40000, by decide +kernel⟩

theorem test_TrafficManagerEvents_verifyTimer_holds_3 :
    ∃ (p : Nat) (s : State), (s.up = true) ∧ (s.f (tmgPort p 8) 19 17 = 2) ∧ (tget 0 s.tmg.verifyTries p = 2) :=
    ⟨13, (W.up.wr (tmgPort 13 8) 0x40000).withTmg (fun t => { t with verifyTries := [(13, 2)] }), by decide +kernel⟩

theorem test_TrafficManagerEvents_latencySample_holds :
    ∃ (s : State), (s.up = true) ∧ (s.bit (rg 7 0) 0 = true) :=
    ⟨W.up.wr (rg 7 0) 3, by decide +kernel⟩

theorem test_TrafficManagerEvents_transmitSelect_holds :
    ∃ (p : Nat) (bad : Option Nat) (s t : State), (s.up = true) ∧ (portFitted s.tier p = true ∧ portUp s p = true) ∧
      (t = cutNow p (preempt p (purgePort p s))) ∧ (tget none t.swc.tx p = none ∧ tget none t.swc.cut p = none) ∧
      ((judgeQueue (p * 8 + 7) t).1 = true) :=
    ⟨20, none, (W.imUp 7), _, by decide, by decide +kernel, rfl, by decide +kernel, by decide +kernel⟩

theorem test_TrafficManagerEvents_transmitSelect_holds_2 :
    ∃ (p : Nat) (bad : Option Nat) (x : Copy) (s t : State), (s.up = true) ∧ (portFitted s.tier p = true ∧ portUp s p
      = true) ∧ (t = cutNow p (preempt p (purgePort p s))) ∧ (tget none t.swc.tx p = none ∧ tget none t.swc.cut p =
      some x) ∧ ((judgeQueue (p * 8 + 7) t).1 = false) ∧ ((holdBit t p && preemptActive t p) = false) :=
    ⟨20, none, W.copy, (W.imUp 0).withSwc (fun w => { w with cut := [(20, some W.copy)] }), _, by decide,
      by decide +kernel, rfl, by decide +kernel, by decide +kernel, by decide +kernel⟩

theorem test_TrafficManagerEvents_transmitSelect_holds_3 :
    ∃ (p : Nat) (bad : Option Nat) (q : Nat) (s t : State), (s.up = true) ∧ (portFitted s.tier p = true ∧ portUp s p =
      true) ∧ (t = cutNow p (preempt p (purgePort p s))) ∧ (tget none t.swc.tx p = none ∧ tget none t.swc.cut p =
      none) ∧ ((choose p t).1 = some q) :=
    ⟨20, none, 160, (W.imUp 0), _, by decide, by decide +kernel, rfl, by decide +kernel, by decide +kernel⟩

theorem test_TrafficManagerEvents_transmitSelect_holds_4 :
    ∃ (p : Nat) (bad : Option Nat) (s t : State), (s.up = true) ∧ (portFitted s.tier p = true ∧ portUp s p = true) ∧
      (t = cutNow p (preempt p (purgePort p s))) ∧ (tget none t.swc.tx p = none ∧ tget none t.swc.cut p = none) ∧
      ((choose p t).1 = none) :=
    ⟨20, none, W.up.wr (rg 8 0x2400) 2, _, by decide, by decide +kernel, rfl, by decide +kernel, by decide +kernel⟩

theorem test_TrafficManagerEvents_transmitSelect_holds_5 :
    ∃ (p : Nat) (bad : Option Nat) (x : Copy) (s t : State), (s.up = true) ∧ (portFitted s.tier p = true ∧ portUp s p
      = true) ∧ (t = cutNow p (preempt p (purgePort p s))) ∧ (tget none t.swc.tx p = none ∧ tget none t.swc.cut p =
      some x) ∧ ((judgeQueue (p * 8 + 7) t).1 = false) ∧ ((holdBit t p && preemptActive t p) = true) :=
    ⟨13, none, { W.copy with port := 13 }, W.held, _, by decide, by decide +kernel, rfl, by decide +kernel,
      by decide +kernel, by decide +kernel⟩

theorem test_TrafficManagerEvents_transmitSelect_holds_6 :
    ∃ (p : Nat) (bad : Option Nat) (x : Copy) (s t : State), (s.up = true) ∧ (portFitted s.tier p = true ∧ portUp s p
      = true) ∧ (t = cutNow p (preempt p (purgePort p s))) ∧ (tget none t.swc.tx p = some x) :=
    ⟨20, none, W.copy, (W.up.wr (rg 8 0x2400) 2).withSwc (fun w =>
      { w with frames := [W.rframe], nextId := 1, tx := [(20, some W.copy)] }), _, by decide, by decide +kernel, rfl,
      by decide +kernel⟩

theorem test_TrafficManagerEvents_transmitSelect_holds_7 :
    ∃ (p : Nat) (bad : Option Nat) (s : State), (s.up = true) ∧ (portFitted s.tier p = false ∨ portUp s p = false) :=
    ⟨20, none, W.up, by decide +kernel⟩

theorem test_EthernetOpcodes_ethSetPort_holds :
    ∃ (ring slot : Nat) (c : Cmd) (s0 s : State), (Admits (specOf opsEth 0x0800) ring slot c s0 s = true) ∧ (fld (c.w
      32) 31 9 = 0 ∧ modeOk c.inst (fld (c.w 32) 3 0) = true ∧ (bitOf (c.w 32) 7 && (c.inst == 4 || c.inst == 5)) =
      false) ∧ (c.w 36 &&& 0xC000C000#32 = 0 ∧ maxOk (c.w 36) = true ∧ c.inst < 14 ∧ fld (c.w 40) 31 9 = 0 ∧ fld (c.w
      40) 5 4 ≠ 3) ∧ (s.bit (ethPort c.inst 0) 0 = false) :=
    ⟨0, 0, W.cmd 0x0800 13 [0xF9, 1, 0, 0, 0, 0x24, 0x40, 0, 0xEF, 1, 0, 0, 1, 0, 0, 0, 2, 0, 0, 0, 3, 0, 0, 0], (W.st
      8 (W.cmd 0x0800 13 [0xF9, 1, 0, 0, 0, 0x24, 0x40, 0, 0xEF, 1, 0, 0, 1, 0, 0, 0, 2, 0, 0, 0, 3, 0, 0, 0])), (W.st
      8 (W.cmd 0x0800 13 [0xF9, 1, 0, 0, 0, 0x24, 0x40, 0, 0xEF, 1, 0, 0, 1, 0, 0, 0, 2, 0, 0, 0, 3, 0, 0, 0])),
      by decide +kernel⟩

theorem test_EthernetOpcodes_ethSetPort_holds_2 :
    ∃ (ring slot : Nat) (c : Cmd) (s0 s : State), (Admits (specOf opsEth 0x0800) ring slot c s0 s = true) ∧ (fld (c.w
      32) 31 9 = 0 ∧ modeOk c.inst (fld (c.w 32) 3 0) = true) ∧ (c.w 36 &&& 0xC000C000#32 = 0 ∧ maxOk (c.w 36) = true
      ∧ 14 ≤ c.inst ∧ c.w 40 = 0 ∧ c.p 44 4 = 0 ∧ c.p 48 8 = 0) ∧ (s.bit (ethPort c.inst 0) 0 = false) :=
    ⟨0, 0, W.cmd 0x0800 17 ([0xFC, 0, 0, 0, 0x40, 0, 0, 0x24] ++ List.replicate 16 0), (W.st 8 (W.cmd 0x0800 17
      ([0xFC, 0, 0, 0, 0x40, 0, 0, 0x24] ++ List.replicate 16 0))), (W.st 8 (W.cmd 0x0800 17 ([0xFC, 0, 0, 0, 0x40, 0,
      0, 0x24] ++ List.replicate 16 0))), by decide +kernel⟩

theorem test_EthernetOpcodes_ethPortEnable_holds :
    ∃ (ring slot : Nat) (c : Cmd) (s0 s : State), (Admits (specOf opsEth 0x0801) ring slot c s0 s = true) ∧ (c.p 32 4
      < 4) :=
    ⟨0, 0, W.cmd 0x0801 17 [3, 0, 0, 0], (W.st 8 (W.cmd 0x0801 17 [3, 0, 0, 0])), (W.st 8 (W.cmd 0x0801 17 [3, 0, 0,
      0])), by decide +kernel⟩

theorem test_EthernetOpcodes_ethLinkStatus_holds :
    ∃ (ring slot : Nat) (c : Cmd) (s0 s : State), (Admits (specOf opsEth 0x0802) ring slot c s0 s = true) :=
    ⟨0, 0, W.cmd 0x0802 17 [], (W.st 8 (W.cmd 0x0802 17 [])), (W.st 8 (W.cmd 0x0802 17 [])), by decide +kernel⟩

theorem test_EthernetOpcodes_ethTc10_holds :
    ∃ (ring slot : Nat) (c : Cmd) (s0 s : State), (Admits (specOf opsEth 0x0803) ring slot c s0 s = true) ∧ (c.inst ≠
      4 ∧ c.inst ≠ 5 ∧ s.bit (ethPort c.inst 4) 7 = true) ∧ (c.p 32 4 = 1 ∧ linkUp s c.inst = true) :=
    ⟨0, 0, W.cmd 0x0803 17 [1, 0, 0, 0], (let s := (W.st 8 (W.cmd 0x0803 17 [1, 0, 0, 0])); (s.wr (ethPort 17 4)
      0x8C).wr (ethPort 17 0xC) 7), (let s := (W.st 8 (W.cmd 0x0803 17 [1, 0, 0, 0])); (s.wr (ethPort 17 4) 0x8C).wr
      (ethPort 17 0xC) 7), by decide +kernel⟩

theorem test_EthernetOpcodes_ethTc10_holds_2 :
    ∃ (ring slot : Nat) (c : Cmd) (s0 s : State), (Admits (specOf opsEth 0x0803) ring slot c s0 s = true) ∧ (c.inst ≠
      4 ∧ c.inst ≠ 5 ∧ s.bit (ethPort c.inst 4) 7 = true) ∧ (c.p 32 4 = 2 ∧ phyState s c.inst = 4) :=
    ⟨0, 0, W.cmd 0x0803 17 [2, 0, 0, 0], (let s := (W.st 8 (W.cmd 0x0803 17 [2, 0, 0, 0])); (s.wr (ethPort 17 4)
      0x8C).wr (ethPort 17 0xC) 8), (let s := (W.st 8 (W.cmd 0x0803 17 [2, 0, 0, 0])); (s.wr (ethPort 17 4) 0x8C).wr
      (ethPort 17 0xC) 8), by decide +kernel⟩

theorem test_EthernetOpcodes_ethRtSave_holds :
    ∃ (ring slot : Nat) (c : Cmd) (s0 s : State), (Admits (specOf opsEth 0x0804) ring slot c s0 s = true) :=
    ⟨0, 0, W.cmd 0x0804 0 [], (W.st 8 (W.cmd 0x0804 0 [])), (W.st 8 (W.cmd 0x0804 0 [])), by decide +kernel⟩

theorem test_EthernetOpcodes_ethRtClear_holds :
    ∃ (ring slot : Nat) (c : Cmd) (s0 s : State), (Admits (specOf opsEth 0x0805) ring slot c s0 s = true) ∧ (c.inst ≠
      4 ∧ c.inst ≠ 5) :=
    ⟨0, 0, W.cmd 0x0805 13 [], (W.st 8 (W.cmd 0x0805 13 [])), (W.st 8 (W.cmd 0x0805 13 [])), by decide +kernel⟩

theorem test_EthernetOpcodes_ethPlcaCfg_holds :
    ∃ (ring slot : Nat) (c : Cmd) (s0 s : State), (Admits (specOf opsEth 0x0806) ring slot c s0 s = true) ∧ (fld (c.w
      32) 31 25 = 0 ∧ plcaOk (c.w 32) = true) ∧ (s.bit (ethPort c.inst 0) 0 = false) :=
    ⟨0, 0, W.cmd 0x0806 17 [0xF0, 0xFF, 0xFF, 1], (W.st 8 (W.cmd 0x0806 17 [0xF0, 0xFF, 0xFF, 1])), (W.st 8 (W.cmd
      0x0806 17 [0xF0, 0xFF, 0xFF, 1])), by decide +kernel⟩

theorem test_EthernetOpcodes_ethPodl_holds :
    ∃ (ring slot : Nat) (c : Cmd) (s0 s : State), (Admits (specOf opsEth 0x0807) ring slot c s0 s = true) ∧ (fld (c.w
      32) 31 13 = 0) :=
    ⟨0, 0, W.cmd 0x0807 17 [0xFF, 0x1F, 0, 0], (W.st 8 (W.cmd 0x0807 17 [0xFF, 0x1F, 0, 0])), (W.st 8 (W.cmd 0x0807 17
      [0xFF, 0x1F, 0, 0])), by decide +kernel⟩

theorem test_EthernetOpcodes_ethSaInstall_holds :
    ∃ (ring slot : Nat) (c : Cmd) (s0 s : State), (Admits (specOf opsEth 0x0808) ring slot c s0 s = true) ∧ (c.p 32 1
      ≤ 1 ∧ c.p 33 1 ≤ 7 ∧ (c.p 32 1 = 0 → c.p 33 1 = 0) ∧ c.p 34 1 ≤ 3 ∧ c.zero 35 1 = true ∧ c.zero 38 2 = true) ∧
      (c.p 40 8 ≠ 0 ∧ c.p 40 8 ≤ pnMax s c.inst) ∧ (c.p 36 2 ≤ 1023 ∧ (s.aclEntry 12 c.issuer).mask.getLsbD
      (keyMaskBit (c.p 36 2)) = true) ∧ (saInUse s c.inst (c.p 32 1 == 1) (c.p 34 1) = false ∧ (keySlot s (c.p 36
      2)).st = 1 ∧ (keySlot s (c.p 36 2)).usage.testBit 5 = true) :=
    ⟨0, 0, W.cmd 0x0808 13 ([1, 7, 3, 0, 0xFF, 3, 0, 0, 0xFF, 0xFF, 0xFF, 0xFF] ++ List.replicate 28 0), (let s :=
      (W.st 8 (W.cmd 0x0808 13 ([1, 7, 3, 0, 0xFF, 3, 0, 0, 0xFF, 0xFF, 0xFF, 0xFF] ++ List.replicate 28 0))); W.saKey
      s), (let s := (W.st 8 (W.cmd 0x0808 13 ([1, 7, 3, 0, 0xFF, 3, 0, 0, 0xFF, 0xFF, 0xFF, 0xFF] ++ List.replicate 28
      0))); W.saKey s), by decide +kernel⟩

theorem test_EthernetOpcodes_ethSaTxSwitch_holds :
    ∃ (ring slot : Nat) (c : Cmd) (s0 s : State), (Admits (specOf opsEth 0x0809) ring slot c s0 s = true) ∧ (c.p 32 4
      ≤ 3) ∧ ((txSa s c.inst (c.p 32 4)).isSome = true) :=
    ⟨0, 0, W.cmd 0x0809 13 [3, 0, 0, 0], (let s := (W.st 8 (W.cmd 0x0809 13 [3, 0, 0, 0])); W.sa s), (let s := (W.st 8
      (W.cmd 0x0809 13 [3, 0, 0, 0])); W.sa s), by decide +kernel⟩

theorem test_EthernetOpcodes_ethSaDelete_holds :
    ∃ (ring slot : Nat) (c : Cmd) (s0 s : State), (Admits (specOf opsEth 0x080A) ring slot c s0 s = true) ∧ (c.p 32 1
      ≤ 1 ∧ c.p 33 1 ≤ 7 ∧ (c.p 32 1 = 0 → c.p 33 1 = 0) ∧ c.p 34 1 ≤ 3 ∧ c.zero 35 1 = true) ∧ ((saAt s c.inst (c.p
      32 1 == 1) (c.p 33 1) (c.p 34 1)).isSome = true ∧ saInUse s c.inst (c.p 32 1 == 1) (c.p 34 1) = false) :=
    ⟨0, 0, W.cmd 0x080A 13 [1, 7, 3, 0], (let s := (W.st 8 (W.cmd 0x080A 13 [1, 7, 3, 0])); W.sa s), (let s := (W.st 8
      (W.cmd 0x080A 13 [1, 7, 3, 0])); W.sa s), by decide +kernel⟩

theorem test_EthernetOpcodes_ethSaStatus_holds :
    ∃ (ring slot : Nat) (c : Cmd) (s0 s : State) (x : Sa), (Admits (specOf opsEth 0x080B) ring slot c s0 s = true) ∧
      (c.p 32 1 ≤ 1 ∧ c.p 33 1 ≤ 7 ∧ (c.p 32 1 = 0 → c.p 33 1 = 0) ∧ c.p 34 1 ≤ 3 ∧ c.zero 35 1 = true) ∧ (saAt s
      c.inst (c.p 32 1 == 1) (c.p 33 1) (c.p 34 1) = some x) :=
    ⟨0, 0, W.cmd 0x080B 13 [1, 7, 3, 0], (let s := (W.st 8 (W.cmd 0x080B 13 [1, 7, 3, 0])); W.sa s), (let s := (W.st 8
      (W.cmd 0x080B 13 [1, 7, 3, 0])); W.sa s), ⟨1, 9, 8, 0, [], 0, false, false⟩, by decide +kernel⟩

theorem test_EthernetOpcodes_ethPortCounters_holds :
    ∃ (ring slot : Nat) (c : Cmd) (s0 s : State), (Admits (specOf opsEth 0x080C) ring slot c s0 s = true) :=
    ⟨0, 0, W.cmd 0x080C 17 [], (W.st 8 (W.cmd 0x080C 17 [])), (W.st 8 (W.cmd 0x080C 17 [])), by decide +kernel⟩

theorem test_FramesArriveAndLeave_frameReceive_holds :
    ∃ (p ago : Nat) (wire : List Byte) (s : State), (s.up = true) ∧ (p ≤ 17 ∧ portFitted s.tier p = true ∧ linkUp s p
      = true) ∧ (4 ≤ wire.length ∧ fcs (wire.take (wire.length - 4)) ≠ wire.drop (wire.length - 4)) :=
    ⟨17, 0, List.replicate 64 1, W.linkUp, by decide +kernel⟩

theorem test_FramesArriveAndLeave_frameReceive_holds_2 :
    ∃ (p ago : Nat) (wire : List Byte) (s : State), (s.up = true) ∧ (p ≤ 17 ∧ portFitted s.tier p = true ∧ linkUp s p
      = true) ∧ (4 ≤ wire.length ∧ wire.length < 64 ∧ fcs (wire.take (wire.length - 4)) = wire.drop (wire.length - 4))
      :=
    ⟨17, 0, List.replicate 59 1 ++ fcs (List.replicate 59 1), W.linkUp, by decide +kernel⟩

theorem test_FramesArriveAndLeave_frameReceive_holds_3 :
    ∃ (p ago : Nat) (wire : List Byte) (s : State), (s.up = true) ∧ (p ≤ 17 ∧ portFitted s.tier p = true ∧ linkUp s p
      = true) ∧ (64 ≤ wire.length ∧ fcs (wire.take (wire.length - 4)) = wire.drop (wire.length - 4)) ∧ (min (s.f
      (ethPort p 8) 13 0) 9216 < wire.length) :=
    ⟨17, 0, List.replicate 61 1 ++ fcs (List.replicate 61 1), W.linkUp.wr (ethPort 17 8) 64, by decide +kernel⟩

theorem test_FramesArriveAndLeave_frameReceive_holds_4 :
    ∃ (p ago : Nat) (wire : List Byte) (s : State), (s.up = true) ∧ (p ≤ 17 ∧ portFitted s.tier p = true ∧ linkUp s p
      = true) ∧ (64 ≤ wire.length ∧ fcs (wire.take (wire.length - 4)) = wire.drop (wire.length - 4)) ∧ (wire.length ≤
      min (s.f (ethPort p 8) 13 0) 9216) ∧ (macsecOn s p wire = false) :=
    ⟨17, 0, List.replicate 60 1 ++ fcs (List.replicate 60 1), W.linkUp.wr (ethPort 17 8) 64, by decide +kernel⟩

theorem test_FramesArriveAndLeave_copyTransmitted_holds :
    ∃ (p ago : Nat) (c : Copy) (f : Frame) (s u t : State), (s.up = true ∧ u = cutAtEnd p s) ∧ (tget none u.swc.tx p =
      some c ∧ findFrame u c.frame = some f) ∧ (p ≤ 17 ∧ (14 ≤ p → tget 0 u.eth.plca p ≠ 0)) ∧ (t = State.withEth
      (u.withSwc (fun w => { w with tx := tput none w.tx p none })) (fun e =>
      { e with plca := tput 0 e.plca p (tget 0 e.plca p - 1) })) ∧ (macsecOn t p (egressForm f c).1 = false) ∧
      ((egressForm f c).2 = false ∧ u.eth.shared.contains (.tx p) = false) :=
    ⟨17, 0, { W.copy with port := 17 }, W.rframe, W.sending 17 [], _, _, ⟨by decide, rfl⟩, by decide +kernel,
      by decide +kernel, rfl, by decide, by decide +kernel⟩

theorem test_FramesArriveAndLeave_txtsPop_holds :
    ∃ (m p : Nat) (x : TxStamp) (r : List TxStamp) (s : State), (MayRead s m 8 (.bit p) = true) ∧ (tget [] s.eth.txts
      p = x :: r) :=
    ⟨0x10, 17, ⟨1, 2, 0, 3⟩, [], (W.adm 8).withEth (fun e => { e with txts := [(17, [⟨1, 2, 0, 3⟩])] }),
      by decide +kernel⟩

theorem test_FramesArriveAndLeave_icTxDoorbell_holds :
    ∃ (m n : Nat) (v : Word) (s t : State), (MayWrite s m 8 (.bit (32 + n)) = true) ∧ (n ≤ 31 ∧ v.toNat < icSlots s
      true n) ∧ (s.bit (icReg true n 8) 0 = true) ∧ (icTake n v.toNat (icSlots s true n) (s.wr (icReg true n 0x10) v)
      = some t) :=
    ⟨0x10, 31, 0, (W.adm 8).wr (icReg true 31 8) 9, _, by decide +kernel, by decide +kernel, by decide +kernel, rfl⟩

theorem test_EthernetPortEvents_portCtrlWrite_holds :
    ∃ (m p : Nat) (v : Word) (s : State), (MayWrite s m 8 (.bit p) = true) ∧ (portFitted s.tier p = true ∧ fld v 31 2
      = 0) :=
    ⟨0x10, 20, 3, W.adm 8, by decide +kernel⟩

theorem test_EthernetPortEvents_linkChange_holds :
    ∃ (p mbps addFrag : Nat) (fec master : Bool) (s : State), (s.up = true) ∧ (p ≤ 17 ∧ portFitted s.tier p = true) ∧
      (phyState s p = 1 ∨ (phyState s p = 2 ∧ tget false s.eth.rtProbed p = true)) ∧ (sameRole s p master = false) :=
    ⟨13, 0, 0, false, true, W.up.wr (ethPort 13 0xC) 2, by decide +kernel⟩

theorem test_EthernetPortEvents_linkChange_holds_2 :
    ∃ (p mbps addFrag : Nat) (fec master : Bool) (s : State), (s.up = true) ∧ (sameRole s p master = true) :=
    ⟨13, 0, 0, false, false, W.up.wr (ethPort 13 0xC) 2, by decide +kernel⟩

theorem test_EthernetPortEvents_linkChange_holds_3 :
    ∃ (p mbps addFrag : Nat) (fec master : Bool) (s : State), (s.up = true) ∧ (p ≤ 17 ∧ portFitted s.tier p = true) ∧
      (linkUp s p = true) :=
    ⟨17, 0, 0, false, false, W.linkUp, by decide +kernel⟩

theorem test_EthernetPortEvents_rtMarkerReceived_holds :
    ∃ (p : Nat) (agrees : Bool) (s : State), (s.up = true) ∧ (phyState s p = 2 ∧ tget false s.eth.rtProbed p = false)
      :=
    ⟨13, true, W.up.wr (ethPort 13 0xC) 4, by decide +kernel⟩

theorem test_EthernetPortEvents_rtMarkerTimeout_holds :
    ∃ (p : Nat) (s : State), (s.up = true) ∧ (phyState s p = 2 ∧ tget false s.eth.rtProbed p = false) :=
    ⟨13, W.up.wr (ethPort 13 0xC) 4, by decide +kernel⟩

theorem test_EthernetPortEvents_retainedStartLimit_holds :
    ∃ (p : Nat) (s : State), (s.up = true) ∧ (phyState s p = 2) :=
    ⟨13, W.up.wr (ethPort 13 0xC) 4, by decide +kernel⟩

theorem test_EthernetPortEvents_tc10SleepAck_holds :
    ∃ (p : Nat) (s : State), (s.up = true) ∧ (tget false s.eth.sleeping p = true) :=
    ⟨17, W.sleeping, by decide +kernel⟩

theorem test_EthernetPortEvents_tc10SleepTimeout_holds :
    ∃ (p : Nat) (s : State), (s.up = true) ∧ (tget false s.eth.sleeping p = true) :=
    ⟨17, W.sleeping, by decide +kernel⟩

theorem test_EthernetPortEvents_tc10SleepRefused_holds :
    ∃ (p : Nat) (s : State), (s.up = true) ∧ (tget false s.eth.sleeping p = true) :=
    ⟨17, W.sleeping, by decide +kernel⟩

theorem test_EthernetPortEvents_tc10Wake_holds :
    ∃ (p : Nat) (s : State), (s.up = true) ∧ (tget false s.eth.sleeping p = false) ∧ (phyState s p = 4) :=
    ⟨17, W.up.wr (ethPort 17 0xC) 8, by decide +kernel⟩

theorem test_EthernetPortEvents_tc10Wur_holds :
    ∃ (p : Nat) (s : State), (s.up = true) ∧ (linkUp s p = true ∧ s.bit (ethPort p 4) 7 = true) :=
    ⟨17, W.linkUp, by decide +kernel⟩

theorem test_EthernetPortEvents_plcaCycle_holds :
    ∃ (p coll : Nat) (s : State), (s.up = true) ∧ (14 ≤ p ∧ p ≤ 17 ∧ linkUp s p = true) :=
    ⟨17, 2, W.linkUp, by decide +kernel⟩

theorem test_EthernetPortEvents_podlCfgWrite_holds :
    ∃ (m p : Nat) (v : Word) (s : State), (MayWrite s m 8 (.bit p) = true) ∧ (t1s s p = true ∧ fld v 31 13 = 0) :=
    ⟨0x10, 17, 0x1FFF, W.adm 8, by decide +kernel⟩

theorem test_EthernetPortEvents_podlClassified_holds :
    ∃ (p cls : Nat) (s : State), (s.up = true) ∧ (t1s s p = true ∧ podlState s p = 1) ∧ (cls < 10 ∧ s.bit (ethPort p
      0x14) (cls + 2) = true) :=
    ⟨17, 9, (W.up.wr (ethPort 17 0x14) 0xFFF).wr (ethPort 17 0x18) 1, by decide +kernel⟩

theorem test_EthernetPortEvents_podlClassified_holds_2 :
    ∃ (p cls : Nat) (s : State), (s.up = true) ∧ (t1s s p = true ∧ podlState s p = 1) ∧ (10 ≤ cls ∨ s.bit (ethPort p
      0x14) (cls + 2) = false) :=
    ⟨17, 10, (W.up.wr (ethPort 17 0x14) 0xFFF).wr (ethPort 17 0x18) 1, by decide +kernel⟩

theorem test_EthernetPortEvents_podlClassTimeout_holds :
    ∃ (p : Nat) (s : State), (s.up = true) ∧ (t1s s p = true ∧ podlState s p = 1) :=
    ⟨17, W.up.wr (ethPort 17 0x18) 1, by decide +kernel⟩

theorem test_EthernetPortEvents_podlTrip_holds :
    ∃ (p : Nat) (s t : State), (s.up = true) ∧ (t1s s p = true ∧ podlState s p = 2) ∧ (t = setPodl p 0 (ethCount p
      0x78 s)) :=
    ⟨17, W.up.wr (ethPort 17 0x18) 2, _, by decide, by decide +kernel, rfl⟩

theorem test_EthernetPortEvents_podlRetry_holds :
    ∃ (p : Nat) (s : State), (s.up = true) ∧ (t1s s p = true ∧ tget false s.eth.podlRetry p = true) :=
    ⟨17, W.up.withEth (fun e => { e with podlRetry := [(17, true)] }), by decide +kernel⟩

theorem test_EthernetPortEvents_podlTripsClear_holds :
    ∃ (p : Nat) (s : State), (s.up = true) ∧ (t1s s p = true ∧ podlState s p = 2) :=
    ⟨17, W.up.wr (ethPort 17 0x18) 0x802, by decide +kernel⟩

theorem test_CanAndLinOpcodes_clnCanConfig_holds :
    ∃ (ring slot : Nat) (c : Cmd) (s0 s : State), (Admits (specOf opsCln 0x0900) ring slot c s0 s = true) ∧ (fld (c.w
      32) 31 15 = 0 ∧ fld (c.w 32) 14 8 ≤ 64 ∧ nbtReserved (c.w 36) = false ∧ dbtReserved (c.w 40) = false ∧
      xbtReserved (c.w 44) = false ∧ tdcReserved (c.w 48) = false) ∧ (timingFault (c.w 36) (c.w 40) (c.w 44) (c.w 48)
      = none) ∧ (canMode s c.inst = 0) ∧ (handedOver s c.inst (fld (c.w 32) 14 8) = none) :=
    ⟨0, 0, W.cmd 0x0900 15 ([0xF0, 0x40, 0, 0] ++ leBytes 4 0x10103F01 ++ leBytes 4 0x04040501 ++ leBytes 4 0x0C120101
      ++ [0, 1, 0, 0]), (W.st 9 (W.cmd 0x0900 15 ([0xF0, 0x40, 0, 0] ++ leBytes 4 0x10103F01 ++ leBytes 4 0x04040501
      ++ leBytes 4 0x0C120101 ++ [0, 1, 0, 0]))), (W.st 9 (W.cmd 0x0900 15 ([0xF0, 0x40, 0, 0] ++ leBytes 4 0x10103F01
      ++ leBytes 4 0x04040501 ++ leBytes 4 0x0C120101 ++ [0, 1, 0, 0]))), by decide +kernel⟩

theorem test_CanAndLinOpcodes_clnCanMode_holds :
    ∃ (ring slot : Nat) (c : Cmd) (s0 s : State), (Admits (specOf opsCln 0x0901) ring slot c s0 s = true) ∧ (modeTrxOk
      (c.p 32 1) (c.p 33 1) = true ∧ c.p 32 1 ≤ 2 ∧ c.p 33 1 ≤ 2 ∧ c.zero 34 2 = true) ∧ (badTiming s c.inst (c.p 32
      1) = false) :=
    ⟨0, 0, W.cmd 0x0901 15 [0, 2, 0, 0], (W.st 9 (W.cmd 0x0901 15 [0, 2, 0, 0])), (W.st 9 (W.cmd 0x0901 15 [0, 2, 0,
      0])), by decide +kernel⟩

theorem test_CanAndLinOpcodes_clnCanTxLoad_holds :
    ∃ (ring slot : Nat) (c : Cmd) (s0 s : State), (Admits (specOf opsCln 0x0902) ring slot c s0 s = true) ∧ (c.len =
      32 + c.p 40 2 ∧ c.p 32 1 ≤ 63 ∧ c.p 33 1 ≤ 15 ∧ c.p 34 1 ≤ 2 ∧ c.p 35 1 ≤ 7) ∧ ((bitOf (c.w 36) 31 ||
      (!(loadFrame c).ide && decide (0x7FF < (loadFrame c).id)) || ((loadFrame c).fmt == 3 && decide (0x7FF <
      (loadFrame c).id))) = false) ∧ (canLenOk (loadFrame c).fmt (c.p 40 2) = true ∧ ¬ ((loadFrame c).fmt = 3 ∧
      (loadFrame c).ide = true)) ∧ (c.timeForm 48 = true ∧ c.timeNs 48 < 1000000000) ∧ (c.p 34 1 = 2 → 100000 ≤ c.p 60
      4 ∧ c.p 60 4 ≤ 4000000000) ∧ ((buf s c.inst (c.p 32 1)).loadable = true ∧ c.p 32 1 < gwFirst s c.inst) ∧ (fmtOn
      s c.inst (loadFrame c).fmt = true ∧ storeShare (c.p 40 2) ≤ storeFree s c.inst (c.p 32 1)) :=
    ⟨0, 0, W.cmd 0x0902 15 ([31, 15, 2, 0, 0xFF, 7, 0, 0, 1, 0, 0, 0, 0, 0, 0, 0] ++ List.replicate 12 0 ++ leBytes 4
      100000 ++ [9]), (W.st 9 (W.cmd 0x0902 15 ([31, 15, 2, 0, 0xFF, 7, 0, 0, 1, 0, 0, 0, 0, 0, 0, 0] ++
      List.replicate 12 0 ++ leBytes 4 100000 ++ [9]))), (W.st 9 (W.cmd 0x0902 15 ([31, 15, 2, 0, 0xFF, 7, 0, 0, 1, 0,
      0, 0, 0, 0, 0, 0] ++ List.replicate 12 0 ++ leBytes 4 100000 ++ [9]))), by decide +kernel⟩

theorem test_CanAndLinOpcodes_clnCanTxAbort_holds :
    ∃ (ring slot : Nat) (c : Cmd) (s0 s : State), (Admits (specOf opsCln 0x0903) ring slot c s0 s = true) ∧ (c.p 32 1
      ≤ 63 ∧ c.zero 33 3 = true ∧ c.p 32 1 < gwFirst s c.inst) ∧ ((buf s c.inst (c.p 32 1)).st = 1 ∨ (buf s c.inst
      (c.p 32 1)).st = 2) :=
    ⟨0, 0, W.cmd 0x0903 15 [31, 0, 0, 0], (let s := (W.st 9 (W.cmd 0x0903 15 [31, 0, 0, 0])); s.withCln (fun c =>
      { c with bufs := [(15 * 64 + 31, { TxBuf.zero with st := 2 })] })), (let s := (W.st 9 (W.cmd 0x0903 15 [31, 0,
      0, 0])); s.withCln (fun c => { c with bufs := [(15 * 64 + 31, { TxBuf.zero with st := 2 })] })),
      by decide +kernel⟩

theorem test_CanAndLinOpcodes_clnCanTxAbort_holds_2 :
    ∃ (ring slot : Nat) (c : Cmd) (s0 s : State), (Admits (specOf opsCln 0x0903) ring slot c s0 s = true) ∧ (c.p 32 1
      ≤ 63 ∧ c.zero 33 3 = true ∧ c.p 32 1 < gwFirst s c.inst) ∧ ((buf s c.inst (c.p 32 1)).st = 3) :=
    ⟨0, 0, W.cmd 0x0903 15 [31, 0, 0, 0], (let s := (W.st 9 (W.cmd 0x0903 15 [31, 0, 0, 0])); s.withCln (fun c =>
      { c with bufs := [(15 * 64 + 31, W.tx)] })), (let s := (W.st 9 (W.cmd 0x0903 15 [31, 0, 0, 0])); s.withCln (fun
      c => { c with bufs := [(15 * 64 + 31, W.tx)] })), by decide +kernel⟩

theorem test_CanAndLinOpcodes_clnCanTxStatus_holds :
    ∃ (ring slot : Nat) (c : Cmd) (s0 s : State), (Admits (specOf opsCln 0x0904) ring slot c s0 s = true) ∧ (c.p 32 1
      ≤ 63 ∧ c.zero 33 3 = true) :=
    ⟨0, 0, W.cmd 0x0904 15 [63, 0, 0, 0], (W.st 9 (W.cmd 0x0904 15 [63, 0, 0, 0])), (W.st 9 (W.cmd 0x0904 15 [63, 0,
      0, 0])), by decide +kernel⟩

theorem test_CanAndLinOpcodes_clnCanFilter_holds :
    ∃ (ring slot : Nat) (c : Cmd) (s0 s : State), (Admits (specOf opsCln 0x0905) ring slot c s0 s = true) ∧ (c.p 32 1
      ≤ 63 ∧ c.p 33 1 ≤ 7 ∧ c.p 34 1 ≤ 15 ∧ c.zero 35 1 = true ∧ c.p 36 4 < 2 ^ 29 ∧ c.p 40 4 < 2 ^ 29) :=
    ⟨0, 0, W.cmd 0x0905 15 [63, 7, 15, 0, 0xFF, 0xFF, 0xFF, 0x1F, 0xFF, 0xFF, 0xFF, 0x1F], (W.st 9 (W.cmd 0x0905 15
      [63, 7, 15, 0, 0xFF, 0xFF, 0xFF, 0x1F, 0xFF, 0xFF, 0xFF, 0x1F])), (W.st 9 (W.cmd 0x0905 15 [63, 7, 15, 0, 0xFF,
      0xFF, 0xFF, 0x1F, 0xFF, 0xFF, 0xFF, 0x1F])), by decide +kernel⟩

theorem test_CanAndLinOpcodes_clnCanRecover_holds :
    ∃ (ring slot : Nat) (c : Cmd) (s0 s : State), (Admits (specOf opsCln 0x0906) ring slot c s0 s = true) ∧ (canState
      s c.inst = 3 ∧ s.bit (canReg c.inst 0) 4 = false) :=
    ⟨0, 0, W.cmd 0x0906 15 [], (let s := (W.st 9 (W.cmd 0x0906 15 [])); (s.wr (canReg 15 0x14) 3).wr (canReg 15 0)
      0x2000), (let s := (W.st 9 (W.cmd 0x0906 15 [])); (s.wr (canReg 15 0x14) 3).wr (canReg 15 0) 0x2000),
      by decide +kernel⟩

theorem test_CanAndLinOpcodes_clnCanWakeCfg_holds :
    ∃ (ring slot : Nat) (c : Cmd) (s0 s : State), (Admits (specOf opsCln 0x0907) ring slot c s0 s = true) ∧ (c.p 32 1
      ≤ 2 ∧ c.p 33 1 ≤ 3 ∧ c.p 34 1 ≤ 3 ∧ c.p 35 1 ≤ 8 ∧ c.p 36 4 < 2 ^ 29 ∧ c.p 40 4 < 2 ^ 29) :=
    ⟨0, 0, W.cmd 0x0907 15 [2, 3, 3, 8, 0xFF, 0xFF, 0xFF, 0x1F, 0xFF, 0xFF, 0xFF, 0x1F, 1, 2, 3, 4, 5, 6, 7, 8], (W.st
      9 (W.cmd 0x0907 15 [2, 3, 3, 8, 0xFF, 0xFF, 0xFF, 0x1F, 0xFF, 0xFF, 0xFF, 0x1F, 1, 2, 3, 4, 5, 6, 7, 8])), (W.st
      9 (W.cmd 0x0907 15 [2, 3, 3, 8, 0xFF, 0xFF, 0xFF, 0x1F, 0xFF, 0xFF, 0xFF, 0x1F, 1, 2, 3, 4, 5, 6, 7, 8])),
      by decide +kernel⟩

theorem test_CanAndLinOpcodes_clnCanCounters_holds :
    ∃ (ring slot : Nat) (c : Cmd) (s0 s : State), (Admits (specOf opsCln 0x0908) ring slot c s0 s = true) :=
    ⟨0, 0, W.cmd 0x0908 15 [], (W.st 9 (W.cmd 0x0908 15 [])), (W.st 9 (W.cmd 0x0908 15 [])), by decide +kernel⟩

theorem test_CanAndLinOpcodes_clnLinConfig_holds :
    ∃ (ring slot : Nat) (c : Cmd) (s0 s : State), (Admits (specOf opsCln 0x0910) ring slot c s0 s = true) ∧ (fld (c.w
      32) 14 1 = 0 ∧ 4000 ≤ fld (c.w 32) 31 15 ∧ fld (c.w 32) 31 15 ≤ 80000 ∧ fld (c.w 36) 31 9 = 0 ∧ lcfgOk (c.w 36)
      = true) ∧ (s.bit (linReg (c.inst - 16) 0) 0 = false) :=
    ⟨0, 0, W.cmd 0x0910 23 [1, 0, 0xD0, 7, 0x9A, 1, 0, 0], (W.st 9 (W.cmd 0x0910 23 [1, 0, 0xD0, 7, 0x9A, 1, 0, 0])),
      (W.st 9 (W.cmd 0x0910 23 [1, 0, 0xD0, 7, 0x9A, 1, 0, 0])), by decide +kernel⟩

theorem test_CanAndLinOpcodes_clnLinSchedLoad_holds :
    ∃ (ring slot : Nat) (c : Cmd) (s0 s : State), (Admits (specOf opsCln 0x0911) ring slot c s0 s = true) ∧ (c.p 32 1
      ≤ 63 ∧ 1 ≤ c.p 33 1 ∧ c.p 32 1 + c.p 33 1 ≤ 64 ∧ c.len = 4 + 8 * c.p 33 1 ∧ c.zero 34 2 = true) ∧ (schedFault c
      s (c.inst - 16) (c.p 32 1) (c.p 33 1) 0 = none) ∧ ((tget none s.cln.runs (c.inst - 16)).all (fun r => !(decide
      (c.p 32 1 ≤ r.last) && decide (r.first < c.p 32 1 + c.p 33 1))) = true) :=
    ⟨0, 0, W.cmd 0x0911 23 [63, 1, 0, 0, 0x3F, 4, 0, 0, 0x80, 0x96, 0x98, 0], (let s := (W.st 9 (W.cmd 0x0911 23 [63,
      1, 0, 0, 0x3F, 4, 0, 0, 0x80, 0x96, 0x98, 0])); (s.wr (linReg 7 0) 0x7D00000).wr (linReg 7 4) 0x2D), (let s :=
      (W.st 9 (W.cmd 0x0911 23 [63, 1, 0, 0, 0x3F, 4, 0, 0, 0x80, 0x96, 0x98, 0])); (s.wr (linReg 7 0) 0x7D00000).wr
      (linReg 7 4) 0x2D), by decide +kernel⟩

theorem test_CanAndLinOpcodes_clnLinRun_holds :
    ∃ (ring slot : Nat) (c : Cmd) (s0 s : State) (t : Nat), (Admits (specOf opsCln 0x0912) ring slot c s0 s = true) ∧
      (c.p 33 1 ≤ 63 ∧ c.p 32 1 ≤ c.p 33 1 ∧ c.p 34 1 = 0 ∧ c.zero 35 1 = true ∧ c.timeForm 36 = true ∧ c.timeNs 36 <
      1000000000) ∧ (1000 ≤ linCycle s (c.inst - 16) (c.p 32 1) (c.p 33 1) ∧ linCycle s (c.inst - 16) (c.p 32 1) (c.p
      33 1) ≤ 10000000) ∧ (tget none s.cln.next (c.inst - 16) = none ∧ linState s (c.inst - 16) ≠ 0 ∧ linState s
      (c.inst - 16) ≠ 3) ∧ (t = firstInstant (c.time 36) (linCycle s (c.inst - 16) (c.p 32 1) (c.p 33 1) * 1000)
      (slotEnd s (c.inst - 16))) :=
    ⟨0, 0, W.cmd 0x0912 23 ([62, 63, 0, 0] ++ List.replicate 12 0), (let s := (W.st 9 (W.cmd 0x0912 23 ([62, 63, 0, 0]
      ++ List.replicate 12 0))); (s.wr (linReg 7 8) 1).withCln (fun c =>
      { c with sched := [(510, (0, 500)), (511, (0, 500))] })), (let s := (W.st 9 (W.cmd 0x0912 23 ([62, 63, 0, 0] ++
      List.replicate 12 0))); (s.wr (linReg 7 8) 1).withCln (fun c =>
      { c with sched := [(510, (0, 500)), (511, (0, 500))] })), 0, by decide +kernel⟩

theorem test_CanAndLinOpcodes_clnLinRun_holds_2 :
    ∃ (ring slot : Nat) (c : Cmd) (s0 s : State) (r : LinRun), (Admits (specOf opsCln 0x0912) ring slot c s0 s = true)
      ∧ (c.p 33 1 ≤ 63 ∧ c.p 32 1 ≤ c.p 33 1 ∧ c.p 34 1 = 1 ∧ c.zero 35 1 = true ∧ c.timeForm 36 = true ∧ c.timeNs 36
      < 1000000000) ∧ (tget none s.cln.next (c.inst - 16) = none ∧ linState s (c.inst - 16) ≠ 0 ∧ linState s (c.inst -
      16) ≠ 3) ∧ (tget none s.cln.runs (c.inst - 16) = some r) :=
    ⟨0, 0, W.cmd 0x0912 23 ([62, 63, 1, 0] ++ List.replicate 12 0), (let s := (W.st 9 (W.cmd 0x0912 23 ([62, 63, 1, 0]
      ++ List.replicate 12 0))); (s.wr (linReg 7 8) 2).withCln (fun c =>
      { c with runs := [(7, some ⟨62, 63, 63, 0⟩)] })), (let s := (W.st 9 (W.cmd 0x0912 23 ([62, 63, 1, 0] ++
      List.replicate 12 0))); (s.wr (linReg 7 8) 2).withCln (fun c =>
      { c with runs := [(7, some ⟨62, 63, 63, 0⟩)] })), ⟨62, 63, 63, 0⟩, by decide +kernel⟩

theorem test_CanAndLinOpcodes_clnLinData_holds :
    ∃ (ring slot : Nat) (c : Cmd) (s0 s : State), (Admits (specOf opsCln 0x0913) ring slot c s0 s = true) ∧ (c.p 32 1
      ≤ 63 ∧ 1 ≤ c.p 33 1 ∧ c.p 33 1 ≤ 8 ∧ c.zero 34 2 = true) :=
    ⟨0, 0, W.cmd 0x0913 23 [63, 8, 0, 0, 1, 2, 3, 4, 5, 6, 7, 8], (W.st 9 (W.cmd 0x0913 23 [63, 8, 0, 0, 1, 2, 3, 4,
      5, 6, 7, 8])), (W.st 9 (W.cmd 0x0913 23 [63, 8, 0, 0, 1, 2, 3, 4, 5, 6, 7, 8])), by decide +kernel⟩

theorem test_CanAndLinOpcodes_clnLinPower_holds :
    ∃ (ring slot : Nat) (c : Cmd) (s0 s : State), (Admits (specOf opsCln 0x0914) ring slot c s0 s = true) ∧ (c.p 32 1
      = 1 ∧ c.zero 33 3 = true ∧ linState s (c.inst - 16) ≠ 0 ∧ linState s (c.inst - 16) ≠ 3) :=
    ⟨0, 0, W.cmd 0x0914 23 [1, 0, 0, 0], (let s := (W.st 9 (W.cmd 0x0914 23 [1, 0, 0, 0])); s.wr (linReg 7 8) 1), (let
      s := (W.st 9 (W.cmd 0x0914 23 [1, 0, 0, 0])); s.wr (linReg 7 8) 1), by decide +kernel⟩

theorem test_CanAndLinOpcodes_clnLinPower_holds_2 :
    ∃ (ring slot : Nat) (c : Cmd) (s0 s : State), (Admits (specOf opsCln 0x0914) ring slot c s0 s = true) ∧ (c.p 32 1
      = 2 ∧ c.zero 33 3 = true ∧ linState s (c.inst - 16) = 3) :=
    ⟨0, 0, W.cmd 0x0914 23 [2, 0, 0, 0], (let s := (W.st 9 (W.cmd 0x0914 23 [2, 0, 0, 0])); s.wr (linReg 7 8) 3), (let
      s := (W.st 9 (W.cmd 0x0914 23 [2, 0, 0, 0])); s.wr (linReg 7 8) 3), by decide +kernel⟩

theorem test_CanAndLinOpcodes_clnLinCounters_holds :
    ∃ (ring slot : Nat) (c : Cmd) (s0 s : State), (Admits (specOf opsCln 0x0915) ring slot c s0 s = true) :=
    ⟨0, 0, W.cmd 0x0915 23 [], (W.st 9 (W.cmd 0x0915 23 [])), (W.st 9 (W.cmd 0x0915 23 [])), by decide +kernel⟩

theorem test_CanAndLinBuses_integrationDone_holds :
    ∃ (ch : Nat) (s : State), (s.up = true) ∧ (ch < 16 ∧ canState s ch = 1 ∧ canBusy s ch = false) :=
    ⟨15, W.up.wr (canReg 15 0x14) 1, by decide +kernel⟩

theorem test_CanAndLinBuses_busOffExit_holds :
    ∃ (ch : Nat) (s : State), (s.up = true) ∧ (ch < 16 ∧ canState s ch = 4) :=
    ⟨15, W.up.wr (canReg 15 0x14) 4, by decide +kernel⟩

theorem test_CanAndLinBuses_canFrameReceived_holds :
    ∃ (ch fmt id : Nat) (ide rr esi : Bool) (data : List Byte) (sdt vcid : Nat) (sec : Bool) (af ago : Nat) (s :
      State), (s.up = true) ∧ (canRuns s ch = true ∧ canLenOk fmt data.length = true) :=
    ⟨15, 0, 0x7FF, false, false, false, [1, 2], 0, 0, false, 0, 0, W.can, by decide +kernel⟩

theorem test_CanAndLinBuses_canFrameReceived_holds_2 :
    ∃ (ch fmt id : Nat) (ide rr esi : Bool) (data : List Byte) (sdt vcid : Nat) (sec : Bool) (af ago : Nat) (s :
      State), (s.up = true) ∧ (ch < 16 ∧ canFitted s.tier ch = true ∧ canRuns s ch = false ∧ canLenOk fmt data.length
      = true) :=
    ⟨15, 0, 0x7FF, false, false, false, [1, 2], 0, 0, false, 0, 0, W.up, by decide +kernel⟩

theorem test_CanAndLinBuses_canTxStart_holds :
    ∃ (ch i : Nat) (s : State), (s.up = true) ∧ (canActive s ch = true ∧ onBus s ch = none ∧ canBusy s ch = false) ∧
      (winner s ch = some i) :=
    ⟨15, 63, W.canBuf { TxBuf.zero with st := 2 }, by decide +kernel⟩

theorem test_CanAndLinBuses_canTxStart_holds_2 :
    ∃ (ch : Nat) (s : State), (s.up = true) ∧ (ch < 16 ∧ canFitted s.tier ch = true ∧ onBus s ch = none ∧ canBusy s ch
      = false) :=
    ⟨15, W.can, by decide +kernel⟩

theorem test_CanAndLinBuses_canTxDone_holds :
    ∃ (ch i : Nat) (s t : State), (s.up = true) ∧ (canRuns s ch = true ∧ onBus s ch = some i ∧ (buf s ch i).abort =
      false) ∧ (t = measureDelay ch (buf s ch i).frame.fmt (busSend (.can ch (buf s ch i).frame) (canCount ch 0x40
      s))) :=
    ⟨15, 63, W.canBuf W.tx, _, by decide, by decide +kernel, rfl⟩

theorem test_CanAndLinBuses_canBusError_holds :
    ∃ (ch kind at_ : Nat) (alt : Bool) (s : State), (s.up = true) ∧ (canRuns s ch = true ∧ onBus s ch = none) :=
    ⟨15, 4, 3, false, W.can, by decide +kernel⟩

theorem test_CanAndLinBuses_canBusError_holds_2 :
    ∃ (ch kind i at_ : Nat) (alt : Bool) (s : State), (s.up = true) ∧ (canRuns s ch = true ∧ onBus s ch = some i) :=
    ⟨15, 1, 63, 1, false, W.canBuf { W.tx with limit := 15 }, by decide +kernel⟩

theorem test_CanAndLinBuses_txError_holds :
    ∃ (ch i : Nat) (s t : State), (onBus s ch = some i ∧ (buf s ch i).abort = false ∧ (buf s ch i).failed.2 = false) ∧
      (t = errorFrame ch true (setBuf ch i (buf s ch i).failed.1 s)) ∧ (tec t ch + 8 ≤ 255) :=
    ⟨15, 63, W.canBuf { W.tx with limit := 15 }, _, by decide +kernel, rfl, by decide +kernel⟩

theorem test_CanAndLinBuses_txScheduleTime_holds :
    ∃ (ch i : Nat) (s : State), (s.up = true) ∧ (i < 64 ∧ (buf s ch i).st = 1 ∧ (buf s ch i).timing = 1 ∧ (buf s ch
      i).at_ ≤ s.now) :=
    ⟨15, 63, W.canBuf { TxBuf.zero with st := 1, timing := 1 }, by decide +kernel⟩

theorem test_CanAndLinBuses_txCycleOccurrence_holds :
    ∃ (ch i : Nat) (s : State), (s.up = true) ∧ (i < 64 ∧ (buf s ch i).timing = 2 ∧ (buf s ch i).st ≠ 6 ∧ (buf s ch
      i).at_ ≤ s.now) :=
    ⟨15, 63, W.canBuf { TxBuf.zero with st := 1, timing := 2, period := 100000 }, by decide +kernel⟩

theorem test_CanAndLinBuses_txdTimeout_holds :
    ∃ (ch : Nat) (s : State), (s.up = true) ∧ (ch < 16 ∧ canFitted s.tier ch = true) :=
    ⟨15, W.up, by decide +kernel⟩

theorem test_CanAndLinBuses_canWakeDetect_holds :
    ∃ (ch : Nat) (ide : Bool) (id dlc : Nat) (data : List Byte) (s : State), (ch < 16 ∧ canFitted s.tier ch = true ∧
      canWatches s ch = true) ∧ ((tget WakeCfg.zero s.cln.wake ch).mode = 1) :=
    ⟨15, false, 0, 0, [], (W.up.wr (canReg 15 0) 8).withCln (fun c =>
      { c with wake := [(15, { WakeCfg.zero with mode := 1 })] }), by decide +kernel⟩

theorem test_CanAndLinBuses_linSlotStart_holds :
    ∃ (m : Nat) (r : LinRun) (s : State), (s.up = true) ∧ (m < 8 ∧ s.bit (linReg m 0) 0 = true ∧ tget none s.cln.onBus
      m = none ∧ slotOver s m = true) ∧ (tget none s.cln.next m = none ∧ tget none s.cln.runs m = some r) :=
    ⟨7, ⟨62, 63, 63, 0⟩, W.lin, by decide +kernel⟩

theorem test_CanAndLinBuses_linSlotStart_holds_2 :
    ∃ (m f l t : Nat) (s : State), (s.up = true) ∧ (m < 8 ∧ s.bit (linReg m 0) 0 = true ∧ tget none s.cln.onBus m =
      none ∧ slotOver s m = true) ∧ (tget none s.cln.next m = some (.switch f l t) ∧ t ≤ s.now) :=
    ⟨7, 62, 63, 0, W.lin.withCln (fun c => { c with next := [(7, some (.switch 62 63 0))] }), by decide +kernel⟩

theorem test_CanAndLinBuses_linSlotStart_holds_3 :
    ∃ (m : Nat) (s : State), (s.up = true) ∧ (m < 8 ∧ s.bit (linReg m 0) 0 = true ∧ tget none s.cln.onBus m = none ∧
      slotOver s m = true) ∧ (tget none s.cln.next m = some .stop) :=
    ⟨7, W.lin.withCln (fun c => { c with next := [(7, some .stop)] }), by decide +kernel⟩

theorem test_CanAndLinBuses_linSlotStart_holds_4 :
    ∃ (m : Nat) (s : State), (s.up = true) ∧ (m < 8 ∧ s.bit (linReg m 0) 0 = true ∧ tget none s.cln.onBus m = none ∧
      slotOver s m = true) ∧ (tget none s.cln.next m = some .sleep) :=
    ⟨7, W.lin.withCln (fun c => { c with next := [(7, some .sleep)] }), by decide +kernel⟩

theorem test_CanAndLinBuses_linSlotEnd_holds :
    ∃ (m : Nat) (data : List Byte) (chk : Option Nat) (framing : Bool) (x : LinFrame) (s : State), (s.up = true) ∧
      (tget none s.cln.onBus m = some x) ∧ (x.publish.isSome = true ∧ x.toSleep = false) :=
    ⟨7, [], none, false, W.linFrame (some [1]) false, W.linBus (W.linFrame (some [1]) false), by decide +kernel⟩

theorem test_CanAndLinBuses_linSlotEnd_holds_2 :
    ∃ (m : Nat) (data : List Byte) (chk : Option Nat) (framing : Bool) (x : LinFrame) (s t : State), (s.up = true) ∧
      (tget none s.cln.onBus m = some x) ∧ (x.publish = none ∧ x.toSleep = false) ∧ (t = s.withCln (fun c =>
      { c with onBus := tput none c.onBus m none })) ∧ (linFlags x (data.take x.len) chk framing ≠ 0) :=
    ⟨7, [], none, false, W.linFrame none false, W.linBus (W.linFrame none false), _, by decide, by decide +kernel,
      by decide, rfl, by decide⟩

theorem test_CanAndLinBuses_linWakeDetect_holds :
    ∃ (m : Nat) (s : State), (m < 8 ∧ linFitted s.tier m = true ∧ s.sys.phase = .running) ∧ (linState s m = 3 ∧ s.bit
      (linReg m 4) 8 = true) :=
    ⟨7, (W.up.wr (linReg 7 4) 0x100).wr (linReg 7 8) 3, by decide +kernel⟩

theorem test_CanAndLinBuses_linWakeDone_holds :
    ∃ (m : Nat) (s : State), (s.up = true) ∧ (s.mason.cmds.any (fun c => c.running && (c.opcode == 0x0914 && c.inst ==
      16 + m && c.p 32 1 == 2)) = true) :=
    ⟨7, W.one { W.cmd 0x0914 23 [2, 0, 0, 0] with running := true }, by decide +kernel⟩

theorem test_GatewayOpcodes_gwyRouteWrite_holds :
    ∃ (ring slot : Nat) (c : Cmd) (s0 s : State) (k i : Nat), (Admits (specOf opsGwy 0x0A00) ring slot c s0 s = true)
      ∧ (k = c.p 32 8 ∧ routeKeyForm k = true ∧ (keySrc k ≤ 23 → clnFitted s (keySrc k) = true) ∧ (s.aclEntry 10
      c.issuer).mask.getLsbD (srcMaskBit (keySrc k)) = true) ∧ (c.p 40 1 ≤ 3 ∧ c.p 41 1 ≤ 63 ∧ c.p 44 4 ≤ 10000000) ∧
      (∀ t ∈ entryTargets (slice c.payload 0 48), targetForm t = true ∧ (tKind t = 0 ∨ ((tKind t = 1 ∨ tKind t = 2 →
      clnFitted s (tIndex t) = true) ∧ (s.aclEntry 10 c.issuer).mask.getLsbD (targetMaskBit t) = true))) ∧ (findRoute
      s k = some i) :=
    ⟨0, 0, W.cmd 0x0A00 0 W.route, (let s := (W.st 10 (W.cmd 0x0A00 0 W.route)); W.routed s), (let s := (W.st 10
      (W.cmd 0x0A00 0 W.route)); W.routed s), 0x1700000001, W.bucket * 4 + 3, by decide +kernel⟩

theorem test_GatewayOpcodes_gwyRouteWrite_holds_2 :
    ∃ (ring slot : Nat) (c : Cmd) (s0 s : State) (k i : Nat), (Admits (specOf opsGwy 0x0A00) ring slot c s0 s = true)
      ∧ (k = c.p 32 8 ∧ routeKeyForm k = true ∧ (keySrc k ≤ 23 → clnFitted s (keySrc k) = true) ∧ (s.aclEntry 10
      c.issuer).mask.getLsbD (srcMaskBit (keySrc k)) = true) ∧ (c.p 40 1 ≤ 3 ∧ c.p 41 1 ≤ 63 ∧ c.p 44 4 ≤ 10000000) ∧
      (∀ t ∈ entryTargets (slice c.payload 0 48), targetForm t = true ∧ (tKind t = 0 ∨ ((tKind t = 1 ∨ tKind t = 2 →
      clnFitted s (tIndex t) = true) ∧ (s.aclEntry 10 c.issuer).mask.getLsbD (targetMaskBit t) = true))) ∧ (findRoute
      s k = none) ∧ (freeWay s k = some i) :=
    ⟨0, 0, W.cmd 0x0A00 0 W.route, (W.st 10 (W.cmd 0x0A00 0 W.route)), (W.st 10 (W.cmd 0x0A00 0 W.route)),
      0x1700000001, W.bucket * 4, by decide +kernel⟩

theorem test_GatewayOpcodes_gwyRouteDelete_holds :
    ∃ (ring slot : Nat) (c : Cmd) (s0 s : State) (k i : Nat), (Admits (specOf opsGwy 0x0A01) ring slot c s0 s = true)
      ∧ (k = c.p 32 8 ∧ routeKeyForm k = true ∧ (keySrc k ≤ 23 → clnFitted s (keySrc k) = true) ∧ (s.aclEntry 10
      c.issuer).mask.getLsbD (srcMaskBit (keySrc k)) = true) ∧ (findRoute s k = some i) :=
    ⟨0, 0, W.cmd 0x0A01 0 (leBytes 8 0x1700000001), (let s := (W.st 10 (W.cmd 0x0A01 0 (leBytes 8 0x1700000001)));
      W.routed s), (let s := (W.st 10 (W.cmd 0x0A01 0 (leBytes 8 0x1700000001))); W.routed s), 0x1700000001, W.bucket
      * 4 + 3, by decide +kernel⟩

theorem test_GatewayOpcodes_gwyRouteRead_holds :
    ∃ (ring slot : Nat) (c : Cmd) (s0 s : State) (k i : Nat) (r : Route), (Admits (specOf opsGwy 0x0A02) ring slot c
      s0 s = true) ∧ (k = c.p 32 8 ∧ routeKeyForm k = true ∧ (keySrc k ≤ 23 → clnFitted s (keySrc k) = true) ∧
      (s.aclEntry 10 c.issuer).mask.getLsbD (srcMaskBit (keySrc k)) = true) ∧ (findRoute s k = some i ∧ route s i =
      some r ∧ r.bytes.length = 48) :=
    ⟨0, 0, W.cmd 0x0A02 0 (leBytes 8 0x1700000001), (let s := (W.st 10 (W.cmd 0x0A02 0 (leBytes 8 0x1700000001)));
      W.routed s), (let s := (W.st 10 (W.cmd 0x0A02 0 (leBytes 8 0x1700000001))); W.routed s), 0x1700000001, W.bucket
      * 4 + 3, ⟨W.route, 7⟩, by decide +kernel⟩

theorem test_GatewayOpcodes_gwyFreshSet_holds :
    ∃ (ring slot : Nat) (c : Cmd) (s0 s : State) (k i : Nat) (r : Route), (Admits (specOf opsGwy 0x0A06) ring slot c
      s0 s = true) ∧ (k = c.p 32 8 ∧ routeKeyForm k = true ∧ (keySrc k ≤ 23 → clnFitted s (keySrc k) = true) ∧
      (s.aclEntry 10 c.issuer).mask.getLsbD (srcMaskBit (keySrc k)) = true) ∧ (findRoute s k = some i ∧ route s i =
      some r) :=
    ⟨0, 0, W.cmd 0x0A06 0 (leBytes 8 0x1700000001 ++ List.replicate 8 0xFF), (let s := (W.st 10 (W.cmd 0x0A06 0
      (leBytes 8 0x1700000001 ++ List.replicate 8 0xFF))); W.routed s), (let s := (W.st 10 (W.cmd 0x0A06 0 (leBytes 8
      0x1700000001 ++ List.replicate 8 0xFF))); W.routed s), 0x1700000001, W.bucket * 4 + 3, ⟨W.route, 7⟩,
      by decide +kernel⟩

theorem test_GatewayOpcodes_gwySetSource_holds :
    ∃ (ring slot : Nat) (c : Cmd) (s0 s : State) (n : Nat), (Admits (specOf opsGwy 0x0A03) ring slot c s0 s = true) ∧
      (n = c.p 32 2 ∧ srcOk n = true ∧ (n ≤ 23 → clnFitted s n = true) ∧ (s.aclEntry 10 c.issuer).mask.getLsbD
      (srcMaskBit n) = true) ∧ (c.p 34 1 = 0 ∧ c.zero 35 1 = true) :=
    ⟨0, 0, W.cmd 0x0A03 0 ([0xFF, 1] ++ List.replicate 10 0), (W.st 10 (W.cmd 0x0A03 0 ([0xFF, 1] ++ List.replicate 10
      0))), (W.st 10 (W.cmd 0x0A03 0 ([0xFF, 1] ++ List.replicate 10 0))), 511, by decide +kernel⟩

theorem test_GatewayOpcodes_gwySetSource_holds_2 :
    ∃ (ring slot : Nat) (c : Cmd) (s0 s : State) (n k : Nat), (Admits (specOf opsGwy 0x0A03) ring slot c s0 s = true)
      ∧ (n = c.p 32 2 ∧ srcOk n = true ∧ (n ≤ 23 → clnFitted s n = true) ∧ (s.aclEntry 10 c.issuer).mask.getLsbD
      (srcMaskBit n) = true) ∧ (c.p 34 1 = 1 ∧ c.zero 35 1 = true) ∧ (k = c.p 36 8 ∧ routeKeyForm k = true ∧ (keySrc k
      ≤ 23 → clnFitted s (keySrc k) = true) ∧ (s.aclEntry 10 c.issuer).mask.getLsbD (srcMaskBit (keySrc k)) = true) :=
    ⟨0, 0, W.cmd 0x0A03 0 ([0xFF, 1, 1, 0] ++ leBytes 8 0x1700000001), (W.st 10 (W.cmd 0x0A03 0 ([0xFF, 1, 1, 0] ++
      leBytes 8 0x1700000001))), (W.st 10 (W.cmd 0x0A03 0 ([0xFF, 1, 1, 0] ++ leBytes 8 0x1700000001))), 511,
      0x1700000001, by decide +kernel⟩

theorem test_GatewayOpcodes_gwyTunnelCfg_holds :
    ∃ (ring slot : Nat) (c : Cmd) (s0 s : State), (Admits (specOf opsGwy 0x0A04) ring slot c s0 s = true) ∧ (fld (c.w
      32) 31 6 = 0 ∧ (c.p 42 2).testBit 12 = false ∧ tunnelRange c = none ∧ c.zero 61 1 = true) ∧ ((tunnel s
      c.inst).en = false) :=
    ⟨0, 0, W.cmd 0x0A04 255 ([0x39, 0, 0, 0, 1, 2, 3, 4, 5, 6, 0xFE, 0xEF] ++ List.replicate 16 1 ++ [16, 0, 0xFF, 7,
      0xD0, 7, 0, 0, 0x40, 0x42, 0xF, 0]), (W.st 10 (W.cmd 0x0A04 255 ([0x39, 0, 0, 0, 1, 2, 3, 4, 5, 6, 0xFE, 0xEF]
      ++ List.replicate 16 1 ++ [16, 0, 0xFF, 7, 0xD0, 7, 0, 0, 0x40, 0x42, 0xF, 0]))), (W.st 10 (W.cmd 0x0A04 255
      ([0x39, 0, 0, 0, 1, 2, 3, 4, 5, 6, 0xFE, 0xEF] ++ List.replicate 16 1 ++ [16, 0, 0xFF, 7, 0xD0, 7, 0, 0, 0x40,
      0x42, 0xF, 0]))), by decide +kernel⟩

theorem test_GatewayOpcodes_gwyTunnelCfg_holds_2 :
    ∃ (ring slot : Nat) (c : Cmd) (s0 s : State), (Admits (specOf opsGwy 0x0A04) ring slot c s0 s = true) ∧ (fld (c.w
      32) 31 6 = 0 ∧ (c.p 42 2).testBit 12 = false ∧ tunnelRange c = none ∧ c.zero 61 1 = true) ∧ ((tunnel s
      c.inst).en = true ∧ bitOf (c.w 32) 0 = false) :=
    ⟨0, 0, W.cmd 0x0A04 255 ([0x38, 0, 0, 0, 1, 2, 3, 4, 5, 6, 0xFE, 0xEF] ++ List.replicate 16 1 ++ [16, 0, 0xFF, 7,
      0xD0, 7, 0, 0, 0x40, 0x42, 0xF, 0]), (let s := (W.st 10 (W.cmd 0x0A04 255 ([0x38, 0, 0, 0, 1, 2, 3, 4, 5, 6,
      0xFE, 0xEF] ++ List.replicate 16 1 ++ [16, 0, 0xFF, 7, 0xD0, 7, 0, 0, 0x40, 0x42, 0xF, 0]))); s.withGwy (fun g
      => { g with tunnels := [(255, { Tunnel.zero with flags := 1 })] })), (let s := (W.st 10 (W.cmd 0x0A04 255
      ([0x38, 0, 0, 0, 1, 2, 3, 4, 5, 6, 0xFE, 0xEF] ++ List.replicate 16 1 ++ [16, 0, 0xFF, 7, 0xD0, 7, 0, 0, 0x40,
      0x42, 0xF, 0]))); s.withGwy (fun g => { g with tunnels := [(255, { Tunnel.zero with flags := 1 })] })),
      by decide +kernel⟩

theorem test_GatewayOpcodes_gwyAuthProfile_holds :
    ∃ (ring slot : Nat) (c : Cmd) (s0 s : State), (Admits (specOf opsGwy 0x0A05) ring slot c s0 s = true) ∧ (c.p 32 1
      ≤ 63 ∧ 3 ≤ c.p 33 1 ∧ c.p 33 1 ≤ 16 ∧ c.p 34 1 ≤ 8 ∧ c.zero 35 1 = true ∧ c.p 36 2 ≤ 1023 ∧ c.zero 38 2 = true ∧
      c.p 40 4 ≠ 0) :=
    ⟨0, 0, W.cmd 0x0A05 0 [63, 16, 8, 0, 0xFF, 3, 0, 0, 1, 0, 0, 0], (W.st 10 (W.cmd 0x0A05 0 [63, 16, 8, 0, 0xFF, 3,
      0, 0, 1, 0, 0, 0])), (W.st 10 (W.cmd 0x0A05 0 [63, 16, 8, 0, 0xFF, 3, 0, 0, 1, 0, 0, 0])), by decide +kernel⟩

theorem test_GatewayOpcodes_gwyCounters_holds :
    ∃ (ring slot : Nat) (c : Cmd) (s0 s : State), (Admits (specOf opsGwy 0x0A07) ring slot c s0 s = true) :=
    ⟨0, 0, W.cmd 0x0A07 0 [], (W.st 10 (W.cmd 0x0A07 0 [])), (W.st 10 (W.cmd 0x0A07 0 [])), by decide +kernel⟩

theorem test_GatewayOpcodes_gwyNmCfg_holds :
    ∃ (ring slot : Nat) (c : Cmd) (s0 s : State), (Admits (specOf opsNm 0x0A20) ring slot c s0 s = true) ∧ (c.w 32 &&&
      ~~~ 0x0001FF0F#32 = 0 ∧ nmForm c = none ∧ 100 ≤ c.p 48 2 ∧ 100 ≤ c.p 52 2 ∧ 10 ≤ c.p 54 2) ∧ ((c.p 70 2).testBit
      12 = false ∧ c.inst < 16) ∧ (nmEn s c.inst = false) :=
    ⟨0, 0, W.cmd 0x0A20 15 ([0xB, 0xFF, 1, 0] ++ List.replicate 4 1 ++ List.replicate 8 0 ++ [101, 0, 100, 0, 100, 0,
      100, 0] ++ List.replicate 16 0), (W.st 10 (W.cmd 0x0A20 15 ([0xB, 0xFF, 1, 0] ++ List.replicate 4 1 ++
      List.replicate 8 0 ++ [101, 0, 100, 0, 100, 0, 100, 0] ++ List.replicate 16 0))), (W.st 10 (W.cmd 0x0A20 15
      ([0xB, 0xFF, 1, 0] ++ List.replicate 4 1 ++ List.replicate 8 0 ++ [101, 0, 100, 0, 100, 0, 100, 0] ++
      List.replicate 16 0))), by decide +kernel⟩

theorem test_GatewayOpcodes_gwyNmCfg_holds_2 :
    ∃ (ring slot : Nat) (c : Cmd) (s0 s : State), (Admits (specOf opsNm 0x0A20) ring slot c s0 s = true) ∧ (c.w 32 &&&
      ~~~ 0x0001FF0F#32 = 0 ∧ nmForm c = none ∧ 100 ≤ c.p 48 2 ∧ 100 ≤ c.p 52 2 ∧ 10 ≤ c.p 54 2) ∧ ((c.p 70 2).testBit
      12 = false ∧ 16 ≤ c.inst ∧ c.p 70 2 % 4096 ≠ 0 ∧ c.p 70 2 % 4096 ≠ 4095) ∧ (nmEn s c.inst = false) :=
    ⟨0, 0, W.cmd 0x0A20 19 ([3, 0xFF, 0, 0, 1, 1, 0, 0] ++ List.replicate 8 0 ++ [101, 0, 100, 0, 100, 0, 100, 0] ++
      List.replicate 12 1 ++ [1, 1, 0xFE, 0xEF]), (W.st 10 (W.cmd 0x0A20 19 ([3, 0xFF, 0, 0, 1, 1, 0, 0] ++
      List.replicate 8 0 ++ [101, 0, 100, 0, 100, 0, 100, 0] ++ List.replicate 12 1 ++ [1, 1, 0xFE, 0xEF]))), (W.st 10
      (W.cmd 0x0A20 19 ([3, 0xFF, 0, 0, 1, 1, 0, 0] ++ List.replicate 8 0 ++ [101, 0, 100, 0, 100, 0, 100, 0] ++
      List.replicate 12 1 ++ [1, 1, 0xFE, 0xEF]))), by decide +kernel⟩

theorem test_GatewayOpcodes_gwyNmRequest_holds :
    ∃ (ring slot : Nat) (c : Cmd) (s0 s : State), (Admits (specOf opsNm 0x0A21) ring slot c s0 s = true) ∧ (c.p 32 1 =
      1 ∧ c.zero 33 3 = true ∧ nmEn s c.inst = true) :=
    ⟨0, 0, W.cmd 0x0A21 19 [1, 0, 0, 0], (let s := (W.st 10 (W.cmd 0x0A21 19 [1, 0, 0, 0])); s.wr (nmReg 19 0) 1),
      (let s := (W.st 10 (W.cmd 0x0A21 19 [1, 0, 0, 0])); s.wr (nmReg 19 0) 1), by decide +kernel⟩

theorem test_GatewayOpcodes_gwyNmRequest_holds_2 :
    ∃ (ring slot : Nat) (c : Cmd) (s0 s : State), (Admits (specOf opsNm 0x0A21) ring slot c s0 s = true) ∧ (c.p 32 1 =
      2 ∧ c.zero 33 3 = true ∧ nmEn s c.inst = true) :=
    ⟨0, 0, W.cmd 0x0A21 19 [2, 0, 0, 0], (let s := (W.st 10 (W.cmd 0x0A21 19 [2, 0, 0, 0])); s.wr (nmReg 19 0) 1),
      (let s := (W.st 10 (W.cmd 0x0A21 19 [2, 0, 0, 0])); s.wr (nmReg 19 0) 1), by decide +kernel⟩

theorem test_GatewayOpcodes_gwyNmRequest_holds_3 :
    ∃ (ring slot : Nat) (c : Cmd) (s0 s : State), (Admits (specOf opsNm 0x0A21) ring slot c s0 s = true) ∧ (c.p 32 1 =
      3 ∧ c.zero 33 3 = true ∧ nmEn s c.inst = true) :=
    ⟨0, 0, W.cmd 0x0A21 19 [3, 0, 0, 0], (let s := (W.st 10 (W.cmd 0x0A21 19 [3, 0, 0, 0])); s.wr (nmReg 19 0) 1),
      (let s := (W.st 10 (W.cmd 0x0A21 19 [3, 0, 0, 0])); s.wr (nmReg 19 0) 1), by decide +kernel⟩

theorem test_GatewayOpcodes_gwyNmStatus_holds :
    ∃ (ring slot : Nat) (c : Cmd) (s0 s : State), (Admits (specOf opsNm 0x0A22) ring slot c s0 s = true) ∧ ((tget
      (List.replicate 6 0) s.gwy.lastUdata c.inst).length = 6) :=
    ⟨0, 0, W.cmd 0x0A22 19 [], (W.st 10 (W.cmd 0x0A22 19 [])), (W.st 10 (W.cmd 0x0A22 19 [])), by decide +kernel⟩

theorem test_GatewayOpcodes_gwyNmUdata_holds :
    ∃ (ring slot : Nat) (c : Cmd) (s0 s : State), (Admits (specOf opsNm 0x0A23) ring slot c s0 s = true) ∧ (c.zero 38
      2 = true) :=
    ⟨0, 0, W.cmd 0x0A23 19 [1, 2, 3, 4, 5, 6, 0, 0], (W.st 10 (W.cmd 0x0A23 19 [1, 2, 3, 4, 5, 6, 0, 0])), (W.st 10
      (W.cmd 0x0A23 19 [1, 2, 3, 4, 5, 6, 0, 0])), by decide +kernel⟩

theorem test_GatewayTakesMessages_sprueRecord_holds :
    ∃ (n : Nat) (p : List SWord) (r : List (List SWord)) (s u : State), (s.up = true) ∧ (u = hwDrain n s ∧ gwyInbox u
      n = p :: r) ∧ (n ≤ 24 ∧ recordGood p = true ∧ p.any (fun w => w.tag == 3) = false) ∧ (n < 16 → nmTakes u n
      (recordMsg u n (p.map (·.data))).frame = false) :=
    ⟨24, [.mk' 0 1], [], setHw 24 [[.mk' 0 1]] W.up, _, by decide, ⟨rfl, by decide +kernel⟩, by decide, by decide⟩

theorem test_GatewayTakesMessages_sprueRecord_holds_2 :
    ∃ (n : Nat) (p : List SWord) (r : List (List SWord)) (s u : State), (s.up = true) ∧ (u = hwDrain n s ∧ gwyInbox u
      n = p :: r) ∧ (n ≤ 24) :=
    ⟨24, [.mk' 0 1], [], setHw 24 [[.mk' 0 1]] W.up, _, by decide, ⟨rfl, by decide +kernel⟩, by decide⟩

theorem test_GatewayTakesMessages_sprueRecord_holds_3 :
    ∃ (n : Nat) (p : List SWord) (r : List (List SWord)) (s u : State), (s.up = true) ∧ (u = hwDrain n s ∧ gwyInbox u
      n = p :: r) ∧ (n ≤ 24 ∧ p.any (fun w => w.tag == 3) = true) :=
    ⟨24, [.mk' 0 3], [], setHw 24 [[.mk' 0 3]] W.up, _, by decide, ⟨rfl, by decide +kernel⟩, by decide⟩

theorem test_GatewayTakesMessages_sprueRecord_holds_4 :
    ∃ (n : Nat) (p : List SWord) (r : List (List SWord)) (s u : State), (s.up = true) ∧ (u = hwDrain n s ∧ gwyInbox u
      n = p :: r) ∧ (n ≤ 24 ∧ p.any (fun w => w.tag == 3) = false ∧ recordGood p = false) :=
    ⟨24, [.mk' 0 2], [], setHw 24 [[.mk' 0 2]] W.up, _, by decide, ⟨rfl, by decide +kernel⟩, by decide⟩

theorem test_GatewayTakesMessages_authResult_holds :
    ∃ (i : Nat) (w : AuthWait) (j : AuthJob) (s t : State), (s.up = true) ∧ (s.gwy.waits.find? (fun w => w.route == i)
      = some w) ∧ (w.job = some j) ∧ (t = endAuth w j (s.withGwy (fun g => { g with waits := popWait i g.waits }))) :=
    ⟨3, W.wait, ⟨Profile.zero, [], 0⟩, W.up.withGwy (fun g => { g with waits := [W.wait] }), _, by decide,
      by decide +kernel, rfl, rfl⟩

theorem test_GatewayTakesMessages_releaseTime_holds :
    ∃ (x : Timed) (s : State), (s.up = true) ∧ (firstTimed s.gwy.timed = some x ∧ x.at_ ≤ s.now) :=
    ⟨⟨0, 1, [], true⟩, W.up.withGwy (fun g => { g with timed := [⟨5, 1, [], false⟩, ⟨0, 1, [], true⟩] }),
      by decide +kernel⟩

theorem test_GatewayTakesMessages_gwBufferLoad_holds :
    ∃ (ch : Nat) (s : State), (s.up = true) ∧ (ch < 16) :=
    ⟨15, W.up, by decide +kernel⟩

theorem test_GatewayTakesMessages_bundleTimeout_holds :
    ∃ (t : Nat) (s : State), (s.up = true) :=
    ⟨255, W.up, by decide +kernel⟩

theorem test_GatewayTakesMessages_tunnelFrameIn_holds :
    ∃ (x : IgCopy) (r : List IgCopy) (t : Nat) (s : State), (s.up = true) ∧ (s.eth.igRx = x :: r ∧ x.tunnel = some t)
      :=
    ⟨⟨some 255, false, 0, [], 0, 0, false⟩, [], 255, W.up.withEth (fun e =>
      { e with igRx := [⟨some 255, false, 0, [], 0, 0, false⟩] }), by decide +kernel⟩

theorem test_GatewayTakesMessages_injectDoorbell_holds :
    ∃ (m n : Nat) (v : Word) (s t : State), (MayWrite s m 10 (.bit (32 + n)) = true) ∧ (n < 16 ∧ v.toNat ≤ 65535 ∧
      v.toNat < hostSlots s n ∧ s.bit (hostReg n 0x10) 0 = true) ∧ (injectTake n v.toNat (hostSlots s n) (s.wr
      (hostReg n 0x20) v) = some t) :=
    ⟨0x10, 15, 0, (W.adm 10).wr (hostReg 15 0x10) 9, _, by decide +kernel, by decide +kernel, rfl⟩

theorem test_GatewayTakesMessages_hostqCfgWrite_holds :
    ∃ (m n : Nat) (v : Word) (s : State), (MayWrite s m 10 (.bit (32 + n)) = true) ∧ (n < 16 ∧ v &&& ~~~ 0x007F01FF#32
      = 0) :=
    ⟨0x10, 15, 0x1018D, W.adm 10, by decide +kernel⟩

theorem test_NetworkManagementRuns_nmPduReceived_holds :
    ∃ (e : Nat) (p : List SWord) (r : List (List SWord)) (m : Msg) (s u : State), (s.up = true) ∧ (e < 16 ∧ u =
      hwDrain e s ∧ gwyInbox u e = p :: r ∧ m = recordMsg u e (p.map (·.data))) ∧ (recordGood p = true ∧ nmTakes u e
      m.frame = true ∧ 2 ≤ m.frame.data.length) ∧ ((nmReceive e m.frame.data (popRecord e u)).bit (nmReg e 0) 16 =
      false) :=
    ⟨15, W.nmRec, [], _, W.nmRx, _, by decide, ⟨by decide, rfl, by decide +kernel, rfl⟩, by decide +kernel,
      by decide +kernel⟩

theorem test_NetworkManagementRuns_nmPduReceived_holds_2 :
    ∃ (e : Nat) (p : List SWord) (r : List (List SWord)) (m : Msg) (s u : State), (s.up = true) ∧ (e < 16 ∧ u =
      hwDrain e s ∧ gwyInbox u e = p :: r ∧ m = recordMsg u e (p.map (·.data))) ∧ (recordGood p = true ∧ nmTakes u e
      m.frame = true ∧ m.frame.data.length < 2) ∧ ((nmBad (popRecord e u)).bit (nmReg e 0) 16 = false) :=
    ⟨15, [.mk' 0 0, .mk' 0 0, .mk' 0 1], [], _, setHw 15 [[.mk' 0 0, .mk' 0 0, .mk' 0 1]] W.nmRx, _, by decide,
      ⟨by decide, rfl, by decide +kernel, rfl⟩, by decide +kernel, by decide +kernel⟩

theorem test_NetworkManagementRuns_nmRepeatTimeout_holds :
    ∃ (e : Nat) (s : State), (s.up = true) ∧ (e < 20 ∧ nmState s e = 3) :=
    ⟨19, W.up.wr (nmReg 19 0x20) 3, by decide +kernel⟩

theorem test_NetworkManagementRuns_nmTimeout_holds :
    ∃ (e : Nat) (s : State), (s.up = true) ∧ (e < 20 ∧ nmState s e = 4) :=
    ⟨19, W.up.wr (nmReg 19 0x20) 4, by decide +kernel⟩

theorem test_NetworkManagementRuns_nmTimeout_holds_2 :
    ∃ (e : Nat) (s : State), (s.up = true) ∧ (e < 20 ∧ nmState s e = 5) :=
    ⟨19, W.up.wr (nmReg 19 0x20) 5, by decide +kernel⟩

theorem test_NetworkManagementRuns_nmWaitTimeout_holds :
    ∃ (e : Nat) (s : State), (s.up = true) ∧ (e < 20 ∧ nmState s e = 2) :=
    ⟨19, W.up.wr (nmReg 19 0x20) 2, by decide +kernel⟩

theorem test_NetworkManagementRuns_nmMsgTimer_holds :
    ∃ (e : Nat) (s : State), (s.up = true) ∧ (e < 20) ∧ (nmState s e = 3 ∨ nmState s e = 4) :=
    ⟨19, W.up.wr (nmReg 19 0x20) 4, by decide +kernel⟩

theorem test_NetworkManagementRuns_nmCfgWrite_holds :
    ∃ (m e : Nat) (v : Word) (s : State), (MayWrite s m 10 (if e < 16 then .bit e else .bit 26) = true) ∧ (nmFitted s
      e = true ∧ nmCfgOk v = true) ∧ ((!nmEn s e && bitOf v 0 && !nmRegsOk s e v) = false) :=
    ⟨0x10, 19, 0x1FF0A, W.adm 10, by decide +kernel⟩

theorem test_QuarryAndSprueFifos_qryPoolCfg_holds :
    ∃ (ring slot : Nat) (c : Cmd) (s0 s : State), (Admits (specOf opsQry 0x0B00) ring slot c s0 s = true) ∧ (c.p 32 1
      ≤ 7 ∧ c.p 33 1 ≤ 3 ∧ c.zero 34 2 = true ∧ c.p 36 4 ≤ 65536 ∧ c.p 40 8 < 2 ^ 40) ∧ ((c.p 33 1).testBit 0 = true →
      placeOk s (c.p 32 1) (c.p 40 8) (c.p 36 4) ((c.p 33 1).testBit 1) = true) ∧ (poolBusy s (c.p 32 1) = 0) :=
    ⟨0, 0, W.cmd 0x0B00 0 [7, 1, 0, 0, 2, 0, 0, 0, 0, 0, 0, 0x10, 0, 0, 0, 0], (W.st 11 (W.cmd 0x0B00 0 [7, 1, 0, 0,
      2, 0, 0, 0, 0, 0, 0, 0x10, 0, 0, 0, 0])), (W.st 11 (W.cmd 0x0B00 0 [7, 1, 0, 0, 2, 0, 0, 0, 0, 0, 0, 0x10, 0, 0,
      0, 0])), by decide +kernel⟩

theorem test_QuarryAndSprueFifos_qryReqCfg_holds :
    ∃ (ring slot : Nat) (c : Cmd) (s0 s : State), (Admits (specOf opsQry 0x0B01) ring slot c s0 s = true) ∧
      ((List.range 8).find? (fun p => decide (65536 < c.p (32 + 4 * p) 4)) = none) :=
    ⟨0, 0, W.cmd 0x0B01 31 ((List.range 8).flatMap (fun _ => [0, 0, 1, 0])), (W.st 11 (W.cmd 0x0B01 31 ((List.range
      8).flatMap (fun _ => [0, 0, 1, 0])))), (W.st 11 (W.cmd 0x0B01 31 ((List.range 8).flatMap (fun _ => [0, 0, 1,
      0])))), by decide +kernel⟩

theorem test_QuarryAndSprueFifos_qryAlloc_holds :
    ∃ (ring slot : Nat) (c : Cmd) (s0 s : State) (p0 p : Nat), (Admits (specOf opsQry 0x0B02) ring slot c s0 s = true)
      ∧ (allocate c.inst (c.p 32 4) s = .inl (p0, p)) :=
    ⟨0, 0, W.cmd 0x0B02 31 [0, 36, 0, 0], (let s := (W.st 11 (W.cmd 0x0B02 31 [0, 36, 0, 0])); W.pool s), (let s :=
      (W.st 11 (W.cmd 0x0B02 31 [0, 36, 0, 0])); W.pool s), 7, 7, by decide +kernel⟩

theorem test_QuarryAndSprueFifos_qryFree_holds :
    ∃ (ring slot : Nat) (c : Cmd) (s0 s : State) (p k : Nat) (t : State), (Admits (specOf opsQry 0x0B03) ring slot c
      s0 s = true) ∧ (c.p 32 8 < 2 ^ 40) ∧ (blockAt s (c.p 32 8) = some (p, k) ∧ (pool s p).held.find? (fun e => e.1
      == k) = some (k, c.inst)) ∧ (t = setPool p (if poolZero s p then ⟨(pool s p).mark, (pool s p).freed, (pool s
      p).held.filter (fun e => e.1 != k), (pool s p).scrub ++ [k]⟩ else ⟨(pool s p).mark, (pool s p).freed ++ [k],
      (pool s p).held.filter (fun e => e.1 != k), (pool s p).scrub⟩) s) :=
    ⟨0, 0, W.cmd 0x0B03 31 [0, 36, 0, 0x10, 0, 0, 0, 0], (let s := (W.st 11 (W.cmd 0x0B03 31 [0, 36, 0, 0x10, 0, 0, 0,
      0])); W.pool s), (let s := (W.st 11 (W.cmd 0x0B03 31 [0, 36, 0, 0x10, 0, 0, 0, 0])); W.pool s), 7, 1, _,
      by decide +kernel, by decide +kernel, by decide +kernel, rfl⟩

theorem test_QuarryAndSprueFifos_qryStatus_holds :
    ∃ (ring slot : Nat) (c : Cmd) (s0 s : State), (Admits (specOf opsQry 0x0B04) ring slot c s0 s = true) :=
    ⟨0, 0, W.cmd 0x0B04 0 [], (W.st 11 (W.cmd 0x0B04 0 [])), (W.st 11 (W.cmd 0x0B04 0 [])), by decide +kernel⟩

theorem test_QuarryAndSprueFifos_sprCfg_holds :
    ∃ (ring slot : Nat) (c : Cmd) (s0 s : State), (Admits (specOf opsQry 0x0B10) ring slot c s0 s = true) ∧ (25 ≤
      c.inst ∧ c.inst < 48 ∧ c.p 32 1 ≤ 1 ∧ c.zero 35 1 = true ∧ c.p 33 1 ≤ 127 ∧ c.p 34 1 ≤ 127) ∧ (sprEn s c.inst =
      false) :=
    ⟨0, 0, W.cmd 0x0B10 47 [1, 127, 127, 0], (W.st 11 (W.cmd 0x0B10 47 [1, 127, 127, 0])), (W.st 11 (W.cmd 0x0B10 47
      [1, 127, 127, 0])), by decide +kernel⟩

theorem test_QuarryAndSprueFifos_sprCfg_holds_2 :
    ∃ (ring slot : Nat) (c : Cmd) (s0 s : State), (Admits (specOf opsQry 0x0B10) ring slot c s0 s = true) ∧ (25 ≤
      c.inst ∧ c.inst < 48 ∧ c.p 32 1 = 0 ∧ c.zero 35 1 = true ∧ c.p 33 1 ≤ 127 ∧ c.p 34 1 ≤ 127) ∧ (sprEn s c.inst =
      true) :=
    ⟨0, 0, W.cmd 0x0B10 47 [0, 127, 127, 0], (let s := (W.st 11 (W.cmd 0x0B10 47 [0, 127, 127, 0])); s.wr (sprReg 47
      0) 1), (let s := (W.st 11 (W.cmd 0x0B10 47 [0, 127, 127, 0])); s.wr (sprReg 47 0) 1), by decide +kernel⟩

theorem test_QuarryAndSprueFifos_poolCfgWrite_holds :
    ∃ (m p : Nat) (v : Word) (s : State), (MayWrite s m 11 (.bit 32) = true) ∧ (p < 8 ∧ v &&& ~~~ 0x301FFFF#32 = 0 ∧
      fld v 16 0 ≤ 65536 ∧ poolEn s p = false) ∧ (bitOf v 24 = true → placeOk s p (poolBase s p) (fld v 16 0) (bitOf v
      25) = true) :=
    ⟨0x10, 7, 0x1000002, (W.adm 11).wr (poolReg 7 0) 0x10000000, by decide +kernel⟩

theorem test_QuarryAndSprueFifos_allocRead_holds :
    ∃ (m r p0 p : Nat) (t : State)  (s : State), (MayRead s m 11 (.bit r) = true) ∧ (r < 32 ∧ allocate r (s.f (reqReg
      r 0x40) 13 0) s = .inl (p0, p)) ∧ (t = State.withQry (takeBlock r p0 p s).2 (fun q =>
      { q with allocHi := tput 0 q.allocHi (m * 32 + r) (BitVec.ofNat 32 ((takeBlock r p0 p s).1 / 2 ^ 32 % 256 + p * 256)) }))
      :=
    ⟨0x10, 31, 7, 7, _, (W.pool (W.adm 11)).wr (reqReg 31 0x40) 9216, by decide +kernel, by decide +kernel, rfl⟩

theorem test_QuarryAndSprueFifos_freeCommit_holds :
    ∃ (m r : Nat) (v : Word) (s : State), (MayWrite s m 11 (.bit r) = true) ∧ (r < 32 ∧ fld v 31 8 = 0) :=
    ⟨0x10, 31, 0xFF, W.adm 11, by decide +kernel⟩

theorem test_QuarryAndSprueFifos_scrubDone_holds :
    ∃ (p k : Nat) (t : State) (s : State), (s.up = true) ∧ (p < 8 ∧ (pool s p).scrub.contains k = true) ∧ (s.badByte
      0x28 (poolBase s p + k * poolSize p) (poolSize p) true = none) ∧ (t = State.cnt (setPool p
      { pool s p with scrub := (pool s p).scrub.filter (· != k), freed := (pool s p).freed ++ [k] } (s.dmaPut 0x28
      (poolBase s p + k * poolSize p) (List.replicate (poolSize p) 0))) (rg 11 0xA0) 1) :=
    ⟨0, 1, _, ((W.up.wr (poolReg 0 0) 0x10000000).withQry (fun q =>
      { q with pools := [(0, ⟨2, [], [], [1]⟩)] })).setWindow 0x28 0 ⟨0x10000000, 0x800, true, true⟩, by decide,
      by decide +kernel, by decide +kernel, rfl⟩

theorem test_QuarryAndSprueFifos_scrubDone_holds_2 :
    ∃ (p k y : Nat) (s : State), (s.up = true) ∧ (p < 8 ∧ (pool s p).scrub.contains k = true) ∧ (s.badByte 0x28
      (poolBase s p + k * poolSize p) (poolSize p) true = some y) :=
    ⟨0, 1, 64, W.up.withQry (fun q => { q with pools := [(0, ⟨2, [], [], [1]⟩)] }), by decide +kernel⟩

theorem test_QuarryAndSprueFifos_qryErrPop_holds :
    ∃ (m : Nat) (s : State), (MayRead s m 11 .none = true) :=
    ⟨0x10, W.adm 11, by decide +kernel⟩

theorem test_QuarryAndSprueFifos_spruePushData_holds :
    ∃ (m n : Nat) (s : State), (MayWrite s m 11 (.bit (sprMask n)) = true) ∧ (soft n = true ∧ sprProducer s n = m ∧
      sprEn s n = true) :=
    ⟨0x10, 47, (W.adm 11).wr (sprReg 47 0) 0x101001, by decide +kernel⟩

theorem test_QuarryAndSprueFifos_spruePushEnd_holds :
    ∃ (m n : Nat) (s : State), (MayWrite s m 11 (.bit (sprMask n)) = true) ∧ (soft n = true ∧ sprProducer s n = m ∧
      sprEn s n = true) :=
    ⟨0x10, 47, (W.adm 11).wr (sprReg 47 0) 0x101001, by decide +kernel⟩

theorem test_QuarryAndSprueFifos_spruePushPoison_holds :
    ∃ (m n : Nat) (s : State), (MayWrite s m 11 (.bit (sprMask n)) = true) ∧ (soft n = true ∧ sprProducer s n = m ∧
      sprEn s n = true) :=
    ⟨0x10, 47, (W.adm 11).wr (sprReg 47 0) 0x101001, by decide +kernel⟩

theorem test_QuarryAndSprueFifos_sprueRewind_holds :
    ∃ (m n : Nat) (s : State), (MayWrite s m 11 (.bit (sprMask n)) = true) ∧ (soft n = true ∧ sprProducer s n = m ∧
      sprEn s n = true) ∧ ((fifo s n).written ≠ 0) :=
    ⟨0x10, 47, setFifo 47 { Fifo.zero with written := 1 } ((W.adm 11).wr (sprReg 47 0) 0x101001), by decide +kernel⟩

theorem test_QuarryAndSprueFifos_spruePop_holds :
    ∃ (m n : Nat) (w : SWord) (r : List (Option SWord)) (s : State), (MayRead s m 11 (.bit (sprMask n)) = true) ∧
      (soft n = true ∧ sprConsumer s n = m) ∧ ((fifo s n).stages = some w :: r ∧ w.fails = false) :=
    ⟨0x10, 47, .mk' (2 ^ 64 - 1) 1, List.replicate 15 none, setFifo 47
      { Fifo.zero with stages := some (.mk' (2 ^ 64 - 1) 1) :: List.replicate 15 none } ((W.adm 11).wr (sprReg 47 0)
      0x101001), by decide +kernel⟩

theorem test_QuarryAndSprueFifos_spruePop_holds_2 :
    ∃ (m n : Nat) (bad : Bool) (w : SWord) (r : List (Option SWord)) (s : State), (MayRead s m 11 (.bit (sprMask n)) =
      true) ∧ (soft n = true ∧ sprConsumer s n = m) ∧ ((fifo s n).stages = some w :: r ∧ (bad || w.fails) = true) :=
    ⟨0x10, 47, true, .mk' 0 1, List.replicate 15 none, setFifo 47
      { Fifo.zero with stages := some (.mk' 0 1) :: List.replicate 15 none } ((W.adm 11).wr (sprReg 47 0) 0x101001),
      by decide +kernel⟩

theorem test_QuarryAndSprueFifos_sprueDropRest_holds :
    ∃ (m n : Nat) (s : State), (MayWrite s m 11 (.bit (sprMask n)) = true) ∧ (soft n = true ∧ sprConsumer s n = m) ∧
      ((fifo s n).mid = true ∧ (fifo s n).dropping = false) :=
    ⟨0x10, 47, setFifo 47 { Fifo.zero with mid := true } ((W.adm 11).wr (sprReg 47 0) 0x101001), by decide +kernel⟩

theorem test_CrucibleKeysAndAlarms_cruKeyLoad_holds :
    ∃ (ring slot : Nat) (c : Cmd) (s0 s : State), (Admits (specOf opsCru 0x0C00) ring slot c s0 s = true) ∧ (c.inst ≠
      0 ∧ 1 ≤ c.p 32 1 ∧ c.p 32 1 ≤ 3 ∧ c.zero 34 2 = true ∧ c.len = 12 + keyLen (c.p 32 1)) ∧ (loadFail c.inst s =
      none) :=
    ⟨0, 0, W.cmd 0x0C00 1023 ([3, 0xFF, 0, 0] ++ List.replicate 40 0xFF), (W.st 12 (W.cmd 0x0C00 1023 ([3, 0xFF, 0, 0]
      ++ List.replicate 40 0xFF))), (W.st 12 (W.cmd 0x0C00 1023 ([3, 0xFF, 0, 0] ++ List.replicate 40 0xFF))),
      by decide +kernel⟩

theorem test_CrucibleKeysAndAlarms_cruKeyUnwrap_holds :
    ∃ (ring slot : Nat) (c : Cmd) (s0 s : State), (Admits (specOf opsCru 0x0C01) ring slot c s0 s = true) ∧ (c.inst ≠
      0 ∧ c.zero 34 2 = true ∧ c.p 32 2 ≤ 1023 ∧ (s.aclEntry 12 c.issuer).mask.getLsbD (keyMaskBit (c.p 32 2)) = true)
      ∧ (loadFail c.inst s = none) ∧ ((keySlot s (c.p 32 2)).st ≠ 0 ∧ (keySlot s (c.p 32 2)).usage.testBit 4 = true ∧
      (useKey (c.p 32 2) s).1 = true) :=
    ⟨0, 0, W.cmd 0x0C01 1023 ([5, 0, 0, 0] ++ List.replicate 40 1), (let s := (W.st 12 (W.cmd 0x0C01 1023 ([5, 0, 0,
      0] ++ List.replicate 40 1))); W.kek s), (let s := (W.st 12 (W.cmd 0x0C01 1023 ([5, 0, 0, 0] ++ List.replicate 40
      1))); W.kek s), by decide +kernel⟩

theorem test_CrucibleKeysAndAlarms_cruKeyWrap_holds :
    ∃ (ring slot : Nat) (c : Cmd) (s0 s : State), (Admits (specOf opsCru 0x0C02) ring slot c s0 s = true) ∧ (c.zero 34
      2 = true ∧ c.p 32 2 ≤ 1023 ∧ (s.aclEntry 12 c.issuer).mask.getLsbD (keyMaskBit (c.p 32 2)) = true) ∧ ((keySlot s
      c.inst).st ≠ 0 ∧ (keySlot s c.inst).usage.testBit 6 = true) ∧ ((keySlot s (c.p 32 2)).st ≠ 0 ∧ (keySlot s (c.p
      32 2)).usage.testBit 4 = true ∧ (useKey (c.p 32 2) s).1 = true) ∧ ((kwWrap (keySlot s (c.p 32 2)).key ((leBytes
      1 1 ++ leBytes 1 (keySlot s c.inst).typ ++ leBytes 1 (keySlot s c.inst).usage ++ [0] ++ leBytes 8 (keySlot s
      c.inst).limit ++ [0, 0, 0, 0]) ++ (keySlot s c.inst).key)).length ≤ 224) :=
    ⟨0, 0, W.cmd 0x0C02 1 [5, 0, 0, 0], (let s := (W.st 12 (W.cmd 0x0C02 1 [5, 0, 0, 0])); W.kek s), (let s := (W.st
      12 (W.cmd 0x0C02 1 [5, 0, 0, 0])); W.kek s), by decide +kernel⟩

theorem test_CrucibleKeysAndAlarms_cruKeyErase_holds :
    ∃ (ring slot : Nat) (c : Cmd) (s0 s : State), (Admits (specOf opsCru 0x0C03) ring slot c s0 s = true) ∧ (c.inst ≠
      0) ∧ (keyHeld s c.inst = false) :=
    ⟨0, 0, W.cmd 0x0C03 1023 [], (W.st 12 (W.cmd 0x0C03 1023 [])), (W.st 12 (W.cmd 0x0C03 1023 [])),
      by decide +kernel⟩

theorem test_CrucibleKeysAndAlarms_cruKeyErase_holds_2 :
    ∃ (ring slot : Nat) (c : Cmd) (s0 s : State), (Admits (specOf opsCru 0x0C03) ring slot c s0 s = true) ∧ (c.inst ≠
      0) ∧ (keyHeld s c.inst = true) :=
    ⟨0, 0, W.cmd 0x0C03 1 [], (let s := (W.st 12 (W.cmd 0x0C03 1 [])); s.withCru (fun g =>
      { g with jobs := [W.job] })), (let s := (W.st 12 (W.cmd 0x0C03 1 [])); s.withCru (fun g =>
      { g with jobs := [W.job] })), by decide +kernel⟩

theorem test_CrucibleKeysAndAlarms_cruKeyStatus_holds :
    ∃ (ring slot : Nat) (c : Cmd) (s0 s : State), (Admits (specOf opsCru 0x0C04) ring slot c s0 s = true) :=
    ⟨0, 0, W.cmd 0x0C04 1023 [], (W.st 12 (W.cmd 0x0C04 1023 [])), (W.st 12 (W.cmd 0x0C04 1023 [])),
      by decide +kernel⟩

theorem test_CrucibleKeysAndAlarms_cruEraseAll_holds :
    ∃ (ring slot : Nat) (c : Cmd) (s0 s : State), (Admits (specOf opsCru 0x0C05) ring slot c s0 s = true) :=
    ⟨0, 0, W.cmd 0x0C05 0 [], (W.st 12 (W.cmd 0x0C05 0 [])), (W.st 12 (W.cmd 0x0C05 0 [])), by decide +kernel⟩

theorem test_CrucibleKeysAndAlarms_cruCounters_holds :
    ∃ (ring slot : Nat) (c : Cmd) (s0 s : State), (Admits (specOf opsCru 0x0C06) ring slot c s0 s = true) :=
    ⟨0, 0, W.cmd 0x0C06 0 [], (W.st 12 (W.cmd 0x0C06 0 [])), (W.st 12 (W.cmd 0x0C06 0 [])), by decide +kernel⟩

theorem test_CrucibleKeysAndAlarms_cruAlarm_holds :
    ∃ (src : Nat) (s : State), (s.up = true) ∧ (src < 5) ∧ (src ≤ 1 ∨ s.bit (rg 12 0xC) src = true) :=
    ⟨4, W.up.wr (rg 12 0xC) 0x13, by decide +kernel⟩

theorem test_CrucibleJobs_jobRingCtrlWrite_holds :
    ∃ (m n : Nat) (v : Word) (s : State), (MayWrite s m 12 (.bit n) = true) ∧ (n < 16 ∧ gwyRing s n = false ∧ v &&&
      ~~~ 0x17F#32 = 0 ∧ s.bit (cruRing n 8) 0 = false) ∧ (bitOf v 0 = true → cruConfigOk (s.wr (cruRing n 8) v) n =
      true) :=
    ⟨0x10, 15, 0x16E, W.adm 12, by decide +kernel⟩

theorem test_CrucibleJobs_jobRingCtrlWrite_holds_2 :
    ∃ (m n : Nat) (v : Word) (s : State), (MayWrite s m 12 (.bit n) = true) ∧ (n < 16 ∧ gwyRing s n = false ∧ v &&&
      ~~~ 0x17F#32 = 0 ∧ s.bit (cruRing n 8) 0 = true ∧ bitOf v 0 = false) :=
    ⟨0x10, 15, 0, (W.adm 12).wr (cruRing 15 8) 1, by decide +kernel⟩

theorem test_CrucibleJobs_jobRingCtrlWrite_holds_3 :
    ∃ (m n : Nat) (v : Word) (s : State), (MayWrite s m 12 (.bit n) = true) ∧ (n < 16 ∧ gwyRing s n = false ∧ v &&&
      ~~~ 0x17F#32 = 0 ∧ s.bit (cruRing n 8) 0 = false ∧ bitOf v 0 = true) ∧ (cruConfigOk (s.wr (cruRing n 8) v) n =
      false) :=
    ⟨0x10, 15, 0x17, W.adm 12, by decide +kernel⟩

theorem test_CrucibleJobs_jobRingCtrlWrite_holds_4 :
    ∃ (m n : Nat) (v : Word) (s : State), (MayWrite s m 12 (.bit n) = true) ∧ (n < 16 ∧ gwyRing s n = false ∧ v &&&
      ~~~ 0x17F#32 = 0 ∧ s.bit (cruRing n 8) 0 = true ∧ bitOf v 0 = true) :=
    ⟨0x10, 15, 1, (W.adm 12).wr (cruRing 15 8) 1, by decide +kernel⟩

theorem test_CrucibleJobs_jobDoorbell_holds :
    ∃ (m n : Nat) (v : Word) (s : State), (MayWrite s m 12 (.bit n) = true) ∧ (n < 16 ∧ gwyRing s n = false ∧ cruOwner
      s n = m ∧ v.toNat < cruSlots s n) ∧ ((v.toNat + cruSlots s n - s.f (cruRing n 0x10) 15 0) % cruSlots s n ≤ (s.f
      (cruRing n 0x14) 15 0 + 2 * cruSlots s n - 1 - s.f (cruRing n 0x10) 15 0) % cruSlots s n) :=
    ⟨0x10, 15, 15, ((W.adm 12).wr (cruRing 15 8) 9).wr (cruRing 15 0xC) 0x10, by decide +kernel⟩

theorem test_CrucibleJobs_jobStart_holds :
    ∃ (core n : Nat) (d : List Byte) (ch : Chain) (s u t v : State), (s.up = true) ∧ (coreFitted s core = true ∧
      (s.cru.jobs.filter (fun j => j.core == core)).length < 16 ∧ pickJobRing s core = some n ∧ n < 16) ∧ (u =
      s.withCru (fun c => { c with served := tput 16 c.served (s.f (cruRing n 8) 6 5) n })) ∧ (t = u.wr (cruRing n
      0x14) (BitVec.ofNat 32 ((u.f (cruRing n 0x14) 15 0 + 1) % cruSlots u n))) ∧ (readSlot u n = (d, none)) ∧
      (jobCheck (cruOwner u n) (jobOf d) t = .inl ch ∧ v = jobReads (cruOwner u n) (jobOf d) t ∧ (useKey (jobOf d).key
      v).1 = true) :=
    ⟨0, 15, W.jobSlot 0x60, Chain.start (nativeJob (W.jobSlot 0x60)), W.jobRing 0x60, _, _, _, by decide,
      by decide +kernel, rfl, rfl, by decide +kernel, ⟨rfl, rfl, by decide +kernel⟩⟩

theorem test_CrucibleJobs_jobStart_holds_2 :
    ∃ (core n : Nat) (d : List Byte) (e : JobFail) (s u t : State), (s.up = true) ∧ (coreFitted s core = true ∧
      (s.cru.jobs.filter (fun j => j.core == core)).length < 16 ∧ pickJobRing s core = some n ∧ n < 16) ∧ (u =
      s.withCru (fun c => { c with served := tput 16 c.served (s.f (cruRing n 8) 6 5) n })) ∧ (t = u.wr (cruRing n
      0x14) (BitVec.ofNat 32 ((u.f (cruRing n 0x14) 15 0 + 1) % cruSlots u n))) ∧ (readSlot u n = (d, none)) ∧
      (jobCheck (cruOwner u n) (jobOf d) t = .inr e ∧ e.refused = none ∧ (e.code < 0x107 ∨ 0x109 < e.code)) :=
    ⟨0, 15, W.jobSlot 0x0F, ⟨stBadParam, 0x105, none⟩, W.jobRing 0x0F, _, _, by decide, by decide +kernel, rfl, rfl,
      by decide +kernel, ⟨rfl, rfl, by decide⟩⟩

theorem test_CrucibleJobs_jobStart_holds_3 :
    ∃ (core n x : Nat) (d : List Byte) (s u t : State), (s.up = true) ∧ (coreFitted s core = true ∧ (s.cru.jobs.filter
      (fun j => j.core == core)).length < 16 ∧ pickJobRing s core = some n ∧ n < 16) ∧ (u = s.withCru (fun c =>
      { c with served := tput 16 c.served (s.f (cruRing n 8) 6 5) n })) ∧ (t = u.wr (cruRing n 0x14) (BitVec.ofNat 32
      ((u.f (cruRing n 0x14) 15 0 + 1) % cruSlots u n))) ∧ (readSlot u n = (d, some x)) :=
    ⟨0, 15, 0x10000000, List.replicate 64 0, (W.jobRing 0x60).setWindow 0x10 0 Window.none, _, _, by decide,
      by decide +kernel, rfl, rfl, by decide +kernel⟩

theorem test_CrucibleJobs_jobStart_holds_4 :
    ∃ (core : Nat) (s : State), (s.up = true) ∧ (coreFitted s core = true ∧ (s.cru.jobs.filter (fun j => j.core ==
      core)).length < 16 ∧ pickJobRing s core = some 16) :=
    ⟨0, W.up.withEth (fun e => { e with shared := [.tx 3] }), by decide +kernel⟩

theorem test_CrucibleJobs_jobComplete_holds :
    ∃ (ring : Nat) (x : Job) (e : Nat × Nat) (s : State), (s.up = true) ∧ (s.cru.jobs.find? (fun j => j.ring == ring)
      = some x ∧ x.failed = some e) :=
    ⟨15, { W.job with failed := some (17, 0x105) }, (17, 0x105), W.up.withCru (fun g =>
      { g with jobs := [{ W.job with failed := some (17, 0x105) }] }), by decide +kernel⟩

theorem test_CrucibleJobs_jobComplete_holds_2 :
    ∃ (ring : Nat) (x : Job) (j : JobSpec) (len : Nat) (b : List Byte) (s : State), (s.up = true) ∧ (s.cru.jobs.find?
      (fun j => j.ring == ring) = some x ∧ x.failed = none) ∧ (j = jobOf x.slot ∧ len = jobInput j) ∧ (cruBad s
      x.owner j.src len false = none ∧ b = cruBytes s x.owner j.src len) :=
    ⟨15, W.job, _, _, _, W.up.withCru (fun g => { g with jobs := [W.job] }), by decide, by decide +kernel, ⟨rfl, rfl⟩,
      ⟨by decide +kernel, rfl⟩⟩

theorem test_CrucibleJobs_jobComplete_holds_3 :
    ∃ (ring y : Nat) (x : Job) (j : JobSpec) (s : State), (s.up = true) ∧ (s.cru.jobs.find? (fun j => j.ring == ring)
      = some x ∧ x.failed = none) ∧ (j = jobOf x.slot) ∧ (cruBad s x.owner j.src (jobInput j) false = some y) :=
    ⟨15, 0, { W.job with slot := W.jobSlot4 }, _, W.up.withCru (fun g =>
      { g with jobs := [{ W.job with slot := W.jobSlot4 }] }), by decide, by decide +kernel, rfl, by decide +kernel⟩

theorem test_LockstepDomainsAndPorts_lockstepMismatch_holds :
    ∃ (d iface : Nat) (pc : Word) (s : State), (s.up = true) ∧ (d < 2 ∧ iface < 4) ∧ (domState s d = 1 ∨ domState s d
      = 2 ∨ domState s d = 4) :=
    ⟨1, 3, 5, W.up.wr (domReg 1 0) 2, by decide +kernel⟩

theorem test_LockstepDomainsAndPorts_faultResetTimeout_holds :
    ∃ (d : Nat) (s : State), (s.up = true) ∧ (d < 2 ∧ domState s d = 0 ∧ (dom s d).resetting = true) :=
    ⟨1, (W.up.wr (domReg 1 0) 0).withLsc (fun l => { l with doms := [(1, { Dom.zero with resetting := true })] }),
      by decide +kernel⟩

theorem test_LockstepDomainsAndPorts_syncCheckPeriodic_holds :
    ∃ (d : Nat) (cope drag : List Word) (s : State), (s.up = true ∧ copiesOk cope drag = true) ∧ (d < 2) ∧ (domState s
      d = 1 ∨ domState s d = 2) :=
    ⟨1, (List.replicate 98 0), (List.replicate 98 0), W.up.wr (domReg 1 0) 2, by decide +kernel⟩

theorem test_LockstepDomainsAndPorts_debugHalt_holds :
    ∃ (d : Nat) (s : State), (s.up = true) ∧ (d < 2 ∧ s.sys.debug = true ∧ dbgEn s d = true) ∧ (domState s d = 1 ∨
      domState s d = 2) :=
    ⟨1, W.attached ((W.up.wr (domReg 1 0) 2).wr (domReg 1 4) 2), by decide +kernel⟩

theorem test_LockstepDomainsAndPorts_debugResume_holds :
    ∃ (d : Nat) (cope drag : List Word) (s : State), (s.up = true ∧ copiesOk cope drag = true) ∧ (d < 2 ∧ domState s d
      = 4 ∧ s.sys.debug = true ∧ dbgEn s d = true) ∧ (((syncCheck d cope drag (setDom d 1 s)).1 && (dom s
      d).dcsr.testBit 2) = false) :=
    ⟨1, (List.replicate 98 0), (List.replicate 98 0), W.attached ((W.up.wr (domReg 1 0) 4).wr (domReg 1 4) 2),
      by decide +kernel, by decide +kernel, by simp only [syncCheck_same, Bool.true_and]; decide +kernel⟩

theorem test_LockstepDomainsAndPorts_debugResume_holds_2 :
    ∃ (d : Nat) (cope drag : List Word) (s : State), (s.up = true ∧ copiesOk cope drag = true) ∧ (d < 2 ∧ domState s d
      = 4 ∧ s.sys.debug = true ∧ dbgEn s d = true) ∧ (((syncCheck d cope drag (setDom d 1 s)).1 && (dom s
      d).dcsr.testBit 2) = true) :=
    ⟨1, (List.replicate 98 0), (List.replicate 98 0), W.attached (setDomInfo 1 { Dom.zero with dcsr := 4 } ((W.up.wr
      (domReg 1 0) 4).wr (domReg 1 4) 2)), by decide +kernel, by decide +kernel,
      by simp only [syncCheck_same, Bool.true_and]; decide +kernel⟩

theorem test_LockstepDomainsAndPorts_activation_holds :
    ∃ (d k : Nat) (s t : State), (s.up = true) ∧ (d < 2 ∧ k < 8 ∧ s.bit (actReg d k 0) 0 = true ∧ actNext s d k ≤
      s.now) ∧ (t = if s.bit (domReg d 0x44) (24 + k) then (s.cnt (domReg d 0x2C) 1).raise 13 (4 + d) else s.sb
      (domReg d 0x44) (24 + k) true) :=
    ⟨1, 7, W.up.wr (actReg 1 7 0) 1, _, by decide, by decide +kernel, rfl⟩

theorem test_LockstepDomainsAndPorts_oSend_holds :
    ∃ (m d kind n : Nat) (v : Word) (body : List Word) (s : State), (s.up = true) ∧ (d < 2 ∧ domainOf m = some d ∧
      domReach s m = true ∧ MayWrite s m 13 (.bit d) = true) ∧ (v &&& ~~~ 0x1F03#32 = 0 ∧ kind = fld v 1 0 ∧ n = fld v
      12 8 ∧ n ≤ 18 ∧ kind ≠ 3) ∧ (body = (List.range n).map (fun i => s.rd (domReg d (0x800 + 4 * i))) ∧ bodyForm
      kind body = true) ∧ (portState s d = 2) :=
    ⟨0x10, 0, 1, 1, 0x101, _, (W.adm 13).wr (domReg 0 0x888) 2, by decide, by decide +kernel, by decide,
      ⟨rfl, by decide +kernel⟩, by decide +kernel⟩

theorem test_LockstepDomainsAndPorts_oCtrlGo_holds :
    ∃ (m d : Nat) (s : State), (d < 2 ∧ domainOf m = some d ∧ domReach s m = true ∧ MayWrite s m 13 (.bit d) = true) ∧
      (portState s d = 1) :=
    ⟨0x10, 0, (W.adm 13).wr (domReg 0 0x888) 1, by decide +kernel⟩

theorem test_LockstepDomainsAndPorts_oCtrlRejoin_holds :
    ∃ (m d : Nat) (s : State), (d < 2 ∧ domainOf m = some d ∧ domReach s m = true ∧ MayWrite s m 13 (.bit d) = true) ∧
      (portState s d = 3 ∧ portMirror s d = true) :=
    ⟨0x10, 0, (W.adm 13).wr (domReg 0 0x888) 7, by decide +kernel⟩

theorem test_LockstepDomainsAndPorts_statusFrameSend_holds :
    ∃ (d : Nat) (s t u : State), (s.up = true) ∧ (d < 2 ∧ domState s d ≠ 0 ∧ domState s d ≠ 3 ∧ (dom s d).inject =
      false) ∧ (t = portStatus d s) ∧ (u = ((t.wr (domReg (1 - d) 0x890) (BitVec.ofNat 32 (portSeq t d))).sb (domReg
      (1 - d) 0x888) 2 true).sb (domReg (1 - d) 0x888) 3 (!faultLine (t.wr (domReg (1 - d) 0x890) (BitVec.ofNat 32
      (portSeq t d))) d)) :=
    ⟨1, W.up.wr (domReg 1 0) 2, _, _, by decide, by decide +kernel, rfl, rfl⟩

theorem test_LockstepDomainsAndPorts_mirrorLost_holds :
    ∃ (s t : State), (s.up = true) ∧ (faultLine s 0 = false) ∧ (t = ((s.sb (domReg 1 0x888) 2 false).sb (domReg 1
      0x888) 3 false).cnt (domReg 1 0x8A0) 1) ∧ (portState t 1 = 1 ∨ portState t 1 = 2) :=
    ⟨(W.up.wr (domReg 0 0) 2).wr (domReg 1 0x888) 2, _, by decide, by decide +kernel, rfl, by decide +kernel⟩

theorem test_LockstepDomainsAndPorts_lscStatus_holds :
    ∃ (ring slot : Nat) (c : Cmd) (s0 s : State), (Admits (specOf opsLsc 0x0D00) ring slot c s0 s = true) :=
    ⟨0, 0, W.cmd 0x0D00 0 [], (W.st 13 (W.cmd 0x0D00 0 [])), (W.st 13 (W.cmd 0x0D00 0 [])), by decide +kernel⟩

theorem test_LockstepDomainsAndPorts_lscSetCfg_holds :
    ∃ (ring slot : Nat) (c : Cmd) (s0 s : State), (Admits (specOf opsLsc 0x0D01) ring slot c s0 s = true) ∧ (c.w 32
      &&& ~~~ 0x3FF0F#32 = 0 ∧ syncMsOk (c.w 32) = true ∧ splitPcOk c.inst (c.p 36 4) = true) ∧ (bitOf (s.rd (domReg
      c.inst 4)) 2 = true → bitOf (s.rd (domReg c.inst 4)) 1 = bitOf (c.w 32) 1) :=
    ⟨0, 0, W.cmd 0x0D01 0 [0xF, 0xE8, 3, 0, 0xFE, 0xFF, 0xF, 0x20], (W.st 13 (W.cmd 0x0D01 0 [0xF, 0xE8, 3, 0, 0xFE,
      0xFF, 0xF, 0x20])), (W.st 13 (W.cmd 0x0D01 0 [0xF, 0xE8, 3, 0, 0xFE, 0xFF, 0xF, 0x20])), by decide +kernel⟩

theorem test_LockstepDomainsAndPorts_lscRelease_holds :
    ∃ (ring slot : Nat) (c : Cmd) (cope drag : List Word) (s0 s : State), (Admits (specOf opsLsc 0x0D02) ring slot c
      s0 s = true) ∧ (copiesOk cope drag = true ∧ domState s c.inst = 1 ∧ c.issuer = 0x10 + 2 * c.inst) ∧ ((syncCheck
      c.inst cope drag s).1 = true) :=
    ⟨0, 0, W.cmd 0x0D02 0 [], (List.replicate 98 0), (List.replicate 98 0), (W.st 13 (W.cmd 0x0D02 0 [])).wr (domReg 0
      0) 1, (W.st 13 (W.cmd 0x0D02 0 [])).wr (domReg 0 0) 1, by decide +kernel, by decide +kernel,
      syncCheck_same _ _ _⟩

theorem test_LockstepDomainsAndPorts_lscSyncCheck_holds :
    ∃ (ring slot : Nat) (c : Cmd) (cope drag : List Word) (s0 s : State), (Admits (specOf opsLsc 0x0D03) ring slot c
      s0 s = true) ∧ (copiesOk cope drag = true) ∧ (domState s c.inst = 1 ∨ domState s c.inst = 2) ∧ ((syncCheck
      c.inst cope drag s).1 = true) :=
    ⟨0, 0, W.cmd 0x0D03 0 [], (List.replicate 98 0), (List.replicate 98 0), (W.st 13 (W.cmd 0x0D03 0 [])).wr (domReg 0
      0) 2, (W.st 13 (W.cmd 0x0D03 0 [])).wr (domReg 0 0) 2, by decide +kernel, by decide +kernel, by decide +kernel,
      syncCheck_same _ _ _⟩

theorem test_LockstepDomainsAndPorts_lscSplit_holds :
    ∃ (ring slot : Nat) (c : Cmd) (s0 s : State), (Admits (specOf opsLsc 0x0D04) ring slot c s0 s = true) ∧ (domState
      s (1 - c.inst) = 2 ∧ s.bit (domReg c.inst 4) 3 = true) ∧ (domState s c.inst = 1 ∨ domState s c.inst = 2) :=
    ⟨0, 0, W.cmd 0x0D04 0 [], ((W.st 13 (W.cmd 0x0D04 0 [])).wr (domReg 0 0) 1 |>.wr (domReg 1 0) 2).wr (domReg 0 4)
      8, ((W.st 13 (W.cmd 0x0D04 0 [])).wr (domReg 0 0) 1 |>.wr (domReg 1 0) 2).wr (domReg 0 4) 8, by decide +kernel⟩

theorem test_LockstepDomainsAndPorts_lscJoin_holds :
    ∃ (ring slot : Nat) (c : Cmd) (cope drag : List Word) (s0 s : State), (Admits (specOf opsLsc 0x0D05) ring slot c
      s0 s = true) ∧ (copiesOk cope drag = true ∧ domState s c.inst = 5) ∧ ((syncCheck c.inst cope drag (setCopies
      c.inst (dom s c.inst).cope (dom s c.inst).cope s)).1 = true) :=
    ⟨0, 0, W.cmd 0x0D05 0 [], (List.replicate 98 0), (List.replicate 98 0), (W.st 13 (W.cmd 0x0D05 0 [])).wr (domReg 0
      0) 5, (W.st 13 (W.cmd 0x0D05 0 [])).wr (domReg 0 0) 5, by decide +kernel, by decide +kernel,
      syncCheck_same _ _ _⟩

theorem test_LockstepDomainsAndPorts_lscRestart_holds :
    ∃ (ring slot : Nat) (c : Cmd) (s0 s : State), (Admits (specOf opsLsc 0x0D06) ring slot c s0 s = true) ∧ (domState
      s c.inst ≠ 0) :=
    ⟨0, 0, W.cmd 0x0D06 0 [], (let s := (W.st 13 (W.cmd 0x0D06 0 [])); s.wr (domReg 0 0) 3), (let s := (W.st 13 (W.cmd
      0x0D06 0 [])); s.wr (domReg 0 0) 3), by decide +kernel⟩

theorem test_LockstepDomainsAndPorts_lscInject_holds :
    ∃ (ring slot : Nat) (c : Cmd) (s0 s : State), (Admits (specOf opsLsc 0x0D07) ring slot c s0 s = true) ∧ (domState
      s (1 - c.inst) = 2) ∧ (domState s c.inst = 1 ∨ domState s c.inst = 2) :=
    ⟨0, 0, W.cmd 0x0D07 0 [], (let s := (W.st 13 (W.cmd 0x0D07 0 [])); (s.wr (domReg 0 0) 1).wr (domReg 1 0) 2), (let
      s := (W.st 13 (W.cmd 0x0D07 0 [])); (s.wr (domReg 0 0) 1).wr (domReg 1 0) 2), by decide +kernel⟩

theorem test_LockstepDomainsAndPorts_lscActCfg_holds :
    ∃ (ring slot : Nat) (c : Cmd) (s0 s : State), (Admits (specOf opsLsc 0x0D08) ring slot c s0 s = true) ∧ (c.p 32 1
      ≤ 7 ∧ c.p 33 1 ≤ 1 ∧ c.zero 34 2 = true ∧ c.timeForm 36 = true ∧ c.timeNs 36 ≤ 999999999 ∧ actPeriodOk (c.p 48
      4) = true) ∧ (s.bit (actReg c.inst (c.p 32 1) 0) 0 = false) :=
    ⟨0, 0, W.cmd 0x0D08 0 ([7, 1, 0, 0] ++ List.replicate 12 0 ++ leBytes 4 1000000000), (W.st 13 (W.cmd 0x0D08 0 ([7,
      1, 0, 0] ++ List.replicate 12 0 ++ leBytes 4 1000000000))), (W.st 13 (W.cmd 0x0D08 0 ([7, 1, 0, 0] ++
      List.replicate 12 0 ++ leBytes 4 1000000000))), by decide +kernel⟩

theorem test_LockstepDomainsAndPorts_lscActCfg_holds_2 :
    ∃ (ring slot : Nat) (c : Cmd) (s0 s : State), (Admits (specOf opsLsc 0x0D08) ring slot c s0 s = true) ∧ (c.p 32 1
      ≤ 7 ∧ c.p 33 1 = 0 ∧ c.zero 34 2 = true ∧ c.timeForm 36 = true ∧ c.timeNs 36 ≤ 999999999 ∧ actPeriodOk (c.p 48
      4) = true) ∧ (s.bit (actReg c.inst (c.p 32 1) 0) 0 = true) :=
    ⟨0, 0, W.cmd 0x0D08 0 ([7, 0, 0, 0] ++ List.replicate 16 0), (let s := (W.st 13 (W.cmd 0x0D08 0 ([7, 0, 0, 0] ++
      List.replicate 16 0))); s.wr (actReg 0 7 0) 1), (let s := (W.st 13 (W.cmd 0x0D08 0 ([7, 0, 0, 0] ++
      List.replicate 16 0))); s.wr (actReg 0 7 0) 1), by decide +kernel⟩

theorem test_OutputReceiverEvents_faultLineChange_holds :
    ∃ (wire : Bool) (s : State), (s.sys.phase ≠ .off) ∧ ((wire || faultLine s 0) = true ∧ ordLine s 0 = false) :=
    ⟨true, W.up.wr (ordReg 4) 0, by decide +kernel⟩

theorem test_OutputReceiverEvents_faultLineChange_holds_2 :
    ∃ (wire : Bool) (s : State), (s.sys.phase ≠ .off) ∧ ((wire || faultLine s 1) = true ∧ ordLine s 1 = false) :=
    ⟨true, W.up.wr (ordReg 4) 0, by decide +kernel⟩

theorem test_OutputReceiverEvents_faultLineChange_holds_3 :
    ∃ (s t : State), (s.sys.phase ≠ .off) ∧ (faultLine s 0 = false ∧ ordLine s 0 = true) ∧ (t = setOrdBit 5 false s ∧
      ordCharge t = 2) :=
    ⟨(W.up.wr (domReg 0 0) 2).wr (ordReg 4) 0x22, _, by decide, by decide +kernel, ⟨rfl, by decide +kernel⟩⟩

theorem test_OutputReceiverEvents_ordLinkTimeout_holds :
    ∃ (l : Nat) (s t : State), (s.sys.phase ≠ .off) ∧ (l < 2 ∧ ordUp s l = true) ∧ (t = setOrdBit (7 + l) false s) :=
    ⟨1, W.up.wr (ordReg 4) 0x180, _, by decide, by decide +kernel, rfl⟩

theorem test_OutputReceiverEvents_holdoffExpiry_holds :
    ∃ (s : State), (s.sys.phase ≠ .off) ∧ (ordHoldoff s = true ∧ s.bit (ordReg 0) 26 = true) :=
    ⟨(W.up.wr (ordReg 4) 4).sb (ordReg 0) 26 true, by decide +kernel⟩

theorem test_OutputReceiverEvents_swapTestEnd_holds :
    ∃ (s : State), (s.sys.phase ≠ .off) ∧ (ordSwap s = true) :=
    ⟨W.up.wr (ordReg 4) 8, by decide +kernel⟩

theorem test_OutputReceiverEvents_copyArrival_holds :
    ∃ (l : Nat) (f : OFrame) (s : State), (s.sys.phase ≠ .off) ∧ (onAir s l = some f) :=
    ⟨1, W.status, W.onAir W.status, by decide +kernel⟩

theorem test_OutputReceiverEvents_copyArrival_holds_2 :
    ∃ (l : Nat) (f : OFrame) (s : State), (s.sys.phase ≠ .off) ∧ (onAir s l = some f ∧ f.valid = false) :=
    ⟨1, oFrame 1 0 4 [0], W.onAir (oFrame 1 0 4 [0]), by decide +kernel⟩

theorem test_OutputReceiverEvents_copyArrival_holds_3 :
    ∃ (l : Nat) (f : OFrame) (s : State), (s.sys.phase ≠ .off) ∧ (onAir s l = some f ∧ f.valid = true ∧ f.isStatus =
      true) :=
    ⟨1, W.status, W.onAir W.status, by decide +kernel⟩

theorem test_OutputReceiverEvents_copyArrival_holds_4 :
    ∃ (l w : Nat) (f : OFrame) (s t : State), (s.sys.phase ≠ .off) ∧ (onAir s l = some f ∧ f.valid = true ∧ f.isStatus
      = false) ∧ (t = portPump l (setAir l none s) ∧ w = if l = firstLink t ∨ f.kind = 3 then 1 else 1 + 20 * t.f
      (ordReg 0) 9 0) ∧ ((ordStage t l).length < 64) :=
    ⟨1, _, W.msg, W.onAir W.msg, _, by decide, by decide +kernel, ⟨rfl, rfl⟩, by decide +kernel⟩

theorem test_OutputReceiverEvents_copyArrival_holds_5 :
    ∃ (l : Nat) (f : OFrame) (s t : State), (s.sys.phase ≠ .off) ∧ (onAir s l = some f ∧ f.valid = true ∧ f.isStatus =
      false) ∧ (t = portPump l (setAir l none s)) ∧ (64 ≤ (ordStage t l).length) :=
    ⟨1, W.msg, setOrdStage 1 (List.replicate 64 ⟨W.msg, 1⟩) (W.onAir W.msg), _, by decide, by decide +kernel, rfl,
      by decide +kernel⟩

theorem test_OutputReceiverEvents_copyJudge_holds :
    ∃ (l i : Nat) (x : OCopy) (s t u v : State), (s.sys.phase ≠ .off) ∧ ((ordStage s l)[i]? = some x ∧ ((ordStage s
      l).take i).all (fun y => decide (x.wait < y.wait)) = true) ∧ (t = setOrdStage l ((ordStage s l).eraseIdx i) s) ∧
      (x.frame.kind ≠ 3 ∧ admitted t l = true) ∧ (ordAnchored t = false ∨ (1 ≤ (x.frame.seq + 65536 - ordH t) % 65536
      ∧ (x.frame.seq + 65536 - ordH t) % 65536 ≤ 64)) ∧ (u = ordCount (0x100 + 4 * l) (setH x.frame.seq t)) ∧ (v =
      u.withOrd (fun o => { o with seen := (x.frame.seq :: o.seen).take 64 })) :=
    ⟨1, 0, ⟨W.msg, 1⟩, setOrdStage 1 [⟨W.msg, 1⟩] (W.up.wr (ordReg 4) 0x102), _, _, _, by decide, by decide +kernel,
      rfl, by decide +kernel, .inl (by decide +kernel), rfl, rfl⟩

theorem test_OutputReceiverEvents_copyJudge_holds_2 :
    ∃ (l i : Nat) (x : OCopy) (s t : State), (s.sys.phase ≠ .off) ∧ ((ordStage s l)[i]? = some x ∧ ((ordStage s
      l).take i).all (fun y => decide (x.wait < y.wait)) = true) ∧ (t = setOrdStage l ((ordStage s l).eraseIdx i) s) ∧
      (x.frame.kind ≠ 3 ∧ admitted t l = true ∧ ordAnchored t = true ∧ t.ord.seen.contains x.frame.seq = true) ∧
      ((x.frame.seq + 65536 - ordH t) % 65536 = 0 ∨ 32768 ≤ (x.frame.seq + 65536 - ordH t) % 65536) :=
    ⟨1, 0, ⟨W.msg, 1⟩, setOrdStage 1 [⟨W.msg, 1⟩] ((W.up.wr (ordReg 4) 0x50112).withOrd (fun o =>
      { o with seen := [5] })), _, by decide, by decide +kernel, rfl, by decide +kernel, .inl (by decide +kernel)⟩

theorem test_OutputReceiverEvents_copyJudge_holds_3 :
    ∃ (l i : Nat) (x : OCopy) (s t : State), (s.sys.phase ≠ .off) ∧ ((ordStage s l)[i]? = some x ∧ ((ordStage s
      l).take i).all (fun y => decide (x.wait < y.wait)) = true) ∧ (t = setOrdStage l ((ordStage s l).eraseIdx i) s) ∧
      (x.frame.kind = 3) :=
    ⟨1, 0, ⟨W.claim, 1⟩, setOrdStage 1 [⟨W.claim, 1⟩] W.up, _, by decide, by decide +kernel, rfl, rfl⟩

theorem test_OutputReceiverEvents_canRecordWrite_holds :
    ∃ (r : List Nat) (rest : List (List Nat)) (s : State), (s.up = true) ∧ ((hwDrain 24 s).ord.records = r :: rest ∧
      hwFrames (hwDrain 24 s) 24 = 0) :=
    ⟨[1], [], W.up.withOrd (fun o => { o with records := [[1]] }), by decide +kernel⟩

theorem test_OutputReceiverOpcodes_ordSetCfg_holds :
    ∃ (ring slot : Nat) (c : Cmd) (s0 s : State), (Admits (specOf opsOrd 0x0E00) ring slot c s0 s = true) ∧ (c.w 32
      &&& ~~~ 0x7FFF3FF#32 = 0 ∧ ordCfgOk (c.w 32) = true ∧ ordSwap s = false) :=
    ⟨0, 0, W.cmd 0x0E00 0 [0xE8, 0xA3, 0, 0], (W.st 14 (W.cmd 0x0E00 0 [0xE8, 0xA3, 0, 0])), (W.st 14 (W.cmd 0x0E00 0
      [0xE8, 0xA3, 0, 0])), by decide +kernel⟩

theorem test_OutputReceiverOpcodes_ordStatus_holds :
    ∃ (ring slot : Nat) (c : Cmd) (s0 s : State), (Admits (specOf opsOrd 0x0E01) ring slot c s0 s = true) :=
    ⟨0, 0, W.cmd 0x0E01 0 [], (W.st 14 (W.cmd 0x0E01 0 [])), (W.st 14 (W.cmd 0x0E01 0 [])), by decide +kernel⟩

theorem test_OutputReceiverOpcodes_ordSwapTest_holds :
    ∃ (ring slot : Nat) (c : Cmd) (s0 s : State), (Admits (specOf opsOrd 0x0E02) ring slot c s0 s = true) ∧ (c.p 32 2
      ≠ 0 ∧ c.p 32 2 ≤ 60000 ∧ c.zero 34 2 = true) ∧ (ordCharge s = 1 ∧ ordLine s 0 = false ∧ ordLine s 1 = false ∧
      ordUp s 0 = true ∧ ordUp s 1 = true ∧ ordHoldoff s = false ∧ bIsolated s = false ∧ ordSwap s = false) :=
    ⟨0, 0, W.cmd 0x0E02 0 [0x60, 0xEA, 0, 0], (let s := (W.st 14 (W.cmd 0x0E02 0 [0x60, 0xEA, 0, 0])); s.wr (ordReg 4)
      0x181), (let s := (W.st 14 (W.cmd 0x0E02 0 [0x60, 0xEA, 0, 0])); s.wr (ordReg 4) 0x181), by decide +kernel⟩

theorem test_OutputReceiverOpcodes_ordSwapTest_holds_2 :
    ∃ (ring slot : Nat) (c : Cmd) (s0 s : State), (Admits (specOf opsOrd 0x0E02) ring slot c s0 s = true) ∧ (c.p 32 2
      ≠ 0 ∧ c.p 32 2 ≤ 60000 ∧ c.zero 34 2 = true) ∧ (¬ (ordCharge s = 1 ∧ ordLine s 0 = false ∧ ordLine s 1 = false ∧
      ordUp s 0 = true ∧ ordUp s 1 = true ∧ ordHoldoff s = false ∧ bIsolated s = false ∧ ordSwap s = false)) :=
    ⟨0, 0, W.cmd 0x0E02 0 [0x60, 0xEA, 0, 0], (let s := (W.st 14 (W.cmd 0x0E02 0 [0x60, 0xEA, 0, 0])); s.wr (ordReg 4)
      0x189), (let s := (W.st 14 (W.cmd 0x0E02 0 [0x60, 0xEA, 0, 0])); s.wr (ordReg 4) 0x189), by decide +kernel⟩

theorem test_OutputReceiverOpcodes_ordSwapCancel_holds :
    ∃ (ring slot : Nat) (c : Cmd) (s0 s : State), (Admits (specOf opsOrd 0x0E03) ring slot c s0 s = true) ∧ (ordSwap s
      = true) :=
    ⟨0, 0, W.cmd 0x0E03 0 [], (let s := (W.st 14 (W.cmd 0x0E03 0 [])); s.wr (ordReg 4) 8), (let s := (W.st 14 (W.cmd
      0x0E03 0 [])); s.wr (ordReg 4) 8), by decide +kernel⟩

theorem test_OutputReceiverOpcodes_ordCounters_holds :
    ∃ (ring slot : Nat) (c : Cmd) (s0 s : State), (Admits (specOf opsOrd 0x0E04) ring slot c s0 s = true) :=
    ⟨0, 0, W.cmd 0x0E04 0 [], (W.st 14 (W.cmd 0x0E04 0 [])), (W.st 14 (W.cmd 0x0E04 0 [])), by decide +kernel⟩

theorem test_LoadChannelEvents_channelSet_holds :
    ∃ (b : List Word) (r : List (List Word)) (s t : State), (s.sys.phase ≠ .off) ∧ (s.lch.passed = b :: r ∧ t =
      s.withLch (fun l => { l with passed := r })) ∧ (cmdOp b = 0 ∧ cmdReason t b = 0) :=
    ⟨[0x1000], [], W.up.withLch (fun l => { l with passed := [[0x1000]] }), _, by decide, ⟨rfl, rfl⟩,
      by decide +kernel⟩

theorem test_LoadChannelEvents_channelSet_holds_2 :
    ∃ (b : List Word) (r : List (List Word)) (s t : State), (s.sys.phase ≠ .off) ∧ (s.lch.passed = b :: r ∧ t =
      s.withLch (fun l => { l with passed := r })) ∧ (cmdOp b = 0 ∨ cmdOp b = 3) ∧ (cmdReason t b ≠ 0) :=
    ⟨[0x300], [], W.up.withLch (fun l => { l with passed := [[0x300]] }), _, by decide, ⟨rfl, rfl⟩, by decide +kernel,
      by decide +kernel⟩

theorem test_LoadChannelEvents_channelMask_holds :
    ∃ (b : List Word) (r : List (List Word)) (mask value : Nat) (s t u : State), (s.sys.phase ≠ .off) ∧ (s.lch.passed
      = b :: r ∧ t = cmdApplied (s.withLch (fun l => { l with passed := r }))) ∧ (cmdOp b = 1 ∧ cmdReason (s.withLch
      (fun l => { l with passed := r })) b = 0) ∧ (mask = (b.getD 1 0).toNat + fld (b.getD 2 0) 7 0 * 2 ^ 32 ∧ value =
      (b.getD 3 0).toNat + fld (b.getD 2 0) 15 8 * 2 ^ 32) ∧ (u = if (bitsOf mask 40).all (chFitted t) then t else
      (t.cnt (lchReg 0x108) 1).raise 15 9) :=
    ⟨[0x100, 1, 0, 1], [], _, _, W.up.withLch (fun l => { l with passed := [[0x100, 1, 0, 1]] }), _, _, by decide,
      ⟨rfl, rfl⟩, by decide +kernel, ⟨rfl, rfl⟩, rfl⟩

theorem test_LoadChannelEvents_channelClear_holds :
    ∃ (b : List Word) (r : List (List Word)) (c : Nat) (s t : State), (s.sys.phase ≠ .off) ∧ (s.lch.passed = b :: r ∧
      cmdOp b = 2 ∧ cmdReason (s.withLch (fun l => { l with passed := r })) b = 0) ∧ (c = cmdCh b ∧ t = setRestarts c
      0 (named c (cmdApplied (s.withLch (fun l => { l with passed := r }))))) ∧ (chProt t c ≠ 3) :=
    ⟨[0x200], [], _, W.up.withLch (fun l => { l with passed := [[0x200]] }), _, by decide, by decide +kernel,
      ⟨rfl, rfl⟩, by decide +kernel⟩

theorem test_LoadChannelEvents_channelClear_holds_2 :
    ∃ (b : List Word) (r : List (List Word)) (c : Nat) (s t u : State), (s.sys.phase ≠ .off) ∧ (s.lch.passed = b :: r
      ∧ cmdOp b = 2 ∧ cmdReason (s.withLch (fun l => { l with passed := r })) b = 0) ∧ (c = cmdCh b ∧ t = setRestarts
      c 0 (named c (cmdApplied (s.withLch (fun l => { l with passed := r }))))) ∧ (chProt t c = 3) ∧ (u = liveFlag c 7
      false (liveFlag c 6 false (t.sf (chReg c 0x10) 2 0 (if live t c 5 then 2 else 0)))) :=
    ⟨[0x200], [], _, (W.up.wr (chReg 0 0x10) 3).withLch (fun l => { l with passed := [[0x200]] }), _, _, by decide,
      by decide +kernel, ⟨rfl, rfl⟩, by decide +kernel, rfl⟩

theorem test_LoadChannelEvents_holdExpiry_holds :
    ∃ (s : State), (s.sys.phase ≠ .off) ∧ (holdRuns s = true) :=
    ⟨W.up.wr (lchReg 8) 1, by decide +kernel⟩

theorem test_LoadChannelEvents_armWrite_holds :
    ∃ (m : Nat) (v : Word) (s t : State), (MayWrite s m 15 (.bit 42) = true) ∧ (v &&& ~~~ 0x7FF0001#32 = 0 ∧ 10 ≤ fld
      v 26 16 ∧ fld v 26 16 ≤ 2000) ∧ (t = s.sf (lchReg 4) 26 16 (fld v 26 16)) :=
    ⟨0x10, 0xA0001, W.adm 15, _, by decide +kernel, by decide, rfl⟩

theorem test_LoadChannelEvents_pwmPeriodStart_holds :
    ∃ (k v1 v2 : Nat) (s : State), (s.sys.phase ≠ .off) ∧ (k < 8 ∧ tbPeriod s k ≠ 0 ∧ tget 0 s.lch.tbNext k ≤ lchNow
      s) :=
    ⟨7, 0, 0, W.up.wr (tbReg 7 0xC) 50000, by decide +kernel⟩

theorem test_LoadChannelEvents_pwmEdge_holds :
    ∃ (c on : Nat) (s t : State), (s.sys.phase ≠ .off) ∧ (c < 40 ∧ chMode s c = 2 ∧ tbPeriod s (chTb s c) ≠ 0 ∧ (chan
      s c).next ≤ lchNow s) ∧ (on = onTime (tbPeriod s (chTb s c)) (chDutyEff c s)) ∧ (t = setChan c
      { chan s c with next := (chan s c).next + tbPeriod s (chTb s c), ends := if on = 0 then (chan s c).ends else (chan s c).ends ++ [(chan s c).next + on], on := on }
      (s.sf (chReg c 0x18) 13 0 (chDutyEff c s))) :=
    ⟨39, _, (W.up.wr (chReg 39 8) 2).wr (tbReg 0 0xC) 50000, _, by decide, by decide +kernel, rfl, rfl⟩

theorem test_LoadChannelEvents_pwmEdge_holds_2 :
    ∃ (c x : Nat) (r : List Nat) (s : State), (s.sys.phase ≠ .off) ∧ (c < 40 ∧ chMode s c = 2 ∧ tbPeriod s (chTb s c)
      ≠ 0 ∧ (chan s c).ends = x :: r ∧ x ≤ lchNow s) :=
    ⟨39, 0, [], setChan 39 { Chan.zero with ends := [0] } ((W.up.wr (chReg 39 8) 2).wr (tbReg 0 0xC) 50000),
      by decide +kernel⟩

theorem test_LoadChannelEvents_inrushEnd_holds :
    ∃ (c : Nat) (s : State), (s.sys.phase ≠ .off) ∧ (c < 40 ∧ s.bit (chReg c 0x10) 5 = true) :=
    ⟨39, W.up.wr (chReg 39 0x10) 0x20, by decide +kernel⟩

theorem test_LoadChannelEvents_shortDetect_holds :
    ∃ (c : Nat) (low : Bool) (s u v : State), (s.sys.phase ≠ .off) ∧ (c < 40 ∧ u = stopUndo c s ∧ chConducts u c =
      true) ∧ (low = false ∨ (chan s c).since + fld (chan s c).prof1 25 16 * 500 ≤ s.sys.ticks) ∧ (v = if u.bit
      (lchReg 0x10) (chRail c) then liveFlag c 5 true u else u) :=
    ⟨39, true, { W.up.wr (chReg 39 8) 1 with sys := { W.up.sys with ticks := 10000000 } }, _, _, by decide,
      ⟨by decide, rfl, by decide +kernel⟩, .inr (by decide +kernel), rfl⟩

theorem test_LoadChannelEvents_shortDetect_holds_2 :
    ∃ (c : Nat) (s : State), (s.sys.phase ≠ .off) ∧ (s.sys.ticks < (chan s c).since + fld (chan s c).prof1 25 16 *
      500) :=
    ⟨39, setChan 39 { Chan.zero with prof1 := 0x10000, since := 0 } (W.up.wr (chReg 39 8) 1), by decide +kernel⟩

theorem test_LoadChannelEvents_ocWarn_holds :
    ∃ (c : Nat) (s : State), (s.sys.phase ≠ .off) ∧ (c < 40 ∧ chConducts s c = true ∧ s.bit (chReg c 0x10) 5 = false)
      :=
    ⟨39, W.up.wr (chReg 39 8) 1, by decide +kernel⟩

theorem test_LoadChannelEvents_thermalTrip_holds :
    ∃ (c dT : Nat) (hot : Bool) (s t u : State), (s.sys.phase ≠ .off) ∧ (c < 40 ∧ t = s.sf (chReg c 0x18) 23 16 (min
      dT 255)) ∧ (chConducts t c = true ∧ (dtLimit t c ≤ dT ∨ hot = true) ∧ chRestarts t c < 8) ∧ (u = (stopMark c 1
      t).cnt (chReg c 0x24) 1) :=
    ⟨39, 80, false, W.up.wr (chReg 39 8) 1, _, _, by decide, ⟨by decide, rfl⟩, by decide +kernel, rfl⟩

theorem test_LoadChannelEvents_thermalTrip_holds_2 :
    ∃ (c dT : Nat) (hot : Bool) (s t u : State), (s.sys.phase ≠ .off) ∧ (c < 40 ∧ t = s.sf (chReg c 0x18) 23 16 (min
      dT 255)) ∧ (chConducts t c = true ∧ (dtLimit t c ≤ dT ∨ hot = true) ∧ 8 ≤ chRestarts t c) ∧ (u = (stopMark c 2
      t).cnt (chReg c 0x24) 1) :=
    ⟨39, 0, true, (W.up.wr (chReg 39 8) 1).wr (chReg 39 0x10) 0x800, _, _, by decide, ⟨by decide, rfl⟩,
      by decide +kernel, rfl⟩

theorem test_LoadChannelEvents_thermalReady_holds :
    ∃ (c dT : Nat) (s t : State), (s.sys.phase ≠ .off) ∧ (c < 40 ∧ t = s.sf (chReg c 0x18) 23 16 (min dT 255)) ∧
      (chProt t c = 1 ∧ dT + 10 ≤ dtLimit t c) :=
    ⟨39, 10, W.up.wr (chReg 39 0x10) 1, _, by decide, ⟨by decide, rfl⟩, by decide +kernel⟩

theorem test_LoadChannelEvents_restartsClear_holds :
    ∃ (c : Nat) (s : State), (s.sys.phase ≠ .off) ∧ (c < 40 ∧ chProt s c = 0) :=
    ⟨39, W.up, by decide +kernel⟩

theorem test_LoadChannelEvents_railUndervoltage_holds :
    ∃ (r mv : Nat) (s t : State), (s.sys.phase ≠ .off) ∧ (r < 2 ∧ s.bit (lchReg 0x10) r = false) ∧ (t = (((setRail r
      mv s).sb (lchReg 0x10) r true).cnt (lchReg (0x114 + 4 * r)) 1).raise 15 3) :=
    ⟨1, 5000, W.up, _, by decide, by decide +kernel, rfl⟩

theorem test_LoadChannelEvents_railUndervoltage_holds_2 :
    ∃ (c : Nat) (s t : State), (t = liveFlag c 5 true (stopUndo c s)) :=
    ⟨1, W.up, _, rfl⟩

theorem test_LoadChannelEvents_railRecovery_holds :
    ∃ (r mv : Nat) (s : State), (s.sys.phase ≠ .off) ∧ (r < 2 ∧ s.bit (lchReg 0x10) r = true) :=
    ⟨1, 6000, W.up.wr (lchReg 0x10) 2, by decide +kernel⟩

theorem test_LoadChannelEvents_openLoadOn_holds :
    ∃ (c : Nat) (low : Bool) (s : State), (s.sys.phase ≠ .off) ∧ (c < 40 ∧ chConducts s c = true ∧ fld (chan s
      c).prof1 15 8 ≠ 0) ∧ (chMode s c = 1 ∧ s.bit (chReg c 0x10) 5 = false) :=
    ⟨39, true, setChan 39 { Chan.zero with prof1 := 0x100 } (W.up.wr (chReg 39 8) 1), by decide +kernel⟩

theorem test_LoadChannelEvents_openLoadOn_holds_2 :
    ∃ (c : Nat) (s : State), (s.sys.phase ≠ .off) ∧ (c < 40 ∧ chConducts s c = true ∧ fld (chan s c).prof1 15 8 ≠ 0) ∧
      (chMode s c ≠ 1 ∧ 100000 ≤ (chan s c).on ∧ (chan s c).low < 7) :=
    ⟨39, setChan 39 { Chan.zero with prof1 := 0x100, on := 100000, low := 6, ends := [1] } (W.up.wr (chReg 39 8) 2),
      by decide +kernel⟩

theorem test_LoadChannelEvents_openLoadOn_holds_3 :
    ∃ (c : Nat) (s t : State), (s.sys.phase ≠ .off) ∧ (c < 40 ∧ chConducts s c = true ∧ fld (chan s c).prof1 15 8 ≠ 0)
      ∧ (chMode s c ≠ 1 ∧ 100000 ≤ (chan s c).on ∧ 7 ≤ (chan s c).low) ∧ (t = setChan c { chan s c with low := 8 } s)
      :=
    ⟨39, setChan 39 { Chan.zero with prof1 := 0x100, on := 100000, low := 7, ends := [1] } (W.up.wr (chReg 39 8) 2),
      _, by decide, by decide +kernel, by decide +kernel, rfl⟩

theorem test_LoadChannelEvents_openLoadOn_holds_4 :
    ∃ (c : Nat) (s t : State), (s.sys.phase ≠ .off) ∧ (c < 40 ∧ chConducts s c = true ∧ fld (chan s c).prof1 15 8 ≠ 0)
      ∧ (chMode s c ≠ 1 ∧ 100000 ≤ (chan s c).on) ∧ (t = setChan c { chan s c with low := 0 } s) :=
    ⟨39, setChan 39 { Chan.zero with prof1 := 0x100, on := 100000, low := 7, ends := [1] } (W.up.wr (chReg 39 8) 2),
      _, by decide, by decide +kernel, by decide +kernel, rfl⟩

theorem test_LoadChannelEvents_openLoadOff_holds :
    ∃ (c : Nat) (high : Bool) (s : State), (s.sys.phase ≠ .off) ∧ (c < 40 ∧ chFitted s c = true ∧ chMode s c = 0 ∧
      bitOf (chan s c).prof0 14 = true) :=
    ⟨39, true, setChan 39 { Chan.zero with prof0 := 0x4000 } W.up, by decide +kernel⟩

theorem test_LoadChannelOpcodes_lchChanCfg_holds :
    ∃ (ring slot : Nat) (c : Cmd) (s0 s : State), (Admits (specOf opsLch 0x0F00) ring slot c s0 s = true) ∧ (c.p 32 1
      ≤ 15 ∧ c.p 33 1 ≤ 2 ∧ c.p 34 1 ≤ 7 ∧ 20 ≤ c.p 35 1 ∧ c.p 35 1 ≤ 80 ∧ c.p 36 2 ≤ 10000 ∧ c.zero 38 2 = true) ∧
      (c.p 33 1 = 2 → tbPeriod s (c.p 34 1) ≠ 0) ∧ (chMode s c.inst = 0) :=
    ⟨0, 0, W.cmd 0x0F00 39 [15, 2, 7, 80, 0x10, 0x27, 0, 0], (let s := (W.st 15 (W.cmd 0x0F00 39 [15, 2, 7, 80, 0x10,
      0x27, 0, 0])); s.wr (tbReg 7 0xC) 50000), (let s := (W.st 15 (W.cmd 0x0F00 39 [15, 2, 7, 80, 0x10, 0x27, 0,
      0])); s.wr (tbReg 7 0xC) 50000), by decide +kernel⟩

theorem test_LoadChannelOpcodes_lchProfile_holds :
    ∃ (ring slot : Nat) (c : Cmd) (s0 s : State), (Admits (specOf opsLch 0x0F01) ring slot c s0 s = true) ∧ (6 ≤ c.p
      32 1 ∧ c.p 32 1 ≤ 15 ∧ c.p 33 1 ≤ 3 ∧ c.p 34 1 ≤ 1 ∧ c.zero 35 1 = true ∧ c.p 36 2 ≤ 2000) ∧ (4 ≤ c.p 38 1 ∧ c.p
      38 1 ≤ 64 ∧ 4 ≤ c.p 39 1 ∧ c.p 39 1 ≤ 64 ∧ 4 ≤ c.p 40 1 ∧ c.p 40 1 ≤ 64) ∧ (c.p 42 2 ≤ 1000 ∧ 8000 ≤ c.p 44 2 ∧
      c.p 44 2 ≤ 16000 ∧ c.zero 46 2 = true) :=
    ⟨0, 0, W.cmd 0x0F01 40 [15, 3, 1, 0, 0xD0, 7, 4, 64, 64, 0, 0xE8, 3, 0x80, 0x3E, 0, 0], (W.st 15 (W.cmd 0x0F01 40
      [15, 3, 1, 0, 0xD0, 7, 4, 64, 64, 0, 0xE8, 3, 0x80, 0x3E, 0, 0])), (W.st 15 (W.cmd 0x0F01 40 [15, 3, 1, 0, 0xD0,
      7, 4, 64, 64, 0, 0xE8, 3, 0x80, 0x3E, 0, 0])), by decide +kernel⟩

theorem test_LoadChannelOpcodes_lchTimebase_holds :
    ∃ (ring slot : Nat) (c : Cmd) (s0 s : State), (Admits (specOf opsLch 0x0F02) ring slot c s0 s = true) ∧ (c.p 32 1
      ≤ 7 ∧ c.zero 33 3 = true ∧ c.timeForm 36 = true ∧ c.timeNs 36 ≤ 999999999 ∧ tbPeriodOk (c.p 48 4) = true ∧
      tbUser s (c.p 32 1) = none) :=
    ⟨0, 0, W.cmd 0x0F02 41 ([7, 0, 0, 0] ++ List.replicate 12 0 ++ leBytes 4 50000), (W.st 15 (W.cmd 0x0F02 41 ([7, 0,
      0, 0] ++ List.replicate 12 0 ++ leBytes 4 50000))), (W.st 15 (W.cmd 0x0F02 41 ([7, 0, 0, 0] ++ List.replicate 12
      0 ++ leBytes 4 50000))), by decide +kernel⟩

theorem test_LoadChannelOpcodes_lchSetHold_holds :
    ∃ (ring slot : Nat) (c : Cmd) (s0 s : State), (Admits (specOf opsLch 0x0F03) ring slot c s0 s = true) ∧ (10 ≤ c.p
      32 2 ∧ c.p 32 2 ≤ 2000 ∧ c.zero 34 2 = true) :=
    ⟨0, 0, W.cmd 0x0F03 42 [0xD0, 7, 0, 0], (W.st 15 (W.cmd 0x0F03 42 [0xD0, 7, 0, 0])), (W.st 15 (W.cmd 0x0F03 42
      [0xD0, 7, 0, 0])), by decide +kernel⟩

theorem test_LoadChannelOpcodes_lchChanStatus_holds :
    ∃ (ring slot : Nat) (c : Cmd) (s0 s : State), (Admits (specOf opsLch 0x0F04) ring slot c s0 s = true) :=
    ⟨0, 0, W.cmd 0x0F04 39 [], (W.st 15 (W.cmd 0x0F04 39 [])), (W.st 15 (W.cmd 0x0F04 39 [])), by decide +kernel⟩

theorem test_LoadChannelOpcodes_lchCounters_holds :
    ∃ (ring slot : Nat) (c : Cmd) (s0 s : State), (Admits (specOf opsLch 0x0F05) ring slot c s0 s = true) ∧ (c.inst ≠
      42) :=
    ⟨0, 0, W.cmd 0x0F05 39 [], (W.st 15 (W.cmd 0x0F05 39 [])), (W.st 15 (W.cmd 0x0F05 39 [])), by decide +kernel⟩

theorem test_LoadChannelOpcodes_lchCounters_holds_2 :
    ∃ (ring slot : Nat) (c : Cmd) (s0 s : State), (Admits (specOf opsLch 0x0F05) ring slot c s0 s = true) ∧ (c.inst =
      42) :=
    ⟨0, 0, W.cmd 0x0F05 42 [], (W.st 15 (W.cmd 0x0F05 42 [])), (W.st 15 (W.cmd 0x0F05 42 [])), by decide +kernel⟩

theorem test_KeystoneWakesAndPowersOff_wakeSourceFire_holds :
    ∃ (src sub levels : Nat) (w : List (Nat × Nat)) (s t u : State), (t = setLevels levels s ∧ u = if src = 0 then
      powerOnFirst t else keyLog src sub 0 (powerOnFirst t)) ∧ (fires s t src sub = true ∧ mayFire t src = true ∧
      t.sys.phase = .off ∧ u.key.supplyGood = true) ∧ (w = u.key.latched ++ u.key.held ++ if src = 0 then [] else
      [(src, sub)]) :=
    ⟨1, 0, 41, _, State.reset.wr (keyReg 8) 2, _, _, ⟨rfl, rfl⟩, by decide +kernel, rfl⟩

theorem test_KeystoneWakesAndPowersOff_wakeSourceFire_holds_2 :
    ∃ (src sub levels : Nat) (s t u : State), (t = setLevels levels s ∧ u = if src = 0 then powerOnFirst t else keyLog
      src sub 0 (powerOnFirst t)) ∧ (fires s t src sub = true ∧ mayFire t src = true ∧ t.sys.phase = .off ∧
      u.key.supplyGood = false) :=
    ⟨0, 0, 0, State.reset, _, _, ⟨rfl, rfl⟩, by decide +kernel⟩

theorem test_KeystoneWakesAndPowersOff_wakeSourceFire_holds_3 :
    ∃ (src sub levels : Nat) (s t u : State), (t = setLevels levels s ∧ u = (keyLog src sub 4 t).cnt (keyReg 0x48) 1)
      ∧ (fires s t src sub = true ∧ mayFire t src = true ∧ t.sys.phase ≠ .off ∧ poweringOff t = true) :=
    ⟨1, 0, 33, (W.up.wr (keyReg 0) 1).wr (keyReg 8) 2, _, _, ⟨rfl, rfl⟩, by decide +kernel⟩

theorem test_KeystoneWakesAndPowersOff_wakeSourceFire_holds_4 :
    ∃ (src sub levels : Nat) (s t u v w x : State), (t = setLevels levels s) ∧ (fires s t src sub = true ∧ mayFire t
      src = true ∧ t.sys.phase ≠ .off ∧ poweringOff t = false) ∧ (u = setPair 0x1C src true (keyLog src sub 0 t)) ∧ (v
      = if src = 1 then clearLockouts u else u) ∧ (w = v.withKey (fun k => { k with fired := some (pclk v) })) ∧ (x =
      if src ≤ 2 || (decide (src ≤ 7) && wakeValidate w (src - 4) == 0) then keyValidate [src] w else w) :=
    ⟨1, 0, 33, W.up.wr (keyReg 8) 2, _, _, _, _, _, rfl, by decide +kernel, rfl, rfl, rfl, rfl⟩

theorem test_KeystoneWakesAndPowersOff_wakeSupplyGood_holds :
    ∃ (x : Nat × Nat) (r : List (Nat × Nat)) (s : State), (s.key.held = x :: r ∧ s.sys.phase = .off) :=
    ⟨(0, 0), [], State.reset.withKey (fun k => { k with held := [(0, 0)] }), by decide +kernel⟩

theorem test_KeystoneWakesAndPowersOff_latchedWakePowerUp_holds :
    ∃ (x : Nat × Nat) (r : List (Nat × Nat)) (s : State), (s.key.latched = x :: r ∧ s.sys.phase = .off) :=
    ⟨(0, 0), [], State.reset.withKey (fun k => { k with latched := [(0, 0)] }), by decide +kernel⟩

theorem test_KeystoneWakesAndPowersOff_validationEnd_holds :
    ∃ (s t : State), (s.up = true) ∧ (t = keyValidate (((List.range 4).filter (fun k => wakeValidate s k == 1 &&
      wakeActive s k)).map (4 + ·)) s) :=
    ⟨W.up, _, by decide, rfl⟩

theorem test_KeystoneWakesAndPowersOff_autoSleepBegin_holds :
    ∃ (s : State), (s.up = true) ∧ (s.bit (keyReg 4) 24 = true ∧ sleepBlocks s = 0 ∧ poweringOff s = false) :=
    ⟨W.up.sb (keyReg 4) 24 true, by decide +kernel⟩

theorem test_KeystoneWakesAndPowersOff_powerOffDone_holds :
    ∃ (s t : State), (s.up = true) ∧ (poweringOff s = true ∧ t = s.withEth (fun e => { e with rtFlash := e.rt })) :=
    ⟨W.up.wr (keyReg 0) 1, _, by decide, ⟨by decide +kernel, rfl⟩⟩

theorem test_KeystoneWakesAndPowersOff_powerOffComplete_holds :
    ∃ (s : State), (s.sys.phase = .stopping) :=
    ⟨{ State.reset with sys := { SysState.reset with phase := .stopping } }, by decide +kernel⟩

theorem test_KeystoneWakesAndPowersOff_brownOut_holds :
    ∃ (s : State), (s.sys.phase ≠ .off) :=
    ⟨W.up, by decide +kernel⟩

theorem test_KeystoneWakesAndPowersOff_recoveryTimeout_holds :
    ∃ (s : State), ((s.sys.phase = .recovery ∨ s.sys.phase = .stuck) ∧ s.sys.debug = false ∧ poweringOff s = false) :=
    ⟨{ State.reset with sys := { SysState.reset with phase := .recovery } }, by decide +kernel⟩

theorem test_StartsOfTheModule_railsGood_holds :
    ∃ (kind : Nat) (c : Word) (s t : State), (s.sys.phase = .rising) ∧ (kind = (if fld (s.rd (keyReg 0x18)) 5 0 = 0
      then 1 else 2) ∧ c = causeWord kind (fld s.sys.cause 7 4) (fld s.sys.cause 12 8) 0) ∧ (t = (setCause c
      (clearLogic true s)).wr (rg 0 0x20) (setCause c (clearLogic true s)).sys.cause) ∧ (fusesOk t = true ∧ bootSlots
      t = []) :=
    ⟨_, _, { State.reset with sys := { SysState.reset with phase := .rising } }, _, by decide, ⟨rfl, rfl⟩, rfl,
      by decide +kernel⟩

theorem test_StartsOfTheModule_railsGood_holds_2 :
    ∃ (k kind : Nat) (c : Word) (s t : State), (s.sys.phase = .rising) ∧ (kind = (if fld (s.rd (keyReg 0x18)) 5 0 = 0
      then 1 else 2) ∧ c = causeWord kind (fld s.sys.cause 7 4) (fld s.sys.cause 12 8) 0) ∧ (t = (setCause c
      (clearLogic true s)).wr (rg 0 0x20) (setCause c (clearLogic true s)).sys.cause) ∧ (fusesOk t = true ∧ bootSlots
      t = [k]) :=
    ⟨1, _, _, { W.oneImage with sys := { W.oneImage.sys with phase := .rising } }, _, by decide, ⟨rfl, rfl⟩, rfl,
      by decide +kernel⟩

theorem test_StartsOfTheModule_moduleResetRelease_holds :
    ∃ (s t : State), (s.sys.phase = .inReset) ∧ (t = (lchReposition (s.withLch (fun l =>
      { l with clock := none }))).wr (rg 0 0x20) (lchReposition (s.withLch (fun l =>
      { l with clock := none }))).sys.cause) ∧ (fusesOk t = true ∧ bootSlots t = []) :=
    ⟨{ State.reset with sys := { SysState.reset with phase := .inReset } }, _, by decide, rfl, by decide +kernel⟩

theorem test_StartsOfTheModule_moduleResetRelease_holds_2 :
    ∃ (k : Nat) (s t : State), (s.sys.phase = .inReset) ∧ (t = (lchReposition (s.withLch (fun l =>
      { l with clock := none }))).wr (rg 0 0x20) (lchReposition (s.withLch (fun l =>
      { l with clock := none }))).sys.cause) ∧ (fusesOk t = true ∧ bootSlots t = [k]) :=
    ⟨1, W.oneImage, _, by decide, rfl, by decide +kernel⟩

theorem test_StartsOfTheModule_ladlePourComplete_holds :
    ∃ (k : Nat) (s t u v : State), (s.sys.phase = .ladle ∧ s.sys.slot = some k) ∧ (t =
      { s with sys := { s.sys with phase := .running } }) ∧ (u = applyHeld ((imgEntries t k).filter isPower) t) ∧ (v =
      if u.f (rg 0 0x20) 3 0 ≠ 3 ∧ u.bit (lchReg 4) 0 = false then lchArm u else u) :=
    ⟨0, W.ladle, _, _, _, by decide, rfl, rfl, rfl⟩

theorem test_StartsOfTheModule_lateLoad_holds :
    ∃ (k : Nat) (s : State), (s.up = true) ∧ (s.sys.slot = some k ∧ s.f (rg 0 0x24) 9 8 = 1) ∧ (s.mason.cmds.any (fun
      c => c.ring == imageRing) = false ∧ (s.sys.late.isSome && s.mason.image.1 != 0) = false) :=
    ⟨0, W.late 1, by decide +kernel⟩

theorem test_StartsOfTheModule_lateLoad_holds_2 :
    ∃ (k i : Nat) (s : State), (s.up = true) ∧ (s.sys.slot = some k ∧ s.f (rg 0 0x24) 9 8 = 1) ∧ (s.mason.cmds.any
      (fun c => c.ring == imageRing) = false ∧ s.sys.late = some i ∧ s.mason.image.1 ≠ 0) :=
    ⟨0, 1, W.lateFailed, by decide +kernel⟩

theorem test_StartsOfTheModule_lateLoad_holds_3 :
    ∃ (k : Nat) (s : State), (s.up = true) ∧ (s.sys.slot = some k ∧ s.f (rg 0 0x24) 9 8 = 1) ∧ (s.mason.cmds.any (fun
      c => c.ring == imageRing) = false ∧ s.sys.late = none ∧ lateItems s k = []) :=
    ⟨0, W.late 0, by decide +kernel⟩

theorem test_StartsOfTheModule_lateLoad_holds_4 :
    ∃ (k : Nat) (s : State) (r : List LateItem), (s.up = true) ∧ (s.sys.slot = some k ∧ s.f (rg 0 0x24) 9 8 = 1) ∧
      (s.mason.cmds.any (fun c => c.ring == imageRing) = false ∧ s.sys.late = none ∧ lateItems s k = .bad :: r) :=
    ⟨0, W.late 1, [], by decide, by decide +kernel, ⟨by decide, by decide, rfl⟩⟩

theorem test_KeystoneOpcodes_keyStatus_holds :
    ∃ (ring slot : Nat) (c : Cmd) (s0 s : State), (Admits (specOf opsKey 0x1000) ring slot c s0 s = true) :=
    ⟨0, 0, W.cmd 0x1000 0 [], (W.st 16 (W.cmd 0x1000 0 [])), (W.st 16 (W.cmd 0x1000 0 [])), by decide +kernel⟩

theorem test_KeystoneOpcodes_keySetCfg_holds :
    ∃ (ring slot : Nat) (c : Cmd) (s0 s : State), (Admits (specOf opsKey 0x1001) ring slot c s0 s = true) ∧ (c.w 32
      &&& ~~~ 0x03FFF7FF#32 = 0 ∧ keyCfgOk (c.w 32) = true ∧ c.p 40 4 < 2 ^ 18) ∧ (wakeCfgOk (c.w 44) = true ∧ c.p 48
      4 < 2 ^ 17 ∧ timerOk (c.w 48) = true) :=
    ⟨0, 0, W.cmd 0x1001 0 ([0xD0, 0xF7, 0xFF, 3] ++ List.replicate 4 255 ++ [255, 255, 3, 0] ++ [0x77, 0x77, 0x77,
      0x77] ++ [0x80, 0x51, 1, 0]), (W.st 16 (W.cmd 0x1001 0 ([0xD0, 0xF7, 0xFF, 3] ++ List.replicate 4 255 ++ [255,
      255, 3, 0] ++ [0x77, 0x77, 0x77, 0x77] ++ [0x80, 0x51, 1, 0]))), (W.st 16 (W.cmd 0x1001 0 ([0xD0, 0xF7, 0xFF, 3]
      ++ List.replicate 4 255 ++ [255, 255, 3, 0] ++ [0x77, 0x77, 0x77, 0x77] ++ [0x80, 0x51, 1, 0]))),
      by decide +kernel⟩

theorem test_KeystoneOpcodes_keySleep_holds :
    ∃ (ring slot : Nat) (c : Cmd) (s0 s : State), (Admits (specOf opsKey 0x1002) ring slot c s0 s = true) ∧ (c.p 32 4
      = 1 ∨ (c.p 32 4 = 0 ∧ sleepBlocks s = 0)) ∧ (firedNow s = false) :=
    ⟨0, 0, W.cmd 0x1002 0 [1, 0, 0, 0], (W.st 16 (W.cmd 0x1002 0 [1, 0, 0, 0])), (W.st 16 (W.cmd 0x1002 0 [1, 0, 0,
      0])), by decide +kernel⟩

theorem test_KeystoneOpcodes_keyWakeValid_holds :
    ∃ (ring slot : Nat) (c : Cmd) (s0 s : State), (Admits (specOf opsKey 0x1003) ring slot c s0 s = true) ∧
      (validating s = true) :=
    ⟨0, 0, W.cmd 0x1003 0 [], (let s := (W.st 16 (W.cmd 0x1003 0 [])); s.wr (keyReg 0) 2), (let s := (W.st 16 (W.cmd
      0x1003 0 [])); s.wr (keyReg 0) 2), by decide +kernel⟩

theorem test_KeystoneOpcodes_keyUnlock_holds :
    ∃ (ring slot : Nat) (c : Cmd) (s0 s : State), (Admits (specOf opsKey 0x1004) ring slot c s0 s = true) :=
    ⟨0, 0, W.cmd 0x1004 0 [255, 255, 255, 255, 255, 255, 3, 0], (W.st 16 (W.cmd 0x1004 0 [255, 255, 255, 255, 255,
      255, 3, 0])), (W.st 16 (W.cmd 0x1004 0 [255, 255, 255, 255, 255, 255, 3, 0])), by decide +kernel⟩

theorem test_KeystoneOpcodes_keyLogRead_holds :
    ∃ (ring slot : Nat) (c : Cmd) (s0 s : State), (Admits (specOf opsKey 0x1005) ring slot c s0 s = true) :=
    ⟨0, 0, W.cmd 0x1005 0 [], (W.st 16 (W.cmd 0x1005 0 [])), (W.st 16 (W.cmd 0x1005 0 [])), by decide +kernel⟩

theorem test_KeystoneOpcodes_keyCounters_holds :
    ∃ (ring slot : Nat) (c : Cmd) (s0 s : State), (Admits (specOf opsKey 0x1006) ring slot c s0 s = true) :=
    ⟨0, 0, W.cmd 0x1006 0 [], (W.st 16 (W.cmd 0x1006 0 [])), (W.st 16 (W.cmd 0x1006 0 [])), by decide +kernel⟩

theorem test_HealthMonitorEvents_alarmRaise_holds :
    ∃ (l : List Nat) (set : Nat) (s : State), (clocked s = true) ∧ (l = (bitsOf set 15).filter (fun a => [3, 4, 5, 6,
      7, 9, 10].contains a || (a == 11 && decide (s.f (hltReg 0xC) 24 12 ≤ (s.rd (rg 4 4)).toNat)))) :=
    ⟨_, 0x7FFF, W.up, by decide, rfl⟩

theorem test_HealthMonitorEvents_debugAttach_holds :
    ∃ (s t : State), (clocked t = true) ∧ (t = { s with sys := { s.sys with debug := true } }) :=
    ⟨W.up, _, by decide, rfl⟩

theorem test_HealthMonitorEvents_alarmRaise_holds_2 :
    ∃ (a : Nat) (s : State), ((poweringOff s && s.key.offReaction) = false) :=
    ⟨3, W.up, by decide +kernel⟩

theorem test_HealthMonitorEvents_eccError_holds :
    ∃ (k : Nat) (x : Nat × Option Nat) (s : State), (clocked s = true) ∧ (k < 8) :=
    ⟨7, (0, none), W.up, by decide +kernel⟩

theorem test_HealthMonitorEvents_eccError_holds_2 :
    ∃ (k addr : Nat) (m : Option Nat) (s r t u v : State), (clocked s = true) ∧ (k < 8) ∧ (r = (if [0, 1, 2,
      5].contains k then
      { s with bad := s.bad ++ ((List.range 8).map (addr / 8 * 8 + ·)).filter (fun a => !s.bad.contains a) } else s))
      ∧ (t = ((m.elim r (fun m => r.reply m [0] true)).cntF (eccReg k) 31 16 1).withLife (fun l =>
      { l with ues := l.ues + 1 })) ∧ (u = if t.hlt.ueLogged then t else ((t.wr (hltReg 0x30) (BitVec.ofNat 32
      addr)).wr (hltReg 0x34) (BitVec.ofNat 32 (addr / 2 ^ 32 % 256 + k * 256 + 2 ^ 15))).withHlt (fun h =>
      { h with ueLogged := true })) ∧ (v = if k = 7 then ruleLost addr u else u) :=
    ⟨5, 0x20000000, some 0x10, W.up, _, _, _, _, by decide, by decide, rfl, rfl, rfl, rfl⟩

theorem test_HealthMonitorEvents_eccError_holds_3 :
    ∃ (k : Nat) (ue : Bool) (x : Nat × Option Nat) (s : State), (clocked s = false ∨ 8 ≤ k) :=
    ⟨8, true, (0, none), W.up, by decide +kernel⟩

theorem test_HealthMonitorEvents_healthMeasure_holds :
    ∃ (margin vdd rth worst : Nat) (temp : Int) (ratios : List (Nat × Nat)) (swing hot : Bool) (m : Nat × Nat) (s t u
      v : State), (clocked s = true) ∧ (worst = min margin (s.hlt.hourMargin.getD margin) ∧ hot = decide (840 ≤ temp))
      ∧ (t = ((((s.sf (hltReg 0x10) 15 0 (BitVec.ofInt 16 temp).toNat).sf (hltReg 0x14) 15 0 margin).sf (hltReg 0x14)
      31 16 worst).sf (hltReg 0x18) 23 8 vdd)) ∧ (u = t.withHlt (fun h =>
      { h with ratios := ratios.foldl (fun t x => tput 0 t x.1 x.2) h.ratios, hourMargin := some worst, hotSecs := if hot then (h.hotSecs + 1) % 3600 else h.hotSecs }))
      ∧ (m = ratioMax u) ∧ (v = u.withLife (fun l =>
      { l with ratioMax := m.1, ratioChan := m.2, rth := rth, swings := l.swings + b2n swing, hotHours := l.hotHours + b2n (hot && u.hlt.hotSecs == 0), lowMargin := min l.lowMargin margin, tiles := max l.tiles (u.rd (rg 4 4)).toNat }))
      :=
    ⟨30, 800, 1024, _, 1000, [(0, 1024)], true, _, _, W.up, _, _, _, by decide, ⟨rfl, rfl⟩, rfl, rfl, rfl, rfl⟩

theorem test_HealthMonitorEvents_hourlyEvaluation_holds :
    ∃ (s t u : State), (clocked s = true) ∧ (t = s.withLife (fun l => { l with hours := l.hours + 1 })) ∧ (u =
      saveLife (writeDerate (showLife (replan t)))) :=
    ⟨W.up, _, _, by decide, rfl, rfl⟩

theorem test_SystemAndHealthOpcodes_sysReset_holds :
    ∃ (ring slot : Nat) (c : Cmd) (s0 s : State), (Admits (specOf opsSys 0x0100) ring slot c s0 s = true) ∧ (c.p 32 1
      = 1 ∧ c.p 34 1 ≤ 1 ∧ c.zero 35 1 = true) :=
    ⟨0, 0, W.cmd 0x0100 0 [1, 0, 0, 0], (W.st 0 (W.cmd 0x0100 0 [1, 0, 0, 0])), (W.st 0 (W.cmd 0x0100 0 [1, 0, 0,
      0])), by decide +kernel⟩

theorem test_SystemAndHealthOpcodes_sysReset_holds_2 :
    ∃ (ring slot : Nat) (c : Cmd) (s0 s : State), (Admits (specOf opsSys 0x0100) ring slot c s0 s = true) ∧ (c.p 32 1
      = 2 ∧ c.p 34 1 = 0 ∧ c.zero 35 1 = true ∧ c.p 33 1 ≤ 18 ∧ blockResettable (c.p 33 1) = true) :=
    ⟨0, 0, W.cmd 0x0100 0 [2, 4, 0, 0], (W.st 0 (W.cmd 0x0100 0 [2, 4, 0, 0])), (W.st 0 (W.cmd 0x0100 0 [2, 4, 0,
      0])), by decide +kernel⟩

theorem test_SystemAndHealthOpcodes_sysReset_holds_3 :
    ∃ (ring slot : Nat) (c : Cmd) (s0 s : State) (t : State), (Admits (specOf opsSys 0x0100) ring slot c s0 s = true)
      ∧ (c.p 32 1 = 2 ∧ c.p 34 1 = 1 ∧ c.zero 35 1 = true ∧ c.p 33 1 ≤ 18 ∧ blockResettable (c.p 33 1) = true) ∧ (s.f
      (rg 0 0x24) 9 8 ≠ 1) ∧ (reloadGo (c.p 33 1) 0 (reloadList (c.p 33 1) s) (endBlockReset (c.p 33 1) s) = .ok t []
      0) :=
    ⟨0, 0, W.cmd 0x0100 0 [2, 4, 1, 0], (W.st 0 (W.cmd 0x0100 0 [2, 4, 1, 0])), (W.st 0 (W.cmd 0x0100 0 [2, 4, 1,
      0])), _, ⟨by decide +kernel, by decide +kernel, by decide +kernel, rfl⟩⟩

theorem test_SystemAndHealthOpcodes_sysReset_holds_4 :
    ∃ (ring slot : Nat) (c : Cmd) (s t : State), (s.up = true ∧ findCmd 0x100 ring slot s = none) ∧
      (s.mason.cmds.find? (fun c => c.ring == ring && c.slot == slot && c.opcode == 0x100 && c.running) = some c) ∧
      (s.mason.cmds.any (fun d => d.ring == imageRing) = false ∧ s.mason.image.1 = 0) ∧ ((s.sys.reload).map (fun x =>
      reloadGo x.1 x.2 ((reloadList x.1 s).drop x.2) s) = some (.ok t [] 0)) :=
    ⟨0, 0, W.reloading, W.reloadSt, _, by decide +kernel, by decide +kernel, by decide +kernel, rfl⟩

theorem test_SystemAndHealthOpcodes_sysFlashRead_holds :
    ∃ (ring slot : Nat) (c : Cmd) (s0 s : State), (Admits (specOf opsSys 0x0101) ring slot c s0 s = true) ∧ (1 ≤ c.p
      36 4 ∧ c.p 36 4 ≤ 224 ∧ spanOk c.inst (c.p 32 4) (c.p 36 4) = true ∧ c.inst ≠ 2 ∧ c.inst ≠ 3) ∧ (c.indirect =
      false) :=
    ⟨0, 0, W.cmd 0x0101 4 [0, 0, 0, 0, 2, 0, 0, 0], (W.st 0 (W.cmd 0x0101 4 [0, 0, 0, 0, 2, 0, 0, 0])), (W.st 0 (W.cmd
      0x0101 4 [0, 0, 0, 0, 2, 0, 0, 0])), by decide +kernel⟩

theorem test_SystemAndHealthOpcodes_sysFlashErase_holds :
    ∃ (ring slot : Nat) (c : Cmd) (s0 s : State), (Admits (specOf opsSys 0x0102) ring slot c s0 s = true) ∧ (c.inst ≠
      2 ∧ c.inst ≠ 3 ∧ c.p 32 4 % 65536 = 0 ∧ spanOk c.inst (c.p 32 4) (c.p 36 4 * 65536) = true ∧ s.sys.slot ≠ some
      c.inst) :=
    ⟨0, 0, W.cmd 0x0102 4 [0, 0, 0xDF, 0, 1, 0, 0, 0], (W.st 0 (W.cmd 0x0102 4 [0, 0, 0xDF, 0, 1, 0, 0, 0])), (W.st 0
      (W.cmd 0x0102 4 [0, 0, 0xDF, 0, 1, 0, 0, 0])), by decide +kernel⟩

theorem test_SystemAndHealthOpcodes_sysFlashWrite_holds :
    ∃ (ring slot : Nat) (c : Cmd) (s0 s : State), (Admits (specOf opsSys 0x0103) ring slot c s0 s = true) ∧ (c.inst ≠
      2 ∧ c.inst ≠ 3 ∧ c.p 32 4 % 256 = 0 ∧ spanOk c.inst (c.p 32 4) (c.payload.drop 4).length = true ∧ s.sys.slot ≠
      some c.inst) ∧ (∀ i, i < (c.payload.drop 4).length → flashByte s (areaBase c.inst + c.p 32 4 + i) &&&
      (c.payload.drop 4).getD i 0 = (c.payload.drop 4).getD i 0) :=
    ⟨0, 0, W.cmd 0x0103 4 [0, 1, 0, 0, 5, 6, 7, 8], (W.st 0 (W.cmd 0x0103 4 [0, 1, 0, 0, 5, 6, 7, 8])), (W.st 0 (W.cmd
      0x0103 4 [0, 1, 0, 0, 5, 6, 7, 8])), by decide +kernel⟩

theorem test_SystemAndHealthOpcodes_sysFlashWrite_holds_2 :
    ∃ (ring slot : Nat) (c : Cmd) (s0 s : State) (i : Nat), (Admits (specOf opsSys 0x0103) ring slot c s0 s = true) ∧
      (c.inst ≠ 2 ∧ c.inst ≠ 3 ∧ c.p 32 4 % 256 = 0 ∧ spanOk c.inst (c.p 32 4) (c.payload.drop 4).length = true ∧
      s.sys.slot ≠ some c.inst) ∧ ((List.range (c.payload.drop 4).length).find? (fun i => flashByte s (areaBase c.inst
      + c.p 32 4 + i) &&& (c.payload.drop 4).getD i 0 != (c.payload.drop 4).getD i 0) = some i) :=
    ⟨0, 0, W.cmd 0x0103 4 [0, 1, 0, 0, 5, 6, 7, 8], (let s := (W.st 0 (W.cmd 0x0103 4 [0, 1, 0, 0, 5, 6, 7, 8]));
      { s with sys := { s.sys with flash := [(areaBase 4 + 0x102, 5)] } }), (let s := (W.st 0 (W.cmd 0x0103 4 [0, 1,
      0, 0, 5, 6, 7, 8])); { s with sys := { s.sys with flash := [(areaBase 4 + 0x102, 5)] } }), 2, by decide +kernel⟩

theorem test_SystemAndHealthOpcodes_sysImageCheck_holds :
    ∃ (ring slot : Nat) (c : Cmd) (s0 s : State), (Admits (specOf opsSys 0x0104) ring slot c s0 s = true) :=
    ⟨0, 0, W.cmd 0x0104 1 [], W.st 0 (W.cmd 0x0104 1 []), W.st 0 (W.cmd 0x0104 1 []), by decide +kernel⟩

theorem test_SystemAndHealthOpcodes_hltStatus_holds :
    ∃ (ring slot : Nat) (c : Cmd) (s0 s : State), (Admits (specOf opsHlt 0x1200) ring slot c s0 s = true) :=
    ⟨0, 0, W.cmd 0x1200 0 [], (W.st 18 (W.cmd 0x1200 0 [])), (W.st 18 (W.cmd 0x1200 0 [])), by decide +kernel⟩

theorem test_SystemAndHealthOpcodes_hltSetCfg_holds :
    ∃ (ring slot : Nat) (c : Cmd) (s0 s : State), (Admits (specOf opsHlt 0x1201) ring slot c s0 s = true) ∧ (fld (c.w
      32) 31 25 = 0 ∧ hltCfgOk (c.w 32) = true ∧ fld (c.w 36) 31 30 = 0 ∧ reactFixed s (c.w 36) = none) :=
    ⟨0, 0, W.cmd 0x1201 0 [0x0A, 0, 0, 1, 0x80, 0x32, 0x18, 0x30], (W.st 18 (W.cmd 0x1201 0 [0x0A, 0, 0, 1, 0x80,
      0x32, 0x18, 0x30])), (W.st 18 (W.cmd 0x1201 0 [0x0A, 0, 0, 1, 0x80, 0x32, 0x18, 0x30])), by decide +kernel⟩

theorem test_SystemAndHealthOpcodes_hltEccRead_holds :
    ∃ (ring slot : Nat) (c : Cmd) (s0 s : State), (Admits (specOf opsHlt 0x1202) ring slot c s0 s = true) :=
    ⟨0, 0, W.cmd 0x1202 0 [], (W.st 18 (W.cmd 0x1202 0 [])), (W.st 18 (W.cmd 0x1202 0 [])), by decide +kernel⟩

theorem test_SystemAndHealthOpcodes_hltLifeRead_holds :
    ∃ (ring slot : Nat) (c : Cmd) (s0 s : State), (Admits (specOf opsHlt 0x1203) ring slot c s0 s = true) :=
    ⟨0, 0, W.cmd 0x1203 0 [], (W.st 18 (W.cmd 0x1203 0 [])), (W.st 18 (W.cmd 0x1203 0 [])), by decide +kernel⟩

theorem test_SystemAndHealthOpcodes_hltLifeSave_holds :
    ∃ (ring slot : Nat) (c : Cmd) (s0 s : State), (Admits (specOf opsHlt 0x1204) ring slot c s0 s = true) :=
    ⟨0, 0, W.cmd 0x1204 0 [], (W.st 18 (W.cmd 0x1204 0 [])), (W.st 18 (W.cmd 0x1204 0 [])), by decide +kernel⟩

theorem test_HostRequestsAndLink_pcieLinkUp_holds :
    ∃ (speed width : Nat) (s : State), (s.up = true) ∧ (s.hbr.linkUp = false ∧ speed ∈ [1, 2, 3, 4] ∧ width ∈ [1, 2,
      4]) :=
    ⟨4, 1, W.up, by decide +kernel⟩

theorem test_HostRequestsAndLink_pcieLinkReset_holds :
    ∃ (s : State), (s.up = true) ∧ (s.hbr.linkUp = true) :=
    ⟨W.link, by decide +kernel⟩

theorem test_HostRequestsAndLink_functionLevelReset_holds :
    ∃ (f : Nat) (s : State), (s.up = true) ∧ (f < 8 ∧ f ≠ 0 ∧ fnExists s f = true) :=
    ⟨7, W.link, by decide +kernel⟩

theorem test_HostRequestsAndLink_functionLevelReset_holds_2 :
    ∃ (s : State), (s.up = true) :=
    ⟨W.link, by decide +kernel⟩

theorem test_HostRequestsAndLink_pcieConfigWrite_holds :
    ∃ (f : Nat) (w : Nat × Word) (s : State), (s.up = true) ∧ (f < 8 ∧ fnExists s f = true ∧ s.hbr.linkUp = true) :=
    ⟨7, (4, 4), W.link, by decide +kernel⟩

theorem test_HostRequestsAndLink_pcieConfigWrite_holds_2 :
    ∃ (f off k : Nat) (v : Word) (s : State), (off = k * 4 ∧ off ≠ 0x68 ∧ off ≠ 0x104 ∧ off ≠ 0x44 ∧ f ≠ 0) :=
    ⟨7, 4, 1, 4, W.link, by decide +kernel⟩

theorem test_HostRequestsAndLink_grpModeWrite_holds :
    ∃ (f : Nat) (v : Word) (s : State), (s.up = true) ∧ (f < 8 ∧ fnExists s f = true ∧ grpModeOk v = true) :=
    ⟨7, 0xAA, W.link, by decide +kernel⟩

theorem test_HostRequestsAndLink_inboundRequest_holds :
    ∃ (f space off len tag : Nat) (wr : Bool) (data : List Byte) (r : InReq) (s : State), (s.up = true) ∧ (r = ⟨f,
      space, off, wr, data, len, tag, true⟩ ∧ InTakes s r = true) :=
    ⟨7, 1, 0, 4, 255, false, [], _, W.link, by decide, ⟨rfl, by decide +kernel⟩⟩

theorem test_HostRequestsAndLink_inboundRequest_holds_2 :
    ∃ (f off len tag : Nat) (data : List Byte) (r : InReq) (s : State), (s.up = true) ∧ (r = ⟨f, 0, off, false, data,
      len, tag, false⟩ ∧ InTakes s r = true) ∧ (off % 4 = 0 ∧ len % 4 = 0) :=
    ⟨7, 0xFFFC, 4, 255, [], _, W.link, by decide, ⟨rfl, by decide +kernel⟩, by decide⟩

theorem test_HostRequestsAndLink_inboundRequest_holds_3 :
    ∃ (f len tag : Nat) (v : Word) (r : InReq) (s : State), (s.up = true) ∧ (r = ⟨f, 0, 8, true, leBytes 4 v.toNat,
      len, tag, false⟩ ∧ InTakes s r = true) ∧ (1 ≤ v.toNat ∧ v.toNat ≤ 1000) :=
    ⟨7, 0, 0, 1000, _, W.link, by decide, ⟨rfl, by decide +kernel⟩, by decide⟩

theorem test_HostRequestsAndLink_inboundRequest_holds_4 :
    ∃ (f off len tag : Nat) (wr : Bool) (data : List Byte) (r : InReq) (s : State), (s.up = true) ∧ (r = ⟨f, 0, off,
      wr, data, len, tag, false⟩ ∧ InTakes s r = true) ∧ (off % 4 ≠ 0 ∨ r.size % 4 ≠ 0) :=
    ⟨7, 2, 4, 0, false, [], _, W.link, by decide, ⟨rfl, by decide +kernel⟩, by decide⟩

theorem test_HostRequestsAndLink_inboundRequest_holds_5 :
    ∃ (f off len tag : Nat) (wr : Bool) (data : List Byte) (r : InReq) (x : Nat) (s : State), (s.up = true) ∧ (r = ⟨f,
      1, off, wr, data, len, tag, false⟩ ∧ InTakes s r = true) ∧ (((List.range r.size).map (off + ·)).find? (fun a =>
      (s.xlate (0x18 + f) a wr).isNone) = some x) :=
    ⟨7, 0, 1, 0, false, [], _, 0, W.link, by decide, ⟨rfl, by decide +kernel⟩, by decide +kernel⟩

theorem test_HostRequestsAndLink_inboundRequest_holds_6 :
    ∃ (f off len tag : Nat) (wr : Bool) (data : List Byte) (r : InReq) (p : Nat) (s : State), (s.up = true) ∧ (r = ⟨f,
      1, off, wr, data, len, tag, false⟩ ∧ InTakes s r = true) ∧ (((List.range r.size).map (off + ·)).find? (fun a =>
      (s.xlate (0x18 + f) a wr).isNone) = none) ∧ (s.xlate (0x18 + f) off wr = some p ∧ (region p = .sram ∨ region p =
      .dram)) ∧ ((List.range r.size).any (fun i => !s.reaches (0x18 + f) ((s.xlate (0x18 + f) (off + i) wr).getD 0)
      wr) = false ∧ s.badByte (0x18 + f) off r.size wr = none) :=
    ⟨7, 0x10000000, 1, 0, false, [], _, _, W.linkBare, by decide, ⟨rfl, by decide +kernel⟩, by decide +kernel,
      ⟨rfl, by decide +kernel⟩, by decide +kernel⟩

theorem test_HostRequestsAndLink_inboundRequest_holds_7 :
    ∃ (f off len tag : Nat) (wr : Bool) (data : List Byte) (r : InReq) (p : Nat) (s : State), (s.up = true) ∧ (r = ⟨f,
      1, off, wr, data, len, tag, false⟩ ∧ InTakes s r = true) ∧ (((List.range r.size).map (off + ·)).find? (fun a =>
      (s.xlate (0x18 + f) a wr).isNone) = none) ∧ (s.xlate (0x18 + f) off wr = some p ∧ (region p = .sram ∨ region p =
      .dram)) ∧ ((List.range r.size).any (fun i => !s.reaches (0x18 + f) ((s.xlate (0x18 + f) (off + i) wr).getD 0)
      wr) = true) :=
    ⟨7, 0x10000000, 1, 0, false, [], _, _, W.linkBare.setWindow 0x1F 0 Window.none, by decide,
      ⟨rfl, by decide +kernel⟩, by decide +kernel, ⟨rfl, by decide +kernel⟩, by decide +kernel⟩

theorem test_HostRequestsAndLink_inboundRequest_holds_8 :
    ∃ (f off len tag : Nat) (wr : Bool) (data : List Byte) (r : InReq) (p x : Nat) (s : State), (s.up = true) ∧ (r =
      ⟨f, 1, off, wr, data, len, tag, false⟩ ∧ InTakes s r = true) ∧ (((List.range r.size).map (off + ·)).find? (fun a
      => (s.xlate (0x18 + f) a wr).isNone) = none) ∧ (s.xlate (0x18 + f) off wr = some p ∧ (region p = .sram ∨ region
      p = .dram)) ∧ ((List.range r.size).any (fun i => !s.reaches (0x18 + f) ((s.xlate (0x18 + f) (off + i) wr).getD
      0) wr) = false ∧ s.badByte (0x18 + f) off r.size wr = some x) :=
    ⟨7, 0x10000000, 1, 0, false, [], _, _, 0x10000000, W.linkBad, by decide, ⟨rfl, by decide +kernel⟩,
      by decide +kernel, ⟨rfl, by decide +kernel⟩, by decide +kernel⟩

theorem test_HostRequestsAndLink_inboundRequest_holds_9 :
    ∃ (f off len tag : Nat) (wr : Bool) (data : List Byte) (r : InReq) (p : Nat) (s : State), (s.up = true) ∧ (r = ⟨f,
      1, off, wr, data, len, tag, false⟩ ∧ InTakes s r = true) ∧ (((List.range r.size).map (off + ·)).find? (fun a =>
      (s.xlate (0x18 + f) a wr).isNone) = none) ∧ (s.xlate (0x18 + f) off wr = some p ∧ region p = .regs) ∧
      ((List.range r.size).all (fun i => s.inWindows (0x18 + f) (p + i) wr) = false) :=
    ⟨7, 0x40000000, 4, 0, false, [], _, _, W.linkBare, by decide, ⟨rfl, by decide +kernel⟩, by decide +kernel,
      ⟨rfl, by decide +kernel⟩, by decide +kernel⟩

theorem test_HostRequestsAndLink_inboundRequest_holds_10 :
    ∃ (r : InReq) (kind : Nat) (s t : State), (t = (hbrLog r.fn 0 kind r.wr r.off s).raise 17 3) :=
    ⟨⟨7, 1, 0, true, [], 0, 0, false⟩, 1, W.link, _, rfl⟩

theorem test_HostMessagesAndOutbound_outboundWrite_holds :
    ∃ (m a k : Nat) (data : List Byte) (s : State), (s.up = true ∧ Issues s m = true) ∧ (region a = .pcie ∧
      data.length ≠ 0 ∧ (List.range data.length).all (fun i => s.reaches m (a + i) true) = true) ∧ (outRegion s a =
      some k ∧ a + data.length ≤ regionBase s k + regionSize s k ∧ fnMasters s (regionFn s k) = true) :=
    ⟨0, 0x8000000000, 15, [1, 2, 3, 4], W.out, by decide +kernel⟩

theorem test_HostMessagesAndOutbound_outboundRead_holds :
    ∃ (m a k n : Nat) (s : State), (s.up = true ∧ Issues s m = true) ∧ (region a = .pcie ∧ n ≠ 0 ∧ (List.range n).all
      (fun i => s.reaches m (a + i) false) = true) ∧ (outRegion s a = some k ∧ a + n ≤ regionBase s k + regionSize s k
      ∧ fnMasters s (regionFn s k) = true) :=
    ⟨0, 0x8000000000, 15, 4, W.out, by decide +kernel⟩

theorem test_HostMessagesAndOutbound_outboundRead_holds_2 :
    ∃ (m a n : Nat) (s : State), (s.up = true ∧ Issues s m = true) ∧ (region a = .pcie ∧ n ≠ 0 ∧ (List.range n).all
      (fun i => s.reaches m (a + i) false) = true ∧ outRegion s a = none) :=
    ⟨0, 0x8000001000, 4, W.out, by decide +kernel⟩

theorem test_HostMessagesAndOutbound_completionArrival_holds :
    ∃ (tag : Nat) (data : List Byte) (r : OutReq) (s : State), (s.up = true) ∧ (s.hbr.requests.find? (fun r => r.tag
      == tag) = some r) :=
    ⟨255, [1, 2, 3, 4], W.req, W.inFlight, by decide +kernel⟩

theorem test_HostMessagesAndOutbound_completionArrival_holds_2 :
    ∃ (tag st : Nat) (data : List Byte) (r : OutReq) (s : State), (s.up = true) ∧ (s.hbr.requests.find? (fun r =>
      r.tag == tag) = some r ∧ st ≠ 0) :=
    ⟨255, 1, [], W.req, W.inFlight, by decide +kernel⟩

theorem test_HostMessagesAndOutbound_completionArrival_holds_3 :
    ∃ (tag st : Nat) (data : List Byte) (s : State), (s.up = true) ∧ (s.hbr.requests.find? (fun r => r.tag == tag) =
      none) :=
    ⟨254, 0, [], W.inFlight, by decide +kernel⟩

theorem test_HostMessagesAndOutbound_completionTimeout_holds :
    ∃ (tag : Nat) (r : OutReq) (s : State), (s.up = true) ∧ (s.hbr.requests.find? (fun r => r.tag == tag) = some r) :=
    ⟨255, W.req, W.inFlight, by decide +kernel⟩

theorem test_HostMessagesAndOutbound_msixSend_holds :
    ∃ (f v mark : Nat) (s t : State), (s.up = true) ∧ (s.hbr.msixQueue.find? (fun e => fnMasters s e.1 && (s.fn
      e.1).msixEn && earlierDone s e.2.2) = some (f, v, mark)) ∧ (t = s.withHbr (fun h =>
      { h with msixQueue := h.msixQueue.erase (f, v, mark) })) :=
    ⟨7, 31, 0, W.msix, _, by decide, by decide +kernel, rfl⟩

theorem test_HostMessagesAndOutbound_sidebandWrite_holds :
    ∃ (f g : Nat) (x : SbGroup) (s : State), (s.up = true) ∧ (f < 8 ∧ g < 4 ∧ grpMode s f g = 2) ∧ (x = sbGroup s f g
      ∧ x.want = true ∧ x.inFlight = false ∧ earlierDone s x.mark = true) :=
    ⟨7, 3, _, W.side { SbGroup.zero with want := true }, by decide, by decide +kernel, ⟨rfl, by decide +kernel⟩⟩

theorem test_HostMessagesAndOutbound_sidebandPoll_holds :
    ∃ (f g : Nat) (x : SbGroup) (s : State), (s.up = true) ∧ (f < 8 ∧ g < 4 ∧ grpMode s f g = 2) ∧ (x = sbGroup s f g
      ∧ x.retry = true ∧ x.polling = false) :=
    ⟨7, 3, _, W.side { SbGroup.zero with retry := true }, by decide, by decide +kernel, ⟨rfl, by decide +kernel⟩⟩

theorem test_HostMessagesAndOutbound_sidebandPoll_holds_2 :
    ∃ (f g : Nat) (x : SbGroup) (s : State), (s.up = true) ∧ (f < 8 ∧ g < 4 ∧ grpMode s f g = 2) ∧ (x = sbGroup s f g
      ∧ x.pend ≠ 0 ∧ x.ready = true ∧ x.retry = false ∧ x.polling = false) :=
    ⟨7, 3, _, W.side { SbGroup.zero with pend := 1, ready := true }, by decide, by decide +kernel,
      ⟨rfl, by decide +kernel⟩⟩

theorem test_HostMessagesAndOutbound_hbrErrPop_holds :
    ∃ (m : Nat) (s t : State), (MayRead s m 17 .none = true) ∧ (t = s.withHbr (fun h =>
      { h with log := h.log.tail, latch := tput LogEntry.none h.latch m (s.hbr.log.headD LogEntry.none) })) :=
    ⟨0x10, W.adm 17, _, by decide +kernel, rfl⟩

theorem test_HostBridgeOpcodes_hbrSetRegion_holds :
    ∃ (ring slot : Nat) (c : Cmd) (s0 s : State), (Admits (specOf opsHbr 0x1100) ring slot c s0 s = true) ∧ (c.p 32 8
      % 4096 = 0 ∧ 0x8000000000 ≤ c.p 32 8 ∧ c.p 40 4 ≠ 0 ∧ c.p 32 8 + c.p 40 4 * 4096 ≤ 0x10000000000 ∧ c.p 44 1 ≤ 7
      ∧ c.p 45 1 ≤ 1 ∧ c.zero 46 2 = true ∧ c.p 48 8 % 4096 = 0) ∧ (c.p 45 1 = 1 → overlaps s c.inst (c.p 32 8) (c.p
      40 4 * 4096) = none) ∧ (regionEn s c.inst = false) :=
    ⟨0, 0, W.cmd 0x1100 15 ([0, 0xF0, 0xFF, 0xFF, 0xFF, 0, 0, 0, 1, 0, 0, 0, 7, 1, 0, 0] ++ List.replicate 8 0), (W.st
      17 (W.cmd 0x1100 15 ([0, 0xF0, 0xFF, 0xFF, 0xFF, 0, 0, 0, 1, 0, 0, 0, 7, 1, 0, 0] ++ List.replicate 8 0))),
      (W.st 17 (W.cmd 0x1100 15 ([0, 0xF0, 0xFF, 0xFF, 0xFF, 0, 0, 0, 1, 0, 0, 0, 7, 1, 0, 0] ++ List.replicate 8
      0))), by decide +kernel⟩

theorem test_HostBridgeOpcodes_hbrSetRegion_holds_2 :
    ∃ (ring slot : Nat) (c : Cmd) (s0 s : State), (Admits (specOf opsHbr 0x1100) ring slot c s0 s = true) ∧ (c.p 32 8
      % 4096 = 0 ∧ 0x8000000000 ≤ c.p 32 8 ∧ c.p 40 4 ≠ 0 ∧ c.p 32 8 + c.p 40 4 * 4096 ≤ 0x10000000000 ∧ c.p 44 1 ≤ 7
      ∧ c.p 45 1 = 0 ∧ c.zero 46 2 = true ∧ c.p 48 8 % 4096 = 0) ∧ (regionEn s c.inst = true ∧ ((s.sb (regionReg
      c.inst 0x14) 0 false).hbr.requests ++ s.hbr.waiting).any (fun q => q.region == c.inst) = false) :=
    ⟨0, 0, W.cmd 0x1100 15 ([0, 0xF0, 0xFF, 0xFF, 0xFF, 0, 0, 0, 1, 0, 0, 0, 7, 0, 0, 0] ++ List.replicate 8 0), (let
      s := (W.st 17 (W.cmd 0x1100 15 ([0, 0xF0, 0xFF, 0xFF, 0xFF, 0, 0, 0, 1, 0, 0, 0, 7, 0, 0, 0] ++ List.replicate 8
      0))); s.wr (regionReg 15 0x14) 1), (let s := (W.st 17 (W.cmd 0x1100 15 ([0, 0xF0, 0xFF, 0xFF, 0xFF, 0, 0, 0, 1,
      0, 0, 0, 7, 0, 0, 0] ++ List.replicate 8 0))); s.wr (regionReg 15 0x14) 1), by decide +kernel⟩

theorem test_HostBridgeOpcodes_hbrSetRegion_holds_3 :
    ∃ (ring slot : Nat) (c : Cmd) (s0 s : State), (Admits (specOf opsHbr 0x1100) ring slot c s0 s = true) ∧ (c.p 32 8
      % 4096 = 0 ∧ 0x8000000000 ≤ c.p 32 8 ∧ c.p 40 4 ≠ 0 ∧ c.p 32 8 + c.p 40 4 * 4096 ≤ 0x10000000000 ∧ c.p 44 1 ≤ 7
      ∧ c.p 45 1 = 0 ∧ c.zero 46 2 = true ∧ c.p 48 8 % 4096 = 0) ∧ (regionEn s c.inst = true ∧ (s.hbr.requests ++
      s.hbr.waiting).any (fun q => q.region == c.inst) = true) :=
    ⟨0, 0, W.cmd 0x1100 15 ([0, 0xF0, 0xFF, 0xFF, 0xFF, 0, 0, 0, 1, 0, 0, 0, 7, 0, 0, 0] ++ List.replicate 8 0), (let
      s := (W.st 17 (W.cmd 0x1100 15 ([0, 0xF0, 0xFF, 0xFF, 0xFF, 0, 0, 0, 1, 0, 0, 0, 7, 0, 0, 0] ++ List.replicate 8
      0))); (s.wr (regionReg 15 0x14) 1).withHbr (fun h => { h with requests := [W.req] })), (let s := (W.st 17 (W.cmd
      0x1100 15 ([0, 0xF0, 0xFF, 0xFF, 0xFF, 0, 0, 0, 1, 0, 0, 0, 7, 0, 0, 0] ++ List.replicate 8 0))); (s.wr
      (regionReg 15 0x14) 1).withHbr (fun h => { h with requests := [W.req] })), by decide +kernel⟩

theorem test_HostBridgeOpcodes_hbrLinkStatus_holds :
    ∃ (ring slot : Nat) (c : Cmd) (s0 s : State), (Admits (specOf opsHbr 0x1101) ring slot c s0 s = true) :=
    ⟨0, 0, W.cmd 0x1101 0 [], (W.st 17 (W.cmd 0x1101 0 [])), (W.st 17 (W.cmd 0x1101 0 [])), by decide +kernel⟩

theorem test_HostBridgeOpcodes_hbrFnStatus_holds :
    ∃ (ring slot : Nat) (c : Cmd) (s0 s : State), (Admits (specOf opsHbr 0x1102) ring slot c s0 s = true) :=
    ⟨0, 0, W.cmd 0x1102 7 [], (W.st 17 (W.cmd 0x1102 7 [])), (W.st 17 (W.cmd 0x1102 7 [])), by decide +kernel⟩

theorem test_HostBridgeOpcodes_hbrLogRead_holds :
    ∃ (ring slot : Nat) (c : Cmd) (s0 s : State), (Admits (specOf opsHbr 0x1103) ring slot c s0 s = true) ∧
      (s.hbr.log.length ≤ 16) :=
    ⟨0, 0, W.cmd 0x1103 0 [], (W.st 17 (W.cmd 0x1103 0 [])), (W.st 17 (W.cmd 0x1103 0 [])), by decide +kernel⟩

theorem test_HostBridgeOpcodes_hbrCounters_holds :
    ∃ (ring slot : Nat) (c : Cmd) (s0 s : State), (Admits (specOf opsHbr 0x1104) ring slot c s0 s = true) :=
    ⟨0, 0, W.cmd 0x1104 0 [], (W.st 17 (W.cmd 0x1104 0 [])), (W.st 17 (W.cmd 0x1104 0 [])), by decide +kernel⟩

theorem test_HostBridgeOpcodes_hbrSetCfg_holds :
    ∃ (ring slot : Nat) (c : Cmd) (s0 s : State), (Admits (specOf opsHbr 0x1105) ring slot c s0 s = true) ∧ (fld (c.w
      32) 31 28 = 0 ∧ cplTimeoutOk (c.w 32) = true) :=
    ⟨0, 0, W.cmd 0x1105 0 [0x50, 0xC3, 0xFF, 0xF], (W.st 17 (W.cmd 0x1105 0 [0x50, 0xC3, 0xFF, 0xF])), (W.st 17 (W.cmd
      0x1105 0 [0x50, 0xC3, 0xFF, 0xF])), by decide +kernel⟩

theorem test_FabricWrites_x_holds :
    ∃ (d : RegDesc) (old v : Word) (i : Nat), (i < 32) ∧ ((d.rw ||| d.wo).testBit i = false ∨ (d.w1c.testBit i = false
      ∧ d.w1s.testBit i = false)) ∧ (d.w1c.testBit i = false ∨ d.w1s.testBit i = false) :=
    ⟨W.desc, 0, 1, 31, by decide⟩

theorem test_FabricWrites_registerWrite_holds :
    ∃ (m a b off : Nat) (v : Word) (d : RegDesc) (s : State), (MayWrite s m b (regMask b off) = true) ∧ (s.ownWalk m a
      true = .ok (rg b off) ∧ b ≤ 18 ∧ off < 0x100000 ∧ off % 4 = 0 ∧ (b == 13 && lscRefused m off) = false) ∧
      ((rowWrite m b off v s).isNone = true ∧ regDesc (rg b off) = some d ∧ regFitted s b off = true) ∧ (v &&& ~~~
      BitVec.ofNat 32 d.known = 0 ∧ (blockWrite m b off v s).isNone = true) :=
    ⟨0x10, rg 16 8, 16, 8, 0xFFFFFFFF, (regDesc (rg 16 8)).getD W.desc, W.adm 16, by decide +kernel⟩

theorem test_FabricWrites_registerWrite_holds_2 :
    ∃ (m a b off : Nat) (v : Word) (d : RegDesc) (s : State), (MayWrite s m b (regMask b off) = true) ∧ (s.ownWalk m a
      true = .ok (rg b off) ∧ b ≤ 18 ∧ off < 0x100000 ∧ off % 4 = 0 ∧ (b == 13 && lscRefused m off) = false) ∧
      ((rowWrite m b off v s).isNone = true ∧ regDesc (rg b off) = some d ∧ regFitted s b off = true) ∧ (v &&& ~~~
      BitVec.ofNat 32 d.known ≠ 0) :=
    ⟨0x10, rg 16 4, 16, 4, 0xFFFFFFFF, (regDesc (rg 16 4)).getD W.desc, W.adm 16, by decide +kernel⟩

theorem test_FabricWrites_registerWrite_holds_3 :
    ∃ (m a b off : Nat) (v : Word) (d : RegDesc) (s : State), (MayWrite s m b (regMask b off) = true) ∧ (s.ownWalk m a
      true = .ok (rg b off) ∧ b ≤ 18 ∧ off < 0x100000 ∧ off % 4 = 0 ∧ (b == 13 && lscRefused m off) = false) ∧
      ((rowWrite m b off v s).isNone = true ∧ regDesc (rg b off) = some d ∧ regFitted s b off = false) :=
    ⟨0x10, rg 9 0x1F08, 9, 0x1F08, 0xFFFFFFFF, (regDesc (rg 9 0x1F08)).getD W.desc, (W.adm 9).sf 0x40000004 7 4 0xC,
      by decide +kernel⟩

theorem test_FabricWrites_registerWrite_holds_4 :
    ∃ (m a off : Nat) (v : Word) (s : State), (s.up = true ∧ Issues s m = true) ∧ (s.ownWalk m a true = .ok (rg 13
      off) ∧ off < 0x100000 ∧ off % 4 = 0 ∧ lscRefused m off = true) :=
    ⟨0x10, rg 13 0x2800, 0x2800, 1, W.up, by decide, by decide +kernel⟩

theorem test_FabricWrites_registerWrite_holds_5 :
    ∃ (m a b off : Nat) (v : Word) (s : State), (s.up = true ∧ Issues s m = true ∧ reachesRegs s m = true) ∧
      (s.ownWalk m a true = .ok (rg b off) ∧ b ≤ 18 ∧ off < 0x100000 ∧ off % 4 = 0 ∧ (b == 13 && lscRefused m off) =
      false) ∧ ((rowWrite m b off v s).isNone = true ∧ regDesc (rg b off) = none) :=
    ⟨0x10, rg 18 0xFFFFC, 18, 0xFFFFC, 0, W.up, by decide, by decide, by decide +kernel⟩

theorem test_FabricWrites_registerWrite_holds_6 :
    ∃ (m a b off : Nat) (v : Word) (d : RegDesc) (s : State), (s.up = true ∧ Issues s m = true) ∧ (s.ownWalk m a true
      = .ok (rg b off) ∧ b ≤ 18 ∧ off < 0x100000 ∧ off % 4 = 0 ∧ (b == 13 && lscRefused m off) = false) ∧ ((rowWrite m
      b off v s).isNone = true ∧ regDesc (rg b off) = some d) :=
    ⟨0x10, rg 16 8, 16, 8, 0, (regDesc (rg 16 8)).getD W.desc, W.up, by decide, by decide, by decide +kernel⟩

theorem test_FabricWrites_registerWrite_holds_7 :
    ∃ (m a p : Nat) (data : List Byte) (s : State), (s.up = true ∧ Issues s m = true) ∧ (s.ownWalk m a true = .ok p ∧
      region p ≠ .regs ∧ region p ≠ .cluster ∧ region p ≠ .pcie) ∧ ((List.range data.length).all (fun i => s.reaches m
      (p + i) true) = true) :=
    ⟨0x10, 0x10000000, 0x10000000, [1, 2, 3], W.ring 0, by decide, ⟨rfl, by decide⟩, by decide +kernel⟩

theorem test_FabricWrites_registerWrite_holds_8 :
    ∃ (m a p : Nat) (data : List Byte) (s : State), (s.up = true ∧ Issues s m = true) ∧ (s.ownWalk m a true = .ok p ∧
      region p ≠ .regs ∧ region p ≠ .cluster ∧ region p ≠ .pcie) ∧ ((List.range data.length).any (fun i => !s.reaches
      m (p + i) true) = true) :=
    ⟨0x10, 0x10000000, 0x10000000, [1, 2, 3], W.up, by decide, ⟨rfl, by decide⟩, by decide +kernel⟩

theorem test_FabricWrites_registerWrite_holds_9 :
    ∃ (m a p : Nat) (data : List Byte) (s : State), (s.up = true ∧ Issues s m = true) ∧ (s.ownWalk m a true = .ok p)
      :=
    ⟨0x10, 0x50000000, 0x50000000, [0, 0, 0, 0], W.up, by decide, rfl⟩

theorem test_FabricWrites_registerWrite_holds_10 :
    ∃ (m a : Nat) (e : XFault) (data : List Byte) (s : State), (s.up = true ∧ Issues s m = true) ∧ (s.ownWalk m a true
      = .error e) :=
    ⟨0x1F, 0, { cause := 256, gpa := 0 }, [0, 0, 0, 0], W.up, by decide, by rfl⟩


end Sys2Proof.Tests
end

section
namespace Sys2Proof.Machine

/-! ### General opcodes (R84) -/

/-- A FENCE that may start has no earlier command of its master to wait for (R44). -/
theorem startable_fenceDone {c : Cmd} {s : State} (h : startable c s = true) (ho : c.opcode = 1) :
    fenceDone c s = true := by
  simp only [startable, freeToStart, Bool.and_eq_true, Bool.or_eq_true, ho, bne_self_eq_false, Bool.false_eq_true,
    false_or] at h
  exact h.1.2

/-- Where every FENCE of a ring and slot still waits, the row of FENCE finds no command. -/
theorem findCmd_fence_none {ring slot : Nat} {s : State}
    (h : ∀ c ∈ s.mason.cmds, c.ring = ring → c.slot = slot → c.opcode = 1 → fenceDone c s = false) :
    findCmd 1 ring slot s = none := by
  cases hf : findCmd 1 ring slot s with
  | none => rfl
  | some c =>
    obtain ⟨hm, hr, hs, ho, hst⟩ := findCmd_some hf
    exact absurd (startable_fenceDone hst ho) (by simp [h c hm hr hs ho])

/-- Settles O10: each of the four executions answers OK at once, and a FENCE that must wait is not started. -/
theorem generalOpcodes : Obligations.GeneralOpcodes := by
  refine ⟨fun ring slot c s0 s h => ?_, fun ring slot c s0 s h => ?_, fun ring slot s h => ?_,
    fun ring slot c s0 s h => ?_, fun ring slot c s0 s h => ?_⟩
  · exact opRow_ok h rfl (by decide) (Nat.zero_le _)
  · exact opRow_ok h rfl (by decide) (Nat.zero_le _)
  · exact opRow_idle _ _ (findCmd_fence_none h)
  · exact opRow_ok h rfl (by decide) (by simp)
  · exact opRow_ok h rfl (by decide) (by simp)

/-- Settles O4: after reset every sparse table is empty and the counter stands at zero. -/
theorem resetStateIsWellFormed : Obligations.ResetStateIsWellFormed := by
  show State.reset.wf = true
  simp [State.wf, wfParts, State.reset, Memory.wf, Flash.wf, SysState.reset, TimState.reset, nil_twf]

end Sys2Proof.Machine
end

section
namespace Sys2Proof.Machine

/-! ### The PCIe host's requests and the link (R523–R538) -/

/-- A row that acts while the die runs. -/
theorem act_up {f : State → State} {s : State} (h : s.up = true) : act f s = .next (f s) := if_pos h

/-- A configuration write of an aligned dword that resets nothing and is neither AER's status nor the power state: of a
virtual function, the writable bits alone change (R523). -/
theorem fnConfig_plain {f off k : Nat} (v : Word) (s : State) (hk : off = k * 4) (h0 : off ≠ 0x68) (h1 : off ≠ 0x104)
    (h2 : off ≠ 0x44) (hf : f ≠ 0) : fnConfig f (off, v) s = showHbr (msixUnmask f (s.setFn f
      ((s.fn f).setWord off (((s.fn f).word off &&& ~~~ cfgBits s f off) ||| (v &&& cfgBits s f off))))) := by
  have ha : off / 4 * 4 = off := by omega
  unfold fnConfig
  simp only [ha, h0, h1, h2, hf, false_and, if_false]

/-- A request of the host that the bridge takes goes to the page or the aperture that it names, unless it is poisoned. -/
theorem execInboundRequest_takes {f space off len tag : Nat} {wr poison : Bool} {data : List Byte} {s : State}
    (hu : s.up = true) (h : InTakes s ⟨f, space, off, wr, data, len, tag, poison⟩ = true) :
    execInboundRequest f space off wr data len tag poison s = .next (
      if poison then inFail ⟨f, space, off, wr, data, len, tag, poison⟩ 4 s
      else if space = 0 then inPage ⟨f, space, off, wr, data, len, tag, poison⟩ s
      else inAperture ⟨f, space, off, wr, data, len, tag, poison⟩ s) :=
  (act_up hu).trans (congrArg _ (inboundGo_takes h))

/-- A page request of whole aligned dwords. -/
theorem inPage_whole {r : InReq} {s : State} (ho : r.off % 4 = 0) (hs : r.size % 4 = 0) :
    inPage r s = if r.wr then pageWrites r.fn r.off r.data s else inComplete r.fn r.tag 0
      ((List.range (r.len / 4)).flatMap (fun i => leBytes 4 (fnPageRead s r.fn (r.off + 4 * i)).toNat)) s := by
  unfold inPage
  rw [if_neg (by omega)]

/-- One dword written in a function page. -/
theorem pageWrites_word (f o : Nat) (v : Word) (s : State) :
    pageWrites f o (leBytes 4 v.toNat) s = settle (0x18 + f) s (fnPageWrite f o v s) := by
  have h := leWord v
  simp only [leBytes] at h ⊢
  simp only [pageWrites, h]

/-- POLL_US takes a value in its range (R534). -/
theorem fnPageWrite_pollUs (f : Nat) {v : Word} (s : State) (h : 1 ≤ v.toNat ∧ v.toNat ≤ 1000) :
    fnPageWrite f 8 v s = .ok (s.setFn f { s.fn f with pollUs := v.toNat }) := by
  unfold fnPageWrite
  simp only [h, and_self, if_true]
  rfl

/-- An aperture request whose translation fails for some byte. -/
theorem inAperture_untranslated {r : InReq} {x : Nat} {s : State}
    (h : ((List.range r.size).map (r.off + ·)).find? (fun a => (s.xlate (0x18 + r.fn) a r.wr).isNone) = some x) :
    inAperture r s = inFail r 1 (s.devFault r.fn (0x18 + r.fn) x r.wr) := by
  delta inAperture
  simp only [h, Option.getD_some]

/-- An aperture request that leads to memory: refused outside the function's reach, failed on an uncorrectable error, else
done. -/
theorem inAperture_memory {r : InReq} {p : Nat} {s : State}
    (h : ((List.range r.size).map (r.off + ·)).find? (fun a => (s.xlate (0x18 + r.fn) a r.wr).isNone) = none)
    (hp : s.xlate (0x18 + r.fn) r.off r.wr = some p) (hg : region p = .sram ∨ region p = .dram) :
    inAperture r s =
      (if (List.range r.size).any (fun i =>
          !s.reaches (0x18 + r.fn) ((s.xlate (0x18 + r.fn) (r.off + i) r.wr).getD 0) r.wr) then
        inFail r 2 (s.busError (0x18 + r.fn) r.off r.wr)
      else if (s.badByte (0x18 + r.fn) r.off r.size r.wr).isSome then inFail r 2 s
      else if r.wr then s.dmaPut (0x18 + r.fn) r.off r.data
      else inComplete r.fn r.tag 0 (s.dmaBytes (0x18 + r.fn) r.off r.size) s) := by
  delta inAperture
  rcases hg with hg | hg
  all_goals simp only [h, hp, hg]

/-- An aperture request that leads to registers outside the function's windows. -/
theorem inAperture_regs_refused {r : InReq} {p : Nat} {s : State}
    (h : ((List.range r.size).map (r.off + ·)).find? (fun a => (s.xlate (0x18 + r.fn) a r.wr).isNone) = none)
    (hp : s.xlate (0x18 + r.fn) r.off r.wr = some p) (hg : region p = .regs)
    (hw : (List.range r.size).all (fun i => s.inWindows (0x18 + r.fn) (p + i) r.wr) = false) :
    inAperture r s = inFail r 2 (s.busError (0x18 + r.fn) r.off r.wr) := by
  delta inAperture
  simp only [h, hp, hg]
  unfold inRegs
  rw [if_pos (by simp [hw])]

/-- Settles O57: each request is followed through the checks of the bridge to the one answer that its form allows. -/
theorem hostRequestsAndLink : Obligations.HostRequestsAndLink := by
  refine ⟨?_, ?_, ?_, ?_, ?_, ?_, ?_, ?_, ?_, ?_, ?_, ?_, ?_, ?_, ?_, ?_, ?_⟩
  · rintro speed width s hu ⟨hl, hs, hw⟩
    have ok : linkOk speed width = true := by simp [linkOk, hs, hw]
    show execPcieLinkUp speed width s = _
    rw [execPcieLinkUp, act_up hu, if_neg (by simp [hl, ok])]
  · intro s hu hl
    show execPcieLinkReset s = _
    rw [execPcieLinkReset, act_up hu]
    simp only [hl, if_true]
  · rintro f s hu ⟨h8, hf, he⟩
    show execFunctionLevelReset f s = _
    rw [execFunctionLevelReset, act_up hu, if_neg (by simp [he]; omega), functionReset, if_neg hf]
  · intro s hu
    show execFunctionLevelReset 0 s = _
    rw [execFunctionLevelReset, act_up hu]
    rfl
  · rintro f w s hu h
    show execPcieConfigWrite f w s = _
    rw [execPcieConfigWrite, act_up hu, if_pos h]
  · rintro f off k v s ⟨hk, h0, h1, h2, hf⟩
    exact fnConfig_plain v s hk h0 h1 h2 hf
  · rintro f v s hu ⟨h8, he, hv⟩
    show execGrpModeWrite f v s = _
    rw [execGrpModeWrite, act_up hu, if_neg (by simp [he]; omega), grpModeWrite, if_pos hv, settle]
  · rintro f space off len tag wr data r s hu ⟨rfl, ht⟩
    exact execInboundRequest_takes hu ht
  · rintro f off len tag data r s hu ⟨rfl, ht⟩ ⟨ho, hl⟩
    refine (execInboundRequest_takes hu ht).trans (congrArg _ ?_)
    exact inPage_whole ho hl
  · rintro f len tag v r s hu ⟨rfl, ht⟩ hv
    refine (execInboundRequest_takes hu ht).trans (congrArg _ ?_)
    refine (inPage_whole (by simp) (by simp [InReq.size])).trans ?_
    exact (pageWrites_word f 8 v s).trans (by rw [fnPageWrite_pollUs f s hv]; rfl)
  · rintro f off len tag wr data r s hu ⟨rfl, ht⟩ hodd
    exact (execInboundRequest_takes hu ht).trans (congrArg _ (if_pos hodd))
  · rintro f off len tag wr data r x s hu ⟨rfl, ht⟩ hx
    exact (execInboundRequest_takes hu ht).trans (congrArg _ (inAperture_untranslated hx))
  · rintro f off len tag wr data r p s hu ⟨rfl, ht⟩ hn ⟨hp, hg⟩ ⟨hr, hb⟩
    refine (execInboundRequest_takes hu ht).trans (congrArg _ ((inAperture_memory hn hp hg).trans ?_))
    rw [if_neg (by simp [hr]), if_neg (by simp [hb])]
  · rintro f off len tag wr data r p s hu ⟨rfl, ht⟩ hn ⟨hp, hg⟩ hr
    refine (execInboundRequest_takes hu ht).trans (congrArg _ ((inAperture_memory hn hp hg).trans ?_))
    exact if_pos hr
  · rintro f off len tag wr data r p x s hu ⟨rfl, ht⟩ hn ⟨hp, hg⟩ ⟨hr, hb⟩
    refine (execInboundRequest_takes hu ht).trans (congrArg _ ((inAperture_memory hn hp hg).trans ?_))
    rw [if_neg (by simp [hr]), if_pos (by simp [hb])]
  · rintro f off len tag wr data r p s hu ⟨rfl, ht⟩ hn ⟨hp, hg⟩ hw
    exact (execInboundRequest_takes hu ht).trans (congrArg _ (inAperture_regs_refused hn hp hg hw))
  · rintro r kind s t rfl
    rfl

end Sys2Proof.Machine
end

section
namespace Sys2Proof.Machine

/-! ### Starts of the module (R16, R517, R543–R554) -/

/-- The state that the boot ROM finds: RESET_CAUSE is loaded from the record (R543). -/
def causeLoaded (s : State) : State := s.wr (rg 0 0x20) s.sys.cause

/-- With valid fuses the boot ROM tries the candidate slots in order (R550). -/
theorem boot_tries {s : State} (h : fusesOk (causeLoaded s) = true) :
    boot s = tryImages (bootSlots (causeLoaded s)) false
      (if (bootSlots (causeLoaded s)).isEmpty then 1 else 0) 0 (causeLoaded s) := by
  unfold causeLoaded at h ⊢
  unfold boot
  dsimp only
  rw [if_pos h]

/-- Without a candidate the boot ROM goes to recovery with reason 1 (R554). -/
theorem boot_none {s : State} (h : fusesOk (causeLoaded s) = true) (hl : bootSlots (causeLoaded s) = []) :
    boot s = recover .recovery 1 1 0 (causeLoaded s) := by
  rw [boot_tries h, hl, List.isEmpty_nil, if_pos rfl, tryImages.eq_def]

/-- A first candidate that passes every check is poured. -/
theorem boot_first {k : Nat} {r : List Nat} {s u : State} (h : fusesOk (causeLoaded s) = true)
    (hl : bootSlots (causeLoaded s) = k :: r) (hk : pourImage k (causeLoaded s) = .ok u) :
    boot s = poured k false 0 0 u := by
  rw [boot_tries h, hl, List.isEmpty_cons, if_neg Bool.false_ne_true, tryImages.eq_def]
  simp only [hk]

/-- After the first candidate failed, everything is reset again and the others are tried (R550 step 4). -/
theorem boot_falls {k : Nat} {r : List Nat} {x : PourStop} {s : State} (h : fusesOk (causeLoaded s) = true)
    (hl : bootSlots (causeLoaded s) = k :: r) (hk : pourImage k (causeLoaded s) = .error x) :
    boot s = tryImages r true x.reason x.sec ((resetAgain x.left).wr (rg 0 0x20) x.left.sys.cause) := by
  rw [boot_tries h, hl, tryImages.eq_def]
  simp only [hk]

/-- Where the only candidate fails, the boot ROM goes to recovery with the failed check. -/
theorem boot_only_fails {k : Nat} {x : PourStop} {s : State} (h : fusesOk (causeLoaded s) = true)
    (hl : bootSlots (causeLoaded s) = [k]) (hk : pourImage k (causeLoaded s) = .error x) :
    boot s = recover .recovery 1 x.reason x.sec ((resetAgain x.left).wr (rg 0 0x20) x.left.sys.cause) := by
  rw [boot_falls h hl hk, tryImages.eq_def]

/-- The second candidate is poured, with FELL_BACK and the first's failed check. -/
theorem boot_second {k l : Nat} {x : PourStop} {s v : State} (h : fusesOk (causeLoaded s) = true)
    (hl : bootSlots (causeLoaded s) = [k, l]) (hk : pourImage k (causeLoaded s) = .error x)
    (hv : pourImage l ((resetAgain x.left).wr (rg 0 0x20) x.left.sys.cause) = .ok v) :
    boot s = poured l true x.reason x.sec v := by
  rw [boot_falls h hl hk, tryImages.eq_def]
  simp only [hv]

/-- Where both candidates fail, the boot ROM goes to recovery with the second's failed check. -/
theorem boot_both_fail {k l : Nat} {x y : PourStop} {s : State} (h : fusesOk (causeLoaded s) = true)
    (hl : bootSlots (causeLoaded s) = [k, l]) (hk : pourImage k (causeLoaded s) = .error x)
    (hy : pourImage l ((resetAgain x.left).wr (rg 0 0x20) x.left.sys.cause) = .error y) :
    boot s = recover .recovery 1 y.reason y.sec ((resetAgain y.left).wr (rg 0 0x20) y.left.sys.cause) := by
  rw [boot_falls h hl hk, tryImages.eq_def]
  simp only [hy]
  rw [tryImages.eq_def]

/-- The start of the rails: a POWER_UP reset that keeps the record's alarm, then the boot ROM (R517). -/
theorem railsGood_boots {kind : Nat} {c : Word} {s : State} (hp : s.sys.phase = .rising)
    (hk : kind = if fld (s.rd (keyReg 0x18)) 5 0 = 0 then 1 else 2)
    (hc : c = causeWord kind (fld s.sys.cause 7 4) (fld s.sys.cause 12 8) 0) :
    exec .railsGood s = .next (setCause (causeWord kind 0 0 0) (boot (setCause c (clearLogic true s)))) := by
  subst hk hc
  exact if_neg (by simp [hp])

/-- The end of a MODULE reset: the power die takes the distributed time again, then the boot ROM (R494, R544). -/
theorem moduleResetRelease_boots {s : State} (hp : s.sys.phase = .inReset) :
    exec .moduleResetRelease s = .next (boot (lchReposition (s.withLch (fun l => { l with clock := none })))) :=
  congrArg _ (if_neg (by simp [hp]))

/-- LATE_LOAD where sections are to load and no command of the image runs: a failed command stops the loading, else it
goes on (R553). -/
theorem lateLoad_goes {k : Nat} {s : State} (hu : s.up = true) (hs : s.sys.slot = some k) (hf : s.f (rg 0 0x24) 9 8 = 1)
    (hc : s.mason.cmds.any (fun c => c.ring == imageRing) = false) :
    exec .lateLoad s = .next (if s.sys.late.isSome && s.mason.image.1 != 0 then lateFail (lateAt (s.sys.late.getD 0 - 1) s)
      else lateGo k (s.sys.late.getD 0) ((lateItems s k).drop (s.sys.late.getD 0)) s) := by
  show execLateLoad s = _
  rw [execLateLoad, act_up hu]
  simp only [hs, hf, hc, ne_eq, not_true_eq_false, Bool.false_eq_true, or_self, if_false]

/-- LATE_LOAD goes on with the acts that are left. -/
theorem lateLoad_continues {k : Nat} {s : State} (hu : s.up = true) (hs : s.sys.slot = some k)
    (hf : s.f (rg 0 0x24) 9 8 = 1) (hc : s.mason.cmds.any (fun c => c.ring == imageRing) = false)
    (hi : (s.sys.late.isSome && s.mason.image.1 != 0) = false) :
    exec .lateLoad s = .next (lateGo k (s.sys.late.getD 0) ((lateItems s k).drop (s.sys.late.getD 0)) s) := by
  rw [lateLoad_goes hu hs hf hc, if_neg (by simp [hi])]

/-- Settles O53: the boot ROM's walk over the candidate slots, the acts of pour completion, and one round of LATE_LOAD. -/
theorem startsOfTheModule : Obligations.StartsOfTheModule := by
  refine ⟨?_, ?_, ?_, ?_, ?_, ?_, ?_, ?_, ?_, ?_⟩
  · rintro kind c s t hp ⟨hk, hc⟩ rfl ⟨hf, hl⟩
    rw [railsGood_boots hp hk hc, boot_none hf hl, causeLoaded]
  · rintro k kind c s t hp ⟨hk, hc⟩ rfl ⟨hf, hl⟩
    rw [railsGood_boots hp hk hc]
    split
    · next h => rw [boot_first hf hl h]
    · next h => rw [boot_only_fails hf hl h]
  · rintro s t hp rfl ⟨hf, hl⟩
    rw [moduleResetRelease_boots hp, boot_none hf hl, causeLoaded]
  · rintro k s t hp rfl ⟨hf, hl⟩
    rw [moduleResetRelease_boots hp]
    split
    · next h => rw [boot_first hf hl h]
    · next h => rw [boot_only_fails hf hl h]
  · rintro k l x s t u hp rfl ⟨hf, hl⟩ ⟨hx, rfl⟩
    rw [moduleResetRelease_boots hp]
    split
    · next h => rw [boot_second hf hl hx h]
    · next h => rw [boot_both_fail hf hl hx h]
  · rintro k s t u v ⟨hp, hs⟩ rfl rfl rfl
    show execLadlePourComplete s = _
    simp only [execLadlePourComplete, hp, hs]
  · rintro k s hu ⟨hs, hf⟩ ⟨hc, hi⟩
    exact lateLoad_continues hu hs hf hc hi
  · rintro k i s hu ⟨hs, hf⟩ ⟨hc, hl, hi⟩
    rw [lateLoad_goes hu hs hf hc, if_pos (by simp [hl, hi]), hl]
    rfl
  · rintro k s hu ⟨hs, hf⟩ ⟨hc, hl, hn⟩
    rw [lateLoad_continues hu hs hf hc (by simp [hl]), hl, hn]
    rfl
  · rintro k s r hu ⟨hs, hf⟩ ⟨hc, hl, hn⟩
    rw [lateLoad_continues hu hs hf hc (by simp [hl]), hl, hn]
    rfl

end Sys2Proof.Machine
end

section
namespace Sys2Proof.Machine

/-! ### Writes on the fabric (R18–R23, R31–R37, R46) -/

/-- A write that a master issues at an address its own translation accepts is a write at the physical address. -/
theorem execRegisterWrite_ok {m a p : Nat} {data : List Byte} {s : State} (hu : s.up = true) (hi : Issues s m = true)
    (hw : s.ownWalk m a true = .ok p) : execRegisterWrite m a data s = .next (after (fabricWrite m p data s) s) := by
  unfold execRegisterWrite
  rw [fabricAct_go hu hi]
  simp only [hw]

/-- An address that the master's own translation refuses faults (R417, R422). -/
theorem execRegisterWrite_fault {m a : Nat} {e : XFault} {data : List Byte} {s : State} (hu : s.up = true)
    (hi : Issues s m = true) (hw : s.ownWalk m a true = .error e) :
    execRegisterWrite m a data s = .next (ownFault m a true e s) := by
  unfold execRegisterWrite
  rw [fabricAct_go hu hi]
  simp only [hw]

/-- A write of memory stores its bytes where the master reaches them all, and is refused where it does not (R31, R89). -/
theorem execRegisterWrite_memory {m a p : Nat} {data : List Byte} {s : State} (hu : s.up = true) (hi : Issues s m = true)
    (hw : s.ownWalk m a true = .ok p) (h0 : region p ≠ .regs) (h1 : region p ≠ .cluster) (h2 : region p ≠ .pcie) :
    execRegisterWrite m a data s = .next (if (List.range data.length).any (fun i => !s.reaches m (p + i) true)
      then s.refuse m p true else s.wrBytes p data) := by
  rw [execRegisterWrite_ok hu hi hw, fabricWrite_memory m data s h0 h1 h2, after_next]

/-- A write in the cluster control region acts there (R418). -/
theorem fabricWrite_cluster {a : Nat} (m : Nat) (data : List Byte) (s : State) (h : region a = .cluster) :
    fabricWrite m a data s = .next (clusterWrite m a data s) := by
  delta fabricWrite
  rw [h]

/-- A register of the other safety domain, or one of DCFG that the master's domain does not hold, refuses the write
(R36). -/
theorem regWrite_refused {m off : Nat} {v : Word} {s : State} (h : lscRefused m off = true) :
    regWrite m 13 off v s = .next (s.refuse m (rg 13 off) true) := by
  unfold regWrite
  rw [if_pos ⟨rfl, h⟩]

/-- A master whose reach has no register blocks gets an error response (R31, R34). -/
theorem withWrite_unreached {b off m : Nat} {k : Mask} {f : State → Ans} {s : State} (hu : s.up = true)
    (hi : Issues s m = true) (hr : reachesRegs s m = false) :
    withWrite b off k m f s = .next (s.refuse m (rg b off) true) := by
  unfold withWrite
  rw [fabricAct_go hu hi]
  simp [hr]

/-- A write without the right is dropped and counted (R46, R48). -/
theorem withWrite_denied {b off m : Nat} {k : Mask} {f : State → Ans} {s : State} (hu : s.up = true)
    (hi : Issues s m = true) (hr : reachesRegs s m = true) (ha : (s.aclEntry b m).allows 1 k = false) :
    withWrite b off k m f s = .next (s.drop m) := by
  unfold withWrite
  rw [fabricAct_go hu hi]
  simp [hr, ha]

/-- A write of a register whose resource is not fitted is ignored (R7). -/
theorem plainWrite_unfitted {m b off : Nat} {v : Word} {d : RegDesc} {s : State} (h : regFitted s b off = false) :
    plainWrite m b off v d s = .ok s := by
  simp [plainWrite, h]

/-- A write that sets a reserved bit is unpredictable in its block (R21). -/
theorem plainWrite_reserved {m b off : Nat} {v : Word} {d : RegDesc} {s : State} (h : regFitted s b off = true)
    (hv : v &&& ~~~ BitVec.ofNat 32 d.known ≠ 0) : plainWrite m b off v d s = unpredictable b := by
  unfold plainWrite
  rw [if_neg (by simp [h]), if_pos hv]

/-- A write of a register without an act of its block stores by the field types (R20). -/
theorem plainWrite_stores {m b off : Nat} {v : Word} {d : RegDesc} {s : State} (h : regFitted s b off = true)
    (hv : v &&& ~~~ BitVec.ofNat 32 d.known = 0) (hb : blockWrite m b off v s = none) :
    plainWrite m b off v d s = .ok (s.wr (rg b off) (writeByType d (s.rd (rg b off)) v)) := by
  unfold plainWrite
  rw [if_neg (by simp [h]), if_neg (by simp [hv]), hb]

/-- A permitted write of a register without a row is what its block or its field types make of it. -/
theorem execRegisterWrite_plain {m a b off : Nat} {v : Word} {d : RegDesc} {s : State}
    (hm : MayWrite s m b (regMask b off) = true) (hw : s.ownWalk m a true = .ok (rg b off)) (hb : b ≤ 18)
    (ho : off < 0x100000) (ha : off % 4 = 0) (hl : (b == 13 && lscRefused m off) = false)
    (hr : (rowWrite m b off v s).isNone = true) (hd : regDesc (rg b off) = some d) :
    execRegisterWrite m a (leBytes 4 v.toNat) s = .next (settle m s (plainWrite m b off v d s)) := by
  obtain ⟨hu, hi, -⟩ := mayWrite_parts hm
  refine execRegisterWrite_reg hu hi hw hb ho ha ?_
  rw [regWrite_plain hl (Option.isNone_iff_eq_none.mp hr) hd, withWrite_ok hm]

/-- A bit of a register after software's write, by the type of its field (R20). -/
theorem writeByType_bit (d : RegDesc) (old v : Word) {i : Nat} (hi : i < 32)
    (hk : (d.rw ||| d.wo).testBit i = false ∨ (d.w1c.testBit i = false ∧ d.w1s.testBit i = false))
    (hx : d.w1c.testBit i = false ∨ d.w1s.testBit i = false) :
    (writeByType d old v).getLsbD i =
      if (d.rw ||| d.wo).testBit i then v.getLsbD i
      else if d.w1c.testBit i then old.getLsbD i && !v.getLsbD i
      else if d.w1s.testBit i then old.getLsbD i || v.getLsbD i else old.getLsbD i := by
  simp only [writeByType, BitVec.getLsbD_or, BitVec.getLsbD_and, BitVec.getLsbD_not, BitVec.getLsbD_ofNat, hi, decide_true,
    Bool.true_and]
  generalize (d.rw ||| d.wo).testBit i = k at *
  generalize d.w1c.testBit i = c at *
  generalize d.w1s.testBit i = w at *
  generalize old.getLsbD i = o
  generalize v.getLsbD i = x
  rcases hk with rfl | ⟨rfl, rfl⟩
  · rcases hx with rfl | rfl
    · cases w <;> simp
    · cases c <;> simp
  · cases k <;> simp

/-- A register whose bits all stay reads as before a result in doubt. -/
theorem stray_rd_firm {c m b off : Nat} {s : State} (ho : off < 0x100000)
    (hf : firmBits s m b off = BitVec.allOnes 32) : (s.stray m c).rd (rg b off) = s.rd (rg b off) := by
  obtain ⟨-, -, -, h, -⟩ := stray_keeps c m s
  refine BitVec.eq_of_getLsbD_eq fun i hi => h b off i ho ?_
  rw [hf, BitVec.getLsbD_allOnes]
  exact decide_eq_true hi

/-- Settles O60: a write's outcome follows where its address leads, the register's row or description, and the rights of
its master. -/
theorem fabricWrites : Obligations.FabricWrites := by
  refine ⟨fun d old v i hi hk hx => writeByType_bit d old v hi hk hx, ?_, ?_, ?_, ?_, ?_, ?_, ?_, ?_, ?_, ?_, ?_⟩
  · rintro m a b off v d s hm ⟨hw, hb, ho, ha, hl⟩ ⟨hr, hd, hf⟩ ⟨hv, hn⟩
    refine (execRegisterWrite_plain hm hw hb ho ha hl hr hd).trans ?_
    rw [plainWrite_stores hf hv (Option.isNone_iff_eq_none.mp hn)]
    rfl
  · rintro m a b off v d s hm ⟨hw, hb, ho, ha, hl⟩ ⟨hr, hd, hf⟩ hv
    refine (execRegisterWrite_plain hm hw hb ho ha hl hr hd).trans ?_
    rw [plainWrite_reserved hf hv]
    rfl
  · rintro m a b off v d s hm ⟨hw, hb, ho, ha, hl⟩ ⟨hr, hd, hf⟩
    refine (execRegisterWrite_plain hm hw hb ho ha hl hr hd).trans ?_
    rw [plainWrite_unfitted hf]
    rfl
  · rintro m a off v s ⟨hu, hi⟩ ⟨hw, ho, ha, hl⟩
    exact execRegisterWrite_reg hu hi hw (by omega) ho ha (regWrite_refused hl)
  · rintro m a b off v s ⟨hu, hi, hr⟩ ⟨hw, hb, ho, ha, hl⟩ ⟨hn, hd⟩
    refine execRegisterWrite_reg hu hi hw hb ho ha ?_
    rw [regWrite_none hl (Option.isNone_iff_eq_none.mp hn) hd, if_pos hr]
  · rintro m a b off v d s ⟨hu, hi⟩ ⟨hw, hb, ho, ha, hl⟩ ⟨hn, hd⟩
    have hp := regWrite_plain hl (Option.isNone_iff_eq_none.mp hn) hd
    exact ⟨fun hr => execRegisterWrite_reg hu hi hw hb ho ha (hp.trans (withWrite_unreached hu hi hr)),
      fun hr hk => execRegisterWrite_reg hu hi hw hb ho ha (hp.trans (withWrite_denied hu hi hr hk))⟩
  · rintro m a p data s ⟨hu, hi⟩ ⟨hw, h0, h1, h2⟩ hr
    refine ⟨?_, fun x hx => State.rdB_wrBytes data s p x hx, fun i hi => State.rdB_wrBytes_at data s p i hi,
      fun r => State.rd_wrBytes data s p r⟩
    have hn : (List.range data.length).any (fun i => !s.reaches m (p + i) true) = false := by
      rw [List.any_eq_false]
      intro i hi
      simp [List.all_eq_true.mp hr i hi]
    exact (execRegisterWrite_memory hu hi hw h0 h1 h2).trans (by rw [hn]; rfl)
  · rintro m a p data s ⟨hu, hi⟩ ⟨hw, h0, h1, h2⟩ hr
    exact (execRegisterWrite_memory hu hi hw h0 h1 h2).trans (by rw [if_pos hr])
  · rintro m a p data s ⟨hu, hi⟩ hw
    refine ⟨fun hc => (execRegisterWrite_ok hu hi hw).trans ?_, fun hg hodd => (execRegisterWrite_ok hu hi hw).trans ?_⟩
    · rw [fabricWrite_cluster m data s hc, after_next]
    · rw [fabricWrite_regs m p data s hg, if_pos hodd, after_next]
  · rintro m a e data s ⟨hu, hi⟩ hw
    exact execRegisterWrite_fault hu hi hw
  · intro m c s
    obtain ⟨ha, hk, hd, -, hm⟩ := stray_keeps c m s
    exact ⟨ha, hk, stray_rd_firm (by decide) rfl, hd,
      fun d off ho hm hd2 => stray_rd_firm (by omega) (firmBits_lsc ho hd2 hm), hm⟩

end Sys2Proof.Machine
end

section

/-! ### The invariant: what it says, and how a step's parts keep it (R18, R20, R99)

A step is built from the model's named operations. Each of them has one lemma, in the model's own order: `<name>_wf` says
that it leaves a state with the invariant where it began with one, `<name>_keeps` that a row answers a next state and keeps
the invariant. A lemma's proof follows the definition: one of the rules below for each branch, fold or result, and the
lemma of each operation that the definition names. -/

namespace Sys2Proof.Machine

/-- The invariant reads registers, memory, flash and the nanosecond count alone: a change beside them keeps it. -/
theorem wf_same {s : State} {pe ba fr sy ma ac ti sw pr ru tm et cl gw cr qu ls or lc ke hb hl cp no}
    (h : s.wf = true) (hf : sy.flash = s.sys.flash := by rfl) (hn : ti.ns = s.tim.ns := by rfl) :
    (State.mk pe s.regs s.mem ba fr sy ma ac ti sw pr ru tm et cl gw cr qu ls or lc ke hb hl cp no).wf = true := by
  simp only [State.wf, hf, hn] at h ⊢
  exact h

/-- The four parts of the invariant. -/
theorem wf_iff {s : State} : s.wf = true ↔
    twf regReset s.regs = true ∧ Memory.wf s.mem = true ∧ Flash.wf s.sys.flash = true ∧ s.tim.ns < 1000000000 := by
  simp [State.wf, wfParts, and_assoc]

/-- A state whose four parts have their form, whatever else it holds. -/
theorem mk_wf {pe re me ba fr sy ma ac ti sw pr ru tm et cl gw cr qu ls or lc ke hb hl cp no}
    (hr : twf regReset re = true) (hm : Memory.wf me = true) (hf : Flash.wf sy.flash = true) (hn : ti.ns < 1000000000) :
    (State.mk pe re me ba fr sy ma ac ti sw pr ru tm et cl gw cr qu ls or lc ke hb hl cp no).wf = true :=
  wf_iff.2 ⟨hr, hm, hf, hn⟩

/-- Memory changed, with what the application cluster holds. -/
theorem withMem_wf {s : State} {m : Tab Byte} {x : CpuState} (h : s.wf = true)
    (hm : Memory.wf s.mem = true → Memory.wf m = true) : ({ s with mem := m, cpu := x } : State).wf = true := by
  obtain ⟨hr, hs, hf, hn⟩ := wf_iff.1 h
  exact mk_wf hr (hm hs) hf hn

/-- A step that keeps the invariant: it answers a next state, which has the invariant where the state before had it. -/
def Keeps (s : State) (o : Out) : Prop := ∃ t, o = .next t ∧ (s.wf = true → t.wf = true)

/-- What an act of a master answers is a state with the invariant, or a block in doubt. -/
def Ans.wf : Ans → Prop
  | .ok t => t.wf = true
  | .error _ => True

/-- The same where a block may have no act of its own. -/
def OptAns.wf : Option Ans → Prop
  | some a => Ans.wf a
  | none => True

/-- Every state that a command's execution answers has the invariant. -/
def CmdOut.wf : CmdOut → Prop
  | .ok t _ _ => t.wf = true
  | .fail _ _ _ _ => True
  | .part t _ _ _ _ => t.wf = true
  | .wait t => t.wf = true

/-- A row of a block, where it has one, keeps the invariant. -/
def RowKeeps (s : State) : Option Out → Prop
  | some o => Keeps s o
  | none => True

/-! ### Branches, runs and shared parts -/

theorem ite_wf {c : Prop} [Decidable c] {a b : State} (ha : a.wf = true) (hb : b.wf = true) :
    (if c then a else b).wf = true :=
  iteInduction (motive := fun t : State => t.wf = true) (fun _ => ha) (fun _ => hb)

/-- A change made under a condition. -/
theorem when_wf {c : Prop} [Decidable c] {a s : State} (ha : s.wf = true → a.wf = true) (h : s.wf = true) :
    (if c then a else s).wf = true := ite_wf (ha h) h

/-- A change made unless a condition holds. -/
theorem unless_wf {c : Prop} [Decidable c] {a s : State} (ha : s.wf = true → a.wf = true) (h : s.wf = true) :
    (if c then s else a).wf = true := ite_wf h (ha h)

theorem ite_fst {α : Type} {c : Prop} [Decidable c] {a b : State × α} (ha : a.1.wf = true) (hb : b.1.wf = true) :
    (if c then a else b).1.wf = true :=
  iteInduction (motive := fun x : State × α => x.1.wf = true) (fun _ => ha) (fun _ => hb)

theorem ite_snd {α : Type} {c : Prop} [Decidable c] {a b : α × State} (ha : a.2.wf = true) (hb : b.2.wf = true) :
    (if c then a else b).2.wf = true :=
  iteInduction (motive := fun x : α × State => x.2.wf = true) (fun _ => ha) (fun _ => hb)

theorem ite_ans {c : Prop} [Decidable c] {a b : Ans} (ha : Ans.wf a) (hb : Ans.wf b) :
    Ans.wf (if c then a else b) :=
  iteInduction (motive := Ans.wf) (fun _ => ha) (fun _ => hb)

theorem ite_optAns {c : Prop} [Decidable c] {a b : Option Ans} (ha : OptAns.wf a) (hb : OptAns.wf b) :
    OptAns.wf (if c then a else b) :=
  iteInduction (motive := OptAns.wf) (fun _ => ha) (fun _ => hb)

theorem ite_cmd {c : Prop} [Decidable c] {a b : CmdOut} (ha : CmdOut.wf a) (hb : CmdOut.wf b) :
    CmdOut.wf (if c then a else b) :=
  iteInduction (motive := CmdOut.wf) (fun _ => ha) (fun _ => hb)

theorem ite_keeps {c : Prop} [Decidable c] {s : State} {a b : Out} (ha : Keeps s a) (hb : Keeps s b) :
    Keeps s (if c then a else b) :=
  iteInduction (motive := Keeps s) (fun _ => ha) (fun _ => hb)

theorem ite_row {c : Prop} [Decidable c] {s : State} {a b : Option Out} (ha : RowKeeps s a) (hb : RowKeeps s b) :
    RowKeeps s (if c then a else b) :=
  iteInduction (motive := RowKeeps s) (fun _ => ha) (fun _ => hb)

/-- A check that fails leaves no state. -/
theorem guard_wf {c : Prop} [Decidable c] {a b : CmdOut} (hb : CmdOut.wf b) (ha : CmdOut.wf a := by exact trivial) :
    CmdOut.wf (if c then a else b) := ite_cmd ha hb

/-- The state that stands last in a result of three. -/
theorem snd_snd_wf {α β : Type} {a : α} {b : β} {t : State} (h : t.wf = true) : (a, b, t).2.2.wf = true := h

/-- A state that the next one is built from more than once. -/
theorem share {t : State} {p : Prop} (k : t.wf = true → p) (h : t.wf = true) : p := k h

/-- A fold keeps the invariant where each of its rounds does. -/
theorem foldl_wf {α : Type} {f : State → α → State} {l : List α} {s : State}
    (hf : ∀ {t : State} {x : α}, t.wf = true → (f t x).wf = true) (h : s.wf = true) : (l.foldl f s).wf = true := by
  induction l generalizing s with
  | nil => exact h
  | cons x r ih => exact ih (hf h)

/-- The same where the fold gathers a result beside the state. -/
theorem foldl_snd_wf {α β : Type} {f : β × State → α → β × State} {l : List α} {x : β × State}
    (hf : ∀ {y : β × State} {a : α}, y.2.wf = true → (f y a).2.wf = true) (h : x.2.wf = true) :
    (l.foldl f x).2.wf = true := by
  induction l generalizing x with
  | nil => exact h
  | cons a r ih => exact ih (hf h)

theorem next_keeps {s t : State} (h : s.wf = true → t.wf = true) : Keeps s (.next t) := ⟨t, rfl, h⟩

/-- An act on a state made ready before it. -/
theorem Keeps.of_same {s t : State} {o : Out} (h : s.wf = true → t.wf = true) (ho : Keeps t o) : Keeps s o := by
  obtain ⟨u, rfl, hu⟩ := ho
  exact next_keeps fun hs => hu (h hs)

/-- The state that a step leaves has the invariant. -/
theorem after_wf {o : Out} {s : State} (ho : Keeps s o) (h : s.wf = true) : (after o s).wf = true := by
  obtain ⟨t, rfl, ht⟩ := ho
  exact ht h

/-! ### Where the four parts change -/

theorem wr_wf {s : State} {a : Nat} {v : Word} (h : s.wf = true) : (s.wr a v).wf = true := State.wr_wf s a v h

theorem wrB_wf {s : State} {a : Nat} {b : Byte} (h : s.wf = true) : (s.wrB a b).wf = true := State.wrB_wf s a b h

theorem wrBytes_wf {s : State} {a : Nat} {l : List Byte} (h : s.wf = true) : (s.wrBytes a l).wf = true :=
  State.wrBytes_wf l s a h

/-- Registers of a set are reset. -/
theorem dropRegs_wf {s : State} {p : Nat → Bool} (h : s.wf = true) :
    ({ s with regs := tdrop p s.regs } : State).wf = true := by
  obtain ⟨hr, hm, hf, hn⟩ := wf_iff.1 h
  exact mk_wf (tdrop_twf regReset _ p hr) hm hf hn

/-- Flash changed. -/
theorem withFlash_wf {s : State} {t : Tab Byte} (h : s.wf = true)
    (ht : Flash.wf s.sys.flash = true → Flash.wf t = true) :
    ({ s with sys := { s.sys with flash := t } } : State).wf = true := by
  obtain ⟨hr, hm, hf, hn⟩ := wf_iff.1 h
  exact mk_wf hr hm (ht hf) hn

/-- Bytes written to flash keep its canonical form. -/
theorem flashPut_flash {a : Nat} {l : List Byte} {t : Tab Byte} (h : Flash.wf t = true) :
    Flash.wf (flashPut a l t) = true := by
  induction l generalizing a t with
  | nil => exact h
  | cons x r ih => exact ih (tput_twf (fun _ => 0xFF) t a x h)

/-- A run of bytes put into memory keeps its canonical form. -/
theorem foldl_mem {k : Nat → Nat} {v : Nat → Byte} {l : List Nat} {m : Tab Byte} (h : Memory.wf m = true) :
    Memory.wf (l.foldl (fun m i => tput 0 m (k i) (v i)) m) = true := by
  induction l generalizing m with
  | nil => exact h
  | cons x r ih => exact ih (tput_twf (fun _ => 0) m (k x) (v x) h)

/-- A fault that the IOMMU records keeps the canonical form of memory. -/
theorem ioFault_mem {d a : Nat} {wr : Bool} {e : XFault} {m : Tab Byte} {t : Tab Nat} (h : Memory.wf m = true) :
    Memory.wf (ioFault d a wr e m t).1 = true := by
  unfold ioFault
  dsimp only
  split
  · exact h
  split
  · exact h
  split
  · exact h
  · exact foldl_mem h

/-- A command of the IOMMU's queue keeps the canonical form of memory. -/
theorem ioCommand_mem {w0 w1 : Nat} {m : Tab Byte} {t : Tab Nat} {x : Tab Byte × Tab Nat} (h : Memory.wf m = true)
    (hx : ioCommand w0 w1 m t = .ok x) : Memory.wf x.1 = true := by
  unfold ioCommand at hx
  split at hx
  · cases hx
    exact h
  · cases hx
    exact h
  · dsimp only at hx
    split at hx
    · cases hx
    · cases hx
      dsimp only
      split
      · exact foldl_mem h
      · exact h
  · cases hx
    exact h
  · cases hx

theorem ioQueue_mem {fuel : Nat} {m : Tab Byte} {t : Tab Nat} (h : Memory.wf m = true) :
    Memory.wf (ioQueue fuel m t).1 = true := by
  induction fuel generalizing m t with
  | zero => exact h
  | succ fuel ih =>
    unfold ioQueue
    dsimp only
    split
    · exact h
    split
    · exact h
    split
    case h_1 => exact h
    case h_2 x hx => exact ih (ioCommand_mem h hx)

theorem ioWrite_mem {off v : Nat} {m : Tab Byte} {t : Tab Nat} (h : Memory.wf m = true) :
    Memory.wf (ioWrite off v m t).1 = true := by
  unfold ioWrite
  dsimp only
  split
  case h_3 => exact ioQueue_mem h
  case h_6 => exact ioQueue_mem h
  all_goals exact h

end Sys2Proof.Machine
end

section

namespace Sys2Proof.Machine

/- One proof after another: in parallel, the many short ones below need more threads than the memory limit of the check
allows. -/
set_option Elab.async false

/-! ### The named operations every meaning is built from -/

theorem sf_wf {s : State} {a hi lo n : Nat} (h : s.wf = true) : (State.sf s a hi lo n).wf = true :=
  wr_wf h

theorem sb_wf {s : State} {a i : Nat} {v : Bool} (h : s.wf = true) : (State.sb s a i v).wf = true :=
  wr_wf h

theorem cnt_wf {s : State} {a n : Nat} (h : s.wf = true) : (State.cnt s a n).wf = true :=
  wr_wf h

theorem cntF_wf {s : State} {a hi lo n : Nat} (h : s.wf = true) : (State.cntF s a hi lo n).wf = true :=
  sf_wf h

theorem rdClear_wf {s : State} {a : Nat} (h : s.wf = true) : (State.rdClear s a).2.wf = true := by
  unfold State.rdClear
  dsimp only
  split
  · exact wr_wf h
  · exact h

theorem raise_wf {s : State} {b i : Nat} (h : s.wf = true) : (State.raise s b i).wf = true := by
  unfold State.raise
  split
  · exact sb_wf h
  · exact h

theorem State.free_wf {s : State} (h : s.wf = true) : (State.free s).2.wf = true :=
  wf_same h

theorem outGo_wf {s : State} {wr : Bool} {cells : List (Nat × Nat × Byte)} (h : s.wf = true) :
    (State.outGo s wr cells).wf = true := by
  unfold State.outGo
  split
  · exact h
  · exact cnt_wf (wf_same h)

theorem putCells_wf {s : State} {l : List (Nat × Byte)} (h : s.wf = true) : (State.putCells s l).wf = true := by
  induction l generalizing s with
  | nil => exact h
  | cons c r ih => exact ih (unless_wf wrB_wf h)

theorem putAll_wf {s : State} {cs : List (Nat × Byte)} (h : s.wf = true) : (State.putAll s cs).wf = true :=
  outGo_wf (putCells_wf h)

theorem readOut_wf {s : State} {ps : List Nat} (h : s.wf = true) : (State.readOut s ps).wf = true :=
  outGo_wf h

theorem dmaPut_wf {s : State} {m a : Nat} {data : List Byte} (h : s.wf = true) :
    (State.dmaPut s m a data).wf = true :=
  putAll_wf h

theorem dmaRead_wf {s : State} {m a n : Nat} (h : s.wf = true) : (State.dmaRead s m a n).wf = true :=
  readOut_wf h

theorem logPush_wf {cap info : Nat} {log : List LogEntry} {e : LogEntry} {s : State} (h : s.wf = true) :
    (logPush cap info log e s).2.wf = true := by
  unfold logPush
  split
  · exact sf_wf h
  · exact cntF_wf h

theorem busError_wf {s : State} {m a : Nat} {wr : Bool} (h : s.wf = true) : (State.busError s m a wr).wf = true :=
  raise_wf (wf_same (logPush_wf h))

theorem reply_wf {s : State} {m : Nat} {ws : List Word} {err : Bool} (h : s.wf = true) :
    (State.reply s m ws err).wf = true :=
  wf_same h

theorem refuse_wf {s : State} {m a : Nat} {wr : Bool} (h : s.wf = true) : (State.refuse s m a wr).wf = true :=
  reply_wf (busError_wf h)

theorem drop_wf {s : State} {m : Nat} (h : s.wf = true) : (State.drop s m).wf = true :=
  wf_same h

theorem refuseRead_wf {s : State} {b m : Nat} (h : s.wf = true) : (State.refuseRead s b m).wf = true :=
  wf_same h

theorem setFn_wf {s : State} {f : Nat} {x : Fn} (h : s.wf = true) : (State.setFn s f x).wf = true :=
  wf_same h

theorem msixAsk_wf {s : State} {f v : Nat} (h : s.wf = true) : (State.msixAsk s f v).wf = true :=
  wf_same h

theorem fnEvent_wf {s : State} {f src : Nat} (h : s.wf = true) : (State.fnEvent s f src).wf = true :=
  when_wf msixAsk_wf (setFn_wf h)

theorem hbrLog_wf {f initiator kind : Nat} {wr : Bool} {a : Nat} {s : State} (h : s.wf = true) :
    (hbrLog f initiator kind wr a s).wf = true :=
  when_wf fnEvent_wf (wf_same (logPush_wf h))

theorem outFault_wf {s : State} {m p : Nat} {wr : Bool} (h : s.wf = true) : (State.outFault s m p wr).wf = true := by
  refine raise_wf (cnt_wf (hbrLog_wf ?_))
  split
  · exact h
  · exact ite_snd (State.free_wf h) h

theorem physFault_wf {s : State} {m a p : Nat} {wr : Bool} (h : s.wf = true) :
    (State.physFault s m a p wr).wf = true :=
  ite_wf (ite_wf (outFault_wf h) h) (busError_wf h)

theorem devFault_wf {s : State} {d m a : Nat} {wr : Bool} (h : s.wf = true) :
    (State.devFault s d m a wr).wf = true := by
  unfold State.devFault
  split
  · exact physFault_wf h
  · exact busError_wf (ite_wf h (withMem_wf h ioFault_mem))

theorem accessFault_wf {s : State} {m a : Nat} {wr : Bool} (h : s.wf = true) :
    (State.accessFault s m a wr).wf = true := by
  unfold State.accessFault
  split
  · exact devFault_wf h
  · exact physFault_wf h

theorem withCpu_wf {s : State} {f : CpuState → CpuState} (h : s.wf = true) : (State.withCpu s f).wf = true :=
  wf_same h

theorem pulse_wf {s : State} {n : Nat} (h : s.wf = true) : (State.pulse s n).wf = true :=
  withCpu_wf h

theorem notify_wf {s : State} {owner kind idx : Nat} (h : s.wf = true) :
    (State.notify s owner kind idx).wf = true := by
  unfold State.notify
  split
  · exact sb_wf h
  · exact ite_wf (fnEvent_wf h) (ite_wf (pulse_wf (wf_same h)) h)

/-! ### Blocks in doubt -/

theorem strayBits_wf {s : State} {a : Nat} {k v : Word} {d : Option RegDesc} (h : s.wf = true) :
    (strayBits s a k v d).wf = true := by
  unfold strayBits
  split
  · exact wr_wf h
  · exact h

theorem strayReg_wf {m c : Nat} {s : State} {e : Nat × Word} (h : s.wf = true) : (strayReg m c s e).wf = true :=
  ite_wf h (strayBits_wf h)

theorem strayRings_wf {p : Nat → Bool} {m n : Nat} {s : State} (h : s.wf = true) : (strayRings p m n s).wf = true :=
  wf_same h

theorem strayPage_wf {f : Nat} {s : State} (h : s.wf = true) : (strayPage f s).wf = true :=
  setFn_wf h

theorem strayJobs_wf {p : Nat → Bool} {n : Nat} {s : State} (h : s.wf = true) : (strayJobs p n s).wf = true :=
  wf_same h

/-- What a block in doubt holds: the nanoseconds stay in their range, all else is outside the invariant. -/
theorem strayBlock_wf {m c : Nat} {s : State} (h : s.wf = true) : (strayBlock m c s).wf = true := by
  have hns : ((Config.anyTim s.fresh).ns % 1000000000) < 1000000000 := Nat.mod_lt _ (by decide)
  unfold strayBlock
  dsimp only
  split
  case h_3 =>
    obtain ⟨hr, hm, hf, -⟩ := wf_iff.1 h
    exact wf_iff.2 ⟨hr, hm, hf, hns⟩
  case h_2 => exact strayRings_wf h
  case h_12 =>
    unfold strayJobs
    exact wf_same h
  case h_13 =>
    split
    · exact wf_same h
    · exact h
  case h_19 => exact ite_wf (strayPage_wf h) (ite_wf (strayRings_wf h) (ite_wf (strayJobs_wf h) h))
  all_goals exact wf_same h

theorem strayByte_wf {m : Nat} {s : State} {e : Nat × Byte} (h : s.wf = true) : (strayByte m s e).wf = true :=
  ite_wf (wrB_wf h) h

theorem unsettle_wf {c m : Nat} {s : State} (h : s.wf = true) : (unsettle c m s).wf = true :=
  wf_same (foldl_wf strayByte_wf (strayBlock_wf (foldl_wf strayReg_wf h)))

theorem stray_wf {s : State} {m c : Nat} (h : s.wf = true) : (State.stray s m c).wf = true :=
  unsettle_wf (wf_same h)

theorem settled_wf {s : State} {b : Nat} (h : s.wf = true) : (State.settled s b).wf = true :=
  wf_same h

theorem settledFn_wf {s : State} {f : Nat} (h : s.wf = true) : (State.settledFn s f).wf = true :=
  wf_same h

theorem unsettleAll_wf {s : State} (h : s.wf = true) : (unsettleAll s).wf = true :=
  foldl_wf unsettle_wf h

/-! ### How a command of Mason's completes -/

theorem ringShow_wf {n : Nat} {s : State} (h : s.wf = true) : (ringShow n s).wf = true :=
  sb_wf (sf_wf h)

theorem complete_wf {c : Cmd} {status code offset value len : Nat} {result : List Byte} {s : State}
    (h : s.wf = true) : (complete c status code offset value len result s).wf = true :=
  ite_wf (wf_same h) (ringShow_wf (when_wf cntF_wf (wf_same h)))

theorem completeFail_wf {c : Cmd} {f : Fail} {s : State} (h : s.wf = true) : (completeFail c f s).wf = true :=
  complete_wf h

theorem endRunning_wf {p : Cmd → Bool} {f : Cmd → Fail} {result : Cmd → List Byte} {s : State} (h : s.wf = true) :
    (endRunning p f result s).wf = true :=
  foldl_wf complete_wf h

/-! ### The operations of the safety domains -/

theorem withLsc_wf {s : State} {f : LscState → LscState} (h : s.wf = true) : (State.withLsc s f).wf = true :=
  wf_same h

theorem withOrd_wf {s : State} {f : OrdState → OrdState} (h : s.wf = true) : (State.withOrd s f).wf = true :=
  wf_same h

theorem setDomInfo_wf {d : Nat} {x : Dom} {s : State} (h : s.wf = true) : (setDomInfo d x s).wf = true :=
  withLsc_wf h

theorem setPortQueue_wf {d : Nat} {l : List OFrame} {s : State} (h : s.wf = true) : (setPortQueue d l s).wf = true :=
  sf_wf (setDomInfo_wf h)

theorem setAir_wf {d : Nat} {f : Option OFrame} {s : State} (h : s.wf = true) : (setAir d f s).wf = true :=
  withOrd_wf h

theorem portPump_wf {d : Nat} {s : State} (h : s.wf = true) : (portPump d s).wf = true := by
  unfold portPump
  split
  · exact setAir_wf (setPortQueue_wf h)
  · exact h

theorem portStatus_wf {d : Nat} {s : State} (h : s.wf = true) : (portStatus d s).wf = true :=
  ite_wf h (portPump_wf (setPortQueue_wf h))

theorem setPort_wf {d v : Nat} {s : State} (h : s.wf = true) : (setPort d v s).wf = true :=
  ite_wf h (portStatus_wf (sf_wf h))

theorem cutLink_wf {d : Nat} {s : State} (h : s.wf = true) : (cutLink d s).wf = true :=
  setPortQueue_wf (setAir_wf h)

theorem claimDone_wf {d status base : Nat} {s : State} (h : s.wf = true) : (claimDone d status base s).wf = true :=
  ite_wf h (when_wf (fun h => setPort_wf (wr_wf h)) (wr_wf h))

theorem setDom_wf {d v : Nat} {s : State} (h : s.wf = true) : (setDom d v s).wf = true :=
  ite_wf h (share (fun h5 => ite_wf (sb_wf (setPort_wf (cutLink_wf h5))) (when_wf setPort_wf h5))
    (when_wf raise_wf (raise_wf (sb_wf (sf_wf (sb_wf (sb_wf (sf_wf (ite_wf (setDomInfo_wf h) h)))))))))

theorem setCopies_wf {d : Nat} {cope drag : List Word} {s : State} (h : s.wf = true) :
    (setCopies d cope drag s).wf = true :=
  setDomInfo_wf h

theorem domHeld_wf {d : Nat} {s : State} (h : s.wf = true) : (domHeld d s).wf = true :=
  endRunning_wf (setCopies_wf (setDom_wf (setDomInfo_wf h)))

theorem domFault_wf {d kind iface : Nat} {pc : Word} {s : State} (h : s.wf = true) :
    (domFault d kind iface pc s).wf = true :=
  unless_wf (fun h => setDom_wf (setDomInfo_wf h)) (endRunning_wf
    (setDom_wf (setDomInfo_wf (wr_wf (wr_wf (cnt_wf h))))))

theorem injectFault_wf {m iface : Nat} {s : State} (h : s.wf = true) : (injectFault m iface s).wf = true :=
  domFault_wf (State.free_wf h)

theorem syncCheck_wf {d : Nat} {cope drag : List Word} {s : State} (h : s.wf = true) :
    (syncCheck d cope drag s).2.wf = true :=
  share (fun h2 => ite_snd h2 (domFault_wf h2)) (wr_wf (wr_wf (cnt_wf (setCopies_wf h))))

theorem setActNext_wf {d k t : Nat} {s : State} (h : s.wf = true) : (setActNext d k t s).wf = true :=
  withLsc_wf h

theorem actArm_wf {d k : Nat} {s : State} (h : s.wf = true) : (actArm d k s).wf = true :=
  setActNext_wf h

theorem actEnable_wf {d k : Nat} {on : Bool} {s : State} (h : s.wf = true) : (actEnable d k on s).wf = true :=
  share (fun h1 => ite_wf (actArm_wf h1) (setActNext_wf h1)) (sb_wf h)

theorem lscReposition_wf {s : State} (h : s.wf = true) : (lscReposition s).wf = true :=
  foldl_wf (fun h => ite_wf (actArm_wf h) h) h

/-! ### How a row acts -/

/-- A row that acts while its part runs, and changes nothing else. -/
theorem act_keeps {f : State → State} {s : State} (hf : ∀ {t : State}, t.wf = true → (f t).wf = true) :
    Keeps s (act f s) :=
  ite_keeps (next_keeps fun h => hf h) (next_keeps fun h => h)

theorem actP_keeps {f : State → State} {s : State} (hf : ∀ {t : State}, t.wf = true → (f t).wf = true) :
    Keeps s (actP f s) :=
  ite_keeps (next_keeps fun h => h) (next_keeps fun h => hf h)

theorem settle_wf {m : Nat} {s : State} {a : Ans} (h : s.wf = true) (ha : Ans.wf a) : (settle m s a).wf = true := by
  unfold settle
  split
  · exact ha
  · exact stray_wf h

/-- A row of the fabric keeps the invariant where its act does. -/
theorem fabricAct_keeps {m a : Nat} {f : State → State} {s : State}
    (hf : ∀ {t : State}, t.wf = true → (f t).wf = true) : Keeps s (fabricAct m a f s) :=
  act_keeps (fun h => ite_wf h (ite_wf (injectFault_wf h) (hf h)))

/-- A register write under the access tables keeps the invariant where its act does. -/
theorem withWrite_keeps {b off : Nat} {k : Mask} {m : Nat} {f : State → Ans} {s : State}
    (hf : ∀ {t : State}, t.wf = true → Ans.wf (f t)) : Keeps s (withWrite b off k m f s) :=
  fabricAct_keeps (fun h => ite_wf (refuse_wf h) (ite_wf (settle_wf h (hf h)) (drop_wf h)))

theorem withRead_keeps {b off : Nat} {k : Mask} {m : Nat} {f : State → State} {s : State}
    (hf : ∀ {t : State}, t.wf = true → (f t).wf = true) : Keeps s (withRead b off k m f s) :=
  fabricAct_keeps (fun h => ite_wf (refuse_wf h) (ite_wf (hf h) (reply_wf (refuseRead_wf h))))

/-! ### How Mason runs a command -/

theorem finish_wf {sp : OpSpec} {c : Cmd} {result : List Byte} {value : Nat} {s0 s : State} (h : s0.wf = true)
    (hs : s.wf = true) : (finish sp c result value s0 s).wf = true := by
  refine ite_wf (ite_wf (completeFail_wf h) ?_) (ite_wf (completeFail_wf h) (complete_wf hs))
  split
  · exact completeFail_wf (accessFault_wf h)
  · exact complete_wf (dmaPut_wf hs)

theorem markRunning_wf {c : Cmd} {s : State} (h : s.wf = true) : (markRunning c s).wf = true :=
  wf_same h

theorem inputRead_wf {c : Cmd} {s : State} (h : s.wf = true) : (inputRead c s).wf = true :=
  ite_wf (dmaRead_wf h) h

theorem runOp_wf {sp : OpSpec} {eff : CmdEff} {ring slot : Nat} {s : State}
    (heff : ∀ {c : Cmd} {t : State}, t.wf = true → CmdOut.wf (eff c t)) (h : s.wf = true) :
    (runOp sp eff ring slot s).wf = true := by
  unfold runOp
  split
  · exact h
  split
  · refine completeFail_wf ?_
    split
    · exact accessFault_wf h
    · exact h
  case h_2 c _ =>
    have hi := inputRead_wf (c := c) h
    have ho := heff (c := c) hi
    dsimp only
    split
    case h_1 ht =>
      rw [ht] at ho
      exact finish_wf hi ho
    case h_2 => exact completeFail_wf hi
    case h_3 ht =>
      rw [ht] at ho
      exact completeFail_wf ho
    case h_4 ht =>
      rw [ht] at ho
      exact markRunning_wf ho

/-- A row of Mason's keeps the invariant where the effect of its opcode does. -/
theorem opRow_keeps {sp : OpSpec} {eff : CmdEff} {ring slot : Nat} {s : State}
    (heff : ∀ {c : Cmd} {t : State}, t.wf = true → CmdOut.wf (eff c t)) : Keeps s (opRow sp eff ring slot s) :=
  act_keeps (fun h => runOp_wf heff h)

theorem portSetCheck_wf {b : Nat} {c : Cmd} {o : Nat} {s : State} {k : CmdOut} (hk : CmdOut.wf k) :
    CmdOut.wf (portSetCheck b c o s k) := by
  refine guard_wf ?_
  split
  · trivial
  · split
    · trivial
    · exact hk

theorem takeCounters_wf {l : List Nat} {s : State} (h : s.wf = true) : (takeCounters l s).2.wf = true := by
  induction l generalizing s with
  | nil => exact h
  | cons a r ih => exact ih (wr_wf h)

/-! ### Command rings -/

theorem stopRing_wf {n : Nat} {s : State} (h : s.wf = true) : (stopRing n s).wf = true :=
  ringShow_wf (foldl_wf completeFail_wf (sb_wf h))

theorem ringFault_wf {n kind addr : Nat} {wr : Bool} {s : State} (h : s.wf = true) :
    (ringFault n kind addr wr s).wf = true :=
  notify_wf (stopRing_wf (sf_wf (sb_wf (accessFault_wf h))))

theorem ownedWrite_keeps {n off m : Nat} {f : State → Ans} {s : State}
    (hf : ∀ {t : State}, t.wf = true → Ans.wf (f t)) : Keeps s (ownedWrite n off m f s) :=
  fabricAct_keeps (fun h => ite_wf h (ite_wf (refuse_wf h) (ite_wf (sb_wf (drop_wf h))
    (ite_wf (settle_wf h (hf h)) (drop_wf h)))))

theorem ringTail_wf {m n : Nat} {v : Word} {s : State} (h : s.wf = true) : Ans.wf (ringTail m n v s) :=
  ite_ans (sb_wf h) (ite_ans h (ite_ans (wf_same (wr_wf h)) trivial))

theorem execRingDoorbell_keeps {m n : Nat} {v : Word} {s : State} : Keeps s (execRingDoorbell m n v s) :=
  ownedWrite_keeps ringTail_wf

theorem rspHeadWrite_keeps {m n : Nat} {v : Word} {s : State} : Keeps s (rspHeadWrite m n v s) :=
  ownedWrite_keeps (fun h => ite_ans trivial (wr_wf h))

theorem ringEnable_wf {n : Nat} {s : State} (h : s.wf = true) : (ringEnable n s).wf = true :=
  ite_wf h (ite_wf (ringShow_wf (sb_wf h)) (notify_wf (sf_wf (sb_wf h))))

theorem execRingEnable_keeps {m n : Nat} {s : State} : Keeps s (execRingEnable m n s) :=
  withWrite_keeps ringEnable_wf

theorem ringDisable_wf {n : Nat} {s : State} (h : s.wf = true) : (ringDisable n s).wf = true :=
  ite_wf h (stopRing_wf h)

theorem execRingDisable_keeps {m n : Nat} {s : State} : Keeps s (execRingDisable m n s) :=
  withWrite_keeps ringDisable_wf

theorem ringZero_wf {n : Nat} {s : State} (h : s.wf = true) : (ringZero n s).wf = true :=
  wf_same (wr_wf (wr_wf (wr_wf (wr_wf h))))

theorem ringReset_wf {n : Nat} {s : State} (h : s.wf = true) : (ringReset n s).wf = true :=
  ite_wf h (ite_wf (ringZero_wf h) h)

theorem execRingReset_keeps {m n : Nat} {s : State} : Keeps s (execRingReset m n s) :=
  withWrite_keeps ringReset_wf

theorem ringCtrlWrite_keeps {m n : Nat} {v : Word} {s : State} : Keeps s (ringCtrlWrite m n v s) :=
  withWrite_keeps (fun h => ite_ans trivial (share (fun h1 => ite_wf (ringEnable_wf h1) (ringDisable_wf h1))
    (ite_wf (ringReset_wf h) h)))

theorem ringOwnerWrite_keeps {m n : Nat} {v : Word} {s : State} : Keeps s (ringOwnerWrite m n v s) :=
  withWrite_keeps (fun h => ite_ans (drop_wf h) (ite_ans h (ite_ans trivial (wr_wf h))))

theorem execCmdTimeoutWrite_keeps {m : Nat} {v : Word} {s : State} : Keeps s (execCmdTimeoutWrite m v s) :=
  withWrite_keeps (fun h => ite_ans trivial (wr_wf h))

theorem advanceHead_wf {n : Nat} {s : State} (h : s.wf = true) : (advanceHead n s).wf = true := by
  unfold advanceHead
  dsimp only
  split
  · exact when_wf wf_same (wr_wf h)
  · exact wr_wf h

theorem holdCmd_wf {c : Cmd} {s : State} (h : s.wf = true) : (holdCmd c s).wf = true :=
  ringShow_wf (wf_same h)

theorem fetchFrom_wf {lookup : Nat → Option OpSpec} {n : Nat} {s : State} (h : s.wf = true) :
    (fetchFrom lookup n s).wf = true := by
  refine ite_wf ?_ ?_
  · split
    · dsimp only
      split
      · exact completeFail_wf (holdCmd_wf (advanceHead_wf (wf_same h)))
      · exact (holdCmd_wf (advanceHead_wf (wf_same h)))
    · exact h
  · split
    · exact ringFault_wf h
    · dsimp only
      split
      · exact completeFail_wf (holdCmd_wf (advanceHead_wf (wf_same h)))
      · exact (holdCmd_wf (advanceHead_wf (wf_same h)))

theorem announce_wf {n : Nat} {s : State} (h : s.wf = true) : (announce n s).wf = true :=
  when_wf notify_wf (wf_same (wr_wf h))

theorem writeReply_wf {r : Reply} {s : State} (h : s.wf = true) : (writeReply r s).wf = true := by
  refine ite_wf (ite_wf h (notify_wf (cntF_wf h))) ?_
  dsimp only
  split
  · exact ringFault_wf h
  · exact announce_wf (dmaPut_wf h)

theorem execCompletionEventTimer_keeps {n : Nat} {s : State} : Keeps s (execCompletionEventTimer n s) :=
  act_keeps (fun h => ite_wf (notify_wf (wf_same h)) h)

theorem execCommandTimeout_keeps {ring slot : Nat} {s : State} : Keeps s (execCommandTimeout ring slot s) := by
  refine act_keeps (fun h => ?_)
  split
  · exact completeFail_wf h
  · exact h

theorem fenceRead_wf {m waited : Nat} {timedOut : Bool} {s : State} (h : s.wf = true) :
    (fenceRead m waited timedOut s).wf = true :=
  reply_wf (wf_same h)

theorem execSysFenceRead_keeps {m waited : Nat} {s : State} : Keeps s (execSysFenceRead m waited s) :=
  fabricAct_keeps (fun h => ite_wf (refuse_wf h) (ite_wf (fenceRead_wf h) h))

theorem execFenceTimeout_keeps {m waited : Nat} {s : State} : Keeps s (execFenceTimeout m waited s) :=
  fabricAct_keeps (fun h => ite_wf (raise_wf (fenceRead_wf h)) (refuse_wf h))

theorem execSysErrPop_keeps {m : Nat} {s : State} : Keeps s (execSysErrPop m s) :=
  withRead_keeps (fun h => reply_wf (sf_wf (wf_same h)))

theorem effNop_wf {c : Cmd} {s : State} (h : s.wf = true) : CmdOut.wf (effNop c s) :=
  h

theorem effEcho_wf {c : Cmd} {s : State} (h : s.wf = true) : CmdOut.wf (effEcho c s) :=
  h

theorem effGetVariant_wf {c : Cmd} {s : State} (h : s.wf = true) : CmdOut.wf (effGetVariant c s) :=
  h

/-! ### The access tables and windows -/

theorem setEntry_wf {s : State} {b m : Nat} {e : AclEntry} (h : s.wf = true) : (State.setEntry s b m e).wf = true :=
  wf_same h

theorem setWindow_wf {s : State} {m w : Nat} {x : Window} (h : s.wf = true) : (State.setWindow s m w x).wf = true :=
  wf_same h

theorem aclEntryWrite_wf {m b t i : Nat} {v : Word} {s : State} (h : s.wf = true) :
    Ans.wf (aclEntryWrite m b t i v s) := by
  refine ite_ans (drop_wf h) ?_
  split
  · exact setEntry_wf h
  · trivial

theorem aclWinWrite_wf {m t w i : Nat} {v : Word} {s : State} (h : s.wf = true) :
    Ans.wf (aclWinWrite m t w i v s) := by
  refine ite_ans (drop_wf h) ?_
  split
  · exact setWindow_wf h
  · trivial

theorem aclWindowAct_wf {m off : Nat} {v : Word} {s : State} (h : s.wf = true) : Ans.wf (aclWindowAct m off v s) :=
  ite_ans (ite_ans (ite_ans trivial (drop_wf h)) (aclEntryWrite_wf h))
    (ite_ans (ite_ans (ite_ans trivial (drop_wf h)) (aclWinWrite_wf h)) h)

theorem aclAct_keeps {m off : Nat} {f : State → Ans} {s : State} (hf : ∀ {t : State}, t.wf = true → Ans.wf (f t)) :
    Keeps s (aclAct m off f s) :=
  fabricAct_keeps (fun h => ite_wf (refuse_wf h) (settle_wf h (hf h)))

theorem execAclWindowWrite_keeps {m off : Nat} {v : Word} {s : State} : Keeps s (execAclWindowWrite m off v s) :=
  aclAct_keeps aclWindowAct_wf

theorem aclLockAct_wf {m : Nat} {v : Word} {s : State} (h : s.wf = true) : Ans.wf (aclLockAct m v s) :=
  ite_ans trivial (unless_wf drop_wf (foldl_wf sb_wf h))

theorem execAclLockWrite_keeps {m : Nat} {v : Word} {s : State} : Keeps s (execAclLockWrite m v s) :=
  aclAct_keeps aclLockAct_wf

theorem aclCheck_wf {locks : Bool} {c : Cmd} {s : State} {k : CmdOut} (hk : CmdOut.wf k) :
    CmdOut.wf (aclCheck locks c s k) :=
  guard_wf (guard_wf (guard_wf hk))

theorem effAclSetEntry_wf {c : Cmd} {s : State} (h : s.wf = true) : CmdOut.wf (effAclSetEntry c s) :=
  aclCheck_wf (guard_wf (guard_wf (guard_wf (setEntry_wf h))))

theorem effAclGetEntry_wf {c : Cmd} {s : State} (h : s.wf = true) : CmdOut.wf (effAclGetEntry c s) :=
  aclCheck_wf (guard_wf h)

theorem effAclLock_wf {c : Cmd} {s : State} (h : s.wf = true) : CmdOut.wf (effAclLock c s) :=
  guard_wf (sb_wf h)

theorem effAclSetWindow_wf {c : Cmd} {s : State} (h : s.wf = true) : CmdOut.wf (effAclSetWindow c s) :=
  aclCheck_wf (guard_wf (guard_wf (guard_wf (guard_wf (guard_wf (setWindow_wf h))))))

theorem effAclGetWindow_wf {c : Cmd} {s : State} (h : s.wf = true) : CmdOut.wf (effAclGetWindow c s) :=
  aclCheck_wf (guard_wf (guard_wf h))

/-! ### The operations of Quarry's pools and of the sprue FIFOs -/

theorem withQry_wf {s : State} {f : QryState → QryState} (h : s.wf = true) : (State.withQry s f).wf = true :=
  wf_same h

theorem setPool_wf {p : Nat} {x : Pool} {s : State} (h : s.wf = true) : (setPool p x s).wf = true :=
  sf_wf (withQry_wf h)

theorem setUsed_wf {r p n : Nat} {s : State} (h : s.wf = true) : (setUsed r p n s).wf = true :=
  sf_wf h

theorem allocRefused_wf {off : Nat} {s : State} (h : s.wf = true) : (allocRefused off s).wf = true :=
  raise_wf (cnt_wf h)

theorem allocate_wf {r size : Nat} {s : State} {x : (Nat × Nat × Nat) × State} (h : s.wf = true)
    (hx : allocate r size s = .inr x) : x.2.wf = true := by
  unfold allocate at hx
  dsimp only at hx
  split at hx
  · cases hx
    exact h
  split at hx
  · cases hx
    exact allocRefused_wf h
  split at hx
  · cases hx
  split at hx
  · cases hx
    exact allocRefused_wf h
  · cases hx
    exact allocRefused_wf h

theorem takeBlock_wf {r p0 p : Nat} {s : State} (h : s.wf = true) : (takeBlock r p0 p s).2.wf = true := by
  have grant {u : State} (hu : u.wf = true) : (if p0 < p then u.cnt (rg 11 0x88) 1 else u).wf = true :=
    when_wf cnt_wf hu
  refine ite_snd (grant (cnt_wf (setUsed_wf (setPool_wf h)))) ?_
  split
  · exact grant (cnt_wf (setUsed_wf (setPool_wf h)))
  · exact h

theorem alloc_wf {r size : Nat} {s : State} (h : s.wf = true) : (alloc r size s).2.wf = true := by
  unfold alloc
  split
  case h_1 => exact takeBlock_wf h
  case h_2 x hx => exact allocate_wf h hx

theorem freeFail_wf {r a kind : Nat} {s : State} (h : s.wf = true) : (freeFail r a kind s).wf = true :=
  raise_wf (cnt_wf (withQry_wf (logPush_wf h)))

theorem free_wf {r a : Nat} {s : State} (h : s.wf = true) : (free r a s).2.wf = true := by
  unfold free
  split
  · exact freeFail_wf h
  · dsimp only
    split
    · exact freeFail_wf h
    · exact ite_snd (freeFail_wf h) (cnt_wf (setUsed_wf (setPool_wf h)))

theorem setFifo_wf {n : Nat} {x : Fifo} {s : State} (h : s.wf = true) : (setFifo n x s).wf = true :=
  wr_wf (withQry_wf h)

theorem sprParity_wf {n : Nat} {f : Bool} {s : State} (h : s.wf = true) : (sprParity n f s).wf = true :=
  ite_wf (raise_wf (cnt_wf h)) h

theorem setHw_wf {n : Nat} {l : List (List SWord)} {s : State} (h : s.wf = true) : (setHw n l s).wf = true :=
  withQry_wf h

theorem setInbox_wf {n : Nat} {l : List (List SWord)} {s : State} (h : s.wf = true) : (setInbox n l s).wf = true :=
  wf_same h

theorem gwyWord_wf {n : Nat} {w : SWord} {s : State} (h : s.wf = true) : (gwyWord n w s).wf = true :=
  ite_wf (wf_same h) (ite_wf (setInbox_wf (wf_same h)) (wf_same h))

theorem hwTake_wf {n : Nat} {s : State} (h : s.wf = true) : (hwTake n s).wf = true := by
  unfold hwTake
  dsimp only
  split
  · exact gwyWord_wf (sprParity_wf (setFifo_wf h))
  · exact h

theorem hwCycle_wf {n : Nat} {s : State} (h : s.wf = true) : (hwCycle n s).wf = true := by
  unfold hwCycle
  dsimp only
  split
  · exact setHw_wf (setFifo_wf (ite_wf h (hwTake_wf h)))
  · exact setFifo_wf (ite_wf h (hwTake_wf h))

theorem hwRun_wf {n fuel : Nat} {s : State} (h : s.wf = true) : (hwRun n fuel s).wf = true := by
  induction fuel generalizing s with
  | zero => exact h
  | succ fuel ih => exact ite_wf h (ih (hwCycle_wf h))

theorem hwDrain_wf {n : Nat} {s : State} (h : s.wf = true) : (hwDrain n s).wf = true :=
  ite_wf h (hwRun_wf h)

theorem hwQueue_wf {n : Nat} {r : List Nat} {s : State} (h : s.wf = true) : (hwQueue n r s).wf = true :=
  setHw_wf (ite_wf h (setFifo_wf h))

theorem sprueCycle_wf {s : State} (h : s.wf = true) : (sprueCycle s).wf = true :=
  foldl_wf setFifo_wf (foldl_wf hwCycle_wf h)

theorem sprueTick_wf {s : State} (h : s.wf = true) : (sprueTick s).wf = true :=
  wf_same (sprueCycle_wf (sprueCycle_wf h))

theorem hwCut_wf {n : Nat} {s : State} (h : s.wf = true) : (hwCut n s).wf = true :=
  setHw_wf (setFifo_wf (wf_same h))

theorem qryCut_wf {s : State} (h : s.wf = true) : (qryCut s).wf = true :=
  wf_same (foldl_wf (fun h => ite_wf h (setHw_wf h)) h)

theorem gwyCut_wf {s : State} (h : s.wf = true) : (gwyCut s).wf = true :=
  wf_same h

/-! ### The operations of the CAN and LIN channels -/

theorem withCln_wf {s : State} {f : ClnState → ClnState} (h : s.wf = true) : (State.withCln s f).wf = true :=
  wf_same h

theorem canCount_wf {ch off : Nat} {s : State} (h : s.wf = true) : (canCount ch off s).wf = true :=
  cnt_wf h

theorem linCount_wf {m off : Nat} {s : State} (h : s.wf = true) : (linCount m off s).wf = true :=
  cnt_wf h

theorem clnEvent_wf {inst i : Nat} {s : State} (h : s.wf = true) : (clnEvent inst i s).wf = true :=
  raise_wf (sb_wf h)

theorem busSend_wf {x : BusSent} {s : State} (h : s.wf = true) : (busSend x s).wf = true :=
  withCln_wf h

theorem setCanState_wf {ch v : Nat} {s : State} (h : s.wf = true) : (setCanState ch v s).wf = true :=
  sf_wf h

theorem setErr_wf {ch t r : Nat} {s : State} (h : s.wf = true) : (setErr ch t r s).wf = true :=
  when_wf clnEvent_wf (when_wf clnEvent_wf (sf_wf (sf_wf (sb_wf (withCln_wf h)))))

theorem setBusy_wf {ch : Nat} {v : Bool} {s : State} (h : s.wf = true) : (setBusy ch v s).wf = true :=
  withCln_wf h

theorem canGo_wf {ch v : Nat} {s : State} (h : s.wf = true) : (canGo ch v s).wf = true :=
  when_wf setErr_wf (setCanState_wf (withCln_wf h))

theorem setBuf_wf {ch i : Nat} {b : TxBuf} {s : State} (h : s.wf = true) : (setBuf ch i b s).wf = true :=
  withCln_wf h

theorem canLate_wf {ch : Nat} {s : State} (h : s.wf = true) : (canLate ch s).wf = true :=
  clnEvent_wf (canCount_wf h)

theorem loadBuf_wf {ch i : Nat} {f : Can} {limit timing t period : Nat} {s : State} (h : s.wf = true) :
    (loadBuf ch i f limit timing t period s).wf = true := by
  unfold loadBuf
  dsimp only
  split
  · exact setBuf_wf h
  · exact ite_wf (setBuf_wf (canLate_wf h)) (setBuf_wf h)
  · exact setBuf_wf h

theorem changeMode_wf {ch old new : Nat} {s : State} (h : s.wf = true) : (changeMode ch old new s).wf = true :=
  ite_wf h (ite_wf (ite_wf h (canGo_wf h)) (ite_wf (ite_wf (withCln_wf h) (canGo_wf h)) (canGo_wf (canCount_wf h))))

theorem frameEnded_wf {ch : Nat} {s : State} (h : s.wf = true) : (frameEnded ch s).wf = true := by
  unfold frameEnded
  dsimp only
  split
  · exact canGo_wf (setBusy_wf h)
  · exact setBusy_wf h

theorem setLinState_wf {m v : Nat} {s : State} (h : s.wf = true) : (setLinState m v s).wf = true :=
  sf_wf h

theorem showLin_wf {m : Nat} {s : State} (h : s.wf = true) : (showLin m s).wf = true := by
  unfold showLin
  dsimp only
  split
  · exact sf_wf (sb_wf h)
  · exact sb_wf h

theorem setRun_wf {m : Nat} {r : Option LinRun} {s : State} (h : s.wf = true) : (setRun m r s).wf = true :=
  showLin_wf (withCln_wf h)

theorem setNext_wf {m : Nat} {x : Option LinNext} {s : State} (h : s.wf = true) : (setNext m x s).wf = true :=
  showLin_wf (withCln_wf h)

theorem linPlace_wf {m first last : Nat} {phase : Int} {s : State} (h : s.wf = true) :
    (linPlace m first last phase s).wf = true :=
  setRun_wf h

theorem linReposition.linStay_wf {m : Nat} {s : State} (h : s.wf = true) : (linReposition.linStay m s).wf = true := by
  unfold linReposition.linStay
  split
  · exact h
  · exact linPlace_wf h

theorem linReposition_wf {s : State} (h : s.wf = true) : (linReposition s).wf = true := by
  refine foldl_wf (fun h => ?_) h
  split
  · exact ite_wf (linPlace_wf (setLinState_wf (setNext_wf h))) (linReposition.linStay_wf h)
  · exact linReposition.linStay_wf h

theorem clnReposition_wf {s : State} (h : s.wf = true) : (clnReposition s).wf = true :=
  linReposition_wf (withCln_wf h)

theorem clnFull_wf {inst : Nat} {s : State} (h : s.wf = true) : (clnFull inst s).2.wf = true :=
  share (fun h1 => ite_snd (clnEvent_wf (when_wf canCount_wf (setFifo_wf h1))) h1) (ite_wf (hwDrain_wf h) h)

theorem clnRecord_wf {inst : Nat} {r : List Nat} {s : State} (h : s.wf = true) : (clnRecord inst r s).2.wf = true :=
  ite_snd (clnFull_wf h) (hwQueue_wf (clnFull_wf h))

theorem setPublish_wf {m id : Nat} {bs : List Byte} {s : State} (h : s.wf = true) :
    (setPublish m id bs s).wf = true :=
  withCln_wf h

theorem sendHeader_wf {m id : Nat} {s : State} (h : s.wf = true) : (sendHeader m id s).wf = true :=
  busSend_wf h

theorem sendResponse_wf {m id : Nat} {enhanced : Bool} {d : List Byte} {s : State} (h : s.wf = true) :
    (sendResponse m id enhanced d s).wf = true :=
  busSend_wf h

theorem linHeader_wf {m i start : Nat} {s : State} (h : s.wf = true) : (linHeader m i start s).wf = true :=
  ite_wf h (when_wf (fun h => sendResponse_wf (withCln_wf h)) (sendHeader_wf (withCln_wf h)))

theorem linGoToSleep_wf {m : Nat} {s : State} (h : s.wf = true) : (linGoToSleep m s).wf = true :=
  sendResponse_wf (sendHeader_wf (withCln_wf (setLinState_wf (setNext_wf (setRun_wf h)))))

theorem linOff_wf {m : Nat} {s : State} (h : s.wf = true) : (linOff m s).wf = true :=
  withCln_wf (setLinState_wf (setNext_wf (setRun_wf h)))

/-! ### The operations of the frame store -/

theorem swcCount_wf {p off : Nat} {s : State} (h : s.wf = true) : (swcCount p off s).wf = true :=
  cnt_wf h

theorem withSwc_wf {s : State} {f : SwcState → SwcState} (h : s.wf = true) : (State.withSwc s f).wf = true :=
  wf_same h

theorem withEth_wf {s : State} {f : EthState → EthState} (h : s.wf = true) : (State.withEth s f).wf = true :=
  wf_same h

theorem showFree_wf {s : State} (h : s.wf = true) : (showFree s).wf = true :=
  sf_wf h

theorem putTiles_wf {l : List Nat} {bs : List Byte} {s : State} (h : s.wf = true) : (putTiles l bs s).wf = true := by
  induction l generalizing bs s with
  | nil => exact h
  | cons t r ih => exact ih (wrBytes_wf (wrBytes_wf h))

theorem freeFrame_wf {id : Nat} {s : State} (h : s.wf = true) : (freeFrame id s).wf = true := by
  unfold freeFrame
  split
  · exact h
  · exact showFree_wf (unless_wf (fun h => raise_wf (sf_wf h)) (withSwc_wf h))

theorem tcwFail_wf {p : Nat} {tile : Option Nat} {s : State} (h : s.wf = true) : (tcwFail p tile s).wf = true := by
  unfold tcwFail
  dsimp only
  split
  · exact raise_wf (swcCount_wf h)
  · exact ite_wf (unless_wf withSwc_wf (raise_wf (swcCount_wf h))) (sf_wf (withSwc_wf (raise_wf (swcCount_wf h))))

theorem setCharge_wf {q c r : Nat} {s : State} (h : s.wf = true) : (setCharge q c r s).wf = true :=
  sf_wf (sf_wf (sf_wf h))

theorem dropRef_wf {id : Nat} {s : State} (h : s.wf = true) : (dropRef id s).wf = true := by
  unfold dropRef
  split
  · exact h
  · split
    · exact withSwc_wf h
    · exact freeFrame_wf h

theorem releaseCopy_wf {c : Copy} {s : State} (h : s.wf = true) : (releaseCopy c s).wf = true :=
  dropRef_wf (setCharge_wf h)

theorem showFrames_wf {q : Nat} {s : State} (h : s.wf = true) : (showFrames q s).wf = true :=
  sf_wf h

theorem showQueue_wf {q : Nat} {s : State} (h : s.wf = true) : (showQueue q s).wf = true :=
  when_wf (fun h => wf_same (wr_wf h)) (showFrames_wf h)

theorem setQueue_wf {q : Nat} {l : List Copy} {s : State} (h : s.wf = true) : (setQueue q l s).wf = true :=
  showQueue_wf (withSwc_wf h)

theorem countRefused_wf {p : Nat} {r : Refused} {s : State} (h : s.wf = true) : (countRefused p r s).wf = true := by
  unfold countRefused
  split
  · exact raise_wf (swcCount_wf h)
  · exact swcCount_wf h
  · exact swcCount_wf h
  · exact swcCount_wf h

theorem countPushed_wf {p tc : Nat} {s : State} (h : s.wf = true) : (countPushed p tc s).wf = true :=
  share (fun h1 => ite_wf (cntF_wf h1) (cntF_wf h1)) (swcCount_wf h)

theorem evict_wf {s : State} {c id q : Nat} (h : s.wf = true) : (evict s c id q).wf = true := by
  unfold evict
  split
  · exact h
  · exact countPushed_wf (releaseCopy_wf (setQueue_wf h))

theorem pushOut_wf {c id d fuel : Nat} {s t : State} (h : s.wf = true) (ht : pushOut c id d fuel s = some t) :
    t.wf = true := by
  induction fuel generalizing s with
  | zero =>
    unfold pushOut at ht
    split at ht
    · cases ht
      exact h
    · cases ht
  | succ fuel ih =>
    unfold pushOut at ht
    split at ht
    · cases ht
      exact h
    split at ht
    · cases ht
    · exact ih (evict_wf h) ht

theorem enqueueCopy_wf {c : Copy} {s t : State} (h : s.wf = true) (ht : enqueueCopy c s = .inl t) : t.wf = true := by
  unfold enqueueCopy at ht
  dsimp only at ht
  split at ht
  · cases ht
  split at ht
  · cases ht
  split at ht
  case h_1 hp =>
    cases ht
    exact setCharge_wf (pushOut_wf h hp)
  case h_2 => cases ht

theorem setLane_wf {p stream : Nat} {l : Lane} {s : State} (h : s.wf = true) : (setLane p stream l s).wf = true :=
  withSwc_wf h

theorem laneTimeout_wf {p stream : Nat} {s : State} (h : s.wf = true) : (laneTimeout p stream s).wf = true := by
  unfold laneTimeout
  dsimp only
  split
  · exact h
  · exact raise_wf (swcCount_wf (setLane_wf h))

theorem laneItem_wf {p stream num : Nat} {c : Option Copy} {s : State} (h : s.wf = true) :
    (laneItem p stream num c s).wf = true := by
  refine ite_wf ?_ (when_wf laneTimeout_wf (setLane_wf h))
  split
  · exact releaseCopy_wf (swcCount_wf h)
  · exact h

theorem holesAll_wf {f : Frame} {s : State} (h : s.wf = true) : (holesAll f s).wf = true :=
  foldl_wf laneItem_wf h

theorem dropFrame_wf {f : Frame} {s : State} (h : s.wf = true) : (dropFrame f s).wf = true :=
  freeFrame_wf (holesAll_wf h)

theorem storeFrame_wf {p : Nat} {bs : List Byte} {macsec : Nat} {tcOver : Option Nat} {ts : Bool × Nat}
    {sec ns frac : Nat}
    {s : State} (h : s.wf = true) : (storeFrame p bs macsec tcOver ts sec ns frac s).1.wf = true :=
  ite_fst (raise_wf (swcCount_wf h)) (ite_fst (swcCount_wf h) (ite_fst (raise_wf (swcCount_wf h))
    (swcCount_wf (showFree_wf (putTiles_wf (withSwc_wf h))))))

theorem flushQueue_wf {q : Nat} {s : State} (h : s.wf = true) : (flushQueue q s).1.wf = true :=
  (foldl_wf (fun h => swcCount_wf (releaseCopy_wf h)) (setQueue_wf h))

theorem flushPort_wf {p : Nat} {s : State} (h : s.wf = true) : (flushPort p s).wf = true :=
  foldl_wf flushQueue_wf h

theorem swcLinkDown_wf {p : Nat} {s : State} (h : s.wf = true) : (swcLinkDown p s).wf = true :=
  when_wf flushPort_wf (foldl_wf (fun h => showQueue_wf (releaseCopy_wf (swcCount_wf h))) (withSwc_wf h))

/-! ### The operations of Crucible's key slots -/

theorem withCru_wf {s : State} {f : CruState → CruState} (h : s.wf = true) : (State.withCru s f).wf = true :=
  wf_same h

theorem showKey_wf {n : Nat} {k : KeySlot} {s : State} (h : s.wf = true) : (showKey n k s).wf = true :=
  wr_wf (wr_wf (wr_wf (wr_wf (wr_wf h))))

theorem setKey_wf {n : Nat} {k : KeySlot} {s : State} (h : s.wf = true) : (setKey n k s).wf = true :=
  showKey_wf (withCru_wf h)

theorem ethEvent_wf {p i : Nat} {s : State} (h : s.wf = true) : (ethEvent p i s).wf = true :=
  raise_wf (sb_wf h)

theorem setTxSa_wf {p a : Nat} {x : Option Sa} {s : State} (h : s.wf = true) : (setTxSa p a x s).wf = true :=
  withEth_wf h

theorem setRxSa_wf {p k : Nat} {x : Option Sa} {s : State} (h : s.wf = true) : (setRxSa p k x s).wf = true :=
  withEth_wf h

theorem stopSas_wf {n : Nat} {s : State} (h : s.wf = true) : (stopSas n s).wf = true :=
  foldl_wf (fun h => ethEvent_wf (setRxSa_wf h)) (foldl_wf (fun h => ethEvent_wf (setTxSa_wf h)) h)

theorem useKey_wf {n : Nat} {s : State} (h : s.wf = true) : (useKey n s).2.wf = true :=
  ite_snd h (when_wf (fun h => stopSas_wf (raise_wf (wr_wf h))) (when_wf (fun h => raise_wf (wr_wf h)) (setKey_wf h)))

theorem eraseKey_wf {n : Nat} {s : State} (h : s.wf = true) : (eraseKey n s).wf = true :=
  stopSas_wf (setKey_wf h)

theorem slotCheckCru_wf {range : Nat} {c : Cmd} {o n : Nat} {s : State} {k : CmdOut} (hk : CmdOut.wf k) :
    CmdOut.wf (slotCheckCru range c o n s k) :=
  guard_wf (ite_cmd hk trivial)

theorem drawEntropy_wf {s : State} (h : s.wf = true) : (drawEntropy s).2.wf = true :=
  wf_same h

theorem newContextKey_wf {s : State} (h : s.wf = true) : (newContextKey s).wf = true :=
  withCru_wf (drawEntropy_wf h)

theorem eraseSlots_wf {s : State} (h : s.wf = true) : (eraseSlots s).wf = true :=
  foldl_wf eraseKey_wf h

/-! ### Crucible's jobs -/

theorem countCode_wf {code : Nat} {s : State} (h : s.wf = true) : (countCode code s).wf = true :=
  ite_wf (cnt_wf h) (ite_wf (cnt_wf h) (ite_wf (cnt_wf h) h))

theorem countJob_wf {st code : Nat} {s : State} (h : s.wf = true) : (countJob st code s).wf = true :=
  countCode_wf (cnt_wf h)

theorem cruShow_wf {n : Nat} {s : State} (h : s.wf = true) : (cruShow n s).wf = true := by
  unfold cruShow
  dsimp only
  split
  · exact sf_wf (sb_wf (sf_wf h))
  · exact sb_wf (sf_wf h)

theorem cruRefuse_wf {o a : Nat} {wr : Bool} {s : State} (h : s.wf = true) : (cruRefuse o a wr s).wf = true := by
  unfold cruRefuse
  split
  · exact devFault_wf h
  · exact ite_wf (physFault_wf h) (busError_wf h)
  · exact busError_wf h

theorem cruPut_wf {o a : Nat} {data : List Byte} {s : State} (h : s.wf = true) : (cruPut o a data s).2.wf = true :=
  when_wf cruRefuse_wf (putAll_wf h)

theorem cruRead_wf {o a n : Nat} {s : State} (h : s.wf = true) : (cruRead o a n s).wf = true :=
  readOut_wf h

theorem saveContext_wf {j : JobSpec} {c : Chain} {s : State} (h : s.wf = true) : (saveContext j c s).2.wf = true :=
  ite_snd (drawEntropy_wf h) h

theorem endErases_wf {s : State} (h : s.wf = true) : (endErases s).wf = true :=
  endRunning_wf h

/-! ### The operations of the gateway engine -/

theorem withGwy_wf {s : State} {f : GwyState → GwyState} (h : s.wf = true) : (State.withGwy s f).wf = true :=
  wf_same h

theorem gwyCount_wf {off : Nat} {s : State} (h : s.wf = true) : (gwyCount off s).wf = true :=
  cnt_wf h

theorem setRoute_wf {i : Nat} {r : Option Route} {s : State} (h : s.wf = true) : (setRoute i r s).wf = true :=
  withGwy_wf h

theorem setTunnel_wf {t : Nat} {x : Tunnel} {s : State} (h : s.wf = true) : (setTunnel t x s).wf = true :=
  withGwy_wf h

theorem igSend_wf {bs : List Byte} {s : State} (h : s.wf = true) : (igSend bs s).wf = true :=
  storeFrame_wf h

theorem closeBundle_wf {t : Nat} {s : State} (h : s.wf = true) : (closeBundle t s).wf = true :=
  ite_wf h (igSend_wf (gwyCount_wf (setTunnel_wf h)))

theorem bundleEnter_wf {t : Nat} {a : List Byte} {s : State} (h : s.wf = true) : (bundleEnter t a s).wf = true :=
  when_wf closeBundle_wf (setTunnel_wf (ite_wf (closeBundle_wf h) h))

theorem freeHeld_wf {x : Held} {s : State} (h : s.wf = true) : (freeHeld x s).wf = true :=
  free_wf (withGwy_wf h)

theorem dropHeld_wf {id : Nat} {s : State} (h : s.wf = true) : (dropHeld id s).wf = true := by
  unfold dropHeld
  split
  · exact h
  · exact ite_wf (freeHeld_wf h) (withGwy_wf h)

theorem dropHeldOf_wf {m : Option Nat} {s : State} (h : s.wf = true) : (dropHeldOf m s).wf = true := by
  unfold dropHeldOf
  split
  · exact dropHeld_wf h
  · exact h

theorem qryDrop_wf {s : State} (h : s.wf = true) : (qryDrop s).wf = true :=
  raise_wf (gwyCount_wf h)

theorem loseHeld_wf {x : Held} {a : Nat} {wr : Bool} {s : State} (h : s.wf = true) : (loseHeld x a wr s).wf = true :=
  qryDrop_wf (freeHeld_wf (withGwy_wf (accessFault_wf h)))

theorem dropCopy_wf {off id : Nat} {s : State} (h : s.wf = true) : (dropCopy off id s).wf = true :=
  dropHeld_wf (gwyCount_wf h)

theorem setCanQueue_wf {ch : Nat} {l : List CanCopy} {s : State} (h : s.wf = true) : (setCanQueue ch l s).wf = true :=
  withGwy_wf h

theorem gwyReport_wf {inst : Nat} {s : State} (h : s.wf = true) : (gwyReport inst s).wf = true :=
  ite_wf h (when_wf (fun h => foldl_wf (fun h => dropHeldOf_wf (gwyCount_wf h)) (setCanQueue_wf h))
    (raise_wf (sb_wf h)))

theorem canJoin_wf {ch : Nat} {c : CanCopy} {latest : Bool} {s : State} (h : s.wf = true) :
    (canJoin ch c latest s).1.wf = true := by
  refine ite_fst (dropHeldOf_wf (gwyCount_wf h)) ?_
  split
  · exact dropHeldOf_wf (gwyCount_wf (setCanQueue_wf h))
  · exact ite_fst (dropHeldOf_wf (raise_wf (gwyCount_wf h))) (setCanQueue_wf h)

theorem gwLoad_wf {ch fuel : Nat} {s : State} (h : s.wf = true) : (gwLoad ch fuel s).wf = true := by
  induction fuel generalizing s with
  | zero => exact h
  | succ fuel ih =>
    unfold gwLoad
    split
    · exact h
    split
    · exact h
    dsimp only
    split
    · exact dropHeldOf_wf (loadBuf_wf (setCanQueue_wf h))
    refine ite_wf (ih (dropCopy_wf (setCanQueue_wf h))) ?_
    split
    · exact ih (loseHeld_wf h)
    · exact dropHeldOf_wf (loadBuf_wf (setCanQueue_wf h))

theorem hostDrop_wf {n : Nat} {s : State} (h : s.wf = true) : (hostDrop n s).wf = true :=
  raise_wf (cnt_wf (gwyCount_wf h))

theorem hostDeliver_wf {n : Nat} {rec_ : List Byte} {s : State} (h : s.wf = true) :
    (hostDeliver n rec_ s).wf = true := by
  refine ite_wf (hostDrop_wf h) ?_
  split
  · exact hostDrop_wf (accessFault_wf h)
  · exact notify_wf (wr_wf (dmaPut_wf h))

theorem handOn_wf {id : Nat} {t : List Byte} {s : State} (h : s.wf = true) : (handOn id t s).wf = true := by
  unfold handOn
  split
  · exact h
  · dsimp only
    split
    · split
      · exact dropCopy_wf h
      · exact canJoin_wf h
    · refine ite_wf (dropCopy_wf h) (ite_wf (dropCopy_wf h) ?_)
      split
      · exact loseHeld_wf h
      · exact dropHeld_wf (setPublish_wf h)
    · refine ite_wf (dropCopy_wf h) (ite_wf (dropCopy_wf h) ?_)
      split
      · exact loseHeld_wf h
      · refine dropHeld_wf ?_
        split
        · exact bundleEnter_wf h
        · exact gwyCount_wf h
    · refine ite_wf (dropCopy_wf h) ?_
      split
      · exact loseHeld_wf h
      · exact dropHeld_wf (hostDeliver_wf h)

theorem makeCopy_wf {id : Nat} {t : List Byte} {s : State} (h : s.wf = true) : (makeCopy id t s).wf = true := by
  unfold makeCopy
  split
  · exact h
  · refine ite_wf (dropCopy_wf h) (ite_wf (dropCopy_wf h) ?_)
    split
    · exact handOn_wf h
    · exact ite_wf (handOn_wf (gwyCount_wf h)) (ite_wf (dropCopy_wf h) (withGwy_wf h))

theorem gwyReposition_wf {s : State} (h : s.wf = true) : (gwyReposition s).wf = true :=
  withGwy_wf h

theorem processMsg_wf {m : Msg} {i : Nat} {e : List Byte} {s : State} (h : s.wf = true) :
    (processMsg m i e s).wf = true := by
  unfold processMsg
  dsimp only
  split
  · exact qryDrop_wf (alloc_wf h)
  · split
    · exact loseHeld_wf (withGwy_wf (alloc_wf h))
    · exact foldl_wf makeCopy_wf (dmaPut_wf (withGwy_wf (alloc_wf h)))

theorem setFresh_wf {i : Nat} {e : List Byte} {f : Nat} {s : State} (h : s.wf = true) :
    (setFresh i e f s).wf = true := by
  unfold setFresh
  split
  · exact ite_wf (setRoute_wf h) h
  · exact h

theorem authFail_wf {s : State} (h : s.wf = true) : (authFail s).wf = true :=
  raise_wf (gwyCount_wf h)

theorem authKey_wf {s : State} (h : s.wf = true) : (authKey s).wf = true :=
  raise_wf (gwyCount_wf h)

theorem gwyRingShow_wf {s : State} (h : s.wf = true) : (gwyRingShow s).wf = true :=
  cruShow_wf h

theorem startAuth_wf {w : AuthWait} {s : State} (h : s.wf = true) : (startAuth w s).2.wf = true := by
  refine ite_snd (authFail_wf h) (ite_snd (authKey_wf h) ?_)
  split
  · exact authKey_wf (countJob_wf h)
  · exact ite_snd (useKey_wf h) (authKey_wf (countJob_wf h))

theorem endAuth_wf {w : AuthWait} {j : AuthJob} {s : State} (h : s.wf = true) : (endAuth w j s).wf = true :=
  ite_wf (processMsg_wf (setFresh_wf (countJob_wf h))) (ite_wf (processMsg_wf (setFresh_wf (countJob_wf h)))
    (authFail_wf (countJob_wf h)))

theorem serveWaits_wf {fuel : Nat} {s : State} (h : s.wf = true) : (serveWaits fuel s).wf = true := by
  induction fuel generalizing s with
  | zero => exact h
  | succ fuel ih =>
    unfold serveWaits
    split
    · exact h
    dsimp only
    split
    · exact ih (processMsg_wf (withGwy_wf h))
    split
    · exact ih (gwyRingShow_wf (withGwy_wf (startAuth_wf h)))
    · exact ih (withGwy_wf (startAuth_wf h))

theorem nextAuth_wf {s : State} (h : s.wf = true) : (nextAuth s).wf = true :=
  serveWaits_wf (gwyRingShow_wf h)

theorem gwyErased_wf {s : State} (h : s.wf = true) : (gwyErased s).wf = true :=
  foldl_wf (fun h => nextAuth_wf (authKey_wf (countJob_wf (withGwy_wf h)))) h

theorem takeMsg_wf {m : Msg} {s : State} (h : s.wf = true) : (takeMsg m s).wf = true := by
  unfold takeMsg
  dsimp only
  split
  · exact raise_wf (gwyCount_wf (gwyCount_wf h))
  · exact unless_wf (fun h => serveWaits_wf (withGwy_wf h)) (gwyCount_wf h)

theorem gwyFreeAll_wf {s : State} (h : s.wf = true) : (gwyFreeAll s).wf = true :=
  foldl_wf freeHeld_wf h

/-! ### The network management engines -/

theorem setNm_wf {e v : Nat} {s : State} (h : s.wf = true) : (setNm e v s).wf = true :=
  sf_wf h

theorem nmSend_wf {e cbv : Nat} {s : State} (h : s.wf = true) : (nmSend e cbv s).wf = true :=
  ite_wf h (ite_wf (ite_wf (cnt_wf (canJoin_wf h)) (canJoin_wf h)) (igSend_wf (cnt_wf h)))

theorem nmRepeat_wf {e cbv : Nat} {s : State} (h : s.wf = true) : (nmRepeat e cbv s).wf = true :=
  nmSend_wf (setNm_wf h)

theorem nmLocalWake_wf {e : Nat} {s : State} (h : s.wf = true) : (nmLocalWake e s).wf = true :=
  ite_wf (nmRepeat_wf h) h

theorem localWake_wf {s : State} (h : s.wf = true) : (localWake s).wf = true :=
  foldl_wf nmLocalWake_wf h

theorem nmPour_wf {s : State} (h : s.wf = true) : (nmPour s).wf = true :=
  foldl_wf (fun h => ite_wf (nmRepeat_wf h) h) h

theorem nmReceive_wf {e : Nat} {pdu : List Byte} {s : State} (h : s.wf = true) : (nmReceive e pdu s).wf = true :=
  share (fun h3 => ite_wf (nmRepeat_wf h3) (when_wf setNm_wf h3)) (withGwy_wf (sf_wf (sf_wf (cnt_wf h))))

theorem nmEnable_wf {e : Nat} {on : Bool} {s : State} (h : s.wf = true) : (nmEnable e on s).wf = true :=
  ite_wf (ite_wf (setNm_wf (sb_wf h)) h) (setNm_wf (sb_wf h))

theorem nmBad_wf {s : State} (h : s.wf = true) : (nmBad s).wf = true :=
  cnt_wf h

/-! ### The operations of Keystone -/

theorem withKey_wf {s : State} {f : KeyState → KeyState} (h : s.wf = true) : (State.withKey s f).wf = true :=
  wf_same h

theorem setPair_wf {off n : Nat} {v : Bool} {s : State} (h : s.wf = true) : (setPair off n v s).wf = true :=
  sb_wf h

theorem showLog_wf {s : State} (h : s.wf = true) : (showLog s).wf = true :=
  foldl_wf (fun h => wr_wf (wr_wf h)) h

theorem keyLog_wf {src sub flags : Nat} {s : State} (h : s.wf = true) : (keyLog src sub flags s).wf = true :=
  showLog_wf (withKey_wf h)

theorem clearLockout_wf {src : Nat} {s : State} (h : s.wf = true) : (clearLockout src s).wf = true :=
  setPair_wf (withKey_wf h)

theorem clearLockouts_wf {s : State} (h : s.wf = true) : (clearLockouts s).wf = true :=
  foldl_wf clearLockout_wf h

theorem falseWake_wf {src : Nat} {s : State} (h : s.wf = true) : (falseWake src s).wf = true := by
  unfold falseWake
  dsimp only
  split
  · exact when_wf (fun h => raise_wf (cnt_wf (setPair_wf h))) (withKey_wf h)
  · exact withKey_wf h

theorem keyValidate_wf {srcs : List Nat} {s : State} (h : s.wf = true) : (keyValidate srcs s).wf = true :=
  ite_wf (showLog_wf (foldl_wf (fun h => clearLockout_wf (withKey_wf h)) (raise_wf (sb_wf (sb_wf h))))) h

theorem validNow_wf {s : State} (h : s.wf = true) : (validNow s).wf = true :=
  keyValidate_wf h

theorem keyWindow_wf {s : State} (h : s.wf = true) : (keyWindow s).wf = true :=
  validNow_wf (sb_wf (withKey_wf h))

theorem powerUp_wf {first : Nat × Nat} {more : List (Nat × Nat)} {s : State} (h : s.wf = true) :
    (powerUp first more s).wf = true :=
  wf_same (when_wf clearLockouts_wf (withKey_wf (cnt_wf (sb_wf
    (cntF_wf (foldl_wf setPair_wf (setPair_wf (wr_wf (wr_wf (wr_wf h))))))))))

theorem powerOnFirst_wf {s : State} (h : s.wf = true) : (powerOnFirst s).wf = true :=
  ite_wf (withKey_wf (keyLog_wf h)) h

theorem keyFire_wf {src sub : Nat} {s : State} (h : s.wf = true) : (keyFire src sub s).wf = true :=
  ite_wf h (ite_wf (share (fun h2 => ite_wf (powerUp_wf h2) (withKey_wf h2))
    (unless_wf keyLog_wf (powerOnFirst_wf h))) (ite_wf (withKey_wf (when_wf clearLockouts_wf (cnt_wf (keyLog_wf h))))
    (unless_wf (fun h => ite_wf (localWake_wf (raise_wf h)) (raise_wf h))
    (when_wf keyValidate_wf (withKey_wf (when_wf clearLockouts_wf (setPair_wf (keyLog_wf h))))))))

theorem beginOff_wf {s : State} (h : s.wf = true) : (beginOff s).wf = true :=
  ite_wf h (raise_wf (sb_wf (sb_wf (withKey_wf h))))

/-! ### The commands of the CAN and LIN channels -/

theorem endAbort_wf {ch i : Nat} {s : State} (h : s.wf = true) : (endAbort ch i s).wf = true :=
  endRunning_wf h

theorem execIntegrationDone_keeps {ch : Nat} {s : State} : Keeps s (execIntegrationDone ch s) :=
  act_keeps (fun h => ite_wf (gwyReport_wf (setCanState_wf h)) h)

theorem execBusOffExit_keeps {ch : Nat} {s : State} : Keeps s (execBusOffExit ch s) :=
  act_keeps (fun h => ite_wf (gwyReport_wf (clnEvent_wf (setErr_wf (setCanState_wf h)))) h)

theorem lostArbitration_wf {ch : Nat} {s : State} (h : s.wf = true) : (lostArbitration ch s).wf = true := by
  unfold lostArbitration
  split
  · exact h
  · exact ite_wf (endAbort_wf (setBuf_wf h)) (setBuf_wf h)

theorem recAfter_wf {ch : Nat} {s : State} (h : s.wf = true) : (recAfter ch s).wf = true :=
  ite_wf (setErr_wf (State.free_wf h)) (setErr_wf h)

theorem recError_wf {ch : Nat} {alt : Bool} {s : State} (h : s.wf = true) : (recError ch alt s).wf = true :=
  ite_wf (setErr_wf h) h

theorem canDeliver_wf {ch t : Nat} {f : Can} {s : State} (h : s.wf = true) : (canDeliver ch t f s).wf = true := by
  unfold canDeliver
  dsimp only
  split
  · exact ite_wf (canCount_wf h) (ite_wf (keyValidate_wf (canCount_wf (clnRecord_wf h))) (clnRecord_wf h))
  · exact ite_wf (ite_wf (keyValidate_wf (canCount_wf (clnRecord_wf h))) (clnRecord_wf h)) (canCount_wf h)

theorem errorFrame_wf {ch : Nat} {part : Bool} {s : State} (h : s.wf = true) : (errorFrame ch part s).wf = true :=
  ite_wf (busSend_wf h) h

theorem canTake_wf {ch t : Nat} {f : Can} {s : State} (h : s.wf = true) : (canTake ch t f s).wf = true :=
  ite_wf (unless_wf canDeliver_wf (ite_wf (recAfter_wf (busSend_wf h)) h))
    (recError_wf (errorFrame_wf (canCount_wf h)))

theorem execCanFrameReceived_keeps {ch fmt id : Nat} {ide rr esi : Bool} {data : List Byte} {sdt vcid : Nat}
    {sec : Bool} {af ago : Nat} {s : State} :
    Keeps s (execCanFrameReceived ch fmt id ide rr esi data sdt vcid sec af ago s) :=
  act_keeps (fun h => ite_wf h (gwyReport_wf (frameEnded_wf (ite_wf (canTake_wf (lostArbitration_wf h)) h))))

theorem execCanTxStart_keeps {sof : Nat × Bool} {s : State} : Keeps s (execCanTxStart sof s) := by
  unfold execCanTxStart
  refine act_keeps (fun h => ite_wf h (ite_wf (setBusy_wf h) (ite_wf ?_ h)))
  split
  · exact h
  · exact setBuf_wf h

theorem measureDelay_wf {ch fmt : Nat} {s : State} (h : s.wf = true) : (measureDelay ch fmt s).wf = true :=
  ite_wf h (sf_wf (State.free_wf h))

theorem execCanTxDone_keeps {ch : Nat} {s : State} : Keeps s (execCanTxDone ch s) := by
  refine act_keeps (fun h => ite_wf h ?_)
  split
  · exact h
  · exact gwyReport_wf (frameEnded_wf (when_wf endAbort_wf (setErr_wf
      (setBuf_wf (measureDelay_wf (busSend_wf (canCount_wf h)))))))

theorem countCollision_wf {ch i : Nat} {s : State} (h : s.wf = true) : (countCollision ch i s).wf = true :=
  ite_wf (setBuf_wf h) (clnEvent_wf (canCount_wf (wr_wf (setBuf_wf h))))

theorem busOff_wf {ch : Nat} {s : State} (h : s.wf = true) : (busOff ch s).wf = true :=
  when_wf setCanState_wf (gwyReport_wf (clnEvent_wf (canCount_wf (setCanState_wf h))))

theorem txError_wf {ch i kind at_ : Nat} {alt : Bool} {s : State} (h : s.wf = true) :
    (txError ch i kind at_ alt s).wf = true :=
  when_wf busOff_wf (unless_wf setErr_wf (when_wf endAbort_wf
    (when_wf (fun h => clnEvent_wf (canCount_wf h)) (errorFrame_wf
    (setBuf_wf (when_wf measureDelay_wf (ite_wf (countCollision_wf h) h)))))))

theorem rxError_wf {ch kind at_ : Nat} {alt : Bool} {s : State} (h : s.wf = true) :
    (rxError ch kind at_ alt s).wf = true :=
  recError_wf (errorFrame_wf (ite_wf (busSend_wf h) h))

theorem errorEnded_wf {ch : Nat} {s : State} (h : s.wf = true) : (errorEnded ch s).wf = true :=
  gwyReport_wf (frameEnded_wf (ite_wf (canCount_wf h) h))

theorem execCanBusError_keeps {ch kind at_ : Nat} {alt : Bool} {s : State} :
    Keeps s (execCanBusError ch kind at_ alt s) := by
  refine act_keeps (fun h => ite_wf h (ite_wf (gwyReport_wf (frameEnded_wf h)) ?_))
  dsimp only
  split
  · exact errorEnded_wf (rxError_wf (canCount_wf h))
  · exact errorEnded_wf (txError_wf (canCount_wf h))

theorem execTxScheduleTime_keeps {ch i : Nat} {s : State} : Keeps s (execTxScheduleTime ch i s) :=
  act_keeps (fun h => ite_wf (setBuf_wf (ite_wf (canLate_wf h) h)) h)

theorem execTxCycleOccurrence_keeps {ch i : Nat} {s : State} : Keeps s (execTxCycleOccurrence ch i s) :=
  act_keeps (fun h => ite_wf (ite_wf (clnEvent_wf (canCount_wf (setBuf_wf h))) (setBuf_wf h)) h)

theorem execTxdTimeout_keeps {ch : Nat} {s : State} : Keeps s (execTxdTimeout ch s) :=
  act_keeps (fun h => ite_wf (clnEvent_wf (canCount_wf h)) h)

theorem canWoke_wf {ch sub : Nat} {s : State} (h : s.wf = true) : (canWoke ch sub s).wf = true :=
  keyFire_wf (ite_wf (clnEvent_wf h) h)

theorem execCanWakeDetect_keeps {ch what : Nat} {ide : Bool} {id : Nat} {data : Nat × List Byte} {s : State} :
    Keeps s (execCanWakeDetect ch what ide id data s) :=
  ite_keeps (next_keeps fun h => h) (ite_keeps (next_keeps fun h => ite_wf (canWoke_wf h) h)
    (ite_keeps (next_keeps fun h => h) (ite_keeps (next_keeps fun h => ite_wf (canWoke_wf (withCln_wf h))
    (withCln_wf h)) (ite_keeps (next_keeps fun h => ite_wf (canWoke_wf (withCln_wf h)) (withCln_wf h))
    (next_keeps fun h => h)))))

theorem startSlot_wf {m first last i t : Nat} {s : State} (h : s.wf = true) :
    (startSlot m first last i t s).wf = true :=
  linHeader_wf (setRun_wf h)

theorem execLinSlotStart_keeps {m : Nat} {s : State} : Keeps s (execLinSlotStart m s) := by
  refine act_keeps (fun h => ite_wf h ?_)
  split
  · exact linGoToSleep_wf h
  · exact setLinState_wf (setNext_wf (setRun_wf h))
  · exact ite_wf (startSlot_wf (setLinState_wf (setNext_wf h))) h
  · split
    · exact startSlot_wf h
    · exact h

theorem linOk_wf {m : Nat} {s : State} (h : s.wf = true) : (linOk m s).wf = true :=
  keyValidate_wf (linCount_wf h)

theorem linErrors_wf {m flags : Nat} {s : State} (h : s.wf = true) : (linErrors m flags s).wf = true :=
  foldl_wf linCount_wf (ite_wf h (clnEvent_wf h))

theorem execLinSlotEnd_keeps {m : Nat} {data : List Byte} {chk : Option Nat} {framing bitErr : Bool} {s : State} :
    Keeps s (execLinSlotEnd m data chk framing bitErr s) := by
  refine act_keeps (fun h => ?_)
  split
  · exact h
  · refine when_wf (fun h => endRunning_wf (gwyReport_wf (setLinState_wf h))) ?_
    split
    · exact unless_wf linOk_wf (when_wf linCount_wf (withCln_wf h))
    · exact when_wf linOk_wf (clnRecord_wf (linErrors_wf (when_wf linCount_wf (withCln_wf h))))

theorem execLinWakeDetect_keeps {m : Nat} {s : State} : Keeps s (execLinWakeDetect m s) := by
  refine ite_keeps (next_keeps fun h => h) ?_
  split
  · exact next_keeps fun h => ite_wf (ite_wf (keyFire_wf (clnEvent_wf (linCount_wf h))) (clnEvent_wf (linCount_wf h)))
      h
  · exact next_keeps fun h => ite_wf (keyFire_wf h) h

theorem execLinWakeDone_keeps {m : Nat} {s : State} : Keeps s (execLinWakeDone m s) :=
  act_keeps (fun h => ite_wf (endRunning_wf (gwyReport_wf (setLinState_wf h))) h)

theorem setMode_wf {ch mode trx : Nat} {s : State} (h : s.wf = true) : (setMode ch mode trx s).wf = true :=
  gwyReport_wf (changeMode_wf (sf_wf (sf_wf h)))

theorem canCtrl_wf {ch : Nat} {v : Word} {s : State} (h : s.wf = true) : Ans.wf (canCtrl ch v s) :=
  ite_ans trivial (setMode_wf (ite_wf (wr_wf h) h))

theorem linCtrl_wf {m : Nat} {v : Word} {s : State} (h : s.wf = true) : Ans.wf (linCtrl m v s) :=
  ite_ans trivial (share (fun h1 => gwyReport_wf (ite_wf (unless_wf setLinState_wf h1)
    (endRunning_wf (linOff_wf h1)))) (ite_wf (sb_wf h) (wr_wf h)))

theorem clnWrite_wf {off : Nat} {v : Word} {s : State} (h : s.wf = true) : OptAns.wf (clnWrite off v s) :=
  ite_optAns (ite_optAns (canCtrl_wf h) (ite_optAns (ite_optAns trivial h) trivial))
    (ite_optAns (ite_optAns (linCtrl_wf h) (ite_optAns (ite_ans h (ite_ans (wr_wf h) trivial)) trivial)) trivial)

theorem effClnCanConfig_wf {c : Cmd} {s : State} (h : s.wf = true) : CmdOut.wf (effClnCanConfig c s) := by
  refine guard_wf (guard_wf (guard_wf (guard_wf (guard_wf (guard_wf ?_)))))
  split
  · trivial
  · refine guard_wf ?_
    split
    · trivial
    · exact wr_wf (wr_wf (wr_wf (wr_wf (wr_wf h))))

theorem effClnCanMode_wf {c : Cmd} {s : State} (h : s.wf = true) : CmdOut.wf (effClnCanMode c s) :=
  guard_wf (guard_wf (guard_wf (guard_wf (when_wf stray_wf (setMode_wf h)))))

theorem effClnCanTxLoad_wf {c : Cmd} {s : State} (h : s.wf = true) : CmdOut.wf (effClnCanTxLoad c s) :=
  guard_wf (guard_wf (guard_wf (guard_wf (guard_wf (guard_wf (guard_wf
    (guard_wf (guard_wf (guard_wf (guard_wf (guard_wf (guard_wf (guard_wf (loadBuf_wf h))))))))))))))

theorem bufForm_wf {c : Cmd} {k : Nat → CmdOut} (hk : ∀ {n : Nat}, CmdOut.wf (k n)) : CmdOut.wf (bufForm c k) :=
  guard_wf (guard_wf hk)

theorem effClnCanTxAbort_wf {c : Cmd} {s : State} (h : s.wf = true) : CmdOut.wf (effClnCanTxAbort c s) :=
  bufForm_wf (guard_wf (ite_cmd (setBuf_wf h) (ite_cmd (setBuf_wf h) h)))

theorem effClnCanTxStatus_wf {c : Cmd} {s : State} (h : s.wf = true) : CmdOut.wf (effClnCanTxStatus c s) :=
  bufForm_wf h

theorem effClnCanFilter_wf {c : Cmd} {s : State} (h : s.wf = true) : CmdOut.wf (effClnCanFilter c s) :=
  guard_wf (guard_wf (guard_wf (guard_wf (guard_wf (guard_wf (withCln_wf h))))))

theorem effClnCanRecover_wf {c : Cmd} {s : State} (h : s.wf = true) : CmdOut.wf (effClnCanRecover c s) :=
  ite_cmd (setCanState_wf h) trivial

theorem effClnCanWakeCfg_wf {c : Cmd} {s : State} (h : s.wf = true) : CmdOut.wf (effClnCanWakeCfg c s) :=
  guard_wf (guard_wf (guard_wf (guard_wf (guard_wf (guard_wf (withCln_wf h))))))

theorem effClnCanCounters_wf {c : Cmd} {s : State} (h : s.wf = true) : CmdOut.wf (effClnCanCounters c s) :=
  h

theorem effClnLinConfig_wf {c : Cmd} {s : State} (h : s.wf = true) : CmdOut.wf (effClnLinConfig c s) :=
  guard_wf (guard_wf (guard_wf (guard_wf (guard_wf (wr_wf (wr_wf h))))))

/-- A fault of a schedule changes nothing. -/
theorem schedFault_wf {c : Cmd} {s : State} {m start n k : Nat} {f : CmdOut}
    (hf : schedFault c s m start n k = some f) :
    CmdOut.wf f := by
  induction n generalizing k with
  | zero => cases hf
  | succ n ih =>
    unfold schedFault at hf
    dsimp only at hf
    split at hf
    · cases hf
      trivial
    split at hf
    · cases hf
      trivial
    split at hf
    · cases hf
      trivial
    split at hf
    · cases hf
      trivial
    split at hf
    · cases hf
      trivial
    · exact ih hf

theorem effClnLinSchedLoad_wf {c : Cmd} {s : State} (h : s.wf = true) : CmdOut.wf (effClnLinSchedLoad c s) := by
  refine guard_wf (guard_wf (guard_wf (guard_wf ?_)))
  have put {l : List Nat} {f : Nat → ClnState → ClnState} :
      (l.foldl (fun s k => s.withCln (f k)) s).wf = true := foldl_wf withCln_wf h
  split
  case h_1 hf => exact schedFault_wf hf
  case h_2 =>
    dsimp only
    split
    · exact guard_wf put
    · exact put

theorem effClnLinRun_wf {c : Cmd} {s : State} (h : s.wf = true) : CmdOut.wf (effClnLinRun c s) :=
  guard_wf (guard_wf (guard_wf (guard_wf (guard_wf (guard_wf (guard_wf
    (guard_wf (guard_wf (ite_cmd (ite_cmd h (setNext_wf h)) (setNext_wf h))))))))))

theorem effClnLinData_wf {c : Cmd} {s : State} (h : s.wf = true) : CmdOut.wf (effClnLinData c s) :=
  guard_wf (guard_wf (guard_wf (setPublish_wf h)))

theorem effClnLinPower_wf {c : Cmd} {s : State} (h : s.wf = true) : CmdOut.wf (effClnLinPower c s) :=
  guard_wf (ite_cmd (guard_wf (ite_cmd (linGoToSleep_wf h) (setNext_wf h)))
    (ite_cmd (ite_cmd (busSend_wf h) trivial) trivial))

theorem effClnLinCounters_wf {c : Cmd} {s : State} (h : s.wf = true) : CmdOut.wf (effClnLinCounters c s) :=
  h

/-! ### The commands of the lockstep safety domains and their output ports -/

theorem execLockstepMismatch_keeps {d iface : Nat} {pc : Word} {s : State} :
    Keeps s (execLockstepMismatch d iface pc s) :=
  act_keeps (fun h => ite_wf h (domFault_wf h))

theorem execFaultResetTimeout_keeps {d : Nat} {s : State} : Keeps s (execFaultResetTimeout d s) :=
  act_keeps (fun h => ite_wf (domHeld_wf h) h)

theorem onWords_keeps {cope drag : List Word} {o : Out} {s : State} (ho : Keeps s o) :
    Keeps s (onWords cope drag o s) :=
  ite_keeps ho (next_keeps fun h => h)

theorem execSyncCheckPeriodic_keeps {d : Nat} {cope drag : List Word} {s : State} :
    Keeps s (execSyncCheckPeriodic d cope drag s) :=
  onWords_keeps (act_keeps fun h => ite_wf (syncCheck_wf h) h)

theorem copiesStop_wf {d cause : Nat} {s : State} (h : s.wf = true) : (copiesStop d cause s).wf = true :=
  setDomInfo_wf (setCopies_wf (wf_same h))

theorem debugStop_wf {d : Nat} {s : State} (h : s.wf = true) : (debugStop d s).wf = true :=
  setDom_wf (copiesStop_wf h)

theorem debugGo_wf {d : Nat} {cope drag : List Word} {s : State} (h : s.wf = true) :
    (debugGo d cope drag s).wf = true :=
  ite_wf (setDom_wf (copiesStop_wf (syncCheck_wf (setDom_wf h)))) (syncCheck_wf (setDom_wf h))

theorem execDebugHalt_keeps {d : Nat} {s : State} : Keeps s (execDebugHalt d s) :=
  act_keeps (fun h => ite_wf (debugStop_wf h) h)

theorem execDebugResume_keeps {d : Nat} {cope drag : List Word} {s : State} :
    Keeps s (execDebugResume d cope drag s) :=
  onWords_keeps (act_keeps fun h => ite_wf (debugGo_wf h) h)

theorem execActivation_keeps {d k : Nat} {s : State} : Keeps s (execActivation d k s) :=
  act_keeps (fun h => ite_wf h (share (fun h1 => ite_wf (actEnable_wf h1) (setActNext_wf h1))
    (ite_wf (raise_wf (cnt_wf h)) (sb_wf h))))

theorem portDiscard_wf {d why : Nat} {s : State} (h : s.wf = true) : (portDiscard d why s).wf = true :=
  sf_wf (cnt_wf h)

theorem portSend_wf {d : Nat} {f : OFrame} {s : State} (h : s.wf = true) : (portSend d f s).wf = true :=
  ite_wf (portDiscard_wf h) (share (fun h1 => portPump_wf (setPortQueue_wf (ite_wf (wr_wf h1) (wr_wf h1))))
    (cnt_wf h))

theorem oSend_wf {d : Nat} {v : Word} {s : State} (h : s.wf = true) : (oSend d v s).wf = true := by
  refine ite_wf (cnt_wf h) (ite_wf (portDiscard_wf h) ?_)
  split
  · exact ite_wf (wr_wf (cnt_wf h)) (portSend_wf h)
  · exact ite_wf (portSend_wf h) (portDiscard_wf h)
  · exact portDiscard_wf h

theorem portWrite_keeps {m d off : Nat} {f : State → Ans} {s : State}
    (hf : ∀ {t : State}, t.wf = true → Ans.wf (f t)) : Keeps s (portWrite m d off f s) :=
  fabricAct_keeps (fun h => ite_wf h (ite_wf (refuse_wf h) (ite_wf (settle_wf h (hf h)) (drop_wf h))))

theorem execOSend_keeps {m d : Nat} {v : Word} {s : State} : Keeps s (execOSend m d v s) :=
  portWrite_keeps (fun h => ite_ans (oSend_wf h) trivial)

theorem portGo_wf {d : Nat} {s : State} (h : s.wf = true) : (portGo d s).wf = true :=
  ite_wf (setPort_wf h) h

theorem portRejoin_wf {d : Nat} {s : State} (h : s.wf = true) : (portRejoin d s).wf = true :=
  ite_wf (setPort_wf h) h

theorem execOCtrlGo_keeps {m d : Nat} {s : State} : Keeps s (execOCtrlGo m d s) :=
  portWrite_keeps portGo_wf

theorem execOCtrlRejoin_keeps {m d : Nat} {s : State} : Keeps s (execOCtrlRejoin m d s) :=
  portWrite_keeps portRejoin_wf

theorem oCtrlWrite_keeps {m d : Nat} {v : Word} {s : State} : Keeps s (oCtrlWrite m d v s) :=
  portWrite_keeps (fun h => ite_ans trivial (when_wf portRejoin_wf (ite_wf (portGo_wf h) h)))

theorem execStatusFrameSend_keeps {d : Nat} {bad : Bool} {s : State} : Keeps s (execStatusFrameSend d bad s) :=
  act_keeps (fun h => ite_wf h (ite_wf (injectFault_wf h) (unless_wf (fun h => sb_wf (sb_wf (wr_wf h)))
    (portStatus_wf h))))

theorem execMirrorLost_keeps {d : Nat} {s : State} : Keeps s (execMirrorLost d s) :=
  act_keeps (fun h => ite_wf h (when_wf (fun h => setPort_wf (setPortQueue_wf h)) (cnt_wf (sb_wf (sb_wf h)))))

theorem lscWrite_wf {off : Nat} {v : Word} {s : State} (h : s.wf = true) : OptAns.wf (lscWrite off v s) := by
  refine ite_optAns trivial (ite_optAns (ite_ans (wr_wf h) trivial)
    (ite_optAns (ite_optAns trivial trivial) (ite_optAns ?_ (ite_optAns (ite_optAns trivial h) trivial))))
  dsimp only
  split
  · exact ite_wf (ite_wf h (actEnable_wf h)) (actEnable_wf (wr_wf h))
  · exact ite_optAns h (ite_optAns trivial trivial)
  · exact ite_optAns h trivial
  · exact ite_optAns h (ite_optAns trivial trivial)

theorem effLscStatus_wf {c : Cmd} {s : State} (h : s.wf = true) : CmdOut.wf (effLscStatus c s) :=
  h

theorem effLscSetCfg_wf {c : Cmd} {s : State} (h : s.wf = true) : CmdOut.wf (effLscSetCfg c s) :=
  guard_wf (guard_wf (guard_wf (guard_wf (wr_wf (wr_wf h)))))

theorem cmdSync_wf {d : Nat} {cope drag : List Word} {s : State} {k : State → CmdOut} (h : s.wf = true)
    (hk : ∀ {t : State}, t.wf = true → CmdOut.wf (k t)) : CmdOut.wf (cmdSync d cope drag s k) :=
  ite_cmd (hk (syncCheck_wf h)) (syncCheck_wf h)

theorem wrongDom_wf {s : State} {d : Nat} : CmdOut.wf (wrongDom s d) :=
  trivial

theorem effLscRelease_wf {cope drag : List Word} {c : Cmd} {s : State} (h : s.wf = true) :
    CmdOut.wf (effLscRelease cope drag c s) :=
  ite_cmd wrongDom_wf (guard_wf (cmdSync_wf h setDom_wf))

theorem effLscSyncCheck_wf {cope drag : List Word} {c : Cmd} {s : State} (h : s.wf = true) :
    CmdOut.wf (effLscSyncCheck cope drag c s) :=
  ite_cmd wrongDom_wf (cmdSync_wf h (fun h => h))

theorem splitCore_wf {d : Nat} {s : State} (h : s.wf = true) : (splitCore d s).wf = true :=
  setDomInfo_wf (setCopies_wf h)

theorem effLscSplit_wf {hit : Option (Nat × Word)} {c : Cmd} {s : State} (h : s.wf = true) :
    CmdOut.wf (effLscSplit hit c s) := by
  refine ite_cmd wrongDom_wf (guard_wf (guard_wf ?_))
  split
  · exact domFault_wf (setDom_wf h)
  · exact splitCore_wf (setDom_wf h)

theorem effLscJoin_wf {cope drag : List Word} {c : Cmd} {s : State} (h : s.wf = true) :
    CmdOut.wf (effLscJoin cope drag c s) :=
  ite_cmd wrongDom_wf (cmdSync_wf (setCopies_wf h) setDom_wf)

theorem effLscRestart_wf {c : Cmd} {s : State} (h : s.wf = true) : CmdOut.wf (effLscRestart c s) :=
  ite_cmd wrongDom_wf (setDom_wf (setDomInfo_wf h))

theorem effLscInject_wf {c : Cmd} {s : State} (h : s.wf = true) : CmdOut.wf (effLscInject c s) :=
  ite_cmd wrongDom_wf (guard_wf (setDomInfo_wf h))

theorem effLscActCfg_wf {c : Cmd} {s : State} (h : s.wf = true) : CmdOut.wf (effLscActCfg c s) :=
  guard_wf (guard_wf (guard_wf (guard_wf (guard_wf (guard_wf (ite_cmd (ite_cmd (actEnable_wf h) trivial)
    (actEnable_wf (wr_wf (wr_wf (wr_wf (wr_wf h)))))))))))

theorem execLscRelease_keeps {ring slot : Nat} {cope drag : List Word} {s : State} :
    Keeps s (execLscRelease ring slot cope drag s) :=
  onWords_keeps (opRow_keeps effLscRelease_wf)

theorem execLscSyncCheck_keeps {ring slot : Nat} {cope drag : List Word} {s : State} :
    Keeps s (execLscSyncCheck ring slot cope drag s) :=
  onWords_keeps (opRow_keeps effLscSyncCheck_wf)

theorem execLscJoin_keeps {ring slot : Nat} {cope drag : List Word} {s : State} :
    Keeps s (execLscJoin ring slot cope drag s) :=
  onWords_keeps (opRow_keeps effLscJoin_wf)

/-! ### The cluster control region -/

theorem sampleLevels_wf {s : State} (h : s.wf = true) : (sampleLevels s).wf = true :=
  withCpu_wf h

theorem dmSet_wf {n : Nat} {f : Hart → Hart} {s : State} (h : s.wf = true) : (dmSet n f s).wf = true :=
  withCpu_wf h

theorem hartRuns_wf {n : Nat} {s : State} (h : s.wf = true) : (hartRuns n s).wf = true :=
  dmSet_wf (wf_same h)

theorem splitStop_wf {n cause : Nat} {s : State} (h : s.wf = true) : (splitStop n cause s).wf = true :=
  share (fun h1 => ite_wf (setDomInfo_wf h1) (setDomInfo_wf h1)) (wf_same h)

theorem dmHalt_wf {n : Nat} {s : State} (h : s.wf = true) : (dmHalt n s).wf = true :=
  ite_wf h (ite_wf (dmSet_wf h) (ite_wf (splitStop_wf h) (debugStop_wf h)))

theorem dmResume_wf {n : Nat} {s : State} (h : s.wf = true) : (dmResume n s).wf = true :=
  unless_wf (fun h => ite_wf (ite_wf (dmSet_wf (hartRuns_wf h)) (dmSet_wf h))
    (ite_wf (ite_wf (splitStop_wf h) (ite_wf (setDomInfo_wf h) (setDomInfo_wf h))) (debugGo_wf h))) (dmSet_wf h)

theorem withDm_wf {s : State} {f : DebugModule → DebugModule} (h : s.wf = true) : (State.withDm s f).wf = true :=
  withCpu_wf h

theorem dmPut_wf {wide : Bool} {v : Nat} {s : State} (h : s.wf = true) : (dmPut wide v s).wf = true :=
  withDm_wf h

theorem domAnswer_wf {d : Nat} {same : Bool} {v : Nat} {s : State} (h : s.wf = true) :
    (domAnswer d same v s).wf = true :=
  ite_wf (injectFault_wf h) (ite_wf (dmPut_wf h) (domFault_wf h))

theorem domRead_wf {n regno : Nat} {s : State} (h : s.wf = true) : (domRead n regno s).wf = true := by
  unfold domRead
  dsimp only
  split
  · exact ite_wf (domAnswer_wf h) (dmPut_wf h)
  · exact ite_wf (domAnswer_wf h) (dmPut_wf h)

theorem domPut_wf {n regno : Nat} {v : Word} {s : State} (h : s.wf = true) : (domPut n regno v s).wf = true := by
  unfold domPut
  dsimp only
  split
  · exact setCopies_wf h
  · exact ite_wf h (ite_wf (setDomInfo_wf h) (setDomInfo_wf h))

theorem dmError_wf {n : Nat} {s : State} (h : s.wf = true) : (dmError n s).wf = true :=
  withDm_wf h

theorem dmRun_wf {n : Nat} {s : State} (h : s.wf = true) : (dmRun n s).wf = true :=
  ite_wf (hartRuns_wf h) (ite_wf (splitStop_wf h) (setCopies_wf (wf_same h)))

theorem dmCommand_wf {s : State} (h : s.wf = true) : (dmCommand s).wf = true :=
  ite_wf h (ite_wf (dmError_wf h) (ite_wf (dmError_wf h) (ite_wf (dmError_wf h)
    (ite_wf (dmError_wf h) (when_wf withDm_wf (when_wf dmRun_wf
    (ite_wf h (ite_wf (ite_wf (dmSet_wf h) (dmPut_wf h)) (ite_wf (domPut_wf h) (domRead_wf h))))))))))

theorem dmControl_wf {v : Word} {s : State} (h : s.wf = true) : (dmControl v s).wf = true :=
  ite_wf (withDm_wf h) (share (fun h2 => ite_wf (dmHalt_wf h2) (when_wf (fun h => dmResume_wf (dmSet_wf h)) h2))
    (when_wf dmSet_wf (withDm_wf h)))

theorem dmWrite_wf {r : Nat} {v : Word} {s : State} (h : s.wf = true) : (dmWrite r v s).wf = true := by
  refine ite_wf (dmControl_wf h) (ite_wf h ?_)
  split
  · exact withDm_wf h
  · exact ite_wf (dmCommand_wf (withDm_wf h)) h
  · exact withDm_wf h
  · exact ite_wf (dmCommand_wf (withDm_wf h)) (withDm_wf h)
  · exact ite_wf (dmCommand_wf (withDm_wf h)) (withDm_wf h)
  · exact ite_wf (dmCommand_wf (withDm_wf h)) (withDm_wf h)
  · exact ite_wf (dmCommand_wf (withDm_wf h)) (withDm_wf h)
  · exact h

theorem dmRead_wf {r : Nat} {s : State} (h : s.wf = true) : (dmRead r s).2.wf = true := by
  unfold dmRead
  dsimp only
  split
  · exact h
  · exact h
  · exact h
  · exact h
  · exact ite_wf (dmCommand_wf h) h
  · exact ite_wf (dmCommand_wf h) h
  · exact ite_wf (dmCommand_wf h) h
  · exact ite_wf (dmCommand_wf h) h
  · exact h
  · exact h

theorem clusterWord_wf {off : Nat} {v : Word} {s : State} (h : s.wf = true) : (clusterWord off v s).wf = true := by
  refine ite_wf (withCpu_wf h) (ite_wf (withCpu_wf h) (ite_wf (withMem_wf h ioWrite_mem) (ite_wf (dmWrite_wf h) ?_)))
  split
  · exact ite_wf (withCpu_wf h) h
  · exact h

theorem clusterReadWord_wf {off : Nat} {s : State} (h : s.wf = true) : (clusterReadWord off s).2.wf = true :=
  ite_snd h (ite_snd h (ite_snd h (ite_snd (dmRead_wf h) h)))

theorem clusterWords_wf {off : Nat} {l : List Byte} {s : State} (h : s.wf = true) :
    (clusterWords off l s).wf = true := by
  induction off, l, s using clusterWords.induct with
  | case1 off b0 b1 b2 b3 r s ih => exact ih (clusterWord_wf h)
  | case2 off l s hl =>
    unfold clusterWords
    split
    · exact absurd rfl (hl _ _ _ _ _)
    · exact h

theorem clusterWrite_wf {m a : Nat} {data : List Byte} {s : State} (h : s.wf = true) :
    (clusterWrite m a data s).wf = true :=
  ite_wf (refuse_wf h) (ite_wf (clusterWords_wf h) h)

theorem clusterRead_wf {off n : Nat} {s : State} (h : s.wf = true) : (clusterRead off n s).2.wf = true := by
  induction n generalizing off s with
  | zero => exact h
  | succ n ih => exact ih (clusterReadWord_wf h)

/-! ### The operations of the rule tables -/

theorem withRul_wf {s : State} {f : RulState → RulState} (h : s.wf = true) : (State.withRul s f).wf = true :=
  wf_same h

theorem rulCount_wf {off : Nat} {s : State} (h : s.wf = true) : (rulCount off s).wf = true :=
  cnt_wf h

theorem lookupFlow_wf {pour : Option Nat} {kb : List Word} {s : State} (h : s.wf = true) :
    (lookupFlow pour kb s).2.wf = true := by
  refine ite_snd (raise_wf (rulCount_wf (rulCount_wf h))) ?_
  split
  · exact rulCount_wf (rulCount_wf h)
  · exact rulCount_wf h

theorem lookupAcl_wf {pour : Option Nat} {kb : List Word} {s : State} (h : s.wf = true) :
    (lookupAcl pour kb s).2.wf = true := by
  unfold lookupAcl
  dsimp only
  split
  · exact rulCount_wf (rulCount_wf h)
  · exact rulCount_wf h

theorem verdictLoad_wf {pour : Option Nat} {i : Nat} {s : State} (h : s.wf = true) :
    (verdictLoad pour i s).2.wf = true := by
  unfold verdictLoad
  split
  · exact h
  · exact raise_wf (rulCount_wf h)

theorem showRul_wf {s : State} (h : s.wf = true) : (showRul s).wf = true :=
  foldl_wf wr_wf (wr_wf (wr_wf (wr_wf (ite_wf (raise_wf h) h))))

theorem sweepLog_wf {p : Nat} {s : State} (h : s.wf = true) : (sweepLog p s).wf = true := by
  unfold sweepLog
  exact raise_wf (showRul_wf (withRul_wf h))

/-! ### The operations of the traffic manager -/

theorem withTmg_wf {s : State} {f : TmgState → TmgState} (h : s.wf = true) : (State.withTmg s f).wf = true :=
  wf_same h

theorem showLists_wf {p : Nat} {hold : Bool} {s : State} (h : s.wf = true) : (showLists p hold s).wf = true :=
  sf_wf (sb_wf (sb_wf (sb_wf (sb_wf h))))

theorem beginCourse_wf {p i ends : Nat} {s : State} (h : s.wf = true) : (beginCourse p i ends s).wf = true := by
  unfold beginCourse
  split
  · exact h
  · exact showLists_wf (withTmg_wf h)

theorem applySwitch_wf {p : Nat} {w : Switch} {s : State} (h : s.wf = true) : (applySwitch p w s).wf = true := by
  refine raise_wf (cnt_wf ?_)
  split
  · exact showLists_wf (withTmg_wf (withTmg_wf h))
  · exact showLists_wf (withTmg_wf (withTmg_wf h))

theorem gatesReposition_wf {s : State} (h : s.wf = true) : (gatesReposition s).wf = true :=
  withTmg_wf h

theorem tmgReposition_wf {s : State} (h : s.wf = true) : (tmgReposition s).wf = true := by
  refine foldl_wf (fun {t p} h => ?_) (gatesReposition_wf h)
  extract_lets u
  have hu : u.wf = true := by
    unfold u
    split
    · exact ite_wf (applySwitch_wf h) h
    · exact h
  split
  · exact hu
  · exact ite_wf (withTmg_wf hu) (beginCourse_wf hu)

theorem setBucket_wf {k reg : Nat} {b : Bucket} {s : State} (h : s.wf = true) : (setBucket k reg b s).wf = true :=
  withTmg_wf (wr_wf h)

theorem debit_wf {q cnt : Nat} {s : State} (h : s.wf = true) : (debit q cnt s).wf = true := by
  unfold debit
  dsimp only
  split
  · exact ite_wf (setBucket_wf h) h
  · exact setBucket_wf (setBucket_wf (ite_wf (setBucket_wf h) h))

theorem showPreempt_wf {p : Nat} {s : State} (h : s.wf = true) : (showPreempt p s).wf = true :=
  ite_wf h (raise_wf (sb_wf h))

theorem restartVerify_wf {p : Nat} {s : State} (h : s.wf = true) : (restartVerify p s).wf = true :=
  showPreempt_wf (withTmg_wf (sf_wf h))

theorem setTx_wf {p : Nat} {c : Option Copy} {s : State} (h : s.wf = true) : (setTx p c s).wf = true :=
  withSwc_wf h

theorem preempt_wf {p : Nat} {s : State} (h : s.wf = true) : (preempt p s).wf = true := by
  unfold preempt
  split
  · exact ite_wf (setTx_wf h) h
  · exact h

theorem cutTx_wf {p : Nat} {c : Copy} {k : Nat} {s : State} (h : s.wf = true) : (cutTx p c k s).wf = true :=
  cnt_wf (setTx_wf (withSwc_wf h))

theorem cutNow_wf {p : Nat} {s : State} (h : s.wf = true) : (cutNow p s).wf = true := by
  unfold cutNow
  split
  · exact ite_wf (cutTx_wf h) h
  · exact h

theorem cutAtEnd_wf {p : Nat} {s : State} (h : s.wf = true) : (cutAtEnd p s).wf = true := by
  unfold cutAtEnd
  dsimp only
  split
  · exact cutTx_wf (preempt_wf h)
  · exact preempt_wf h

theorem igDeliver_wf {c : Copy} {f : Frame} {bs : List Byte} {bad : Bool} {s : State} (h : s.wf = true) :
    (igDeliver c f bs bad s).wf = true :=
  withEth_wf h

theorem tmgLink_wf {p : Nat} {s : State} (h : s.wf = true) : (tmgLink p s).wf = true :=
  share (fun h2 => ite_wf (showLists_wf h2) (foldl_wf (fun h => wf_same (wr_wf h)) h2)) (restartVerify_wf (sf_wf h))

theorem setPolicer_wf {i : Nat} {x : Policer} {s : State} (h : s.wf = true) : (setPolicer i x s).wf = true :=
  withTmg_wf h

theorem judge_wf {i : Nat} {f : Frame} {s : State} (h : s.wf = true) : (judge i f s).2.wf = true := by
  unfold judge
  exact ite_snd h (ite_snd (when_wf raise_wf (setPolicer_wf h))
    (ite_snd (setPolicer_wf h) (ite_snd (setPolicer_wf h) (ite_snd (setPolicer_wf h) (setPolicer_wf h)))))

/-! ### The operations of the Ethernet ports -/

theorem ethCount_wf {p off : Nat} {s : State} (h : s.wf = true) : (ethCount p off s).wf = true :=
  cnt_wf h

theorem setPhy_wf {p v : Nat} {s : State} (h : s.wf = true) : (setPhy p v s).wf = true :=
  sf_wf h

theorem reportPort_wf {p : Nat} {s0 s : State} (h : s.wf = true) : (reportPort p s0 s).wf = true :=
  ite_wf (tmgLink_wf h) (ite_wf (tmgLink_wf (swcLinkDown_wf h)) (tmgLink_wf h))

theorem dropLink_wf {p v : Nat} {s : State} (h : s.wf = true) : (dropLink p v s).wf = true :=
  when_wf (fun h => reportPort_wf (ethEvent_wf h)) (withEth_wf (sf_wf (sb_wf (sf_wf (sb_wf h)))))

theorem fallBack_wf {p k : Nat} {s : State} (h : s.wf = true) : (fallBack p k s).wf = true :=
  ethEvent_wf (sf_wf (setPhy_wf (ethCount_wf h)))

theorem setProbed_wf {p : Nat} {b : Bool} {s : State} (h : s.wf = true) : (setProbed p b s).wf = true :=
  withEth_wf h

theorem startPhy_wf {p : Nat} {s : State} (h : s.wf = true) : (startPhy p s).wf = true :=
  share (fun h1 => ite_wf (ite_wf (setPhy_wf h1) (fallBack_wf h1)) (setPhy_wf h1)) (setProbed_wf (sb_wf h))

theorem setPodl_wf {p v : Nat} {s : State} (h : s.wf = true) : (setPodl p v s).wf = true :=
  sb_wf (sf_wf h)

theorem setRetry_wf {p : Nat} {b : Bool} {s : State} (h : s.wf = true) : (setRetry p b s).wf = true :=
  withEth_wf h

theorem setAsleep_wf {p : Nat} {b : Bool} {s : State} (h : s.wf = true) : (setAsleep p b s).wf = true :=
  withEth_wf h

theorem podlStart_wf {p : Nat} {s : State} (h : s.wf = true) : (podlStart p s).wf = true :=
  share (fun h1 => ite_wf (setAsleep_wf h1) (setPodl_wf (setAsleep_wf h1))) (setRetry_wf h)

theorem podlSleep_wf {p : Nat} {s : State} (h : s.wf = true) : (podlSleep p s).wf = true :=
  ite_wf (setAsleep_wf (setPodl_wf h)) h

theorem setPodlCfg_wf {p : Nat} {v : Word} {s : State} (h : s.wf = true) : (setPodlCfg p v s).wf = true :=
  share (fun h1 => ite_wf (ite_wf (podlStart_wf h1) (when_wf podlSleep_wf h1))
    (setAsleep_wf (setRetry_wf (sf_wf (setPodl_wf h1))))) (wr_wf h)

theorem podlWake_wf {p : Nat} {s : State} (h : s.wf = true) : (podlWake p s).wf = true :=
  ite_wf (podlStart_wf (setAsleep_wf h)) h

theorem setPortCtrl_wf {p : Nat} {v : Word} {s : State} (h : s.wf = true) : (setPortCtrl p v s).wf = true :=
  unless_wf reportPort_wf
    (unless_wf (fun h => ite_wf (startPhy_wf h) (when_wf (fun h => podlWake_wf (dropLink_wf h)) h)) (wr_wf h))

theorem stopRx_wf {p k : Nat} {s : State} (h : s.wf = true) : (stopRx p k s).wf = true := by
  unfold stopRx
  split
  · exact ite_wf h (ethEvent_wf (setRxSa_wf h))
  · exact h

theorem stopTx_wf {p a : Nat} {s : State} (h : s.wf = true) : (stopTx p a s).wf = true := by
  unfold stopTx
  split
  · exact ite_wf h (ethEvent_wf (setTxSa_wf h))
  · exact h

theorem tookPn_wf {p k pn : Nat} {s : State} (h : s.wf = true) : (tookPn p k pn s).wf = true := by
  unfold tookPn
  split
  · exact when_wf stopRx_wf (setRxSa_wf h)
  · exact h

theorem macsecRx_wf {p : Nat} {bs : List Byte} {s : State} (h : s.wf = true) : (macsecRx p bs s).2.wf = true := by
  refine ite_snd h (ite_snd h ?_)
  split
  · exact ethCount_wf h
  dsimp only
  split
  · exact ethCount_wf h
  split
  · exact ethCount_wf h
  case h_2 x _ =>
    have hu := useKey_wf (n := x.slot) h
    refine ite_snd (ethCount_wf h) (ite_snd (ethCount_wf h) ?_)
    split
    case h_1 hk =>
      rw [hk] at hu
      split
      · exact ethEvent_wf (ethCount_wf hu)
      · exact tookPn_wf hu
    case h_2 hk _ =>
      rw [hk] at hu
      exact ethCount_wf (stopRx_wf hu)

theorem macsecTx_wf {p : Nat} {an : Option Nat} {bs : List Byte} {s : State} (h : s.wf = true) :
    (macsecTx p an bs s).2.wf = true := by
  refine ite_snd h ?_
  split
  · exact ethCount_wf h
  case h_2 x _ =>
    have hu := useKey_wf (n := x.slot) h
    refine ite_snd (ethCount_wf h) ?_
    split
    case h_1 hk =>
      rw [hk] at hu
      exact when_wf stopTx_wf (when_wf ethEvent_wf (setTxSa_wf hu))
    case h_2 hk _ =>
      rw [hk] at hu
      exact ethCount_wf (stopTx_wf hu)

theorem stampTx_wf {p sec ns frac tag : Nat} {s : State} (h : s.wf = true) :
    (stampTx p sec ns frac tag s).wf = true :=
  ite_wf (withEth_wf h) (ethEvent_wf (cntF_wf h))

theorem icPut_wf {n a : Nat} {data : List Byte} {s : State} (h : s.wf = true) : (icPut n a data s).wf = true :=
  putAll_wf h

theorem icRead_wf {n a len : Nat} {s : State} (h : s.wf = true) : (icRead n a len s).wf = true :=
  readOut_wf h

theorem icNotice_wf {n : Nat} {s : State} (h : s.wf = true) : (icNotice n s).wf = true :=
  pulse_wf (wf_same h)

theorem icDrop_wf {n : Nat} {s : State} (h : s.wf = true) : (icDrop n s).wf = true :=
  raise_wf (cnt_wf h)

theorem icDeliver_wf {n : Nat} {bs : List Byte} {x : IcInfo} {s : State} (h : s.wf = true) :
    (icDeliver n bs x s).wf = true := by
  refine ite_wf (icDrop_wf h) ?_
  split
  · exact icDrop_wf (devFault_wf h)
  · dsimp only
    split
    · exact icDrop_wf (devFault_wf h)
    · exact icNotice_wf (wr_wf (icPut_wf (icPut_wf (icRead_wf h))))

/-! ### The commands of the Ethernet ports -/

theorem passFrame_wf {p : Nat} {bs : List Byte} {macsec : Nat} {t : Nat × Nat} {frac : Nat} {s : State}
    (h : s.wf = true) : (passFrame p bs macsec t frac s).wf = true :=
  ite_wf (ite_wf (icDeliver_wf h) (wf_same h)) (storeFrame_wf (ethCount_wf h))

theorem checkFrame_wf {p : Nat} {wire : List Byte} {t : Nat × Nat} {frac : Nat} {s : State} (h : s.wf = true) :
    (checkFrame p wire t frac s).wf = true := by
  unfold checkFrame
  dsimp only
  split
  · exact passFrame_wf (macsecRx_wf h)
  · exact macsecRx_wf h

theorem execFrameReceive_keeps {p : Nat} {wire : List Byte} {ago : Nat} {s : State} :
    Keeps s (execFrameReceive p wire ago s) :=
  act_keeps (fun h => ite_wf h (ite_wf (ethCount_wf h) (ite_wf (ethCount_wf h)
    (ite_wf (ethCount_wf h) (ite_wf (ite_wf (withEth_wf h) h) (checkFrame_wf h))))))

theorem doShared_wf {s : State} (h : s.wf = true) : (doShared s).wf = true := by
  unfold doShared
  split
  · exact h
  · exact checkFrame_wf (withEth_wf h)
  · exact withEth_wf h

theorem deliver_wf {c : Copy} {f : Frame} {bs : List Byte} {bad : Bool} {s : State} (h : s.wf = true) :
    (deliver c f bs bad s).wf = true :=
  ite_wf (icDeliver_wf h) (ite_wf (igDeliver_wf h) (wf_same h))

theorem sendCopy_wf {c : Copy} {f : Frame} {bs : List Byte} {bad : Bool} {ago : Nat} {s : State} (h : s.wf = true) :
    (sendCopy c f bs bad ago s).wf = true :=
  when_wf stampTx_wf (swcCount_wf (when_wf ethCount_wf (withSwc_wf h)))

/-- A copy that leaves a port of the gateway, or one on the line behind MACsec. -/
theorem transmitted_wf {p : Nat} {bad : Option Nat} {ago : Nat} {s : State} (h : s.wf = true) :
    (transmitted p bad ago s).wf = true := by
  unfold transmitted
  extract_lets u
  have hc : u.wf = true := cutAtEnd_wf h
  clear_value u
  split
  · exact hc
  split
  · exact hc
  refine ite_wf hc ?_
  extract_lets out s1 s2 m s3
  have h1 : s1.wf = true := when_wf rulCount_wf (withEth_wf (withSwc_wf hc))
  clear_value s1
  have h2 : s2.wf = true := by
    unfold s2
    split
    · exact tcwFail_wf h1
    · exact h1
  have hm : m.2.wf = true := macsecTx_wf h2
  clear_value s2 m
  refine showQueue_wf (releaseCopy_wf ?_)
  refine ite_wf (ite_wf (deliver_wf (sendCopy_wf h2)) (when_wf deliver_wf h2)) ?_
  split
  · exact sendCopy_wf hm
  · exact hm

theorem execCopyTransmitted_keeps {p : Nat} {bad : Option Nat} {ago : Nat} {s : State} :
    Keeps s (execCopyTransmitted p bad ago s) :=
  act_keeps transmitted_wf

theorem execPortCtrlWrite_keeps {m p : Nat} {v : Word} {s : State} : Keeps s (execPortCtrlWrite m p v s) :=
  withWrite_keeps (fun h => ite_ans h (ite_ans trivial (setPortCtrl_wf h)))

theorem bringUp_wf {p mbps addFrag : Nat} {fec : Bool} {s : State} (h : s.wf = true) :
    (bringUp p mbps addFrag fec s).wf = true :=
  keyValidate_wf (reportPort_wf (ethEvent_wf (sf_wf (sf_wf (sb_wf (sb_wf (sf_wf (sb_wf
    (when_wf (fun h => withEth_wf (State.free_wf (State.free_wf h))) h)))))))))

theorem execLinkChange_keeps {p : Nat} {up : Bool} {mbps addFrag : Nat} {offer : Bool × Bool} {s : State} :
    Keeps s (execLinkChange p up mbps addFrag offer s) :=
  act_keeps (fun h => ite_wf h (ite_wf (ite_wf (bringUp_wf h) h) (ite_wf (ethCount_wf (dropLink_wf h)) h)))

theorem execRtMarkerReceived_keeps {p : Nat} {agrees : Bool} {s : State} :
    Keeps s (execRtMarkerReceived p agrees s) :=
  act_keeps (fun h => ite_wf (ite_wf (setProbed_wf h) (fallBack_wf h)) h)

theorem execRtMarkerTimeout_keeps {p : Nat} {s : State} : Keeps s (execRtMarkerTimeout p s) :=
  act_keeps (fun h => ite_wf (fallBack_wf h) h)

theorem execRetainedStartLimit_keeps {p : Nat} {s : State} : Keeps s (execRetainedStartLimit p s) :=
  act_keeps (fun h => ite_wf (fallBack_wf h) h)

theorem setSleeping_wf {p : Nat} {b : Bool} {s : State} (h : s.wf = true) : (setSleeping p b s).wf = true :=
  withEth_wf h

theorem execTc10SleepAck_keeps {p : Nat} {s : State} : Keeps s (execTc10SleepAck p s) :=
  act_keeps (fun h => ite_wf (podlSleep_wf (dropLink_wf h)) h)

theorem sleepFailed_wf {p : Nat} {s : State} (h : s.wf = true) : (sleepFailed p s).wf = true :=
  ite_wf (ethEvent_wf (setSleeping_wf h)) h

theorem execTc10SleepTimeout_keeps {p : Nat} {s : State} : Keeps s (execTc10SleepTimeout p s) :=
  act_keeps sleepFailed_wf

theorem execTc10SleepRefused_keeps {p : Nat} {s : State} : Keeps s (execTc10SleepRefused p s) :=
  act_keeps sleepFailed_wf

theorem execTc10Wake_keeps {p : Nat} {s : State} : Keeps s (execTc10Wake p s) :=
  act_keeps (fun h => ite_wf (setSleeping_wf h) (ite_wf (podlWake_wf (ethEvent_wf (ethCount_wf (startPhy_wf h)))) h))

theorem execTc10Wur_keeps {p : Nat} {s : State} : Keeps s (execTc10Wur p s) :=
  act_keeps (fun h => ite_wf (ethEvent_wf (setSleeping_wf h)) h)

theorem execPlcaCycle_keeps {p coll : Nat} {s : State} : Keeps s (execPlcaCycle p coll s) :=
  act_keeps (fun h => ite_wf (withEth_wf (cnt_wf h)) h)

theorem execPodlCfgWrite_keeps {m p : Nat} {v : Word} {s : State} : Keeps s (execPodlCfgWrite m p v s) :=
  withWrite_keeps (fun h => ite_ans h (ite_ans trivial (setPodlCfg_wf h)))

theorem execPodlClassified_keeps {p cls : Nat} {s : State} : Keeps s (execPodlClassified p cls s) :=
  act_keeps (fun h => ite_wf (ite_wf (sf_wf (setPodl_wf h)) (ethEvent_wf (setPodl_wf h))) h)

theorem execPodlClassTimeout_keeps {p : Nat} {s : State} : Keeps s (execPodlClassTimeout p s) :=
  act_keeps (fun h => ite_wf (ethEvent_wf (setPodl_wf h)) h)

theorem execPodlTrip_keeps {p : Nat} {s : State} : Keeps s (execPodlTrip p s) :=
  act_keeps (fun h => ite_wf (ethEvent_wf (setRetry_wf (sb_wf (sf_wf (setPodl_wf (ethCount_wf h)))))) h)

theorem execPodlRetry_keeps {p : Nat} {s : State} : Keeps s (execPodlRetry p s) :=
  act_keeps (fun h => ite_wf (ite_wf (podlStart_wf h) (setRetry_wf (setPodl_wf h))) h)

theorem execPodlTripsClear_keeps {p : Nat} {s : State} : Keeps s (execPodlTripsClear p s) :=
  act_keeps (fun h => ite_wf (sf_wf h) h)

theorem execTxtsPop_keeps {m p : Nat} {s : State} : Keeps s (execTxtsPop m p s) := by
  refine withRead_keeps (fun h => ?_)
  split
  · exact reply_wf h
  · exact reply_wf (sf_wf (sf_wf (wr_wf (withEth_wf h))))

theorem icTake_wf {n tail fuel : Nat} {s t : State} (h : s.wf = true) (ht : icTake n tail fuel s = some t) :
    t.wf = true := by
  induction fuel generalizing s with
  | zero =>
    cases ht
    exact h
  | succ fuel ih =>
    unfold icTake at ht
    dsimp only at ht
    split at ht
    · cases ht
      exact h
    split at ht
    · exact ih (icNotice_wf (wr_wf (devFault_wf h))) ht
    split at ht
    · cases ht
    split at ht
    · exact ih (icNotice_wf (wr_wf (devFault_wf (icRead_wf h)))) ht
    · exact ih (icNotice_wf (wr_wf (storeFrame_wf (icRead_wf (icRead_wf h))))) ht

theorem icServe_wf {n : Nat} {s : State} (h : s.wf = true) : Ans.wf (icServe n s) := by
  unfold icServe
  split
  · split
    case h_1 t ht => exact icTake_wf h ht
    case h_2 => trivial
  · exact h

theorem execIcTxDoorbell_keeps {m n : Nat} {v : Word} {s : State} : Keeps s (execIcTxDoorbell m n v s) :=
  withWrite_keeps (fun h => ite_ans h (ite_ans trivial (icServe_wf (wr_wf h))))

theorem icCfgWrite_wf {off : Nat} {v : Word} {s : State} (h : s.wf = true) : Ans.wf (icCfgWrite off v s) :=
  ite_ans (sb_wf h) (ite_ans trivial (ite_ans (icServe_wf (wr_wf h)) (wr_wf h)))

theorem ethWrite_wf {off : Nat} {v : Word} {s : State} (h : s.wf = true) : OptAns.wf (ethWrite off v s) :=
  ite_optAns (ite_optAns (ite_ans h (ite_ans (wr_wf h) trivial))
    (ite_optAns (ite_ans h (ite_ans (wr_wf h) trivial)) (ite_optAns (ite_ans h (ite_ans (wr_wf h) trivial))
    (ite_optAns (ite_ans h (ite_ans (wr_wf h) trivial)) (ite_optAns (ite_optAns trivial trivial) trivial)))))
    (ite_optAns (ite_optAns (icCfgWrite_wf h) (ite_optAns h trivial)) trivial)

theorem effEthSetPort_wf {c : Cmd} {s : State} (h : s.wf = true) : CmdOut.wf (effEthSetPort c s) :=
  guard_wf (guard_wf (guard_wf (guard_wf (guard_wf (guard_wf (guard_wf
    (guard_wf (guard_wf (guard_wf (guard_wf (share (fun h1 => ite_cmd h1 (wr_wf (wr_wf (wr_wf (wr_wf h1)))))
    (wr_wf (wr_wf h)))))))))))))

theorem effEthPortEnable_wf {c : Cmd} {s : State} (h : s.wf = true) : CmdOut.wf (effEthPortEnable c s) :=
  guard_wf (setPortCtrl_wf h)

theorem effEthLinkStatus_wf {c : Cmd} {s : State} (h : s.wf = true) : CmdOut.wf (effEthLinkStatus c s) :=
  h

theorem effEthTc10_wf {c : Cmd} {s : State} (h : s.wf = true) : CmdOut.wf (effEthTc10 c s) :=
  guard_wf (ite_cmd (ite_cmd (setSleeping_wf h) trivial) (ite_cmd (ite_cmd (podlWake_wf (startPhy_wf h)) trivial)
    trivial))

theorem effEthRtSave_wf {c : Cmd} {s : State} (h : s.wf = true) : CmdOut.wf (effEthRtSave c s) :=
  withEth_wf h

theorem effEthRtClear_wf {c : Cmd} {s : State} (h : s.wf = true) : CmdOut.wf (effEthRtClear c s) :=
  withEth_wf h

theorem effEthPlcaCfg_wf {c : Cmd} {s : State} (h : s.wf = true) : CmdOut.wf (effEthPlcaCfg c s) :=
  guard_wf (guard_wf (guard_wf (wr_wf h)))

theorem effEthPodl_wf {c : Cmd} {s : State} (h : s.wf = true) : CmdOut.wf (effEthPodl c s) :=
  guard_wf (setPodlCfg_wf h)

theorem saForm_wf {c : Cmd} {k : Bool → Nat → Nat → CmdOut}
    (hk : ∀ {x : Bool} {n : Nat} {j : Nat}, CmdOut.wf (k x n j)) : CmdOut.wf (saForm c k) :=
  guard_wf (guard_wf (guard_wf (guard_wf hk)))

theorem effEthSaInstall_wf {c : Cmd} {s : State} (h : s.wf = true) : CmdOut.wf (effEthSaInstall c s) :=
  saForm_wf (guard_wf (guard_wf (slotCheckCru_wf (guard_wf (guard_wf (ite_wf (setRxSa_wf h) (setTxSa_wf h)))))))

theorem effEthSaTxSwitch_wf {c : Cmd} {s : State} (h : s.wf = true) : CmdOut.wf (effEthSaTxSwitch c s) :=
  guard_wf (guard_wf (withEth_wf h))

theorem effEthSaDelete_wf {c : Cmd} {s : State} (h : s.wf = true) : CmdOut.wf (effEthSaDelete c s) :=
  saForm_wf (guard_wf (guard_wf (ite_wf (setRxSa_wf h) (setTxSa_wf h))))

theorem effEthSaStatus_wf {c : Cmd} {s : State} (h : s.wf = true) : CmdOut.wf (effEthSaStatus c s) := by
  refine saForm_wf ?_
  intros
  split
  · trivial
  · exact h

theorem effEthPortCounters_wf {c : Cmd} {s : State} (h : s.wf = true) : CmdOut.wf (effEthPortCounters c s) :=
  h

/-! ### Crucible's commands -/

theorem cruFail_wf {status code offset value : Nat} {s : State} (h : s.wf = true) :
    CmdOut.wf (cruFail status code offset value s) :=
  countCode_wf h

theorem loadKey_wf {n t usage limit : Nat} {key : List Byte} {s : State} (h : s.wf = true) :
    (loadKey n t usage limit key s).wf = true :=
  setKey_wf h

theorem endJob_wf {j : Job} {st code bytes : Nat} {s : State} (h : s.wf = true) :
    (endJob j st code bytes s).wf = true := by
  refine notify_wf (cruShow_wf (wr_wf ?_))
  split
  · exact countJob_wf (cruRefuse_wf (when_wf State.free_wf (withCru_wf h)))
  · exact cruPut_wf (countJob_wf (when_wf State.free_wf (withCru_wf h)))

theorem cruErase_wf {src : Nat} {s : State} (h : s.wf = true) : (cruErase src s).wf = true :=
  endErases_wf (gwyErased_wf (foldl_wf endJob_wf (cnt_wf (raise_wf (sb_wf (newContextKey_wf (eraseSlots_wf h)))))))

theorem cruAlarm_wf {src : Nat} {s : State} (h : s.wf = true) : (cruAlarm src s).wf = true :=
  ite_wf (cruErase_wf h) h

theorem execCruAlarm_keeps {src : Nat} {s : State} : Keeps s (execCruAlarm src s) :=
  act_keeps cruAlarm_wf

theorem ringCfg_wf {n : Nat} {v : Word} {s : State} (h : s.wf = true) : (ringCfg n v s).wf = true :=
  ite_wf (ite_wf h (cruShow_wf (sb_wf h))) (unless_wf (fun h => ite_wf (cruShow_wf h) (raise_wf (sb_wf (sb_wf h))))
    (wr_wf h))

theorem execJobRingCtrlWrite_keeps {m n : Nat} {v : Word} {s : State} : Keeps s (execJobRingCtrlWrite m n v s) :=
  withWrite_keeps (fun h => ite_ans h (ite_ans trivial (ringCfg_wf h)))

theorem jobOwned_keeps {n off m : Nat} {f : State → Ans} {s : State}
    (hf : ∀ {t : State}, t.wf = true → Ans.wf (f t)) : Keeps s (jobOwned n off m f s) :=
  withWrite_keeps (fun h => ite_ans h (ite_ans (drop_wf h) (hf h)))

theorem execJobDoorbell_keeps {m n : Nat} {v : Word} {s : State} : Keeps s (execJobDoorbell m n v s) :=
  jobOwned_keeps (fun h => ite_ans h (ite_ans (wr_wf h) trivial))

theorem cHeadWrite_keeps {m n : Nat} {v : Word} {s : State} : Keeps s (cHeadWrite m n v s) :=
  jobOwned_keeps (fun h => ite_ans trivial (wr_wf h))

theorem jobOwnerWrite_keeps {m n : Nat} {v : Word} {s : State} : Keeps s (jobOwnerWrite m n v s) :=
  withWrite_keeps (fun h => ite_ans (drop_wf h) (ite_ans h (ite_ans trivial (wr_wf h))))

theorem jobReads_wf {o : Nat} {j : JobSpec} {s : State} (h : s.wf = true) : (jobReads o j s).wf = true :=
  when_wf cruRead_wf (ite_wf h (cruRead_wf h))

theorem admitJob_wf {o : Nat} {d : List Byte × Option Nat} {s : State} (h : s.wf = true) :
    (admitJob o d s).2.wf = true := by
  unfold admitJob
  split
  · exact h
  · dsimp only
    split
    · exact ite_wf (jobReads_wf h) h
    · exact share (fun h1 => ite_snd (useKey_wf h1) h1) (jobReads_wf h)

theorem takeJob_wf {core n : Nat} {s : State} (h : s.wf = true) : (takeJob core n s).wf = true := by
  refine cruShow_wf (withCru_wf ?_)
  split
  · exact cruRefuse_wf (admitJob_wf (wr_wf h))
  · exact admitJob_wf (wr_wf h)

theorem startJob_wf {core : Nat} {s : State} (h : s.wf = true) : (startJob core s).wf = true := by
  refine ite_wf h ?_
  split
  · exact h
  · exact share (fun h1 => ite_wf (doShared_wf h1) (takeJob_wf h1)) (withCru_wf h)

theorem execJobStart_keeps {core : Nat} {s : State} : Keeps s (execJobStart core s) :=
  act_keeps startJob_wf

theorem endOut_wf {x : Job} {j : JobSpec} {status code n : Nat} {s : State} (h : s.wf = true) :
    (endOut x j status code n s).wf = true :=
  when_wf stray_wf (endJob_wf h)

/-- Output that is written whole, and output that a refused byte cut short. -/
theorem writeOut_wf {x : Job} {j : JobSpec} {out : List Byte} {s t : State} (h : s.wf = true)
    (ht : writeOut x j out s = .inl t ∨ writeOut x j out s = .inr t) : t.wf = true := by
  unfold writeOut at ht
  dsimp only at ht
  split at ht
  · obtain rfl : _ = t := by simpa using ht
    exact cruPut_wf h
  · obtain rfl : _ = t := by simpa using ht
    exact endOut_wf (cruPut_wf h)

theorem runWrap_wf {x : Job} {j : JobSpec} {data : List Byte} {s : State} (h : s.wf = true) :
    (runWrap x j data s).wf = true := by
  unfold runWrap
  dsimp only
  split
  · split
    case h_1 ht => exact endOut_wf (writeOut_wf h (.inl ht))
    case h_2 ht => exact writeOut_wf h (.inr ht)
  split
  · exact endJob_wf h
  split
  · split
    · exact endJob_wf h
    · exact endJob_wf h
    · exact endJob_wf (loadKey_wf h)
  · split
    case h_1 ht => exact endOut_wf (writeOut_wf h (.inl ht))
    case h_2 ht => exact writeOut_wf h (.inr ht)

theorem runCipher_wf {x : Job} {j : JobSpec} {aad data expect : List Byte} {s : State} (h : s.wf = true) :
    (runCipher x j aad data expect s).wf = true := by
  refine ite_wf ?_ (ite_wf (ite_wf (endJob_wf h) (endJob_wf h)) ?_)
  · split
    · exact endJob_wf h
    split
    case h_1 ht => exact endOut_wf (writeOut_wf h (.inl ht))
    case h_2 ht => exact writeOut_wf h (.inr ht)
  · extract_lets out
    clear_value out
    split
    case h_1 ht => exact writeOut_wf h (.inr ht)
    case h_2 ht =>
      have hu := writeOut_wf h (.inl ht)
      refine ite_wf ?_ (endOut_wf hu)
      exact share (fun hw => ite_wf (endOut_wf hw) (endOut_wf hw)) (cruPut_wf (saveContext_wf hu))

theorem finishJob_wf {n : Nat} {s : State} (h : s.wf = true) : (finishJob n s).wf = true := by
  unfold finishJob
  split
  · exact h
  · refine endErases_wf ?_
    split
    · exact endJob_wf h
    · dsimp only
      split
      · exact endJob_wf (cruRefuse_wf h)
      · exact share (fun h1 => ite_wf (runWrap_wf h1) (runCipher_wf h1)) (cruRead_wf h)

theorem execJobComplete_keeps {ring : Nat} {s : State} : Keeps s (execJobComplete ring s) :=
  act_keeps finishJob_wf

theorem cruWrite_wf {off : Nat} {v : Word} {s : State} (h : s.wf = true) : OptAns.wf (cruWrite off v s) :=
  ite_optAns (ite_optAns h (ite_optAns h trivial)) (ite_optAns (ite_ans trivial (wr_wf h)) trivial)

theorem effCruKeyLoad_wf {c : Cmd} {s : State} (h : s.wf = true) : CmdOut.wf (effCruKeyLoad c s) := by
  refine guard_wf (guard_wf (guard_wf (guard_wf ?_)))
  split
  · trivial
  · exact loadKey_wf h

theorem withKek_wf {n : Nat} {s : State} {k : List Byte → State → CmdOut} (h : s.wf = true)
    (hk : ∀ {l : List Byte} {t : State}, t.wf = true → CmdOut.wf (k l t)) : CmdOut.wf (withKek n s k) :=
  ite_cmd (cruFail_wf h) (ite_cmd (cruFail_wf h) (ite_cmd (hk (useKey_wf h)) (cruFail_wf h)))

theorem effCruKeyUnwrap_wf {c : Cmd} {s : State} (h : s.wf = true) : CmdOut.wf (effCruKeyUnwrap c s) := by
  refine guard_wf (guard_wf (slotCheckCru_wf ?_))
  split
  · trivial
  · refine ite_cmd (cruFail_wf h) (withKek_wf h (fun h => ?_))
    split
    · exact loadKey_wf h
    · exact cruFail_wf h

theorem effCruKeyWrap_wf {c : Cmd} {s : State} (h : s.wf = true) : CmdOut.wf (effCruKeyWrap c s) :=
  guard_wf (slotCheckCru_wf (ite_cmd (cruFail_wf h) (guard_wf (withKek_wf h (fun h => h)))))

theorem effCruKeyErase_wf {c : Cmd} {s : State} (h : s.wf = true) : CmdOut.wf (effCruKeyErase c s) :=
  guard_wf (ite_cmd (eraseKey_wf h) (eraseKey_wf h))

theorem effCruKeyStatus_wf {c : Cmd} {s : State} (h : s.wf = true) : CmdOut.wf (effCruKeyStatus c s) :=
  h

theorem effCruEraseAll_wf {c : Cmd} {s : State} (h : s.wf = true) : CmdOut.wf (effCruEraseAll c s) :=
  cruAlarm_wf h

theorem effCruCounters_wf {c : Cmd} {s : State} (h : s.wf = true) : CmdOut.wf (effCruCounters c s) :=
  takeCounters_wf h

/-! ### The commands of the gateway engine -/

theorem popRecord_wf {n : Nat} {s : State} (h : s.wf = true) : (popRecord n s).wf = true :=
  setInbox_wf h

theorem poisoned_wf {s : State} (h : s.wf = true) : (poisoned s).wf = true :=
  raise_wf (gwyCount_wf h)

theorem actRecord_wf {n : Nat} {par : Bool} {s : State} (h : s.wf = true) : (actRecord n par s).wf = true := by
  unfold actRecord
  split
  · exact h
  · exact ite_wf (poisoned_wf (raise_wf (cnt_wf (popRecord_wf h))))
      (ite_wf (poisoned_wf (popRecord_wf h)) (ite_wf (gwyCount_wf (popRecord_wf h))
      (ite_wf h (takeMsg_wf (popRecord_wf h)))))

theorem execSprueRecord_keeps {n : Nat} {par : Bool} {s : State} : Keeps s (execSprueRecord n par s) :=
  act_keeps (fun h => ite_wf h (actRecord_wf (hwDrain_wf h)))

theorem execAuthResult_keeps {i : Nat} {s : State} : Keeps s (execAuthResult i s) := by
  refine act_keeps (fun h => ?_)
  split
  · exact h
  · split
    · exact h
    · exact endErases_wf (nextAuth_wf (endAuth_wf (withGwy_wf h)))

theorem execReleaseTime_keeps {s : State} : Keeps s (execReleaseTime s) := by
  refine act_keeps (fun h => ?_)
  split
  · exact h
  · exact ite_wf h (handOn_wf (when_wf gwyCount_wf (withGwy_wf h)))

theorem execGwBufferLoad_keeps {ch : Nat} {s : State} : Keeps s (execGwBufferLoad ch s) :=
  act_keeps (fun h => ite_wf (gwLoad_wf h) h)

theorem execBundleTimeout_keeps {t : Nat} {s : State} : Keeps s (execBundleTimeout t s) :=
  act_keeps closeBundle_wf

theorem acfTake_wf {t rx fuel : Nat} {a : List Byte} {s : State} (h : s.wf = true) :
    (acfTake t rx fuel a s).wf = true := by
  induction fuel generalizing a s with
  | zero => exact h
  | succ fuel ih =>
    unfold acfTake
    refine ite_wf h ?_
    split
    · exact ih (takeMsg_wf h)
    · exact ih (gwyCount_wf h)

theorem tunnelIn_wf {x : IgCopy} {t : Nat} {s : State} (h : s.wf = true) : (tunnelIn x t s).wf = true :=
  share (fun h1 => ite_wf (gwyCount_wf h1) (ite_wf (raise_wf (gwyCount_wf h1))
    (acfTake_wf (when_wf (fun h => raise_wf (gwyCount_wf h)) (setTunnel_wf h1))))) (gwyCount_wf h)

theorem execTunnelFrameIn_keeps {s : State} : Keeps s (execTunnelFrameIn s) := by
  refine act_keeps (fun h => ?_)
  split
  · exact h
  · split
    · exact h
    · exact tunnelIn_wf (withEth_wf h)

theorem injectTake_wf {n tail fuel : Nat} {s t : State} (h : s.wf = true) (ht : injectTake n tail fuel s = some t) :
    t.wf = true := by
  induction fuel generalizing s with
  | zero =>
    cases ht
    exact h
  | succ fuel ih =>
    unfold injectTake at ht
    dsimp only at ht
    split at ht
    · cases ht
      exact h
    split at ht
    · exact ih (accessFault_wf (wr_wf h)) ht
    split at ht
    · cases ht
    · exact ih (takeMsg_wf (dmaRead_wf (wr_wf h))) ht

theorem execInjectDoorbell_keeps {m n : Nat} {v : Word} {s : State} : Keeps s (execInjectDoorbell m n v s) := by
  refine withWrite_keeps (fun h => ite_ans h (ite_ans trivial (ite_ans (ite_ans trivial ?_) (wr_wf h))))
  split
  case h_1 t ht => exact injectTake_wf (wr_wf h) ht
  case h_2 => trivial

theorem execHostqCfgWrite_keeps {m n : Nat} {v : Word} {s : State} : Keeps s (execHostqCfgWrite m n v s) :=
  withWrite_keeps (fun h => ite_ans h (ite_ans trivial (ite_ans (sb_wf h) (wr_wf h))))

theorem gwyWrite_wf {off : Nat} {v : Word} {s : State} (h : s.wf = true) : OptAns.wf (gwyWrite off v s) :=
  ite_optAns (ite_optAns h trivial) (ite_optAns (ite_optAns trivial
    (ite_optAns (ite_optAns h trivial) (ite_optAns (ite_ans trivial (wr_wf h))
    (ite_optAns (ite_ans trivial (wr_wf h)) trivial)))) trivial)

theorem sourceCheck_wf {c : Cmd} {o n : Nat} {s : State} {k : CmdOut} (hk : CmdOut.wf k) :
    CmdOut.wf (sourceCheck c o n s k) :=
  guard_wf (ite_cmd hk trivial)

theorem keyed_wf {c : Cmd} {s : State} {k : Nat → CmdOut} (hk : ∀ {n : Nat}, CmdOut.wf (k n)) :
    CmdOut.wf (keyed c s k) :=
  guard_wf (sourceCheck_wf hk)

theorem targetsCheck_wf {c : Cmd} {s : State} {l : List (List Byte)} {i : Nat} {k : CmdOut} (hk : CmdOut.wf k) :
    CmdOut.wf (targetsCheck c s l i k) := by
  induction l generalizing i with
  | nil => exact hk
  | cons t r ih => exact guard_wf (ite_cmd ih (guard_wf (guard_wf ih)))

theorem effGwyRouteWrite_wf {c : Cmd} {s : State} (h : s.wf = true) : CmdOut.wf (effGwyRouteWrite c s) := by
  unfold effGwyRouteWrite
  refine keyed_wf ?_
  intros
  refine guard_wf (guard_wf (guard_wf (targetsCheck_wf ?_)))
  split
  · exact setRoute_wf h
  · split
    · exact setRoute_wf h
    · trivial

theorem existing_wf {c : Cmd} {s : State} {f : Nat → Route → CmdOut}
    (hf : ∀ {n : Nat} {x : Route}, CmdOut.wf (f n x)) : CmdOut.wf (existing c s f) := by
  refine keyed_wf ?_
  intros
  split
  · trivial
  · exact hf

theorem effGwyRouteDelete_wf {c : Cmd} {s : State} (h : s.wf = true) : CmdOut.wf (effGwyRouteDelete c s) :=
  existing_wf (setRoute_wf h)

theorem effGwyRouteRead_wf {c : Cmd} {s : State} (h : s.wf = true) : CmdOut.wf (effGwyRouteRead c s) :=
  existing_wf h

theorem effGwySetSource_wf {c : Cmd} {s : State} (h : s.wf = true) : CmdOut.wf (effGwySetSource c s) :=
  guard_wf (guard_wf (guard_wf (sourceCheck_wf (ite_cmd (withGwy_wf h) (guard_wf (sourceCheck_wf (withGwy_wf h)))))))

theorem effGwyTunnelCfg_wf {c : Cmd} {s : State} (h : s.wf = true) : CmdOut.wf (effGwyTunnelCfg c s) := by
  refine guard_wf (guard_wf ?_)
  split
  · trivial
  · exact guard_wf (ite_cmd (guard_wf (setTunnel_wf (closeBundle_wf h))) (setTunnel_wf h))

theorem effGwyAuthProfile_wf {c : Cmd} {s : State} (h : s.wf = true) : CmdOut.wf (effGwyAuthProfile c s) :=
  guard_wf (guard_wf (guard_wf (guard_wf (guard_wf (guard_wf (guard_wf (withGwy_wf h)))))))

theorem effGwyFreshSet_wf {c : Cmd} {s : State} (h : s.wf = true) : CmdOut.wf (effGwyFreshSet c s) :=
  existing_wf (setRoute_wf h)

theorem effGwyCounters_wf {c : Cmd} {s : State} (h : s.wf = true) : CmdOut.wf (effGwyCounters c s) :=
  takeCounters_wf h

/-! ### The operations of the PCIe host bridge -/

theorem withHbr_wf {s : State} {f : HbrState → HbrState} (h : s.wf = true) : (State.withHbr s f).wf = true :=
  wf_same h

theorem hbrCount_wf {off : Nat} {s : State} (h : s.wf = true) : (hbrCount off s).wf = true :=
  cnt_wf h

theorem showHbr_wf {s : State} (h : s.wf = true) : (showHbr s).wf = true :=
  foldl_wf sb_wf (sf_wf h)

theorem setSbGroup_wf {f g : Nat} {x : SbGroup} {s : State} (h : s.wf = true) : (setSbGroup f g x s).wf = true :=
  setFn_wf h

theorem setGrpMode_wf {f : Nat} {v : Word} {s : State} (h : s.wf = true) : (setGrpMode f v s).wf = true :=
  foldl_wf (fun h => ite_wf h (when_wf (fun h => foldl_wf msixAsk_wf h) (setSbGroup_wf h))) (withHbr_wf (setFn_wf h))

theorem sendReq_wf {r : OutReq} {s : State} (h : s.wf = true) : (sendReq r s).wf = true :=
  ite_wf (withHbr_wf h) (withHbr_wf h)

theorem issueReq_wf {r : OutReq} {s : State} (h : s.wf = true) : (issueReq r s).wf = true :=
  sendReq_wf (withHbr_wf h)

theorem respond_wf {m : Nat} {err : Bool} {data : List Byte} {s : State} (h : s.wf = true) :
    (respond m err data s).wf = true :=
  withHbr_wf h

theorem reqFail_wf {r : OutReq} {kind : Nat} {s : State} (h : s.wf = true) : (reqFail r kind s).wf = true := by
  unfold reqFail
  split
  · exact raise_wf (hbrLog_wf (setSbGroup_wf h))
  · exact raise_wf (hbrLog_wf (setSbGroup_wf h))
  · exact respond_wf (raise_wf (hbrCount_wf (hbrLog_wf h)))

theorem sbDone_wf {r : OutReq} {g : Nat} {poll : Bool} {data : List Byte} {s : State} (h : s.wf = true) :
    (sbDone r g poll data s).wf = true :=
  ite_wf (hbrCount_wf (setSbGroup_wf h)) (ite_wf (setSbGroup_wf h) (setSbGroup_wf h))

theorem reqDone_wf {r : OutReq} {data : List Byte} {s : State} (h : s.wf = true) : (reqDone r data s).wf = true := by
  unfold reqDone
  split
  · exact respond_wf (hbrCount_wf h)
  · exact respond_wf (hbrCount_wf h)
  · exact sbDone_wf h
  · exact sbDone_wf h

theorem quietRegions_wf {s : State} (h : s.wf = true) : (quietRegions s).wf = true :=
  endRunning_wf h

theorem pumpReqs_wf {s : State} (h : s.wf = true) : (pumpReqs s).wf = true :=
  foldl_wf sendReq_wf (withHbr_wf h)

theorem dropReq_wf {tag : Nat} {s : State} (h : s.wf = true) : (dropReq tag s).wf = true :=
  pumpReqs_wf (withHbr_wf h)

theorem outAccess_wf {m a n : Nat} {wr : Bool} {data : List Byte} {s : State} (h : s.wf = true) :
    (outAccess m a n wr data s).wf = true := by
  refine ite_wf h (ite_wf (respond_wf (busError_wf h)) ?_)
  split
  · exact reqFail_wf h
  · exact ite_wf (reqFail_wf h) (ite_wf (issueReq_wf h) (reqFail_wf h))

theorem stopOwned_wf {f : Nat} {s : State} (h : s.wf = true) : (stopOwned f s).wf = true :=
  foldl_wf (fun h => ite_wf (sb_wf h) h) (foldl_wf (fun h => ite_wf (cruShow_wf (sb_wf h)) h)
    (foldl_wf (fun h => ite_wf (stopRing_wf h) h) h))

theorem resetFn_wf {gone : Bool} {f : Nat} {s : State} (h : s.wf = true) : (resetFn gone f s).wf = true :=
  quietRegions_wf (pumpReqs_wf (sb_wf (raise_wf (settledFn_wf
    (setFn_wf (withHbr_wf (foldl_wf reqFail_wf (withHbr_wf (stopOwned_wf h)))))))))

theorem resetAllFns_wf {s : State} (h : s.wf = true) : (resetAllFns s).wf = true := by
  unfold resetAllFns
  exact showHbr_wf (foldl_wf (fun h => settledFn_wf (setFn_wf h)) (foldl_wf resetFn_wf h))

theorem functionReset_wf {f : Nat} {s : State} (h : s.wf = true) : (functionReset f s).wf = true :=
  ite_wf (resetAllFns_wf h) (showHbr_wf (resetFn_wf h))

/-! ### The commands of the PCIe host bridge but for inbound requests -/

theorem execOutboundWrite_keeps {m addr : Nat} {data : List Byte} {s : State} :
    Keeps s (execOutboundWrite m addr data s) :=
  fabricAct_keeps (fun h => ite_wf (outAccess_wf h) h)

theorem execOutboundRead_keeps {m addr len : Nat} {s : State} : Keeps s (execOutboundRead m addr len s) :=
  fabricAct_keeps (fun h => ite_wf (outAccess_wf h) h)

theorem execCompletionArrival_keeps {tag status : Nat} {data : List Byte} {s : State} :
    Keeps s (execCompletionArrival tag status data s) := by
  refine act_keeps (fun h => ?_)
  split
  · exact hbrCount_wf h
  · exact share (fun h1 => quietRegions_wf (ite_wf (reqDone_wf h1) (reqFail_wf h1))) (dropReq_wf h)

theorem execCompletionTimeout_keeps {tag : Nat} {s : State} : Keeps s (execCompletionTimeout tag s) := by
  refine act_keeps (fun h => ?_)
  split
  · exact h
  · exact quietRegions_wf (reqFail_wf (dropReq_wf h))

theorem msixGo_wf {f v : Nat} {s : State} (h : s.wf = true) : (msixGo f v s).wf = true :=
  foldl_wf (fun h => ite_wf (setSbGroup_wf h) h) (hbrCount_wf (withHbr_wf h))

theorem execMsixSend_keeps {s : State} : Keeps s (execMsixSend s) := by
  refine act_keeps (fun h => ?_)
  split
  · exact h
  · exact share (fun h1 => ite_wf (setFn_wf h1) (msixGo_wf h1)) (withHbr_wf h)

theorem msixUnmask_wf {f : Nat} {s : State} (h : s.wf = true) : (msixUnmask f s).wf = true :=
  foldl_wf (fun h => ite_wf (msixAsk_wf (setFn_wf h)) h) h

theorem bridgeIssue_wf {r : OutReq} {s : State} (h : s.wf = true) : (bridgeIssue r s).wf = true :=
  ite_wf (issueReq_wf h) (reqFail_wf h)

theorem execSidebandWrite_keeps {f g : Nat} {s : State} : Keeps s (execSidebandWrite f g s) :=
  act_keeps (fun h => ite_wf h (bridgeIssue_wf (setSbGroup_wf h)))

theorem execSidebandPoll_keeps {f g : Nat} {s : State} : Keeps s (execSidebandPoll f g s) :=
  act_keeps (fun h => ite_wf h (ite_wf (setSbGroup_wf h) (bridgeIssue_wf (setSbGroup_wf h))))

theorem grpModeWrite_wf {f : Nat} {v : Word} {s : State} (h : s.wf = true) : Ans.wf (grpModeWrite f v s) :=
  ite_ans (setGrpMode_wf h) trivial

theorem execGrpModeWrite_keeps {f : Nat} {v : Word} {s : State} : Keeps s (execGrpModeWrite f v s) :=
  act_keeps (fun h => ite_wf h (settle_wf h (grpModeWrite_wf h)))

theorem fnPageWrite_wf {f off : Nat} {v : Word} {s : State} (h : s.wf = true) : Ans.wf (fnPageWrite f off v s) :=
  ite_ans (grpModeWrite_wf h) (ite_ans (ite_ans (setFn_wf h) trivial)
    (ite_ans (ite_ans (setFn_wf h) trivial) (ite_ans (ite_ans (ite_ans trivial (setSbGroup_wf h)) (setSbGroup_wf h))
    (ite_ans (ite_ans trivial (setFn_wf h)) (ite_ans (msixUnmask_wf (setFn_wf h)) h)))))

theorem execPcieLinkUp_keeps {speed width : Nat} {s : State} : Keeps s (execPcieLinkUp speed width s) :=
  act_keeps (fun h => ite_wf h (showHbr_wf (withHbr_wf (raise_wf (sf_wf (sf_wf h))))))

theorem execPcieLinkReset_keeps {s : State} : Keeps s (execPcieLinkReset s) :=
  act_keeps (fun h => when_wf raise_wf (resetAllFns_wf (withHbr_wf (sf_wf h))))

theorem execFunctionLevelReset_keeps {f : Nat} {s : State} : Keeps s (execFunctionLevelReset f s) :=
  act_keeps (fun h => ite_wf h (functionReset_wf h))

theorem execHbrErrPop_keeps {m : Nat} {s : State} : Keeps s (execHbrErrPop m s) :=
  withRead_keeps (fun h => reply_wf (sf_wf (withHbr_wf h)))

theorem hbrWrite_wf {off : Nat} {v : Word} {s : State} (h : s.wf = true) : OptAns.wf (hbrWrite off v s) :=
  ite_optAns (ite_optAns trivial trivial) (ite_optAns (ite_optAns (ite_optAns h (ite_optAns trivial trivial))
    (ite_optAns (ite_wf h (sb_wf h)) (ite_optAns trivial trivial))) trivial)

theorem effHbrSetRegion_wf {c : Cmd} {s : State} (h : s.wf = true) : CmdOut.wf (effHbrSetRegion c s) := by
  refine guard_wf (guard_wf (guard_wf (guard_wf (guard_wf (guard_wf ?_)))))
  split
  · trivial
  · exact ite_cmd (guard_wf (share (fun h1 => ite_cmd h1 h1) (sb_wf h)))
      (wr_wf (wr_wf (wr_wf (wr_wf (wr_wf (wr_wf h))))))

theorem effHbrLinkStatus_wf {c : Cmd} {s : State} (h : s.wf = true) : CmdOut.wf (effHbrLinkStatus c s) :=
  h

theorem effHbrFnStatus_wf {c : Cmd} {s : State} (h : s.wf = true) : CmdOut.wf (effHbrFnStatus c s) :=
  h

theorem effHbrLogRead_wf {c : Cmd} {s : State} (h : s.wf = true) : CmdOut.wf (effHbrLogRead c s) :=
  sf_wf (withHbr_wf h)

theorem effHbrCounters_wf {c : Cmd} {s : State} (h : s.wf = true) : CmdOut.wf (effHbrCounters c s) :=
  takeCounters_wf h

theorem effHbrSetCfg_wf {c : Cmd} {s : State} (h : s.wf = true) : CmdOut.wf (effHbrSetCfg c s) :=
  guard_wf (guard_wf (sf_wf h))

/-! ### The operations of the load channels -/

theorem withLch_wf {s : State} {f : LchState → LchState} (h : s.wf = true) : (State.withLch s f).wf = true :=
  wf_same h

theorem setChan_wf {c : Nat} {x : Chan} {s : State} (h : s.wf = true) : (setChan c x s).wf = true :=
  withLch_wf h

theorem showChan_wf {c : Nat} {s : State} (h : s.wf = true) : (showChan c s).wf = true :=
  sb_wf (unless_wf sb_wf (sb_wf (ite_wf (setChan_wf h) h)))

theorem chEvent_wf {c ev : Nat} {s : State} (h : s.wf = true) : (chEvent c ev s).wf = true :=
  sb_wf (raise_wf h)

theorem liveFlag_wf {c i : Nat} {v : Bool} {s : State} (h : s.wf = true) : (liveFlag c i v s).wf = true :=
  when_wf sb_wf (sb_wf h)

theorem tbArm_wf {t : Nat} {s : State} (h : s.wf = true) : (tbArm t s).wf = true :=
  withLch_wf h

theorem inrushBegin_wf {c : Nat} {s : State} (h : s.wf = true) : (inrushBegin c s).wf = true :=
  sb_wf (setChan_wf h)

theorem profileStart_wf {c : Nat} {s : State} (h : s.wf = true) : (profileStart c s).wf = true :=
  when_wf inrushBegin_wf (setChan_wf h)

theorem profileResume_wf {c : Nat} {s : State} (h : s.wf = true) : (profileResume c s).wf = true :=
  ite_wf (profileStart_wf h) h

theorem stopOutput_wf {c : Nat} {s : State} (h : s.wf = true) : (stopOutput c s).wf = true :=
  liveFlag_wf (liveFlag_wf (setChan_wf (sb_wf h)))

theorem chSetMode_wf {c mode : Nat} {s : State} (h : s.wf = true) : (chSetMode c mode s).wf = true := by
  unfold chSetMode
  dsimp only
  split
  · exact showChan_wf (stopOutput_wf (setChan_wf (sf_wf h)))
  · exact share (fun h2 => showChan_wf (ite_wf (profileResume_wf h2) (when_wf inrushBegin_wf h2)))
      (setChan_wf (sf_wf h))
  · exact showChan_wf (when_wf profileResume_wf (setChan_wf (sf_wf h)))

theorem setPwm_wf {c duty phase : Nat} {s : State} (h : s.wf = true) : (setPwm c duty phase s).wf = true :=
  chSetMode_wf (wr_wf (sf_wf h))

theorem setSource_wf {c v : Nat} {s : State} (h : s.wf = true) : (setSource c v s).wf = true :=
  showChan_wf (sf_wf h)

theorem setRestarts_wf {c v : Nat} {s : State} (h : s.wf = true) : (setRestarts c v s).wf = true :=
  sf_wf h

theorem named_wf {c : Nat} {s : State} (h : s.wf = true) : (named c s).wf = true :=
  setSource_wf h

theorem cmdMode_wf {c mode : Nat} {s : State} (h : s.wf = true) : (cmdMode c mode s).wf = true :=
  when_wf setRestarts_wf (chSetMode_wf (named_wf h))

theorem holdStart_wf {s : State} (h : s.wf = true) : (holdStart s).wf = true :=
  withLch_wf (raise_wf (cnt_wf (sb_wf h)))

theorem lchNone_wf {s : State} (h : s.wf = true) : (lchNone s).wf = true :=
  unless_wf holdStart_wf (foldl_wf (fun h => ite_wf (setSource_wf h) h) h)

theorem lchPass_wf {body : List Word} {s : State} (h : s.wf = true) : (lchPass body s).wf = true :=
  withLch_wf (foldl_wf (fun h => ite_wf (setSource_wf h) h) (sb_wf h))

theorem takeFailsafe_wf {c : Nat} {s : State} (h : s.wf = true) : (takeFailsafe c s).wf = true := by
  unfold takeFailsafe
  dsimp only
  split
  · exact chSetMode_wf (setSource_wf h)
  · exact chSetMode_wf (setSource_wf h)
  · exact setPwm_wf (setSource_wf h)

theorem sampleCurrents_wf {s : State} (h : s.wf = true) : (sampleCurrents s).wf = true :=
  ite_wf h (foldl_wf (fun h => liveFlag_wf (liveFlag_wf h)) (wf_same h))

theorem sampleRails_wf {s : State} (h : s.wf = true) : (sampleRails s).wf = true :=
  ite_wf h (foldl_wf sf_wf (sf_wf (wr_wf h)))

theorem pwmReposition_wf {c : Nat} {s : State} (h : s.wf = true) : (pwmReposition c s).wf = true :=
  ite_wf h (ite_wf (showChan_wf (setChan_wf h)) (showChan_wf (when_wf inrushBegin_wf (setChan_wf h))))

theorem lchReposition_wf {s : State} (h : s.wf = true) : (lchReposition s).wf = true :=
  foldl_wf pwmReposition_wf (foldl_wf tbArm_wf h)

/-! ### The commands of Keystone -/

theorem setLevels_wf {levels : Nat} {s : State} (h : s.wf = true) : (setLevels levels s).wf = true :=
  withKey_wf (sf_wf h)

theorem execWakeSourceFire_keeps {src sub levels : Nat} {s : State} : Keeps s (execWakeSourceFire src sub levels s) :=
  next_keeps fun h => when_wf keyFire_wf (setLevels_wf h)

theorem execWakeSupplyGood_keeps {s : State} : Keeps s (execWakeSupplyGood s) := by
  unfold execWakeSupplyGood
  dsimp only
  split
  · exact next_keeps fun h => (withKey_wf h)
  · exact next_keeps fun h => when_wf powerUp_wf (withKey_wf h)

theorem execLatchedWakePowerUp_keeps {s : State} : Keeps s (execLatchedWakePowerUp s) := by
  unfold execLatchedWakePowerUp
  split
  · exact next_keeps fun h => h
  · exact next_keeps fun h => ite_wf (powerUp_wf h) h

theorem execWakeIgnoreExpiry_keeps {s : State} : Keeps s (execWakeIgnoreExpiry s) :=
  next_keeps fun h => withKey_wf h

theorem falseWakeEnds_wf {s : State} (h : s.wf = true) : (falseWakeEnds s).wf = true :=
  when_wf beginOff_wf (raise_wf (foldl_wf (fun h => ite_wf (falseWake_wf h) h) (cnt_wf (keyLog_wf (sb_wf h)))))

theorem execValidationEnd_keeps {s : State} : Keeps s (execValidationEnd s) :=
  act_keeps (fun h => when_wf falseWakeEnds_wf (keyValidate_wf h))

theorem execAutoSleepBegin_keeps {s : State} : Keeps s (execAutoSleepBegin s) :=
  act_keeps (fun h => ite_wf (beginOff_wf h) h)

theorem showChans_wf {s : State} (h : s.wf = true) : (showChans s).wf = true :=
  foldl_wf showChan_wf h

theorem podlAllOff_wf {s : State} (h : s.wf = true) : (podlAllOff s).wf = true :=
  foldl_wf (fun h => setRetry_wf (setPodl_wf h)) h

theorem armPorts_wf {s : State} (h : s.wf = true) : (armPorts s).wf = true :=
  withKey_wf h

theorem execPowerOffDone_keeps {s : State} : Keeps s (execPowerOffDone s) :=
  ite_keeps (next_keeps fun h => h) (next_keeps fun h => showChans_wf
    (podlAllOff_wf (armPorts_wf (wf_same (ite_wf (withEth_wf h) h)))))

theorem goOff_wf {s : State} (h : s.wf = true) : (goOff s).wf = true :=
  showChans_wf (withKey_wf (wf_same (sb_wf (sb_wf h))))

theorem execPowerOffComplete_keeps {s : State} : Keeps s (execPowerOffComplete s) :=
  next_keeps fun h => ite_wf (goOff_wf h) h

theorem execBrownOut_keeps {s : State} : Keeps s (execBrownOut s) :=
  next_keeps fun h => ite_wf h (goOff_wf (podlAllOff_wf (withKey_wf (ite_wf h (armPorts_wf h)))))

theorem keyWrite_wf {off : Nat} {v : Word} {s : State} (h : s.wf = true) : OptAns.wf (keyWrite off v s) :=
  ite_optAns trivial (ite_optAns (validNow_wf (wr_wf h)) trivial)

theorem effKeyStatus_wf {c : Cmd} {s : State} (h : s.wf = true) : CmdOut.wf (effKeyStatus c s) :=
  h

theorem effKeySetCfg_wf {c : Cmd} {s : State} (h : s.wf = true) : CmdOut.wf (effKeySetCfg c s) :=
  guard_wf (guard_wf (guard_wf (guard_wf (guard_wf (guard_wf (validNow_wf
    (wr_wf (wr_wf (wr_wf (wr_wf (wr_wf h)))))))))))

theorem effKeySleep_wf {c : Cmd} {s : State} (h : s.wf = true) : CmdOut.wf (effKeySleep c s) :=
  guard_wf (guard_wf (beginOff_wf h))

theorem effKeyWakeValid_wf {c : Cmd} {s : State} (h : s.wf = true) : CmdOut.wf (effKeyWakeValid c s) :=
  ite_cmd (keyValidate_wf h) trivial

theorem effKeyUnlock_wf {c : Cmd} {s : State} (h : s.wf = true) : CmdOut.wf (effKeyUnlock c s) :=
  foldl_wf clearLockout_wf h

theorem effKeyLogRead_wf {c : Cmd} {s : State} (h : s.wf = true) : CmdOut.wf (effKeyLogRead c s) :=
  h

theorem effKeyCounters_wf {c : Cmd} {s : State} (h : s.wf = true) : CmdOut.wf (effKeyCounters c s) :=
  takeCounters_wf h

/-! ### The commands of the protected load channels -/

theorem cmdReject_wf {w0 : Word} {reason : Nat} {s : State} (h : s.wf = true) : (cmdReject w0 reason s).wf = true :=
  share (fun h1 => ite_wf (raise_wf (cnt_wf h1)) (raise_wf (cnt_wf h1))) (wr_wf (wr_wf h))

theorem cmdApplied_wf {s : State} (h : s.wf = true) : (cmdApplied s).wf = true :=
  cnt_wf h

theorem lchSet_wf {b : List Word} {s : State} (h : s.wf = true) : (lchSet b s).wf = true :=
  ite_wf (setPwm_wf (named_wf h)) (cmdMode_wf h)

theorem lchMask_wf {b : List Word} {s : State} (h : s.wf = true) : (lchMask b s).wf = true :=
  foldl_wf cmdMode_wf (ite_wf h (raise_wf (cnt_wf h)))

theorem lchClear_wf {b : List Word} {s : State} (h : s.wf = true) : (lchClear b s).wf = true :=
  when_wf (fun h => showChan_wf (profileResume_wf (setChan_wf (liveFlag_wf (liveFlag_wf (sf_wf h))))))
    (setRestarts_wf (named_wf h))

theorem lchTake_wf {ops : List Nat} {f : List Word → State → State} {s : State}
    (hf : ∀ {l : List Word} {t : State}, t.wf = true → (f l t).wf = true) (h : s.wf = true) :
    (lchTake ops f s).wf = true := by
  unfold lchTake
  split
  · exact h
  · refine ite_wf ?_ h
    dsimp only
    split
    · exact hf (cmdApplied_wf (withLch_wf h))
    · exact cmdReject_wf (withLch_wf h)

theorem execChannelSet_keeps {s : State} : Keeps s (execChannelSet s) :=
  actP_keeps (fun h => lchTake_wf lchSet_wf h)

theorem execChannelMask_keeps {s : State} : Keeps s (execChannelMask s) :=
  actP_keeps (fun h => lchTake_wf lchMask_wf h)

theorem execChannelClear_keeps {s : State} : Keeps s (execChannelClear s) :=
  actP_keeps (fun h => lchTake_wf lchClear_wf h)

theorem execHoldExpiry_keeps {s : State} : Keeps s (execHoldExpiry s) :=
  actP_keeps (fun h => ite_wf (foldl_wf (fun h => ite_wf (takeFailsafe_wf h) h) (raise_wf (cnt_wf (sb_wf h)))) h)

theorem lchArm_wf {s : State} (h : s.wf = true) : (lchArm s).wf = true :=
  ite_wf h (when_wf holdStart_wf (sb_wf h))

theorem lchCtrl_wf {v : Word} {s : State} (h : s.wf = true) : Ans.wf (lchCtrl v s) :=
  ite_ans trivial (when_wf lchArm_wf (sf_wf h))

theorem execArmWrite_keeps {m : Nat} {v : Word} {s : State} : Keeps s (execArmWrite m v s) :=
  withWrite_keeps lchCtrl_wf

theorem execPwmPeriodStart_keeps {t v1 v2 : Nat} {s : State} : Keeps s (execPwmPeriodStart t v1 v2 s) :=
  actP_keeps (fun h => ite_wf h (foldl_wf (fun h => ite_wf (sf_wf h) h) (withLch_wf h)))

theorem execPwmEdge_keeps {c : Nat} {start : Bool} {s : State} : Keeps s (execPwmEdge c start s) := by
  refine actP_keeps (fun h => ite_wf h (ite_wf (ite_wf h (showChan_wf
    (when_wf inrushBegin_wf (setChan_wf (sf_wf h))))) ?_))
  split
  · exact ite_wf (showChan_wf (setChan_wf h)) h
  · exact h

theorem execInrushEnd_keeps {c : Nat} {s : State} : Keeps s (execInrushEnd c s) :=
  actP_keeps (fun h => ite_wf (sb_wf h) h)

theorem setProt_wf {c v : Nat} {s : State} (h : s.wf = true) : (setProt c v s).wf = true :=
  showChan_wf (stopOutput_wf (sf_wf h))

theorem stopMark_wf {c ev : Nat} {s : State} (h : s.wf = true) : (stopMark c ev s).wf = true :=
  setChan_wf h

theorem stopUndo_wf {c : Nat} {s : State} (h : s.wf = true) : (stopUndo c s).wf = true :=
  ite_wf h (unless_wf sb_wf (setChan_wf (foldl_wf wr_wf h)))

theorem execShortDetect_keeps {hit : Nat × Bool} {s : State} : Keeps s (execShortDetect hit s) :=
  actP_keeps (fun h => ite_wf (chEvent_wf (cnt_wf (liveFlag_wf (setProt_wf (when_wf liveFlag_wf (stopUndo_wf h))))))
    h)

theorem execOcWarn_keeps {c : Nat} {s : State} : Keeps s (execOcWarn c s) :=
  actP_keeps (fun h => ite_wf (chEvent_wf (cnt_wf (liveFlag_wf h))) h)

theorem setDt_wf {c dT : Nat} {s : State} (h : s.wf = true) : (setDt c dT s).wf = true :=
  sf_wf h

theorem execThermalTrip_keeps {c dT : Nat} {hot : Bool} {s : State} : Keeps s (execThermalTrip c dT hot s) :=
  actP_keeps (fun h => ite_wf h (unless_wf (fun h => share (fun h2 => ite_wf
    (chEvent_wf (liveFlag_wf (setProt_wf (setRestarts_wf h2)))) (chEvent_wf (liveFlag_wf (setProt_wf h2))))
    (cnt_wf (stopMark_wf h))) (setDt_wf h)))

theorem execThermalReady_keeps {c dT : Nat} {s : State} : Keeps s (execThermalReady c dT s) :=
  actP_keeps (fun h => ite_wf h (when_wf (fun h => showChan_wf (profileResume_wf (liveFlag_wf (sf_wf h))))
    (setDt_wf h)))

theorem execRestartsClear_keeps {c : Nat} {s : State} : Keeps s (execRestartsClear c s) :=
  actP_keeps (fun h => ite_wf (setRestarts_wf h) h)

theorem setRail_wf {r mv : Nat} {s : State} (h : s.wf = true) : (setRail r mv s).wf = true :=
  sf_wf h

theorem uvStop_wf {c : Nat} {s : State} (h : s.wf = true) : (uvStop c s).wf = true :=
  when_wf (fun h => chEvent_wf (cnt_wf (liveFlag_wf (setProt_wf (setChan_wf (stopMark_wf h))))))
    (liveFlag_wf (stopUndo_wf h))

theorem execRailUndervoltage_keeps {r mv : Nat} {s : State} : Keeps s (execRailUndervoltage r mv s) :=
  actP_keeps (fun h => ite_wf h (foldl_wf uvStop_wf (raise_wf (cnt_wf (sb_wf (setRail_wf h))))))

theorem execRailRecovery_keeps {r mv : Nat} {s : State} : Keeps s (execRailRecovery r mv s) :=
  actP_keeps (fun h => ite_wf h (foldl_wf (fun h => when_wf (fun h => showChan_wf
    (profileResume_wf (setChan_wf (liveFlag_wf (sf_wf h))))) (liveFlag_wf h)) (sb_wf (setRail_wf h))))

theorem openLoad_wf {c i : Nat} {low : Bool} {s : State} (h : s.wf = true) : (openLoad c i low s).wf = true :=
  when_wf chEvent_wf (liveFlag_wf h)

theorem execOpenLoadOn_keeps {c : Nat} {low : Bool} {s : State} : Keeps s (execOpenLoadOn c low s) :=
  actP_keeps (fun h => ite_wf h (ite_wf (ite_wf h (openLoad_wf h)) (ite_wf h (unless_wf openLoad_wf (setChan_wf h)))))

theorem execOpenLoadOff_keeps {c : Nat} {high : Bool} {s : State} : Keeps s (execOpenLoadOff c high s) :=
  actP_keeps (fun h => ite_wf h (openLoad_wf h))

theorem lchWrite_wf {off : Nat} {v : Word} {s : State} (h : s.wf = true) : OptAns.wf (lchWrite off v s) :=
  ite_optAns (ite_optAns (ite_optAns h (ite_optAns trivial trivial))
    (ite_optAns (ite_optAns h (ite_optAns trivial trivial)) trivial))
    (ite_optAns (ite_optAns trivial trivial) (ite_optAns (ite_optAns h
    (ite_optAns trivial (ite_optAns trivial (tbArm_wf (wr_wf h))))) trivial))

theorem effLchChanCfg_wf {c : Cmd} {s : State} (h : s.wf = true) : CmdOut.wf (effLchChanCfg c s) :=
  guard_wf (guard_wf (guard_wf (guard_wf (guard_wf (guard_wf (guard_wf (guard_wf (wr_wf (wr_wf h)))))))))

theorem effLchProfile_wf {c : Cmd} {s : State} (h : s.wf = true) : CmdOut.wf (effLchProfile c s) :=
  guard_wf (guard_wf (guard_wf (guard_wf (guard_wf (guard_wf (guard_wf
    (guard_wf (guard_wf (guard_wf (guard_wf (guard_wf (wr_wf (wr_wf (wr_wf h))))))))))))))

theorem effLchTimebase_wf {c : Cmd} {s : State} (h : s.wf = true) : CmdOut.wf (effLchTimebase c s) := by
  refine guard_wf (guard_wf (guard_wf (guard_wf (guard_wf ?_))))
  split
  · trivial
  · exact tbArm_wf (wr_wf (wr_wf (wr_wf (wr_wf h))))

theorem effLchSetHold_wf {c : Cmd} {s : State} (h : s.wf = true) : CmdOut.wf (effLchSetHold c s) :=
  guard_wf (guard_wf (sf_wf h))

theorem effLchChanStatus_wf {c : Cmd} {s : State} (h : s.wf = true) : CmdOut.wf (effLchChanStatus c s) :=
  h

theorem effLchCounters_wf {c : Cmd} {s : State} (h : s.wf = true) : CmdOut.wf (effLchCounters c s) :=
  takeCounters_wf h

/-! ### The network command port -/

theorem ncpHandover_wf {s : State} (h : s.wf = true) : (ncpHandover s).wf = true :=
  wf_same (ringZero_wf (stopRing_wf h))

theorem ncpTakes_wf {on : Bool} {v : Word} {s : State} (h : s.wf = true) : (ncpTakes on v s).wf = true :=
  wf_same (wr_wf (wr_wf (ite_wf h (ncpHandover_wf h))))

theorem ncpRefused_wf {s : State} (h : s.wf = true) : (ncpRefused s).wf = true :=
  ite_wf (sb_wf (ncpHandover_wf h)) h

theorem ncpCtrl_wf {v : Word} {s : State} (h : s.wf = true) : Ans.wf (ncpCtrl v s) :=
  ite_ans trivial (ite_ans (ncpRefused_wf h) (ncpTakes_wf h))

theorem execNcpCtrlWrite_keeps {m : Nat} {v : Word} {s : State} : Keeps s (execNcpCtrlWrite m v s) :=
  withWrite_keeps ncpCtrl_wf

theorem ncpTake_wf {bs : List Byte} {vid pcp : Nat} {s : State} (h : s.wf = true) :
    (ncpTake bs vid pcp s).wf = true :=
  ite_wf (wf_same (sf_wf (wr_wf (ite_snd (useKey_wf h) h)))) (cnt_wf (ite_snd (useKey_wf h) h))

theorem execNcpCommandFrame_keeps {s : State} : Keeps s (execNcpCommandFrame s) := by
  refine act_keeps (fun h => ?_)
  split
  · exact h
  · exact unless_wf (fun h => ite_wf (ncpTake_wf h) h) (wf_same h)

theorem ncpReply_wf {r : Reply} {x : NcpSlot} {s : State} (h : s.wf = true) : (ncpReply r x s).wf = true :=
  ite_wf (storeFrame_wf (ite_snd (useKey_wf h) h)) (ite_snd (useKey_wf h) h)

theorem ncpAnswer_wf {r : Reply} {s : State} (h : s.wf = true) : (ncpAnswer r s).wf = true := by
  unfold ncpAnswer
  split
  · exact h
  · exact share (fun h1 => ite_wf (unless_wf cntF_wf h1) (ncpReply_wf (sf_wf (sf_wf h1)))) (wf_same h)

/-! ### The commands of the network management engines -/

theorem nmCan_wf {e : Nat} {s : State} (h : s.wf = true) : (nmCan e s).wf = true := by
  unfold nmCan
  split
  · exact h
  · exact ite_wf (share (fun h1 => when_wf takeMsg_wf (ite_wf (nmBad_wf h1) (nmReceive_wf h1))) (popRecord_wf h)) h

theorem nmIg_wf {e : Nat} {s : State} (h : s.wf = true) : (nmIg e s).wf = true := by
  unfold nmIg
  split
  · exact h
  refine ite_wf h (ite_wf (withEth_wf h) (ite_wf (nmBad_wf (withEth_wf h)) (ite_wf h (ite_wf (withEth_wf h) ?_))))
  split
  · exact nmReceive_wf (withEth_wf h)
  · exact nmBad_wf (withEth_wf h)

theorem execNmPduReceived_keeps {e : Nat} {s : State} : Keeps s (execNmPduReceived e s) :=
  act_keeps (fun h => ite_wf (nmCan_wf (hwDrain_wf h)) (ite_wf (nmIg_wf h) h))

theorem execNmRepeatTimeout_keeps {e : Nat} {s : State} : Keeps s (execNmRepeatTimeout e s) :=
  act_keeps (fun h => ite_wf (setNm_wf h) h)

theorem execNmTimeout_keeps {e : Nat} {s : State} : Keeps s (execNmTimeout e s) :=
  act_keeps (fun h => ite_wf h (ite_wf (cnt_wf h) (ite_wf (setNm_wf h) h)))

theorem execNmWaitTimeout_keeps {e : Nat} {s : State} : Keeps s (execNmWaitTimeout e s) :=
  act_keeps (fun h => ite_wf (sb_wf (setNm_wf h)) h)

theorem execNmMsgTimer_keeps {e : Nat} {s : State} : Keeps s (execNmMsgTimer e s) :=
  act_keeps (fun h => ite_wf (nmSend_wf h) h)

theorem execNmCfgWrite_keeps {m e : Nat} {v : Word} {s : State} : Keeps s (execNmCfgWrite m e v s) :=
  withWrite_keeps (fun h => ite_ans h (ite_ans trivial (ite_ans trivial (nmEnable_wf (ite_wf h (wr_wf h))))))

theorem effGwyNmCfg_wf {c : Cmd} {s : State} (h : s.wf = true) : CmdOut.wf (effGwyNmCfg c s) := by
  refine guard_wf ?_
  split
  · trivial
  · exact guard_wf (guard_wf (guard_wf (guard_wf (ite_cmd (guard_wf (nmEnable_wf h))
      (nmEnable_wf (unless_wf (fun h => wr_wf (wr_wf (wr_wf (wr_wf h))))
      (wr_wf (wr_wf (wr_wf (wr_wf (wr_wf (wr_wf h))))))))))))

theorem effGwyNmRequest_wf {c : Cmd} {s : State} (h : s.wf = true) : CmdOut.wf (effGwyNmRequest c s) := by
  refine guard_wf (guard_wf (guard_wf ?_))
  split
  · exact ite_wf (nmRepeat_wf (sb_wf h)) (ite_wf (nmSend_wf (setNm_wf (sb_wf h))) (sb_wf h))
  · exact ite_wf (setNm_wf (sb_wf h)) (sb_wf h)
  · exact ite_wf (nmRepeat_wf h) h

theorem effGwyNmStatus_wf {c : Cmd} {s : State} (h : s.wf = true) : CmdOut.wf (effGwyNmStatus c s) :=
  takeCounters_wf h

theorem effGwyNmUdata_wf {c : Cmd} {s : State} (h : s.wf = true) : CmdOut.wf (effGwyNmUdata c s) :=
  guard_wf (wr_wf (wr_wf h))

/-! ### The output-redundancy receiver -/

theorem ordCount_wf {off : Nat} {s : State} (h : s.wf = true) : (ordCount off s).wf = true :=
  cnt_wf h

theorem setOrdBit_wf {i : Nat} {v : Bool} {s : State} (h : s.wf = true) : (setOrdBit i v s).wf = true :=
  sb_wf h

theorem setOrdStage_wf {l : Nat} {x : List OCopy} {s : State} (h : s.wf = true) : (setOrdStage l x s).wf = true :=
  withOrd_wf h

theorem becomeFirst_wf {l : Nat} {s : State} (h : s.wf = true) : (becomeFirst l s).wf = true :=
  setOrdStage_wf h

theorem endSwap_wf {reason : Nat} {s : State} (h : s.wf = true) : (endSwap reason s).wf = true :=
  ite_wf (becomeFirst_wf (raise_wf (wr_wf (setOrdBit_wf h)))) h

theorem chargeUpdate_wf {s : State} (h : s.wf = true) : (chargeUpdate s).wf = true :=
  unless_wf (fun h => when_wf (fun h => lchNone_wf (ordCount_wf (raise_wf h))) (raise_wf (sf_wf h)))
    (ite_wf (setOrdBit_wf h) h)

theorem startHoldoff_wf {s : State} (h : s.wf = true) : (startHoldoff s).wf = true :=
  withOrd_wf (setOrdBit_wf h)

theorem execFaultLineChange_keeps {d : Nat} {wireOpen : Bool} {s : State} :
    Keeps s (execFaultLineChange d wireOpen s) :=
  actP_keeps (fun h => ite_wf h (chargeUpdate_wf (when_wf endSwap_wf
    (when_wf (fun h => ite_wf (setOrdBit_wf h) (when_wf startHoldoff_wf h)) (setOrdBit_wf h)))))

theorem execOrdLinkTimeout_keeps {l : Nat} {s : State} : Keeps s (execOrdLinkTimeout l s) :=
  actP_keeps (fun h => ite_wf (chargeUpdate_wf (endSwap_wf (unless_wf raise_wf (setOrdBit_wf h)))) h)

theorem execHoldoffExpiry_keeps {s : State} : Keeps s (execHoldoffExpiry s) :=
  actP_keeps (fun h => ite_wf (chargeUpdate_wf (ordCount_wf (setOrdBit_wf h))) h)

theorem execSwapTestEnd_keeps {s : State} : Keeps s (execSwapTestEnd s) :=
  actP_keeps endSwap_wf

theorem ordStatusFrame_wf {l : Nat} {w : Word} {s : State} (h : s.wf = true) : (ordStatusFrame l w s).wf = true :=
  share (fun h1 => chargeUpdate_wf (ite_wf (unless_wf (fun h => when_wf (fun h => endSwap_wf (raise_wf h))
    (withOrd_wf (setOrdBit_wf h))) h1) (when_wf raise_wf (withOrd_wf h1)))) (setOrdBit_wf h)

theorem execCopyArrival_keeps {l : Nat} {bad : Bool} {s : State} : Keeps s (execCopyArrival l bad s) := by
  refine actP_keeps (fun h => ?_)
  split
  · exact h
  · exact share (fun h1 => ite_wf (ordCount_wf h1) (ite_wf (ordStatusFrame_wf h1)
      (ite_wf (raise_wf (ordCount_wf h1)) (setOrdStage_wf h1)))) (portPump_wf (setAir_wf h))

theorem recordWrite_wf {s : State} (h : s.wf = true) : (recordWrite s).wf = true := by
  unfold recordWrite
  split
  · exact h
  · exact ite_wf (hwQueue_wf (withOrd_wf h)) h

theorem recordsMove_wf {s : State} (h : s.wf = true) : (recordsMove s).wf = true :=
  ite_wf (recordWrite_wf (hwDrain_wf h)) h

theorem holdRecord_wf {f : OFrame} {s : State} (h : s.wf = true) : (holdRecord f s).wf = true :=
  share (fun h1 => ite_wf (raise_wf (ordCount_wf h1)) (withOrd_wf h1)) (ite_wf (recordsMove_wf h) h)

theorem setH_wf {n : Nat} {s : State} (h : s.wf = true) : (setH n s).wf = true :=
  sb_wf (sf_wf h)

theorem ordAccept_wf {l : Nat} {f : OFrame} {s : State} (h : s.wf = true) : (ordAccept l f s).wf = true :=
  unless_wf (fun h => ite_wf (lchPass_wf h) (holdRecord_wf h)) (withOrd_wf (ordCount_wf (setH_wf h)))

theorem ordClaim_wf {l : Nat} {f : OFrame} {s : State} (h : s.wf = true) : (ordClaim l f s).wf = true :=
  ite_wf (claimDone_wf (chargeUpdate_wf (withOrd_wf (setOrdBit_wf (raise_wf (ordCount_wf (setH_wf h)))))))
    (claimDone_wf (raise_wf (ordCount_wf h)))

theorem ordJudge_wf {l : Nat} {f : OFrame} {s : State} (h : s.wf = true) : (ordJudge l f s).wf = true :=
  ite_wf (ordClaim_wf h) (ite_wf (ite_wf (unless_wf (fun h => raise_wf (startHoldoff_wf h)) (ordCount_wf h))
    (ordCount_wf h)) (ite_wf (ordAccept_wf h) (ite_wf (ite_wf (ordCount_wf h) (ordCount_wf h))
    (raise_wf (ordCount_wf h)))))

theorem execCopyJudge_keeps {l i : Nat} {s : State} : Keeps s (execCopyJudge l i s) := by
  refine actP_keeps (fun h => ?_)
  dsimp only
  split
  · exact ite_wf (ordJudge_wf (setOrdStage_wf h)) h
  · exact h

theorem execCanRecordWrite_keeps {s : State} : Keeps s (execCanRecordWrite s) :=
  act_keeps recordsMove_wf

theorem ordWrite_wf {off : Nat} {v : Word} {s : State} : OptAns.wf (ordWrite off v s) :=
  ite_optAns trivial trivial

theorem effOrdSetCfg_wf {c : Cmd} {s : State} (h : s.wf = true) : CmdOut.wf (effOrdSetCfg c s) :=
  guard_wf (guard_wf (guard_wf (wr_wf h)))

theorem effOrdStatus_wf {c : Cmd} {s : State} (h : s.wf = true) : CmdOut.wf (effOrdStatus c s) :=
  h

theorem effOrdSwapTest_wf {c : Cmd} {s : State} (h : s.wf = true) : CmdOut.wf (effOrdSwapTest c s) :=
  guard_wf (guard_wf (guard_wf (becomeFirst_wf (withOrd_wf (wr_wf (setOrdBit_wf h))))))

theorem effOrdSwapCancel_wf {c : Cmd} {s : State} (h : s.wf = true) : CmdOut.wf (effOrdSwapCancel c s) :=
  ite_cmd (endSwap_wf h) trivial

theorem effOrdCounters_wf {c : Cmd} {s : State} (h : s.wf = true) : CmdOut.wf (effOrdCounters c s) :=
  takeCounters_wf h

/-! ### The parse engines -/

theorem withPrs_wf {s : State} {f : PrsState → PrsState} (h : s.wf = true) : (State.withPrs s f).wf = true :=
  wf_same h

theorem setCtx_wf {c : Nat} {x : Ctx} {s : State} (h : s.wf = true) : (setCtx c x s).wf = true :=
  withPrs_wf h

theorem engCount_wf {c off : Nat} {s : State} (h : s.wf = true) : (engCount c off s).wf = true :=
  cnt_wf h

theorem showBanks_wf {s : State} (h : s.wf = true) : (showBanks s).wf = true :=
  foldl_wf (fun h => when_wf raise_wf (sb_wf h)) h

theorem parseDrop_wf {f : Frame} {tile : Nat} {s : State} (h : s.wf = true) : (parseDrop f tile s).wf = true :=
  dropFrame_wf (tcwFail_wf h)

theorem giveVerdict_wf {c : Nat} {t : Taken} {words : List Word} {s : State} (h : s.wf = true) :
    (giveVerdict c t words s).wf = true :=
  withSwc_wf h

theorem handVerdict_wf {c : Nat} {t : Taken} {words : List Word} {s : State} (h : s.wf = true) :
    (handVerdict c t words s).wf = true :=
  engCount_wf (giveVerdict_wf h)

theorem loadRun_wf {c : Nat} {t : Taken} {next : Option Taken} {s : State} (h : s.wf = true) :
    (loadRun c t next s).wf = true := by
  refine ite_wf ?_ (setCtx_wf h)
  dsimp only
  split
  · exact parseDrop_wf (setCtx_wf h)
  · exact setCtx_wf h

theorem fillUnits_wf {t fuel : Nat} {s : State} (h : s.wf = true) : (fillUnits t fuel s).wf = true := by
  induction fuel generalizing s with
  | zero => exact h
  | succ fuel ih =>
    unfold fillUnits
    refine ite_wf ?_ h
    split
    · exact ih (withPrs_wf h)
    · exact ih (withPrs_wf h)
    · exact h

theorem settleUnits_wf {t : Nat} {s : State} (h : s.wf = true) : (settleUnits t s).wf = true :=
  ite_wf (fillUnits_wf h) h

theorem endRun_wf {c : Nat} {s : State} (h : s.wf = true) : (endRun c s).wf = true := by
  unfold endRun
  refine showRul_wf (showBanks_wf ?_)
  split
  · exact loadRun_wf (fillUnits_wf (withPrs_wf (settleUnits_wf h)))
  · exact setCtx_wf (fillUnits_wf (withPrs_wf (settleUnits_wf h)))

theorem maxPath_wf {c icount : Nat} {s : State} (h : s.wf = true) : (maxPath c icount s).wf = true :=
  wr_wf h

theorem finishRun_wf {c : Nat} {r : Run} {words : List Word} {s : State} (h : s.wf = true) :
    (finishRun c r words s).wf = true :=
  endRun_wf (maxPath_wf (handVerdict_wf h))

theorem stopRun_wf {c : Nat} {r : Run} {off ev : Nat} {s : State} (h : s.wf = true) :
    (stopRun c r off ev s).wf = true :=
  finishRun_wf (raise_wf (engCount_wf h))

theorem takeHead_wf {kind : Nat} {s : State} {x : Nat × State} (h : s.wf = true) (hx : takeHead kind s = some x) :
    x.2.wf = true := by
  unfold takeHead at hx
  split at hx
  · cases hx
  split at hx
  · cases hx
  · cases hx
    exact withPrs_wf (withSwc_wf h)

theorem takeFrame_wf {kind : Nat} {bad : Bool} {s : State} {x : Taken × State} (h : s.wf = true)
    (hx : takeFrame kind bad s = some x) : x.2.wf = true := by
  obtain ⟨y, hy, rfl⟩ := Option.map_eq_some_iff.1 hx
  exact takeHead_wf h hy

theorem holdTaken_wf {c : Nat} {t : Taken} {s : State} (h : s.wf = true) : (holdTaken c t s).wf = true :=
  ite_wf (handVerdict_wf (raise_wf (cnt_wf h))) (ite_wf (showRul_wf (showBanks_wf (loadRun_wf h)))
    (showRul_wf (showBanks_wf (setCtx_wf h))))

theorem execFrameTake_keeps {c : Nat} {bad : Bool} {s : State} : Keeps s (execFrameTake c bad s) := by
  refine act_keeps (fun h => ?_)
  split
  · exact h
  refine ite_wf h ?_
  split
  · exact h
  case h_2 ht => exact holdTaken_wf (takeFrame_wf h ht)

theorem prsSetRun_wf {c : Nat} {r : Run} {s : State} (h : s.wf = true) : (prsSetRun c r s).wf = true :=
  setCtx_wf h

theorem countOver_wf {c : Nat} {s : State} (h : s.wf = true) : (countOver c s).wf = true :=
  raise_wf (engCount_wf h)

theorem issue_wf {c op : Nat} {f : Addan →
  Frame → Run → State → State} {s : State} (hf : ∀ {x : Addan} {y : Frame} {z : Run} {t : State}, t.wf = true →
    (f x y z t).wf = true) (h : s.wf = true) : (issue c op f s).wf = true := by
  unfold issue
  split
  · exact h
  · refine ite_wf h (ite_wf (stopRun_wf h) ?_)
    split
    · exact ite_wf (engCount_wf h) (ite_wf (stopRun_wf h) (share
        (fun h1 => ite_wf (finishRun_wf h1) (hf (engCount_wf h1))) (ite_wf (countOver_wf h) h)))
    · exact stopRun_wf h

theorem issueRun_keeps {c op : Nat} {f : Addan → Frame → Run → Run} {s : State} : Keeps s (issueRun c op f s) :=
  act_keeps (fun h => issue_wf prsSetRun_wf h)

theorem execAdd_keeps {c : Nat} {s : State} : Keeps s (execAdd c s) :=
  issueRun_keeps

theorem execSub_keeps {c : Nat} {s : State} : Keeps s (execSub c s) :=
  issueRun_keeps

theorem execAnd_keeps {c : Nat} {s : State} : Keeps s (execAnd c s) :=
  issueRun_keeps

theorem execOr_keeps {c : Nat} {s : State} : Keeps s (execOr c s) :=
  issueRun_keeps

theorem execXor_keeps {c : Nat} {s : State} : Keeps s (execXor c s) :=
  issueRun_keeps

theorem execShl_keeps {c : Nat} {s : State} : Keeps s (execShl c s) :=
  issueRun_keeps

theorem execShr_keeps {c : Nat} {s : State} : Keeps s (execShr c s) :=
  issueRun_keeps

theorem execMovi_keeps {c : Nat} {s : State} : Keeps s (execMovi c s) :=
  issueRun_keeps

theorem execMovhi_keeps {c : Nat} {s : State} : Keeps s (execMovhi c s) :=
  issueRun_keeps

theorem execExt_keeps {c : Nat} {s : State} : Keeps s (execExt c s) :=
  issueRun_keeps

theorem execCmp_keeps {c : Nat} {s : State} : Keeps s (execCmp c s) :=
  issueRun_keeps

theorem execLd_keeps {c : Nat} {s : State} : Keeps s (execLd c s) :=
  act_keeps (fun h => issue_wf (fun h => prsSetRun_wf (ite_wf (engCount_wf h) h)) h)

theorem execAdv_keeps {c : Nat} {s : State} : Keeps s (execAdv c s) :=
  issueRun_keeps

theorem execLdm_keeps {c : Nat} {s : State} : Keeps s (execLdm c s) :=
  issueRun_keeps

theorem execStm_keeps {c : Nat} {s : State} : Keeps s (execStm c s) :=
  issueRun_keeps

theorem execPutk_keeps {c : Nat} {s : State} : Keeps s (execPutk c s) :=
  issueRun_keeps

theorem startLookup_wf {c : Nat} {i : Addan} {r : Run} {x : Word × State} (h : x.2.wf = true) :
    (startLookup c i r x).wf = true :=
  prsSetRun_wf h

theorem execLkf_keeps {c : Nat} {s : State} : Keeps s (execLkf c s) :=
  act_keeps (issue_wf fun h => startLookup_wf (lookupFlow_wf h))

theorem execLka_keeps {c : Nat} {s : State} : Keeps s (execLka c s) :=
  act_keeps (issue_wf fun h => startLookup_wf (lookupAcl_wf h))

theorem execScan_keeps {c : Nat} {s : State} : Keeps s (execScan c s) :=
  act_keeps (fun h => issue_wf (fun h => withPrs_wf (settleUnits_wf (prsSetRun_wf h))) h)

theorem execVload_keeps {c : Nat} {s : State} : Keeps s (execVload c s) :=
  act_keeps (fun h => issue_wf (fun h => prsSetRun_wf (verdictLoad_wf h)) h)

theorem execVset_keeps {c : Nat} {s : State} : Keeps s (execVset c s) :=
  issueRun_keeps

theorem execCnt_keeps {c : Nat} {s : State} : Keeps s (execCnt c s) :=
  act_keeps (fun h => issue_wf (fun h => prsSetRun_wf (cnt_wf h)) h)

theorem execDone_keeps {c : Nat} {s : State} : Keeps s (execDone c s) :=
  act_keeps (fun h => issue_wf finishRun_wf h)

theorem execBr_keeps {c : Nat} {s : State} : Keeps s (execBr c s) :=
  issueRun_keeps

theorem execLookupResult_keeps {c : Nat} {s : State} : Keeps s (execLookupResult c s) := by
  refine act_keeps (fun h => ?_)
  split
  · exact h
  · split
    · exact prsSetRun_wf h
    · exact h

theorem execScanResult_keeps {c : Nat} {bad : Option Nat} {s : State} : Keeps s (execScanResult c bad s) := by
  refine act_keeps (fun h => ?_)
  have hf := fillUnits_wf (t := 0) (fuel := 4) h
  dsimp only
  split
  · exact hf
  split
  · split
    · exact endRun_wf (parseDrop_wf (maxPath_wf hf))
    · exact fillUnits_wf (withPrs_wf (prsSetRun_wf hf))
    · exact hf
  · exact hf

theorem execWatchdogStop_keeps {c : Nat} {s : State} : Keeps s (execWatchdogStop c s) := by
  refine act_keeps (fun h => ?_)
  split
  · exact h
  · exact ite_wf (stopRun_wf h) (ite_wf (stopRun_wf h) h)

theorem execExpressOver_keeps {c : Nat} {s : State} : Keeps s (execExpressOver c s) := by
  refine act_keeps (fun h => ?_)
  split
  · exact h
  · split
    · exact h
    · exact ite_wf (share (fun h1 => ite_wf (finishRun_wf h1) (prsSetRun_wf h1)) (countOver_wf h)) h

theorem putWords_wf {base : Nat} {l : List Word} {s : State} (h : s.wf = true) : (putWords base l s).wf = true := by
  induction l generalizing base s with
  | nil => exact h
  | cons w r ih => exact ih (withPrs_wf h)

theorem bankHeld_wf {s : State} {b : Nat} {k : CmdOut} (hk : CmdOut.wf k) : CmdOut.wf (bankHeld s b k) :=
  guard_wf (guard_wf hk)

theorem effPrsProgLoad_wf {c : Cmd} {s : State} (h : s.wf = true) : CmdOut.wf (effPrsProgLoad c s) :=
  guard_wf (guard_wf (bankHeld_wf (putWords_wf h)))

theorem effPrsProgActivate_wf {c : Cmd} {s : State} (h : s.wf = true) : CmdOut.wf (effPrsProgActivate c s) :=
  guard_wf (bankHeld_wf (guard_wf (share (fun h1 => ite_wf (raise_wf h1) (showBanks_wf h1))
    (sf_wf (sf_wf (sb_wf h))))))

theorem effPrsProgRead_wf {c : Cmd} {s : State} (h : s.wf = true) : CmdOut.wf (effPrsProgRead c s) :=
  guard_wf h

theorem effPrsSetCfg_wf {c : Cmd} {s : State} (h : s.wf = true) : CmdOut.wf (effPrsSetCfg c s) :=
  guard_wf (wr_wf h)

theorem effPrsCounters_wf {c : Cmd} {s : State} (h : s.wf = true) : CmdOut.wf (effPrsCounters c s) :=
  takeCounters_wf h

theorem prsResetFrames_wf {s : State} (h : s.wf = true) : (prsResetFrames s).wf = true :=
  foldl_wf giveVerdict_wf h

/-! ### The commands of Quarry and of the sprue FIFOs -/

theorem setPoolCfg_wf {p base : Nat} {cfg : Word} {s : State} (h : s.wf = true) :
    (setPoolCfg p base cfg s).wf = true :=
  setPool_wf (wr_wf (wr_wf (wr_wf h)))

theorem execPoolCfgWrite_keeps {m p : Nat} {v : Word} {s : State} : Keeps s (execPoolCfgWrite m p v s) :=
  withWrite_keeps (fun h => ite_ans h (ite_ans trivial (ite_ans (ite_wf h (setPool_wf (sb_wf h)))
    (ite_ans trivial (ite_ans trivial (setPoolCfg_wf h))))))

theorem execAllocRead_keeps {m r : Nat} {s : State} : Keeps s (execAllocRead m r s) := by
  refine withRead_keeps (fun h => ite_wf (reply_wf h) ?_)
  dsimp only
  split
  · exact reply_wf (withQry_wf (alloc_wf h))
  · exact reply_wf (withQry_wf (alloc_wf h))

theorem execFreeCommit_keeps {m r : Nat} {v : Word} {s : State} : Keeps s (execFreeCommit m r v s) :=
  withWrite_keeps (fun h => ite_ans h (ite_ans trivial (free_wf h)))

theorem execScrubDone_keeps {p k : Nat} {s : State} : Keeps s (execScrubDone p k s) := by
  refine act_keeps (fun h => ite_wf ?_ h)
  dsimp only
  split
  · exact accessFault_wf h
  · exact cnt_wf (setPool_wf (dmaPut_wf h))

theorem execQryErrPop_keeps {m : Nat} {s : State} : Keeps s (execQryErrPop m s) :=
  withRead_keeps (fun h => reply_wf (sf_wf (withQry_wf h)))

theorem sprWrite_keeps {m n : Nat} {f : State → Ans} {s : State} (hf : ∀ {t : State}, t.wf = true → Ans.wf (f t)) :
    Keeps s (sprWrite m n f s) :=
  withWrite_keeps (fun h => ite_ans h (ite_ans (drop_wf h) (ite_ans (hf h) h)))

theorem sprPush_wf {n tag : Nat} {s : State} (h : s.wf = true) : (sprPush n tag s).wf = true :=
  when_wf (fun h => raise_wf (cnt_wf h)) (setFifo_wf h)

theorem execSpruePushData_keeps {m n : Nat} {s : State} : Keeps s (execSpruePushData m n s) :=
  sprWrite_keeps sprPush_wf

theorem execSpruePushEnd_keeps {m n : Nat} {s : State} : Keeps s (execSpruePushEnd m n s) :=
  sprWrite_keeps sprPush_wf

theorem execSpruePushPoison_keeps {m n : Nat} {s : State} : Keeps s (execSpruePushPoison m n s) :=
  sprWrite_keeps sprPush_wf

theorem sprRewind_wf {n : Nat} {s : State} (h : s.wf = true) : (sprRewind n s).wf = true :=
  ite_wf (setFifo_wf h) (cnt_wf (setFifo_wf h))

theorem execSprueRewind_keeps {m n : Nat} {s : State} : Keeps s (execSprueRewind m n s) :=
  sprWrite_keeps sprRewind_wf

theorem pushCmd_keeps {m n : Nat} {v : Word} {s : State} : Keeps s (pushCmd m n v s) := by
  refine sprWrite_keeps (fun h => ite_ans trivial ?_)
  split
  · exact sprPush_wf h
  · exact sprPush_wf h
  · exact sprPush_wf h
  · exact sprRewind_wf h

theorem execSpruePop_keeps {m n : Nat} {bad : Bool} {s : State} : Keeps s (execSpruePop m n bad s) := by
  refine withRead_keeps (fun h => ite_wf (reply_wf h) (ite_wf (reply_wf (refuseRead_wf h)) ?_))
  dsimp only
  split
  · exact reply_wf (sprParity_wf (setFifo_wf (wr_wf (wr_wf h))))
  · exact reply_wf (setFifo_wf (wr_wf (wr_wf h)))

theorem consCtrl_keeps {m n : Nat} {v : Word} {s : State} : Keeps s (consCtrl m n v s) :=
  withWrite_keeps (fun h => ite_ans h (ite_ans (drop_wf h) (ite_ans trivial (ite_ans (cnt_wf (setFifo_wf h)) h))))

theorem execSprueDropRest_keeps {m n : Nat} {s : State} : Keeps s (execSprueDropRest m n s) :=
  consCtrl_keeps

theorem sprDisable_wf {n : Nat} {s : State} (h : s.wf = true) : (sprDisable n s).wf = true :=
  setFifo_wf (sb_wf h)

theorem qryWrite_wf {m off : Nat} {v : Word} {s : State} (h : s.wf = true) : OptAns.wf (qryWrite m off v s) :=
  ite_optAns (ite_optAns h trivial) (ite_optAns (ite_ans trivial (wr_wf h))
    (ite_optAns (ite_optAns (ite_optAns (ite_wf h (sprDisable_wf h)) trivial)
    (ite_optAns (ite_optAns trivial (drop_wf h)) trivial)) trivial))

theorem effQryPoolCfg_wf {c : Cmd} {s : State} (h : s.wf = true) : CmdOut.wf (effQryPoolCfg c s) :=
  guard_wf (guard_wf (guard_wf (guard_wf (guard_wf (guard_wf (guard_wf (setPoolCfg_wf h)))))))

theorem effQryReqCfg_wf {c : Cmd} {s : State} (h : s.wf = true) : CmdOut.wf (effQryReqCfg c s) := by
  unfold effQryReqCfg
  split
  · trivial
  · exact foldl_wf wr_wf h

theorem effQryAlloc_wf {c : Cmd} {s : State} (h : s.wf = true) : CmdOut.wf (effQryAlloc c s) := by
  unfold effQryAlloc
  dsimp only
  split
  · exact alloc_wf h
  · exact alloc_wf h

theorem effQryFree_wf {c : Cmd} {s : State} (h : s.wf = true) : CmdOut.wf (effQryFree c s) := by
  refine guard_wf ?_
  dsimp only
  split
  · exact free_wf h
  · exact free_wf h

theorem effQryStatus_wf {c : Cmd} {s : State} (h : s.wf = true) : CmdOut.wf (effQryStatus c s) :=
  takeCounters_wf h

theorem effSprCfg_wf {c : Cmd} {s : State} (h : s.wf = true) : CmdOut.wf (effSprCfg c s) :=
  guard_wf (guard_wf (guard_wf (guard_wf (guard_wf (ite_cmd (ite_cmd (sprDisable_wf h) trivial) (wr_wf h))))))

/-! ### The rule tables' commands -/

theorem withStaged_wf {c : Cmd} {s : State} {k : Staging → CmdOut} (hk : ∀ {x : Staging}, CmdOut.wf (k x)) :
    CmdOut.wf (withStaged c s k) := by
  unfold withStaged
  split
  · trivial
  · exact ite_cmd hk (guard_wf (guard_wf hk))

theorem setLog_wf {x : Staging} {log : List Change} {s : State} (h : s.wf = true) : (setLog x log s).wf = true :=
  showRul_wf (withRul_wf h)

theorem logAdd_wf {c : Cmd} {x : Staging} {add : List Change} {s : State} {k : State → CmdOut} (h : s.wf = true)
    (hk : ∀ {t : State}, t.wf = true → CmdOut.wf (k t)) : CmdOut.wf (logAdd c x add s k) :=
  guard_wf (hk (setLog_wf h))

theorem waitChange_wf {c : Cmd} {k n : Nat} {s : State} (h : s.wf = true) : CmdOut.wf (waitChange c k n s) :=
  ite_cmd h (markRunning_wf h)

theorem indexWrite_wf {α : Type} {c : Cmd} {table i : Nat} {old : Option (Entry α)} {v : α} {x : Staging} {s : State}
    {put : Entry α → State → State} (h : s.wf = true)
    (hput : ∀ {e : Entry α} {t : State}, t.wf = true → (put e t).wf = true) :
    CmdOut.wf (indexWrite c table i old v x s put) := by
  unfold indexWrite
  split
  · exact logAdd_wf h hput
  · exact ite_cmd (hput h) (ite_cmd (guard_wf (waitChange_wf h)) trivial)

theorem entryDelete_wf {α : Type} {c : Cmd} {table key name : Nat} {old : Option (Entry α)} {x : Staging} {s : State}
    {put : Option (Entry α) → State → State} (h : s.wf = true)
    (hput : ∀ {o : Option (Entry α)} {t : State}, t.wf = true → (put o t).wf = true) :
    CmdOut.wf (entryDelete c table key name old x s put) := by
  unfold entryDelete
  split
  · trivial
  · exact ite_cmd (hput (setLog_wf h)) (ite_cmd (logAdd_wf h hput) trivial)

theorem keyForm_wf {c : Cmd} {s : State} {k : Nat → CmdOut} (hk : ∀ {n : Nat}, CmdOut.wf (k n)) :
    CmdOut.wf (keyForm c s k) := by
  refine ite_cmd hk (guard_wf ?_)
  split
  · trivial
  · exact hk

theorem putFlow_wf {b w : Nat} {e : Option (Entry Flow)} {s : State} (h : s.wf = true) :
    (putFlow b w e s).wf = true :=
  withRul_wf h

theorem effRulFlowAdd_wf {c : Cmd} {s : State} (h : s.wf = true) : CmdOut.wf (effRulFlowAdd c s) := by
  refine keyForm_wf ?_
  intros
  refine guard_wf (withStaged_wf ?_)
  intros
  dsimp only
  split
  · exact putFlow_wf h
  · split
    · split
      · exact logAdd_wf h (fun h => putFlow_wf (putFlow_wf h))
      · exact logAdd_wf h putFlow_wf
    · exact guard_wf (ite_cmd (waitChange_wf h) trivial)

theorem effRulFlowDelete_wf {c : Cmd} {s : State} (h : s.wf = true) : CmdOut.wf (effRulFlowDelete c s) := by
  refine keyForm_wf ?_
  intros
  refine withStaged_wf ?_
  intros
  dsimp only
  split
  · exact entryDelete_wf h putFlow_wf
  · trivial

theorem effRulFlowRead_wf {c : Cmd} {s : State} (h : s.wf = true) : CmdOut.wf (effRulFlowRead c s) := by
  refine keyForm_wf ?_
  intros
  refine guard_wf (guard_wf ?_)
  dsimp only
  split
  · exact h
  · trivial

theorem effRulSetLayout_wf {c : Cmd} {s : State} (h : s.wf = true) : CmdOut.wf (effRulSetLayout c s) :=
  guard_wf (guard_wf (guard_wf (guard_wf (ite_cmd (sf_wf h) (sf_wf h)))))

theorem withIndex_wf {c : Cmd} {size : Nat} {k : Nat → CmdOut} (hk : ∀ {n : Nat}, CmdOut.wf (k n)) :
    CmdOut.wf (withIndex c size k) :=
  guard_wf hk

theorem putAcl_wf {i : Nat} {e : Option (Entry Ternary)} {s : State} (h : s.wf = true) : (putAcl i e s).wf = true :=
  withRul_wf h

theorem putPat_wf {i : Nat} {e : Option (Entry Pattern)} {s : State} (h : s.wf = true) : (putPat i e s).wf = true :=
  withRul_wf h

theorem putVerdict_wf {i : Nat} {e : Option (Entry VerdictEntry)} {s : State} (h : s.wf = true) :
    (putVerdict i e s).wf = true :=
  withRul_wf h

theorem putRewrite_wf {i : Nat} {e : Option (Entry (List Byte))} {s : State} (h : s.wf = true) :
    (putRewrite i e s).wf = true :=
  withRul_wf h

theorem effRulAclWrite_wf {c : Cmd} {s : State} (h : s.wf = true) : CmdOut.wf (effRulAclWrite c s) :=
  withIndex_wf (guard_wf (withStaged_wf (indexWrite_wf h putAcl_wf)))

theorem effRulAclDelete_wf {c : Cmd} {s : State} (h : s.wf = true) : CmdOut.wf (effRulAclDelete c s) :=
  withIndex_wf (withStaged_wf (entryDelete_wf h putAcl_wf))

theorem effRulPatternWrite_wf {c : Cmd} {s : State} (h : s.wf = true) : CmdOut.wf (effRulPatternWrite c s) :=
  withIndex_wf (guard_wf (guard_wf (guard_wf (withStaged_wf (indexWrite_wf h putPat_wf)))))

theorem effRulPatternDelete_wf {c : Cmd} {s : State} (h : s.wf = true) : CmdOut.wf (effRulPatternDelete c s) :=
  withIndex_wf (withStaged_wf (entryDelete_wf h putPat_wf))

theorem effRulVerdictWrite_wf {c : Cmd} {s : State} (h : s.wf = true) : CmdOut.wf (effRulVerdictWrite c s) := by
  refine withIndex_wf ?_
  intros
  dsimp only
  split
  · trivial
  · refine guard_wf (guard_wf ?_)
    split
    · trivial
    · trivial
    · exact withStaged_wf (indexWrite_wf h putVerdict_wf)

theorem effRulVerdictDelete_wf {c : Cmd} {s : State} (h : s.wf = true) : CmdOut.wf (effRulVerdictDelete c s) :=
  withIndex_wf (withStaged_wf (entryDelete_wf h putVerdict_wf))

theorem effRulRewriteWrite_wf {c : Cmd} {s : State} (h : s.wf = true) : CmdOut.wf (effRulRewriteWrite c s) :=
  withIndex_wf (guard_wf (withStaged_wf (indexWrite_wf h putRewrite_wf)))

theorem effRulRewriteDelete_wf {c : Cmd} {s : State} (h : s.wf = true) : CmdOut.wf (effRulRewriteDelete c s) :=
  withIndex_wf (withStaged_wf (entryDelete_wf h putRewrite_wf))

theorem effRulPourOpen_wf {c : Cmd} {s : State} (h : s.wf = true) : CmdOut.wf (effRulPourOpen c s) := by
  unfold effRulPourOpen
  split
  · trivial
  · exact showRul_wf (withRul_wf h)

theorem closeStaging_wf {x : Staging} {s : State} (h : s.wf = true) : (closeStaging x s).wf = true :=
  showRul_wf (withRul_wf h)

theorem commitNow_wf {x : Staging} {slot : Nat} {s : State} (h : s.wf = true) : (commitNow x slot s).wf = true := by
  unfold commitNow
  exact showRul_wf (rulCount_wf (withRul_wf h))

theorem effRulPourCommit_wf {c : Cmd} {s : State} (h : s.wf = true) : CmdOut.wf (effRulPourCommit c s) := by
  refine withStaged_wf ?_
  intros
  refine ite_cmd (closeStaging_wf h) ?_
  split
  · exact commitNow_wf h
  · exact closeStaging_wf h

theorem abandonNow_wf {x : Staging} {s : State} (h : s.wf = true) : (abandonNow x s).wf = true :=
  showRul_wf (withRul_wf h)

theorem effRulPourAbandon_wf {c : Cmd} {s : State} (h : s.wf = true) : CmdOut.wf (effRulPourAbandon c s) := by
  unfold effRulPourAbandon
  split
  · trivial
  · exact guard_wf (ite_cmd (closeStaging_wf h) (abandonNow_wf h))

theorem effRulPourStatus_wf {c : Cmd} {s : State} (h : s.wf = true) : CmdOut.wf (effRulPourStatus c s) :=
  h

theorem effRulCounters_wf {c : Cmd} {s : State} (h : s.wf = true) : CmdOut.wf (effRulCounters c s) :=
  takeCounters_wf h

/-- A command of RUL that waited for a resource runs as it would at first. -/
theorem rulWaiting_wf {op : Nat} {eff : CmdEff} {c : Cmd} {s : State} (h : s.wf = true)
    (he : rulWaiting op = some eff) : CmdOut.wf (eff c s) := by
  unfold rulWaiting at he
  split at he <;> cases he
  · exact effRulPourCommit_wf h
  · exact effRulPourAbandon_wf h
  · exact effRulFlowAdd_wf h
  · exact effRulAclWrite_wf h
  · exact effRulPatternWrite_wf h
  · exact effRulVerdictWrite_wf h
  · exact effRulRewriteWrite_wf h

theorem resumeOne_wf {c : Cmd} {s : State} (h : s.wf = true) : (resumeOne c s).wf = true := by
  unfold resumeOne
  split
  · exact h
  case h_2 he =>
    have ho := rulWaiting_wf (c := c) h he
    split
    case h_1 ht =>
      rw [ht] at ho
      exact finish_wf h ho
    case h_2 => exact completeFail_wf h
    case h_3 ht =>
      rw [ht] at ho
      exact completeFail_wf ho
    case h_4 ht =>
      rw [ht] at ho
      exact ho

theorem resumeRul_wf {s : State} (h : s.wf = true) : (resumeRul s).wf = true := by
  unfold resumeRul
  exact showRul_wf (foldl_wf resumeOne_wf (foldl_wf resumeOne_wf h))

theorem retireOldest_wf {s : State} (h : s.wf = true) : (retireOldest s).wf = true := by
  unfold retireOldest
  split
  · exact ite_wf (raise_wf (showRul_wf (withRul_wf h))) h
  · exact h

theorem sweepFirst_wf {s : State} (h : s.wf = true) : (sweepFirst s).wf = true := by
  unfold sweepFirst
  split
  · exact sweepLog_wf h
  · exact h

theorem rulRest_wf {n : Nat} {s : State} (h : s.wf = true) : (rulRest n s).wf = true := by
  induction n generalizing s with
  | zero => exact h
  | succ n ih => exact ih (resumeRul_wf (sweepFirst_wf (retireOldest_wf h)))

theorem execPourRetire_keeps {s : State} : Keeps s (execPourRetire s) := by
  refine act_keeps (fun h => ?_)
  split
  · exact ite_wf (resumeRul_wf (retireOldest_wf h)) h
  · exact h

theorem execLogSweep_keeps {s : State} : Keeps s (execLogSweep s) := by
  refine act_keeps (fun h => ?_)
  split
  · exact resumeRul_wf (sweepLog_wf h)
  · exact h

theorem rulWrite_wf {off : Nat} {v : Word} {s : State} (h : s.wf = true) : OptAns.wf (rulWrite off v s) :=
  ite_optAns (ite_ans trivial (wr_wf h)) trivial

/-! ### The switch core's commands -/

theorem setFrer_wf {i : Nat} {x : Frer} {s : State} (h : s.wf = true) : (setFrer i x s).wf = true :=
  withSwc_wf h

theorem execFrerReset_keeps {i : Nat} {s : State} : Keeps s (execFrerReset i s) :=
  act_keeps (fun h => ite_wf (raise_wf (setFrer_wf h)) h)

theorem countUnfitted_wf {f : Frame} {set : Nat} {s : State} (h : s.wf = true) : (countUnfitted f set s).wf = true :=
  foldl_wf (fun h => raise_wf (swcCount_wf h)) h

theorem noCopies_wf {f : Frame} {s : State} (h : s.wf = true) : (noCopies f s).wf = true :=
  dropFrame_wf h

theorem admitPorts_wf {f : Frame} {a : Asked} {mk : Nat → Bool → Copy} {l : List Nat} {s : State} (h : s.wf = true) :
    (admitPorts f a mk l s).2.wf = true := by
  induction l generalizing s with
  | nil => exact h
  | cons p r ih =>
    refine ih (ite_snd (ite_snd (swcCount_wf h) ?_) h)
    split
    case h_1 ht => exact enqueueCopy_wf h ht
    case h_2 => exact countRefused_wf h

theorem sendItems_wf {f : Frame} {items : List (Nat × Option Copy)} {s : State} (h : s.wf = true) :
    (sendItems f items s).wf = true :=
  foldl_wf laneItem_wf h

theorem admitFrame_wf {f : Frame} {v : Verdict} {a : Asked} {rtag : Option Nat} {pop : Bool} {j : Judged} {s : State}
    (h : s.wf = true) : (admitFrame f v a rtag pop j s).wf = true :=
  share (fun h1 => ite_wf (sendItems_wf (freeFrame_wf h1)) (sendItems_wf (withSwc_wf h1)))
    (ite_wf (rulCount_wf (admitPorts_wf h)) (admitPorts_wf h))

theorem refuseAll_wf {f : Frame} {a : Asked} {s : State} (h : s.wf = true) : (refuseAll f a s).wf = true :=
  noCopies_wf (foldl_wf countRefused_wf h)

theorem actVerdict_wf {v : Verdict} {s : State} (h : s.wf = true) : (actVerdict v s).wf = true := by
  unfold actVerdict
  split
  · exact h
  extract_lets w a s1 s2 stream rcv s3 j s4 gen
  have h3 : s3.wf = true := by
    have h2 : s2.wf = true := countUnfitted_wf (when_wf cnt_wf h)
    unfold s3
    clear_value s2 rcv stream
    split
    · exact setFrer_wf h2
    · exact h2
  have hj : j.2.wf = true := ite_snd (judge_wf h3) h3
  have h4 : s4.wf = true := hj
  clear_value s4 gen
  refine ite_wf (noCopies_wf h3) (ite_wf (refuseAll_wf hj) ?_)
  split
  · exact admitFrame_wf (setFrer_wf h4)
  · exact admitFrame_wf h4

theorem execVerdictAct_keeps {s : State} : Keeps s (execVerdictAct s) := by
  refine act_keeps (fun h => ?_)
  split
  · exact h
  · exact actVerdict_wf (withSwc_wf h)

theorem enterQueue_wf {c : Copy} {s : State} (h : s.wf = true) : (enterQueue c s).wf = true :=
  ite_wf (countRefused_wf (releaseCopy_wf h)) (preempt_wf (setQueue_wf h))

theorem execLaneRelease_keeps {p stream : Nat} {s : State} : Keeps s (execLaneRelease p stream s) := by
  refine act_keeps (fun h => ?_)
  dsimp only
  split
  · exact h
  · split
    · exact enterQueue_wf (setLane_wf h)
    · exact setLane_wf h

theorem execReseqTimeout_keeps {p stream : Nat} {s : State} : Keeps s (execReseqTimeout p stream s) :=
  act_keeps (fun h => ite_wf (laneTimeout_wf h) h)

theorem setPortCfg_wf {p : Nat} {v : Word} {s : State} (h : s.wf = true) : (setPortCfg p v s).wf = true :=
  when_wf flushPort_wf (wr_wf h)

theorem execLinkdownFlushWrite_keeps {m p : Nat} {v : Word} {s : State} : Keeps s (execLinkdownFlushWrite m p v s) :=
  withWrite_keeps (fun h => ite_ans h (ite_ans (setPortCfg_wf h) trivial))

theorem swcWrite_wf {off : Nat} {v : Word} {s : State} (h : s.wf = true) : OptAns.wf (swcWrite off v s) :=
  ite_optAns (ite_ans (wr_wf h) trivial) (ite_optAns (ite_ans (wr_wf h) trivial)
    (ite_optAns (ite_optAns (ite_optAns trivial (ite_ans (setCharge_wf h) trivial))
    (ite_optAns (ite_ans trivial (wr_wf h)) trivial)) trivial))

theorem effSwcSetShared_wf {c : Cmd} {s : State} (h : s.wf = true) : CmdOut.wf (effSwcSetShared c s) :=
  guard_wf (guard_wf (wr_wf (wr_wf (wr_wf h))))

theorem effSwcSetQueue_wf {c : Cmd} {s : State} (h : s.wf = true) : CmdOut.wf (effSwcSetQueue c s) :=
  guard_wf (guard_wf (guard_wf (wr_wf (setCharge_wf h))))

theorem effSwcFlushQueue_wf {c : Cmd} {s : State} (h : s.wf = true) : CmdOut.wf (effSwcFlushQueue c s) :=
  flushQueue_wf h

theorem effSwcSetPort_wf {c : Cmd} {s : State} (h : s.wf = true) : CmdOut.wf (effSwcSetPort c s) :=
  guard_wf (guard_wf (guard_wf (guard_wf (setPortCfg_wf (wr_wf h)))))

theorem fdbKey_wf {c : Cmd} {k : Nat → List Byte → CmdOut} (hk : ∀ {n : Nat} {l : List Byte}, CmdOut.wf (k n l)) :
    CmdOut.wf (fdbKey c k) :=
  guard_wf hk

theorem effSwcFdbWrite_wf {c : Cmd} {s : State} (h : s.wf = true) : CmdOut.wf (effSwcFdbWrite c s) := by
  refine fdbKey_wf ?_
  intros
  refine portSetCheck_wf ?_
  dsimp only
  split
  · exact withSwc_wf h
  · trivial

theorem effSwcFdbDelete_wf {c : Cmd} {s : State} (h : s.wf = true) : CmdOut.wf (effSwcFdbDelete c s) := by
  refine fdbKey_wf ?_
  intros
  split
  · exact withSwc_wf h
  · trivial

theorem effSwcFdbRead_wf {c : Cmd} {s : State} (h : s.wf = true) : CmdOut.wf (effSwcFdbRead c s) := by
  refine fdbKey_wf ?_
  intros
  split
  · exact h
  · trivial

theorem effSwcVlanWrite_wf {c : Cmd} {s : State} (h : s.wf = true) : CmdOut.wf (effSwcVlanWrite c s) :=
  guard_wf (guard_wf (portSetCheck_wf (portSetCheck_wf (portSetCheck_wf (withSwc_wf h)))))

theorem effSwcFrerWrite_wf {c : Cmd} {s : State} (h : s.wf = true) : CmdOut.wf (effSwcFrerWrite c s) :=
  guard_wf (guard_wf (guard_wf (setFrer_wf h)))

theorem effSwcFrerCounters_wf {c : Cmd} {s : State} (h : s.wf = true) : CmdOut.wf (effSwcFrerCounters c s) :=
  setFrer_wf h

theorem effSwcPortCounters_wf {c : Cmd} {s : State} (h : s.wf = true) : CmdOut.wf (effSwcPortCounters c s) :=
  h

/-! ### The counter's tick and a step of it -/

theorem holdoverTick_wf {s : State} (h : s.wf = true) : (holdoverTick s).wf = true :=
  ite_wf (ite_wf (wf_same (cnt_wf h)) (wf_same h)) h

theorem tpoReposition_wf {s : State} (h : s.wf = true) : (tpoReposition s).wf = true :=
  foldl_wf (fun h => ite_wf (wf_same h) h) h

theorem reposition_wf {s : State} (h : s.wf = true) : (reposition s).wf = true :=
  lchReposition_wf (lscReposition_wf (gwyReposition_wf (clnReposition_wf (tmgReposition_wf (tpoReposition_wf h)))))

/-- The counter set to an instant has its nanoseconds below 10^9 (R99). -/
theorem stepClock_wf {off : Int} {s : State} (h : s.wf = true) : (stepClock off s).wf = true := by
  obtain ⟨hr, hm, hf, -⟩ := wf_iff.1 h
  have hns (n : Nat) : n % 1000000000 < 1000000000 := Nat.mod_lt _ (by decide)
  unfold stepClock
  dsimp only
  exact raise_wf (cntF_wf (reposition_wf (wf_iff.2 ⟨hr, hm, hf, hns _⟩)))

theorem keyTick_wf {s : State} (h : s.wf = true) : (keyTick s).wf = true :=
  ite_wf (withKey_wf h) (withKey_wf (wr_wf h))

theorem clockTick_wf {s : State} (h : s.wf = true) : (clockTick s).wf = true := by
  unfold clockTick
  split
  · exact withLch_wf h
  · exact h

theorem samplePodl_wf {s : State} (h : s.wf = true) : (samplePodl s).wf = true :=
  ite_wf h (foldl_wf sb_wf (wf_same h))

theorem clusterTick_wf {s : State} (h : s.wf = true) : (clusterTick s).wf = true :=
  sampleLevels_wf (wf_same h)

/-- A tick carries the nanoseconds that reach 10^9 into the seconds (R99, R100). -/
theorem counterAfter_ns {t : TimState} (h : t.ns < 1000000000) : (counterAfter t).ns < 1000000000 := by
  have hf := t.frac.isLt
  have hi := t.incr.isLt
  unfold counterAfter
  dsimp only
  split
  · omega
  · omega

theorem counter_wf {s : State} (h : s.wf = true) : ({ s with tim := counterAfter s.tim } : State).wf = true := by
  obtain ⟨hr, hm, hf, hn⟩ := wf_iff.1 h
  exact mk_wf hr hm hf (counterAfter_ns hn)

theorem tick_wf {s : State} (h : s.wf = true) : (tick s).wf = true :=
  unsettleAll_wf (when_wf (fun h => sprueTick_wf (holdoverTick_wf (counter_wf h))) (when_wf clusterTick_wf
    (unless_wf (fun h => samplePodl_wf (sampleRails_wf (sampleCurrents_wf h)))
      (clockTick_wf (keyTick_wf (wf_same h))))))

/-! ### The time base's commands -/

theorem execTimeNsRead_keeps {m : Nat} {s : State} : Keeps s (execTimeNsRead m s) :=
  withRead_keeps (fun h => reply_wf (wf_same h))

theorem commitIncr_wf {v : Nat} {s : State} (h : s.wf = true) : (commitIncr v s).wf = true :=
  unless_wf (fun h => raise_wf (sb_wf h)) (wr_wf (wr_wf (wf_same h)))

theorem foreignWrite_wf {s : State} (h : s.wf = true) : (foreignWrite s).wf = true :=
  cntF_wf h

theorem execIncrCommit_keeps {m : Nat} {v : Word} {s : State} : Keeps s (execIncrCommit m v s) :=
  withWrite_keeps (fun h => ite_ans trivial (ite_ans (foreignWrite_wf h) (commitIncr_wf h)))

theorem execStepCommit_keeps {m : Nat} {v : Word} {s : State} : Keeps s (execStepCommit m v s) :=
  withWrite_keeps (fun h => ite_ans (foreignWrite_wf h) (ite_ans (stepClock_wf h) trivial))

theorem showServo_wf {s : State} (h : s.wf = true) : (showServo s).wf = true :=
  when_wf (fun h => wf_same (wr_wf h)) (sb_wf (sf_wf h))

theorem setServo_wf {v : Servo} {s : State} (h : s.wf = true) : (setServo v s).wf = true :=
  showServo_wf (wf_same h)

theorem servoCorrect_wf {off : Int} {s : State} (h : s.wf = true) : (servoCorrect off s).wf = true :=
  ite_wf (stepClock_wf h) (commitIncr_wf (State.free_wf h))

theorem lockJudge_wf {off : Int} {s : State} (h : s.wf = true) : (lockJudge off s).wf = true :=
  when_wf (fun h => raise_wf (setServo_wf (wf_same h))) (wf_same h)

theorem governingSync_wf {off : Int} {s : State} (h : s.wf = true) : (governingSync off s).wf = true := by
  unfold governingSync
  dsimp only
  split
  · exact lockJudge_wf (setServo_wf (servoCorrect_wf h))
  · exact lockJudge_wf (servoCorrect_wf h)
  · exact ite_wf (setServo_wf (servoCorrect_wf (wf_same h))) (servoCorrect_wf h)
  · exact lockJudge_wf (servoCorrect_wf (raise_wf (setServo_wf (wf_same h))))
  · exact lockJudge_wf (servoCorrect_wf (raise_wf (setServo_wf (wf_same h))))

theorem execSyncAccepted_keeps {domain : Nat} {offset : Int} {s : State} :
    Keeps s (execSyncAccepted domain offset s) :=
  act_keeps (fun h => ite_wf h (ite_wf (governingSync_wf h) (wr_wf h)))

theorem execSyncReceiptTimeout_keeps {s : State} : Keeps s (execSyncReceiptTimeout s) := by
  refine act_keeps (fun h => ite_wf h ?_)
  split
  · exact raise_wf (setServo_wf (wf_same h))
  · exact raise_wf (setServo_wf (wf_same h))
  · exact h

theorem execGmChange_keeps {s : State} : Keeps s (execGmChange s) :=
  act_keeps (fun h => ite_wf h (raise_wf (setServo_wf (wf_same h))))

theorem execGptpSyncSend_keeps {domain port : Nat} {pdelay : Bool} {s : State} :
    Keeps s (execGptpSyncSend domain port pdelay s) :=
  act_keeps (fun h => ite_wf h (ite_wf (wf_same h) h))

theorem setPulse_wf {k : Nat} {p : Pulse} {s : State} (h : s.wf = true) : (setPulse k p s).wf = true :=
  wf_same h

theorem tpoBegin_wf {k : Nat} {s : State} (h : s.wf = true) : (tpoBegin k s).wf = true :=
  share (fun h1 => ite_wf (when_wf (fun h => raise_wf (cntF_wf h)) (setPulse_wf h1)) (setPulse_wf h1)) (sb_wf h)

theorem tpoEnd_wf {k : Nat} {s : State} (h : s.wf = true) : (tpoEnd k s).wf = true :=
  setPulse_wf (sb_wf h)

theorem execTpoEnableWrite_keeps {m k : Nat} {v : Word} {s : State} : Keeps s (execTpoEnableWrite m k v s) :=
  withWrite_keeps (fun h => ite_ans h (ite_ans trivial (ite_ans (ite_wf h (tpoEnd_wf h))
    (share (fun h1 => ite_ans h1 (ite_ans trivial (tpoBegin_wf h1))) (wr_wf h)))))

theorem execTpoEdge_keeps {k : Nat} {s : State} : Keeps s (execTpoEdge k s) :=
  act_keeps (fun h => ite_wf h (ite_wf (ite_wf (ite_wf (tpoEnd_wf h) (setPulse_wf h)) h)
    (ite_wf (when_wf (fun h => raise_wf (cntF_wf h)) (setPulse_wf h)) h)))

theorem execTciCapture_keeps {k : Nat} {falling : Bool} {s : State} : Keeps s (execTciCapture k falling s) :=
  act_keeps (fun h => ite_wf h (ite_wf (raise_wf (cntF_wf h)) (raise_wf (sf_wf (wf_same h)))))

theorem execTciPop_keeps {m k : Nat} {s : State} : Keeps s (execTciPop m k s) := by
  refine withRead_keeps (fun h => ?_)
  split
  · exact reply_wf h
  · exact reply_wf (sf_wf (sf_wf (wr_wf (wf_same h))))

theorem effTimGetTime_wf {c : Cmd} {s : State} (h : s.wf = true) : CmdOut.wf (effTimGetTime c s) :=
  h

theorem effTimStep_wf {c : Cmd} {s : State} (h : s.wf = true) : CmdOut.wf (effTimStep c s) :=
  guard_wf (guard_wf (stepClock_wf h))

theorem effTimSetIncr_wf {c : Cmd} {s : State} (h : s.wf = true) : CmdOut.wf (effTimSetIncr c s) :=
  guard_wf (guard_wf (guard_wf (commitIncr_wf h)))

theorem effTimSetServo_wf {c : Cmd} {s : State} (h : s.wf = true) : CmdOut.wf (effTimSetServo c s) :=
  ite_cmd (showServo_wf (wr_wf h)) trivial

theorem effTimGptpCfg_wf {c : Cmd} {s : State} (h : s.wf = true) : CmdOut.wf (effTimGptpCfg c s) :=
  guard_wf (guard_wf (guard_wf (guard_wf (ite_cmd (guard_wf (sb_wf h)) (wr_wf (wr_wf (wr_wf h)))))))

theorem effTimPulseCfg_wf {c : Cmd} {s : State} (h : s.wf = true) : CmdOut.wf (effTimPulseCfg c s) :=
  guard_wf (guard_wf (guard_wf (guard_wf (guard_wf (when_wf tpoBegin_wf (wr_wf (wr_wf (wr_wf (wr_wf (wr_wf h))))))))))

theorem effTimCaptureCfg_wf {c : Cmd} {s : State} (h : s.wf = true) : CmdOut.wf (effTimCaptureCfg c s) :=
  guard_wf (guard_wf (wr_wf h))

theorem timWrite_wf {off : Nat} {v : Word} {s : State} (h : s.wf = true) : OptAns.wf (timWrite off v s) :=
  ite_optAns (wf_same h) (ite_optAns (ite_ans (showServo_wf (wr_wf h)) trivial)
    (ite_optAns (ite_optAns (ite_wf (sb_wf h) h) (ite_optAns (ite_ans trivial (wr_wf h)) trivial))
    (ite_optAns (ite_optAns (ite_optAns h trivial) (ite_optAns trivial trivial))
    (ite_optAns (ite_ans trivial (wr_wf h)) trivial))))

/-! ### The traffic manager's commands -/

theorem discardHead_wf {q : Nat} {s : State} (h : s.wf = true) : (discardHead q s).wf = true := by
  unfold discardHead
  split
  · exact h
  · exact showQueue_wf (releaseCopy_wf (setQueue_wf h))

theorem purgeQueue_wf {q fuel : Nat} {s : State} (h : s.wf = true) : (purgeQueue q fuel s).wf = true := by
  induction fuel generalizing s with
  | zero => exact h
  | succ fuel ih =>
    unfold purgeQueue
    split
    · exact h
    · exact ite_wf (ih (discardHead_wf (cnt_wf h))) (ite_wf (ih (raise_wf (discardHead_wf (cnt_wf h)))) h)

theorem purgePort_wf {p : Nat} {s : State} (h : s.wf = true) : (purgePort p s).wf = true :=
  foldl_wf purgeQueue_wf h

theorem judgeQueue_wf {q : Nat} {s : State} (h : s.wf = true) : (judgeQueue q s).2.wf = true :=
  ite_snd (ite_snd h (cnt_wf h)) h

theorem drrLoop_wf {p : Nat} {ok : Nat → Bool} {fuel : Nat} {s : State} (h : s.wf = true) :
    (drrLoop p ok fuel s).2.wf = true := by
  induction fuel generalizing s with
  | zero => exact h
  | succ fuel ih =>
    exact ite_snd (ite_snd (wr_wf (unless_wf (fun h => withTmg_wf (cnt_wf h)) h))
      (ih (withTmg_wf (unless_wf (fun h => withTmg_wf (cnt_wf h)) h)))) (ih (withTmg_wf h))

theorem drrSelect_wf {p : Nat} {qs : List Nat} {pass : Pass} {s : State} (h : s.wf = true) :
    (drrSelect p qs pass s).2.wf = true :=
  ite_snd (drrLoop_wf h) h

theorem choose_wf {p : Nat} {s : State} (h : s.wf = true) : (choose p s).2.wf = true := by
  have h6 := judgeQueue_wf (q := p * 8 + 6) (judgeQueue_wf (q := p * 8 + 7) h)
  refine ite_snd (judgeQueue_wf h) (ite_snd h6 ?_)
  extract_lets r c
  have hr : r.2.wf = true := foldl_snd_wf judgeQueue_wf h6
  have hc : c.2.wf = true := drrSelect_wf hr
  clear_value r c
  split
  · exact hc
  · exact drrSelect_wf hc

theorem startCopy_wf {p q : Nat} {bad : Option Nat} {s : State} (h : s.wf = true) :
    (startCopy p q bad s).wf = true := by
  unfold startCopy
  split
  · exact h
  · split
    · dsimp only
      split
      · exact showQueue_wf (releaseCopy_wf (when_wf igDeliver_wf (tcwFail_wf (setQueue_wf h))))
      · exact showQueue_wf (releaseCopy_wf (tcwFail_wf (setQueue_wf h)))
    · dsimp only
      split
      · exact when_wf withEth_wf (setQueue_wf (setTx_wf (debit_wf h)))
      · exact (setQueue_wf (setTx_wf (debit_wf h)))

theorem transmitSelect_wf {p : Nat} {bad : Option Nat} {s : State} (h : s.wf = true) :
    (transmitSelect p bad s).wf = true := by
  refine ite_wf h ?_
  extract_lets u
  have hu : u.wf = true := cutNow_wf (preempt_wf (purgePort_wf h))
  have hj := judgeQueue_wf (q := p * 8 + 7) hu
  have hc := choose_wf (p := p) hu
  clear_value u
  split
  · exact hu
  · exact ite_wf (startCopy_wf hj) (ite_wf hj (setTx_wf (withSwc_wf hj)))
  · split
    · exact startCopy_wf hc
    · exact hc

theorem execTransmitSelect_keeps {p : Nat} {bad : Option Nat} {s : State} : Keeps s (execTransmitSelect p bad s) :=
  act_keeps transmitSelect_wf

theorem execCourseBoundary_keeps {p : Nat} {s : State} : Keeps s (execCourseBoundary p s) := by
  refine act_keeps (fun h => ?_)
  split
  · exact h
  · exact ite_wf (preempt_wf (beginCourse_wf h)) h

theorem execListSwitched_keeps {p : Nat} {s : State} : Keeps s (execListSwitched p s) := by
  refine act_keeps (fun h => ?_)
  split
  · exact ite_wf (preempt_wf (purgePort_wf (applySwitch_wf h))) h
  · exact h

theorem execVerifyTimer_keeps {p : Nat} {ok : Bool} {s : State} : Keeps s (execVerifyTimer p ok s) :=
  act_keeps (fun h => ite_wf h (ite_wf (showPreempt_wf (sf_wf h))
    (ite_wf (withTmg_wf h) (raise_wf (cnt_wf (showPreempt_wf (sf_wf h)))))))

theorem sampleQueue_wf {q : Nat} {s : State} (h : s.wf = true) : (sampleQueue q s).wf = true :=
  wr_wf (wr_wf (cnt_wf h))

theorem execLatencySample_keeps {s : State} : Keeps s (execLatencySample s) :=
  act_keeps (fun h => ite_wf (foldl_wf (fun h => foldl_wf sampleQueue_wf h) h) h)

theorem setTmgPort_wf {p : Nat} {v : Word} {s : State} (h : s.wf = true) : (setTmgPort p v s).wf = true :=
  unless_wf restartVerify_wf (unless_wf (fun h => foldl_wf (fun h => foldl_wf wr_wf h) h) (wr_wf h))

theorem setShaper_wf {q : Nat} {cfg cir cbs : Word} {s : State} (h : s.wf = true) :
    (setShaper q cfg cir cbs s).wf = true :=
  setBucket_wf (wr_wf (wr_wf (wr_wf h)))

theorem setGroup_wf {g : Nat} {cfg cir cbs pir pbs : Word} {s : State} (h : s.wf = true) :
    (setGroup g cfg cir cbs pir pbs s).wf = true :=
  setBucket_wf (setBucket_wf (wr_wf (wr_wf (wr_wf (wr_wf (wr_wf h))))))

theorem tmgWrite_wf {off : Nat} {v : Word} {s : State} (h : s.wf = true) : OptAns.wf (tmgWrite off v s) :=
  ite_optAns (ite_ans (wr_wf h) trivial) (ite_optAns (ite_optAns (ite_ans (setTmgPort_wf h) trivial)
    (ite_optAns (ite_ans (wr_wf h) trivial) trivial)) (ite_optAns
    (share (fun h1 => ite_optAns (ite_ans h1 trivial) (ite_optAns (ite_ans h1 trivial)
    (ite_optAns (ite_ans h1 trivial) trivial))) (setGroup_wf h))
    (ite_optAns (share (fun h1 => ite_optAns (ite_ans h1 trivial)
    (ite_optAns (ite_ans h1 trivial) (ite_optAns (ite_ans h1 trivial)
    (ite_optAns (ite_ans (wr_wf h) trivial) trivial)))) (setShaper_wf h)) trivial)))

theorem effTmgSetPort_wf {c : Cmd} {s : State} (h : s.wf = true) : CmdOut.wf (effTmgSetPort c s) :=
  guard_wf (guard_wf (guard_wf (guard_wf (guard_wf (guard_wf (setTmgPort_wf (wr_wf h)))))))

theorem cycleCheck_wf {ok : Word × Word → Bool} {o : Nat} {l : List (Word × Word)} {k : CmdOut} (hk : CmdOut.wf k) :
    CmdOut.wf (cycleCheck ok o l k) := by
  unfold cycleCheck
  split
  · trivial
  · exact guard_wf hk

theorem effTmgCoursesLoad_wf {c : Cmd} {s : State} (h : s.wf = true) : CmdOut.wf (effTmgCoursesLoad c s) :=
  guard_wf (guard_wf (guard_wf (cycleCheck_wf (guard_wf (withTmg_wf h)))))

theorem effTmgGateSwitch_wf {c : Cmd} {s : State} (h : s.wf = true) : CmdOut.wf (effTmgGateSwitch c s) := by
  refine guard_wf (guard_wf (guard_wf (guard_wf ?_)))
  split
  · trivial
  · exact guard_wf (showLists_wf (withTmg_wf h))

theorem effTmgGateStatus_wf {c : Cmd} {s : State} (h : s.wf = true) : CmdOut.wf (effTmgGateStatus c s) :=
  h

theorem effTmgSetQueue_wf {c : Cmd} {s : State} (h : s.wf = true) : CmdOut.wf (effTmgSetQueue c s) := by
  refine guard_wf (guard_wf (guard_wf (guard_wf ?_)))
  split
  · trivial
  · exact setShaper_wf (wr_wf h)

theorem meterCheck_wf {c : Cmd} {o : Nat} {k : CmdOut} (hk : CmdOut.wf k) : CmdOut.wf (meterCheck c o k) :=
  guard_wf (guard_wf (guard_wf (guard_wf (guard_wf hk))))

theorem effTmgSetGroup_wf {c : Cmd} {s : State} (h : s.wf = true) : CmdOut.wf (effTmgSetGroup c s) :=
  guard_wf (guard_wf (guard_wf (guard_wf (meterCheck_wf (guard_wf (guard_wf (guard_wf (setGroup_wf h))))))))

theorem withEntry_wf {c : Cmd} {k : Nat → CmdOut} (hk : ∀ {n : Nat}, CmdOut.wf (k n)) : CmdOut.wf (withEntry c k) :=
  guard_wf (guard_wf hk)

theorem effTmgSetPolicer_wf {c : Cmd} {s : State} (h : s.wf = true) : CmdOut.wf (effTmgSetPolicer c s) :=
  withEntry_wf (guard_wf (guard_wf (meterCheck_wf (setPolicer_wf h))))

theorem effTmgPolicerCounters_wf {c : Cmd} {s : State} (h : s.wf = true) : CmdOut.wf (effTmgPolicerCounters c s) :=
  withEntry_wf (setPolicer_wf h)

theorem effTmgSetStreamGate_wf {c : Cmd} {s : State} (h : s.wf = true) : CmdOut.wf (effTmgSetStreamGate c s) :=
  guard_wf (guard_wf (guard_wf (guard_wf (guard_wf (cycleCheck_wf
    (ite_cmd (guard_wf (withTmg_wf h)) (withTmg_wf h)))))))

theorem effTmgSetLatency_wf {c : Cmd} {s : State} (h : s.wf = true) : CmdOut.wf (effTmgSetLatency c s) :=
  guard_wf (guard_wf (wr_wf h))

theorem effTmgLatRead_wf {c : Cmd} {s : State} (h : s.wf = true) : CmdOut.wf (effTmgLatRead c s) :=
  takeCounters_wf h

theorem effTmgPortCounters_wf {c : Cmd} {s : State} (h : s.wf = true) : CmdOut.wf (effTmgPortCounters c s) :=
  h

/-! ### Accesses on the fabric -/

theorem rowWrite_keeps {m b off : Nat} {v : Word} {s : State} : RowKeeps s (rowWrite m b off v s) := by
  unfold rowWrite
  dsimp only
  split
  · exact ite_row (withWrite_keeps (fun h => h)) trivial
  · exact ite_row execCmdTimeoutWrite_keeps (ite_row execNcpCtrlWrite_keeps (ite_row ringOwnerWrite_keeps
      (ite_row rspHeadWrite_keeps (ite_row ringCtrlWrite_keeps (ite_row execRingDoorbell_keeps trivial)))))
  · exact ite_keeps execAclLockWrite_keeps execAclWindowWrite_keeps
  · exact ite_row execIncrCommit_keeps (ite_row execStepCommit_keeps (ite_row execTpoEnableWrite_keeps trivial))
  · exact ite_row execLinkdownFlushWrite_keeps trivial
  · exact ite_row execPortCtrlWrite_keeps (ite_row execPodlCfgWrite_keeps (ite_row execIcTxDoorbell_keeps trivial))
  · exact ite_row execHostqCfgWrite_keeps (ite_row execInjectDoorbell_keeps (ite_row execNmCfgWrite_keeps trivial))
  · exact ite_row execPoolCfgWrite_keeps (ite_row execFreeCommit_keeps
      (ite_row pushCmd_keeps (ite_row consCtrl_keeps trivial)))
  · exact ite_row execJobRingCtrlWrite_keeps (ite_row jobOwnerWrite_keeps (ite_row cHeadWrite_keeps
      (ite_row execJobDoorbell_keeps trivial)))
  · exact ite_row execOSend_keeps (ite_row oCtrlWrite_keeps trivial)
  · exact ite_row execArmWrite_keeps trivial
  · trivial

theorem hltWrite_wf {off : Nat} {v : Word} {s : State} (h : s.wf = true) : OptAns.wf (hltWrite off v s) :=
  ite_optAns (wr_wf h) (ite_optAns (ite_optAns trivial trivial) trivial)

theorem blockWrite_wf {m b off : Nat} {v : Word} {s : State} (h : s.wf = true) :
    OptAns.wf (blockWrite m b off v s) := by
  unfold blockWrite
  split
  · exact ite_optAns h trivial
  · exact timWrite_wf h
  · exact swcWrite_wf h
  · exact rulWrite_wf h
  · exact ite_optAns (tmgWrite_wf h) (drop_wf h)
  · exact ethWrite_wf h
  · exact clnWrite_wf h
  · exact gwyWrite_wf h
  · exact qryWrite_wf h
  · exact cruWrite_wf h
  · exact lscWrite_wf h
  · exact ordWrite_wf
  · exact lchWrite_wf h
  · exact keyWrite_wf h
  · exact hbrWrite_wf h
  · exact hltWrite_wf h
  · trivial

theorem plainWrite_wf {m b off : Nat} {v : Word} {d : RegDesc} {s : State} (h : s.wf = true) :
    Ans.wf (plainWrite m b off v d s) := by
  have hb : OptAns.wf (blockWrite m b off v s) := blockWrite_wf h
  refine ite_ans h (ite_ans trivial ?_)
  split
  case h_1 o ho =>
    rw [ho] at hb
    exact hb
  case h_2 => exact wr_wf h

theorem regWrite_keeps {m b off : Nat} {v : Word} {s : State} : Keeps s (regWrite m b off v s) := by
  have hrow : RowKeeps s (rowWrite m b off v s) := rowWrite_keeps
  unfold regWrite
  generalize rowWrite m b off v s = x at hrow ⊢
  generalize regDesc (rg b off) = y
  refine ite_keeps (next_keeps refuse_wf) ?_
  cases x with
  | some o => exact hrow
  | none =>
    cases y with
    | some d => exact withWrite_keeps plainWrite_wf
    | none => exact next_keeps (unless_wf refuse_wf)

theorem oddAccess_wf {m b off n : Nat} {wr : Bool} {s : State} (h : s.wf = true) :
    (oddAccess m b off n wr s).wf = true := by
  refine ite_wf (refuse_wf h) ?_
  split
  · exact ite_wf h (reply_wf h)
  · exact ite_wf (ite_wf (drop_wf h) (reply_wf (refuseRead_wf h))) (ite_wf (stray_wf h) (reply_wf (stray_wf h)))

theorem fabricWrite_keeps {m a : Nat} {data : List Byte} {s : State} : Keeps s (fabricWrite m a data s) := by
  unfold fabricWrite
  split
  · exact ite_keeps (next_keeps fun h => oddAccess_wf h) regWrite_keeps
  · exact next_keeps fun h => clusterWrite_wf h
  · exact next_keeps fun h => outAccess_wf h
  · exact next_keeps fun h => ite_wf (refuse_wf h) (wrBytes_wf h)

theorem ownFault_wf {m a : Nat} {wr : Bool} {e : XFault} {s : State} (h : s.wf = true) :
    (ownFault m a wr e s).wf = true :=
  ite_wf (ite_wf (busError_wf h) h) (reply_wf (devFault_wf h))

theorem execRegisterWrite_keeps {m addr : Nat} {data : List Byte} {s : State} :
    Keeps s (execRegisterWrite m addr data s) := by
  refine fabricAct_keeps (fun h => ?_)
  split
  · exact after_wf fabricWrite_keeps h
  · exact ownFault_wf h

theorem rowRead_keeps {m b off : Nat} {s : State} : RowKeeps s (rowRead m b off s) := by
  unfold rowRead
  split
  · exact ite_row execSysErrPop_keeps trivial
  · exact ite_row execTimeNsRead_keeps (ite_row execTciPop_keeps trivial)
  · exact ite_row execTxtsPop_keeps trivial
  · exact ite_row execQryErrPop_keeps (ite_row execAllocRead_keeps (ite_row execSpruePop_keeps trivial))
  · exact ite_row execHbrErrPop_keeps trivial
  · trivial

/-- The kernel must not evaluate the descriptor of a symbolic address, so the read is unfolded as a function. -/
theorem plainRead_wf {m b off : Nat} {s : State} (h : s.wf = true) : (plainRead m b off s).wf = true := by
  suffices hp : ∀ f, f = plainRead → (f m b off s).wf = true from hp _ rfl
  delta plainRead
  rintro f rfl
  beta_reduce
  generalize regDesc (rg b off) = d
  cases d with
  | none => exact reply_wf h
  | some d =>
    refine ite_wf (reply_wf h) ?_
    split
    · exact reply_wf h
    · exact reply_wf (rdClear_wf (when_wf (fun h => wf_same h) h))

theorem unsettleBlock_wf {b : Nat} {s : State} (h : s.wf = true) : (unsettleBlock b s).wf = true :=
  foldl_wf unsettle_wf h

theorem regRead_keeps {m b off : Nat} {s : State} : Keeps s (regRead m b off s) := by
  refine Keeps.of_same (unsettleBlock_wf (b := b)) ?_
  unfold regRead
  extract_lets u
  change Keeps u _
  clear_value u
  have hrow : RowKeeps u (rowRead m b off u) := rowRead_keeps
  generalize rowRead m b off u = x at hrow ⊢
  refine ite_keeps (next_keeps refuse_wf) (ite_keeps execSysFenceRead_keeps ?_)
  cases x with
  | some o => exact hrow
  | none =>
    dsimp only
    split
    · exact withRead_keeps reply_wf
    · exact withRead_keeps plainRead_wf

/-! ### The opcodes of every class -/

theorem exeGeneral_wf {op : Nat} {eff : CmdEff} {c : Cmd} {s : State} (h : s.wf = true)
    (he : exeGeneral op = some eff) :
    CmdOut.wf (eff c s) := by
  unfold exeGeneral at he
  split at he <;> cases he
  · exact effNop_wf h
  · exact effNop_wf h
  · exact effEcho_wf h
  · exact effGetVariant_wf h

theorem exeAcl_wf {op : Nat} {eff : CmdEff} {c : Cmd} {s : State} (h : s.wf = true) (he : exeAcl op = some eff) :
    CmdOut.wf (eff c s) := by
  unfold exeAcl at he
  split at he <;> cases he
  · exact effAclSetEntry_wf h
  · exact effAclGetEntry_wf h
  · exact effAclLock_wf h
  · exact effAclSetWindow_wf h
  · exact effAclGetWindow_wf h

theorem exeTim_wf {op : Nat} {eff : CmdEff} {c : Cmd} {s : State} (h : s.wf = true) (he : exeTim op = some eff) :
    CmdOut.wf (eff c s) := by
  unfold exeTim at he
  split at he <;> cases he
  · exact effTimGetTime_wf h
  · exact effTimStep_wf h
  · exact effTimSetIncr_wf h
  · exact effTimSetServo_wf h
  · exact effTimGptpCfg_wf h
  · exact effTimPulseCfg_wf h
  · exact effTimCaptureCfg_wf h

theorem exeSwc_wf {op : Nat} {eff : CmdEff} {c : Cmd} {s : State} (h : s.wf = true) (he : exeSwc op = some eff) :
    CmdOut.wf (eff c s) := by
  unfold exeSwc at he
  split at he <;> cases he
  · exact effSwcSetShared_wf h
  · exact effSwcSetQueue_wf h
  · exact effSwcFlushQueue_wf h
  · exact effSwcSetPort_wf h
  · exact effSwcFdbWrite_wf h
  · exact effSwcFdbDelete_wf h
  · exact effSwcFdbRead_wf h
  · exact effSwcVlanWrite_wf h
  · exact effSwcFrerWrite_wf h
  · exact effSwcFrerCounters_wf h
  · exact effSwcPortCounters_wf h

theorem exePrs_wf {op : Nat} {eff : CmdEff} {c : Cmd} {s : State} (h : s.wf = true) (he : exePrs op = some eff) :
    CmdOut.wf (eff c s) := by
  unfold exePrs at he
  split at he <;> cases he
  · exact effPrsProgLoad_wf h
  · exact effPrsProgActivate_wf h
  · exact effPrsProgRead_wf h
  · exact effPrsSetCfg_wf h
  · exact effPrsCounters_wf h

theorem exeRul_wf {op : Nat} {eff : CmdEff} {c : Cmd} {s : State} (h : s.wf = true) (he : exeRul op = some eff) :
    CmdOut.wf (eff c s) := by
  unfold exeRul at he
  split at he <;> cases he
  · exact effRulPourOpen_wf h
  · exact effRulPourCommit_wf h
  · exact effRulPourAbandon_wf h
  · exact effRulPourStatus_wf h
  · exact effRulFlowAdd_wf h
  · exact effRulFlowDelete_wf h
  · exact effRulFlowRead_wf h
  · exact effRulAclWrite_wf h
  · exact effRulAclDelete_wf h
  · exact effRulPatternWrite_wf h
  · exact effRulPatternDelete_wf h
  · exact effRulVerdictWrite_wf h
  · exact effRulVerdictDelete_wf h
  · exact effRulRewriteWrite_wf h
  · exact effRulRewriteDelete_wf h
  · exact effRulSetLayout_wf h
  · exact effRulCounters_wf h

theorem exeTmg_wf {op : Nat} {eff : CmdEff} {c : Cmd} {s : State} (h : s.wf = true) (he : exeTmg op = some eff) :
    CmdOut.wf (eff c s) := by
  unfold exeTmg at he
  split at he <;> cases he
  · exact effTmgSetPort_wf h
  · exact effTmgCoursesLoad_wf h
  · exact effTmgGateSwitch_wf h
  · exact effTmgGateStatus_wf h
  · exact effTmgSetQueue_wf h
  · exact effTmgSetGroup_wf h
  · exact effTmgSetPolicer_wf h
  · exact effTmgPolicerCounters_wf h
  · exact effTmgSetStreamGate_wf h
  · exact effTmgSetLatency_wf h
  · exact effTmgLatRead_wf h
  · exact effTmgPortCounters_wf h

theorem exeEth_wf {op : Nat} {eff : CmdEff} {c : Cmd} {s : State} (h : s.wf = true) (he : exeEth op = some eff) :
    CmdOut.wf (eff c s) := by
  unfold exeEth at he
  split at he <;> cases he
  · exact effEthSetPort_wf h
  · exact effEthPortEnable_wf h
  · exact effEthLinkStatus_wf h
  · exact effEthTc10_wf h
  · exact effEthRtSave_wf h
  · exact effEthRtClear_wf h
  · exact effEthPlcaCfg_wf h
  · exact effEthPodl_wf h
  · exact effEthSaInstall_wf h
  · exact effEthSaTxSwitch_wf h
  · exact effEthSaDelete_wf h
  · exact effEthSaStatus_wf h
  · exact effEthPortCounters_wf h

theorem exeCln_wf {op : Nat} {eff : CmdEff} {c : Cmd} {s : State} (h : s.wf = true) (he : exeCln op = some eff) :
    CmdOut.wf (eff c s) := by
  unfold exeCln at he
  split at he <;> cases he
  · exact effClnCanConfig_wf h
  · exact effClnCanMode_wf h
  · exact effClnCanTxLoad_wf h
  · exact effClnCanTxAbort_wf h
  · exact effClnCanTxStatus_wf h
  · exact effClnCanFilter_wf h
  · exact effClnCanRecover_wf h
  · exact effClnCanWakeCfg_wf h
  · exact effClnCanCounters_wf h
  · exact effClnLinConfig_wf h
  · exact effClnLinSchedLoad_wf h
  · exact effClnLinRun_wf h
  · exact effClnLinData_wf h
  · exact effClnLinPower_wf h
  · exact effClnLinCounters_wf h

theorem exeGwy_wf {op : Nat} {eff : CmdEff} {c : Cmd} {s : State} (h : s.wf = true) (he : exeGwy op = some eff) :
    CmdOut.wf (eff c s) := by
  unfold exeGwy at he
  split at he <;> cases he
  · exact effGwyRouteWrite_wf h
  · exact effGwyRouteDelete_wf h
  · exact effGwyRouteRead_wf h
  · exact effGwySetSource_wf h
  · exact effGwyTunnelCfg_wf h
  · exact effGwyAuthProfile_wf h
  · exact effGwyFreshSet_wf h
  · exact effGwyCounters_wf h

theorem exeNm_wf {op : Nat} {eff : CmdEff} {c : Cmd} {s : State} (h : s.wf = true) (he : exeNm op = some eff) :
    CmdOut.wf (eff c s) := by
  unfold exeNm at he
  split at he <;> cases he
  · exact effGwyNmCfg_wf h
  · exact effGwyNmRequest_wf h
  · exact effGwyNmStatus_wf h
  · exact effGwyNmUdata_wf h

theorem exeQry_wf {op : Nat} {eff : CmdEff} {c : Cmd} {s : State} (h : s.wf = true) (he : exeQry op = some eff) :
    CmdOut.wf (eff c s) := by
  unfold exeQry at he
  split at he <;> cases he
  · exact effQryPoolCfg_wf h
  · exact effQryReqCfg_wf h
  · exact effQryAlloc_wf h
  · exact effQryFree_wf h
  · exact effQryStatus_wf h
  · exact effSprCfg_wf h

theorem exeCru_wf {op : Nat} {eff : CmdEff} {c : Cmd} {s : State} (h : s.wf = true) (he : exeCru op = some eff) :
    CmdOut.wf (eff c s) := by
  unfold exeCru at he
  split at he <;> cases he
  · exact effCruKeyLoad_wf h
  · exact effCruKeyUnwrap_wf h
  · exact effCruKeyWrap_wf h
  · exact effCruKeyErase_wf h
  · exact effCruKeyStatus_wf h
  · exact effCruEraseAll_wf h
  · exact effCruCounters_wf h

theorem onCopies_wf {f : List Word → List Word → CmdEff} {c : Cmd} {s : State}
    (hf : ∀ {l : List Word} {bs : List Word} {d : Cmd} {t : State}, t.wf = true → CmdOut.wf (f l bs d t))
    (h : s.wf = true) : CmdOut.wf (onCopies f c s) :=
  hf h

theorem exeLsc_wf {op : Nat} {eff : CmdEff} {c : Cmd} {s : State} (h : s.wf = true) (he : exeLsc op = some eff) :
    CmdOut.wf (eff c s) := by
  unfold exeLsc at he
  split at he <;> cases he
  · exact effLscStatus_wf h
  · exact effLscSetCfg_wf h
  · exact onCopies_wf effLscRelease_wf h
  · exact onCopies_wf effLscSyncCheck_wf h
  · exact effLscSplit_wf h
  · exact effLscJoin_wf h
  · exact effLscRestart_wf h
  · exact effLscInject_wf h
  · exact effLscActCfg_wf h

theorem exeOrd_wf {op : Nat} {eff : CmdEff} {c : Cmd} {s : State} (h : s.wf = true) (he : exeOrd op = some eff) :
    CmdOut.wf (eff c s) := by
  unfold exeOrd at he
  split at he <;> cases he
  · exact effOrdSetCfg_wf h
  · exact effOrdStatus_wf h
  · exact effOrdSwapTest_wf h
  · exact effOrdSwapCancel_wf h
  · exact effOrdCounters_wf h

theorem exeLch_wf {op : Nat} {eff : CmdEff} {c : Cmd} {s : State} (h : s.wf = true) (he : exeLch op = some eff) :
    CmdOut.wf (eff c s) := by
  unfold exeLch at he
  split at he <;> cases he
  · exact effLchChanCfg_wf h
  · exact effLchProfile_wf h
  · exact effLchTimebase_wf h
  · exact effLchSetHold_wf h
  · exact effLchChanStatus_wf h
  · exact effLchCounters_wf h

theorem exeKey_wf {op : Nat} {eff : CmdEff} {c : Cmd} {s : State} (h : s.wf = true) (he : exeKey op = some eff) :
    CmdOut.wf (eff c s) := by
  unfold exeKey at he
  split at he <;> cases he
  · exact effKeyStatus_wf h
  · exact effKeySetCfg_wf h
  · exact effKeySleep_wf h
  · exact effKeyWakeValid_wf h
  · exact effKeyUnlock_wf h
  · exact effKeyLogRead_wf h
  · exact effKeyCounters_wf h

theorem exeHbr_wf {op : Nat} {eff : CmdEff} {c : Cmd} {s : State} (h : s.wf = true) (he : exeHbr op = some eff) :
    CmdOut.wf (eff c s) := by
  unfold exeHbr at he
  split at he <;> cases he
  · exact effHbrSetRegion_wf h
  · exact effHbrLinkStatus_wf h
  · exact effHbrFnStatus_wf h
  · exact effHbrLogRead_wf h
  · exact effHbrCounters_wf h
  · exact effHbrSetCfg_wf h

theorem exeBase_wf {op : Nat} {eff : CmdEff} {c : Cmd} {s : State} (h : s.wf = true) (he : exeBase op = some eff) :
    CmdOut.wf (eff c s) := by
  unfold exeBase at he
  split at he
  · exact exeGeneral_wf h he
  · exact exeAcl_wf h he
  · exact exeTim_wf h he
  · exact exeSwc_wf h he
  · exact exePrs_wf h he
  · exact exeRul_wf h he
  · exact exeTmg_wf h he
  · exact exeEth_wf h he
  · exact exeCln_wf h he
  · rcases Option.or_eq_some_iff.1 (Option.orElse_eq_or.symm.trans he) with he | ⟨-, he⟩
    · exact exeGwy_wf h he
    · exact exeNm_wf h he
  · exact exeQry_wf h he
  · exact exeCru_wf h he
  · exact exeLsc_wf h he
  · exact exeOrd_wf h he
  · exact exeLch_wf h he
  · exact exeKey_wf h he
  · exact exeHbr_wf h he
  · cases he

/-! ### Resets -/

/-- The logic die cleared: registers are dropped, memory is kept or emptied, flash stays. -/
theorem clearLogic_wf {power : Bool} {s : State} (h : s.wf = true) : (clearLogic power s).wf = true := by
  obtain ⟨hr, hm, hf, -⟩ := wf_iff.1 (cutLink_wf (d := 1) (cutLink_wf (d := 0) h))
  unfold clearLogic
  refine newContextKey_wf (unless_wf (fun h => foldl_wf podlWake_wf h)
    (mk_wf (tdrop_twf regReset _ _ hr) ?_ hf (by decide)))
  split
  · rfl
  · exact hm

theorem setCause_wf {w : Word} {s : State} (h : s.wf = true) : (setCause w s).wf = true :=
  wf_same h

theorem moduleReset_wf {source a : Nat} {s : State} (h : s.wf = true) : (moduleReset source a s).wf = true := by
  unfold moduleReset
  exact wf_same (withLch_wf (setCause_wf (clearLogic_wf h)))

theorem clearRegs_wf {b : Nat} {keep : Nat → Bool} {s : State} (h : s.wf = true) : (clearRegs b keep s).wf = true :=
  dropRegs_wf h

theorem resetEth_wf {s : State} (h : s.wf = true) : (resetEth s).wf = true :=
  foldl_wf reportPort_wf (foldl_wf podlWake_wf (withEth_wf (clearRegs_wf h)))

theorem resetCln_wf {s : State} (h : s.wf = true) : (resetCln s).wf = true :=
  foldl_wf gwyReport_wf (withCln_wf (clearRegs_wf (foldl_wf hwCut_wf h)))

theorem resetGwy_wf {s : State} (h : s.wf = true) : (resetGwy s).wf = true :=
  foldl_wf (fun h => ite_wf (sb_wf h) h) (endErases_wf (gwyCut_wf (withGwy_wf (clearRegs_wf (gwyFreeAll_wf h)))))

theorem resetCru_wf {s : State} (h : s.wf = true) : (resetCru s).wf = true :=
  endErases_wf (newContextKey_wf (withCru_wf (clearRegs_wf (eraseSlots_wf h))))

theorem resetHbr_wf {s : State} (h : s.wf = true) : (resetHbr s).wf = true :=
  wr_wf (withHbr_wf (clearRegs_wf (resetAllFns_wf (withHbr_wf h))))

theorem blockReset_wf {b : Nat} {s : State} (h : s.wf = true) : (blockReset b s).wf = true := by
  unfold blockReset
  dsimp only
  split
  · obtain ⟨hr, hm, hf, -⟩ := wf_iff.1 (clearRegs_wf (b := 3) (keep := fun _ => false) h)
    exact reposition_wf (mk_wf hr hm hf (by decide))
  · exact showRul_wf (showBanks_wf (withSwc_wf (clearRegs_wf (withPrs_wf h))))
  · exact showRul_wf (withPrs_wf (clearRegs_wf (prsResetFrames_wf h)))
  · exact withRul_wf (clearRegs_wf h)
  · exact foldl_wf tmgLink_wf (wf_same (clearRegs_wf h))
  · exact resetEth_wf h
  · exact resetCln_wf h
  · exact resetGwy_wf h
  · exact wf_same (clearRegs_wf (qryCut_wf h))
  · exact resetCru_wf h
  · exact resetHbr_wf h
  · exact h

theorem endBlockReset_wf {b : Nat} {s : State} (h : s.wf = true) : (endBlockReset b s).wf = true :=
  foldl_wf completeFail_wf (settled_wf (blockReset_wf h))

/-! ### The health and weathering monitor -/

theorem withHlt_wf {s : State} {f : HltState → HltState} (h : s.wf = true) : (State.withHlt s f).wf = true :=
  wf_same h

theorem withLife_wf {s : State} {f : Life → Life} (h : s.wf = true) : (State.withLife s f).wf = true :=
  withHlt_wf h

theorem reactOff_wf {a : Nat} {s : State} (h : s.wf = true) : (reactOff a s).wf = true :=
  withKey_wf (beginOff_wf (setCause_wf h))

theorem reactReset_wf {a : Nat} {s : State} (h : s.wf = true) : (reactReset a s).wf = true :=
  share (fun h1 => ite_wf (reactOff_wf (raise_wf h1)) (moduleReset_wf h1)) (wf_same h)

theorem react_wf {x : Option (Nat × Nat)} {s : State} (h : s.wf = true) : (react x s).wf = true := by
  refine ite_wf h ?_
  split
  · exact reactOff_wf h
  · exact ite_wf h (reactReset_wf h)
  · exact cruAlarm_wf h
  · exact h

theorem raiseAlarms_wf {l : List Nat} {s : State} (h : s.wf = true) : (raiseAlarms l s).wf = true :=
  react_wf (when_wf cruAlarm_wf (foldl_wf raise_wf h))

theorem actHlt_keeps {f : State → State} {s : State} (hf : ∀ {t : State}, t.wf = true → (f t).wf = true) :
    Keeps s (actHlt f s) :=
  ite_keeps (next_keeps fun h => hf h) (next_keeps fun h => h)

theorem execAlarmRaise_keeps {set : Nat} {s : State} : Keeps s (execAlarmRaise set s) :=
  actHlt_keeps raiseAlarms_wf

theorem execDebugAttach_keeps {s : State} : Keeps s (execDebugAttach s) := by
  unfold execDebugAttach
  exact actHlt_keeps (fun h => raiseAlarms_wf (cruAlarm_wf h))

theorem execDebugDetach_keeps {s : State} : Keeps s (execDebugDetach s) :=
  next_keeps fun h => wf_same h

theorem ruleLost_wf {addr : Nat} {s : State} (h : s.wf = true) : (ruleLost addr s).wf = true := by
  unfold ruleLost
  exact showRul_wf (withRul_wf h)

theorem eccUe_wf {mem addr : Nat} {reader : Option Nat} {s : State} (h : s.wf = true) :
    (eccUe mem addr reader s).wf = true := by
  refine raiseAlarms_wf (when_wf ruleLost_wf (unless_wf (fun h => withHlt_wf (wr_wf (wr_wf h)))
    (withLife_wf (cntF_wf ?_))))
  split
  · exact reply_wf (ite_wf (wf_same h) h)
  · exact ite_wf (wf_same h) h

theorem execEccError_keeps {mem : Nat} {ue : Bool} {at_ : Nat × Option Nat} {s : State} :
    Keeps s (execEccError mem ue at_ s) :=
  actHlt_keeps (fun h => ite_wf h (ite_wf (eccUe_wf h) (cntF_wf h)))

theorem execPatrolScrub_keeps {s : State} : Keeps s (execPatrolScrub s) :=
  next_keeps fun h => h

theorem showLife_wf {s : State} (h : s.wf = true) : (showLife s).wf = true :=
  wr_wf (wr_wf (wr_wf (sf_wf h)))

theorem execHealthMeasure_keeps {margin vdd : Nat} {temp : Int} {ratios : List (Nat × Nat)} {rth : Nat} {swing : Bool}
    {s : State} : Keeps s (execHealthMeasure margin vdd temp ratios rth swing s) :=
  actHlt_keeps (fun h => when_wf raiseAlarms_wf (showLife_wf (withLife_wf
    (withHlt_wf (sf_wf (sf_wf (sf_wf (sf_wf h))))))))

theorem writeDerate_wf {s : State} (h : s.wf = true) : (writeDerate s).wf = true :=
  wr_wf h

theorem saveLife_wf {s : State} (h : s.wf = true) : (saveLife s).wf = true :=
  wf_same (withHlt_wf (withLife_wf h))

theorem replan_wf {s : State} (h : s.wf = true) : (replan s).wf = true :=
  withHlt_wf (ite_wf (withLife_wf (State.free_wf h)) (withLife_wf h))

theorem execHourlyEvaluation_keeps {s : State} : Keeps s (execHourlyEvaluation s) :=
  actHlt_keeps (fun h => when_wf raiseAlarms_wf (saveLife_wf (writeDerate_wf
    (showLife_wf (replan_wf (withLife_wf h))))))

theorem loadLife_wf {s : State} (h : s.wf = true) : (loadLife s).wf = true := by
  refine showLife_wf (writeDerate_wf (withLife_wf ?_))
  split
  · exact withHlt_wf h
  · exact h

theorem effHltStatus_wf {c : Cmd} {s : State} (h : s.wf = true) : CmdOut.wf (effHltStatus c s) :=
  h

theorem effHltSetCfg_wf {c : Cmd} {s : State} (h : s.wf = true) : CmdOut.wf (effHltSetCfg c s) := by
  refine guard_wf (guard_wf (guard_wf ?_))
  split
  · trivial
  · exact wr_wf (wr_wf h)

theorem effHltEccRead_wf {c : Cmd} {s : State} (h : s.wf = true) : CmdOut.wf (effHltEccRead c s) :=
  withHlt_wf (takeCounters_wf h)

theorem effHltLifeRead_wf {c : Cmd} {s : State} (h : s.wf = true) : CmdOut.wf (effHltLifeRead c s) :=
  h

theorem effHltLifeSave_wf {c : Cmd} {s : State} (h : s.wf = true) : CmdOut.wf (effHltLifeSave c s) :=
  saveLife_wf h

theorem exeHlt_wf {op : Nat} {eff : CmdEff} {c : Cmd} {s : State} (h : s.wf = true) (he : exeHlt op = some eff) :
    CmdOut.wf (eff c s) := by
  unfold exeHlt at he
  split at he <;> cases he
  · exact effHltStatus_wf h
  · exact effHltSetCfg_wf h
  · exact effHltEccRead_wf h
  · exact effHltLifeRead_wf h
  · exact effHltLifeSave_wf h

/-! ### The flash, the Ladle image in it, and the SYS commands of the flash -/

theorem effSysFlashRead_wf {c : Cmd} {s : State} (h : s.wf = true) : CmdOut.wf (effSysFlashRead c s) :=
  guard_wf (ite_cmd (State.free_wf h) h)

theorem writableArea_wf {c : Cmd} {s : State} {k : CmdOut} (hk : CmdOut.wf k) : CmdOut.wf (writableArea c s k) :=
  guard_wf (guard_wf hk)

theorem effSysFlashErase_wf {c : Cmd} {s : State} (h : s.wf = true) : CmdOut.wf (effSysFlashErase c s) :=
  guard_wf (writableArea_wf (withFlash_wf h (tdrop_twf _ _ _)))

theorem effSysFlashWrite_wf {c : Cmd} {s : State} (h : s.wf = true) : CmdOut.wf (effSysFlashWrite c s) := by
  refine guard_wf (writableArea_wf ?_)
  dsimp only
  split
  · trivial
  · exact withFlash_wf h flashPut_flash

theorem effSysImageCheck_wf {c : Cmd} {s : State} (h : s.wf = true) : CmdOut.wf (effSysImageCheck c s) := by
  unfold effSysImageCheck
  split
  · trivial
  · exact h

/-! ### The configuration space of the PCIe functions and the errors they report by AER -/

theorem setVfs_wf {s : State} (h : s.wf = true) : (setVfs s).wf = true :=
  foldl_wf (fun h => ite_wf h (ite_wf (setFn_wf h) (resetFn_wf h))) h

theorem fnConfig_wf {f : Nat} {w : Nat × Word} {s : State} (h : s.wf = true) : (fnConfig f w s).wf = true :=
  share (fun h1 => ite_wf (functionReset_wf h1) (showHbr_wf (msixUnmask_wf (when_wf setVfs_wf h1)))) (setFn_wf h)

theorem inReport_wf {r : InReq} {kind : Nat} {s : State} (h : s.wf = true) : (inReport r kind s).wf = true :=
  ite_wf (withHbr_wf (setFn_wf h)) (setFn_wf h)

/-! ### Requests of the PCIe host -/

theorem inComplete_wf {f tag status : Nat} {data : List Byte} {s : State} (h : s.wf = true) :
    (inComplete f tag status data s).wf = true :=
  withHbr_wf h

theorem inFail_wf {r : InReq} {kind : Nat} {s : State} (h : s.wf = true) : (inFail r kind s).wf = true :=
  share (fun h1 => ite_wf (inReport_wf (hbrCount_wf h1)) (inComplete_wf (hbrCount_wf h1))) (raise_wf (hbrLog_wf h))

theorem inRegWrite_wf {m a : Nat} {l : List Byte} {s : State} (h : s.wf = true) :
    (inRegWrite m a l s).2.wf = true := by
  induction a, l, s using inRegWrite.induct m with
  | case1 a b0 b1 b2 b3 r s b w ih =>
    unfold inRegWrite
    exact ih (after_wf regWrite_keeps h)
  | case2 a l s hl =>
    unfold inRegWrite
    split
    · exact absurd rfl (hl _ _ _ _ _)
    · exact h

theorem inRegRead_wf {m a n : Nat} {s : State} (h : s.wf = true) : (inRegRead m a n s).2.2.wf = true := by
  induction n generalizing a s with
  | zero => exact h
  | succ n ih =>
    unfold inRegRead
    exact snd_snd_wf (ih (after_wf regRead_keeps h))

theorem inRegs_wf {r : InReq} {p : Nat} {s : State} (h : s.wf = true) : (inRegs r p s).wf = true := by
  refine ite_wf (inFail_wf (busError_wf h)) (ite_wf ?_ (ite_wf ?_ ?_))
  · exact share (fun ht => ite_wf (inFail_wf ht) (ite_wf ht (inComplete_wf ht)))
      (after_wf (next_keeps oddAccess_wf) h)
  · exact share (fun ht => ite_wf ht (inFail_wf ht)) (inRegWrite_wf h)
  · exact share (fun ht => ite_wf (inComplete_wf ht) (inFail_wf ht)) (inRegRead_wf h)

theorem inCluster_wf {r : InReq} {p : Nat} {s : State} (h : s.wf = true) : (inCluster r p s).wf = true :=
  ite_wf (inFail_wf (busError_wf h)) (ite_wf (clusterWrite_wf h) (inComplete_wf (clusterRead_wf h)))

theorem inAperture_wf {r : InReq} {s : State} (h : s.wf = true) : (inAperture r s).wf = true := by
  unfold inAperture
  dsimp only
  split
  · split
    · exact inCluster_wf h
    · exact inRegs_wf h
    · exact ite_wf (inFail_wf (busError_wf h)) (ite_wf (inFail_wf h) (ite_wf (dmaPut_wf h) (inComplete_wf h)))
  · exact inFail_wf (devFault_wf h)

theorem pageWrites_wf {f o : Nat} {l : List Byte} {s : State} (h : s.wf = true) : (pageWrites f o l s).wf = true := by
  induction o, l, s using pageWrites.induct f with
  | case1 o b0 b1 b2 b3 r s ih => exact ih (settle_wf h (fnPageWrite_wf h))
  | case2 o l s hl =>
    unfold pageWrites
    split
    · exact absurd rfl (hl _ _ _ _ _)
    · exact h

theorem inPage_wf {r : InReq} {s : State} (h : s.wf = true) : (inPage r s).wf = true :=
  ite_wf (unless_wf inComplete_wf (stray_wf h)) (ite_wf (pageWrites_wf h) (inComplete_wf h))

theorem inboundGo_wf {r : InReq} {s : State} (h : s.wf = true) : (inboundGo r s).wf = true :=
  ite_wf h (ite_wf h (ite_wf (inFail_wf h) (ite_wf (inPage_wf h) (inAperture_wf h))))

theorem execInboundRequest_keeps {f space off : Nat} {wr : Bool} {data : List Byte} {len tag : Nat} {poison : Bool}
    {s : State} : Keeps s (execInboundRequest f space off wr data len tag poison s) :=
  act_keeps inboundGo_wf

theorem execPcieConfigWrite_keeps {f : Nat} {w : Nat × Word} {s : State} : Keeps s (execPcieConfigWrite f w s) :=
  act_keeps (fun h => ite_wf (fnConfig_wf h) h)

/-! ### Ladle's pour, LATE sections, and the starts of the module -/

/-- An entry of an image that acts leaves the invariant. -/
theorem runReg_wf {m a : Nat} {v : Word} {s : State} {x : State × Bool} (h : s.wf = true)
    (hx : runReg m a v s = .ok x) :
    x.1.wf = true := by
  unfold runReg at hx
  dsimp only at hx
  split at hx
  · cases hx
    exact after_wf fabricWrite_keeps h
  · cases hx

theorem effSysResetPlain_wf {c : Cmd} {s : State} (h : s.wf = true) : CmdOut.wf (effSysResetPlain c s) :=
  guard_wf (guard_wf (ite_cmd (moduleReset_wf h) (guard_wf (guard_wf (guard_wf (guard_wf (endBlockReset_wf h)))))))

theorem exeAll_wf {op : Nat} {eff : CmdEff} {c : Cmd} {s : State} (h : s.wf = true) (he : exeAll op = some eff) :
    CmdOut.wf (eff c s) := by
  unfold exeAll at he
  split at he
  · cases he
    exact effSysResetPlain_wf h
  · cases he
    exact effSysFlashRead_wf h
  · cases he
    exact effSysFlashErase_wf h
  · cases he
    exact effSysFlashWrite_wf h
  · cases he
    exact effSysImageCheck_wf h
  · split at he
    · exact exeHlt_wf h he
    · exact exeBase_wf h he

theorem restFor_wf {op : Nat} {s : State} (h : s.wf = true) : (restFor op s).wf = true :=
  ite_wf (rulRest_wf h) h

theorem endEntry_wf {c : Cmd} {o : CmdOut} {x : State × Bool} (ho : CmdOut.wf o) (hx : endEntry c o = .ok x) :
    x.1.wf = true := by
  unfold endEntry at hx
  split at hx
  · split at hx
    · cases hx
    · cases hx
      exact complete_wf ho
  · cases hx
  · cases hx
  · cases hx
    exact restFor_wf (markRunning_wf ho)

theorem runCmd_wf {m : Nat} {raw : List Byte} {s : State} {x : State × Bool} (h : s.wf = true)
    (hx : runCmd m raw s = .ok x) : x.1.wf = true := by
  unfold runCmd at hx
  dsimp only at hx
  split at hx
  · cases hx
  case h_3 => cases hx
  case h_2 he =>
    split at hx
    · cases hx
    have ho {c : Cmd} {t : State} (ht : t.wf = true) := exeAll_wf (c := c) ht he
    split at hx
    case h_1 ht =>
      split at hx
      · cases hx
      · exact endEntry_wf (ht ▸ ho (wf_same (restFor_wf h))) hx
    case h_2 => exact endEntry_wf (ho (wf_same (restFor_wf h))) hx

theorem runEntry_wf {m : Nat} {e : ImgEntry} {s : State} {x : State × Bool} (h : s.wf = true)
    (hx : runEntry m e s = .ok x) : x.1.wf = true := by
  cases e with
  | reg a v => exact runReg_wf h hx
  | cmd raw => exact runCmd_wf h hx

theorem setHeld_wf {x : HeldField × Nat} {s : State} (h : s.wf = true) : (setHeld x s).wf = true := by
  unfold setHeld
  split
  · exact ite_wf (setPortCtrl_wf h) h
  · exact ite_wf (settle_wf h (canCtrl_wf h)) h
  · exact ite_wf (settle_wf h (linCtrl_wf h)) h

/-- Both copies of a pour have the invariant. -/
def Pour.wf (p : Pour) : Prop := p.real.wf = true ∧ p.shadow.wf = true

theorem pourBoth_wf {e : ImgEntry} {p q : Pour} (h : p.wf) (hq : pourBoth e p = .ok q) : q.wf := by
  obtain ⟨hreal, hshadow⟩ := h
  unfold pourBoth at hq
  cases ht : runEntry 1 e p.shadow with
  | error x => simp [ht, bind, Except.bind] at hq
  | ok t =>
    cases hr : runEntry 1 e p.real with
    | error x => simp [ht, hr, bind, Except.bind] at hq
    | ok r =>
      simp only [ht, hr, bind, Except.bind, pure, Except.pure, Except.ok.injEq] at hq
      subst hq
      exact ⟨runEntry_wf hreal hr, runEntry_wf hshadow ht⟩

theorem pourEntry_wf {e : ImgEntry} {p q : Pour} (h : p.wf) (hq : pourEntry e p = .ok q) : q.wf := by
  unfold pourEntry at hq
  split at hq
  · cases ht : runEntry 1 e p.shadow with
    | error x => simp [ht, bind, Except.bind] at hq
    | ok t =>
      simp only [ht, bind, Except.bind] at hq
      split at hq
      · cases hq
      · cases hq
        exact ⟨h.1, runEntry_wf h.2 ht⟩
  split at hq
  · cases ht : runEntry 1 e p.shadow with
    | error x => simp [ht, bind, Except.bind] at hq
    | ok t =>
      simp only [ht, bind, Except.bind] at hq
      exact pourBoth_wf h hq
  · exact pourBoth_wf h hq

/-- A pour that goes on keeps the invariant in both copies, and one that stops leaves a module that has it. -/
def PourKeeps : Except PourStop Pour → Prop
  | .ok p => p.wf
  | .error x => x.left.wf = true

theorem pourEntries_wf {sec : Nat} {l : List ImgEntry} {p : Pour} (h : p.wf) : PourKeeps (pourEntries sec l p) := by
  induction l generalizing p with
  | nil => exact h
  | cons e r ih =>
    unfold pourEntries
    split
    case h_1 hq => exact ih (pourEntry_wf h hq)
    case h_2 => exact h.1

theorem pourContent_wf {sec : Nat} {c : Content} {p : Pour} (h : p.wf) : PourKeeps (pourContent sec c p) := by
  obtain ⟨hreal, hshadow⟩ := h
  cases c with
  | firmware b =>
    unfold pourContent
    exact ⟨wf_same hreal, wf_same hshadow⟩
  | memory a b => exact ⟨wrBytes_wf hreal, wrBytes_wf hshadow⟩
  | entries l => exact pourEntries_wf ⟨hreal, hshadow⟩
  | start _ _ => exact ⟨hreal, hshadow⟩

theorem pourSections_zero {k i : Nat} {p : Pour} : pourSections k 0 i p = .ok p := by rfl

theorem pourSections_succ {k n i : Nat} {p : Pour} : pourSections k (n + 1) i p =
    if (sectionAt p.real k i).late then
      (if rowBad p.real k i then .error ⟨4, i, p.real⟩ else pourSections k n (i + 1) p)
    else match readSection p.real k i with
      | .inl r => .error ⟨r, i, p.real⟩
      | .inr (_, c) =>
        match pourContent i c p with
        | .ok q => pourSections k n (i + 1) q
        | .error x => .error x := by rfl

theorem pourSections_wf {k n i : Nat} {p : Pour} (h : p.wf) : PourKeeps (pourSections k n i p) := by
  induction n generalizing i p with
  | zero =>
    rw [pourSections_zero]
    exact h
  | succ n ih =>
    rw [pourSections_succ]
    split
    · split
      · exact h.1
      · exact ih h
    split
    · exact h.1
    case h_2 c _ =>
      have hc := pourContent_wf (sec := i) (c := c) h
      split
      case h_1 hq =>
        rw [hq] at hc
        exact ih hc
      case h_2 hx =>
        rw [hx] at hc
        exact hc

/-- A poured image leaves the invariant, and so does one whose check fails. -/
def ImageKeeps : Except PourStop State → Prop
  | .ok t => t.wf = true
  | .error x => x.left.wf = true

theorem pourImage_wf {k : Nat} {s : State} (h : s.wf = true) : ImageKeeps (pourImage k s) := by
  unfold pourImage
  split
  · exact h
  split
  · exact h
  extract_lets y u
  have hu : u.wf = true := wf_same h
  have hp := pourSections_wf (k := k) (n := imgSections s k) (i := 0) (p := ⟨u, u, 0⟩) ⟨hu, hu⟩
  split
  case h_1 hx =>
    rw [hx] at hp
    exact hp
  case h_2 hx =>
    rw [hx] at hp
    split
    · exact hp.1
    · exact hp.1

theorem poured_wf {k : Nat} {fell : Bool} {reason sec : Nat} {s : State} (h : s.wf = true) :
    (poured k fell reason sec s).wf = true :=
  withHbr_wf (sf_wf (sf_wf (wr_wf (wr_wf (wf_same h)))))

theorem recover_wf {phase : Phase} {alarm reason sec : Nat} {s : State} (h : s.wf = true) :
    (recover phase alarm reason sec s).wf = true :=
  raise_wf (wr_wf (withKey_wf (wf_same h)))

theorem resetAgain_wf {s : State} (h : s.wf = true) : (resetAgain s).wf = true :=
  lchReposition_wf (withLch_wf (clearLogic_wf h))

theorem tryImages_wf {l : List Nat} {fell : Bool} {reason sec : Nat} {s : State} (h : s.wf = true) :
    (tryImages l fell reason sec s).wf = true := by
  induction l generalizing fell reason sec s with
  | nil => exact recover_wf h
  | cons k r ih =>
    have hp := pourImage_wf (k := k) h
    unfold tryImages
    split
    case h_1 ht =>
      rw [ht] at hp
      exact poured_wf hp
    case h_2 hx =>
      rw [hx] at hp
      exact ih (wr_wf (resetAgain_wf hp))

theorem boot_wf {s : State} (h : s.wf = true) : (boot s).wf = true :=
  share (fun h1 => ite_wf (tryImages_wf h1) (recover_wf h1)) (wr_wf h)

theorem execKeystonePor_keeps {s : State} : Keeps s (execKeystonePor s) := by
  refine next_keeps (fun h => ?_)
  obtain ⟨-, -, hf, -⟩ := wf_iff.1 h
  exact mk_wf rfl rfl hf (by decide)

theorem execRailsGood_keeps {s : State} : Keeps s (execRailsGood s) :=
  ite_keeps (next_keeps fun h => h) (next_keeps fun h => setCause_wf (boot_wf (setCause_wf (clearLogic_wf h))))

theorem execModuleResetRelease_keeps {s : State} : Keeps s (execModuleResetRelease s) :=
  next_keeps fun h => ite_wf h (boot_wf (lchReposition_wf (withLch_wf h)))

theorem applyHeld_wf {l : List ImgEntry} {s : State} (h : s.wf = true) : (applyHeld l s).wf = true := by
  induction l generalizing s with
  | nil => exact h
  | cons e r ih =>
    unfold applyHeld
    split
    case h_1 ht => exact ih (runEntry_wf h ht)
    case h_2 => exact ih h

theorem pourDone_wf {k : Nat} {s : State} (h : s.wf = true) : (pourDone k s).wf = true :=
  when_wf sf_wf (loadLife_wf (unless_wf keyWindow_wf (wf_same
    (sb_wf (sf_wf (foldl_wf (fun h => ite_wf (domHeld_wf h) h) (nmPour_wf h)))))))

theorem execLadlePourComplete_keeps {s : State} : Keeps s (execLadlePourComplete s) := by
  unfold execLadlePourComplete
  split
  · exact next_keeps fun h => pourDone_wf (foldl_wf setHeld_wf (when_wf lchArm_wf (applyHeld_wf (wf_same h))))
  · exact next_keeps fun h => h

theorem startHarts_wf {k : Nat} {s : State} (h : s.wf = true) : (startHarts k s).wf = true := by
  refine foldl_wf (fun h => ?_) h
  split
  · exact foldl_wf wf_same h
  · exact h

theorem lateDone_wf {k : Nat} {s : State} (h : s.wf = true) : (lateDone k s).wf = true :=
  raise_wf (startHarts_wf (sf_wf (wf_same h)))

theorem lateFail_wf {s : State} (h : s.wf = true) : (lateFail s).wf = true :=
  raiseAlarms_wf (sf_wf (wf_same h))

theorem lateAt_wf {i : Nat} {s : State} (h : s.wf = true) : (lateAt i s).wf = true :=
  wf_same h

theorem lateGo_wf {k i : Nat} {l : List LateItem} {s : State} (h : s.wf = true) : (lateGo k i l s).wf = true := by
  induction l generalizing i s with
  | nil => exact lateDone_wf (lateAt_wf h)
  | cons x r ih =>
    cases x with
    | bad => exact lateFail_wf (lateAt_wf h)
    | memory a b => exact ih (wrBytes_wf h)
    | entry e =>
      unfold lateGo
      refine ite_wf (lateAt_wf h) ?_
      split
      case h_1 => exact lateFail_wf (lateAt_wf h)
      case h_2 ht => exact lateAt_wf (runEntry_wf h ht)
      case h_3 ht =>
        have hu := runEntry_wf h ht
        exact ite_wf (ih hu) hu

theorem execLateLoad_keeps {s : State} : Keeps s (execLateLoad s) := by
  refine act_keeps (fun h => ?_)
  split
  · exact h
  · exact ite_wf h (ite_wf (lateFail_wf (lateAt_wf h)) (lateGo_wf h))

theorem execRecoveryTimeout_keeps {s : State} : Keeps s (execRecoveryTimeout s) :=
  next_keeps fun h => ite_wf (beginOff_wf h) h

theorem reloadAt_wf {x : Option (Nat × Nat)} {s : State} (h : s.wf = true) : (reloadAt x s).wf = true :=
  wf_same h

theorem reloadGo_wf {b i : Nat} {l : List ImgEntry} {s : State} (h : s.wf = true) : CmdOut.wf (reloadGo b i l s) := by
  induction l generalizing i s with
  | nil => exact reloadAt_wf h
  | cons e r ih =>
    unfold reloadGo
    refine ite_cmd (reloadAt_wf h) ?_
    split
    case h_1 => exact reloadAt_wf h
    case h_2 ht => exact reloadAt_wf (runEntry_wf h ht)
    case h_3 ht => exact ih (runEntry_wf h ht)

theorem effSysReset_wf {c : Cmd} {s : State} (h : s.wf = true) : CmdOut.wf (effSysReset c s) := by
  have ho := effSysResetPlain_wf (c := c) h
  unfold effSysReset
  split
  case h_1 ht =>
    rw [ht] at ho
    exact ite_cmd (reloadGo_wf ho) ho
  case h_2 => exact ho

theorem reloadMore_wf {c : Cmd} {s : State} (h : s.wf = true) : (reloadMore c s).wf = true := by
  unfold reloadMore
  split
  · exact h
  case h_2 b i _ =>
    have ho := reloadGo_wf (b := b) (i := i) (l := (reloadList b s).drop i) h
    refine ite_wf h (ite_wf (completeFail_wf (reloadAt_wf h)) ?_)
    split
    case h_1 ht =>
      rw [ht] at ho
      exact completeFail_wf ho
    case h_2 => exact completeFail_wf h
    case h_3 ht =>
      rw [ht] at ho
      exact completeFail_wf ho
    case h_4 ht =>
      rw [ht] at ho
      exact ho

theorem execSysReset_keeps {ring slot : Nat} {s : State} : Keeps s (execSysReset ring slot s) := by
  unfold execSysReset
  split
  · exact act_keeps reloadMore_wf
  · exact opRow_keeps effSysReset_wf

/-! ### Mason's fetch of a command and its writing of a reply -/

theorem execCommandFetch_keeps {s : State} : Keeps s (execCommandFetch s) := by
  refine act_keeps (fun h => ite_wf h ?_)
  split
  · exact fetchFrom_wf h
  · exact h

theorem execCommandReply_keeps {s : State} : Keeps s (execCommandReply s) := by
  refine act_keeps (fun h => ?_)
  split
  · exact h
  · exact share (fun h1 => ite_wf (ncpAnswer_wf h1) (writeReply_wf h1)) (wf_same h)

/-! ### The dispatch of commands to their meanings -/

/-- Every command keeps the invariant: one row, one case. -/
theorem exec_keeps {i : Instr} {s : State} : Keeps s (exec i s) := by
  cases i with
  | registerWrite => exact execRegisterWrite_keeps
  | sysFenceRead => exact execSysFenceRead_keeps
  | fenceTimeout => exact execFenceTimeout_keeps
  | ringDoorbell => exact execRingDoorbell_keeps
  | ringEnable => exact execRingEnable_keeps
  | ringDisable => exact execRingDisable_keeps
  | ringReset => exact execRingReset_keeps
  | cmdTimeoutWrite => exact execCmdTimeoutWrite_keeps
  | commandFetch => exact execCommandFetch_keeps
  | commandTimeout => exact execCommandTimeout_keeps
  | commandReply => exact execCommandReply_keeps
  | completionEventTimer => exact execCompletionEventTimer_keeps
  | nop => exact opRow_keeps effNop_wf
  | fence => exact opRow_keeps effNop_wf
  | echo => exact opRow_keeps effEcho_wf
  | getVariant => exact opRow_keeps effGetVariant_wf
  | ncpCommandFrame => exact execNcpCommandFrame_keeps
  | ncpCtrlWrite => exact execNcpCtrlWrite_keeps
  | aclSetEntry => exact opRow_keeps effAclSetEntry_wf
  | aclGetEntry => exact opRow_keeps effAclGetEntry_wf
  | aclLock => exact opRow_keeps effAclLock_wf
  | aclSetWindow => exact opRow_keeps effAclSetWindow_wf
  | aclGetWindow => exact opRow_keeps effAclGetWindow_wf
  | aclWindowWrite => exact execAclWindowWrite_keeps
  | aclLockWrite => exact execAclLockWrite_keeps
  | timeNsRead => exact execTimeNsRead_keeps
  | incrCommit => exact execIncrCommit_keeps
  | stepCommit => exact execStepCommit_keeps
  | timGetTime => exact opRow_keeps effTimGetTime_wf
  | timStep => exact opRow_keeps effTimStep_wf
  | timSetIncr => exact opRow_keeps effTimSetIncr_wf
  | timSetServo => exact opRow_keeps effTimSetServo_wf
  | timGptpCfg => exact opRow_keeps effTimGptpCfg_wf
  | timPulseCfg => exact opRow_keeps effTimPulseCfg_wf
  | timCaptureCfg => exact opRow_keeps effTimCaptureCfg_wf
  | syncAccepted => exact execSyncAccepted_keeps
  | syncReceiptTimeout => exact execSyncReceiptTimeout_keeps
  | gmChange => exact execGmChange_keeps
  | tpoEnableWrite => exact execTpoEnableWrite_keeps
  | tpoEdge => exact execTpoEdge_keeps
  | tciCapture => exact execTciCapture_keeps
  | tciPop => exact execTciPop_keeps
  | frameReceive => exact execFrameReceive_keeps
  | frameTake => exact execFrameTake_keeps
  | addG => exact execAdd_keeps
  | subG => exact execSub_keeps
  | andG => exact execAnd_keeps
  | orG => exact execOr_keeps
  | xorG => exact execXor_keeps
  | shlG => exact execShl_keeps
  | shrG => exact execShr_keeps
  | movi => exact execMovi_keeps
  | movhi => exact execMovhi_keeps
  | extG => exact execExt_keeps
  | cmpG => exact execCmp_keeps
  | ldG => exact execLd_keeps
  | adv => exact execAdv_keeps
  | ldm => exact execLdm_keeps
  | stm => exact execStm_keeps
  | putk => exact execPutk_keeps
  | lkf => exact execLkf_keeps
  | lka => exact execLka_keeps
  | scan => exact execScan_keeps
  | vload => exact execVload_keeps
  | vset => exact execVset_keeps
  | cnt => exact execCnt_keeps
  | doneG => exact execDone_keeps
  | brG => exact execBr_keeps
  | lookupResult => exact execLookupResult_keeps
  | scanResult => exact execScanResult_keeps
  | watchdogStop => exact execWatchdogStop_keeps
  | expressOver => exact execExpressOver_keeps
  | prsProgLoad => exact opRow_keeps effPrsProgLoad_wf
  | prsProgActivate => exact opRow_keeps effPrsProgActivate_wf
  | prsProgRead => exact opRow_keeps effPrsProgRead_wf
  | prsSetCfg => exact opRow_keeps effPrsSetCfg_wf
  | prsCounters => exact opRow_keeps effPrsCounters_wf
  | verdictAct => exact execVerdictAct_keeps
  | laneRelease => exact execLaneRelease_keeps
  | reseqTimeout => exact execReseqTimeout_keeps
  | frerReset => exact execFrerReset_keeps
  | transmitSelect => exact execTransmitSelect_keeps
  | copyTransmitted => exact execCopyTransmitted_keeps
  | linkdownFlushWrite => exact execLinkdownFlushWrite_keeps
  | swcSetShared => exact opRow_keeps effSwcSetShared_wf
  | swcSetQueue => exact opRow_keeps effSwcSetQueue_wf
  | swcFlushQueue => exact opRow_keeps effSwcFlushQueue_wf
  | swcSetPort => exact opRow_keeps effSwcSetPort_wf
  | swcFdbWrite => exact opRow_keeps effSwcFdbWrite_wf
  | swcFdbDelete => exact opRow_keeps effSwcFdbDelete_wf
  | swcFdbRead => exact opRow_keeps effSwcFdbRead_wf
  | swcVlanWrite => exact opRow_keeps effSwcVlanWrite_wf
  | swcFrerWrite => exact opRow_keeps effSwcFrerWrite_wf
  | swcFrerCounters => exact opRow_keeps effSwcFrerCounters_wf
  | swcPortCounters => exact opRow_keeps effSwcPortCounters_wf
  | rulPourOpen => exact opRow_keeps effRulPourOpen_wf
  | rulPourCommit => exact opRow_keeps effRulPourCommit_wf
  | rulPourAbandon => exact opRow_keeps effRulPourAbandon_wf
  | rulPourStatus => exact opRow_keeps effRulPourStatus_wf
  | rulFlowAdd => exact opRow_keeps effRulFlowAdd_wf
  | rulFlowDelete => exact opRow_keeps effRulFlowDelete_wf
  | rulFlowRead => exact opRow_keeps effRulFlowRead_wf
  | rulAclWrite => exact opRow_keeps effRulAclWrite_wf
  | rulAclDelete => exact opRow_keeps effRulAclDelete_wf
  | rulPatternWrite => exact opRow_keeps effRulPatternWrite_wf
  | rulPatternDelete => exact opRow_keeps effRulPatternDelete_wf
  | rulVerdictWrite => exact opRow_keeps effRulVerdictWrite_wf
  | rulVerdictDelete => exact opRow_keeps effRulVerdictDelete_wf
  | rulRewriteWrite => exact opRow_keeps effRulRewriteWrite_wf
  | rulRewriteDelete => exact opRow_keeps effRulRewriteDelete_wf
  | rulSetLayout => exact opRow_keeps effRulSetLayout_wf
  | rulCounters => exact opRow_keeps effRulCounters_wf
  | pourRetire => exact execPourRetire_keeps
  | logSweep => exact execLogSweep_keeps
  | courseBoundary => exact execCourseBoundary_keeps
  | listSwitched => exact execListSwitched_keeps
  | verifyTimer => exact execVerifyTimer_keeps
  | latencySample => exact execLatencySample_keeps
  | tmgSetPort => exact opRow_keeps effTmgSetPort_wf
  | tmgCoursesLoad => exact opRow_keeps effTmgCoursesLoad_wf
  | tmgGateSwitch => exact opRow_keeps effTmgGateSwitch_wf
  | tmgGateStatus => exact opRow_keeps effTmgGateStatus_wf
  | tmgSetQueue => exact opRow_keeps effTmgSetQueue_wf
  | tmgSetGroup => exact opRow_keeps effTmgSetGroup_wf
  | tmgSetPolicer => exact opRow_keeps effTmgSetPolicer_wf
  | tmgPolicerCounters => exact opRow_keeps effTmgPolicerCounters_wf
  | tmgSetStreamGate => exact opRow_keeps effTmgSetStreamGate_wf
  | tmgSetLatency => exact opRow_keeps effTmgSetLatency_wf
  | tmgLatRead => exact opRow_keeps effTmgLatRead_wf
  | tmgPortCounters => exact opRow_keeps effTmgPortCounters_wf
  | portCtrlWrite => exact execPortCtrlWrite_keeps
  | linkChange => exact execLinkChange_keeps
  | rtMarkerTimeout => exact execRtMarkerTimeout_keeps
  | tc10SleepAck => exact execTc10SleepAck_keeps
  | tc10SleepTimeout => exact execTc10SleepTimeout_keeps
  | tc10Wake => exact execTc10Wake_keeps
  | tc10Wur => exact execTc10Wur_keeps
  | plcaCycle => exact execPlcaCycle_keeps
  | podlCfgWrite => exact execPodlCfgWrite_keeps
  | podlClassified => exact execPodlClassified_keeps
  | podlClassTimeout => exact execPodlClassTimeout_keeps
  | podlTrip => exact execPodlTrip_keeps
  | podlRetry => exact execPodlRetry_keeps
  | podlTripsClear => exact execPodlTripsClear_keeps
  | txtsPop => exact execTxtsPop_keeps
  | icTxDoorbell => exact execIcTxDoorbell_keeps
  | ethSetPort => exact opRow_keeps effEthSetPort_wf
  | ethPortEnable => exact opRow_keeps effEthPortEnable_wf
  | ethLinkStatus => exact opRow_keeps effEthLinkStatus_wf
  | ethTc10 => exact opRow_keeps effEthTc10_wf
  | ethRtSave => exact opRow_keeps effEthRtSave_wf
  | ethRtClear => exact opRow_keeps effEthRtClear_wf
  | ethPlcaCfg => exact opRow_keeps effEthPlcaCfg_wf
  | ethPodl => exact opRow_keeps effEthPodl_wf
  | ethSaInstall => exact opRow_keeps effEthSaInstall_wf
  | ethSaTxSwitch => exact opRow_keeps effEthSaTxSwitch_wf
  | ethSaDelete => exact opRow_keeps effEthSaDelete_wf
  | ethSaStatus => exact opRow_keeps effEthSaStatus_wf
  | ethPortCounters => exact opRow_keeps effEthPortCounters_wf
  | integrationDone => exact execIntegrationDone_keeps
  | canFrameReceived => exact execCanFrameReceived_keeps
  | canTxStart => exact execCanTxStart_keeps
  | canTxDone => exact execCanTxDone_keeps
  | canBusError => exact execCanBusError_keeps
  | busOffExit => exact execBusOffExit_keeps
  | txScheduleTime => exact execTxScheduleTime_keeps
  | txCycleOccurrence => exact execTxCycleOccurrence_keeps
  | txdTimeout => exact execTxdTimeout_keeps
  | canWakeDetect => exact execCanWakeDetect_keeps
  | linSlotStart => exact execLinSlotStart_keeps
  | linSlotEnd => exact execLinSlotEnd_keeps
  | linWakeDetect => exact execLinWakeDetect_keeps
  | linWakeDone => exact execLinWakeDone_keeps
  | clnCanConfig => exact opRow_keeps effClnCanConfig_wf
  | clnCanMode => exact opRow_keeps effClnCanMode_wf
  | clnCanTxLoad => exact opRow_keeps effClnCanTxLoad_wf
  | clnCanTxAbort => exact opRow_keeps effClnCanTxAbort_wf
  | clnCanTxStatus => exact opRow_keeps effClnCanTxStatus_wf
  | clnCanFilter => exact opRow_keeps effClnCanFilter_wf
  | clnCanRecover => exact opRow_keeps effClnCanRecover_wf
  | clnCanWakeCfg => exact opRow_keeps effClnCanWakeCfg_wf
  | clnCanCounters => exact opRow_keeps effClnCanCounters_wf
  | clnLinConfig => exact opRow_keeps effClnLinConfig_wf
  | clnLinSchedLoad => exact opRow_keeps effClnLinSchedLoad_wf
  | clnLinRun => exact opRow_keeps effClnLinRun_wf
  | clnLinData => exact opRow_keeps effClnLinData_wf
  | clnLinPower => exact opRow_keeps effClnLinPower_wf
  | clnLinCounters => exact opRow_keeps effClnLinCounters_wf
  | sprueRecord => exact execSprueRecord_keeps
  | authResult => exact execAuthResult_keeps
  | releaseTime => exact execReleaseTime_keeps
  | gwBufferLoad => exact execGwBufferLoad_keeps
  | bundleTimeout => exact execBundleTimeout_keeps
  | tunnelFrameIn => exact execTunnelFrameIn_keeps
  | injectDoorbell => exact execInjectDoorbell_keeps
  | hostqCfgWrite => exact execHostqCfgWrite_keeps
  | gwyRouteWrite => exact opRow_keeps effGwyRouteWrite_wf
  | gwyRouteDelete => exact opRow_keeps effGwyRouteDelete_wf
  | gwyRouteRead => exact opRow_keeps effGwyRouteRead_wf
  | gwySetSource => exact opRow_keeps effGwySetSource_wf
  | gwyTunnelCfg => exact opRow_keeps effGwyTunnelCfg_wf
  | gwyAuthProfile => exact opRow_keeps effGwyAuthProfile_wf
  | gwyFreshSet => exact opRow_keeps effGwyFreshSet_wf
  | gwyCounters => exact opRow_keeps effGwyCounters_wf
  | nmPduReceived => exact execNmPduReceived_keeps
  | nmRepeatTimeout => exact execNmRepeatTimeout_keeps
  | nmTimeout => exact execNmTimeout_keeps
  | nmWaitTimeout => exact execNmWaitTimeout_keeps
  | nmMsgTimer => exact execNmMsgTimer_keeps
  | nmCfgWrite => exact execNmCfgWrite_keeps
  | gwyNmCfg => exact opRow_keeps effGwyNmCfg_wf
  | gwyNmRequest => exact opRow_keeps effGwyNmRequest_wf
  | gwyNmStatus => exact opRow_keeps effGwyNmStatus_wf
  | gwyNmUdata => exact opRow_keeps effGwyNmUdata_wf
  | qryPoolCfg => exact opRow_keeps effQryPoolCfg_wf
  | qryReqCfg => exact opRow_keeps effQryReqCfg_wf
  | qryAlloc => exact opRow_keeps effQryAlloc_wf
  | qryFree => exact opRow_keeps effQryFree_wf
  | qryStatus => exact opRow_keeps effQryStatus_wf
  | sprCfg => exact opRow_keeps effSprCfg_wf
  | poolCfgWrite => exact execPoolCfgWrite_keeps
  | allocRead => exact execAllocRead_keeps
  | freeCommit => exact execFreeCommit_keeps
  | scrubDone => exact execScrubDone_keeps
  | qryErrPop => exact execQryErrPop_keeps
  | spruePushData => exact execSpruePushData_keeps
  | spruePushEnd => exact execSpruePushEnd_keeps
  | spruePushPoison => exact execSpruePushPoison_keeps
  | sprueRewind => exact execSprueRewind_keeps
  | spruePop => exact execSpruePop_keeps
  | sprueDropRest => exact execSprueDropRest_keeps
  | cruKeyLoad => exact opRow_keeps effCruKeyLoad_wf
  | cruKeyUnwrap => exact opRow_keeps effCruKeyUnwrap_wf
  | cruKeyWrap => exact opRow_keeps effCruKeyWrap_wf
  | cruKeyErase => exact opRow_keeps effCruKeyErase_wf
  | cruKeyStatus => exact opRow_keeps effCruKeyStatus_wf
  | cruEraseAll => exact opRow_keeps effCruEraseAll_wf
  | cruCounters => exact opRow_keeps effCruCounters_wf
  | jobRingCtrlWrite => exact execJobRingCtrlWrite_keeps
  | jobDoorbell => exact execJobDoorbell_keeps
  | jobStart => exact execJobStart_keeps
  | jobComplete => exact execJobComplete_keeps
  | cruAlarm => exact execCruAlarm_keeps
  | lockstepMismatch => exact execLockstepMismatch_keeps
  | faultResetTimeout => exact execFaultResetTimeout_keeps
  | syncCheckPeriodic => exact execSyncCheckPeriodic_keeps
  | activation => exact execActivation_keeps
  | debugHalt => exact execDebugHalt_keeps
  | debugResume => exact execDebugResume_keeps
  | lscStatus => exact opRow_keeps effLscStatus_wf
  | lscSetCfg => exact opRow_keeps effLscSetCfg_wf
  | lscRelease => exact execLscRelease_keeps
  | lscSyncCheck => exact execLscSyncCheck_keeps
  | lscSplit => exact opRow_keeps effLscSplit_wf
  | lscJoin => exact execLscJoin_keeps
  | lscRestart => exact opRow_keeps effLscRestart_wf
  | lscInject => exact opRow_keeps effLscInject_wf
  | lscActCfg => exact opRow_keeps effLscActCfg_wf
  | oSend => exact execOSend_keeps
  | oCtrlGo => exact execOCtrlGo_keeps
  | oCtrlRejoin => exact execOCtrlRejoin_keeps
  | statusFrameSend => exact execStatusFrameSend_keeps
  | mirrorLost => exact execMirrorLost_keeps
  | copyArrival => exact execCopyArrival_keeps
  | copyJudge => exact execCopyJudge_keeps
  | canRecordWrite => exact execCanRecordWrite_keeps
  | faultLineChange => exact execFaultLineChange_keeps
  | ordLinkTimeout => exact execOrdLinkTimeout_keeps
  | holdoffExpiry => exact execHoldoffExpiry_keeps
  | swapTestEnd => exact execSwapTestEnd_keeps
  | ordSetCfg => exact opRow_keeps effOrdSetCfg_wf
  | ordStatus => exact opRow_keeps effOrdStatus_wf
  | ordSwapTest => exact opRow_keeps effOrdSwapTest_wf
  | ordSwapCancel => exact opRow_keeps effOrdSwapCancel_wf
  | ordCounters => exact opRow_keeps effOrdCounters_wf
  | channelSet => exact execChannelSet_keeps
  | channelMask => exact execChannelMask_keeps
  | channelClear => exact execChannelClear_keeps
  | holdExpiry => exact execHoldExpiry_keeps
  | armWrite => exact execArmWrite_keeps
  | pwmPeriodStart => exact execPwmPeriodStart_keeps
  | pwmEdge => exact execPwmEdge_keeps
  | inrushEnd => exact execInrushEnd_keeps
  | shortDetect => exact execShortDetect_keeps
  | ocWarn => exact execOcWarn_keeps
  | thermalTrip => exact execThermalTrip_keeps
  | thermalReady => exact execThermalReady_keeps
  | restartsClear => exact execRestartsClear_keeps
  | railUndervoltage => exact execRailUndervoltage_keeps
  | railRecovery => exact execRailRecovery_keeps
  | openLoadOn => exact execOpenLoadOn_keeps
  | openLoadOff => exact execOpenLoadOff_keeps
  | lchChanCfg => exact opRow_keeps effLchChanCfg_wf
  | lchProfile => exact opRow_keeps effLchProfile_wf
  | lchTimebase => exact opRow_keeps effLchTimebase_wf
  | lchSetHold => exact opRow_keeps effLchSetHold_wf
  | lchChanStatus => exact opRow_keeps effLchChanStatus_wf
  | lchCounters => exact opRow_keeps effLchCounters_wf
  | wakeSourceFire => exact execWakeSourceFire_keeps
  | validationEnd => exact execValidationEnd_keeps
  | autoSleepBegin => exact execAutoSleepBegin_keeps
  | powerOffDone => exact execPowerOffDone_keeps
  | powerOffComplete => exact execPowerOffComplete_keeps
  | brownOut => exact execBrownOut_keeps
  | keystonePor => exact execKeystonePor_keeps
  | railsGood => exact execRailsGood_keeps
  | moduleResetRelease => exact execModuleResetRelease_keeps
  | ladlePourComplete => exact execLadlePourComplete_keeps
  | lateLoad => exact execLateLoad_keeps
  | recoveryTimeout => exact execRecoveryTimeout_keeps
  | keyStatus => exact opRow_keeps effKeyStatus_wf
  | keySetCfg => exact opRow_keeps effKeySetCfg_wf
  | keySleep => exact opRow_keeps effKeySleep_wf
  | keyWakeValid => exact opRow_keeps effKeyWakeValid_wf
  | keyUnlock => exact opRow_keeps effKeyUnlock_wf
  | keyLogRead => exact opRow_keeps effKeyLogRead_wf
  | keyCounters => exact opRow_keeps effKeyCounters_wf
  | inboundRequest => exact execInboundRequest_keeps
  | outboundWrite => exact execOutboundWrite_keeps
  | outboundRead => exact execOutboundRead_keeps
  | completionArrival => exact execCompletionArrival_keeps
  | completionTimeout => exact execCompletionTimeout_keeps
  | msixSend => exact execMsixSend_keeps
  | sidebandWrite => exact execSidebandWrite_keeps
  | sidebandPoll => exact execSidebandPoll_keeps
  | grpModeWrite => exact execGrpModeWrite_keeps
  | pcieLinkUp => exact execPcieLinkUp_keeps
  | pcieLinkReset => exact execPcieLinkReset_keeps
  | functionLevelReset => exact execFunctionLevelReset_keeps
  | hbrErrPop => exact execHbrErrPop_keeps
  | hbrSetRegion => exact opRow_keeps effHbrSetRegion_wf
  | hbrLinkStatus => exact opRow_keeps effHbrLinkStatus_wf
  | hbrFnStatus => exact opRow_keeps effHbrFnStatus_wf
  | hbrLogRead => exact opRow_keeps effHbrLogRead_wf
  | hbrCounters => exact opRow_keeps effHbrCounters_wf
  | hbrSetCfg => exact opRow_keeps effHbrSetCfg_wf
  | sysReset => exact execSysReset_keeps
  | sysFlashRead => exact opRow_keeps effSysFlashRead_wf
  | sysFlashErase => exact opRow_keeps effSysFlashErase_wf
  | sysFlashWrite => exact opRow_keeps effSysFlashWrite_wf
  | sysImageCheck => exact opRow_keeps effSysImageCheck_wf
  | sysErrPop => exact execSysErrPop_keeps
  | hltStatus => exact opRow_keeps effHltStatus_wf
  | hltSetCfg => exact opRow_keeps effHltSetCfg_wf
  | hltEccRead => exact opRow_keeps effHltEccRead_wf
  | hltLifeRead => exact opRow_keeps effHltLifeRead_wf
  | hltLifeSave => exact opRow_keeps effHltLifeSave_wf
  | alarmRaise => exact execAlarmRaise_keeps
  | debugAttach => exact execDebugAttach_keeps
  | eccError => exact execEccError_keeps
  | patrolScrub => exact execPatrolScrub_keeps
  | healthMeasure => exact execHealthMeasure_keeps
  | hourlyEvaluation => exact execHourlyEvaluation_keeps
  | gptpSyncSend => exact execGptpSyncSend_keeps
  | rtMarkerReceived => exact execRtMarkerReceived_keeps
  | retainedStartLimit => exact execRetainedStartLimit_keeps
  | tc10SleepRefused => exact execTc10SleepRefused_keeps
  | latchedWakePowerUp => exact execLatchedWakePowerUp_keeps
  | wakeSupplyGood => exact execWakeSupplyGood_keeps
  | wakeIgnoreExpiry => exact execWakeIgnoreExpiry_keeps
  | debugDetach => exact execDebugDetach_keeps
  | pcieConfigWrite => exact execPcieConfigWrite_keeps

/-! ### One step of the part -/

/-- A step keeps the invariant: the front command, or the tick where none waits. -/
theorem step_keeps {s : State} : Keeps s (step s) := by
  unfold step
  split
  · exact next_keeps tick_wf
  · exact Keeps.of_same (fun h => wf_same h) exec_keeps

/-! ### The obligations -/

/-- Settles O2: every row answers a next state, and with no command waiting the step is the tick by definition. -/
theorem emptyQueueStepIsOneTick : Obligations.EmptyQueueStepIsOneTick := by
  refine ⟨fun c s => ?_, fun s => ?_, fun s hs => ?_⟩
  · obtain ⟨t, ht, -⟩ : Keeps s (exec c s) := exec_keeps
    exact ⟨t, ht⟩
  · obtain ⟨t, ht, -⟩ : Keeps s (step s) := step_keeps
    exact ⟨t, ht⟩
  · unfold step
    rw [hs]

/-- Settles O5: every row and the tick keep the canonical form of the tables and the range of NS. -/
theorem stepKeepsTheInvariant : Obligations.StepKeepsTheInvariant := by
  intro s t h ht
  obtain ⟨u, hu, hwf⟩ : Keeps s (step s) := step_keeps
  obtain rfl : u = t := by
    rw [hu] at ht
    cases ht
    rfl
  exact hwf h

end Sys2Proof.Machine
end

section
namespace Sys2Proof.Machine

/-! ### Commands that a check refuses (R67 steps 5–8) -/

/-- A row that brings the words of both copies acts where they are as many as R430 names. -/
theorem onWords_ok {cope drag : List Word} (o : Out) (s : State) (h : copiesOk cope drag = true) :
    onWords cope drag o s = o := if_pos h

/-- Where Mason holds the command and it may start, a well-formed row of an opcode is the run of that opcode's entry.
SYS_RESET is one too, since its reload goes on only where no such command may start. -/
theorem exec_opRow {i : Instr} {op ring slot : Nat} {c : Cmd} {s : State} (hw : i.wellFormed = true)
    (hr : commandRow i = some (op, ring, slot)) (hf : findCmd op ring slot s = some c) :
    ∃ l eff, exec i s = opRow (specOf l op) eff ring slot s ∧ opLookup op = some (specOf l op) := by
  cases i
  case sysReset =>
    cases hr
    have hx : execSysReset ring slot s = opRow (specOf opsSys 0x0100) effSysReset ring slot s := by
      simp only [execSysReset, hf]
    exact ⟨_, _, hx, rfl⟩
  case lscRelease | lscSyncCheck | lscJoin =>
    cases hr
    exact ⟨_, _, onWords_ok _ s (Bool.and_eq_true_iff.mp hw).2, rfl⟩
  all_goals cases hr
  all_goals exact ⟨_, _, rfl, rfl⟩

/-- Of a well-formed row: a command that fails a check of R67 steps 5–8 has no effect but its failing reply
and the record of a refused buffer access. -/
theorem exec_refused {i : Instr} {op ring slot : Nat} {sp : OpSpec} {c : Cmd} {f : Fail} {a : Option Nat} {s : State}
    (hw : i.wellFormed = true) (hr : commandRow i = some (op, ring, slot)) (hl : opLookup op = some sp)
    (hu : s.up = true) (hf : findCmd op ring slot s = some c) (hc : startCheck sp c s = .inl (f, a)) :
    exec i s = .next (completeFail c f (a.elim s fun x => s.accessFault c.issuer x false)) := by
  obtain ⟨l, eff, hx, hs⟩ := exec_opRow hw hr hf
  obtain rfl : specOf l op = sp := Option.some.inj (hs.symm.trans hl)
  have ho : (specOf l op).opcode = op := beq_iff_eq.mp (List.find?_some (p := fun x : OpSpec => x.opcode == op) hl)
  rw [hx, opRow_refused _ eff hu (ho.symm ▸ hf) hc]
  cases a <;> rfl

/-- An LSC_RELEASE row whose lists of words are empty, not of the 98 words that R430 names of each copy, changes
nothing. -/
theorem exec_lscRelease_wordless (ring slot : Nat) (s : State) : exec (.lscRelease ring slot [] []) s = .next s := rfl

/-- LSC_RELEASE of domain A from slot 0 of ring 0, whose owner has no right in LSC's table. -/
def deniedRelease : Cmd :=
  { ring := 0, slot := 0, issuer := 0x10, opcode := 0x0D02, ordered := false, indirect := false, noReply := false,
    tag := 0, len := 0, inst := 0, bufSize := 0, bufAddr := 0, payload := [], door := 0, running := false }

/-- The die runs with its access tables as after reset, and Mason holds that command alone. -/
def holdsDeniedRelease : State :=
  { State.reset with
    sys := { State.reset.sys with phase := .running }
    mason := { State.reset.mason with cmds := [deniedRelease] } }

/-- The command may start. -/
theorem findCmd_deniedRelease : findCmd 0x0D02 0 0 holdsDeniedRelease = some deniedRelease := rfl

/-- It fails R67 step 5: its issuer lacks CMD_BASIC on block 13. -/
theorem startCheck_deniedRelease : startCheck (specOf opsLsc 0x0D02) deniedRelease holdsDeniedRelease =
    .inl (⟨stDenied, 0x10, noOffset, 13 * 256 + 2⟩, none) := rfl

/-- Refutes O8: the statement takes a row of LSC_RELEASE with word lists of any length, and one without words leaves a
denied command with Mason instead of completing it (LSC_SYNC_CHECK and LSC_JOIN are alike). Of well-formed rows it holds:
`exec_refused`. -/
theorem not_refusedCommandsOnlyReply : ¬ Obligations.RefusedCommandsOnlyReply := by
  intro h
  have hx := h (.lscRelease 0 0 [] []) 0x0D02 0 0 _ _ _ none holdsDeniedRelease rfl rfl rfl findCmd_deniedRelease
    startCheck_deniedRelease
  rw [exec_lscRelease_wordless] at hx
  injection hx with hs
  have hc := congrArg (fun t : State => t.mason.cmds) hs
  exact absurd hc (by decide)

end Sys2Proof.Machine
end

section
namespace Sys2Proof.Machine

/-! ### Writes of ring registers (R71, R80, R82, R589) -/

/-- A register write leaves every other register alone. -/
theorem sameRegs_wr (a : Nat) (v : Word) (s : State) : SameRegs [a] s (s.wr a v) := fun b hb =>
  State.rd_wr_ne s v (fun h => hb (by simp [h]))

/-- A write of an owner's register by the owner, under WRITE and the ring's mask bit, is done. -/
theorem ownedWrite_owner {n off m : Nat} {f : State → Ans} {s : State} (hm : MayWrite s m 1 (.bit n) = true) (hn : n ≤ 31)
    (ho : ringOwner s n = m) : ownedWrite n off m f s = .next (settle m s (f s)) := by
  simp only [MayWrite, Bool.and_eq_true] at hm
  obtain ⟨⟨⟨hu, hi⟩, hr⟩, ha⟩ := hm
  unfold ownedWrite
  rw [fabricAct_go hu hi]
  simp only [Nat.not_lt.mpr hn, hr, ho, ha, if_true, if_false, Bool.not_true, Bool.false_eq_true, ne_eq, not_true_eq_false]

/-- A write of an owner's register by another master is dropped, counted and shown in FOREIGN_DB (R80). -/
theorem ownedWrite_foreign {n off m : Nat} {f : State → Ans} {s : State} (hu : s.up = true) (hi : Issues s m = true)
    (hr : reachesRegs s m = true) (hn : n ≤ 31) (ho : ringOwner s n ≠ m) :
    ownedWrite n off m f s = .next ((s.drop m).sb (ringReg n 0x24) 3 true) := by
  unfold ownedWrite
  rw [fabricAct_go hu hi]
  simp only [Nat.not_lt.mpr hn, hr, ho, if_true, if_false, Bool.not_true, Bool.false_eq_true, ne_eq, not_false_eq_true]

/-- The state after a doorbell of master `m` that moves CMD_TAIL of ring `n` to `v`. -/
def doorRung (m n : Nat) (v : Word) (s : State) : State :=
  { s.wr (ringReg n 0x14) v with
    mason := { s.mason with
      doors := s.mason.doors ++ [⟨n, s.mason.doorCount, v.toNat, m⟩], doorCount := s.mason.doorCount + 1 } }

/-- A doorbell leaves everything but registers and Mason's state alone. -/
theorem doorRung_frame (m n : Nat) (v : Word) (s : State) :
    { doorRung m n v s with regs := s.regs, mason := s.mason } = s := by
  simp only [doorRung, State.wr]

/-- A tail that moves forward, not past the head, is stored and its doorbell joins the order of arrivals. -/
theorem ringTail_advances {m n : Nat} {v : Word} {s : State} (hv : v.toNat < ringSlots s n)
    (hne : v.toNat ≠ s.f (ringReg n 0x14) 11 0)
    (hle : (v.toNat + ringSlots s n - s.f (ringReg n 0x14) 11 0) % ringSlots s n ≤
      (s.f (ringReg n 0x18) 11 0 + 2 * ringSlots s n - 1 - s.f (ringReg n 0x14) 11 0) % ringSlots s n) :
    ringTail m n v s = .ok (doorRung m n v s) := by
  simp only [ringTail]
  rw [if_neg (by omega), if_neg hne, if_pos hle]
  rfl

/-- A tail at or above SLOTS only sets BAD_DB. -/
theorem ringTail_high {m n : Nat} {v : Word} {s : State} (hv : ringSlots s n ≤ v.toNat) :
    ringTail m n v s = .ok (s.sb (ringReg n 0x24) 2 true) := if_pos hv

/-- The present tail uncovers no slot. -/
theorem ringTail_same {m n : Nat} {v : Word} {s : State} (hv : v.toNat < ringSlots s n)
    (he : v.toNat = s.f (ringReg n 0x14) 11 0) : ringTail m n v s = .ok s := by
  simp only [ringTail]
  rw [if_neg (by omega), if_pos he]

/-- The four indices of a ring read zero once they are reset, and every other register reads as before. -/
theorem rd_ringZero (n a : Nat) (s : State) : (ringZero n s).rd a =
    if a ∈ [ringReg n 0x14, ringReg n 0x18, ringReg n 0x1C, ringReg n 0x20] then 0 else s.rd a := by
  have h : (ringZero n s).rd a =
      ((((s.wr (ringReg n 0x14) 0).wr (ringReg n 0x18) 0).wr (ringReg n 0x1C) 0).wr (ringReg n 0x20) 0).rd a :=
    State.rd_of_regs rfl a
  simp only [h, State.rd_wr, List.mem_cons, List.not_mem_nil, or_false, eq_comm (b := a)]
  grind

/-- A reset of a ring's indices leaves everything but registers and Mason's state alone. -/
theorem ringZero_frame (n : Nat) (s : State) : { ringZero n s with regs := s.regs, mason := s.mason } = s := by
  simp only [ringZero, State.wr]

/-- EN = 0 stops a ring of software's (R82). -/
theorem ringDisable_stops {n : Nat} {s : State} (hn : n ≤ 31) (hp : ncpRing s n = false) :
    ringDisable n s = stopRing n s := if_neg (by simp [hp]; omega)

/-- RESET of an idle ring of software's zeroes its indices (R82). -/
theorem ringReset_idle {n : Nat} {s : State} (hn : n ≤ 31) (hp : ncpRing s n = false) (hi : s.bit (ringReg n 0x24) 0 = true) :
    ringReset n s = ringZero n s := by
  unfold ringReset
  rw [if_neg (by simp [hp]; omega), if_pos hi]

/-- RESET of a ring that is not idle does nothing (R82). -/
theorem ringReset_busy {n : Nat} {s : State} (hi : s.bit (ringReg n 0x24) 0 = false) : ringReset n s = s := by
  simp [ringReset, hi]

/-- A permitted write of EN = 0 disables the ring. -/
theorem execRingDisable_permitted {m n : Nat} {s : State} (hm : MayWrite s m 1 (.bit n) = true) :
    execRingDisable m n s = .next (ringDisable n s) := withWrite_ok hm

/-- A permitted write of RESET resets the ring. -/
theorem execRingReset_permitted {m n : Nat} {s : State} (hm : MayWrite s m 1 (.bit n) = true) :
    execRingReset m n s = .next (ringReset n s) := withWrite_ok hm

/-- A permitted write of CMD.TIMEOUT without reserved bits takes the nearer limit (R71). -/
theorem execCmdTimeoutWrite_permitted {m : Nat} {v : Word} {s : State} (hm : MayWrite s m 1 .full = true)
    (hv : fld v 31 20 = 0) : execCmdTimeoutWrite m v s =
      .next (s.wr (rg 1 8) (BitVec.ofNat 32 (max 100 (min 1000000 (fld v 19 0))))) := by
  unfold execCmdTimeoutWrite
  rw [withWrite_ok hm, if_neg (by simp [hv])]
  rfl

/-- Settles O11: the doorbell follows the four places its value can stand in; EN, RESET and TIMEOUT are single writes. -/
theorem ringRegisterWrites : Obligations.RingRegisterWrites := by
  refine ⟨?_, ?_, ?_, ?_, ?_, ?_, ?_, ?_⟩
  · rintro m n v s hm hn ho ⟨hv, hne⟩ hle
    refine ⟨doorRung m n v s, (ownedWrite_owner hm hn ho).trans ?_, State.rd_wr_same s _ v, sameRegs_wr _ v s, rfl,
      doorRung_frame m n v s⟩
    rw [ringTail_advances hv hne hle]
    rfl
  · intro m n v s hm hn ho hv
    refine (ownedWrite_owner hm hn ho).trans ?_
    rw [ringTail_high hv]
    rfl
  · rintro m n v s hm hn ho ⟨hv, he⟩
    refine (ownedWrite_owner hm hn ho).trans ?_
    rw [ringTail_same hv he]
    rfl
  · intro m n v s hu hi hr hn ho
    exact ownedWrite_foreign hu hi hr hn ho
  · intro m n s hm hn hp
    exact (execRingDisable_permitted hm).trans (congrArg _ (ringDisable_stops hn hp))
  · intro m n s hm hn hp hi
    refine ⟨ringZero n s, (execRingReset_permitted hm).trans (congrArg _ (ringReset_idle hn hp hi)), fun o ho => ?_,
      fun a ha => ?_, rfl, ringZero_frame n s⟩
    · have hin : ringReg n o ∈ [ringReg n 0x14, ringReg n 0x18, ringReg n 0x1C, ringReg n 0x20] :=
        List.mem_map_of_mem (f := ringReg n) ho
      rw [rd_ringZero, if_pos hin]
    · rw [rd_ringZero, if_neg ha]
  · intro m n s hm hi
    exact (execRingReset_permitted hm).trans (congrArg _ (ringReset_busy hi))
  · intro m v s hm hv
    exact execCmdTimeoutWrite_permitted hm hv

end Sys2Proof.Machine
end

section
namespace Sys2Proof.Machine

/-! ### SYS.FENCE and the bus error log (R31, R45–R49) -/

/-- A read of SYS.FENCE returns while no write of the reader through the outbound window is outstanding (R45). -/
theorem execSysFenceRead_returns {m waited : Nat} {s : State} (hu : s.up = true) (hi : Issues s m = true)
    (hr : reachesRegs s m = true) (ho : outWrites s m = 0) :
    execSysFenceRead m waited s = .next (fenceRead m waited false s) := by
  unfold execSysFenceRead
  rw [fabricAct_go hu hi]
  simp only [hr, ho, if_true, Bool.not_true, Bool.false_eq_true, if_false]

/-- With such a write outstanding it does not return (R531). -/
theorem execSysFenceRead_waits {m waited : Nat} {s : State} (hu : s.up = true) (hi : Issues s m = true)
    (hr : reachesRegs s m = true) (ho : outWrites s m ≠ 0) : execSysFenceRead m waited s = .next s := by
  unfold execSysFenceRead
  rw [fabricAct_go hu hi]
  simp only [hr, ho, Bool.not_true, Bool.false_eq_true, if_false]

/-- A read at its limit returns, the writes through the outbound window counted with those to registers, and raises
FENCE_TIMEOUT (R49). -/
theorem execFenceTimeout_returns {m waited : Nat} {s : State} (hu : s.up = true) (hi : Issues s m = true)
    (hr : reachesRegs s m = true) :
    execFenceTimeout m waited s = .next ((fenceRead m (waited + outWrites s m) true s).sb (rg 0 0x40) 0 true) := by
  unfold execFenceTimeout
  rw [fabricAct_go hu hi]
  simp only [hr, if_true]
  rfl

/-- A FENCE read clears the reader's DROPPED count alone and returns its word (R48). -/
theorem fenceRead_eq (m waited : Nat) (late : Bool) (s : State) : fenceRead m waited late s =
    { s with sys := { s.sys with
        dropped := tput 0 s.sys.dropped m 0
        reads := s.sys.reads ++ [⟨m, s.shown m [BitVec.ofNat 32
          (min 0xFFFF waited + tget 0 s.sys.dropped m * 2 ^ 16 + b2n late * 2 ^ 30)], false⟩] } } := rfl

/-- A permitted read of ERR_POP_LO takes the oldest entry from the log, latches it and returns its first word (R31). -/
theorem execSysErrPop_permitted {m : Nat} {s t : State} (hm : MayRead s m 0 .none = true)
    (ht : t = { s with sys := { s.sys with
      log := s.sys.log.tail, latch := tput LogEntry.none s.sys.latch m (s.sys.log.headD LogEntry.none) } }) :
    execSysErrPop m s =
      .next ((t.sf (rg 0 0x38) 4 0 s.sys.log.tail.length).reply m [(s.sys.log.headD LogEntry.none).lo] false) := by
  subst ht
  unfold execSysErrPop
  rw [withRead_ok hm]

/-- Settles O13: a FENCE read returns, waits or times out; an error pop is a permitted read. -/
theorem fenceReadsAndErrorPop : Obligations.FenceReadsAndErrorPop := by
  refine ⟨?_, ?_, ?_, ?_⟩
  · intro m waited s hu hi hr ho
    refine (execSysFenceRead_returns hu hi hr ho).trans ?_
    rw [fenceRead_eq, b2n, if_neg Bool.false_ne_true, Nat.zero_mul, Nat.add_zero]
  · intro m waited s hu hi hr ho
    exact execSysFenceRead_waits hu hi hr ho
  · intro m waited s hu hi hr
    refine (execFenceTimeout_returns hu hi hr).trans ?_
    rw [fenceRead_eq, b2n, if_pos rfl, Nat.one_mul]
  · intro m s t hm ht
    exact execSysErrPop_permitted hm ht

end Sys2Proof.Machine
end

section
namespace Sys2Proof.Machine

/-! ### The ACL register window (R90, R91, R591) -/

/-- A write of an ACL register by a master that reaches registers is judged by the register. -/
theorem aclAct_reached {m off : Nat} {f : State → Ans} {s : State} (hu : s.up = true) (hi : Issues s m = true)
    (hr : reachesRegs s m = true) : aclAct m off f s = .next (settle m s (f s)) := by
  unfold aclAct
  rw [fabricAct_go hu hi]
  simp only [hr, Bool.not_true, Bool.false_eq_true, if_false]

/-- The offset of word `i` of an entry leads to that entry's word (R90). -/
theorem aclWindowAct_entry {b t i : Nat} (m : Nat) (v : Word) (s : State) (hb : b ≤ 18) (ht : t ≤ 127) (hi : i ≤ 3) :
    aclWindowAct m (0x10000 + b * 0x800 + t * 0x10 + i * 4) v s = aclEntryWrite m b t i v s := by
  have hin : 0x10000 ≤ 0x10000 + b * 0x800 + t * 0x10 + i * 4 ∧
      0x10000 + b * 0x800 + t * 0x10 + i * 4 < 0x10000 + 19 * 0x800 := by omega
  simp only [aclWindowAct]
  rw [if_pos hin, if_neg (by omega)]
  congr 1 <;> omega

/-- The offset of word `i` of a window leads to that window's word (R90). -/
theorem aclWindowAct_window {t w i : Nat} (m : Nat) (v : Word) (s : State) (ht : t ≤ 127) (hw : w ≤ 7) (hi : i ≤ 3) :
    aclWindowAct m (0x20000 + t * 0x80 + w * 0x10 + i * 4) v s = aclWinWrite m t w i v s := by
  have hin : 0x20000 ≤ 0x20000 + t * 0x80 + w * 0x10 + i * 4 ∧
      0x20000 + t * 0x80 + w * 0x10 + i * 4 < 0x20000 + 128 * 0x80 := by omega
  simp only [aclWindowAct]
  rw [if_neg (by omega), if_pos hin, if_neg (by omega)]
  congr 1 <;> omega

/-- An unlocked entry of a master other than 0 and 1 takes the word of a writer with the rights. -/
theorem aclEntryWrite_stores {m b t i : Nat} {v : Word} {e : AclEntry} {s : State} (ht : 2 ≤ t)
    (ha : aclMayWrite s m b = true) (hl : aclLocked s b = false) (he : entryWrite (s.aclEntry b t) i v = some e) :
    aclEntryWrite m b t i v s = .ok (s.setEntry b t e) := by
  unfold aclEntryWrite
  have h0 : ¬ t = 0 := by omega
  have h1 : ¬ t = 1 := by omega
  simp [ha, hl, he, h0, h1]

/-- Without the rights, on a fixed entry or on a locked table the write is dropped. -/
theorem aclEntryWrite_drops {m b t i : Nat} {v : Word} {s : State}
    (h : aclMayWrite s m b = false ∨ t ≤ 1 ∨ aclLocked s b = true) : aclEntryWrite m b t i v s = .ok (s.drop m) := by
  refine if_pos ?_
  rcases h with h | h | h
  · simp [h]
  · have ht : t = 0 ∨ t = 1 := by omega
    rcases ht with rfl | rfl <;> simp
  · simp [h]

/-- An unlocked window takes the word of a writer with the rights. -/
theorem aclWinWrite_stores {m t w i : Nat} {v : Word} {x : Window} {s : State} (ha : aclMayWrite s m 19 = true)
    (hl : aclLocked s 19 = false) (hx : windowWrite (s.window t w) i v = some x) :
    aclWinWrite m t w i v s = .ok (s.setWindow t w x) := by
  simp [aclWinWrite, ha, hl, hx]

/-- Without the rights or under the windows' lock the write is dropped. -/
theorem aclWinWrite_drops {m t w i : Nat} {v : Word} {s : State} (h : aclMayWrite s m 19 = false ∨ aclLocked s 19 = true) :
    aclWinWrite m t w i v s = .ok (s.drop m) := by
  refine if_pos ?_
  rcases h with h | h <;> simp [h]

/-- A writer that may set every bit it asks for sets them. -/
theorem aclLockAct_all {m : Nat} {v : Word} {s : State} (hv : fld v 31 20 = 0)
    (h : (bitsOf v.toNat 20).all (aclMayWrite s m) = true) :
    aclLockAct m v s = .ok ((bitsOf v.toNat 20).foldl (fun t b => t.sb (rg 2 0) b true) s) := by
  have hf : (bitsOf v.toNat 20).filter (aclMayWrite s m) = bitsOf v.toNat 20 :=
    List.filter_eq_self.mpr (List.all_eq_true.mp h)
  simp [aclLockAct, hv, h, hf]

/-- One that may not sets those it may, and its write counts as one drop. -/
theorem aclLockAct_some {m : Nat} {v : Word} {s : State} (hv : fld v 31 20 = 0)
    (h : (bitsOf v.toNat 20).all (aclMayWrite s m) = false) :
    aclLockAct m v s =
      .ok ((((bitsOf v.toNat 20).filter (aclMayWrite s m)).foldl (fun t b => t.sb (rg 2 0) b true) s).drop m) := by
  unfold aclLockAct
  simp only [hv, h, ne_eq, not_true_eq_false, false_and, if_false, Bool.false_eq_true]

/-- Settles O19: an offset of the window leads to one word, which the rights, the fixed entries and the lock decide on;
LOCK is judged bit by bit. -/
theorem aclRegisterWindow : Obligations.AclRegisterWindow := by
  refine ⟨?_, ?_, ?_, ?_, ?_, ?_⟩
  · rintro m b t i off v e s hu hi hr ⟨hb, h2, ht, hw, rfl⟩ ha hl he
    refine (aclAct_reached hu hi hr).trans ?_
    rw [aclWindowAct_entry m v s hb ht hw, aclEntryWrite_stores h2 ha hl he]
    rfl
  · rintro m t w i off v x s hu hi hr ⟨ht, hw, hj, rfl⟩ ha hl hx
    refine (aclAct_reached hu hi hr).trans ?_
    rw [aclWindowAct_window m v s ht hw hj, aclWinWrite_stores ha hl hx]
    rfl
  · rintro m b t i off v s hu hi hr ⟨hb, ht, hw, rfl⟩ h
    refine (aclAct_reached hu hi hr).trans ?_
    rw [aclWindowAct_entry m v s hb ht hw, aclEntryWrite_drops h]
    rfl
  · rintro m t w i off v s hu hi hr ⟨ht, hw, hj, rfl⟩ h
    refine (aclAct_reached hu hi hr).trans ?_
    rw [aclWindowAct_window m v s ht hw hj, aclWinWrite_drops h]
    rfl
  · intro m v s hu hi hr hv h
    refine (aclAct_reached hu hi hr).trans ?_
    rw [aclLockAct_all hv h]
    rfl
  · intro m v s hu hi hr hv h
    refine (aclAct_reached hu hi hr).trans ?_
    rw [aclLockAct_some hv h]
    rfl

end Sys2Proof.Machine
end

section
namespace Sys2Proof.Machine

/-! ### Rows whose command Mason does not hold (R67, R75) -/

/-- Where every SYS_RESET of a ring and slot that Mason holds still waits for its start, its row finds no reload to go
on with. -/
theorem execSysReset_idle {ring slot : Nat} {s : State} (hf : findCmd 0x100 ring slot s = none)
    (hw : ∀ c ∈ s.mason.cmds, c.ring = ring → c.slot = slot → c.opcode = 0x100 → c.running = false) :
    execSysReset ring slot s = .next s := by
  have hn : s.mason.cmds.find? (fun c => c.ring == ring && c.slot == slot && c.opcode == 0x100 && c.running) = none := by
    rw [List.find?_eq_none]
    intro c hc
    simp only [Bool.and_eq_true, beq_iff_eq, not_and, Bool.not_eq_true]
    rintro ⟨⟨hr, hs⟩, ho⟩
    exact hw c hc hr hs ho
  simp only [execSysReset, hf, hn]
  exact opRow_idle (specOf opsSys 0x0100) effSysReset hf

/-- The row of an opcode changes nothing where Mason holds no such command that may start, and, for SYS_RESET, none
whose reload waits. -/
theorem exec_idle {i : Instr} {op ring slot : Nat} {s : State} (hr : commandRow i = some (op, ring, slot))
    (hf : findCmd op ring slot s = none)
    (hw : ∀ c ∈ s.mason.cmds, c.ring = ring → c.slot = slot → c.opcode = 0x100 → c.running = false) :
    exec i s = .next s := by
  cases i
  case sysReset =>
    cases hr
    exact execSysReset_idle hf hw
  case lscRelease | lscSyncCheck | lscJoin =>
    cases hr
    refine Eq.trans (congrArg (onWords _ _ · s) (opRow_idle _ _ hf)) ?_
    exact ite_self _
  all_goals cases hr
  all_goals exact opRow_idle _ _ hf

/-- A SYS_RESET with RELOAD in slot 0 of ring 0 that has started. -/
def startedReset : Cmd :=
  { ring := 0, slot := 0, issuer := 0x10, opcode := 0x100, ordered := false, indirect := false, noReply := false,
    tag := 0, len := 4, inst := 0, bufSize := 0, bufAddr := 0, payload := [1, 3, 1, 0], door := 0, running := true }

/-- The die runs and Mason holds that command alone; its reload of TIM waited for a command of the image, which has
ended with BUSY. -/
def reloadCanGoOn : State :=
  { State.reset with
    sys := { State.reset.sys with phase := .running, reload := some (3, 0) }
    mason := { State.reset.mason with cmds := [startedReset], image := (stBusy, 0, noOffset, 0) } }

/-- A command that has started may not start again. -/
theorem findCmd_startedReset : findCmd 0x100 0 0 reloadCanGoOn = none := rfl

/-- Its row goes on with the reload, and completes it. -/
theorem exec_startedReset : exec (.sysReset 0 0) reloadCanGoOn = .next (reloadMore startedReset reloadCanGoOn) :=
  execSysReset_more rfl findCmd_startedReset rfl

/-- Refutes O7: a SYS_RESET that has started may not start again, but where its reload waited, its row goes on with the
reload (log entry 72) and here completes the command. Without such a command the statement holds: `exec_idle`. -/
theorem not_commandRowsNeedTheirCommand : ¬ Obligations.CommandRowsNeedTheirCommand := by
  intro h
  have hx := h (.sysReset 0 0) 0x100 0 0 reloadCanGoOn rfl findCmd_startedReset
  rw [exec_startedReset] at hx
  injection hx with hs
  have hc := congrArg (fun t : State => t.mason.cmds) hs
  exact absurd hc (by decide)

end Sys2Proof.Machine
end

section
namespace Sys2Proof.Machine

/-! ### Ring registers and what leaves them alone -/

/-- Registers of one ring at different offsets are different. -/
theorem ringReg_ne (n : Nat) {o p : Nat} (h : o ≠ p) : ringReg n o ≠ ringReg n p := by
  simp only [ringReg, rg_eq]
  omega

/-- A ring's registers are none of the block's others. -/
theorem ringReg_ne_rg (n o : Nat) {p : Nat} (h : p < 0x1000) : ringReg n o ≠ rg 1 p := by
  simp only [ringReg, rg_eq]
  omega

theorem SameRegs.trans {l : List Nat} {s t u : State} (h : SameRegs l s t) (k : SameRegs l t u) : SameRegs l s u :=
  fun a ha => (k a ha).trans (h a ha)

theorem SameRegs.mono {l l' : List Nat} {s t : State} (h : SameRegs l s t) (hl : l ⊆ l') : SameRegs l' s t :=
  fun a ha => h a (fun hm => ha (hl hm))

theorem SameRegs.of_regs {l : List Nat} {s t : State} (h : t.regs = s.regs) : SameRegs l s t :=
  fun a _ => State.rd_of_regs h a

/-! ### Completion of a command (R65, R74, R76, R82, R87) -/

/-- INFLIGHT and IDLE follow Mason's list in the ring's RING_STATUS alone. -/
theorem sameRegs_ringShow (n : Nat) (s : State) : SameRegs [ringReg n 0x24] s (ringShow n s) :=
  (sameRegs_wr (ringReg n 0x24) _ s).trans (sameRegs_wr (ringReg n 0x24) _ _)

/-- INFLIGHT is the number of the ring's commands held. -/
theorem ringShow_inflight (n : Nat) (s : State) : (ringShow n s).f (ringReg n 0x24) 11 8 =
    (s.mason.cmds.filter (fun c => c.ring == n)).length % 16 := by
  simp only [ringShow, State.f, State.sb, State.sf, State.rd_wr_same, setBit]
  rw [fld_setFld_ne _ _ (by decide) (by decide) (by decide) (by decide)]
  exact fld_setFld _ _ (by decide) (by decide)

/-- IDLE holds where EN is 0 and no command of the ring is held. -/
theorem ringShow_idle (n : Nat) (s : State) : (ringShow n s).bit (ringReg n 0x24) 0 =
    (!s.bit (ringReg n 0x10) 0 && (s.mason.cmds.filter (fun c => c.ring == n)).isEmpty) := by
  simp only [ringShow]
  rw [State.bit_sb_same _ _ _ (by decide), State.bit, State.rd_sf_ne _ _ _ _ (ringReg_ne n (by decide)),
    State.bit]
  cases s.mason.cmds.filter (fun c => c.ring == n) <;> rfl

/-- Every other bit of RING_STATUS stays. -/
theorem ringShow_bit_ne (n : Nat) {i : Nat} (s : State) (h0 : i ≠ 0) (hi : i < 8 ∨ 11 < i) :
    (ringShow n s).bit (ringReg n 0x24) i = s.bit (ringReg n 0x24) i := by
  by_cases h : i < 32
  · simp only [ringShow, State.bit, State.sb, State.sf, State.rd_wr_same]
    rw [bitOf_setBit_ne _ _ (by decide) h (Ne.symm h0), bitOf_setFld _ _ (by decide) (by decide) h, if_neg (by omega)]
  · simp only [State.bit, bitOf]
    rw [BitVec.getLsbD_of_ge _ _ (by omega), BitVec.getLsbD_of_ge _ _ (by omega)]

/-- The reply that a command's completion in state `s` leaves to be written (R65). -/
def replyOf (c : Cmd) (status code offset value len : Nat) (result : List Byte) (s : State) : Reply :=
  { ring := c.ring, slot := c.slot, issuer := c.issuer, opcode := c.opcode, tag := c.tag, noReply := c.noReply,
    status := status, code := code, offset := offset, value := value, resultLen := len, result := result,
    doneNs := s.tim.ns, doneSec := s.tim.sec.toNat % 2 ^ 32, door := c.door, ordered := c.ordered }

/-- Command `c` leaves Mason's list, and reply `r` waits to be written. -/
def moveToReplies (c : Cmd) (r : Reply) (s : State) : State :=
  { s with mason := { s.mason with
      cmds := s.mason.cmds.filter (fun d => !sameCmd d c), replies := s.mason.replies ++ [r] } }

/-- DENIED of a command that is not NO_REPLY is counted against its ring (R87). -/
def countDenied (c : Cmd) (status : Nat) (s : State) : State :=
  if status = stDenied ∧ c.noReply = false then s.cntF (ringReg c.ring 0x2C) 31 16 1 else s

theorem countDenied_mason (c : Cmd) (status : Nat) (s : State) : (countDenied c status s).mason = s.mason := by
  unfold countDenied
  split <;> rfl

theorem countDenied_frame (c : Cmd) (status : Nat) (s : State) : { countDenied c status s with regs := s.regs } = s := by
  unfold countDenied
  split <;> rfl

theorem sameRegs_countDenied (c : Cmd) (status : Nat) (s : State) :
    SameRegs [ringReg c.ring 0x2C] s (countDenied c status s) := by
  unfold countDenied
  split
  · exact sameRegs_wr _ _ s
  · exact fun _ _ => rfl

/-- What a completion does before it shows INFLIGHT and IDLE leaves the ring's registers but RING_ERRCNT alone. -/
theorem rd_countDenied_move (c : Cmd) (status : Nat) (r : Reply) (s : State) {o : Nat} (h : o ≠ 0x2C) :
    (countDenied c status (moveToReplies c r s)).rd (ringReg c.ring o) = s.rd (ringReg c.ring o) :=
  sameRegs_countDenied c status (moveToReplies c r s) _ (by simp [ringReg_ne, h])

/-- The three parts of a completion of a ring's command. -/
theorem complete_ring {c : Cmd} {status code offset value len : Nat} {result : List Byte} {s : State}
    (h : c.ring ≠ imageRing) : complete c status code offset value len result s =
      ringShow c.ring (countDenied c status
        (moveToReplies c (replyOf c status code offset value len result s) s)) := if_neg h

section
variable {c : Cmd} {status code offset value len : Nat} {result : List Byte} {s : State}

/-- Mason's state after a completion: the command has moved to the replies. -/
theorem complete_mason (h : c.ring ≠ imageRing) : (complete c status code offset value len result s).mason =
    (moveToReplies c (replyOf c status code offset value len result s) s).mason := by
  rw [complete_ring h]
  exact countDenied_mason c status _

/-- A completion changes Mason's state and registers only. -/
theorem complete_frame (h : c.ring ≠ imageRing) :
    { complete c status code offset value len result s with regs := s.regs, mason := s.mason } = s := by
  rw [complete_ring h]
  exact congrArg (fun t : State => { t with mason := s.mason }) (countDenied_frame c status
    (moveToReplies c (replyOf c status code offset value len result s) s))

/-- Of the registers a completion changes the ring's RING_STATUS and RING_ERRCNT at most. -/
theorem sameRegs_complete (h : c.ring ≠ imageRing) : SameRegs [ringReg c.ring 0x24, ringReg c.ring 0x2C] s
    (complete c status code offset value len result s) := by
  rw [complete_ring h]
  refine SameRegs.trans (t := moveToReplies c (replyOf c status code offset value len result s) s) (SameRegs.of_regs rfl) ?_
  refine ((sameRegs_countDenied c status _).mono ?_).trans ((sameRegs_ringShow c.ring _).mono ?_)
  · exact List.subset_cons_self _ _
  · simp

/-- RING_ERRCNT counts a DENIED that is not NO_REPLY (R87). -/
theorem complete_errcnt (h : c.ring ≠ imageRing) :
    (complete c status code offset value len result s).rd (ringReg c.ring 0x2C) =
      (countDenied c status s).rd (ringReg c.ring 0x2C) := by
  rw [complete_ring h, sameRegs_ringShow c.ring _ _ (by simp [ringReg_ne])]
  unfold countDenied
  split <;> rfl

end

/-- Settles O9: a completion moves the command to the replies, counts a DENIED, and shows INFLIGHT and IDLE. -/
theorem completionTouchesOnlyMason : Obligations.CompletionTouchesOnlyMason := by
  refine ⟨?_, ?_, ?_⟩
  · rintro c status code offset value len result s t h rfl
    have hm := complete_mason (status := status) (code := code) (offset := offset) (value := value) (len := len)
      (result := result) (s := s) h
    exact ⟨sameRegs_complete h, congrArg MasonState.cmds hm,
      ⟨replyOf c status code offset value len result s, congrArg MasonState.replies hm, rfl, rfl, rfl, rfl, rfl, rfl, rfl,
        rfl, rfl, rfl, rfl, rfl, rfl, rfl⟩,
      complete_frame h, congrArg (fun m : MasonState => { m with cmds := s.mason.cmds, replies := s.mason.replies }) hm⟩
  · rintro c status code offset value len i result s t h rfl
    refine ⟨?_, ?_, fun h0 hi => ?_, ?_⟩
    · rw [complete_ring h, ringShow_inflight]
      rfl
    · rw [complete_ring h, ringShow_idle]
      exact congrArg (fun w => !bitOf w 0 && _) (rd_countDenied_move c status _ s (by decide))
    · rw [complete_ring h, ringShow_bit_ne c.ring _ h0 hi]
      exact congrArg (bitOf · i) (rd_countDenied_move c status _ s (by decide))
    · rw [complete_errcnt h]
      exact apply_ite (fun u : State => u.rd (ringReg c.ring 0x2C)) _ _ _
  · rintro c status code offset value len result s h
    exact if_pos h

end Sys2Proof.Machine
end

section
namespace Sys2Proof.Machine

/-! ### Enabling a ring (R81) -/

/-- A ring of software's whose EN is 0 takes EN = 1 with a good configuration. -/
theorem ringEnable_takes {n : Nat} {s : State} (hn : n ≤ 31) (hp : ncpRing s n = false) (he : s.bit (ringReg n 0x10) 0 = false)
    (hc : ringConfigOk s n = true) : ringEnable n s = ringShow n (s.sb (ringReg n 0x10) 0 true) := by
  unfold ringEnable
  rw [if_neg (by simp [hp, he]; omega), if_pos hc]

/-- Without one it sets FAULT and raises the ring's error event. -/
theorem ringEnable_faults {n : Nat} {s : State} (hn : n ≤ 31) (hp : ncpRing s n = false) (he : s.bit (ringReg n 0x10) 0 = false)
    (hc : ringConfigOk s n = false) : ringEnable n s =
      ((s.sb (ringReg n 0x24) 1 true).sf (ringReg n 0x24) 5 4 0).notify (ringOwner s n) 1 n := by
  have ho : ringOwner ((s.sb (ringReg n 0x24) 1 true).sf (ringReg n 0x24) 5 4 0) n = ringOwner s n := by
    unfold ringOwner State.bit State.f
    rw [State.rd_sf_ne _ _ _ _ (ringReg_ne_rg n 0x24 (by decide)), State.rd_sb_ne _ _ _ (ringReg_ne_rg n 0x24 (by decide)),
      State.rd_sf_ne _ _ _ _ (ringReg_ne n (by decide)), State.rd_sb_ne _ _ _ (ringReg_ne n (by decide))]
  unfold ringEnable
  rw [if_neg (by simp [hp, he]; omega), if_neg (by simp [hc]), ← ho]

/-- A permitted write of EN = 1 enables the ring or faults it. -/
theorem execRingEnable_permitted {m n : Nat} {s : State} (hm : MayWrite s m 1 (.bit n) = true) :
    execRingEnable m n s = .next (ringEnable n s) := withWrite_ok hm

/-- The page at address `a` of master `o`'s is one it may read, or write, in system SRAM or DRAM. -/
def pageOk (s : State) (o a : Nat) (wr : Bool) : Bool :=
  match s.physByte o a wr with
  | some p => region p == .sram || region p == .dram
  | none => false

theorem pageOk_iff {s : State} {o a : Nat} {wr : Bool} :
    pageOk s o a wr = true ↔ ∃ p, s.physByte o a wr = some p ∧ (region p = .sram ∨ region p = .dram) := by
  unfold pageOk
  cases s.physByte o a wr <;> simp

/-- The four conditions of R81, page by page: the command area readable, and the reply area after it writable. -/
theorem ringConfigOk_eq (s : State) (n : Nat) : ringConfigOk s n =
    (ringOwner s n != 0 && decide (4 ≤ s.f (ringReg n 8) 3 0) && decide (s.f (ringReg n 8) 3 0 ≤ 12) &&
      (List.range (ringSlots s n * 256 / 4096)).all (fun i => pageOk s (ringOwner s n) (ringBase s n + i * 4096) false) &&
      (List.range (ringSlots s n * 256 / 4096)).all (fun i =>
        pageOk s (ringOwner s n) (ringBase s n + (ringSlots s n * 256 / 4096 + i) * 4096) true)) := rfl

/-- What is read and what is written of two areas of `k` pages, as one statement about the page and its direction. -/
theorem areasOk_iff {k : Nat} {ok : Bool → Nat → Bool} :
    ((List.range k).all (ok false) = true ∧ (List.range k).all (fun i => ok true (k + i)) = true) ↔
      ∀ i < k, ∀ w : Bool, ok w (i + if w then k else 0) = true := by
  simp only [List.all_eq_true, List.mem_range, Bool.forall_bool, if_true, Bool.false_eq_true, if_false, Nat.add_zero,
    Nat.add_comm k, forall_and]

/-- Of a ring of software's: SLOTS and the owner are those of its registers. -/
theorem ring_ofSoftware {n : Nat} {s : State} (h : n ≠ 31 ∨ s.bit (rg 1 0x20) 0 = false) :
    ringSlots s n = 2 ^ s.f (ringReg n 8) 3 0 ∧ ringOwner s n = s.f (ringReg n 0xC) 6 0 := by
  have hp : ncpRing s n = false := by rcases h with h | h <;> simp [ncpRing, h]
  have ho : ¬ (n = 31 ∧ s.bit (rg 1 0x20) 0 = true) := by rcases h with h | h <;> simp [h]
  exact ⟨by simp [ringSlots, hp], if_neg ho⟩

/-- SLOTS slots of 256 bytes are SLOTS / 16 pages. -/
theorem slots_pages (k : Nat) : k * 256 / 4096 = k / 16 := Nat.mul_div_mul_right k 16 (by decide : 0 < 256)

/-- ringConfigOk says what R81 asks for. -/
theorem ringConfigOk_iff {n : Nat} {s : State} (h : n ≠ 31 ∨ s.bit (rg 1 0x20) 0 = false) : ringConfigOk s n = true ↔
    s.f (ringReg n 0xC) 6 0 ≠ 0 ∧ 4 ≤ s.f (ringReg n 8) 3 0 ∧ s.f (ringReg n 8) 3 0 ≤ 12 ∧
      ∀ i < 2 ^ s.f (ringReg n 8) 3 0 / 16, ∀ w : Bool, ∃ p, s.physByte (s.f (ringReg n 0xC) 6 0)
        (ringBase s n + (i + if w then 2 ^ s.f (ringReg n 8) 3 0 / 16 else 0) * 4096) w = some p ∧
          (region p = .sram ∨ region p = .dram) := by
  obtain ⟨hs, ho⟩ := ring_ofSoftware h
  have ha := areasOk_iff (k := 2 ^ s.f (ringReg n 8) 3 0 / 16)
    (ok := fun w i => pageOk s (s.f (ringReg n 0xC) 6 0) (ringBase s n + i * 4096) w)
  simp only [pageOk_iff] at ha
  rw [ringConfigOk_eq, hs, ho, slots_pages]
  simp only [Bool.and_eq_true, bne_iff_ne, decide_eq_true_eq, and_assoc, ha]

/-! ### Configuration writes while EN = 1 (R81) -/

/-- The offset in CMD of register `o` of ring `n`: which ring and register it belongs to. -/
theorem ring_offset {n o : Nat} (ho : o < 0x40) :
    (0x1000 + n * 0x40 + o - 0x1000) / 0x40 = n ∧ (0x1000 + n * 0x40 + o) % 0x40 = o := by
  omega

/-- RING_BASE_LO, RING_BASE_HI and RING_CFG have no row of their own. -/
theorem rowWrite_ringConfig {m n o : Nat} {v : Word} {s : State} (ho : o ≤ 8) :
    rowWrite m 1 (0x1000 + n * 0x40 + o) v s = none := by
  obtain ⟨-, hr⟩ := ring_offset (n := n) (o := o) (by omega)
  simp only [rowWrite, hr]
  rw [if_neg (by omega), if_neg (by omega), if_neg (by omega), if_neg (by omega), if_neg (by omega), if_neg (by omega)]

/-- While EN = 1 they take no write. -/
theorem plainWrite_ringHeld {m n o : Nat} {v : Word} {d : RegDesc} {s : State} (hn : n ≤ 31) (ho : o ≤ 8)
    (he : s.bit (ringReg n 0x10) 0 = true) (hv : v &&& ~~~ BitVec.ofNat 32 d.known = 0) :
    plainWrite m 1 (0x1000 + n * 0x40 + o) v d s = .ok s := by
  obtain ⟨hq, hr⟩ := ring_offset (n := n) (o := o) (by omega)
  have hb : blockWrite m 1 (0x1000 + n * 0x40 + o) v s = some (.ok s) := by
    simp only [blockWrite, hq, hr]
    exact if_pos ⟨by omega, by omega, by simp [ringHeld, he]; omega⟩
  cases hf : regFitted s 1 (0x1000 + n * 0x40 + o)
  · exact plainWrite_unfitted hf
  · simp [plainWrite, hf, hv, hb]

/-- While EN = 1 a write of RING_BASE_LO, RING_BASE_HI or RING_CFG has no effect. -/
theorem regWrite_ringConfig_held {m n o : Nat} {v : Word} {s : State} (hm : MayWrite s m 1 (.bit n) = true) (hn : n ≤ 31)
    (ho : o ≤ 8) (he : s.bit (ringReg n 0x10) 0 = true)
    (hv : (regDesc (ringReg n o)).all (fun d => decide (v &&& ~~~ BitVec.ofNat 32 d.known = 0)) = true) :
    regWrite m 1 (0x1000 + n * 0x40 + o) v s = .next s := by
  have hk : regMask 1 (0x1000 + n * 0x40 + o) = .bit n := by
    simp only [regMask, (ring_offset (n := n) (o := o) (by omega)).1]
    exact if_pos (by omega)
  cases hd : regDesc (ringReg n o) with
  | none =>
    have hr : reachesRegs s m = true := by
      simp only [MayWrite, Bool.and_eq_true] at hm
      exact hm.1.2
    rw [regWrite_none rfl (rowWrite_ringConfig ho) hd, if_pos hr]
  | some d =>
    rw [hd, Option.all_some, decide_eq_true_eq] at hv
    rw [regWrite_plain rfl (rowWrite_ringConfig ho) hd, hk, withWrite_ok hm, plainWrite_ringHeld hn ho he hv]
    rfl

/-- While EN = 1 a write of RING_OWNER by a master with ACL_ADMIN has no effect. -/
theorem regWrite_ringOwner_held {m n : Nat} {v : Word} {s : State} (hm : MayWrite s m 1 (.bit n) = true) (hn : n ≤ 31)
    (he : s.bit (ringReg n 0x10) 0 = true) (ha : bitOf (s.aclEntry 1 m).rights 4 = true) :
    regWrite m 1 (0x1000 + n * 0x40 + 0xC) v s = .next s := by
  obtain ⟨hq, hr⟩ := ring_offset (n := n) (o := 0xC) (by decide)
  have hw : rowWrite m 1 (0x1000 + n * 0x40 + 0xC) v s = some (ringOwnerWrite m n v s) := by
    simp only [rowWrite, hq, hr]
    rw [if_neg (by omega), if_neg (by omega)]
    exact if_pos ⟨by omega, by omega, trivial⟩
  have ht : ringOwnerWrite m n v s = .next s := by
    unfold ringOwnerWrite
    rw [withWrite_ok hm]
    simp only [ha, he, Bool.true_or, if_true, Bool.true_eq_false, if_false, settle]
  unfold regWrite
  rw [if_neg (by simp), hw]
  exact ht

/-- Settles O12: EN = 1 by the configuration's checks, which are R81's, and what EN = 1 holds. -/
theorem ringEnableChecksTheConfiguration : Obligations.RingEnableChecksTheConfiguration := by
  refine ⟨?_, ?_, fun n s h => ringConfigOk_iff h, ?_⟩
  · intro m n s hm hn hp he hc
    exact (execRingEnable_permitted hm).trans (congrArg _ (ringEnable_takes hn hp he hc))
  · intro m n s hm hn hp he hc
    exact (execRingEnable_permitted hm).trans (congrArg _ (ringEnable_faults hn hp he hc))
  · rintro m n o a v s hm ⟨hn, ho⟩ hw he hv ha
    obtain ⟨hu, hi, -⟩ := mayWrite_parts hm
    simp only [List.mem_cons, List.not_mem_nil, or_false] at ho
    refine execRegisterWrite_reg hu hi hw (by decide) (by omega) (by omega) ?_
    by_cases h : o = 0xC
    · subst h
      exact regWrite_ringOwner_held hm hn he (ha rfl)
    · exact regWrite_ringConfig_held hm hn (by omega) he (hv h)

end Sys2Proof.Machine
end

section
namespace Sys2Proof.Machine

/-! ### Fetching a command (R62, R67, R74, R75, R79) -/

/-- A doorbell whose slots are all fetched is forgotten; beside that CMD_HEAD advances by one modulo SLOTS. -/
theorem advanceHead_eq (n : Nat) (s : State) : ∃ ds, advanceHead n s =
    { s.wr (ringReg n 0x18) (BitVec.ofNat 32 ((s.f (ringReg n 0x18) 11 0 + 1) % ringSlots s n)) with
      mason := { s.mason with doors := ds } } := by
  unfold advanceHead
  simp only
  split
  · split
    · exact ⟨_, rfl⟩
    · exact ⟨s.mason.doors, rfl⟩
  · exact ⟨s.mason.doors, rfl⟩

/-- CMD_HEAD has advanced, and every other register reads as before. -/
theorem advanceHead_regs (n : Nat) (s : State) :
    (advanceHead n s).rd (ringReg n 0x18) = BitVec.ofNat 32 ((s.f (ringReg n 0x18) 11 0 + 1) % ringSlots s n) ∧
      SameRegs [ringReg n 0x18] s (advanceHead n s) := by
  obtain ⟨ds, h⟩ := advanceHead_eq n s
  have hr : ∀ a, (advanceHead n s).rd a =
      (s.wr (ringReg n 0x18) (BitVec.ofNat 32 ((s.f (ringReg n 0x18) 11 0 + 1) % ringSlots s n))).rd a :=
    State.rd_of_regs (congrArg State.regs h :)
  exact ⟨(hr _).trans (State.rd_wr_same s _ _), fun a ha => (hr a).trans (sameRegs_wr _ _ s a ha)⟩

/-- A held command changes the ring's RING_STATUS at most. -/
theorem sameRegs_holdCmd (c : Cmd) (s : State) : SameRegs [ringReg c.ring 0x24] s (holdCmd c s) :=
  SameRegs.trans (t := { s with mason := { s.mason with cmds := s.mason.cmds ++ [c] } }) (SameRegs.of_regs rfl)
    (sameRegs_ringShow c.ring _)

/-- Mason notes that it served ring `n` of its priority (R79). -/
def noteServed (n : Nat) (s : State) : State :=
  { s with mason := { s.mason with served := tput 31 s.mason.served (s.f (ringReg n 8) 5 4) n } }

/-- The state after the slot at CMD_HEAD of ring `n` is fetched as command `c`. -/
def fetchedAs (n : Nat) (c : Cmd) (s : State) : State := holdCmd c (advanceHead n (noteServed n s))

/-- What a fetch leaves: the command is held last, CMD_HEAD has advanced, and beside Mason's state only CMD_HEAD and
RING_STATUS change. -/
theorem fetchedAs_spec {n : Nat} {c : Cmd} (s : State) (hc : c.ring = n) :
    (fetchedAs n c s).mason.cmds = s.mason.cmds ++ [c] ∧ (fetchedAs n c s).mason.replies = s.mason.replies ∧
      (fetchedAs n c s).rd (ringReg n 0x18) = BitVec.ofNat 32 ((s.f (ringReg n 0x18) 11 0 + 1) % ringSlots s n) ∧
      SameRegs [ringReg n 0x18, ringReg n 0x24] s (fetchedAs n c s) ∧
      { fetchedAs n c s with mason := s.mason, regs := s.regs } = s := by
  subst hc
  obtain ⟨ds, h⟩ := advanceHead_eq c.ring (noteServed c.ring s)
  obtain ⟨hh, hs⟩ := advanceHead_regs c.ring (noteServed c.ring s)
  have hk : SameRegs _ _ (fetchedAs c.ring c s) := sameRegs_holdCmd c (advanceHead c.ring (noteServed c.ring s))
  refine ⟨?_, ?_, ?_, ?_, ?_⟩
  · exact (congrArg (fun t : State => t.mason.cmds ++ [c]) h :)
  · exact (congrArg (fun t : State => t.mason.replies) h :)
  · exact (hk _ (by simp [ringReg_ne])).trans hh
  · have hn : SameRegs [ringReg c.ring 0x18] s (noteServed c.ring s) := SameRegs.of_regs rfl
    exact ((hn.trans hs).mono (by simp)).trans (hk.mono (by simp))
  · exact (congrArg (fun t : State => { t with mason := s.mason, regs := s.regs }) h :)

/-- A fetch does not hand ring 31 to the network command port, or from it. -/
theorem ncpRing_fetchedAs {n : Nat} {c : Cmd} (s : State) (hc : c.ring = n) : ncpRing (fetchedAs n c s) n = ncpRing s n := by
  obtain ⟨-, -, -, hr, -⟩ := fetchedAs_spec s hc
  have h : (fetchedAs n c s).rd (rg 1 0x20) = s.rd (rg 1 0x20) := by
    refine hr _ ?_
    simp only [List.mem_cons, List.not_mem_nil, or_false, not_or]
    exact ⟨(ringReg_ne_rg n _ (by decide)).symm, (ringReg_ne_rg n _ (by decide)).symm⟩
  simp only [ncpRing, State.bit, h]

/-- A slot of software's ring that its owner may read is fetched, and completes at once where R67 steps 1–4 fail it. -/
theorem fetchFrom_slot {lookup : Nat → Option OpSpec} {n : Nat} {c : Cmd} {raw : List Byte} {s : State}
    (hp : ncpRing s n = false)
    (hb : s.badByte (ringOwner s n) (ringBase s n + s.f (ringReg n 0x18) 11 0 * 256) 256 false = none)
    (hraw : raw = s.dmaBytes (ringOwner s n) (ringBase s n + s.f (ringReg n 0x18) 11 0 * 256) 256)
    (hc : c = parseSlot n (s.f (ringReg n 0x18) 11 0) (ringOwner s n) (doorOf s n) raw) :
    fetchFrom lookup n s = (slotCheck false (lookup c.opcode) raw).elim (fetchedAs n c s)
      (fun f => completeFail c f (fetchedAs n c s)) := by
  have hring : c.ring = n := by rw [hc]; rfl
  have hq : ncpRing (fetchedAs n c s) n = false := (ncpRing_fetchedAs s hring).trans hp
  unfold fetchFrom
  simp only [hp, hb, Bool.false_eq_true, if_false, ← hraw, ← hc]
  change (match slotCheck (ncpRing (fetchedAs n c s) n) (lookup c.opcode) raw with
    | some f => completeFail c f (fetchedAs n c s)
    | none => fetchedAs n c s) = _
  rw [hq]
  cases slotCheck false (lookup c.opcode) raw <;> rfl

/-- Mason fetches from the ring its arbitration picks (R79). -/
theorem execCommandFetch_picked {n : Nat} {s : State} (hu : s.up = true) (ho : poweringOff s = false)
    (hn : pickRing s = some n) : execCommandFetch s = .next (fetchFrom opLookup n s) := by
  simp only [execCommandFetch, act, hu, ho, hn, if_true, Bool.false_eq_true, if_false]

/-! ### Waits that end (R71, R76) -/

/-- A command whose pair stays busy ends with TIMEOUT and no effect (R71). -/
theorem execCommandTimeout_waiting {ring slot : Nat} {c : Cmd} {s : State} (hu : s.up = true)
    (hc : s.mason.cmds.find? (fun c => c.ring == ring && c.slot == slot && !c.running && pairBusy c s) = some c) :
    execCommandTimeout ring slot s = .next (completeFail c ⟨stTimeout, 0x17, noOffset, s.f (rg 1 8) 19 0⟩ s) := by
  simp only [execCommandTimeout, act, hu, hc, if_true]

/-- The oldest unannounced reply at COAL_TIME raises the completion event (R76). -/
theorem execCompletionEventTimer_due {n : Nat} {s : State} (hu : s.up = true)
    (h : s.f (ringReg n 0x28) 7 0 ≠ 0 ∧ s.f (ringReg n 0x28) 23 8 ≠ 0 ∧ tget 0 s.mason.unannounced n ≠ 0) :
    execCompletionEventTimer n s = .next (State.notify
      { s with mason := { s.mason with unannounced := tput 0 s.mason.unannounced n 0 } } (ringOwner s n) 0 n) := by
  refine (if_pos hu).trans (congrArg _ ?_)
  exact if_pos h

/-- Settles O14: a fetch holds the slot's command, which its slot check may end; the two timers act once. -/
theorem commandsAreFetchedAndTimeOut : Obligations.CommandsAreFetchedAndTimeOut := by
  refine ⟨?_, ?_, ?_, ?_⟩
  · intro n c s hu ho hn hp hb hc hk
    refine ⟨fetchedAs n c s, (execCommandFetch_picked hu ho hn).trans ?_, fetchedAs_spec s (by rw [hc]; rfl)⟩
    rw [fetchFrom_slot hp hb rfl hc, hk]
    rfl
  · intro n c f s hu ho hn hp hb hc hk
    refine ⟨fetchedAs n c s, (execCommandFetch_picked hu ho hn).trans ?_, fetchedAs_spec s (by rw [hc]; rfl)⟩
    rw [fetchFrom_slot hp hb rfl hc, hk]
    rfl
  · intro ring slot c s hu hc
    exact execCommandTimeout_waiting hu hc
  · intro n s hu h
    exact execCompletionEventTimer_due hu h

end Sys2Proof.Machine
end

section
namespace Sys2Proof.Machine

/-! ### Replies (R65, R76, R77, R78) -/

/-- The oldest waiting reply of a ring of software's is written. -/
theorem execCommandReply_oldest {r : Reply} {rest : List Reply} {s : State} (hu : s.up = true)
    (hr : s.mason.replies = r :: rest) (hn : ¬ (r.ring = 31 ∧ r.issuer = 0x20)) :
    execCommandReply s = .next (writeReply r { s with mason := { s.mason with replies := rest } }) := by
  simp only [execCommandReply, act, hu, hr, hn, if_true, if_false]

/-- A reply goes to the slot at RSP_TAIL where its issuer may write that (R76). -/
theorem writeReply_slot {r : Reply} {s : State} (hq : r.noReply = false)
    (hb : s.badByte r.issuer (ringBase s r.ring + (ringSlots s r.ring + s.f (ringReg r.ring 0x1C) 11 0) * 256) 256 true = none) :
    writeReply r s = announce r.ring (s.dmaPut r.issuer
      (ringBase s r.ring + (ringSlots s r.ring + s.f (ringReg r.ring 0x1C) 11 0) * 256) (replyBytes r)) := by
  simp only [writeReply, hq, hb, Bool.false_eq_true, if_false]

/-- A failure with NO_REPLY is counted in QUIET_FAIL and raises the ring's error event (R78). -/
theorem writeReply_quietFailure {r : Reply} {s : State} (hq : r.noReply = true) (hs : r.status ≠ 0) :
    writeReply r s = (s.cntF (ringReg r.ring 0x2C) 15 0 1).notify (ringOwner s r.ring) 1 r.ring := by
  unfold writeReply
  rw [if_pos hq, if_neg hs]

/-- A success with NO_REPLY leaves nothing (R78). -/
theorem writeReply_quietSuccess {r : Reply} {s : State} (hq : r.noReply = true) (hs : r.status = 0) : writeReply r s = s := by
  unfold writeReply
  rw [if_pos hq, if_pos hs]

/-- An event of a function changes no register. -/
theorem fnEvent_regs (s : State) (f src : Nat) : (s.fnEvent f src).regs = s.regs := by
  unfold State.fnEvent
  simp only
  split <;> rfl

/-- Delivering an event leaves the registers of CMD's rings alone: to a domain it sets a bit of LSC's. -/
theorem rd_notify_rspTail (s : State) (owner kind idx n : Nat) :
    (s.notify owner kind idx).rd (ringReg n 0x1C) = s.rd (ringReg n 0x1C) := by
  unfold State.notify
  split
  · refine State.rd_sb_ne _ _ _ ?_
    simp only [ringReg, rg_eq]
    omega
  · split
    · exact State.rd_of_regs (fnEvent_regs s _ _) _
    · split <;> rfl

/-- A reply advances RSP_TAIL by one modulo SLOTS (R76). -/
theorem announce_rspTail (n : Nat) (s : State) : (announce n s).rd (ringReg n 0x1C) =
    BitVec.ofNat 32 ((s.f (ringReg n 0x1C) 11 0 + 1) % ringSlots s n) := by
  unfold announce
  simp only
  split
  · rw [rd_notify_rspTail]
    exact State.rd_wr_same s _ _
  · exact State.rd_wr_same s _ _

/-- With COAL_COUNT 0 a reply raises no event. -/
theorem announce_quiet {n : Nat} {s : State} (h : s.f (ringReg n 0x28) 7 0 = 0) :
    SameRegs [ringReg n 0x1C] s (announce n s) ∧ (announce n s).notices = s.notices := by
  unfold announce
  simp only [h, Nat.lt_irrefl, decide_false, Bool.false_and, Bool.false_eq_true, if_false]
  exact ⟨sameRegs_wr (ringReg n 0x1C) _ s, rfl⟩

/-- Bits 11:0 of a number as a word. -/
theorem fld_ofNat_low (k : Nat) : fld (BitVec.ofNat 32 k) 11 0 = k % 4096 := by
  simp only [fld, BitVec.toNat_ofNat, Nat.shiftRight_zero]
  omega

/-- Settles O15: the oldest reply goes to the slot at RSP_TAIL, which advances. -/
theorem repliesAreWrittenInOrder : Obligations.RepliesAreWrittenInOrder := by
  refine ⟨?_, ?_⟩
  · intro r rest s hu hr hn hq hb
    exact (execCommandReply_oldest hu hr hn).trans (congrArg _ (writeReply_slot hq hb))
  · intro n s
    refine ⟨?_, announce_quiet⟩
    rw [State.f, announce_rspTail, fld_ofNat_low]

/-- Settles O16: a reply with NO_REPLY is taken from the list, and of it only a failure is counted and announced. -/
theorem quietFailuresAreOnlyCounted : Obligations.QuietFailuresAreOnlyCounted := by
  refine ⟨?_, ?_⟩
  · rintro r rest s hu hr hn ⟨hq, hs⟩
    exact (execCommandReply_oldest hu hr hn).trans (congrArg _ (writeReply_quietFailure hq hs))
  · rintro r rest s hu hr hn ⟨hq, hs⟩
    exact (execCommandReply_oldest hu hr hn).trans (congrArg _ (writeReply_quietSuccess hq hs))

end Sys2Proof.Machine
end

section
namespace Sys2Proof.Machine

/-! ### The network command port (R94–R96, R98) -/

/-- A permitted write of NCP_CTRL without reserved bits. -/
theorem execNcpCtrlWrite_permitted {m : Nat} {v : Word} {s : State} (hm : MayWrite s m 1 .full = true)
    (hv : v &&& ~~~ 0x3FF1#32 = 0) : execNcpCtrlWrite m v s =
      .next (if bitOf v 0 && !ncpKeyOk s (fld v 13 4) then ncpRefused s else ncpTakes (bitOf v 0) v s) := by
  unfold execNcpCtrlWrite
  rw [withWrite_ok hm]
  unfold ncpCtrl
  rw [if_neg (not_not_intro hv)]
  split <;> rfl

/-- Where it asks for EN = 1, the word names a suitable key slot. -/
theorem execNcpCtrlWrite_suitable {m : Nat} {v : Word} {s : State} (hm : MayWrite s m 1 .full = true)
    (hv : v &&& ~~~ 0x3FF1#32 = 0) (hk : bitOf v 0 = true → ncpKeyOk s (fld v 13 4) = true) :
    execNcpCtrlWrite m v s = .next (ncpTakes (bitOf v 0) v s) := by
  have h : (bitOf v 0 && !ncpKeyOk s (fld v 13 4)) = false := by
    cases hb : bitOf v 0
    · rfl
    · simp [hk hb]
  rw [execNcpCtrlWrite_permitted hm hv, h]
  rfl

/-- It asks for EN = 1 and names none. -/
theorem execNcpCtrlWrite_unsuitable {m : Nat} {v : Word} {s : State} (hm : MayWrite s m 1 .full = true)
    (hv : v &&& ~~~ 0x3FF1#32 = 0) (hk : bitOf v 0 = true ∧ ncpKeyOk s (fld v 13 4) = false) :
    execNcpCtrlWrite m v s = .next (ncpRefused s) := by
  rw [execNcpCtrlWrite_permitted hm hv, hk.1, hk.2]
  rfl

/-- A word that leaves EN as it is only takes effect (R98). -/
theorem ncpTakes_same {on : Bool} {v : Word} {s : State} (h : on = s.bit (rg 1 0x20) 0) : ncpTakes on v s =
    { (s.wr (rg 1 0x20) v).wr (rg 1 0x28) 0 with mason := { s.mason with seqEnd := false } } := by
  have hs : (if on = s.bit (ncpReg 0x20) 0 then s else ncpHandover s) = s := if_pos h
  unfold ncpTakes
  rw [hs]
  rfl

/-- Ring 31 changes hands: it is stopped, its indices are zero, and no frame's slot is left. -/
theorem ncpHandover_eq {s t : State} (ht : t = ringZero 31 (stopRing 31 s)) :
    ncpHandover s = { t with mason := { t.mason with ncp := [] } } := by
  subst ht
  rfl

/-- One that changes EN takes effect after ring 31 has changed hands. -/
theorem ncpTakes_changed {on : Bool} {v : Word} {s t : State} (h : on ≠ s.bit (rg 1 0x20) 0)
    (ht : t = ringZero 31 (stopRing 31 s)) : ncpTakes on v s =
      { (t.wr (rg 1 0x20) v).wr (rg 1 0x28) 0 with mason := { t.mason with ncp := [], seqEnd := false } } := by
  have hs : (if on = s.bit (ncpReg 0x20) 0 then s else ncpHandover s) = ncpHandover s := if_neg h
  unfold ncpTakes
  rw [hs, ncpHandover_eq ht]
  rfl

/-- An unsuitable slot leaves the disabled port as it is. -/
theorem ncpRefused_disabled {s : State} (h : s.bit (rg 1 0x20) 0 = false) : ncpRefused s = s :=
  if_neg (ne_true_of_eq_false h)

/-- It ends the enabled port's hold of ring 31. -/
theorem ncpRefused_enabled {s t : State} (h : s.bit (rg 1 0x20) 0 = true) (ht : t = ringZero 31 (stopRing 31 s)) :
    ncpRefused s = State.sb { t with mason := { t.mason with ncp := [] } } (rg 1 0x20) 0 false := by
  rw [← ncpHandover_eq ht]
  exact if_pos h

/-- The state without the oldest frame delivered at port IM. -/
def imRxRest (rest : List (List Byte × Nat × Nat)) (s : State) : State :=
  { s with mason := { s.mason with imRx := rest } }

/-- The oldest frame at port IM: passed over, left to wait, or judged. -/
theorem execNcpCommandFrame_oldest {bs : List Byte} {vid pcp : Nat} {rest : List (List Byte × Nat × Nat)} {s : State}
    (hu : s.up = true) (hr : s.mason.imRx = (bs, vid, pcp) :: rest) : execNcpCommandFrame s =
      .next (if s.bit (rg 1 0x20) 0 = false ∨ (etherBody bs).1 ≠ s.f (rg 1 0x24) 15 0 then imRxRest rest s
        else if ncpRoom s then ncpTake bs vid pcp (imRxRest rest s) else s) := by
  simp only [execNcpCommandFrame, act, hu, hr, if_true]
  rfl

/-- A frame for the enabled port is judged where ring 31 has room. -/
theorem execNcpCommandFrame_judged {bs : List Byte} {vid pcp : Nat} {rest : List (List Byte × Nat × Nat)} {s : State}
    (hu : s.up = true) (hr : s.mason.imRx = (bs, vid, pcp) :: rest)
    (he : s.bit (rg 1 0x20) 0 = true ∧ (etherBody bs).1 = s.f (rg 1 0x24) 15 0) (hroom : ncpRoom s = true) :
    execNcpCommandFrame s = .next (ncpTake bs vid pcp (imRxRest rest s)) := by
  rw [execNcpCommandFrame_oldest hu hr, if_neg (by simp [he.1, he.2]), if_pos hroom]

/-- A frame of the wrong form is counted in NCP_DROP (R96). -/
theorem ncpTake_malformed {bs : List Byte} {vid pcp : Nat} {s : State} (hf : ncpForm s (etherBody bs).2 = false) :
    ncpTake bs vid pcp s = s.cnt (rg 1 0x2C) 1 := by
  simp only [ncpTake, hf, Bool.false_eq_true, if_false, Bool.false_and]
  rfl

/-- One whose key may not be used, or that is not authentic, is counted there after the use (R96, R395). -/
theorem ncpTake_unauthentic {bs : List Byte} {vid pcp : Nat} {s t : State} {ok : Bool}
    (hf : ncpForm s (etherBody bs).2 = true) (hk : useKey (ncpSlot s) s = (ok, t))
    (ha : ok = false ∨ ncpAuthentic s (etherBody bs).2 = false) : ncpTake bs vid pcp s = t.cnt (rg 1 0x2C) 1 := by
  have h : (ok && ncpAuthentic s (etherBody bs).2) = false := by rcases ha with h | h <;> simp [h]
  simp only [ncpTake, hf, hk, h, if_true, Bool.false_eq_true, if_false]
  rfl

/-- The state after the frame `bs` is placed as the next command of ring 31. -/
def ncpPlaced (bs : List Byte) (vid pcp k seq : Nat) (t : State) : State :=
  { (t.wr (rg 1 0x28) (BitVec.ofNat 32 seq)).sf (ringReg 31 0x14) 11 0 ((k + 1) % 16) with
    mason := { t.mason with
      ncp := t.mason.ncp ++ [{ slot := k, bytes := slice (etherBody bs).2 8 (32 + leAt (etherBody bs).2 14 2), seq := seq,
                               da := slice bs 0 6, sa := slice bs 6 6, vid := vid, pcp := pcp, key := ncpSlot t,
                               gen := (keySlot t (ncpSlot t)).gen, door := t.mason.doorCount }]
      doors := t.mason.doors ++ [⟨31, t.mason.doorCount, (k + 1) % 16, 0x20⟩]
      doorCount := t.mason.doorCount + 1
      seqEnd := t.mason.seqEnd || seq == 0xFFFFFFFF } }

/-- One that passes every check is placed (R96). -/
theorem ncpTake_authentic {bs : List Byte} {vid pcp : Nat} {s t : State} (hf : ncpForm s (etherBody bs).2 = true)
    (ha : ncpAuthentic s (etherBody bs).2 = true) (hk : useKey (ncpSlot s) s = (true, t)) :
    ncpTake bs vid pcp s =
      ncpPlaced bs vid pcp (t.f (ringReg 31 0x14) 11 0) (beAt (etherBody bs).2 4 4) t := by
  simp only [ncpTake, hf, hk, ha, if_true, Bool.and_self]
  rfl

/-- Settles O17: NCP_CTRL by the key slot it names and whether EN changes; a frame by the checks in their order. -/
theorem networkCommandPort : Obligations.NetworkCommandPort := by
  refine ⟨?_, ?_, ?_, ?_, ?_, ?_, ?_, ?_, ?_⟩
  · intro m v s hm hv hk he
    exact (execNcpCtrlWrite_suitable hm hv hk).trans (congrArg _ (ncpTakes_same he))
  · intro m v s t hm hv hk he ht
    exact (execNcpCtrlWrite_suitable hm hv hk).trans (congrArg _ (ncpTakes_changed he ht))
  · intro m v s hm hv hk he
    exact (execNcpCtrlWrite_unsuitable hm hv hk).trans (congrArg _ (ncpRefused_disabled he))
  · intro m v s t hm hv hk he ht
    exact (execNcpCtrlWrite_unsuitable hm hv hk).trans (congrArg _ (ncpRefused_enabled he ht))
  · intro bs vid pcp rest s hu hr h
    exact (execNcpCommandFrame_oldest hu hr).trans (congrArg _ (if_pos h))
  · intro bs vid pcp rest s hu hr he hroom
    refine (execNcpCommandFrame_oldest hu hr).trans ?_
    rw [if_neg (by simp [he.1, he.2]), if_neg (by simp [hroom])]
  · intro bs vid pcp rest s hu hr he hroom hf
    exact (execNcpCommandFrame_judged hu hr he hroom).trans (congrArg _ (ncpTake_malformed hf))
  · intro bs vid pcp rest s t ok hu hr he hroom hf hk ha
    exact (execNcpCommandFrame_judged hu hr he hroom).trans (congrArg _ (ncpTake_unauthentic hf hk ha))
  · rintro bs vid pcp rest s t k seq hu hr he hroom ⟨hf, ha⟩ hk ⟨rfl, rfl⟩
    exact (execNcpCommandFrame_judged hu hr he hroom).trans (congrArg _ (ncpTake_authentic hf ha hk))

end Sys2Proof.Machine
end

section
namespace Sys2Proof.Machine

/-! ### ACL opcodes (R85, R89–R92, R588)

`<eff>_ok` says what an opcode's execution answers where the payload has the form that its checks ask for. -/

/-- An issuer with ACL_ADMIN that names a master, and a lock that does not stand in the way, pass the checks common to the
ACL opcodes. -/
theorem aclCheck_ok {locks : Bool} {c : Cmd} {s : State} {k : CmdOut} (ha : isAdmin s c.issuer c.inst = true)
    (hl : locks = true → aclLocked s c.inst = false) (hp : c.p 32 1 ≤ 0x7F) : aclCheck locks c s k = k := by
  have h : (locks && aclLocked s c.inst) = false := by
    cases locks
    · rfl
    · simp [hl rfl]
  unfold aclCheck
  rw [if_neg (by simp [ha]), if_neg (by simp [h]), if_neg (by omega)]

theorem effAclSetEntry_ok {c : Cmd} {s : State} (ha : isAdmin s c.issuer c.inst = true) (hl : aclLocked s c.inst = false)
    (hp : 2 ≤ c.p 32 1 ∧ c.p 32 1 ≤ 0x7F) (hz : c.zero 33 3 = true) (hr : fld (c.w 36) 31 5 = 0) :
    effAclSetEntry c s = .ok (s.setEntry c.inst (c.p 32 1) ⟨c.w 36, BitVec.ofNat 64 (c.p 40 8)⟩) [] 0 := by
  unfold effAclSetEntry
  rw [aclCheck_ok ha (fun _ => hl) hp.2, if_neg (by simp [hz]), if_neg (by omega), if_neg (by simp [hr])]
  rfl

theorem effAclGetEntry_ok {c : Cmd} {s : State} (ha : isAdmin s c.issuer c.inst = true) (hp : c.p 32 1 ≤ 0x7F)
    (hz : c.zero 33 3 = true) : effAclGetEntry c s = .ok s (leBytes 4 (s.aclEntry c.inst (c.p 32 1)).rights.toNat ++
      leBytes 8 (s.aclEntry c.inst (c.p 32 1)).mask.toNat) 0 := by
  unfold effAclGetEntry
  rw [aclCheck_ok (locks := false) ha (by simp) hp, if_neg (by simp [hz])]
  rfl

theorem effAclLock_ok {c : Cmd} {s : State} (ha : isAdmin s c.issuer c.inst = true) :
    effAclLock c s = .ok (s.sb (rg 2 0) c.inst true) [] 0 := if_neg (by simp [ha])

theorem effAclSetWindow_ok {c : Cmd} {s : State} (ha : isAdmin s c.issuer c.inst = true) (hl : aclLocked s c.inst = false)
    (hp : c.p 32 1 ≤ 0x7F ∧ c.p 33 1 ≤ 7) (hz : c.zero 34 2 = true) (hb : c.p 36 8 % 4096 = 0 ∧ c.p 36 8 < 2 ^ 40)
    (hs : c.p 44 4 < 2 ^ 28 ∧ c.p 36 8 + c.p 44 4 * 4096 ≤ 2 ^ 40) (hx : c.p 48 4 < 4) :
    effAclSetWindow c s = .ok (s.setWindow (c.p 32 1) (c.p 33 1) ⟨BitVec.ofNat 40 (c.p 36 8), BitVec.ofNat 28 (c.p 44 4),
      (c.p 48 4).testBit 0, (c.p 48 4).testBit 1⟩) [] 0 := by
  unfold effAclSetWindow
  rw [aclCheck_ok ha (fun _ => hl) hp.1]
  simp only
  rw [if_neg (by omega), if_neg (by simp [hz]), if_neg (by omega), if_neg (by omega), if_neg (by omega)]
  rfl

theorem effAclGetWindow_ok {c : Cmd} {s : State} (ha : isAdmin s c.issuer c.inst = true)
    (hp : c.p 32 1 ≤ 0x7F ∧ c.p 33 1 ≤ 7) (hz : c.zero 34 2 = true) :
    effAclGetWindow c s = .ok s (leBytes 8 (s.window (c.p 32 1) (c.p 33 1)).base.toNat ++
      leBytes 4 (s.window (c.p 32 1) (c.p 33 1)).size.toNat ++
      leBytes 4 (b2n (s.window (c.p 32 1) (c.p 33 1)).read + 2 * b2n (s.window (c.p 32 1) (c.p 33 1)).write)) 0 := by
  unfold effAclGetWindow
  rw [aclCheck_ok (locks := false) ha (by simp) hp.1, if_neg (by omega), if_neg (by simp [hz])]
  rfl

/-- Settles O18: each opcode's execution passes its checks and answers OK with the entry, window or lock. -/
theorem aclCommandsAct : Obligations.AclCommandsAct := by
  refine ⟨?_, ?_, ?_, ?_, ?_⟩
  · intro ring slot c s0 s h ha hl hp hz hr
    exact opRow_ok h (effAclSetEntry_ok ha hl hp hz hr) (by decide) (by simp)
  · intro ring slot c s0 s h ha hp hz
    exact opRow_ok h (effAclGetEntry_ok ha hp hz) (by decide) (by simp)
  · intro ring slot c s0 s h ha
    exact opRow_ok h (effAclLock_ok ha) (by decide) (by simp)
  · intro ring slot c s0 s h ha hl hp hz hb hs hx
    exact opRow_ok h (effAclSetWindow_ok ha hl hp hz hb hs hx) (by decide) (by simp)
  · intro ring slot c s0 s h ha hp hz
    exact opRow_ok h (effAclGetWindow_ok ha hp hz) (by decide) (by simp)

end Sys2Proof.Machine
end

section
namespace Sys2Proof.Machine

/-! ### Counters that a read clears -/

/-- What a register run reads does not depend on a register outside it. -/
theorem readRegs_wr_ne {l : List Nat} {a : Nat} (v : Word) (s : State) (h : a ∉ l) : readRegs l (s.wr a v) = readRegs l s :=
  List.flatMap_congr fun b hb => by rw [State.rd_wr_ne s v (ne_of_mem_of_not_mem hb h).symm]

/-- Reading and clearing counters changes no other register. -/
theorem sameRegs_takeCounters (l : List Nat) (s : State) : SameRegs l s (takeCounters l s).2 := by
  induction l generalizing s with
  | nil => exact fun _ _ => rfl
  | cons a r ih =>
    exact ((sameRegs_wr a 0 s).mono (by simp)).trans ((ih (s.wr a 0)).mono (List.subset_cons_self a r))

/-- Each counter reads zero afterwards. -/
theorem takeCounters_clears {l : List Nat} {s : State} {a : Nat} (h : l.Nodup) (ha : a ∈ l) :
    (takeCounters l s).2.rd a = 0 := by
  induction l generalizing s with
  | nil => cases ha
  | cons b r ih =>
    obtain ⟨hb, hr⟩ := List.nodup_cons.mp h
    rcases List.mem_cons.mp ha with rfl | hm
    · exact (sameRegs_takeCounters r (s.wr a 0) a hb).trans (State.rd_wr_same s a 0)
    · exact ih hr hm

/-- Of different counters the bytes returned are what the registers held. -/
theorem takeCounters_reads {l : List Nat} {s : State} (h : l.Nodup) : (takeCounters l s).1 = readRegs l s := by
  induction l generalizing s with
  | nil => rfl
  | cons a r ih =>
    obtain ⟨ha, hr⟩ := List.nodup_cons.mp h
    exact congrArg (leBytes 4 (s.rd a).toNat ++ ·) ((ih hr).trans (readRegs_wr_ne 0 s ha))

/-! ### PRS opcodes (R64, R197, R199–R202)

`<eff>_ok` says what an opcode's execution answers where the payload has the form that its checks ask for. -/

/-- A range of instructions inside a bank. -/
theorem progRange_inside {start count : Nat} (h : 1 ≤ count ∧ start + count ≤ 8192) : progRange start count = false := by
  simp only [progRange, Bool.or_eq_false_iff, beq_eq_false_iff_ne, decide_eq_false_iff_not]
  omega

/-- A bank that is neither active nor busy is not held. -/
theorem bankHeld_free {s : State} {b : Nat} {k : CmdOut} (h : activeBank s ≠ some b ∧ bankBusy s b = false) :
    bankHeld s b k = k := by
  unfold bankHeld
  rw [if_neg h.1, if_neg (by simp [h.2])]

theorem effPrsProgLoad_ok {c : Cmd} {s : State}
    (hp : 1 ≤ c.p 36 4 ∧ c.p 32 4 + c.p 36 4 ≤ 8192 ∧ c.len = 8 + 4 * c.p 36 4)
    (hb : activeBank s ≠ some c.inst ∧ bankBusy s c.inst = false) :
    effPrsProgLoad c s = .ok (putWords (c.inst * 8192 + c.p 32 4)
      ((List.range (c.p 36 4)).map (fun i => c.w (40 + 4 * i))) s) [] 0 := by
  obtain ⟨h1, h2, hl⟩ := hp
  unfold effPrsProgLoad
  simp only
  rw [progRange_inside ⟨h1, h2⟩, if_neg Bool.false_ne_true, if_neg (by omega), bankHeld_free hb]
  rfl

/-- The state after PROG_STATUS shows bank `b` active with entry point `e`. -/
def bankActivated (b e : Nat) (s : State) : State := ((s.sb (rg 5 4) 0 true).sf (rg 5 4) 1 1 b).sf (rg 5 4) 28 16 e

theorem effPrsProgActivate_ok {c : Cmd} {s : State} (hp : c.p 32 4 ≤ 8191)
    (hb : activeBank s ≠ some c.inst ∧ bankBusy s c.inst = false) (hc : bankCrc s c.inst = c.w 36) :
    effPrsProgActivate c s = .ok (if (activeBank s).any (fun b => !bankRuns s b) then
      (bankActivated c.inst (c.p 32 4) s).raise 5 4 else showBanks (bankActivated c.inst (c.p 32 4) s)) [] 0 := by
  unfold effPrsProgActivate
  rw [if_neg (by omega), bankHeld_free hb]
  simp only
  rw [if_neg (by simp [hc])]
  cases activeBank s <;> rfl

theorem effPrsProgRead_ok {c : Cmd} {s : State} (hp : 1 ≤ c.p 36 4 ∧ c.p 32 4 + c.p 36 4 ≤ 8192) :
    effPrsProgRead c s = .ok s ((List.range (c.p 36 4)).flatMap
      (fun i => leBytes 4 (instrWord s c.inst (c.p 32 4 + i)).toNat)) 0 := by
  unfold effPrsProgRead
  simp only
  rw [progRange_inside hp]
  rfl

theorem effPrsSetCfg_ok {c : Cmd} {s : State} (hp : c.p 32 4 < 4) :
    effPrsSetCfg c s = .ok (s.wr (rg 5 8) (c.w 32)) [] 0 := if_neg (by omega)

/-- Settles O30: each opcode's execution passes its checks and answers OK; counters are read and cleared one by one. -/
theorem parseEngineOpcodes : Obligations.ParseEngineOpcodes := by
  refine ⟨?_, ?_, ?_, ?_, ?_, ?_⟩
  · intro ring slot c s0 s h hp hb
    exact opRow_ok h (effPrsProgLoad_ok hp hb) (by decide) (by simp)
  · intro ring slot c s0 s h hp hb hc
    exact opRow_ok h (effPrsProgActivate_ok hp hb hc) (by decide) (by simp)
  · intro ring slot c s0 s h hp
    refine (opRow_admits h).trans ?_
    rw [effPrsProgRead_ok hp]
  · intro ring slot c s0 s h hp
    exact opRow_ok h (effPrsSetCfg_ok hp) (by decide) (by simp)
  · intro ring slot c s0 s h
    exact opRow_ok h rfl (by decide) (by simp)
  · intro l s h
    exact ⟨takeCounters_reads h, fun a ha => takeCounters_clears h ha, sameRegs_takeCounters l s⟩

end Sys2Proof.Machine
end

section
namespace Sys2Proof.Machine

/-! ### What a tick leaves of the time base and of SYS (R24, R99, R100) -/

/-- A field of the state that each round of a fold leaves alone is left alone by the fold. -/
theorem foldl_same {α β : Type} {f : State → α → State} (g : State → β) (h : ∀ s x, g (f s x) = g s) (l : List α)
    (s : State) : g (l.foldl f s) = g s := by
  induction l generalizing s with
  | nil => rfl
  | cons x r ih => exact (ih (f s x)).trans (h s x)

/-- The time base and SYS of a state: all that the counter's advance reads and all that decides on it. -/
def timSys (s : State) : TimState × SysState := (s.tim, s.sys)

theorem timSys_keyTick (s : State) : timSys (keyTick s) = timSys s := by
  unfold keyTick
  dsimp only
  split <;> rfl

theorem timSys_clockTick (s : State) : timSys (clockTick s) = timSys s := by
  unfold clockTick
  split <;> rfl

theorem timSys_liveFlag (c i : Nat) (v : Bool) (s : State) : timSys (liveFlag c i v s) = timSys s := by
  cases v <;> rfl

theorem timSys_sampleCurrents (s : State) : timSys (sampleCurrents s) = timSys s := by
  unfold sampleCurrents
  dsimp only
  split
  · rfl
  · exact foldl_same timSys (fun t c => (timSys_liveFlag c 1 _ _).trans (timSys_liveFlag c 0 _ t)) _ _

theorem timSys_sampleRails (s : State) : timSys (sampleRails s) = timSys s := by
  unfold sampleRails
  dsimp only
  split
  · rfl
  · refine (foldl_same timSys ?_ _ _).trans rfl
    exact fun _ _ => rfl

theorem timSys_samplePodl (s : State) : timSys (samplePodl s) = timSys s := by
  unfold samplePodl
  dsimp only
  split
  · rfl
  · refine (foldl_same timSys ?_ _ _).trans rfl
    exact fun _ _ => rfl

theorem timSys_clusterTick (s : State) : timSys (clusterTick s) = timSys s := rfl

theorem timSys_gwyWord (n : Nat) (w : SWord) (s : State) : timSys (gwyWord n w s) = timSys s := by
  unfold gwyWord
  dsimp only
  split
  · rfl
  · split <;> rfl

theorem timSys_hwTake (n : Nat) (s : State) : timSys (hwTake n s) = timSys s := by
  unfold hwTake
  dsimp only
  split
  · refine (timSys_gwyWord n _ _).trans ?_
    unfold sprParity
    split <;> rfl
  · rfl

theorem timSys_hwCycle (n : Nat) (s : State) : timSys (hwCycle n s) = timSys s := by
  have ht : timSys (if s.gwy.stopped then s else hwTake n s) = timSys s := by
    split
    · rfl
    · exact timSys_hwTake n s
  unfold hwCycle
  dsimp only
  split <;> exact ht

theorem timSys_sprueCycle (s : State) : timSys (sprueCycle s) = timSys s := by
  unfold sprueCycle
  dsimp only
  refine (foldl_same timSys ?_ _ _).trans (foldl_same timSys (fun t n => timSys_hwCycle n t) _ _)
  exact fun _ _ => rfl

theorem timSys_setGwy (g : GwyState) (s : State) : timSys { s with gwy := g } = timSys s := rfl

theorem timSys_sprueTick (s : State) : timSys (sprueTick s) = timSys s := by
  unfold sprueTick
  dsimp only
  rw [timSys_setGwy, timSys_sprueCycle, timSys_sprueCycle]

/-- The state whose counter a tick advances: one more TCLK tick has passed, with what is sampled at it. -/
def beforeCount (s : State) : State :=
  let s := clockTick (keyTick { s with sys := { s.sys with ticks := s.sys.ticks + 1 } })
  let s := if s.sys.phase = .off then s else samplePodl (sampleRails (sampleCurrents s))
  if s.up then clusterTick s else s

theorem timSys_beforeCount (s : State) :
    timSys (beforeCount s) = (s.tim, { s.sys with ticks := s.sys.ticks + 1 }) := by
  have hk := (timSys_clockTick _).trans (timSys_keyTick { s with sys := { s.sys with ticks := s.sys.ticks + 1 } })
  have hs : ∀ t : State, timSys (if t.sys.phase = .off then t else samplePodl (sampleRails (sampleCurrents t))) =
      timSys t := by
    intro t
    split
    · rfl
    · exact (timSys_samplePodl _).trans ((timSys_sampleRails _).trans (timSys_sampleCurrents t))
  have hc : ∀ t : State, timSys (if t.up then clusterTick t else t) = timSys t := by
    intro t
    split <;> rfl
  exact (hc _).trans ((hs _).trans hk)

/-- A tick from a clocked state: the counter advances, HOLDOVER_MS and the sprue FIFOs move, and what is in doubt takes
any contents. -/
theorem tick_clocked {s : State} (h : clocked s = true) : tick s = unsettleAll (sprueTick (holdoverTick
    { beforeCount s with tim := counterAfter (beforeCount s).tim })) := by
  have hs := congrArg Prod.snd (timSys_beforeCount s)
  have hc : clocked (beforeCount s) = true := by
    unfold clocked at h ⊢
    exact (congrArg (fun y : SysState => List.contains _ y.phase) hs).trans h
  exact congrArg unsettleAll (if_pos hc)

theorem sprueTick_tim (s : State) : (sprueTick s).tim = s.tim := congrArg Prod.fst (timSys_sprueTick s)

theorem sprueTick_sys (s : State) : (sprueTick s).sys = s.sys := congrArg Prod.snd (timSys_sprueTick s)

theorem holdoverTick_sys (s : State) : (holdoverTick s).sys = s.sys := by
  unfold holdoverTick
  dsimp only
  split
  · split <;> rfl
  · rfl

/-- Counting holdover leaves the counter and INCR alone. -/
theorem holdoverTick_tim (s : State) : (holdoverTick s).tim = { s.tim with holdTicks := (holdoverTick s).tim.holdTicks } := by
  unfold holdoverTick
  dsimp only
  split
  · split <;> rfl
  · rfl

/-- A block in doubt other than TIM leaves the time base alone (R24). -/
theorem strayBlock_tim {m c : Nat} (hc : c ≠ 3) (s : State) : (strayBlock m c s).tim = s.tim := by
  unfold strayBlock
  dsimp only
  split
  case h_3 => exact absurd rfl hc
  case h_13 => split <;> rfl
  case h_19 =>
    split
    · rfl
    · split
      · rfl
      · split <;> rfl
  all_goals rfl

theorem strayBits_tim (s : State) (a : Nat) (k v : Word) (d : Option RegDesc) : (strayBits s a k v d).tim = s.tim := by
  cases d <;> rfl

theorem strayReg_tim (m c : Nat) (s : State) (e : Nat × Word) : (strayReg m c s e).tim = s.tim := by
  unfold strayReg
  split
  · rfl
  · exact strayBits_tim s _ _ _ _

theorem strayByte_tim (m : Nat) (s : State) (e : Nat × Byte) : (strayByte m s e).tim = s.tim := by
  unfold strayByte
  exact (apply_ite State.tim _ _ _).trans (ite_self s.tim)

theorem unsettle_tim {c : Nat} (m : Nat) (hc : c ≠ 3) (s : State) : (unsettle c m s).tim = s.tim := by
  unfold unsettle
  dsimp only
  refine (foldl_same State.tim (strayByte_tim m) _ _).trans ((strayBlock_tim hc _).trans ?_)
  exact foldl_same State.tim (strayReg_tim m c) _ _

/-- Where TIM is not in doubt, what is in doubt leaves the time base alone (R24). -/
theorem unsettleAll_tim {s : State} (h : ∀ d ∈ s.sys.doubt, d.1 ≠ 3) : (unsettleAll s).tim = s.tim := by
  unfold unsettleAll
  generalize s.sys.doubt = l at h
  induction l generalizing s with
  | nil => rfl
  | cons d r ih =>
    exact (ih fun x hx => h x (List.mem_cons_of_mem d hx)).trans (unsettle_tim d.2 (h d List.mem_cons_self) s)

/-- The time base after a tick of a clocked die where TIM is not in doubt: the counter advanced, and the milliseconds of
holdover. -/
theorem tick_tim {s : State} (h : clocked s = true) (hd : ∀ d ∈ s.sys.doubt, d.1 ≠ 3) :
    ∃ k, (tick s).tim = { counterAfter s.tim with holdTicks := k } := by
  have ht := congrArg Prod.fst (timSys_beforeCount s)
  have hs := congrArg (fun x => x.2.doubt) (timSys_beforeCount s)
  generalize hx : beforeCount s = b at ht hs
  have hu : ∀ d ∈ (sprueTick (holdoverTick { b with tim := counterAfter b.tim })).sys.doubt, d.1 ≠ 3 := by
    rw [sprueTick_sys, holdoverTick_sys]
    exact fun d hm => hd d (hs ▸ hm)
  have hb : b.tim = s.tim := ht
  refine ⟨(holdoverTick { b with tim := counterAfter b.tim }).tim.holdTicks, ?_⟩
  rw [tick_clocked h, hx, unsettleAll_tim hu, sprueTick_tim, holdoverTick_tim, hb]

/-! ### The counter (R99, R100) -/

/-- The counter as one number, in units of 2^−32 ns. -/
def counter (t : TimState) : Nat := (t.sec.toNat * 1000000000 + t.ns) * 2 ^ 32 + t.frac.toNat

theorem counterAfter_ns_lt {t : TimState} (h : t.ns < 1000000000) : (counterAfter t).ns < 1000000000 := by
  have hf := t.frac.isLt
  have hi := t.incr.isLt
  unfold counterAfter
  dsimp only
  split <;> omega

/-- The counter grows by INCR, modulo 2^48 seconds. -/
theorem counter_counterAfter {t : TimState} (h : t.ns < 1000000000) :
    counter (counterAfter t) = (counter t + t.incr.toNat) % (2 ^ 48 * 1000000000 * 2 ^ 32) := by
  have hs := t.sec.isLt
  have hf := t.frac.isLt
  have hi := t.incr.isLt
  unfold counter counterAfter
  dsimp only
  simp only [BitVec.toNat_ofNat]
  split
  · rw [BitVec.toNat_add, show (1 : BitVec 48).toNat = 1 from rfl]
    omega
  · omega

/-- Settles O3: of all that a tick does, the counter's advance alone touches the counter. -/
theorem counterTickAddsIncr : Obligations.CounterTickAddsIncr := by
  intro s t hp hc hd hn hst
  obtain ⟨k, ht⟩ := tick_tim hc hd
  have hx : tick s = t := by
    unfold step at hst
    rw [hp] at hst
    exact Host.Outcome.next.inj hst
  rw [← hx, ht]
  exact ⟨counterAfter_ns_lt hn, counter_counterAfter hn⟩

end Sys2Proof.Machine
end

section
namespace Sys2Proof.Machine

/-! ### Resets that clear TIM (R102, R543–R545) -/

/-- What R102 gives of the time base after reset. -/
def TimeAtReset (t : TimState) : Prop :=
  t.sec = 0 ∧ t.ns = 0 ∧ t.frac = 0 ∧ t.incr = 0x0200000000#40 ∧ t.servo = .free

theorem timReset_timeAtReset : TimeAtReset .reset := ⟨rfl, rfl, rfl, rfl, rfl⟩

theorem podlStart_tim (p : Nat) (s : State) : (podlStart p s).tim = s.tim := by
  unfold podlStart
  dsimp only
  split <;> rfl

theorem podlWake_tim (p : Nat) (s : State) : (podlWake p s).tim = s.tim := by
  unfold podlWake
  split
  · exact podlStart_tim p _
  · rfl

theorem newContextKey_tim (s : State) : (newContextKey s).tim = s.tim := rfl

/-- The clearing of the logic die clears the time base. -/
theorem clearLogic_tim (power : Bool) (s : State) : (clearLogic power s).tim = .reset := by
  unfold clearLogic
  dsimp only
  rw [newContextKey_tim]
  split
  · rfl
  · refine (foldl_same State.tim ?_ _ _).trans rfl
    exact fun t p => podlWake_tim p t

/-- A BLOCK reset of TIM is its registers' and its state's, with every schedule put where the counter's zero has it. -/
theorem blockReset_timeBase (s : State) :
    blockReset 3 s = reposition { clearRegs 3 (fun _ => false) s with tim := .reset } := by
  unfold blockReset
  rfl

/-- What leaves the counter, INCR and the servo alone leaves them as after reset. -/
theorem Kept.timeAtReset {s t : State} (h : Kept s t) (hs : TimeAtReset s.tim) : TimeAtReset t.tim := by
  obtain ⟨⟨ksec, kservo⟩, kns, kfrac, kincr, -⟩ := h
  obtain ⟨hsec, hns, hfrac, hincr, hservo⟩ := hs
  exact ⟨ksec.trans hsec, kns.trans hns, kfrac.trans hfrac, kincr.trans hincr, kservo.trans hservo⟩

/-- A BLOCK reset of TIM clears the counter, INCR and the servo. -/
theorem blockReset_tim (s : State) : TimeAtReset (blockReset 3 s).tim := by
  rw [blockReset_timeBase]
  exact (reposition_keep _).timeAtReset timReset_timeAtReset

/-- Settles O6: the first two resets leave the whole time base as after reset, the third its counter, INCR and servo. -/
theorem resetValuesOfTheTimeBase : Obligations.ResetValuesOfTheTimeBase :=
  ⟨timReset_timeAtReset, fun power s => (clearLogic_tim power s).symm ▸ timReset_timeAtReset, blockReset_tim⟩

end Sys2Proof.Machine
end

section
namespace Sys2Proof.Machine

/-! ### INCR (R101, R107, R110) -/

/-- The write of a master that governs the time base is not one that R110 has ignored. -/
theorem not_foreign {m : Nat} {s : State} (h : hostMode s = true ∨ m = 0) : ¬ ((!hostMode s) = true ∧ m ≠ 0) := by
  rcases h with h | h <;> simp [h]

/-- Committing INCR changes the registers that show it and its saturation alone. -/
theorem sameRegs_commitIncr (v : Nat) (s : State) :
    SameRegs [rg 3 0x10, rg 3 0x14, rg 3 0x20, rg 3 0x34] s (commitIncr v s) := by
  obtain ⟨-, -, -, -, -, -, h, -⟩ := commitIncr_spec s v
  exact h

/-- Of the time base it changes INCR alone. -/
theorem commitIncr_tim (v : Nat) (s : State) : (commitIncr v s).tim = { s.tim with incr := (commitIncr v s).tim.incr } := by
  obtain ⟨h, -⟩ := commitIncr_spec s v
  rw [h]

/-- Neither R110's check nor a reserved bit stops a write of INCR_HI by a master that governs INCR. -/
theorem execIncrCommit_permitted {m : Nat} {v : Word} {s : State} (hm : MayWrite s m 3 (.bit 0) = true)
    (hv : fld v 31 8 = 0) (hg : hostMode s = true ∨ m = 0) :
    execIncrCommit m v s = .next (commitIncr (fld v 7 0 * 2 ^ 32 + (s.rd (rg 3 0x10)).toNat) s) := by
  unfold execIncrCommit
  rw [withWrite_ok hm, if_neg (by simp [hv]), if_neg (not_foreign hg)]
  rfl

/-- INCR_LO has no row, and all its bits are read-write. -/
theorem regDesc_incrLo : ∃ d, regDesc (rg 3 0x10) = some d ∧ d.known = 0xFFFFFFFF ∧ d.rw = 0xFFFFFFFF ∧ d.w1c = 0 ∧
    d.w1s = 0 := ⟨_, rfl, rfl, rfl, rfl, rfl⟩

/-- A read-write register of all bits takes the word written. -/
theorem writeByType_rw {d : RegDesc} {old v : Word} (h : d.rw = 0xFFFFFFFF) (hc : d.w1c = 0) (hs : d.w1s = 0) :
    writeByType d old v = v := by
  refine BitVec.eq_of_getLsbD_eq fun i hi => ?_
  have hx : (d.rw ||| d.wo).testBit i = true := by
    rw [Nat.testBit_or, h, show 0xFFFFFFFF = 2 ^ 32 - 1 from rfl, Nat.testBit_two_pow_sub_one, decide_eq_true hi, Bool.true_or]
  rw [writeByType_bit d old v hi (.inr ⟨by simp [hc], by simp [hs]⟩) (.inl (by simp [hc])), if_pos hx]

/-- A permitted write of INCR_LO stores the word. -/
theorem execRegisterWrite_incrLo {m a : Nat} {v : Word} {s : State} (hm : MayWrite s m 3 (.bit 0) = true)
    (hw : s.ownWalk m a true = .ok (rg 3 0x10)) :
    execRegisterWrite m a (leBytes 4 v.toNat) s = .next (s.wr (rg 3 0x10) v) := by
  obtain ⟨d, hd, hk, hrw, hc, hs⟩ := regDesc_incrLo
  have hv : v &&& ~~~ BitVec.ofNat 32 d.known = 0 := by
    rw [hk]
    exact BitVec.and_zero
  have hp := plainWrite_stores (m := m) (v := v) (d := d) (s := s) (b := 3) (off := 0x10) rfl hv rfl
  refine (execRegisterWrite_plain hm hw (by decide) (by decide) rfl rfl rfl hd).trans ?_
  rw [hp, writeByType_rw hrw hc hs]
  rfl

/-- Settles O20: the write of INCR_HI is the committing of INCR, and INCR_LO is a plain register. -/
theorem incrIsLimitedAndCommitted : Obligations.IncrIsLimitedAndCommitted := by
  refine ⟨fun m v s hm hv hg => ?_, fun m a v s hm hw => ?_⟩
  · obtain ⟨-, hi, hlo, hhi, hsat, hev, -, hrest⟩ := commitIncr_spec s (fld v 7 0 * 2 ^ 32 + (s.rd (rg 3 0x10)).toNat)
    refine ⟨_, execIncrCommit_permitted hm hv hg, commitIncr_tim _ s, hi, ?_, ?_, ?_, ?_, sameRegs_commitIncr _ s, hrest⟩
    · rw [hsat, hi]
    · rw [hev, hi]
    · rw [hlo, hi]
    · rw [hhi, hi]
  · exact ⟨_, execRegisterWrite_incrLo hm hw, rfl, State.rd_wr_same s _ v, sameRegs_wr _ v s⟩

end Sys2Proof.Machine
end

section
namespace Sys2Proof.Machine

/-! ### Steps of the counter (R108–R110) -/

/-- The time base that a step leaves before the schedules follow it. -/
def jumped (off : Int) (s : State) : TimState :=
  let new := (((s.now : Int) + off) % (timeSpan : Int)).toNat
  { s.tim with sec := BitVec.ofNat 48 (new / 1000000000), ns := new % 1000000000, skipFrom := s.now, skipTo := new }

/-- A step is the jump of the counter, the schedules that follow it, a count in STEPS and the event STEPPED. -/
theorem stepClock_eq (off : Int) (s : State) : stepClock off s =
    ((reposition { s with tim := jumped off s }).cntF (rg 3 0x30) 15 0 1).raise 3 3 := rfl

theorem stepClock_tim (off : Int) (s : State) :
    (stepClock off s).tim = (reposition { s with tim := jumped off s }).tim := by
  rw [stepClock_eq]
  generalize reposition { s with tim := jumped off s } = t
  rfl

/-- The schedules that follow the jump leave the counter and INCR as it put them. -/
theorem stepClock_counter (off : Int) (s : State) : (stepClock off s).tim.sec = (jumped off s).sec ∧
    (stepClock off s).tim.ns = (jumped off s).ns ∧ (stepClock off s).tim.frac = s.tim.frac ∧
      (stepClock off s).tim.incr = s.tim.incr := by
  obtain ⟨⟨hsec, -⟩, hns, hfrac, hincr, -⟩ := reposition_keep { s with tim := jumped off s }
  rw [stepClock_tim]
  exact ⟨hsec, hns, hfrac, hincr⟩

/-- Where the result lies within the counter, the jump adds the offset. -/
theorem jumped_now {off : Int} {s : State} (h : stepFits off s = true) :
    (((jumped off s).sec.toNat * 1000000000 + (jumped off s).ns : Nat) : Int) = s.now + off := by
  simp only [stepFits, Bool.and_eq_true, decide_eq_true_eq] at h
  have hx : ((((s.now : Int) + off) % (timeSpan : Int)).toNat : Int) = s.now + off := by
    rw [Int.emod_eq_of_lt h.1 h.2, Int.toNat_of_nonneg h.1]
  simp only [timeSpan] at h
  simp only [jumped, BitVec.toNat_ofNat]
  omega

/-- The count of a step. -/
theorem stepClock_steps (off : Int) (s : State) :
    (stepClock off s).f (rg 3 0x30) 15 0 = min 65535 (s.f (rg 3 0x30) 15 0 + 1) := by
  obtain ⟨-, -, -, -, hr⟩ := reposition_keep { s with tim := jumped off s }
  have hx : (reposition { s with tim := jumped off s }).f (rg 3 0x30) 15 0 = s.f (rg 3 0x30) 15 0 :=
    congrArg (fun v => fld v 15 0) (hr 3 0x30 (by decide) (by decide))
  rw [stepClock_eq]
  generalize reposition { s with tim := jumped off s } = t at hx
  have hc : ((t.cntF (rg 3 0x30) 15 0 1).raise 3 3).f (rg 3 0x30) 15 0 = (t.cntF (rg 3 0x30) 15 0 1).f (rg 3 0x30) 15 0 :=
    congrArg (fun v => fld v 15 0) (State.rd_sb_ne _ 3 true (by decide))
  rw [hc, State.cntF, State.f_sf_same _ _ _ (by decide) (by decide), hx, satAdd]
  omega

/-- What R108 and R109 say of a step. -/
theorem stepClock_stepped {off : Int} {s : State} (h : stepFits off s = true) : Stepped off s (stepClock off s) := by
  obtain ⟨hsec, hns, hfrac, hincr⟩ := stepClock_counter off s
  refine ⟨?_, ?_, hfrac, hincr, stepClock_steps off s, ?_⟩
  · rw [← jumped_now h, State.now, hsec, hns]
  · rw [hns]
    exact Nat.mod_lt _ (by decide)
  · exact State.bit_sb_same _ _ true (by decide)

/-- A permitted write of STEP_HI by a master that governs the time steps by the offset it completes. -/
theorem execStepCommit_permitted {m : Nat} {v : Word} {off : Int} {s : State} (hm : MayWrite s m 3 (.bit 0) = true)
    (hg : hostMode s = true ∨ m = 0) (ho : off = (BitVec.ofNat 64 (v.toNat * 2 ^ 32 + s.tim.stepLo.toNat)).toInt)
    (hf : stepFits off s = true) : execStepCommit m v s = .next (stepClock off s) := by
  subst ho
  unfold execStepCommit
  rw [withWrite_ok hm, if_neg (not_foreign hg)]
  dsimp only
  rw [if_pos hf]
  rfl

theorem effTimStep_ok {c : Cmd} {s : State} (hg : hostMode s = true ∨ c.issuer = 0)
    (hf : stepFits (BitVec.ofNat 64 (c.p 32 8)).toInt s = true) :
    effTimStep c s = .ok (stepClock (BitVec.ofNat 64 (c.p 32 8)).toInt s) [] 0 := by
  unfold effTimStep
  dsimp only
  rw [if_neg (by simp [hf]), if_neg (not_foreign hg)]
  rfl

/-! ### The servo (R111–R115) -/

/-- A domain whose Syncs Mason accepts (R116): one that runs, with a port that is or may become SLAVE. -/
theorem execSyncAccepted_accepted {domain : Nat} {offset : Int} {s : State} (hu : s.up = true)
    (hg : gptpRuns s domain = true ∧ gptpAny s domain 2 = true) : execSyncAccepted domain offset s =
      .next (if domain = s.f (rg 3 0x24) 1 1 then governingSync offset s
        else s.wr (rg 3 0x2C) (ofSInt (max (-2147483648) (min 2147483647 (-offset))))) := by
  unfold execSyncAccepted
  rw [act_up hu, if_neg (by simp [hg.1, hg.2])]

/-- A Sync of the governing domain goes to the servo. -/
theorem execSyncAccepted_governing {domain : Nat} {offset : Int} {s : State} (hu : s.up = true)
    (hg : gptpRuns s domain = true ∧ gptpAny s domain 2 = true) (hd : domain = s.f (rg 3 0x24) 1 1) :
    execSyncAccepted domain offset s = .next (governingSync offset s) := by
  rw [execSyncAccepted_accepted hu hg, if_pos hd]

/-- The first Sync in FREE is stepped to, whatever its offset (R111). -/
theorem governingSync_free {off : Int} {s : State} (h : s.tim.servo = .free) :
    governingSync off s = lockJudge off (setServo .locking (stepClock (-off) s)) := by
  have hc : servoCorrect off s = stepClock (-off) s := if_pos (.inl h)
  simp only [governingSync, h, hc]

/-- Settles O21: the register's write, the command and the first Sync each make the one step of the clock. -/
theorem stepsAddTheOffsetAndAreCounted : Obligations.StepsAddTheOffsetAndAreCounted := by
  refine ⟨?_, ?_, ?_, ?_⟩
  · intro m v off s hm hg ho hf
    exact ⟨_, execStepCommit_permitted hm hg ho hf, stepClock_stepped hf⟩
  · intro ring slot c s0 s h hg hf
    exact opRow_ok h (effTimStep_ok hg hf) (by decide) (by simp)
  · intro off s hf _
    exact stepClock_stepped hf
  · intro domain offset s hu hg hd hs
    exact (execSyncAccepted_governing hu hg hd).trans (congrArg _ (governingSync_free hs))

end Sys2Proof.Machine
end

section
namespace Sys2Proof.Machine

/-! ### Reads and commands of the time base (R103, R107, R128, R592) -/

/-- A permitted read of TIME_NS latches SEC and FRAC for its reader. -/
theorem execTimeNsRead_permitted {m : Nat} {s : State} (hm : MayRead s m 3 .none = true) : execTimeNsRead m s =
    .next ({ s with tim := { s.tim with latches := tput ⟨0, 0⟩ s.tim.latches m ⟨s.tim.sec, s.tim.frac⟩ } }.reply m
      [BitVec.ofNat 32 s.tim.ns] false) := withRead_ok hm

theorem effTimSetIncr_ok {c : Cmd} {s : State} (hv : 0x01FFBE76C9 ≤ c.p 32 8 ∧ c.p 32 8 ≤ 0x0200418937)
    (hg : hostMode s = true ∨ c.issuer = 0) : effTimSetIncr c s = .ok (commitIncr (c.p 32 8) s) [] 0 := by
  unfold effTimSetIncr
  dsimp only
  rw [if_neg (by omega), if_neg (by simp only [incrLow, incrHigh]; omega), if_neg (not_foreign hg)]
  rfl

theorem effTimSetServo_ok {c : Cmd} {s : State} (h : servoForm (c.w 32) = true) :
    effTimSetServo c s = .ok (showServo (s.wr (rg 3 0x24) (c.w 32))) [] 0 := if_pos h

/-! ### What the servo's operations leave alone -/

/-- Raising an event of TIM sets a bit of its EVENT register alone. -/
theorem sameRegs_raiseTim (i : Nat) (s : State) : SameRegs [rg 3 0x34] s (s.raise 3 i) := sameRegs_wr _ _ s

theorem raiseTim_tim (i : Nat) (s : State) : (s.raise 3 i).tim = s.tim := rfl

/-- STATUS and HOLDOVER_MS alone show the servo. -/
theorem sameRegs_showServo (s : State) : SameRegs [rg 3 0x20, rg 3 0x28] s (showServo s) := by
  have hs : ∀ (t : State) (n : Nat) (b : Bool), SameRegs [rg 3 0x20, rg 3 0x28] t ((t.sf (rg 3 0x20) 2 0 n).sb (rg 3 0x20) 3 b) :=
    fun t n b => ((sameRegs_wr (rg 3 0x20) _ t).trans (sameRegs_wr (rg 3 0x20) _ _)).mono (by simp)
  unfold showServo
  generalize (if hostMode s then s.f (rg 3 0x24) 26 24 else servoNum s.tim.servo) = n
  dsimp only
  split
  · exact (hs s _ _).trans (((sameRegs_wr (rg 3 0x28) 0 _).mono (by simp)).trans (.of_regs rfl))
  · exact hs s _ _

/-- Showing the servo restarts the count of holdover's ticks at most. -/
theorem showServo_tim (s : State) : (showServo s).tim = { s.tim with holdTicks := (showServo s).tim.holdTicks } := by
  unfold showServo
  generalize (if hostMode s then s.f (rg 3 0x24) 26 24 else servoNum s.tim.servo) = n
  dsimp only
  split <;> rfl

/-- Entering a servo state. -/
theorem setServo_tim (v : Servo) (s : State) :
    (setServo v s).tim = { s.tim with servo := v, holdTicks := (setServo v s).tim.holdTicks } :=
  showServo_tim { s with tim := { s.tim with servo := v } }

theorem sameRegs_setServo (v : Servo) (s : State) : SameRegs [rg 3 0x20, rg 3 0x28] s (setServo v s) :=
  (SameRegs.of_regs rfl).trans (sameRegs_showServo { s with tim := { s.tim with servo := v } })

/-- The servo enters LOCKING from HOLDOVER or GM, with the event `i` of leaving it (R114). -/
def enterLocking (i : Nat) (s : State) : State :=
  (setServo .locking { s with tim := { s.tim with lockCount := 0 } }).raise 3 i

theorem enterLocking_tim (i : Nat) (s : State) : (enterLocking i s).tim =
    { s.tim with servo := .locking, lockCount := 0, holdTicks := (enterLocking i s).tim.holdTicks } := by
  unfold enterLocking
  rw [raiseTim_tim]
  exact setServo_tim .locking { s with tim := { s.tim with lockCount := 0 } }

theorem enterLocking_servoCfg (i : Nat) (s : State) : (enterLocking i s).rd (rg 3 0x24) = s.rd (rg 3 0x24) :=
  (sameRegs_raiseTim i _ _ (by decide)).trans (sameRegs_setServo .locking _ _ (by decide))

/-! ### The servo's answer to an offset (R111, R112, R114) -/

/-- Whether R111 has the servo step to an offset rather than correct INCR by it, once it has left FREE. -/
def tooFar (off : Int) (s : State) : Prop :=
  s.f (rg 3 0x24) 15 4 * 1000 < off.natAbs ∧ ¬ (s.f (rg 3 0x24) 15 4 = 0 ∧ s.tim.everLocked = true)

/-- The state in which the servo corrects INCR: the corrected value is free, within the limits of R101 (log entry 10). -/
def corrected (off : Int) (s : State) : State := commitIncr (Config.piIncr s.free.1 off).toNat s.free.2

theorem servoCorrect_steps {off : Int} {s : State} (h : tooFar off s) : servoCorrect off s = stepClock (-off) s := by
  obtain ⟨hf, hn⟩ := h
  exact if_pos (.inr ⟨decide_eq_true hf, hn⟩)

theorem servoCorrect_corrects {off : Int} {s : State} (hs : s.tim.servo ≠ .free) (h : ¬ tooFar off s) :
    servoCorrect off s = corrected off s := by
  refine if_neg ?_
  rintro (hf | ⟨hf, hn⟩)
  · exact hs hf
  · exact h ⟨of_decide_eq_true hf, hn⟩

/-- Of the time base, a correction changes INCR alone. -/
theorem corrected_tim (off : Int) (s : State) :
    (corrected off s).tim = { s.tim with incr := (corrected off s).tim.incr } := commitIncr_tim _ s.free.2

theorem corrected_servoCfg (off : Int) (s : State) : (corrected off s).rd (rg 3 0x24) = s.rd (rg 3 0x24) :=
  sameRegs_commitIncr _ s.free.2 _ (by decide)

/-- An offset in LOCKING counts among the consecutive ones within LOCK_NS, and the eighth locks (R112). -/
theorem lockJudge_locking {off : Int} {k : Nat} {s : State} (hs : s.tim.servo = .locking)
    (hk : k = if off.natAbs ≤ s.f (rg 3 0x24) 23 16 then s.tim.lockCount + 1 else 0) : lockJudge off s =
      if 8 ≤ k then (setServo .locked { s with tim := { s.tim with lockCount := k, everLocked := true } }).raise 3 0
      else { s with tim := { s.tim with lockCount := k } } := by
  subst hk
  unfold lockJudge
  simp only [hs, true_and]

/-- A correction in LOCKING, judged. -/
theorem lockJudge_corrected {off : Int} {k : Nat} {s : State} (hs : s.tim.servo = .locking)
    (hk : k = if off.natAbs ≤ s.f (rg 3 0x24) 23 16 then s.tim.lockCount + 1 else 0) :
    lockJudge off (corrected off s) =
      if 8 ≤ k then (setServo .locked { corrected off s with
        tim := { (corrected off s).tim with lockCount := k, everLocked := true } }).raise 3 0
      else { corrected off s with tim := { (corrected off s).tim with lockCount := k } } := by
  have ht := corrected_tim off s
  refine lockJudge_locking ?_ ?_
  · rw [ht]
    exact hs
  · rw [hk, ht, State.f, State.f, corrected_servoCfg]

theorem governingSync_holdover {off : Int} {s : State} (h : s.tim.servo = .holdover) :
    governingSync off s = lockJudge off (servoCorrect off (enterLocking 2 s)) := by
  simp only [governingSync, h, enterLocking]

theorem governingSync_gm {off : Int} {s : State} (h : s.tim.servo = .gm) :
    governingSync off s = lockJudge off (servoCorrect off (enterLocking 4 s)) := by
  simp only [governingSync, h, enterLocking]

/-- Outside FREE and LOCKED the servo corrects by an offset in LOCKING, which it first enters with its event (R114). -/
theorem governingSync_corrects {off : Int} {s x : State}
    (hx : (s.tim.servo = .locking ∧ x = s) ∨ (s.tim.servo = .holdover ∧ x = enterLocking 2 s) ∨
      (s.tim.servo = .gm ∧ x = enterLocking 4 s)) (hf : ¬ tooFar off s) :
    governingSync off s = lockJudge off (corrected off x) ∧ x.tim.servo = .locking ∧
      x.rd (rg 3 0x24) = s.rd (rg 3 0x24) := by
  have hl : ∀ i, (enterLocking i s).tim.servo = .locking ∧ ¬ tooFar off (enterLocking i s) := by
    intro i
    have ht := enterLocking_tim i s
    refine ⟨by rw [ht], ?_⟩
    rwa [tooFar, ht, State.f, enterLocking_servoCfg]
  obtain ⟨hs, rfl⟩ | ⟨hs, rfl⟩ | ⟨hs, rfl⟩ := hx
  · have hc := servoCorrect_corrects (by simp [hs]) hf
    exact ⟨by simp only [governingSync, hs, hc], hs, rfl⟩
  · have hc := servoCorrect_corrects (by simp [(hl 2).1]) (hl 2).2
    exact ⟨by rw [governingSync_holdover hs, hc], (hl 2).1, enterLocking_servoCfg 2 s⟩
  · have hc := servoCorrect_corrects (by simp [(hl 4).1]) (hl 4).2
    exact ⟨by rw [governingSync_gm hs, hc], (hl 4).1, enterLocking_servoCfg 4 s⟩

theorem governingSync_locked {off : Int} {s : State} (h : s.tim.servo = .locked) : governingSync off s =
    if s.f (rg 3 0x24) 15 4 * 1000 < off.natAbs ∧ s.f (rg 3 0x24) 15 4 ≠ 0 then
      setServo .locking (servoCorrect off { s with tim := { s.tim with lockCount := 0 } })
    else servoCorrect off s := by
  simp only [governingSync, h]

/-- In LOCKED an offset that is not too far off is corrected by, and no more. -/
theorem governingSync_locked_near {off : Int} {s : State} (hs : s.tim.servo = .locked) (hf : ¬ tooFar off s)
    (hn : ¬ (s.f (rg 3 0x24) 15 4 * 1000 < off.natAbs ∧ s.f (rg 3 0x24) 15 4 ≠ 0)) :
    governingSync off s = corrected off s := by
  rw [governingSync_locked hs, if_neg hn, servoCorrect_corrects (by simp [hs]) hf]

/-- One that is too far off is stepped to, and the servo enters LOCKING. -/
theorem governingSync_locked_far {off : Int} {s : State} (hs : s.tim.servo = .locked)
    (hn : s.f (rg 3 0x24) 15 4 * 1000 < off.natAbs ∧ s.f (rg 3 0x24) 15 4 ≠ 0) : governingSync off s =
      setServo .locking (stepClock (-off) { s with tim := { s.tim with lockCount := 0 } }) := by
  have hf : tooFar off { s with tim := { s.tim with lockCount := 0 } } := ⟨hn.1, fun h => hn.2 h.1⟩
  rw [governingSync_locked hs, if_pos hn, servoCorrect_steps hf]

/-- The offset is near enough, or it may not be stepped to because STEP_US is 0 and the servo has locked before (R111). -/
theorem not_tooFar {off : Int} {s : State} (h : off.natAbs ≤ s.f (rg 3 0x24) 15 4 * 1000 ∨
    (s.f (rg 3 0x24) 15 4 = 0 ∧ s.tim.everLocked = true)) : ¬ tooFar off s := fun ⟨hf, hn⟩ =>
  h.elim (fun h => absurd hf (Nat.not_lt.mpr h)) hn

/-- Without Syncs, a servo that follows them enters HOLDOVER with its event (R113, R114). -/
theorem execSyncReceiptTimeout_follows {s : State} (hu : s.up = true) (hh : hostMode s = false)
    (hs : s.tim.servo = .locking ∨ s.tim.servo = .locked) : execSyncReceiptTimeout s =
      .next ((setServo .holdover { s with tim := { s.tim with lockCount := 0 } }).raise 3 1) := by
  unfold execSyncReceiptTimeout
  rw [act_up hu, if_neg (by simp [hh])]
  rcases hs with hs | hs <;> simp only [hs]

/-- As grandmaster the servo enters GM with its event (R114, R116). -/
theorem execGmChange_master {s : State} (hu : s.up = true) (hg : gptpMaster s (s.f (rg 3 0x24) 1 1) = true)
    (hs : s.tim.servo ≠ .gm) : execGmChange s =
      .next ((setServo .gm { s with tim := { s.tim with lockCount := 0 } }).raise 3 4) := by
  unfold execGmChange
  rw [act_up hu, if_neg (by simp [hg, hs])]

/-- Settles O22: reads and commands answer at once; a Sync is judged by its domain, the servo's state and the offset. -/
theorem counterAndServoCommands : Obligations.CounterAndServoCommands := by
  refine ⟨?_, ?_, ?_, ?_, ?_, ?_, ?_, ?_, ?_, ?_⟩
  · rintro m s t hm rfl
    exact execTimeNsRead_permitted hm
  · intro ring slot c s0 s h
    exact opRow_ok h rfl (by decide) (by simp)
  · intro ring slot c s0 s h hv hg
    exact opRow_ok h (effTimSetIncr_ok hv hg) (by decide) (by simp)
  · intro ring slot c s0 s h hv
    exact opRow_ok h (effTimSetServo_ok hv) (by decide) (by simp)
  · intro s hu hh hs
    exact execSyncReceiptTimeout_follows hu hh hs
  · intro s hu hg hs
    exact execGmChange_master hu hg hs
  · rintro domain k offset s x t hu ⟨hr, ha, hd⟩ hx hf rfl hk
    obtain ⟨hg, hs, hcfg⟩ := governingSync_corrects hx (not_tooFar hf)
    refine (execSyncAccepted_governing hu ⟨hr, ha⟩ hd).trans (congrArg _ (hg.trans ?_))
    refine lockJudge_corrected hs (hk.trans ?_)
    rw [State.f, State.f, hcfg]
  · rintro domain offset s hu ⟨hr, ha, hd⟩ hs hf
    refine (execSyncAccepted_governing hu ⟨hr, ha⟩ hd).trans (congrArg _ ?_)
    exact governingSync_locked_near hs (not_tooFar hf) (by omega)
  · rintro domain offset s hu ⟨hr, ha, hd⟩ hs hn
    exact (execSyncAccepted_governing hu ⟨hr, ha⟩ hd).trans (congrArg _ (governingSync_locked_far hs hn))
  · rintro domain offset s hu hg hd
    exact (execSyncAccepted_accepted hu hg).trans (congrArg _ (if_neg hd))

end Sys2Proof.Machine
end

section
namespace Sys2Proof.Machine

/-! ### The FIFOs of capture inputs (R22, R125, R126) -/

/-- Setting a field leaves a field beside it in the same register alone. -/
theorem State.f_sf_beside (s : State) (a n : Nat) {hi lo hi' lo' : Nat} (hi32 : hi < 32) (hlo : lo ≤ hi) (h' : hi' < 32)
    (h : hi' < lo ∨ hi < lo') : (s.sf a hi lo n).f a hi' lo' = s.f a hi' lo' := by
  unfold State.f State.sf
  rw [State.rd_wr_same, fld_setFld_ne _ _ hi32 hlo h' h]

/-- The registers of a capture input at different offsets are different. -/
theorem tciReg_ne (k : Nat) {o p : Nat} (h : o ≠ p) : tciReg k o ≠ tciReg k p := by
  simp only [tciReg, rg_eq]
  omega

/-- The word of TCI_NS for a capture (R126). -/
def captureWord (x : Capture) : Word := BitVec.ofNat 32 (x.ns + b2n x.falling * 2 ^ 30 + 2 ^ 31)

/-- Input `k` after its oldest capture `x` is popped and `r` are left. -/
def capturePopped (k : Nat) (x : Capture) (r : List Capture) (s : State) : State :=
  (State.sf (State.wr { s with tim := { s.tim with tci := tput [] s.tim.tci k r } } (tciReg k 8)
    (BitVec.ofNat 32 x.sec.toNat)) (tciReg k 0xC) 31 16 (x.sec.toNat / 2 ^ 32)).sf (tciReg k 0xC) 4 0 r.length

/-- A permitted read of TCI_NS pops the oldest capture. -/
theorem execTciPop_oldest {m k : Nat} {x : Capture} {r : List Capture} {s : State}
    (hm : MayRead s m 3 (.bit (16 + k)) = true) (hq : tget [] s.tim.tci k = x :: r) :
    execTciPop m k s = .next ((capturePopped k x r s).reply m [captureWord x] false) := by
  unfold execTciPop
  rw [withRead_ok hm]
  simp only [hq]
  rfl

/-- What a pop leaves: the other captures, the popped one's SEC and the FIFO's length, and every other register. -/
theorem capturePopped_spec (k : Nat) (x : Capture) (r : List Capture) (s : State) :
    tget [] (capturePopped k x r s).tim.tci k = r ∧
    (capturePopped k x r s).rd (tciReg k 8) = BitVec.ofNat 32 x.sec.toNat ∧
    (capturePopped k x r s).f (tciReg k 0xC) 31 16 = x.sec.toNat / 2 ^ 32 ∧
    (capturePopped k x r s).f (tciReg k 0xC) 4 0 = r.length % 32 ∧
    SameRegs [tciReg k 8, tciReg k 0xC] s (capturePopped k x r s) := by
  have hne : tciReg k 0xC ≠ tciReg k 8 := tciReg_ne k (by decide)
  refine ⟨tget_tput_same [] s.tim.tci k r, ?_, ?_, State.f_sf_same _ _ _ (by decide) (by decide), fun a ha => ?_⟩
  · rw [capturePopped, State.rd_sf_ne _ _ _ _ hne, State.rd_sf_ne _ _ _ _ hne, State.rd_wr_same]
  · rw [capturePopped, State.f_sf_beside _ _ _ (by decide) (by decide) (by decide) (by decide),
      State.f_sf_same _ _ _ (by decide) (by decide)]
    have hx := x.sec.isLt
    omega
  · simp only [List.mem_cons, List.not_mem_nil, or_false, not_or] at ha
    rw [capturePopped, State.rd_sf_ne _ _ _ _ (Ne.symm ha.2), State.rd_sf_ne _ _ _ _ (Ne.symm ha.2),
      State.rd_wr_ne _ _ (Ne.symm ha.1)]
    rfl

/-- A pop with what its reader is given: the capture's word, unless an error of the reader's is in doubt (R22). -/
theorem exec_tciPop {m k : Nat} {x : Capture} {r : List Capture} {s : State}
    (hm : MayRead s m 3 (.bit (16 + k)) = true) (hq : tget [] s.tim.tci k = x :: r) :
    ∃ t, exec (.tciPop m k) s = .next t ∧ tget [] t.tim.tci k = r ∧
      t.sys.reads = s.sys.reads ++ [⟨m, s.shown m [captureWord x], false⟩] ∧
      t.rd (tciReg k 8) = BitVec.ofNat 32 x.sec.toNat ∧ t.f (tciReg k 0xC) 31 16 = x.sec.toNat / 2 ^ 32 ∧
      t.f (tciReg k 0xC) 4 0 = r.length % 32 ∧ SameRegs [tciReg k 8, tciReg k 0xC] s t := by
  obtain ⟨hleft, hsec, hhigh, hlen, hregs⟩ := capturePopped_spec k x r s
  exact ⟨_, execTciPop_oldest hm hq, hleft, rfl, hsec, hhigh, hlen, hregs⟩

/-- A reader none of whose errors is in doubt is given the words as they are. -/
theorem shown_of_not_erring {m : Nat} {ws : List Word} {s : State} (h : s.erring m = false) : s.shown m ws = ws :=
  if_neg (by simp [h])

/-- The die runs, domain A holds all rights in TIM's table, an error of its made TIM's contents unpredictable, and input 0
holds one capture at `ns` nanoseconds. -/
def erringReader (ns : Nat) : State :=
  { State.reset with
    sys := { State.reset.sys with phase := .running, doubt := [(3, 0x10)] }
    acl := { State.reset.acl with entries := [(3 * 128 + 0x10, AclEntry.all)] }
    tim := { State.reset.tim with tci := [(0, [⟨0, ns, false⟩])] } }

theorem mayRead_erringReader (ns : Nat) : MayRead (erringReader ns) 0x10 3 (.bit (16 + 0)) = true := by
  show MayRead (erringReader 0) 0x10 3 (.bit (16 + 0)) = true
  decide

/-- Domain A is then given any word, whatever the capture. -/
theorem shown_erringReader (ns : Nat) (w : Word) : (erringReader ns).shown 0x10 [w] = [Config.anyWord 0 0] := rfl

/-- Refutes O23: the statement has every pop return the capture's word, but a reader with an error in doubt is given any
word (R22, `State.shown`), and one word cannot be that of two captures. For other readers its clause of the pop holds:
`exec_tciPop` with `shown_of_not_erring`. -/
theorem not_pulsesCapturesAndGptp : ¬ Obligations.PulsesCapturesAndGptp := by
  rintro ⟨-, -, -, -, -, -, hpop, -⟩
  have hword : ∀ ns, Config.anyWord 0 0 = captureWord ⟨0, ns, false⟩ := by
    intro ns
    obtain ⟨t, ht, -, hreads, -⟩ := hpop 0x10 0 ⟨0, ns, false⟩ [] (erringReader ns) (mayRead_erringReader ns) rfl
    obtain ⟨u, hu, -, hgiven, -⟩ := exec_tciPop (mayRead_erringReader ns) (x := ⟨0, ns, false⟩) (r := []) rfl
    obtain rfl : t = u := Host.Outcome.next.inj (ht.symm.trans hu)
    rw [shown_erringReader] at hgiven
    simpa [captureWord] using hgiven.symm.trans hreads
  exact absurd ((hword 0).symm.trans (hword 1)) (by decide)

end Sys2Proof.Machine
end

section
namespace Sys2Proof.Machine

/-! ### Frames at the ports (R276, R285–R288) -/

/-- A frame that arrives at a fitted port with its link up, by its FCS and its length. -/
theorem execFrameReceive_arrives {p ago : Nat} {wire : List Byte} {s : State} (hu : s.up = true)
    (hp : p ≤ 17 ∧ portFitted s.tier p = true ∧ linkUp s p = true) : execFrameReceive p wire ago s =
      .next (if wire.length < 4 ∨ fcs (wire.take (wire.length - 4)) ≠ wire.drop (wire.length - 4) then ethCount p 0x44 s
        else if wire.length < 64 then ethCount p 0x48 s
        else if min (s.f (ethPort p 8) 13 0) 9216 < wire.length then ethCount p 0x4C s
        else if macsecShared s p wire && (secTag wire).isSome then
          (if verifyRoom s p wire then s.withEth (fun e => { e with
            shared := e.shared ++ [.rx p wire (stampOf s ago).1 (stampOf s ago).2 (stampFrac s)] }) else s)
        else checkFrame p wire (stampOf s ago) (stampFrac s) s) := by
  obtain ⟨h17, hfit, hlink⟩ := hp
  unfold execFrameReceive
  rw [act_up hu, if_neg (by simp [hfit, hlink]; omega)]

/-- Where MACsec does not work on a frame, it passes the MAC as it came (R288). -/
theorem checkFrame_plain {p frac : Nat} {wire : List Byte} {t : Nat × Nat} {s : State} (h : macsecOn s p wire = false) :
    checkFrame p wire t frac s = passFrame p wire 0 t frac s := by
  have hm : macsecRx p wire s = (some (wire, 0), s) := if_pos h
  simp only [checkFrame, hm]

/-- A frame with a good FCS and an allowed length passes the MAC where MACsec does not work on it. -/
theorem execFrameReceive_good {p ago : Nat} {wire : List Byte} {s : State} (hu : s.up = true)
    (hp : p ≤ 17 ∧ portFitted s.tier p = true ∧ linkUp s p = true)
    (hl : 64 ≤ wire.length) (hc : fcs (wire.take (wire.length - 4)) = wire.drop (wire.length - 4))
    (hx : wire.length ≤ min (s.f (ethPort p 8) 13 0) 9216) (hs : macsecOn s p wire = false) :
    execFrameReceive p wire ago s = .next (passFrame p wire 0 (stampOf s ago) (stampFrac s) s) := by
  have hfcs : ¬ (wire.length < 4 ∨ fcs (wire.take (wire.length - 4)) ≠ wire.drop (wire.length - 4)) := by
    rintro (h | h)
    · omega
    · exact h hc
  have hshared : ¬ (macsecShared s p wire && (secTag wire).isSome) = true := by simp [macsecShared, hs]
  rw [execFrameReceive_arrives hu hp, if_neg hfcs, if_neg (by omega), if_neg (by omega), if_neg hshared,
    checkFrame_plain hs]

/-- Where MACsec does not work on it, a frame leaves as it is (R288). -/
theorem macsecTx_plain {p : Nat} {an : Option Nat} {bs : List Byte} {s : State} (h : macsecOn s p bs = false) :
    macsecTx p an bs s = (some bs, s) := if_pos h

/-- Port `p` after the end of a transmission: it sends nothing, and a T1S port has used one of its frames (R283). -/
def txEnded (p : Nat) (s : State) : State :=
  State.withEth (s.withSwc (fun w => { w with tx := tput none w.tx p none })) (fun e =>
    { e with plca := tput 0 e.plca p (tget 0 e.plca p - 1) })

/-- A copy in transmission on an Ethernet port without MACsec is sent whole, and leaves its queue. -/
theorem transmitted_plain {p ago : Nat} {c : Copy} {f : Frame} {s u : State} (hu : cutAtEnd p s = u)
    (hc : tget none u.swc.tx p = some c) (hf : findFrame u c.frame = some f) (hp : p ≤ 17)
    (hplca : 14 ≤ p → tget 0 u.eth.plca p ≠ 0) (hm : macsecOn (txEnded p u) p (egressForm f c).1 = false)
    (he : (egressForm f c).2 = false) (hw : u.eth.shared.contains (.tx p) = false) : transmitted p none ago s =
      showQueue c.queue (releaseCopy c (sendCopy c f (egressForm f c).1 false ago (txEnded p u))) := by
  have hturn : ¬ ((14 ≤ p ∧ p ≤ 17 ∧ tget 0 u.eth.plca p = 0) ∨ u.eth.shared.contains (.tx p) = true) := by
    rintro (⟨h, -, h0⟩ | h)
    · exact hplca h h0
    · exact Bool.false_ne_true (hw.symm.trans h)
  unfold transmitted
  simp only [hu, hc, hf, he]
  rw [if_neg hturn, if_neg Bool.false_ne_true, if_neg (by omega)]
  unfold txEnded at hm ⊢
  rw [macsecTx_plain hm]
  rfl

/-! ### Timestamps and the IC rings (R287, R294) -/

/-- A permitted read of TXTS_NS pops the oldest timestamp. -/
theorem execTxtsPop_oldest {m p : Nat} {x : TxStamp} {r : List TxStamp} {s : State}
    (hm : MayRead s m 8 (.bit p) = true) (hq : tget [] s.eth.txts p = x :: r) : execTxtsPop m p s =
      .next ((State.sf (State.sf (State.wr (s.withEth (fun e => { e with txts := tput [] e.txts p r })) (ethPort p 0x30)
        (BitVec.ofNat 32 x.sec)) (ethPort p 0x34) 15 0 (x.sec / 2 ^ 32)) (ethPort p 0x34) 27 16 x.tag).reply m
          [BitVec.ofNat 32 (x.ns + 2 ^ 31)] false) := by
  unfold execTxtsPop
  rw [withRead_ok hm]
  simp only [hq]

/-- Registers of one IC ring at different offsets are different. -/
theorem icReg_ne (tx : Bool) (n : Nat) {o p : Nat} (h : o ≠ p) : icReg tx n o ≠ icReg tx n p := by
  simp only [icReg, rg_eq]
  omega

/-- A ring has at most 2^15 slots, so that its indices fit their fields. -/
theorem icSlots_le (s : State) (tx : Bool) (n : Nat) : icSlots s tx n ≤ 2 ^ 15 := by
  refine Nat.pow_le_pow_right (by decide) (Nat.le_of_lt_succ ?_)
  exact Nat.mod_lt _ (by decide)

/-- A tail below the number of slots, written to an enabled ring, has its frames taken up to it. -/
theorem icServe_tail {n : Nat} {v : Word} {s t : State} (hv : v.toNat < icSlots s true n)
    (he : s.bit (icReg true n 8) 0 = true)
    (ht : icTake n v.toNat (icSlots s true n) (s.wr (icReg true n 0x10) v) = some t) :
    icServe n (s.wr (icReg true n 0x10) v) = .ok t := by
  have hcfg : (s.wr (icReg true n 0x10) v).rd (icReg true n 8) = s.rd (icReg true n 8) :=
    State.rd_wr_ne s v (icReg_ne true n (by decide))
  have hen : (s.wr (icReg true n 0x10) v).bit (icReg true n 8) 0 = true := by rwa [State.bit, hcfg]
  have hslots : icSlots (s.wr (icReg true n 0x10) v) true n = icSlots s true n := by
    rw [icSlots, icSlots, State.f, State.f, hcfg]
  have htail : (s.wr (icReg true n 0x10) v).f (icReg true n 0x10) 15 0 = v.toNat := by
    have hle := icSlots_le s true n
    rw [State.f, State.rd_wr_same, fld, Nat.shiftRight_zero]
    omega
  unfold icServe
  rw [if_pos hen, htail, hslots, ht]

/-- A permitted write of a TAIL that names a slot is served. -/
theorem execIcTxDoorbell_permitted {m n : Nat} {v : Word} {s : State} (hm : MayWrite s m 8 (.bit (32 + n)) = true)
    (hn : n ≤ 31) (hv : v.toNat < icSlots s true n) :
    execIcTxDoorbell m n v s = .next (settle m s (icServe n (s.wr (icReg true n 0x10) v))) := by
  unfold execIcTxDoorbell
  rw [withWrite_ok hm, if_neg (by omega), if_neg (by omega)]

/-- Settles O37: the MAC's checks in their order; a transmission's end; a pop; and a ring's frames up to the tail. -/
theorem framesArriveAndLeave : Obligations.FramesArriveAndLeave := by
  refine ⟨?_, ?_, ?_, ?_, ?_, ?_, ?_⟩
  · rintro p ago wire s hu hp ⟨-, hc⟩
    exact (execFrameReceive_arrives hu hp).trans (congrArg _ (if_pos (.inr hc)))
  · rintro p ago wire s hu hp ⟨h4, hl, hc⟩
    refine (execFrameReceive_arrives hu hp).trans (congrArg _ ?_)
    rw [if_neg (by simp [hc, h4]), if_pos hl]
  · rintro p ago wire s hu hp ⟨hl, hc⟩ hx
    refine (execFrameReceive_arrives hu hp).trans (congrArg _ ?_)
    rw [if_neg (by simp [hc]; omega), if_neg (by omega), if_pos hx]
  · rintro p ago wire s hu hp ⟨hl, hc⟩ hx hs
    exact execFrameReceive_good hu hp hl hc hx hs
  · rintro p ago c f s u t ⟨hu, hcut⟩ ⟨hc, hf⟩ ⟨hp, hplca⟩ rfl hm ⟨he, hw⟩
    exact (act_up hu).trans (congrArg _ (transmitted_plain hcut.symm hc hf hp hplca hm he hw))
  · intro m p x r s hm hq
    exact execTxtsPop_oldest hm hq
  · rintro m n v s t hm ⟨hn, hv⟩ he ht
    refine (execIcTxDoorbell_permitted hm hn hv).trans ?_
    rw [icServe_tail hv he ht]
    rfl

end Sys2Proof.Machine
end

section
namespace Sys2Proof.Machine

/-! ### SWC opcodes (R143, R156–R158, R162–R167)

`<eff>_ok` says what an opcode's execution answers where the payload has the form that its checks ask for. -/

theorem effSwcSetShared_ok {c : Cmd} {s : State} (hsum : reserveSum s + c.p 32 4 + c.p 36 4 ≤ 98304)
    (ht : 1 ≤ c.p 40 4 ∧ c.p 40 4 ≤ 1000) : effSwcSetShared c s =
      .ok (((s.wr (rg 4 0x10) (c.w 32)).wr (rg 4 0x14) (c.w 36)).wr (rg 4 0x20) (c.w 40)) [] 0 := by
  unfold effSwcSetShared
  simp only
  rw [if_neg (by omega), if_neg (by omega)]
  rfl

theorem effSwcSetQueue_ok {c : Cmd} {s t : State} (hl : 1 ≤ c.p 36 4 ∧ c.p 36 4 ≤ 98304 ∧ c.p 32 4 ≤ c.p 36 4)
    (ht : t = (setCharge c.inst (charge s c.inst) (c.p 32 4) s).wr (swcQueue c.inst 4) (c.w 36))
    (ha : areaSum t ≤ 98304) : effSwcSetQueue c s = .ok t [] 0 := by
  unfold effSwcSetQueue
  simp only
  rw [if_neg (by omega), if_neg (by omega), ← ht, if_neg (by omega)]
  rfl

theorem effSwcSetPort_ok {c : Cmd} {s : State} (hv : swcPortForm (c.w 32) = true) (hm : c.p 36 4 < 2 ^ 24) :
    effSwcSetPort c s = .ok (setPortCfg c.inst (c.w 32) (s.wr (swcPort c.inst 4) (c.w 36))) [] 0 := by
  simp only [swcPortForm, Bool.and_eq_true, bne_iff_ne, beq_iff_eq, decide_eq_true_eq] at hv
  obtain ⟨⟨⟨haccept, hpvid⟩, hpvid'⟩, hreserved⟩ := hv
  unfold effSwcSetPort
  simp only
  rw [if_neg (by simp [hreserved]), if_neg (by omega), if_neg (by omega), if_neg haccept]
  rfl

/-- A VID of 1 to 4,094 leads on with the payload's key. -/
theorem fdbKey_ok {c : Cmd} {k : Nat → List Byte → CmdOut} (hv : 1 ≤ c.p 38 2 ∧ c.p 38 2 ≤ 4094) :
    fdbKey c k = k (c.p 38 2) (slice c.payload 0 6) := if_neg (by omega)

theorem effSwcFdbWrite_ok {c : Cmd} {s : State} {w : Nat} (hv : 1 ≤ c.p 38 2 ∧ c.p 38 2 ≤ 4094)
    (hp : c.p 40 4 < 2 ^ 21 ∧ unfittedOf s (c.p 40 4) = none ∧
      (bitsOf (c.p 40 4) 21).all (fun p => (s.aclEntry 4 c.issuer).mask.getLsbD p) = true)
    (hw : (fdbWay s (c.p 38 2) (slice c.payload 0 6)).or ((List.range 4).find? (fun w =>
      (tget none s.swc.fdb (fdbBucket (c.p 38 2) (slice c.payload 0 6) * 4 + w)).isNone)) = some w) :
    effSwcFdbWrite c s = .ok (s.withSwc (fun x => { x with
      fdb := tput none x.fdb (fdbBucket (c.p 38 2) (slice c.payload 0 6) * 4 + w)
        (some ⟨c.p 38 2, slice c.payload 0 6, c.p 40 4⟩) })) [] 0 := by
  obtain ⟨hreserved, hfitted, hmask⟩ := hp
  unfold effSwcFdbWrite
  rw [fdbKey_ok hv, portSetCheck_ok hreserved hfitted hmask]
  simp only [hw]
  rfl

theorem effSwcFdbDelete_ok {c : Cmd} {s : State} {w : Nat} (hv : 1 ≤ c.p 38 2 ∧ c.p 38 2 ≤ 4094)
    (hw : fdbWay s (c.p 38 2) (slice c.payload 0 6) = some w) :
    effSwcFdbDelete c s = .ok (s.withSwc (fun x => { x with
      fdb := tput none x.fdb (fdbBucket (c.p 38 2) (slice c.payload 0 6) * 4 + w) none })) [] 0 := by
  unfold effSwcFdbDelete
  rw [fdbKey_ok hv]
  simp only [hw]
  rfl

theorem effSwcFdbRead_ok {c : Cmd} {s : State} {e : Fdb} (hv : 1 ≤ c.p 38 2 ∧ c.p 38 2 ≤ 4094)
    (he : (fdbWay s (c.p 38 2) (slice c.payload 0 6)).bind (fun w =>
      tget none s.swc.fdb (fdbBucket (c.p 38 2) (slice c.payload 0 6) * 4 + w)) = some e) :
    effSwcFdbRead c s = .ok s (leBytes 4 e.ports) 0 := by
  unfold effSwcFdbRead
  rw [fdbKey_ok hv]
  simp only [he]
  rfl

theorem effSwcVlanWrite_ok {c : Cmd} {s : State} (hv : 1 ≤ c.p 32 2 ∧ c.p 32 2 ≤ 4094 ∧ c.zero 34 2 = true)
    (hp : ∀ o ∈ [36, 40, 44], c.p o 4 < 2 ^ 21 ∧ unfittedOf s (c.p o 4) = none ∧
      (bitsOf (c.p o 4) 21).all (fun p => (s.aclEntry 4 c.issuer).mask.getLsbD p) = true) :
    effSwcVlanWrite c s = .ok (s.withSwc (fun x => { x with
      vlans := tput Vlan.zero x.vlans (c.p 32 2) ⟨c.p 36 4, c.p 40 4, c.p 44 4⟩ })) [] 0 := by
  have hset : ∀ o ∈ [36, 40, 44], ∀ k, portSetCheck 4 c o s k = k := by
    intro o ho k
    obtain ⟨hreserved, hfitted, hmask⟩ := hp o ho
    exact portSetCheck_ok hreserved hfitted hmask
  unfold effSwcVlanWrite
  simp only
  rw [if_neg (by omega), if_neg (by simp [hv.2.2]), hset 36 (by simp), hset 40 (by simp), hset 44 (by simp)]
  rfl

theorem effSwcFrerWrite_ok {c : Cmd} {s : State}
    (hv : fld (c.w 32) 31 10 = 0 ∧ 2 ≤ fld (c.w 32) 9 4 ∧ fld (c.w 32) 9 4 ≤ 32)
    (hr : 1 ≤ c.p 36 4 ∧ c.p 36 4 ≤ 65535) : effSwcFrerWrite c s = .ok (setFrer c.inst { frerOf s c.inst with
      word := c.w 32, resetMs := c.p 36 4, gen := 0, recov := 0, history := 0, takeAny := true } s) [] 0 := by
  unfold effSwcFrerWrite
  simp only
  rw [if_neg (by simp [hv.1]), if_neg (by omega), if_neg (by omega)]
  rfl

/-- Settles O24: each opcode's execution passes its checks and answers OK with the setting, entry or counters. -/
theorem switchCoreOpcodes : Obligations.SwitchCoreOpcodes := by
  refine ⟨?_, ?_, ?_, ?_, ?_, ?_, ?_, ?_, ?_, ?_, ?_⟩
  · intro ring slot c s0 s h hsum ht
    exact opRow_ok h (effSwcSetShared_ok hsum ht) (by decide) (by simp)
  · intro ring slot c s0 s h hl ha
    exact opRow_ok h (effSwcSetQueue_ok hl rfl ha) (by decide) (by simp)
  · intro ring slot c s0 s h
    exact opRow_ok (eff := effSwcFlushQueue) h rfl (by decide) (by simp)
  · intro ring slot c s0 s h hv hm
    exact opRow_ok h (effSwcSetPort_ok hv hm) (by decide) (by simp)
  · intro ring slot c s0 s w h hv hp hw
    exact opRow_ok h (effSwcFdbWrite_ok hv hp hw) (by decide) (by simp)
  · intro ring slot c s0 s w h hv hw
    exact opRow_ok h (effSwcFdbDelete_ok hv hw) (by decide) (by simp)
  · intro ring slot c s0 s e h hv he
    exact opRow_ok h (effSwcFdbRead_ok hv he) (by decide) (by simp)
  · intro ring slot c s0 s h hv hp
    exact opRow_ok h (effSwcVlanWrite_ok hv hp) (by decide) (by simp)
  · intro ring slot c s0 s h hv hr
    exact opRow_ok h (effSwcFrerWrite_ok hv hr) (by decide) (by simp)
  · intro ring slot c s0 s h
    exact opRow_ok (eff := effSwcFrerCounters) h rfl (by decide) (by simp)
  · intro ring slot c s0 s h
    exact opRow_ok (eff := effSwcPortCounters) h rfl (by decide) (by simp)

end Sys2Proof.Machine
end

section
namespace Sys2Proof.Machine

/-! ### SWC acts on verdicts (R146, R149, R150, R162, R163, R227, R228) -/

/-- A stream's entry reads as it was stored. -/
@[simp] theorem frerOf_setFrer_same (i : Nat) (x : Frer) (s : State) : frerOf (setFrer i x s) i = x :=
  tget_tput_same _ _ _ _

/-- The state after the counts of a verdict on frame `f` that asks for `a`: DROP's reason and the ports that are not
fitted (R169, R190). -/
def verdictCounted (v : Verdict) (f : Frame) (a : Asked) (t : State) : State :=
  countUnfitted f (a.fwd ||| a.mirror)
    (if a.action = 0 then t.cnt (rg 6 (0x1000 + fld (v.words.getD 1 0) 28 21 * 4)) 1 else t)

/-- Those counts leave SWC's tables alone. -/
@[simp] theorem verdictCounted_swc (v : Verdict) (f : Frame) (a : Asked) (t : State) :
    (verdictCounted v f a t).swc = t.swc := by
  rw [verdictCounted, countUnfitted_swc]
  split
  · exact State.cnt_swc _ _ _
  · rfl

/-- A frame that FRER recovery eliminates makes no copy, and its stream's entry is the recovery's. -/
theorem actVerdict_eliminated {v : Verdict} {f : Frame} {t : State} {i : Nat} (hf : findFrame t v.frame = some f)
    (hi : i = fld (v.words.getD 2 0) 24 13) (hstream : bitOf (v.words.getD 2 0) 25 = true)
    (hr : (frerRecover (frerOf t i) f).1 = false) :
    actVerdict v t = noCopies f
      (setFrer i (frerRecover (frerOf t i) f).2.2 (verdictCounted v f (asked t f v.words) t)) := by
  have hentry : frerOf (verdictCounted v f (asked t f v.words) t) i = frerOf t i := by simp [frerOf]
  subst hi
  unfold verdictCounted at hentry ⊢
  simp only [actVerdict, hf, hstream, hentry, hr, if_true, Bool.not_false]

/-- Without a stream and a policer the frame goes to admission. -/
theorem actVerdict_unstreamed {v : Verdict} {f : Frame} {t : State} (hf : findFrame t v.frame = some f)
    (hstream : bitOf (v.words.getD 2 0) 25 = false) (hpolicer : bitOf (v.words.getD 2 0) 12 = false) :
    actVerdict v t = admitFrame f v (asked t f v.words) none false ⟨.pass, none, false⟩
      (verdictCounted v f (asked t f v.words) t) := by
  simp only [actVerdict, hf, hstream, hpolicer, Bool.false_eq_true, if_false, Bool.not_true, reduceCtorEq]
  rfl

/-- Without a stream a policer decides first: red refuses every copy, any other colour leaves it to admission. -/
theorem actVerdict_policed {v : Verdict} {f : Frame} {t u : State} (hf : findFrame t v.frame = some f)
    (hu : u = verdictCounted v f (asked t f v.words) t) (hstream : bitOf (v.words.getD 2 0) 25 = false)
    (hpolicer : bitOf (v.words.getD 2 0) 12 = true) :
    actVerdict v t = if (judge (fld (v.words.getD 2 0) 11 0) f u).1.colour = .red
      then refuseAll f (asked t f v.words) (judge (fld (v.words.getD 2 0) 11 0) f u).2
      else admitFrame f v (asked t f v.words) none false (judge (fld (v.words.getD 2 0) 11 0) f u).1
        (judge (fld (v.words.getD 2 0) 11 0) f u).2 := by
  subst hu
  simp only [actVerdict, hf, hstream, hpolicer, Bool.false_eq_true, if_false, if_true, Bool.not_true]
  rfl

/-- A frame that FRER recovery passes, without a policer, goes to admission; a stream that generates numbers it. -/
theorem actVerdict_recovered {v : Verdict} {f : Frame} {x : Frer} {pop : Bool} {t u : State} {i : Nat}
    (hf : findFrame t v.frame = some f) (hi : i = fld (v.words.getD 2 0) 24 13)
    (hu : u = verdictCounted v f (asked t f v.words) t) (hstream : bitOf (v.words.getD 2 0) 25 = true)
    (hpolicer : bitOf (v.words.getD 2 0) 12 = false) (hr : frerRecover (frerOf t i) f = (true, pop, x)) :
    actVerdict v t = if bitOf x.word 0
      then admitFrame f v (asked t f v.words) (some x.gen) pop ⟨.pass, none, false⟩
        (setFrer i { x with gen := (x.gen + 1) % 65536 } (setFrer i x u))
      else admitFrame f v (asked t f v.words) none pop ⟨.pass, none, false⟩ (setFrer i x u) := by
  have hentry : frerOf u i = frerOf t i := by simp [frerOf, hu]
  subst hi hu
  unfold verdictCounted at hentry ⊢
  cases hgen : bitOf x.word 0 <;>
    simp only [actVerdict, hf, hstream, hpolicer, hentry, hr, hgen, frerOf_setFrer_same, Option.filter, if_true,
      if_false, Bool.false_eq_true, Bool.not_true, reduceCtorEq]

/-- The frames do not depend on the queue of verdicts. -/
theorem findFrame_withVerdicts {r : List Verdict} {s t : State} {id : Nat}
    (ht : t = s.withSwc (fun w => { w with verdicts := r })) : findFrame t id = findFrame s id := by
  rw [ht]
  rfl

/-- The oldest verdict leaves its queue and is acted on. -/
theorem execVerdictAct_oldest {v : Verdict} {r : List Verdict} {s t : State} (hu : s.up = true)
    (hv : s.swc.verdicts = v :: r) (ht : t = s.withSwc (fun w => { w with verdicts := r })) :
    execVerdictAct s = .next (actVerdict v t) := by
  unfold execVerdictAct
  rw [act_up hu]
  simp only [hv, ht]

/-- Settles O25: the oldest verdict by its stream's recovery, then by its policer. -/
theorem switchCoreActsOnVerdicts : Obligations.SwitchCoreActsOnVerdicts := by
  refine ⟨?_, ?_, ?_, ?_, ?_⟩
  · rintro v r f a s t hu hv hf ⟨rfl, rfl⟩ hstream hr
    exact (execVerdictAct_oldest hu hv rfl).trans (congrArg _ (actVerdict_eliminated hf rfl hstream hr))
  · rintro v r f a s t hu hv hf ⟨rfl, rfl⟩ ⟨hstream, hpolicer⟩
    exact (execVerdictAct_oldest hu hv rfl).trans (congrArg _ (actVerdict_unstreamed hf hstream hpolicer))
  · rintro v r f a s t u hu hv hf ⟨ht, rfl⟩ hcounted ⟨hstream, hpolicer⟩ hred
    refine (execVerdictAct_oldest hu hv ht).trans (congrArg _ ?_)
    exact (actVerdict_policed ((findFrame_withVerdicts ht).trans hf) hcounted hstream hpolicer).trans (if_pos hred)
  · rintro v r f a s t u hu hv hf ⟨ht, rfl⟩ hcounted ⟨hstream, hpolicer⟩ hred
    refine (execVerdictAct_oldest hu hv ht).trans (congrArg _ ?_)
    exact (actVerdict_policed ((findFrame_withVerdicts ht).trans hf) hcounted hstream hpolicer).trans (if_neg hred)
  · rintro v r f a x pop i s t u hu hv hf ⟨rfl, rfl, rfl⟩ hcounted ⟨hstream, hpolicer⟩ hr
    exact (execVerdictAct_oldest hu hv rfl).trans
      (congrArg _ (actVerdict_recovered hf rfl hcounted hstream hpolicer hr))

end Sys2Proof.Machine
end

section
namespace Sys2Proof.Machine

/-! ### Lanes, FRER's reset and link-down (R151, R152, R163, R164) -/

/-- A lane that holds item E releases it: the lane expects the next number, and a copy enters its queue. -/
theorem execLaneRelease_holds {p stream : Nat} {l : Lane} {c : Option Copy} {s : State} (hu : s.up = true)
    (hl : lane s p stream = l) (he : l.items.find? (fun i => i.1 == l.e) = some (l.e, c)) :
    execLaneRelease p stream s = .next (c.elim id enterQueue
      (setLane p stream ⟨(l.e + 1) % 65536, l.items.filter (fun i => i.1 != l.e)⟩ s)) := by
  unfold execLaneRelease
  rw [act_up hu]
  simp only [hl, he]
  cases c <;> rfl

/-- A lane that holds items, but not E, advances E by the distance to the nearest. -/
theorem execReseqTimeout_waits {p stream d : Nat} {l : Lane} {s : State} (hu : s.up = true)
    (hl : lane s p stream = l) (he : l.items.all (fun i => i.1 != l.e) = true)
    (hd : (l.items.map (fun i => ahead l.e i.1)).min? = some d) : execReseqTimeout p stream s =
      .next ((swcCount p 0x48 (setLane p stream ⟨(l.e + d) % 65536, l.items⟩ s)).raise 4 2) := by
  have hitems : l.items.isEmpty = false := by
    cases h : l.items with
    | nil => simp [h] at hd
    | cons => rfl
  have hany : l.items.any (fun i => i.1 == l.e) = false := by
    rw [List.any_eq_not_all_not]
    simpa using he
  unfold execReseqTimeout
  rw [act_up hu]
  simp only [hl, hitems, hany, Bool.not_false, Bool.and_self, if_true, laneTimeout, hd]

/-- A stream with recovery that does not already take any number has its history reset. -/
theorem execFrerReset_resets {i : Nat} {s : State} (hu : s.up = true)
    (h : i < 4096 ∧ bitOf (frerOf s i).word 1 = true ∧ (frerOf s i).takeAny = false) : execFrerReset i s =
      .next ((setFrer i
        { frerOf s i with takeAny := true, history := 0, resets := sat32 (frerOf s i).resets } s).raise 4 5) :=
  (act_up hu).trans (congrArg _ (if_pos h))

/-- A permitted write of a valid PORT_CFG of a fitted port is stored, with its link-down policy. -/
theorem execLinkdownFlushWrite_valid {m p : Nat} {v : Word} {s : State} (hm : MayWrite s m 4 (.bit p) = true)
    (hp : portFitted s.tier p = true) (hv : swcPortForm v = true) :
    execLinkdownFlushWrite m p v s = .next (setPortCfg p v s) := by
  unfold execLinkdownFlushWrite
  rw [withWrite_ok hm, if_neg (by simp [hp]), if_pos hv]
  rfl

/-- Settles O26: each event has the state that its act needs, which then happens once. -/
theorem lanesFrerAndLinkDown : Obligations.LanesFrerAndLinkDown := by
  refine ⟨?_, ?_, ?_, ?_, ?_⟩
  · intro p stream c s hu he
    exact execLaneRelease_holds hu rfl he
  · intro p stream s hu he
    exact execLaneRelease_holds hu rfl he
  · intro p stream d s hu he hd
    exact execReseqTimeout_waits hu rfl he hd
  · intro stream s hu h
    exact execFrerReset_resets hu h
  · intro m p v s hm hp hv
    exact execLinkdownFlushWrite_valid hm hp hv

end Sys2Proof.Machine
end

section
namespace Sys2Proof.Machine

/-! ### Addan instructions that are ready (R172, R178–R184, R194) -/

/-- The row of an instruction that is ready performs the instruction's own action. -/
theorem act_issue_ready {c op : Nat} {i : Addan} {f : Frame} {r : Run} {s : State}
    (h : AddanReady c op i f r s = true) (g : Addan → Frame → Run → State → State) :
    act (issue c op g) s = .next (g i f r (engCount c 4 s)) := by
  rw [act_up (addanReady_up h), issue_ready h]

/-- A ready instruction that changes its run alone does so in one step of its context. -/
theorem issueRun_ready {c op : Nat} {i : Addan} {f : Frame} {r : Run} {s : State}
    (h : AddanReady c op i f r s = true) (g : Addan → Frame → Run → Run) :
    issueRun c op g s = .next (AddanStep c (g i f r) s) :=
  act_issue_ready h _

/-- A ready arithmetic or logic instruction writes its opcode's result into g[D]. -/
theorem issueRun_aluRun {c op : Nat} {i : Addan} {f : Frame} {r : Run} {s : State}
    (h : AddanReady c op i f r s = true) : issueRun c op aluRun s =
      .next (AddanStep c (r.setReg i.d (aluResult op (r.reg i.a) (i.x r))) s) := by
  rw [issueRun_ready h, aluRun, addanReady_op h]

/-- The branch target of a ready BR is an instruction of the bank. -/
theorem addanReady_target {c : Nat} {i : Addan} {f : Frame} {r : Run} {s : State}
    (h : AddanReady c 24 i f r s = true) : i.imm < 8192 := by
  have hop := addanReady_op h
  simp only [AddanReady, Bool.and_eq_true, decide_eq_true_eq] at h
  obtain ⟨⟨⟨⟨⟨⟨-, hdecode⟩, -⟩, -⟩, -⟩, -⟩, -⟩ := h
  exact decodeAddan_target hdecode hop

/-- BR sets the pc one below TARGET, modulo the bank, so that issuing brings it to TARGET. -/
theorem execBr_ready {c : Nat} {i : Addan} {f : Frame} {r : Run} {s : State} (h : AddanReady c 24 i f r s = true) :
    execBr c s = .next (prsSetRun c
      { r with pc := if branchTaken r i.d i.a then i.imm else (r.pc + 1) % 8192, icount := r.icount + 1 }
      (engCount c 4 s)) := by
  refine (issueRun_ready h _).trans ?_
  cases branchTaken r i.d i.a with
  | false => rfl
  | true =>
    have htarget : ((i.imm + 8191) % 8192 + 1) % 8192 = i.imm := by have := addanReady_target h; omega
    simp only [AddanStep, if_true, htarget]

/-- Settles O27: a ready instruction changes its run alone, the seven arithmetic and logic ones by the result of their
opcode; BR by whether its branch is taken. -/
theorem addanRegisterInstructions : Obligations.AddanRegisterInstructions :=
  ⟨fun _ _ _ _ _ hadd => issueRun_aluRun hadd,
    fun _ _ _ _ _ hsub => issueRun_aluRun hsub,
    fun _ _ _ _ _ hand => issueRun_aluRun hand,
    fun _ _ _ _ _ hor => issueRun_aluRun hor,
    fun _ _ _ _ _ hxor => issueRun_aluRun hxor,
    fun _ _ _ _ _ hshl => issueRun_aluRun hshl,
    fun _ _ _ _ _ hshr => issueRun_aluRun hshr,
    fun _ _ _ _ _ hmovi => issueRun_ready hmovi _,
    fun _ _ _ _ _ hmovhi => issueRun_ready hmovhi _,
    fun _ _ _ _ _ hext => issueRun_ready hext _,
    fun _ _ _ _ _ hcmp => issueRun_ready hcmp _,
    fun _ _ _ _ _ hadv => issueRun_ready hadv _,
    fun _ _ _ _ _ hldm => issueRun_ready hldm _,
    fun _ _ _ _ _ hstm => issueRun_ready hstm _,
    fun _ _ _ _ _ hputk => issueRun_ready hputk _,
    fun _ _ _ _ _ hbr => execBr_ready hbr⟩

end Sys2Proof.Machine
end

section
namespace Sys2Proof.Machine

/-! ### Loads, lookups, scans and the record (R179, R185–R193, R226) -/

/-- LD within the frame writes the loaded bytes into g[D]. -/
theorem execLd_within {c : Nat} {i : Addan} {f : Frame} {r : Run} {s : State} (h : AddanReady c 12 i f r s = true)
    (hw : (loadWindow f (r.cursor + (i.x r).toNat) (2 ^ i.a)).2 = false) : execLd c s =
      .next (AddanStep c (r.setReg i.d (loadWindow f (r.cursor + (i.x r).toNat) (2 ^ i.a)).1) s) := by
  refine (act_issue_ready h _).trans ?_
  simp only [hw, Bool.false_eq_true, if_false, Bool.or_false]
  rfl

/-- LD beyond the frame also counts the overread, and the run remembers it. -/
theorem execLd_beyond {c : Nat} {i : Addan} {f : Frame} {r : Run} {s : State} (h : AddanReady c 12 i f r s = true)
    (hw : (loadWindow f (r.cursor + (i.x r).toNat) (2 ^ i.a)).2 = true) : execLd c s = .next (prsSetRun c
      ({ r.setReg i.d (loadWindow f (r.cursor + (i.x r).toNat) (2 ^ i.a)).1 with overread := true }).issued
      (engCount c 0x18 (engCount c 4 s))) := by
  refine (act_issue_ready h _).trans ?_
  simp only [hw, if_true, Bool.or_true]

/-- VLOAD copies the fields of the entry it finds into the record; where it finds none, the record stays. -/
theorem execVload_ready {c : Nat} {i : Addan} {f : Frame} {r : Run} {e : Option VerdictEntry} {s : State}
    (h : AddanReady c 20 i f r s = true)
    (he : (verdictLoad r.t.pour (fld (i.x r) 30 0) (engCount c 4 s)).1 = e) : execVload c s = .next (prsSetRun c
      ({ r with words := e.elim r.words (vload · r.words) }).issued
      (verdictLoad r.t.pour (fld (i.x r) 30 0) (engCount c 4 s)).2) := by
  refine (act_issue_ready h _).trans ?_
  simp only [he]
  cases e <;> rfl

/-- A scan joins the waiting scans of its frame's kind, once those of earlier cycles have taken the free units. The
instruction counter and the run do not move the clock that dates it. -/
theorem execScan_ready {c : Nat} {i : Addan} {f : Frame} {r : Run} {s : State} (h : AddanReady c 19 i f r s = true) :
    execScan c s = .next ((settleUnits (fclk s) (AddanStep c
      { r with scans := r.scans + 1, pend := r.pend ++ [Pend.scan i.d r.scans (r.reg i.a).toNat i.imm] } s)).withPrs
      (fun p => if r.t.express then
        { p with waitExpress := queueScan ⟨c, r.scans, scanCycles f (r.reg i.a).toNat, fclk s⟩ p.waitExpress } else
        { p with waitNormal := queueScan ⟨c, r.scans, scanCycles f (r.reg i.a).toNat, fclk s⟩ p.waitNormal })) :=
  act_issue_ready h _

/-- The oldest pending work, where it is a lookup, lands in its register. -/
theorem execLookupResult_oldest {c d : Nat} {r : Run} {w : Word} {rest : List Pend} {s : State} (hu : s.up = true)
    (hr : (ctxOf s c).run = some r) (hp : r.pend = Pend.look d w :: rest) :
    execLookupResult c s = .next (prsSetRun c { r.setReg d w with pend := rest } s) := by
  unfold execLookupResult
  rw [act_up hu]
  simp only [hr, hp, firstPend, if_true]

/-- The context's scan that ends first lands in its register and frees its pattern unit for those that wait. -/
theorem execScanResult_lands {c d start group : Nat} {x : Scan} {r : Run} {f : Frame} {rest : List Pend} {s u : State}
    (hu : s.up = true) (hs : u = fillUnits 0 4 s) (hr : (ctxOf u c).run = some r)
    (hx : firstEnd (u.prs.units.filter (fun y => y.ctx == c)) = some x) (hf : findFrame u r.t.frame = some f)
    (hp : r.pend = Pend.scan d x.n start group :: rest) : execScanResult c none s =
      .next (fillUnits x.at_ 4 ((prsSetRun c
        { r.setReg d (scanWord r.t.pour group start f u) with pend := rest } u).withPrs (fun p =>
        { p with units := p.units.erase x }))) := by
  subst hs
  unfold execScanResult
  rw [act_up hu]
  simp only [hr, hx, hf, hp, firstPend, beq_self_eq_true, if_true]

/-- A tile whose check failed ends the run, and the frame is dropped whole. -/
theorem execScanResult_failedTile {c tile : Nat} {x : Scan} {r : Run} {f : Frame} {s u : State}
    (hu : s.up = true) (hs : u = fillUnits 0 4 s) (hr : (ctxOf u c).run = some r)
    (hx : firstEnd (u.prs.units.filter (fun y => y.ctx == c)) = some x) (hf : findFrame u r.t.frame = some f) :
    execScanResult c (some tile) s =
      .next (endRun c (dropFrame f (tcwFail f.port f.tiles[tile]? (maxPath c r.icount u)))) := by
  subst hs
  unfold execScanResult
  rw [act_up hu]
  simp only [hr, hx, hf]
  rfl

/-- Settles O28: each ready instruction performs its own action; a result lands where its work is pending. -/
theorem addanFrameLookupAndRecordInstructions : Obligations.AddanFrameLookupAndRecordInstructions :=
  ⟨fun _ _ _ _ _ hld hwithin => execLd_within hld hwithin,
    fun _ _ _ _ _ hld hbeyond => execLd_beyond hld hbeyond,
    fun _ _ _ _ _ hlkf => act_issue_ready hlkf _,
    fun _ _ _ _ _ hlka => act_issue_ready hlka _,
    fun _ _ _ _ _ hscan => execScan_ready hscan,
    fun _ _ _ _ _ _ hvload hfound => execVload_ready hvload hfound,
    fun _ _ _ _ _ hvload hmissed => execVload_ready hvload hmissed,
    fun _ _ _ _ _ hvset => issueRun_ready hvset _,
    fun _ _ _ _ _ hcnt => act_issue_ready hcnt _,
    fun _ _ _ _ _ hdone => act_issue_ready hdone _,
    fun _ _ _ _ _ _ hu hr hp => execLookupResult_oldest hu hr hp,
    fun _ _ _ _ _ _ _ _ _ _ hu hr hx hf hp => execScanResult_lands hu.1 hu.2 hr hx hf hp,
    fun _ _ _ _ _ _ _ hu hr hx hf => execScanResult_failedTile hu.1 hu.2 hr hx hf⟩

end Sys2Proof.Machine
end

section
namespace Sys2Proof.Machine

/-! ### Stops, stalls and the express budget (R187, R194, R195) -/

/-- With 512 instructions issued the watchdog stops the frame, whatever the next instruction is. -/
theorem execWatchdogStop_spent {c : Nat} {r : Run} {s : State} (hu : s.up = true) (hr : (ctxOf s c).run = some r)
    (hi : 512 ≤ r.icount) : execWatchdogStop c s = .next (stopRun c r 0xC 0 s) := by
  unfold execWatchdogStop
  rw [act_up hu]
  simp only [hr, hi, if_true]

/-- A word that is no legal instruction stops the frame. -/
theorem execWatchdogStop_illegal {c : Nat} {r : Run} {s : State} (hu : s.up = true) (hr : (ctxOf s c).run = some r)
    (hi : r.icount < 512) (hw : decodeAddan (instrWord s (r.t.bank.getD 0) r.pc) = none) :
    execWatchdogStop c s = .next (stopRun c r 0x10 1 s) := by
  unfold execWatchdogStop
  rw [act_up hu]
  simp only [hr, Nat.not_le.mpr hi, if_false, hw, Option.isNone_none, if_true]

/-- The watchdog goes before an instruction's own action. -/
theorem issue_spent {c op : Nat} {g : Addan → Frame → Run → State → State} {r : Run} {s : State}
    (hr : (ctxOf s c).run = some r) (hop : fld (instrWord s (r.t.bank.getD 0) r.pc) 31 26 = op)
    (hi : 512 ≤ r.icount) : issue c op g s = stopRun c r 0xC 0 s := by
  unfold issue
  simp only [hr, hop, hi, ne_eq, not_true_eq_false, if_false, if_true]

/-- An instruction that stalls issues nothing, and the stall is counted. -/
theorem issue_stalls {c op : Nat} {g : Addan → Frame → Run → State → State} {i : Addan} {f : Frame} {r : Run}
    {s : State} (hr : (ctxOf s c).run = some r) (hop : fld (instrWord s (r.t.bank.getD 0) r.pc) 31 26 = op)
    (hd : decodeAddan (instrWord s (r.t.bank.getD 0) r.pc) = some i) (hi : r.icount < 512)
    (hf : findFrame s r.t.frame = some f) (hs : r.stalls i = true) : issue c op g s = engCount c 8 s := by
  unfold issue
  simp only [hr, hop, hd, hf, hs, Nat.not_le.mpr hi, ne_eq, not_true_eq_false, if_false, if_true]

/-- The first instruction over the express budget is counted; PRS.CFG says whether the frame is stopped or goes on. -/
theorem execExpressOver_first {c : Nat} {i : Addan} {r : Run} {s : State} (hu : s.up = true)
    (hr : (ctxOf s c).run = some r) (hd : decodeAddan (instrWord s (r.t.bank.getD 0) r.pc) = some i)
    (hx : r.icount < 512 ∧ exceeds r i = true ∧ r.overBudget = false ∧ r.stalls i = false ∧
      operandIllegal r i = false) : execExpressOver c s = .next (if s.bit (rg 5 8) 1
        then finishRun c r (stopRecord r (countOver c s)) (countOver c s)
        else prsSetRun c { r with overBudget := true } (countOver c s)) := by
  unfold execExpressOver
  rw [act_up hu]
  simp only [hr, hd, if_pos hx, countOver_bit]

/-! ### Taking frames (R173, R174, R176, R198) -/

/-- An idle context takes from an express queue where an express frame waits. -/
theorem takesFrom_express {s : State} {c : Nat} (hc : c < 64 ∧ engineFitted s.tier (c / 8) = true)
    (hr : (ctxOf s c).run = none) (hw : frameWaits s 1 = true) : takesFrom s c = some 1 := by
  simp [takesFrom, hc.1, hc.2, hr, hw]

/-- Where only a normal frame waits, a context with room for it that is not express-only takes from a normal queue. -/
theorem takesFrom_normal {s : State} {c : Nat} (hc : c < 64 ∧ engineFitted s.tier (c / 8) = true)
    (hr : (ctxOf s c).run = none ∨ (ctxOf s c).next = none)
    (hw : frameWaits s 1 = false ∧ frameWaits s 0 = true ∧ c % 8 ≠ 7) : takesFrom s c = some 0 := by
  obtain ⟨hnoExpress, hnormal, hshared⟩ := hw
  rcases hr with hidle | hroom
  · simp [takesFrom, hc.1, hc.2, hnoExpress, hnormal, hshared, hidle]
  · simp [takesFrom, hc.1, hc.2, hnoExpress, hnormal, hshared, hroom]

/-- A lower context that takes from the same kind of queue chooses first. -/
theorem outChosen_of_lower {s : State} {c d k : Nat} (hd : d < c) (hk : takesFrom s d = some k) :
    outChosen s c k = true :=
  List.any_eq_true.mpr ⟨d, List.mem_range.mpr hd, by simp [hk]⟩

/-- A frame taken under the state's current pour, to run from `bank`. -/
def takenFrame (s : State) (f kind : Nat) (bad : Bool) (bank : Option Nat) : Taken :=
  ⟨f, bad, (currentPour s).map Prod.fst, (currentPour s).map Prod.snd, kind == 1, bank, s.f (rg 5 4) 28 16⟩

/-- The state after the head of port `p`'s queue of a kind has been taken and `rest` is left of it: the round robin of
the kind stands at `p`. -/
def headTaken (s : State) (p kind : Nat) (rest : List Nat) : State :=
  (s.withSwc (fun w => { w with fifo := tput [] w.fifo (p * 2 + kind) rest })).withPrs
    (fun x => if kind = 1 then { x with rrExpress := p } else { x with rrNormal := p })

/-- The contexts do not depend on the queues of frames. -/
@[simp] theorem ctxOf_headTaken (s : State) (p kind : Nat) (rest : List Nat) (c : Nat) :
    ctxOf (headTaken s p kind rest) c = ctxOf s c := by
  unfold headTaken
  split <;> rfl

/-- The round robin of a kind picks the queue whose head is taken, to run from the active bank. -/
theorem takeFrame_head {s : State} {p f kind : Nat} {rest : List Nat} {bad : Bool} {bank : Option Nat}
    (hp : nextPort s kind (if kind = 1 then s.prs.rrExpress else s.prs.rrNormal) = some p)
    (hf : fifoOf s p kind = f :: rest) (hb : activeBank s = bank) :
    takeFrame kind bad s = some (takenFrame s f kind bad bank, headTaken s p kind rest) := by
  simp only [takeFrame, takeHead, hp, hf, hb, Option.map_some]
  rfl

/-- A context whose turn it is takes the head of the queue and holds it. -/
theorem execFrameTake_head {s : State} {c p f kind : Nat} {rest : List Nat} {bad : Bool} {bank : Option Nat}
    (hu : s.up = true) (hk : takesFrom s c = some kind) (ho : outChosen s c kind = false)
    (hp : nextPort s kind (if kind = 1 then s.prs.rrExpress else s.prs.rrNormal) = some p)
    (hf : fifoOf s p kind = f :: rest) (hb : activeBank s = bank) : execFrameTake c bad s =
      .next (holdTaken c (takenFrame s f kind bad bank) (headTaken s p kind rest)) := by
  unfold execFrameTake
  rw [act_up hu]
  simp only [hk, ho, takeFrame_head hp hf hb, Bool.false_eq_true, if_false]

/-- Where a lower context takes from the same kind of queue, the row does nothing. -/
theorem execFrameTake_outChosen {s : State} {c kind : Nat} {bad : Bool} (hu : s.up = true)
    (hk : takesFrom s c = some kind) (ho : outChosen s c kind = true) : execFrameTake c bad s = .next s := by
  unfold execFrameTake
  rw [act_up hu]
  simp only [hk, ho, if_true]

/-- An idle context runs the frame that it has taken. -/
theorem holdTaken_idle {c : Nat} {t : Taken} {s : State} (hb : t.bank.isSome) (hr : (ctxOf s c).run = none) :
    holdTaken c t s = showRul (showBanks (loadRun c t none s)) := by
  unfold holdTaken
  rw [if_neg (by simp [Option.isSome_iff_ne_none.mp hb]), if_pos (by simp [hr])]

/-- A context that runs a frame keeps the taken one in its second buffer. -/
theorem holdTaken_running {c : Nat} {r : Run} {t : Taken} {s : State} (hb : t.bank.isSome)
    (hr : (ctxOf s c).run = some r) : holdTaken c t s = showRul (showBanks (setCtx c ⟨some r, some t⟩ s)) := by
  unfold holdTaken
  rw [if_neg (by simp [Option.isSome_iff_ne_none.mp hb]), if_neg (by simp [hr]), ← hr]

/-- Without an active bank the frame is handed on as a DROP record. -/
theorem holdTaken_noBank {c : Nat} {t : Taken} {s : State} (hb : t.bank = none) :
    holdTaken c t s = handVerdict c t recDrop ((s.cnt (rg 5 0xC) 1).raise 5 3) :=
  if_pos (by simp [hb])

/-- Settles O29: each stop by the check that comes first; a frame by the queue the context takes from, the bank and
whether the context runs a frame. -/
theorem addanStopsAndFrameTaking : Obligations.AddanStopsAndFrameTaking := by
  refine ⟨?_, ?_, ?_, ?_, ?_, ?_, ?_, ?_, ?_, ?_, ?_, ?_⟩
  · intro c r s hu hr hi
    exact execWatchdogStop_spent hu hr hi
  · intro c r s hu hr hi hw
    exact execWatchdogStop_illegal hu hr hi hw
  · intro c r s hu hr hop hi
    exact (act_up hu).trans (congrArg _ (issue_spent hr hop hi))
  · intro c i f r s hu hr ⟨hop, hd⟩ hi hf hs
    exact (act_up hu).trans (congrArg _ (issue_stalls hr hop hd hi hf hs))
  · intro c i r s hu hr hd hx hgoesOn
    exact (execExpressOver_first hu hr hd hx).trans (congrArg _ (if_neg (by simp [hgoesOn])))
  · intro c i r s hu hr hd hx henforced
    exact (execExpressOver_first hu hr hd hx).trans (congrArg _ (if_pos henforced))
  · intro c p b bad f rest s hu hc hr ⟨hw, ho⟩ ⟨hp, hf⟩ hb
    refine (execFrameTake_head hu (takesFrom_express hc hr hw) ho hp hf hb).trans (congrArg _ ?_)
    exact holdTaken_idle rfl (by simpa using hr)
  · intro c p b bad f rest s hu hc hr ⟨hw, ho⟩ ⟨hp, hf⟩ hb
    refine (execFrameTake_head hu (takesFrom_normal hc (.inl hr) hw) ho hp hf hb).trans (congrArg _ ?_)
    exact holdTaken_idle rfl (by simpa using hr)
  · intro c p b bad f r rest s hu hc ⟨hr, hn⟩ ⟨hw, ho⟩ ⟨hp, hf⟩ hb
    refine (execFrameTake_head hu (takesFrom_normal hc (.inr hn) hw) ho hp hf hb).trans (congrArg _ ?_)
    exact holdTaken_running rfl (by simpa using hr)
  · intro c p bad f rest s hu hc hr ⟨hw, ho⟩ ⟨hp, hf⟩ hb
    refine (execFrameTake_head hu (takesFrom_express hc hr hw) ho hp hf hb).trans (congrArg _ ?_)
    exact holdTaken_noBank rfl
  · intro c p bad f rest s hu hc hr ⟨hw, ho⟩ ⟨hp, hf⟩ hb
    refine (execFrameTake_head hu (takesFrom_normal hc (.inl hr) hw) ho hp hf hb).trans (congrArg _ ?_)
    exact holdTaken_noBank rfl
  · intro c d k bad s hu ⟨hd, hkd, hkc⟩
    exact execFrameTake_outChosen hu hkc (outChosen_of_lower hd hkd)

end Sys2Proof.Machine
end

section
namespace Sys2Proof.Machine

/-! ### Changes of a staged pour (R205, R209, R210, R212)

What a change does to an entry, by what stands at its index or way, and what its log takes. -/

/-- While a log and the room that waiting changes keep hold fewer than 16,384 changes, there is room for one more. -/
theorem logFull_one {c : Cmd} {x : Staging} {s : State} (h : x.log.length + keptLog s < 16384) :
    logFull c x 1 s = false := by
  simp only [logFull, Nat.not_lt.mpr (Nat.succ_le_of_lt h), decide_false, Bool.and_false]

/-- A log with room for a change takes it, and the change goes on. -/
theorem logAdd_room {c : Cmd} {x : Staging} {a : Change} {s : State} {k : State → CmdOut}
    (h : x.log.length + keptLog s < 16384) : logAdd c x [a] s k = k (setLog x (x.log ++ [a]) s) :=
  if_neg (by simp [logFull_one h])

section
variable {α : Type} {c : Cmd} {table i name : Nat} {v : α} {e : Entry α} {x : Staging} {s : State}

/-- A write at an empty index stores an entry born in the staged pour, and logs it. -/
theorem indexWrite_empty {put : Entry α → State → State} (h : x.log.length + keptLog s < 16384) :
    indexWrite c table i none v x s put =
      .done (put ⟨v, ⟨some x.pour, none⟩⟩ (setLog x (x.log ++ [⟨table, i, true⟩]) s)) := by
  simp only [indexWrite, logAdd_room h]

/-- A write over an entry born in the staged pour replaces its value alone. -/
theorem indexWrite_born {put : Entry α → State → State} (h : e.marks.birth = some x.pour) :
    indexWrite c table i (some e) v x s put = .done (put ⟨v, e.marks⟩ s) :=
  if_pos h

/-- A write over an entry that dies in another pour waits for that pour's sweep, and keeps its room in the log. -/
theorem indexWrite_dying {d : Nat} {put : Entry α → State → State} (hb : e.marks.birth ≠ some x.pour)
    (hd : e.marks.death = some d) (hx : d ≠ x.pour) (hr : c.running = false) (hl : x.log.length + keptLog s < 16384) :
    indexWrite c table i (some e) v x s put = .wait (markRunning { c with kept := 16 } s) := by
  simp [indexWrite, waitChange, hb, hd, hx, hr, logFull_one hl]

/-- A delete of an entry born in the staged pour removes the entry and its item of the log. -/
theorem entryDelete_born {put : Option (Entry α) → State → State} (h : e.marks.birth = some x.pour) :
    entryDelete c table i name (some e) x s put =
      .done (put none (setLog x (x.log.erase ⟨table, i, true⟩) s)) :=
  if_pos h

/-- A delete of an older entry that is visible and does not die yet marks it to die in the staged pour, and logs it. -/
theorem entryDelete_visible {put : Option (Entry α) → State → State} (hb : e.marks.birth ≠ some x.pour)
    (hv : visibleNow s e = true) (hd : e.marks.death = none) (hl : x.log.length + keptLog s < 16384) :
    entryDelete c table i name (some e) x s put =
      .done (put (some ⟨e.val, ⟨e.marks.birth, some x.pour⟩⟩) (setLog x (x.log ++ [⟨table, i, false⟩]) s)) := by
  simp [entryDelete, hb, hv, hd, logAdd_room hl]

end

/-- Settles O33: a write by what stands at its place, a delete by whether the entry is the staged pour's own. -/
theorem stagedChangesMarkEntries : Obligations.StagedChangesMarkEntries := by
  refine ⟨?_, ?_, ?_, ?_, ?_⟩
  · intro α c table i v x s put hl
    exact indexWrite_empty hl
  · intro α c table i v e x s put hb
    exact indexWrite_born hb
  · rintro α c table i d v e x s put ⟨hb, hd, hx⟩ ⟨hr, hl⟩
    exact indexWrite_dying hb hd hx hr hl
  · intro α c table key name e x s put hb
    exact entryDelete_born hb
  · rintro α c table key name e x s put hb ⟨hv, hd⟩ hl
    exact entryDelete_visible hb hv hd hl

end Sys2Proof.Machine
end

section
namespace Sys2Proof.Machine

/-! ### The change opcodes of RUL (R205, R209, R210, R219–R225, R229)

`<eff>_ok` says what an opcode's execution answers where the payload has the form that its checks ask for. -/

/-- An index below the table's size goes on. -/
theorem withIndex_below {c : Cmd} {size : Nat} {k : Nat → CmdOut} (h : c.p 32 4 < size) :
    withIndex c size k = k (c.p 32 4) := if_neg (by omega)

/-- A key of a defined layout whose words from K on are zero goes on with its layout's K (R219, R221). -/
theorem keyForm_valid {c : Cmd} {s : State} {n : Nat} {k : Nat → CmdOut} (hr : c.running = false)
    (hn : layoutK s (keyLayout (payKey c)) = n) (h0 : n ≠ 0)
    (hz : (List.range 10).find? (fun i => decide (n ≤ i) && (payKey c).getD i 0 != 0) = none) :
    keyForm c s k = k n := by
  unfold keyForm
  simp only [hr, Bool.false_eq_true, if_false, hn, h0, hz]

/-- Under a live or staged pour the visible version of a key answers its result and marks. -/
theorem effRulFlowRead_ok {c : Cmd} {s : State} {k w : Nat} {e : Entry Flow} (hr : c.running = false)
    (hk : layoutK s (keyLayout (payKey c)) = k ∧ k ≠ 0 ∧ (List.range 10).find? (fun i => decide (k ≤ i) &&
      (payKey c).getD i 0 != 0) = none ∧ c.zero 74 2 = true)
    (hp : (s.rul.live.any (fun e => e.2 == c.p 72 2) || s.rul.staged.any (fun x => x.pour == c.p 72 2)) = true)
    (he : (keyWays s (payKey c) (flowBucket (payKey c) k)).find? (fun e => e.2.marks.visible (c.p 72 2)) =
      some (w, e)) :
    effRulFlowRead c s = .ok s (leBytes 4 e.val.result.toNat ++ leBytes 2 (e.marks.birth.getD 0) ++
      leBytes 2 (e.marks.death.getD 0) ++
      leBytes 4 (b2n e.marks.birth.isSome + 2 * b2n e.marks.death.isSome)) 0 := by
  obtain ⟨hn, h0, hz, hreserved⟩ := hk
  unfold effRulFlowRead
  rw [keyForm_valid hr hn h0 hz]
  simp only [hreserved, hp, he]
  rfl

/-- K of an unused layout is stored in the register that holds it (R221). -/
theorem effRulSetLayout_ok {c : Cmd} {s : State}
    (hp : c.zero 34 2 = true ∧ 1 ≤ c.p 32 1 ∧ c.p 32 1 ≤ 15 ∧ c.p 33 1 ≤ 10) (hu : layoutUsed s (c.p 32 1) = false) :
    effRulSetLayout c s = .ok (if c.p 32 1 < 8 then s.sf (rg 6 0x20) (4 * c.p 32 1 + 3) (4 * c.p 32 1) (c.p 33 1)
      else s.sf (rg 6 0x24) (4 * (c.p 32 1 - 8) + 3) (4 * (c.p 32 1 - 8)) (c.p 33 1)) [] 0 := by
  obtain ⟨hreserved, hlo, hhi, hk⟩ := hp
  unfold effRulSetLayout
  simp only
  rw [if_neg (by simp [hreserved]), if_neg (by omega), if_neg (by omega), if_neg (by simp [hu])]
  split <;> rfl

section
variable {c : Cmd} {s : State} {x : Staging}
  (hx : s.rul.staged = some x ∧ x.committing = false ∧ x.owner = c.issuer)
include hx

/-- The owner's change of a pour that is staged and not closed goes on with that pour (R209). -/
theorem withStaged_owner {k : Staging → CmdOut} : withStaged c s k = k x := by
  obtain ⟨hs, hopen, howner⟩ := hx
  simp [withStaged, hs, hopen, howner]

/-- A new key's entry takes the lowest free way of its bucket. -/
theorem effRulFlowAdd_ok {k w : Nat} (hr : c.running = false)
    (hk : layoutK s (keyLayout (payKey c)) = k ∧ k ≠ 0 ∧ (List.range 10).find? (fun i => decide (k ≤ i) &&
      (payKey c).getD i 0 != 0) = none ∧ bitOf (c.w 72) 31 = false)
    (hl : x.log.length + keptLog s < 16384) (hmine : keyWays s (payKey c) (flowBucket (payKey c) k) = [])
    (hw : (List.range 4).find? (fun w => (flowWay s (flowBucket (payKey c) k) w).isNone) = some w) :
    effRulFlowAdd c s = .ok (putFlow (flowBucket (payKey c) k) w (some ⟨⟨payKey c, c.w 72⟩, ⟨some x.pour, none⟩⟩)
      (setLog x (x.log ++ [⟨0, flowBucket (payKey c) k * 4 + w, true⟩]) s))
      (leBytes 4 (flowBucket (payKey c) k) ++ leBytes 1 w ++ [0, 0, 0]) 0 := by
  obtain ⟨hn, h0, hz, hresult⟩ := hk
  unfold effRulFlowAdd
  rw [keyForm_valid hr hn h0 hz, if_neg (by simp [hresult]), withStaged_owner hx]
  simp only [hmine, List.find?_nil, hw]
  exact logAdd_room hl

/-- The version that a delete picks, the staged pour's own before the visible one, is deleted. -/
theorem effRulFlowDelete_ok {k w : Nat} {e : Entry Flow} (hr : c.running = false)
    (hk : layoutK s (keyLayout (payKey c)) = k ∧ k ≠ 0 ∧ (List.range 10).find? (fun i => decide (k ≤ i) &&
      (payKey c).getD i 0 != 0) = none)
    (hpick : ((keyWays s (payKey c) (flowBucket (payKey c) k)).find? (fun e => e.2.marks.birth == some x.pour)).or
      ((keyWays s (payKey c) (flowBucket (payKey c) k)).find? (fun e =>
        visibleNow s e.2 && e.2.marks.death.isNone)) = some (w, e)) :
    effRulFlowDelete c s = entryDelete c 0 (flowBucket (payKey c) k * 4 + w) (flowBucket (payKey c) k) (some e) x s
      (putFlow (flowBucket (payKey c) k) w) := by
  obtain ⟨hn, h0, hz⟩ := hk
  unfold effRulFlowDelete
  rw [keyForm_valid hr hn h0 hz, withStaged_owner hx]
  simp only [hpick]

theorem effRulAclWrite_ok (hi : c.p 32 4 < 8192 ∧ pay320 c 36 &&& pay320 c 76 = pay320 c 36) :
    effRulAclWrite c s = indexWrite c 1 (c.p 32 4) (tget none s.rul.acl (c.p 32 4))
      ⟨pay320 c 36, pay320 c 76, c.w 116⟩ x s (fun e => putAcl (c.p 32 4) (some e)) := by
  unfold effRulAclWrite
  rw [withIndex_below hi.1]
  simp only
  rw [if_neg (by simp [hi.2]), withStaged_owner hx]

theorem effRulPatternWrite_ok {v : Pattern} (hi : c.p 32 4 < 4096 ∧ c.p 38 1 ≤ 1 ∧ c.zero 39 1 = true)
    (hv : v = ⟨c.p 36 1, c.p 37 1, slice c.payload 16 64, c.p 40 8, (c.p 38 1).testBit 0⟩ ∧ patternForm v = true) :
    effRulPatternWrite c s = indexWrite c 2 (c.p 32 4) (tget none s.rul.pats (c.p 32 4)) v x s
      (fun e => putPat (c.p 32 4) (some e)) := by
  obtain ⟨hindex, hflags, hreserved⟩ := hi
  obtain ⟨rfl, hform⟩ := hv
  unfold effRulPatternWrite
  rw [withIndex_below hindex]
  simp only
  rw [if_neg (by omega), if_neg (by simp [hreserved]), if_neg (by rw [hform]; decide), withStaged_owner hx]

/-- A verdict without reserved bits, whose ACTION and VID are defined and whose ports are fitted, is written (R225). -/
theorem effRulVerdictWrite_ok {ws : List Word}
    (hi : c.p 32 4 < 65536 ∧ ws = (List.range 7).map (fun j => c.w (36 + 4 * j)) ∧
      (List.range 7).find? (fun j => ws.getD j 0 &&& recReserved.getD j 0 != 0) = none)
    (haction : (c.p 60 4).testBit 0 = true → fld (ws.getD 0 0) 3 0 ≤ 4)
    (hvid : (c.p 60 4).testBit 6 = true → bitOf (ws.getD 3 0) 12 = true →
      1 ≤ fld (ws.getD 3 0) 11 0 ∧ fld (ws.getD 3 0) 11 0 ≤ 4094)
    (hports : (c.p 60 4).testBit 1 = true → unfittedOf s (fld (ws.getD 0 0) 28 8) = none)
    (hmirror : (c.p 60 4).testBit 3 = true → unfittedOf s (fld (ws.getD 1 0) 20 0) = none) :
    effRulVerdictWrite c s = indexWrite c 3 (c.p 32 4) (tget none s.rul.verdicts (c.p 32 4)) ⟨ws.take 6, c.p 60 4⟩ x s
      (fun e => putVerdict (c.p 32 4) (some e)) := by
  obtain ⟨hindex, rfl, hreserved⟩ := hi
  unfold effRulVerdictWrite
  rw [withIndex_below hindex]
  simp only [hreserved]
  rw [if_neg (fun h => by have := haction h.1; omega), if_neg (fun h => by have := hvid h.1 h.2.1; omega)]
  simp only [ite_eq_right_iff.mpr hports, ite_eq_right_iff.mpr hmirror]
  exact withStaged_owner hx

theorem effRulRewriteWrite_ok (hi : c.p 32 4 < 8192 ∧ rewriteForm (slice c.payload 4 16) = true) :
    effRulRewriteWrite c s = indexWrite c 4 (c.p 32 4) (tget none s.rul.rewrites (c.p 32 4)) (slice c.payload 4 16) x s
      (fun e => putRewrite (c.p 32 4) (some e)) := by
  unfold effRulRewriteWrite
  rw [withIndex_below hi.1]
  simp only
  rw [if_neg (by simp [hi.2]), withStaged_owner hx]

/-- An opcode that deletes at an index deletes what stands there, for the owner of the staged pour. -/
theorem withIndex_entryDelete {α : Type} {size table : Nat} {t : Tab (Option (Entry α))}
    {put : Nat → Option (Entry α) → State → State} (hi : c.p 32 4 < size) :
    withIndex c size (fun i => withStaged c s fun x => entryDelete c table i i (tget none t i) x s (put i)) =
      entryDelete c table (c.p 32 4) (c.p 32 4) (tget none t (c.p 32 4)) x s (put (c.p 32 4)) :=
  (withIndex_below hi).trans (withStaged_owner hx)

end

/-- Settles O32: each opcode's execution passes its checks and is the write or delete at its index or way. -/
theorem ruleTableChanges : Obligations.RuleTableChanges := by
  refine ⟨?_, ?_, ?_, ?_, ?_, ?_, ?_, ?_, ?_, ?_, ?_, ?_⟩
  · rintro ring slot c s0 s x k w h hk ⟨hs, hopen, howner, hl⟩ hmine hw
    exact opRow_ok h (effRulFlowAdd_ok ⟨hs, hopen, howner⟩ (admits_idle h) hk hl hmine hw) (by decide) (by simp)
  · intro ring slot c s0 s x k w e t h hk hx hpick hd
    exact opRow_ok h ((effRulFlowDelete_ok hx (admits_idle h) hk hpick).trans hd) (by decide) (by simp)
  · intro ring slot c s0 s k w e h hk hp he
    exact opRow_ok h (effRulFlowRead_ok (admits_idle h) hk hp he) (by decide) (by simp)
  · intro ring slot c s0 s h hp hu
    exact opRow_ok h (effRulSetLayout_ok hp hu) (by decide) (by simp)
  · intro ring slot c s0 s x t h hi hx hw
    exact opRow_ok h ((effRulAclWrite_ok hx hi).trans hw) (by decide) (by simp)
  · intro ring slot c s0 s x v t h hi hv hx hw
    exact opRow_ok h ((effRulPatternWrite_ok hx hi hv).trans hw) (by decide) (by simp)
  · intro ring slot c s0 s x ws t h hi haction hvid hports hmirror hx hw
    exact opRow_ok h ((effRulVerdictWrite_ok hx hi haction hvid hports hmirror).trans hw) (by decide) (by simp)
  · intro ring slot c s0 s x t h hi hx hw
    exact opRow_ok h ((effRulRewriteWrite_ok hx hi).trans hw) (by decide) (by simp)
  · intro ring slot c s0 s x t h hi hx hd
    exact opRow_ok (eff := effRulAclDelete) h ((withIndex_entryDelete hx hi).trans hd) (by decide) (by simp)
  · intro ring slot c s0 s x t h hi hx hd
    exact opRow_ok (eff := effRulPatternDelete) h ((withIndex_entryDelete hx hi).trans hd) (by decide) (by simp)
  · intro ring slot c s0 s x t h hi hx hd
    exact opRow_ok (eff := effRulVerdictDelete) h ((withIndex_entryDelete hx hi).trans hd) (by decide) (by simp)
  · intro ring slot c s0 s x t h hi hx hd
    exact opRow_ok (eff := effRulRewriteDelete) h ((withIndex_entryDelete hx hi).trans hd) (by decide) (by simp)

end Sys2Proof.Machine
end

section
namespace Sys2Proof.Machine

/-! ### Pours (R208, R213–R218) -/

/-- A command whose execution fails only completes with that failure. -/
theorem opRow_fail {sp : OpSpec} {eff : CmdEff} {ring slot st code off v : Nat} {c : Cmd} {s0 s : State}
    (h : Admits sp ring slot c s0 s = true) (he : eff c s = .fail st code off v) :
    opRow sp eff ring slot s0 = .next (completeFail c ⟨st, code, off, v⟩ s) := by
  rw [opRow_admits h, he]

/-- With none staged a pour is staged for the issuer: the number after the last committed, at first 1. -/
theorem effRulPourOpen_stages {c : Cmd} {s : State} {n : Nat} (h : s.rul.staged = none)
    (hn : (s.rul.last.map (fun p => (p + 1) % 65536)).getD 1 = n) :
    effRulPourOpen c s = .ok (showRul (s.withRul (fun r => { r with staged := some ⟨n, c.issuer, [], false⟩ })))
      (leBytes 2 n) 0 := by
  subst hn
  unfold effRulPourOpen
  simp only [h]
  cases s.rul.last <;> rfl

/-- A staged pour is named to who would open another. -/
theorem effRulPourOpen_refused {c : Cmd} {s : State} {x : Staging} (h : s.rul.staged = some x) :
    effRulPourOpen c s = .fail stWrongState 0x101 noOffset x.pour := by
  unfold effRulPourOpen
  rw [h]
  rfl

section
variable {c : Cmd} {s : State} {x : Staging}

/-- With no change waiting the owner's commit takes the lowest free slot. -/
theorem effRulPourCommit_free {n : Nat} (hx : s.rul.staged = some x ∧ x.committing = false ∧ x.owner = c.issuer)
    (hw : changesWait s = false) (hn : freeSlot s = some n) :
    effRulPourCommit c s = .ok (commitNow x n s) (leBytes 2 x.pour ++ leBytes 2 n) 0 := by
  unfold effRulPourCommit
  rw [withStaged_owner hx]
  simp only [hw, hn]
  rfl

/-- Without a free slot the commit waits, with the pour closed to further changes. -/
theorem effRulPourCommit_waits (hx : s.rul.staged = some x ∧ x.committing = false ∧ x.owner = c.issuer)
    (hw : changesWait s = false) (hn : freeSlot s = none) : effRulPourCommit c s = .wait (closeStaging x s) := by
  unfold effRulPourCommit
  rw [withStaged_owner hx]
  simp only [hw, hn]
  rfl

/-- The owner, or a master with ACL_ADMIN in RUL's table, abandons the pour and is told how many entries went. -/
theorem effRulPourAbandon_ok (hx : s.rul.staged = some x)
    (hm : x.owner = c.issuer ∨ bitOf (s.aclEntry 6 c.issuer).rights 4 = true) (hw : changesWait s = false) :
    effRulPourAbandon c s = .ok (abandonNow x s) (leBytes 4 (ruleEntries s - ruleEntries (abandonNow x s))) 0 := by
  unfold effRulPourAbandon
  simp only [hx]
  rw [if_neg (fun ⟨_, howner, hadmin⟩ => hm.elim howner (by simp [hadmin])), if_neg (by simp [hw])]
  rfl

end

/-- The oldest OLD pour retires where no context holds its slot, and what waited for it goes on. -/
theorem execPourRetire_unheld {slot p : Nat} {y : Nat × Nat} {r : List (Nat × Nat)} {s : State} (hu : s.up = true)
    (hl : s.rul.live = (slot, p) :: y :: r) (hh : holders s slot = 0) : execPourRetire s =
      .next (resumeRul ((showRul (s.withRul (fun t => { t with live := y :: r }))).raise 6 1)) := by
  unfold execPourRetire
  rw [act_up hu]
  simp only [retireOldest, hl, hh, if_true]

/-- The first log that may be swept is swept, and what waited for it goes on. -/
theorem execLogSweep_sweeps {p : Nat} {s : State} (hu : s.up = true) (hp : sweepable s = some p) :
    execLogSweep s = .next (resumeRul (sweepLog p s)) := by
  unfold execLogSweep
  rw [act_up hu]
  simp only [hp]

/-- Settles O31: each opcode by whether a pour is staged, then by its slots; a retirement and a sweep by what is live. -/
theorem pourOpcodes : Obligations.PourOpcodes := by
  refine ⟨?_, ?_, ?_, ?_, ?_, ?_, ?_, ?_, ?_⟩
  · intro ring slot c s0 s h hs
    exact opRow_ok h (effRulPourOpen_stages hs rfl) (by decide) (by simp)
  · intro ring slot c s0 s x h hs
    exact opRow_fail h (effRulPourOpen_refused hs)
  · intro ring slot c s0 s x n h hx hw hn
    exact opRow_ok h (effRulPourCommit_free hx hw hn) (by decide) (by simp)
  · intro ring slot c s0 s x h hx hw hn
    exact opRow_wait h (effRulPourCommit_waits hx hw hn)
  · intro ring slot c s0 s x h hx hm hw
    exact opRow_ok h (effRulPourAbandon_ok hx hm hw) (by decide) (by simp)
  · intro ring slot c s0 s h
    exact opRow_ok (eff := effRulPourStatus) h rfl (by decide) (by simp)
  · intro ring slot c s0 s h
    exact opRow_ok (eff := effRulCounters) h rfl (by decide) (by simp)
  · intro slot p y r s hu hl hh
    exact execPourRetire_unheld hu hl hh
  · intro p s hu hp
    exact execLogSweep_sweeps hu hp

end Sys2Proof.Machine
end

section
namespace Sys2Proof.Machine

/-! ### Checks that TMG's opcodes share (R240, R250, R256, R259) -/

/-- Entries in range whose durations add up to a cycle time in range pass the checks of a schedule. -/
theorem cycleCheck_ok {ok : Word × Word → Bool} {o : Nat} {l : List (Word × Word)} {k : CmdOut}
    (hl : badEntry ok l = none)
    (hc : 1000 ≤ (l.map (fun e => e.2.toNat)).sum ∧ (l.map (fun e => e.2.toNat)).sum ≤ 1000000000) :
    cycleCheck ok o l k = k := by
  simp only [cycleCheck, hl]
  exact if_neg (by omega)

/-- Rates and bursts in range, the peak rate not below the committed one, pass the checks of a two-rate meter. -/
theorem meterCheck_ok {c : Cmd} {o : Nat} {k : CmdOut} (hm : rateOk (c.p o 4) = true ∧ burstOk (c.p (o + 4) 4) = true ∧
    rateOk (c.p (o + 8) 4) = true ∧ burstOk (c.p (o + 12) 4) = true ∧ c.p o 4 ≤ c.p (o + 8) 4) :
    meterCheck c o k = k := by
  obtain ⟨hcir, hcbs, hpir, hpbs, hle⟩ := hm
  unfold meterCheck
  rw [if_neg (by simp [hcir]), if_neg (by simp [hcbs]), if_neg (by simp [hpir]), if_neg (by simp [hpbs]),
    if_neg (by omega)]

/-- A policer's number below 4,096 with zero reserved bytes goes on. -/
theorem withEntry_ok {c : Cmd} {k : Nat → CmdOut} (h : c.p 32 2 ≤ 4095 ∧ c.zero 34 2 = true) :
    withEntry c k = k (c.p 32 2) := by
  unfold withEntry
  rw [if_neg (by omega), if_neg (by simp [h.2])]

/-- What a PORT_CFG word in range says of its fields (R253, R266). -/
theorem tmgPortForm_iff {p : Nat} {v : Word} : tmgPortForm p v = true ↔
    (-32 ≤ signed8 (fld v 7 0) ∧ signed8 (fld v 7 0) ≤ 96) ∧ (bitOf v 8 = true → p < 14) ∧
      1 ≤ fld v 23 16 ∧ fld v 23 16 ≤ 128 := by
  simp [tmgPortForm, and_assoc, imp_iff_not_or]

/-! ### TMG opcodes (R240–R264)

`<eff>_ok` says what an opcode's execution answers where the payload has the form that its checks ask for. -/

theorem effTmgSetPort_ok {c : Cmd} {s : State} (hv : fld (c.w 32) 15 15 = 0 ∧ fld (c.w 32) 31 24 = 0 ∧
    tmgPortForm c.inst (c.w 32) = true ∧ c.p 36 4 ≤ 1000000) :
    effTmgSetPort c s = .ok (setTmgPort c.inst (c.w 32) (s.wr (tmgPort c.inst 4) (c.w 36))) [] 0 := by
  obtain ⟨hr15, hr31, hform, hmargin⟩ := hv
  obtain ⟨⟨hlo, hhi⟩, hpreempt, hverify⟩ := tmgPortForm_iff.mp hform
  unfold effTmgSetPort
  simp only
  rw [if_neg (by simp [hr15, hr31]), if_neg (by omega), if_neg (by omega),
    if_neg (fun h => by have := hpreempt h.1; omega), if_neg (by omega), if_neg (by omega)]
  rfl

theorem effTmgCoursesLoad_ok {c : Cmd} {s : State}
    (hp : c.p 32 1 ≤ 1 ∧ c.zero 33 3 = true ∧ c.len = 8 + 8 * c.p 36 4)
    (hl : badEntry (fun e => fld e.1 31 10 == 0 && fld e.1 9 8 != 3) (payEntries c 40 (c.p 36 4)) = none)
    (hc : 1000 ≤ ((payEntries c 40 (c.p 36 4)).map (fun e => e.2.toNat)).sum ∧
      ((payEntries c 40 (c.p 36 4)).map (fun e => e.2.toNat)).sum ≤ 1000000000)
    (hb : (inForce s c.inst).map InForce.bank ≠ some (c.p 32 1) ∧
      (pendingSwitch s c.inst).bind Switch.bank ≠ some (c.p 32 1)) :
    effTmgCoursesLoad c s = .ok (s.withTmg (fun t => { t with
      banks := tput [] t.banks (c.inst * 2 + c.p 32 1)
        ((payEntries c 40 (c.p 36 4)).map (fun e => ⟨fld e.1 7 0, fld e.1 9 8, e.2.toNat⟩)) })) [] 0 := by
  obtain ⟨hbank, hreserved, hlen⟩ := hp
  unfold effTmgCoursesLoad
  simp only
  rw [if_neg (by omega), if_neg (by omega), if_neg (by simp [hreserved]), cycleCheck_ok hl hc, if_neg (by tauto)]
  rfl

theorem effTmgGateSwitch_ok {c : Cmd} {s : State} {t : Nat}
    (hp : c.p 32 1 < 4 ∧ c.zero 33 3 = true ∧ c.timeForm 36 = true ∧ c.timeNs 36 < 1000000000)
    (hn : pendingSwitch s c.inst = none)
    (hb : (c.p 32 1).testBit 1 = true ∨ bankOf s c.inst (c.p 32 1 % 2) ≠ [])
    (ht : t = if (c.p 32 1).testBit 1 then max (c.time 36) s.now
      else firstInstant (c.time 36) (cycleOf (bankOf s c.inst (c.p 32 1 % 2))) s.nowUp) :
    effTmgGateSwitch c s = .ok (showLists c.inst (holdBit s c.inst) (s.withTmg (fun x => { x with
      switch := tput none x.switch c.inst
        (some ⟨if (c.p 32 1).testBit 1 then none else some (c.p 32 1 % 2), t⟩) }))) (timeBytes t) 0 := by
  obtain ⟨hflags, hreserved, hform, hns⟩ := hp
  subst ht
  unfold effTmgGateSwitch
  simp only
  rw [if_neg (by omega), if_neg (by simp [hreserved]), if_neg (by simp [hform]), if_neg (by omega)]
  simp only [hn]
  rw [if_neg (fun ⟨hon, hempty⟩ => hb.elim (by simp [hon]) (fun h => h (List.isEmpty_iff.mp hempty)))]
  rfl

theorem effTmgGateStatus_ok (c : Cmd) (s : State) : effTmgGateStatus c s =
    .ok s (leBytes 4 (s.rd (tmgPort c.inst 8)).toNat ++ leBytes 4 (s.rd (tmgPort c.inst 0xC)).toNat ++
      leBytes 4 ((inForce s c.inst).elim 0 (fun f => cycleOf (bankOf s c.inst f.bank))) ++
      (pendingSwitch s c.inst).elim (List.replicate 12 0) (fun w => timeBytes w.at_)) 0 := by
  unfold effTmgGateStatus
  cases inForce s c.inst <;> cases pendingSwitch s c.inst <;> rfl

theorem effTmgSetQueue_ok {c : Cmd} {s : State} (hv : fld (c.w 32) 31 7 = 0 ∧ rateOk (c.p 36 4) = true ∧
    burstOk (c.p 40 4) = true ∧ quantumOk (c.p 44 4) = true) (hq : queueCfgBad s c.inst (c.w 32) = none) :
    effTmgSetQueue c s =
      .ok (setShaper c.inst (c.w 32) (c.w 36) (c.w 40) (s.wr (tmgQueue c.inst 0xC) (c.w 44))) [] 0 := by
  obtain ⟨hreserved, hcir, hcbs, hquantum⟩ := hv
  unfold effTmgSetQueue
  simp only
  rw [if_neg (by simp [hreserved]), if_neg (by simp [hcir]), if_neg (by simp [hcbs]), if_neg (by simp [hquantum])]
  simp only [hq]
  rfl

theorem effTmgSetGroup_ok {c : Cmd} {s : State}
    (hp : c.p 32 1 ≤ 31 ∧ c.p 33 1 ≤ 20 ∧ c.p 34 1 ≤ 1 ∧ c.zero 35 1 = true)
    (hm : rateOk (c.p 36 4) = true ∧ burstOk (c.p 40 4) = true ∧ rateOk (c.p 44 4) = true ∧
      burstOk (c.p 48 4) = true ∧ c.p 36 4 ≤ c.p 44 4)
    (hport : portFitted s.tier (c.p 33 1) = true ∧ (s.aclEntry 7 c.issuer).mask.getLsbD (c.p 33 1) = true)
    (hg : s.f (tmgGroup (c.p 32 1) 0) 12 8 = c.p 33 1 ∨ groupMembers s (c.p 32 1) = false) :
    effTmgSetGroup c s = .ok (setGroup (c.p 32 1) (BitVec.ofNat 32 (c.p 34 1 + c.p 33 1 * 256)) (c.w 36) (c.w 40)
      (c.w 44) (c.w 48) s) [] 0 := by
  obtain ⟨hgroup, hnumber, hflags, hreserved⟩ := hp
  obtain ⟨hfitted, hmask⟩ := hport
  unfold effTmgSetGroup
  simp only
  rw [if_neg (by omega), if_neg (by omega), if_neg (by omega), if_neg (by simp [hreserved]), meterCheck_ok hm,
    if_neg (by simp [hfitted]), if_neg (by simp [hmask]),
    if_neg (fun ⟨hmoved, hmembers⟩ => hg.elim hmoved (by simp [hmembers]))]
  rfl

theorem effTmgSetPolicer_ok {c : Cmd} {s : State}
    (hp : c.p 32 2 ≤ 4095 ∧ c.zero 34 2 = true ∧ fld (c.w 36) 31 10 = 0 ∧ fld (c.w 36) 8 7 ≠ 3)
    (hm : rateOk (c.p 40 4) = true ∧ burstOk (c.p 44 4) = true ∧ rateOk (c.p 48 4) = true ∧
      burstOk (c.p 52 4) = true ∧ c.p 40 4 ≤ c.p 48 4) :
    effTmgSetPolicer c s = .ok (setPolicer (c.p 32 2) { policer s (c.p 32 2) with
      cfg := c.w 36, cir := c.p 40 4, cbs := c.p 44 4, pir := c.p 48 4, pbs := c.p 52 4, maxSdu := c.p 56 4,
      blocked := false, ctok := c.p 44 4 * 65536, ptok := c.p 52 4 * 65536 } s) [] 0 := by
  obtain ⟨hindex, hzero, hreserved, hcolour⟩ := hp
  unfold effTmgSetPolicer
  rw [withEntry_ok ⟨hindex, hzero⟩]
  simp only
  rw [if_neg (by simp [hreserved]), if_neg hcolour, meterCheck_ok hm]
  rfl

theorem effTmgPolicerCounters_ok {c : Cmd} {s : State} (hp : c.p 32 2 ≤ 4095 ∧ c.zero 34 2 = true) :
    effTmgPolicerCounters c s = .ok (setPolicer (c.p 32 2) { policer s (c.p 32 2) with
      green := 0, yellow := 0, red := 0, gateClosed := 0, oversize := 0 } s)
      ([(policer s (c.p 32 2)).green, (policer s (c.p 32 2)).yellow, (policer s (c.p 32 2)).red,
        (policer s (c.p 32 2)).gateClosed, (policer s (c.p 32 2)).oversize,
        b2n (policer s (c.p 32 2)).blocked].flatMap (leBytes 4)) 0 := by
  unfold effTmgPolicerCounters
  rw [withEntry_ok hp]
  rfl

section
variable {c : Cmd} {s : State}
  (hp : c.p 32 1 ≤ 1 ∧ c.zero 33 3 = true ∧ c.timeForm 36 = true ∧ c.timeNs 36 < 1000000000 ∧
    c.len = 20 + 8 * c.p 48 4)
  (hl : badEntry (fun e => fld e.1 31 5 == 0) (payEntries c 52 (c.p 48 4)) = none)
  (hc : 1000 ≤ ((payEntries c 52 (c.p 48 4)).map (fun e => e.2.toNat)).sum ∧
    ((payEntries c 52 (c.p 48 4)).map (fun e => e.2.toNat)).sum ≤ 1000000000)
include hp hl hc

/-- A disabled stream gate takes the schedule given. -/
theorem effTmgSetStreamGate_loads (hd : (tget StreamGate.zero s.tmg.gates c.inst).en = false) :
    effTmgSetStreamGate c s = .ok (s.withTmg (fun t => { t with
      gates := tput StreamGate.zero t.gates c.inst ⟨(c.p 32 1).testBit 0, c.time 36,
        firstInstant (c.time 36) ((payEntries c 52 (c.p 48 4)).map (fun e => e.2.toNat)).sum s.nowUp,
        (payEntries c 52 (c.p 48 4)).map (fun e => ⟨e.1, e.2.toNat⟩)⟩ })) [] 0 := by
  obtain ⟨hflags, hreserved, hform, hns, hlen⟩ := hp
  unfold effTmgSetStreamGate
  simp only
  rw [if_neg (by omega), if_neg (by omega), if_neg (by simp [hreserved]), if_neg (by simp [hform]),
    if_neg (by omega), cycleCheck_ok hl hc, if_neg (by simp [hd])]
  rfl

/-- An enabled one is only disabled, and its schedule kept. -/
theorem effTmgSetStreamGate_disables (he : (tget StreamGate.zero s.tmg.gates c.inst).en = true) (h0 : c.p 32 1 = 0) :
    effTmgSetStreamGate c s = .ok (s.withTmg (fun t => { t with
      gates := tput StreamGate.zero t.gates c.inst
        { tget StreamGate.zero s.tmg.gates c.inst with en := false } })) [] 0 := by
  obtain ⟨hflags, hreserved, hform, hns, hlen⟩ := hp
  unfold effTmgSetStreamGate
  simp only
  rw [if_neg (by omega), if_neg (by omega), if_neg (by simp [hreserved]), if_neg (by simp [hform]),
    if_neg (by omega), cycleCheck_ok hl hc, if_pos he, if_neg (by simp [h0])]
  rfl

end

theorem effTmgSetLatency_ok {c : Cmd} {s : State}
    (hv : fld (c.w 32) 31 11 = 0 ∧ 1 ≤ fld (c.w 32) 10 1 ∧ fld (c.w 32) 10 1 ≤ 1000) :
    effTmgSetLatency c s = .ok (s.wr (rg 7 0) (c.w 32)) [] 0 := by
  unfold effTmgSetLatency
  simp only
  rw [if_neg (by simp [hv.1]), if_neg (by omega)]
  rfl

/-- Settles O34: each opcode's execution passes its checks and answers OK with the setting, the switch or the
counters. -/
theorem trafficManagerOpcodes : Obligations.TrafficManagerOpcodes := by
  refine ⟨?_, ?_, ?_, ?_, ?_, ?_, ?_, ?_, ?_, ?_, ?_, ?_, ?_⟩
  · intro ring slot c s0 s h hv
    exact opRow_ok h (effTmgSetPort_ok hv) (by decide) (by simp)
  · intro ring slot c s0 s h hp hl hc hb
    exact opRow_ok h (effTmgCoursesLoad_ok hp hl hc hb) (by decide) (by simp)
  · intro ring slot c s0 s t h hp hn hb ht
    exact opRow_ok h (effTmgGateSwitch_ok hp hn hb ht) (by decide) (by simp)
  · intro ring slot c s0 s h
    refine opRow_ok h (effTmgGateStatus_ok c s) (by decide) ?_
    cases pendingSwitch s c.inst <;> simp
  · intro ring slot c s0 s h hv hq
    exact opRow_ok h (effTmgSetQueue_ok hv hq) (by decide) (by simp)
  · intro ring slot c s0 s h hp hm hport hg
    exact opRow_ok h (effTmgSetGroup_ok hp hm hport hg) (by decide) (by simp)
  · intro ring slot c s0 s h hp hm
    exact opRow_ok h (effTmgSetPolicer_ok hp hm) (by decide) (by simp)
  · intro ring slot c s0 s h hp
    exact opRow_ok h (effTmgPolicerCounters_ok hp) (by decide) (by simp)
  · intro ring slot c s0 s h hp hl hc hd
    exact opRow_ok h (effTmgSetStreamGate_loads hp hl hc hd) (by decide) (by simp)
  · rintro ring slot c s0 s h ⟨h0, hp⟩ hl hc he
    exact opRow_ok h (effTmgSetStreamGate_disables ⟨by omega, hp⟩ hl hc he h0) (by decide) (by simp)
  · intro ring slot c s0 s h hv
    exact opRow_ok h (effTmgSetLatency_ok hv) (by decide) (by simp)
  · intro ring slot c s0 s h
    exact opRow_ok (eff := effTmgLatRead) h rfl (by decide) (by simp)
  · intro ring slot c s0 s h
    exact opRow_ok (eff := effTmgPortCounters) h rfl (by decide) (by simp)

end Sys2Proof.Machine
end

section
namespace Sys2Proof.Machine

/-- On a running die an event leaves the state that its operation makes. -/
theorem act_eq {f : State → State} {s t : State} (hu : s.up = true) (h : f s = t) : act f s = .next t :=
  (act_up hu).trans (congrArg _ h)

/-! ### Course lists, verification and sampling (R240, R242, R246, R253, R260) -/

/-- Once the course in force has ended the next of its list begins, and ends after its own duration. -/
theorem execCourseBoundary_ended {p : Nat} {f : InForce} {s : State} (hu : s.up = true) (hf : inForce s p = some f)
    (he : f.ends ≤ s.now) : execCourseBoundary p s =
      .next (preempt p (beginCourse p ((f.idx + 1) % max 1 (bankOf s p f.bank).length)
        (f.ends + (((bankOf s p f.bank)[(f.idx + 1) % max 1 (bankOf s p f.bank).length]?).map Course.dur).getD 0)
        s)) := by
  unfold execCourseBoundary
  rw [act_up hu]
  simp only [hf, he, if_true]

/-- A pending switch whose instant has come takes force, and copies that can never fit go. -/
theorem execListSwitched_due {p : Nat} {w : Switch} {s : State} (hu : s.up = true) (hw : pendingSwitch s p = some w)
    (hd : w.at_ ≤ s.now) : execListSwitched p s = .next (preempt p (purgePort p (applySwitch p w s))) := by
  unfold execListSwitched
  rw [act_up hu]
  simp only [hw, hd, if_true]

section
variable {p : Nat} {s : State} (hu : s.up = true) (hv : s.f (tmgPort p 8) 19 17 = 2)
include hu hv

/-- The partner's answer ends a verification under way as VERIFIED. -/
theorem execVerifyTimer_answered :
    execVerifyTimer p true s = .next (showPreempt p (s.sf (tmgPort p 8) 19 17 3)) := by
  unfold execVerifyTimer
  rw [act_up hu, if_neg (by simp [hv]), if_pos rfl]

/-- Without an answer a try is counted, and after the third the verification ends as FAILED. -/
theorem execVerifyTimer_unanswered : execVerifyTimer p false s =
    .next (if tget 0 s.tmg.verifyTries p < 2
      then s.withTmg (fun t => { t with verifyTries := tput 0 t.verifyTries p (tget 0 s.tmg.verifyTries p + 1) })
      else ((showPreempt p (s.sf (tmgPort p 8) 19 17 4)).cnt (tmgPort p 0x2C) 1).raise 7 2) := by
  unfold execVerifyTimer
  refine act_eq hu ?_
  rw [if_neg (by simp [hv]), if_neg Bool.false_ne_true]
  exact if_congr (by omega) rfl rfl

end

/-- With EN set every queue of every fitted port is sampled. -/
theorem execLatencySample_enabled {s : State} (hu : s.up = true) (he : s.bit (rg 7 0) 0 = true) :
    execLatencySample s = .next ((fittedPorts s).foldl
      (fun s p => (List.range 8).foldl (fun s t => sampleQueue (p * 8 + t) s) s) s) := by
  unfold execLatencySample
  rw [act_up hu, if_pos he]

/-! ### Start instants (R239, R247, R254) -/

/-- An eligible TC7 head is chosen before any other queue is judged. -/
theorem choose_tc7 {p : Nat} {t : State} (hj : (judgeQueue (p * 8 + 7) t).1 = true) :
    choose p t = (some (p * 8 + 7), (judgeQueue (p * 8 + 7) t).2) := if_pos hj

/-- At a port that is down, or that the tier has not, nothing happens. -/
theorem transmitSelect_unserved {p : Nat} {bad : Option Nat} {s : State}
    (h : portFitted s.tier p = false ∨ portUp s p = false) : transmitSelect p bad s = s := if_pos h

section
variable {p : Nat} {bad : Option Nat} {s t : State} (hp : portFitted s.tier p = true ∧ portUp s p = true)
  (ht : t = cutNow p (preempt p (purgePort p s)))
include hp ht

/-- Beside a copy in transmission nothing starts. -/
theorem transmitSelect_busy {x : Copy} (htx : tget none t.swc.tx p = some x) : transmitSelect p bad s = t := by
  unfold transmitSelect
  rw [if_neg (by simp [hp])]
  simp only [← ht, htx]

/-- With no copy in transmission and none cut, the queue that `choose` names starts; where it names none, what judging
the queues counted stays. -/
theorem transmitSelect_chooses (hidle : tget none t.swc.tx p = none ∧ tget none t.swc.cut p = none) :
    transmitSelect p bad s =
      (choose p t).1.elim (choose p t).2 (fun q => startCopy p q bad (choose p t).2) := by
  unfold transmitSelect
  rw [if_neg (by simp [hp])]
  simp only [← ht, hidle]
  cases (choose p t).1 <;> rfl

/-- Where TC7's head is not eligible a copy that was cut resumes, unless the hold state keeps it. -/
theorem transmitSelect_cut {x : Copy} (hcut : tget none t.swc.tx p = none ∧ tget none t.swc.cut p = some x)
    (hj : (judgeQueue (p * 8 + 7) t).1 = false) :
    transmitSelect p bad s = if holdBit t p && preemptActive t p then (judgeQueue (p * 8 + 7) t).2
      else setTx p (some { x with began := fclk t })
        ((judgeQueue (p * 8 + 7) t).2.withSwc (fun w => { w with cut := tput none w.cut p none })) := by
  unfold transmitSelect
  rw [if_neg (by simp [hp])]
  simp only [← ht, hcut, hj, Bool.false_eq_true, if_false]

/-- An eligible TC7 head starts whether a copy was cut or not. -/
theorem transmitSelect_tc7 (htx : tget none t.swc.tx p = none) (hj : (judgeQueue (p * 8 + 7) t).1 = true) :
    transmitSelect p bad s = startCopy p (p * 8 + 7) bad (judgeQueue (p * 8 + 7) t).2 := by
  cases hcut : tget none t.swc.cut p with
  | none => rw [transmitSelect_chooses hp ht ⟨htx, hcut⟩, choose_tc7 hj]; rfl
  | some x =>
    unfold transmitSelect
    rw [if_neg (by simp [hp])]
    simp only [← ht, htx, hcut, hj, if_true]

end

/-- Settles O35: list events by their instants, verification by its answer, a start instant by the copy in
transmission, the copy that was cut and the queue chosen. -/
theorem trafficManagerEvents : Obligations.TrafficManagerEvents := by
  refine ⟨?_, ?_, ?_, ?_, ?_, ?_, ?_, ?_, ?_, ?_, ?_, ?_, ?_⟩
  · intro p f s hu hf he
    exact execCourseBoundary_ended hu hf he
  · intro p w s hu hw hd
    exact execListSwitched_due hu hw hd
  · intro p s hu hv
    exact execVerifyTimer_answered hu hv
  · intro p s hu hv htries
    exact (execVerifyTimer_unanswered hu hv).trans (congrArg _ (if_pos htries))
  · intro p s hu hv htries
    exact (execVerifyTimer_unanswered hu hv).trans (congrArg _ (if_neg (by omega)))
  · intro s hu he
    exact execLatencySample_enabled hu he
  · intro p bad s t hu hp ht hidle hj
    exact act_eq hu (transmitSelect_tc7 hp ht hidle.1 hj)
  · intro p bad x s t hu hp ht hcut hj hheld
    exact act_eq hu ((transmitSelect_cut hp ht hcut hj).trans (if_neg (by simp [hheld])))
  · intro p bad q s t hu hp ht hidle hq
    refine act_eq hu ((transmitSelect_chooses hp ht hidle).trans ?_)
    rw [hq, Option.elim_some]
  · intro p bad s t hu hp ht hidle hq
    refine act_eq hu ((transmitSelect_chooses hp ht hidle).trans ?_)
    rw [hq, Option.elim_none]
  · intro p bad x s t hu hp ht hcut hj hheld
    exact act_eq hu ((transmitSelect_cut hp ht hcut hj).trans (if_pos hheld))
  · intro p bad x s t hu hp ht htx
    exact act_eq hu (transmitSelect_busy hp ht htx)
  · intro p bad s hu h
    exact act_eq hu (transmitSelect_unserved h)

end Sys2Proof.Machine
end

section
namespace Sys2Proof.Machine

/-! ### ETH opcodes (R276, R277, R281, R283, R284, R289, R290, R293, R298, R299)

`<eff>_ok` says what an opcode's execution answers where the payload has the form that its checks ask for. -/

/-- A port that is disabled takes a configuration in range; only a port with MACsec has the SecY words (R277, R290). -/
theorem effEthSetPort_ok {c : Cmd} {s : State}
    (hcfg : fld (c.w 32) 31 9 = 0 ∧ modeOk c.inst (fld (c.w 32) 3 0) = true ∧
      (bitOf (c.w 32) 7 && (c.inst == 4 || c.inst == 5)) = false)
    (hmax : c.w 36 &&& 0xC000C000#32 = 0 ∧ maxOk (c.w 36) = true)
    (hsec : fld (c.w 40) 31 9 = 0 ∧ fld (c.w 40) 5 4 ≠ 3)
    (ht1s : 14 ≤ c.inst → c.w 40 = 0 ∧ c.p 44 4 = 0 ∧ c.p 48 8 = 0) (hd : s.bit (ethPort c.inst 0) 0 = false) :
    effEthSetPort c s = .ok (if 14 ≤ c.inst then (s.wr (ethPort c.inst 4) (c.w 32)).wr (ethPort c.inst 8) (c.w 36)
      else ((((((s.wr (ethPort c.inst 4) (c.w 32)).wr (ethPort c.inst 8) (c.w 36)).wr (ethPort c.inst 0x1C)
        (c.w 40)).wr (ethPort c.inst 0x20) (c.w 44)).wr (ethPort c.inst 0x24) (c.w 48)).wr (ethPort c.inst 0x28)
          (c.w 52))) [] 0 := by
  obtain ⟨hreserved, hmode, hoption⟩ := hcfg
  unfold effEthSetPort
  simp only
  rw [if_neg (by simp [hreserved]), if_neg (by simp [hmode]), if_neg (by simp [hoption]),
    if_neg (not_not_intro hmax.1), if_neg (by simp [hmax.2]), if_neg (fun h => h.2 (ht1s h.1).1),
    if_neg (fun h => h.2 (ht1s h.1).2.1), if_neg (fun h => h.2 (ht1s h.1).2.2), if_neg (by simp [hsec.1]),
    if_neg hsec.2, if_neg (by simp [hd])]
  split <;> rfl

theorem effEthPortEnable_ok {c : Cmd} {s : State} (hv : c.p 32 4 < 4) :
    effEthPortEnable c s = .ok (setPortCtrl c.inst (c.w 32) s) [] 0 := if_neg (by omega)

section
variable {c : Cmd} {s : State} (hp : c.inst ≠ 4 ∧ c.inst ≠ 5 ∧ s.bit (ethPort c.inst 4) 7 = true)
include hp

/-- On a port with TC10 the value 1 begins the sleep handshake, on a link that is up (R281). -/
theorem effEthTc10_sleeps (hv : c.p 32 4 = 1) (hl : linkUp s c.inst = true) :
    effEthTc10 c s = .ok (setSleeping c.inst true s) [] 0 := by
  unfold effEthTc10
  simp only
  rw [if_neg (by simp [hp]), if_pos hv, if_pos hl]
  rfl

/-- The value 2 wakes the link, from TC10 sleep (R281). -/
theorem effEthTc10_wakes (hv : c.p 32 4 = 2) (hs : phyState s c.inst = 4) :
    effEthTc10 c s = .ok (podlWake c.inst (startPhy c.inst s)) [] 0 := by
  unfold effEthTc10
  simp only
  rw [if_neg (by simp [hp]), if_neg (by omega), if_pos hv, if_pos hs]
  rfl

end

theorem effEthPlcaCfg_ok {c : Cmd} {s : State} (hv : fld (c.w 32) 31 25 = 0 ∧ plcaOk (c.w 32) = true)
    (hd : s.bit (ethPort c.inst 0) 0 = false) :
    effEthPlcaCfg c s = .ok (s.wr (ethPort c.inst 0x10) (c.w 32)) [] 0 := by
  unfold effEthPlcaCfg
  simp only
  rw [if_neg (by simp [hv.1]), if_neg (by simp [hv.2]), if_neg (by simp [hd])]
  rfl

theorem effEthPodl_ok {c : Cmd} {s : State} (hv : fld (c.w 32) 31 13 = 0) :
    effEthPodl c s = .ok (setPodlCfg c.inst (c.w 32) s) [] 0 := if_neg (by simp [hv])

/-- A slot number in range, with the issuer's mask bit of its group, passes. -/
theorem slotCheckCru_ok {range o n : Nat} {c : Cmd} {s : State} {k : CmdOut}
    (h : n ≤ 1023 ∧ (s.aclEntry 12 c.issuer).mask.getLsbD (keyMaskBit n) = true) :
    slotCheckCru range c o n s k = k := by
  unfold slotCheckCru
  rw [if_neg (by omega), if_pos h.2]

section
variable {c : Cmd} {s : State} (hf : c.p 32 1 ≤ 1 ∧ c.p 33 1 ≤ 7 ∧ (c.p 32 1 = 0 → c.p 33 1 = 0) ∧ c.p 34 1 ≤ 3 ∧
  c.zero 35 1 = true)
include hf

/-- DIR, SC and AN in range lead on with the SA they name (R293). -/
theorem saForm_ok {k : Bool → Nat → Nat → CmdOut} : saForm c k = k (c.p 32 1 == 1) (c.p 33 1) (c.p 34 1) := by
  obtain ⟨hdir, hchannel, htx, han, hreserved⟩ := hf
  unfold saForm
  simp only
  rw [if_neg (by omega), if_neg (by omega), if_neg (by omega), if_neg (by simp [hreserved])]

/-- An SA that is not in use takes a READY slot's key for MACsec, with a PN in range (R289, R293). -/
theorem effEthSaInstall_ok (hz : c.zero 38 2 = true) (hpn : c.p 40 8 ≠ 0 ∧ c.p 40 8 ≤ pnMax s c.inst)
    (hslot : c.p 36 2 ≤ 1023 ∧ (s.aclEntry 12 c.issuer).mask.getLsbD (keyMaskBit (c.p 36 2)) = true)
    (hu : saInUse s c.inst (c.p 32 1 == 1) (c.p 34 1) = false)
    (hk : (keySlot s (c.p 36 2)).st = 1 ∧ (keySlot s (c.p 36 2)).usage.testBit 5 = true) :
    effEthSaInstall c s = .ok (if c.p 32 1 = 1 then setRxSa c.inst (c.p 33 1 * 4 + c.p 34 1) (some ⟨c.p 36 2,
      c.p 40 8, c.p 40 8, c.p 48 4, slice c.payload 20 12, c.p 64 8, false, false⟩) s else setTxSa c.inst (c.p 34 1)
        (some ⟨c.p 36 2, c.p 40 8, c.p 40 8, c.p 48 4, slice c.payload 20 12, c.p 64 8, false, false⟩) s) [] 0 := by
  unfold effEthSaInstall
  rw [saForm_ok hf]
  simp only
  rw [if_neg (by simp [hz]), if_neg (by omega), slotCheckCru_ok hslot, if_neg (by simp [hu]), if_neg (by simp [hk])]
  simp only [beq_iff_eq]
  rfl

theorem effEthSaDelete_ok (ha : (saAt s c.inst (c.p 32 1 == 1) (c.p 33 1) (c.p 34 1)).isSome = true)
    (hu : saInUse s c.inst (c.p 32 1 == 1) (c.p 34 1) = false) :
    effEthSaDelete c s = .ok (if c.p 32 1 = 1 then setRxSa c.inst (c.p 33 1 * 4 + c.p 34 1) none s
      else setTxSa c.inst (c.p 34 1) none s) [] 0 := by
  unfold effEthSaDelete
  rw [saForm_ok hf, if_neg (by simpa [Option.isSome_iff_ne_none] using ha), if_neg (by simp [hu])]
  simp only [beq_iff_eq]
  rfl

theorem effEthSaStatus_ok {x : Sa} (hx : saAt s c.inst (c.p 32 1 == 1) (c.p 33 1) (c.p 34 1) = some x) :
    effEthSaStatus c s = .ok s (leBytes 8 (if c.p 32 1 = 1 then x.low else x.pn) ++
      leBytes 4 (b2n x.stopped + 2 * b2n (saActive s c.inst (c.p 32 1 == 1) (c.p 34 1)))) 0 := by
  unfold effEthSaStatus
  rw [saForm_ok hf]
  simp only [hx, beq_iff_eq]
  rfl

end

theorem effEthSaTxSwitch_ok {c : Cmd} {s : State} (hv : c.p 32 4 ≤ 3) (hi : (txSa s c.inst (c.p 32 4)).isSome = true) :
    effEthSaTxSwitch c s =
      .ok (s.withEth (fun e => { e with txAn := tput none e.txAn c.inst (some (c.p 32 4)) })) [] 0 := by
  unfold effEthSaTxSwitch
  simp only
  rw [if_neg (by omega), if_neg (by simpa [Option.isSome_iff_ne_none] using hi)]
  rfl

/-- Settles O36: each opcode's execution passes its checks and answers OK with the setting, the request, the SA or the
counters. -/
theorem ethernetOpcodes : Obligations.EthernetOpcodes := by
  refine ⟨?_, ?_, ?_, ?_, ?_, ?_, ?_, ?_, ?_, ?_, ?_, ?_, ?_, ?_, ?_⟩
  · rintro ring slot c s0 s h hcfg ⟨hreserved, hmax, hinst, hsec⟩ hd
    refine opRow_ok h ((effEthSetPort_ok hcfg ⟨hreserved, hmax⟩ hsec (fun ht => by omega) hd).trans ?_) (by decide)
      (by simp)
    rw [if_neg (by omega)]
  · rintro ring slot c s0 s h ⟨hreserved, hmode⟩ ⟨hmaxReserved, hmax, hinst, hzero⟩ hd
    have hoption : (bitOf (c.w 32) 7 && (c.inst == 4 || c.inst == 5)) = false := by
      simp only [Bool.and_eq_false_iff, Bool.or_eq_false_iff, beq_eq_false_iff_ne]
      omega
    have hsec : fld (c.w 40) 31 9 = 0 ∧ fld (c.w 40) 5 4 ≠ 3 := by rw [hzero.1]; decide
    refine opRow_ok h ((effEthSetPort_ok ⟨hreserved, hmode, hoption⟩ ⟨hmaxReserved, hmax⟩ hsec (fun _ => hzero)
      hd).trans ?_) (by decide) (by simp)
    rw [if_pos hinst]
  · intro ring slot c s0 s h hv
    exact opRow_ok h (effEthPortEnable_ok hv) (by decide) (by simp)
  · intro ring slot c s0 s h
    refine opRow_ok (eff := effEthLinkStatus) h rfl (by decide) ?_
    split <;> simp
  · rintro ring slot c s0 s h hp ⟨hv, hl⟩
    exact opRow_ok h (effEthTc10_sleeps hp hv hl) (by decide) (by simp)
  · rintro ring slot c s0 s h hp ⟨hv, hs⟩
    exact opRow_ok h (effEthTc10_wakes hp hv hs) (by decide) (by simp)
  · intro ring slot c s0 s h
    exact opRow_ok (eff := effEthRtSave) h rfl (by decide) (by simp)
  · intro ring slot c s0 s h _
    exact opRow_ok (eff := effEthRtClear) h rfl (by decide) (by simp)
  · intro ring slot c s0 s h hv hd
    exact opRow_ok h (effEthPlcaCfg_ok hv hd) (by decide) (by simp)
  · intro ring slot c s0 s h hv
    exact opRow_ok h (effEthPodl_ok hv) (by decide) (by simp)
  · rintro ring slot c s0 s h ⟨hdir, hchannel, htx, han, hreserved, hz⟩ hpn hslot ⟨hu, hk⟩
    exact opRow_ok h (effEthSaInstall_ok ⟨hdir, hchannel, htx, han, hreserved⟩ hz hpn hslot hu hk) (by decide)
      (by simp)
  · intro ring slot c s0 s h hv hi
    exact opRow_ok h (effEthSaTxSwitch_ok hv hi) (by decide) (by simp)
  · rintro ring slot c s0 s h hf ⟨ha, hu⟩
    exact opRow_ok h (effEthSaDelete_ok hf ha hu) (by decide) (by simp)
  · intro ring slot c s0 s x h hf hx
    exact opRow_ok h (effEthSaStatus_ok hf hx) (by decide) (by simp)
  · intro ring slot c s0 s h
    exact opRow_ok (eff := effEthPortCounters) h rfl (by decide) (by simp)

end Sys2Proof.Machine
end

section
namespace Sys2Proof.Machine

/-! ### Links and retained starts (R273, R276, R279) -/

/-- A permitted write of PORT_CTRL takes effect; the internal ports have TX_EN alone. -/
theorem execPortCtrlWrite_permitted {m p : Nat} {v : Word} {s : State} (hm : MayWrite s m 8 (.bit p) = true)
    (hp : portFitted s.tier p = true) (hv : fld v 31 2 = 0) :
    execPortCtrlWrite m p v s = .next (setPortCtrl p (if 18 ≤ p then v &&& 2#32 else v) s) := by
  unfold execPortCtrlWrite
  rw [withWrite_ok hm, if_neg (by simp [hp]), if_neg (by simp [hv])]
  rfl

section
variable {p mbps addFrag : Nat} {offer : Bool × Bool} {s : State} (hu : s.up = true)
include hu

/-- A link comes up out of training, or out of a retained start whose probe has passed, between two ends whose roles
fit. -/
theorem execLinkChange_comesUp (hp : p ≤ 17 ∧ portFitted s.tier p = true)
    (hphy : phyState s p = 1 ∨ (phyState s p = 2 ∧ tget false s.eth.rtProbed p = true))
    (hr : sameRole s p offer.2 = false) :
    execLinkChange p true mbps addFrag offer s = .next (bringUp p mbps addFrag offer.1 s) := by
  unfold execLinkChange
  rw [act_up hu, if_neg (by simp [hp]), if_pos rfl, if_pos ⟨hr, hphy⟩]

/-- Two ends of the same fixed role do not link (R273). -/
theorem execLinkChange_sameRole (hr : sameRole s p offer.2 = true) :
    execLinkChange p true mbps addFrag offer s = .next s := by
  unfold execLinkChange
  rw [act_up hu, if_pos rfl, if_neg (fun h : sameRole s p offer.2 = false ∧ _ => by simp [hr] at h), ite_self]

/-- A link that is up and goes down is counted, and its port trains again. -/
theorem execLinkChange_goesDown (hp : p ≤ 17 ∧ portFitted s.tier p = true) (hl : linkUp s p = true) :
    execLinkChange p false mbps addFrag offer s = .next (ethCount p 0x74 (dropLink p 1 s)) := by
  unfold execLinkChange
  rw [act_up hu, if_neg (by simp [hp]), if_neg Bool.false_ne_true, if_pos hl]

end

theorem awaitsMarker_iff {p : Nat} {s : State} :
    awaitsMarker s p = true ↔ phyState s p = 2 ∧ tget false s.eth.rtProbed p = false := by
  simp [awaitsMarker]

/-! ### TC10 (R281) -/

/-- A handshake under way that fails ends with SLEEP_FAILED, the link still up. -/
theorem sleepFailed_underWay {p : Nat} {s : State} (hs : tget false s.eth.sleeping p = true) :
    sleepFailed p s = ethEvent p 3 (setSleeping p false s) := if_pos hs

/-- A pulse that finds no handshake restarts a sleeping link, and its source with it. -/
theorem execTc10Wake_restarts {p : Nat} {s : State} (hu : s.up = true) (hs : tget false s.eth.sleeping p = false)
    (hphy : phyState s p = 4) :
    execTc10Wake p s = .next (podlWake p (ethEvent p 2 (ethCount p 0x7C (startPhy p s)))) := by
  unfold execTc10Wake
  rw [act_up hu, if_neg (by simp [hs]), if_pos hphy]

/-! ### T1S: PoDL sources (R284) -/

theorem execPodlCfgWrite_permitted {m p : Nat} {v : Word} {s : State} (hm : MayWrite s m 8 (.bit p) = true)
    (hp : t1s s p = true) (hv : fld v 31 13 = 0) : execPodlCfgWrite m p v s = .next (setPodlCfg p v s) := by
  unfold execPodlCfgWrite
  rw [withWrite_ok hm, if_neg (by simp [hp]), if_neg (by simp [hv])]
  rfl

/-- What the events of a source of a T1S port in state `n` ask for first. -/
theorem sourceIn_iff {p n : Nat} {s : State} :
    (t1s s p && podlState s p == n) = true ↔ t1s s p = true ∧ podlState s p = n := by
  simp

/-- A classifying source powers a node of an allowed class, and turns off for any other. -/
theorem execPodlClassified_classifying {p cls : Nat} {s : State} (hu : s.up = true)
    (hp : t1s s p = true ∧ podlState s p = 1) : execPodlClassified p cls s =
      .next (if cls < 10 ∧ s.bit (ethPort p 0x14) (cls + 2) = true then (setPodl p 2 s).sf (ethPort p 0x18) 7 4 cls
        else ethEvent p 6 (setPodl p 0 s)) :=
  act_eq hu (if_pos (sourceIn_iff.mpr hp))

/-- Settles O38: each event finds its port in the state it asks for, and leaves what its operation makes of it. -/
theorem ethernetPortEvents : Obligations.EthernetPortEvents := by
  refine ⟨?_, ?_, ?_, ?_, ?_, ?_, ?_, ?_, ?_, ?_, ?_, ?_, ?_, ?_, ?_, ?_, ?_, ?_, ?_, ?_⟩
  · rintro m p v s hm ⟨hp, hv⟩
    exact execPortCtrlWrite_permitted hm hp hv
  · intro p mbps addFrag fec master s hu hp hphy hr
    exact execLinkChange_comesUp hu hp hphy hr
  · intro p mbps addFrag fec master s hu hr
    exact execLinkChange_sameRole hu hr
  · intro p mbps addFrag fec master s hu hp hl
    exact execLinkChange_goesDown hu hp hl
  · intro p agrees s hu hw
    exact act_eq hu (if_pos (awaitsMarker_iff.mpr hw))
  · intro p s hu hw
    exact act_eq hu (if_pos (awaitsMarker_iff.mpr hw))
  · intro p s hu hphy
    exact act_eq hu (if_pos hphy)
  · intro p s hu hs
    exact act_eq hu (if_pos hs)
  · intro p s hu hs
    exact act_eq hu (sleepFailed_underWay hs)
  · intro p s hu hs
    exact act_eq hu (sleepFailed_underWay hs)
  · intro p s hu hs hphy
    exact execTc10Wake_restarts hu hs hphy
  · intro p s hu hp
    exact act_eq hu (if_pos ((Bool.and_eq_true _ _).mpr hp))
  · intro p coll s hu hp
    exact act_eq hu (if_pos hp)
  · rintro m p v s hm ⟨hp, hv⟩
    exact execPodlCfgWrite_permitted hm hp hv
  · intro p cls s hu hp hcls
    exact (execPodlClassified_classifying hu hp).trans (congrArg _ (if_pos hcls))
  · intro p cls s hu hp hcls
    refine (execPodlClassified_classifying hu hp).trans (congrArg _ (if_neg ?_))
    rintro ⟨hlt, hallowed⟩
    exact hcls.elim (Nat.not_le_of_lt hlt) (by simp [hallowed])
  · intro p s hu hp
    exact act_eq hu (if_pos (sourceIn_iff.mpr hp))
  · rintro p s t hu hp rfl
    exact act_eq hu (if_pos (sourceIn_iff.mpr hp))
  · intro p s hu hp
    exact act_eq hu (if_pos ((Bool.and_eq_true _ _).mpr hp))
  · intro p s hu hp
    exact act_eq hu (if_pos (sourceIn_iff.mpr hp))

end Sys2Proof.Machine
end

section
namespace Sys2Proof.Machine

/-! ### CLN opcodes of the CAN channels (R301, R302, R308, R310, R311, R314, R317, R320, R322, R329)

`<eff>_ok` says what an opcode's execution answers where the payload has the form that its checks ask for. -/

/-- A channel that is OFF takes a configuration whose timing is valid and whose gateway buffers may change hands
(R301, R302). -/
theorem effClnCanConfig_ok {c : Cmd} {s : State}
    (hv : fld (c.w 32) 31 15 = 0 ∧ fld (c.w 32) 14 8 ≤ 64 ∧ nbtReserved (c.w 36) = false ∧
      dbtReserved (c.w 40) = false ∧ xbtReserved (c.w 44) = false ∧ tdcReserved (c.w 48) = false)
    (ht : timingFault (c.w 36) (c.w 40) (c.w 44) (c.w 48) = none) (hoff : canMode s c.inst = 0)
    (hgw : handedOver s c.inst (fld (c.w 32) 14 8) = none) :
    effClnCanConfig c s = .ok (((((s.wr (canReg c.inst 0)
      ((c.w 32 &&& ~~~ 0xF#32) ||| (s.rd (canReg c.inst 0) &&& 0xF#32))).wr (canReg c.inst 4) (c.w 36)).wr
        (canReg c.inst 8) (c.w 40)).wr (canReg c.inst 0xC) (c.w 44)).wr (canReg c.inst 0x10) (c.w 48)) [] 0 := by
  obtain ⟨hreserved, hbuffers, hnbt, hdbt, hxbt, htdc⟩ := hv
  unfold effClnCanConfig
  simp only
  rw [if_neg (by simp [hreserved]), if_neg (by omega), if_neg (by simp [hnbt]), if_neg (by simp [hdbt]),
    if_neg (by simp [hxbt]), if_neg (by simp [htdc])]
  simp only [ht, hgw]
  rw [if_neg (by simp [hoff])]
  rfl

/-- A pairing of MODE and TRX takes effect, but for leaving OFF with a bad timing (R308, R320). -/
theorem effClnCanMode_ok {c : Cmd} {s : State}
    (hp : modeTrxOk (c.p 32 1) (c.p 33 1) = true ∧ c.p 32 1 ≤ 2 ∧ c.p 33 1 ≤ 2 ∧ c.zero 34 2 = true)
    (ht : badTiming s c.inst (c.p 32 1) = false) :
    effClnCanMode c s = .ok (setMode c.inst (c.p 32 1) (c.p 33 1) s) [] 0 := by
  obtain ⟨hpair, hmode, htrx, hreserved⟩ := hp
  unfold effClnCanMode
  simp only
  rw [if_neg (by omega), if_neg (by omega), if_neg (by simp [hreserved]), if_neg (by simp [hpair]),
    if_neg (by simp [ht])]
  rfl

/-- A software buffer that is not in use is loaded with a frame of an enabled format for which the store has room
(R310, R311). -/
theorem effClnCanTxLoad_ok {c : Cmd} {s : State}
    (hp : c.len = 32 + c.p 40 2 ∧ c.p 32 1 ≤ 63 ∧ c.p 33 1 ≤ 15 ∧ c.p 34 1 ≤ 2 ∧ c.p 35 1 ≤ 7)
    (hid : (bitOf (c.w 36) 31 || (!(loadFrame c).ide && decide (0x7FF < (loadFrame c).id)) ||
      ((loadFrame c).fmt == 3 && decide (0x7FF < (loadFrame c).id))) = false)
    (hlen : canLenOk (loadFrame c).fmt (c.p 40 2) = true ∧ ¬ ((loadFrame c).fmt = 3 ∧ (loadFrame c).ide = true))
    (htime : c.timeForm 48 = true ∧ c.timeNs 48 < 1000000000)
    (hperiod : c.p 34 1 = 2 → 100000 ≤ c.p 60 4 ∧ c.p 60 4 ≤ 4000000000)
    (hbuf : (buf s c.inst (c.p 32 1)).loadable = true ∧ c.p 32 1 < gwFirst s c.inst)
    (hroom : fmtOn s c.inst (loadFrame c).fmt = true ∧ storeShare (c.p 40 2) ≤ storeFree s c.inst (c.p 32 1)) :
    effClnCanTxLoad c s =
      .ok (loadBuf c.inst (c.p 32 1) (loadFrame c) (c.p 33 1) (c.p 34 1) (c.time 48) (c.p 60 4) s) [] 0 := by
  obtain ⟨hbytes, hindex, hlimit, htiming, hformat⟩ := hp
  obtain ⟨hdata, hextended⟩ := hlen
  obtain ⟨hform, hns⟩ := htime
  unfold effClnCanTxLoad
  simp only
  rw [if_neg (not_not_intro hbytes), if_neg (by omega), if_neg (by omega), if_neg (by omega), if_neg (by omega),
    if_neg (by simp [hid]), if_neg (by simpa [hdata] using hextended), if_neg (by simp [hform]), if_neg (by omega),
    if_neg (fun ⟨hcyclic, hout⟩ => by have := hperiod hcyclic; omega), if_neg (by simp [hbuf.1]),
    if_neg (Nat.not_le.mpr hbuf.2), if_neg (by simp [hroom.1]), if_neg (Nat.not_lt.mpr hroom.2)]
  rfl

/-- A buffer's number with zero reserved bytes goes on. -/
theorem bufForm_ok {c : Cmd} {k : Nat → CmdOut} (h : c.p 32 1 ≤ 63 ∧ c.zero 33 3 = true) :
    bufForm c k = k (c.p 32 1) := by
  unfold bufForm
  rw [if_neg (by omega), if_neg (by simp [h.2])]

section
variable {c : Cmd} {s : State} (hp : c.p 32 1 ≤ 63 ∧ c.zero 33 3 = true ∧ c.p 32 1 < gwFirst s c.inst)
include hp

/-- A buffer that waits is aborted at once (R314). -/
theorem effClnCanTxAbort_waiting (hst : (buf s c.inst (c.p 32 1)).st = 1 ∨ (buf s c.inst (c.p 32 1)).st = 2) :
    effClnCanTxAbort c s =
      .ok (setBuf c.inst (c.p 32 1) { buf s c.inst (c.p 32 1) with st := 6 } s) [6] 0 := by
  obtain ⟨hindex, hreserved, hown⟩ := hp
  unfold effClnCanTxAbort
  rw [bufForm_ok ⟨hindex, hreserved⟩]
  simp only
  rw [if_neg (Nat.not_le.mpr hown), if_neg (by omega), if_pos hst]
  rfl

/-- One on the bus is aborted as its frame ends (R314). -/
theorem effClnCanTxAbort_onBus (hst : (buf s c.inst (c.p 32 1)).st = 3) :
    effClnCanTxAbort c s =
      .wait (setBuf c.inst (c.p 32 1) { buf s c.inst (c.p 32 1) with abort := true } s) := by
  obtain ⟨hindex, hreserved, hown⟩ := hp
  unfold effClnCanTxAbort
  rw [bufForm_ok ⟨hindex, hreserved⟩]
  simp only
  rw [if_neg (Nat.not_le.mpr hown), if_pos hst]

end

theorem effClnCanTxStatus_ok {c : Cmd} {s : State} (hp : c.p 32 1 ≤ 63 ∧ c.zero 33 3 = true) :
    effClnCanTxStatus c s = .ok s (leBytes 1 (buf s c.inst (c.p 32 1)).st ++
      leBytes 1 (buf s c.inst (c.p 32 1)).retries ++ leBytes 1 (buf s c.inst (c.p 32 1)).coll ++ [0] ++
      timeBytes (buf s c.inst (c.p 32 1)).sof) 0 := by
  unfold effClnCanTxStatus
  rw [bufForm_ok hp]
  rfl

theorem effClnCanFilter_ok {c : Cmd} {s : State} (hp : c.p 32 1 ≤ 63 ∧ c.p 33 1 ≤ 7 ∧ c.p 34 1 ≤ 15 ∧
    c.zero 35 1 = true ∧ c.p 36 4 < 2 ^ 29 ∧ c.p 40 4 < 2 ^ 29) :
    effClnCanFilter c s = .ok (s.withCln (fun t => { t with
      filters := tput Filter.zero t.filters (c.inst * 64 + c.p 32 1) ⟨(c.p 33 1).testBit 0, (c.p 33 1).testBit 1,
        (c.p 33 1).testBit 2, c.p 34 1, c.p 36 4, c.p 40 4⟩ })) [] 0 := by
  obtain ⟨hindex, hflags, hformats, hreserved, hid, hmask⟩ := hp
  unfold effClnCanFilter
  simp only
  rw [if_neg (by omega), if_neg (by omega), if_neg (by omega), if_neg (by simp [hreserved]), if_neg (by omega),
    if_neg (by omega)]
  rfl

/-- A channel that is bus-off, and does not recover by itself, starts its recovery (R308). -/
theorem effClnCanRecover_ok {c : Cmd} {s : State} (h : canState s c.inst = 3 ∧ s.bit (canReg c.inst 0) 4 = false) :
    effClnCanRecover c s = .ok (setCanState c.inst 4 s) [] 0 := if_pos h

theorem effClnCanWakeCfg_ok {c : Cmd} {s : State} (hp : c.p 32 1 ≤ 2 ∧ c.p 33 1 ≤ 3 ∧ c.p 34 1 ≤ 3 ∧ c.p 35 1 ≤ 8 ∧
    c.p 36 4 < 2 ^ 29 ∧ c.p 40 4 < 2 ^ 29) :
    effClnCanWakeCfg c s = .ok (s.withCln (fun t => { t with
      wake := tput WakeCfg.zero t.wake c.inst ⟨c.p 32 1, c.p 33 1, (c.p 34 1).testBit 0, (c.p 34 1).testBit 1,
        c.p 35 1, c.p 36 4, c.p 40 4, slice c.payload 12 8⟩
      wufErr := terase t.wufErr c.inst })) [] 0 := by
  obtain ⟨hmode, hrate, hflags, hdlc, hid, hmask⟩ := hp
  unfold effClnCanWakeCfg
  simp only
  rw [if_neg (by omega), if_neg (by omega), if_neg (by omega), if_neg (by omega), if_neg (by omega),
    if_neg (by omega)]
  rfl

/-! ### CLN opcodes of the LIN channels (R324, R325, R329) -/

/-- A channel with EN = 0 takes a configuration in range, and stays disabled. -/
theorem effClnLinConfig_ok {c : Cmd} {s : State} (hv : fld (c.w 32) 14 1 = 0 ∧ 4000 ≤ fld (c.w 32) 31 15 ∧
    fld (c.w 32) 31 15 ≤ 80000 ∧ fld (c.w 36) 31 9 = 0 ∧ lcfgOk (c.w 36) = true)
    (hd : s.bit (linReg (c.inst - 16) 0) 0 = false) :
    effClnLinConfig c s = .ok ((s.wr (linReg (c.inst - 16) 0) (setBit (c.w 32) 0 false)).wr (linReg (c.inst - 16) 4)
      (c.w 36)) [] 0 := by
  obtain ⟨hreserved, hlo, hhi, hreserved', hcfg⟩ := hv
  unfold effClnLinConfig
  simp only
  rw [if_neg (by simp [hreserved]), if_neg (by omega), if_neg (by simp [hreserved']), if_neg (by simp [hcfg]),
    if_neg (by simp [hd])]
  rfl

/-- Valid entries are stored where the range in force does not use them (R324). -/
theorem effClnLinSchedLoad_ok {c : Cmd} {s : State} (hp : c.p 32 1 ≤ 63 ∧ 1 ≤ c.p 33 1 ∧ c.p 32 1 + c.p 33 1 ≤ 64 ∧
    c.len = 4 + 8 * c.p 33 1 ∧ c.zero 34 2 = true)
    (hf : schedFault c s (c.inst - 16) (c.p 32 1) (c.p 33 1) 0 = none)
    (hr : (tget none s.cln.runs (c.inst - 16)).all
      (fun r => !(decide (c.p 32 1 ≤ r.last) && decide (r.first < c.p 32 1 + c.p 33 1))) = true) :
    effClnLinSchedLoad c s = .ok ((List.range (c.p 33 1)).foldl (fun s k => s.withCln (fun t => { t with
      sched := tput (0, 0) t.sched ((c.inst - 16) * 64 + c.p 32 1 + k) (c.w (36 + 8 * k), c.w (40 + 8 * k)) })) s)
      [] 0 := by
  obtain ⟨hfirst, hsome, hrange, hlen, hreserved⟩ := hp
  unfold effClnLinSchedLoad
  simp only
  rw [if_neg (not_not_intro hlen), if_neg (by omega), if_neg (by omega), if_neg (by simp [hreserved])]
  cases hrun : tget none s.cln.runs (c.inst - 16) with
  | none => simp only [hf]; rfl
  | some r =>
    rw [hrun] at hr
    simp only [hf]
    rw [if_neg (fun ⟨hle, hlt⟩ => by simp [hle, hlt] at hr)]
    rfl

section
variable {c : Cmd} {s : State}
  (hp : c.p 33 1 ≤ 63 ∧ c.p 32 1 ≤ c.p 33 1 ∧ c.zero 35 1 = true ∧ c.timeForm 36 = true ∧ c.timeNs 36 < 1000000000)
  (hn : tget none s.cln.next (c.inst - 16) = none ∧ linState s (c.inst - 16) ≠ 0 ∧ linState s (c.inst - 16) ≠ 3)
include hp hn

/-- An awake channel that nothing waits for switches to a range with a cycle in range, at the first start of a cycle
after the slot in progress (R325). -/
theorem effClnLinRun_switches {t : Nat} (h0 : c.p 34 1 = 0)
    (hc : 1000 ≤ linCycle s (c.inst - 16) (c.p 32 1) (c.p 33 1) ∧
      linCycle s (c.inst - 16) (c.p 32 1) (c.p 33 1) ≤ 10000000)
    (ht : t = firstInstant (c.time 36) (linCycle s (c.inst - 16) (c.p 32 1) (c.p 33 1) * 1000)
      (slotEnd s (c.inst - 16))) :
    effClnLinRun c s =
      .ok (setNext (c.inst - 16) (some (.switch (c.p 32 1) (c.p 33 1) t)) s) (timeBytes t) 0 := by
  obtain ⟨hlast, hfirst, hreserved, hform, hns⟩ := hp
  obtain ⟨hnext, hon, hawake⟩ := hn
  subst ht
  unfold effClnLinRun
  simp only [h0]
  rw [if_neg (by omega), if_neg (by omega), if_neg (by omega), if_neg (by simp [hreserved]), if_neg (by simp [hform]),
    if_neg (by omega), if_neg (by simp; omega), if_neg (by simp [hnext]), if_neg (by omega), if_neg (by simp)]
  rfl

/-- One that runs a range stops at the end of the slot in progress (R325). -/
theorem effClnLinRun_stops {r : LinRun} (h1 : c.p 34 1 = 1) (hr : tget none s.cln.runs (c.inst - 16) = some r) :
    effClnLinRun c s =
      .ok (setNext (c.inst - 16) (some .stop) s) (timeBytes (slotEnd s (c.inst - 16))) 0 := by
  obtain ⟨hlast, hfirst, hreserved, hform, hns⟩ := hp
  obtain ⟨hnext, hon, hawake⟩ := hn
  unfold effClnLinRun
  simp only [h1]
  rw [if_neg (by omega), if_neg (by omega), if_neg (by omega), if_neg (by simp [hreserved]), if_neg (by simp [hform]),
    if_neg (by omega), if_neg (by simp), if_neg (by simp [hnext]), if_neg (by omega), if_pos (by simp),
    if_neg (by simp [hr])]
  rfl

end

theorem effClnLinData_ok {c : Cmd} {s : State} (hp : c.p 32 1 ≤ 63 ∧ 1 ≤ c.p 33 1 ∧ c.p 33 1 ≤ 8 ∧
    c.zero 34 2 = true) :
    effClnLinData c s = .ok (setPublish (c.inst - 16) (c.p 32 1) (slice c.payload 4 (c.p 33 1)) s) [] 0 := by
  obtain ⟨hid, hlo, hhi, hreserved⟩ := hp
  unfold effClnLinData
  simp only
  rw [if_neg (by omega), if_neg (by omega), if_neg (by simp [hreserved])]
  rfl

/-- The value 1 puts an awake channel to sleep: at once where no slot is in progress, else at the slot's end (R328). -/
theorem effClnLinPower_sleeps {c : Cmd} {s : State} (hz : c.zero 33 3 = true) (h1 : c.p 32 1 = 1)
    (hs : linState s (c.inst - 16) ≠ 0 ∧ linState s (c.inst - 16) ≠ 3) :
    effClnLinPower c s = .wait (if slotOver s (c.inst - 16) && (tget none s.cln.onBus (c.inst - 16)).isNone
      then linGoToSleep (c.inst - 16) s else setNext (c.inst - 16) (some .sleep) s) := by
  unfold effClnLinPower
  simp only
  rw [if_neg (by simp [hz]), if_pos h1, if_neg (by omega)]
  split <;> rfl

/-- The value 2 sends a sleeping channel's wake pulse (R328). -/
theorem effClnLinPower_wakes {c : Cmd} {s : State} (hz : c.zero 33 3 = true) (h2 : c.p 32 1 = 2)
    (hs : linState s (c.inst - 16) = 3) : effClnLinPower c s = .wait (busSend (.linPulse (c.inst - 16)) s) := by
  unfold effClnLinPower
  simp only
  rw [if_neg (by simp [hz]), if_neg (by omega), if_pos h2, if_pos hs]

/-- Settles O39: each opcode's execution passes its checks and answers OK with the setting, the buffer, the schedule or
the counters, or goes on until the bus ends it. -/
theorem canAndLinOpcodes : Obligations.CanAndLinOpcodes := by
  refine ⟨?_, ?_, ?_, ?_, ?_, ?_, ?_, ?_, ?_, ?_, ?_, ?_, ?_, ?_, ?_, ?_, ?_, ?_⟩
  · intro ring slot c s0 s h hv ht hoff hgw
    exact opRow_ok h (effClnCanConfig_ok hv ht hoff hgw) (by decide) (by simp)
  · intro ring slot c s0 s h hp ht
    exact opRow_ok h (effClnCanMode_ok hp ht) (by decide) (by simp)
  · intro ring slot c s0 s h hp hid hlen htime hperiod hbuf hroom
    exact opRow_ok h (effClnCanTxLoad_ok hp hid hlen htime hperiod hbuf hroom) (by decide) (by simp)
  · intro ring slot c s0 s h hp hst
    exact opRow_ok h (effClnCanTxAbort_waiting hp hst) (by decide) (by simp)
  · intro ring slot c s0 s h hp hst
    exact opRow_wait h (effClnCanTxAbort_onBus hp hst)
  · intro ring slot c s0 s h hp
    exact opRow_ok h (effClnCanTxStatus_ok hp) (by decide) (by simp)
  · intro ring slot c s0 s h hp
    exact opRow_ok h (effClnCanFilter_ok hp) (by decide) (by simp)
  · intro ring slot c s0 s h hs
    exact opRow_ok h (effClnCanRecover_ok hs) (by decide) (by simp)
  · intro ring slot c s0 s h hp
    exact opRow_ok h (effClnCanWakeCfg_ok hp) (by decide) (by simp)
  · intro ring slot c s0 s h
    exact opRow_ok (eff := effClnCanCounters) h rfl (by decide) (by simp)
  · intro ring slot c s0 s h hv hd
    exact opRow_ok h (effClnLinConfig_ok hv hd) (by decide) (by simp)
  · intro ring slot c s0 s h hp hf hr
    exact opRow_ok h (effClnLinSchedLoad_ok hp hf hr) (by decide) (by simp)
  · rintro ring slot c s0 s t h ⟨hlast, hfirst, h0, hp⟩ hc hn ht
    exact opRow_ok h (effClnLinRun_switches ⟨hlast, hfirst, hp⟩ hn h0 hc ht) (by decide) (by simp)
  · rintro ring slot c s0 s r h ⟨hlast, hfirst, h1, hp⟩ hn hr
    exact opRow_ok h (effClnLinRun_stops ⟨hlast, hfirst, hp⟩ hn h1 hr) (by decide) (by simp)
  · intro ring slot c s0 s h hp
    exact opRow_ok h (effClnLinData_ok hp) (by decide) (by simp)
  · rintro ring slot c s0 s h ⟨h1, hz, hs⟩
    exact opRow_wait h (effClnLinPower_sleeps hz h1 hs)
  · rintro ring slot c s0 s h ⟨h2, hz, hs⟩
    exact opRow_wait h (effClnLinPower_wakes hz h2 hs)
  · intro ring slot c s0 s h
    exact opRow_ok (eff := effClnLinCounters) h rfl (by decide) (by simp)

end Sys2Proof.Machine
end

section
namespace Sys2Proof.Machine

/-! ### What the channels' shared operations leave alone (R307) -/

/-- CLN's EVENT_CHAN and EVENT registers alone show an event. -/
theorem sameRegs_clnEvent (inst i : Nat) (s : State) : SameRegs [rg 9 0x18, rg 9 0x10] s (clnEvent inst i s) :=
  ((sameRegs_wr (rg 9 0x18) _ s).mono (by simp)).trans ((sameRegs_wr (rg 9 0x10) _ _).mono (by simp))

@[simp] theorem clnEvent_cln (inst i : Nat) (s : State) : (clnEvent inst i s).cln = s.cln := rfl

/-- Neither an event nor a LIN channel's wake counter changes its L_CFG. -/
theorem rd_clnEvent_linCount_cfg (inst i m : Nat) (s : State) :
    (clnEvent inst i (linCount m 0x5C s)).rd (linReg m 4) = s.rd (linReg m 4) := by
  rw [sameRegs_clnEvent inst i (linCount m 0x5C s) _ ?_]
  · refine State.rd_cnt_ne s 1 ?_
    simp only [linReg, rg_eq]
    omega
  · simp only [linReg, rg_eq, List.mem_cons, List.not_mem_nil, or_false]
    omega

/-- TEC reads what was set; the events that it raises are registers. -/
theorem tec_setErr (ch t r : Nat) (s : State) : tec (setErr ch t r s) ch = t := by
  have h : (setErr ch t r s).cln.tec = tput 0 s.cln.tec ch t := by
    simp only [setErr, apply_ite State.cln, clnEvent_cln, ite_self, State.sf_cln, State.sb_cln, State.withCln_cln]
  rw [tec, h, tget_tput_same]

/-! ### CAN frames and errors (R305, R307, R308, R312, R313) -/

/-- What a channel in RUN is. -/
theorem canRuns_iff {s : State} {ch : Nat} :
    canRuns s ch = true ↔ ch < 16 ∧ canFitted s.tier ch = true ∧ canState s ch = 2 := by
  simp [canRuns, and_assoc]

/-- What a channel that takes full part in the bus is. -/
theorem canActive_iff {s : State} {ch : Nat} : canActive s ch = true ↔ canRuns s ch = true ∧ canMode s ch = 1 := by
  simp [canActive]

section
variable {ch fmt id sdt vcid af ago : Nat} {ide rr esi sec : Bool} {data : List Byte} {s : State}
  (hu : s.up = true) (hlen : canLenOk fmt data.length = true)
include hu hlen

/-- A frame of another node ends a lost arbitration of a channel in RUN and is taken. -/
theorem execCanFrameReceived_running (hr : canRuns s ch = true) :
    execCanFrameReceived ch fmt id ide rr esi data sdt vcid sec af ago s =
      .next (gwyReport ch (frameEnded ch (canTake ch ((s.now + timeSpan - ago % timeSpan) % timeSpan)
        ⟨fmt, id % 2 ^ 29, ide, rr, esi, data, sdt % 256, vcid % 256, sec, af % 2 ^ 32⟩ (lostArbitration ch s)))) := by
  obtain ⟨hch, hfitted, -⟩ := canRuns_iff.mp hr
  refine act_eq hu ?_
  simp only
  rw [if_neg (by simp [hch, hfitted, hlen]), if_pos hr]

/-- Outside RUN it only ends. -/
theorem execCanFrameReceived_notRunning (hch : ch < 16 ∧ canFitted s.tier ch = true) (hr : canRuns s ch = false) :
    execCanFrameReceived ch fmt id ide rr esi data sdt vcid sec af ago s = .next (gwyReport ch (frameEnded ch s)) := by
  refine act_eq hu ?_
  simp only
  rw [if_neg (by simp [hch, hlen]), if_neg (by simp [hr])]

end

section
variable {ch : Nat} {s : State} (hu : s.up = true) (hidle : onBus s ch = none ∧ canBusy s ch = false)
include hu hidle

/-- The pending buffer that wins its channel's arbitration and that of the bus starts. -/
theorem execCanTxStart_wins {i : Nat} (ha : canActive s ch = true) (hw : winner s ch = some i) :
    execCanTxStart (ch, true) s = .next (setBuf ch i { buf s ch i with st := 3, sof := s.now } s) := by
  obtain ⟨hch, hfitted, -⟩ := canRuns_iff.mp (canActive_iff.mp ha).1
  unfold execCanTxStart
  refine act_eq hu ?_
  simp only
  rw [if_neg (by simp [hch, hfitted, hidle]), if_neg (by simp), if_pos ha, hw]

/-- Another node's frame marks the bus busy. -/
theorem execCanTxStart_loses (hch : ch < 16 ∧ canFitted s.tier ch = true) :
    execCanTxStart (ch, false) s = .next (setBusy ch true s) := by
  unfold execCanTxStart
  refine act_eq hu ?_
  simp only
  rw [if_neg (by simp [hch, hidle]), if_pos (by simp)]

end

/-- A frame sent without error is recorded, its buffer ends, and TEC falls. -/
theorem execCanTxDone_sent {ch i : Nat} {s t : State} (hu : s.up = true) (hr : canRuns s ch = true)
    (hi : onBus s ch = some i) (ha : (buf s ch i).abort = false)
    (ht : t = measureDelay ch (buf s ch i).frame.fmt (busSend (.can ch (buf s ch i).frame) (canCount ch 0x40 s))) :
    execCanTxDone ch s = .next (gwyReport ch (frameEnded ch
      (setErr ch (tec t ch - 1) (recv t ch) (setBuf ch i (buf s ch i).sent t)))) := by
  subst ht
  refine act_eq hu ?_
  rw [if_neg (by simp [hr])]
  simp only [hi, ha, Bool.false_eq_true, if_false]

/-- Counters are registers: they show nothing of the buffer on the bus. -/
theorem onBus_canCount (ch off : Nat) (s : State) : onBus (canCount ch off s) ch = onBus s ch := rfl

/-- An error is counted and handled by the channel's part in the frame: transmitter of buffer `i`, or receiver. -/
theorem execCanBusError_running {ch kind at_ : Nat} {alt : Bool} {s : State} (hu : s.up = true)
    (hr : canRuns s ch = true) : execCanBusError ch kind at_ alt s =
      .next (errorEnded ch ((onBus s ch).elim (rxError ch kind at_ alt (canCount ch (errOff kind) s))
        (fun i => txError ch i kind at_ alt (canCount ch (errOff kind) s)))) := by
  obtain ⟨hch, hfitted, -⟩ := canRuns_iff.mp hr
  refine act_eq hu ?_
  rw [if_neg (by simp [hch, hfitted]), if_neg (by simp [hr])]
  simp only [onBus_canCount]
  cases onBus s ch <;> rfl

/-- An error before the data phase that is no collision, of a buffer that is retried, raises TEC by 8 where that leads
to no bus-off. -/
theorem txError_retried {ch i kind at_ : Nat} {s t : State} (hc : ¬ (kind = 0 ∧ (at_ = 1 ∨ at_ = 2))) (hat : at_ < 2)
    (ha : (buf s ch i).abort = false) (hf : (buf s ch i).failed.2 = false)
    (ht : t = errorFrame ch true (setBuf ch i (buf s ch i).failed.1 s)) (htec : tec t ch + 8 ≤ 255) :
    txError ch i kind at_ false s = setErr ch (tec t ch + 8) (recv t ch) t := by
  unfold txError
  simp only [if_neg hc, if_neg (Nat.not_le.mpr hat), ha, hf, ← ht, Bool.false_eq_true, if_false, tec_setErr,
    if_neg (Nat.not_lt.mpr htec)]

/-! ### Transceivers (R321, R322) -/

/-- A wake-up pattern that a transceiver watches for wakes. -/
theorem execCanWakeDetect_pattern {ch id : Nat} {ide : Bool} {data : Nat × List Byte} {s : State}
    (hch : ch < 16 ∧ canFitted s.tier ch = true ∧ canWatches s ch = true)
    (hm : (tget WakeCfg.zero s.cln.wake ch).mode = 1) :
    execCanWakeDetect ch 0 ide id data s = .next (keyFire (8 + ch) 0 (if s.up then clnEvent ch 8 s else s)) := by
  unfold execCanWakeDetect
  simp only
  rw [if_neg (by simp [hch]), if_pos hm, if_pos trivial]
  rfl

/-! ### LIN slots (R325, R326, R327, R328) -/

section
variable {m : Nat} {s : State} (hu : s.up = true)
  (hm : m < 8 ∧ s.bit (linReg m 0) 0 = true ∧ tget none s.cln.onBus m = none ∧ slotOver s m = true)
include hu hm

/-- Where nothing waits, the next slot of the range starts as the one before it ends. -/
theorem execLinSlotStart_goesOn {r : LinRun} (hn : tget none s.cln.next m = none)
    (hr : tget none s.cln.runs m = some r) : execLinSlotStart m s =
      .next (startSlot m r.first r.last (if r.slot = r.last then r.first else r.slot + 1) r.ends s) := by
  refine act_eq hu ?_
  rw [if_neg (by simp [hm])]
  simp only [hn, hr]

/-- A switch whose instant has come begins its range. -/
theorem execLinSlotStart_switches {f l t : Nat} (hn : tget none s.cln.next m = some (.switch f l t)) (ht : t ≤ s.now) :
    execLinSlotStart m s = .next (startSlot m f l f t (setLinState m 2 (setNext m none s))) := by
  refine act_eq hu ?_
  rw [if_neg (by simp [hm])]
  simp only [hn]
  rw [if_pos ht]

theorem execLinSlotStart_stops (hn : tget none s.cln.next m = some .stop) :
    execLinSlotStart m s = .next (setLinState m 1 (setNext m none (setRun m none s))) := by
  refine act_eq hu ?_
  rw [if_neg (by simp [hm])]
  simp only [hn]

theorem execLinSlotStart_sleeps (hn : tget none s.cln.next m = some .sleep) :
    execLinSlotStart m s = .next (linGoToSleep m s) := by
  refine act_eq hu ?_
  rw [if_neg (by simp [hm])]
  simp only [hn]

end

section
variable {m : Nat} {data : List Byte} {chk : Option Nat} {framing : Bool} {x : LinFrame} {s t : State}
  (hu : s.up = true) (hx : tget none s.cln.onBus m = some x) (hs : x.toSleep = false)
  (ht : t = s.withCln (fun c => { c with onBus := tput none c.onBus m none }))
include hu hx hs ht

/-- A published frame that is read back as it was sent is counted as good. -/
theorem execLinSlotEnd_published (hp : x.publish.isSome = true) :
    execLinSlotEnd m data chk framing false s = .next (linOk m t) := by
  subst ht
  obtain ⟨bs, hbs⟩ := Option.isSome_iff_exists.mp hp
  refine act_eq hu ?_
  simp only [hx, hbs, hs, Bool.false_eq_true, if_false]

/-- A subscribed response with an error is counted by its flags and recorded with them. -/
theorem execLinSlotEnd_faulty (hp : x.publish = none) (hf : linFlags x (data.take x.len) chk framing ≠ 0) :
    execLinSlotEnd m data chk framing false s = .next (clnRecord (16 + m)
      [x.start % 1000000000 + x.start / 1000000000 % 2 ^ 32 * 2 ^ 32,
        x.id + x.typ * 64 + (data.take x.len).length * 512 + linFlags x (data.take x.len) chk framing * 2 ^ 13 +
          (16 + m) * 2 ^ 48, leAt (data.take x.len) 0 8]
      (linErrors m (linFlags x (data.take x.len) chk framing) t)).2 := by
  subst ht
  refine act_eq hu ?_
  simp only [hx, hp, hs, Bool.false_eq_true, if_false]
  rw [if_neg hf]

end

/-- A sleeping channel with WAKE_EN that sees a wake counts and raises it, and Keystone hears of it (R328, R504). -/
theorem execLinWakeDetect_asleep {m : Nat} {s : State}
    (hm : m < 8 ∧ linFitted s.tier m = true ∧ s.sys.phase = .running) (hs : linState s m = 3)
    (hw : s.bit (linReg m 4) 8 = true) :
    execLinWakeDetect m s = .next (keyFire (24 + m) 0 (clnEvent (16 + m) 8 (linCount m 0x5C s))) := by
  obtain ⟨hlt, hfitted, hphase⟩ := hm
  have hkeeps : (clnEvent (16 + m) 8 (linCount m 0x5C s)).bit (linReg m 4) 8 = true := by
    rw [State.bit, rd_clnEvent_linCount_cfg]
    exact hw
  unfold execLinWakeDetect
  simp only
  rw [if_neg (by simp [hlt, hfitted])]
  simp only [hphase]
  rw [if_pos hs, if_pos hkeeps]

/-- Settles O40: an event finds its channel in the state it asks for, and leaves what its operation makes of it. -/
theorem canAndLinBuses : Obligations.CanAndLinBuses := by
  refine ⟨?_, ?_, ?_, ?_, ?_, ?_, ?_, ?_, ?_, ?_, ?_, ?_, ?_, ?_, ?_, ?_, ?_, ?_, ?_, ?_, ?_, ?_⟩
  · intro ch s hu h
    exact act_eq hu (if_pos h)
  · intro ch s hu h
    exact act_eq hu (if_pos h)
  · rintro ch fmt id ide rr esi data sdt vcid sec af ago s hu ⟨hr, hlen⟩
    exact execCanFrameReceived_running hu hlen hr
  · rintro ch fmt id ide rr esi data sdt vcid sec af ago s hu ⟨hch, hfitted, hr, hlen⟩
    exact execCanFrameReceived_notRunning hu hlen ⟨hch, hfitted⟩ hr
  · rintro ch i s hu ⟨ha, hidle⟩ hw
    exact execCanTxStart_wins hu hidle ha hw
  · rintro ch s hu ⟨hch, hfitted, hidle⟩
    exact execCanTxStart_loses hu hidle ⟨hch, hfitted⟩
  · rintro ch i s t hu ⟨hr, hi, ha⟩ ht
    exact execCanTxDone_sent hu hr hi ha ht
  · rintro ch kind at_ alt s hu ⟨hr, hi⟩
    refine (execCanBusError_running hu hr).trans ?_
    rw [hi, Option.elim_none]
  · rintro ch kind i at_ alt s hu ⟨hr, hi⟩
    refine (execCanBusError_running hu hr).trans ?_
    rw [hi, Option.elim_some]
  · rintro ch i s t ⟨-, ha, hf⟩ ht htec
    exact txError_retried (by decide) (by decide) ha hf ht htec
  · intro ch i s hu h
    exact act_eq hu (if_pos h)
  · intro ch i s hu h
    exact act_eq hu (if_pos h)
  · intro ch s hu h
    exact act_eq hu (if_pos h)
  · intro ch ide id dlc data s hch hm
    exact execCanWakeDetect_pattern hch hm
  · rintro m r s hu hm ⟨hn, hr⟩
    exact execLinSlotStart_goesOn hu hm hn hr
  · rintro m f l t s hu hm ⟨hn, ht⟩
    exact execLinSlotStart_switches hu hm hn ht
  · intro m s hu hm hn
    exact execLinSlotStart_stops hu hm hn
  · intro m s hu hm hn
    exact execLinSlotStart_sleeps hu hm hn
  · rintro m data chk framing x s hu hx ⟨hp, hs⟩
    exact execLinSlotEnd_published hu hx hs rfl hp
  · rintro m data chk framing x s t hu hx ⟨hp, hs⟩ ht hf
    exact execLinSlotEnd_faulty hu hx hs ht hp hf
  · rintro m s hm ⟨hs, hw⟩
    exact execLinWakeDetect_asleep hm hs hw
  · intro m s hu h
    exact act_eq hu (if_pos h)

end Sys2Proof.Machine
end

section
namespace Sys2Proof.Machine

/-! ### What a command's keys and sources need (R336, R361) -/

/-- The source is fitted where it is a CAN or LIN channel, and the issuer's mask of GWY's table grants it. -/
def SourceGranted (c : Cmd) (s : State) (n : Nat) : Prop :=
  (n ≤ 23 → clnFitted s n = true) ∧ (s.aclEntry 10 c.issuer).mask.getLsbD (srcMaskBit n) = true

/-- A key of valid form whose source is granted. -/
def KeyGranted (c : Cmd) (s : State) (k : Nat) : Prop := routeKeyForm k = true ∧ SourceGranted c s (keySrc k)

theorem sourceCheck_ok {c : Cmd} {o n : Nat} {s : State} {k : CmdOut} (h : SourceGranted c s n) :
    sourceCheck c o n s k = k := by
  obtain ⟨hfitted, hmask⟩ := h
  unfold sourceCheck
  rw [if_neg (fun ⟨hlin, hun⟩ => by simp [hfitted hlin] at hun), if_pos hmask]

theorem keyed_ok {c : Cmd} {s : State} {f : Nat → CmdOut} (h : KeyGranted c s (c.p 32 8)) :
    keyed c s f = f (c.p 32 8) := by
  obtain ⟨hform, hsource⟩ := h
  unfold keyed
  simp only
  rw [if_neg (by simp [hform]), sourceCheck_ok hsource]

/-- A granted key that has a route goes on with that route. -/
theorem existing_ok {c : Cmd} {s : State} {f : Nat → Route → CmdOut} {i : Nat} (h : KeyGranted c s (c.p 32 8))
    (hi : findRoute s (c.p 32 8) = some i) :
    existing c s f = f i ((route s i).getD { bytes := [], fresh := 0 }) := by
  unfold existing
  rw [keyed_ok h]
  simp only [hi]

/-! ### GWY opcodes of routes, sources, tunnels and profiles (R335, R338, R339, R340, R353, R362)

`<eff>_<case>` says what an opcode's execution answers where the payload has the form that its checks ask for. -/

section
variable {c : Cmd} {s : State} {i : Nat} (hk : KeyGranted c s (c.p 32 8))
  (hp : c.p 40 1 ≤ 3 ∧ c.p 41 1 ≤ 63 ∧ c.p 44 4 ≤ 10000000)
  (ht : ∀ t ∈ entryTargets (slice c.payload 0 48), targetForm t = true ∧ (tKind t = 0 ∨
    ((tKind t = 1 ∨ tKind t = 2 → clnFitted s (tIndex t) = true) ∧
      (s.aclEntry 10 c.issuer).mask.getLsbD (targetMaskBit t) = true)))
include hk hp ht

/-- An entry for a key that has a route replaces it. -/
theorem effGwyRouteWrite_replaces (hi : findRoute s (c.p 32 8) = some i) :
    effGwyRouteWrite c s =
      .ok (setRoute i (some ⟨slice c.payload 0 48, routeFresh s i (slice c.payload 0 48)⟩) s) (leBytes 4 i) 0 := by
  obtain ⟨hflags, hprofile, hlatency⟩ := hp
  unfold effGwyRouteWrite
  simp only
  rw [keyed_ok hk, if_neg (by omega), if_neg (by omega), if_neg (by omega), targetsCheck_ok _ _ ht]
  simp only [hi]
  rfl

/-- One for a new key takes a free way of its bucket, and its freshness counter starts at 0. -/
theorem effGwyRouteWrite_takesWay (hn : findRoute s (c.p 32 8) = none) (hi : freeWay s (c.p 32 8) = some i) :
    effGwyRouteWrite c s = .ok (setRoute i (some ⟨slice c.payload 0 48, 0⟩) s) (leBytes 4 i) 0 := by
  obtain ⟨hflags, hprofile, hlatency⟩ := hp
  unfold effGwyRouteWrite
  simp only
  rw [keyed_ok hk, if_neg (by omega), if_neg (by omega), if_neg (by omega), targetsCheck_ok _ _ ht]
  simp only [hn, hi]
  rfl

end

theorem effGwyRouteDelete_ok {c : Cmd} {s : State} {i : Nat} (hk : KeyGranted c s (c.p 32 8))
    (hi : findRoute s (c.p 32 8) = some i) : effGwyRouteDelete c s = .ok (setRoute i none s) [] 0 :=
  existing_ok hk hi

section
variable {c : Cmd} {s : State} {i : Nat} {r : Route} (hk : KeyGranted c s (c.p 32 8))
  (hi : findRoute s (c.p 32 8) = some i) (hr : route s i = some r)
include hk hi hr

theorem effGwyRouteRead_ok : effGwyRouteRead c s = .ok s (r.bytes ++ leBytes 4 i ++ leBytes 8 r.fresh) 0 := by
  unfold effGwyRouteRead
  rw [existing_ok hk hi, hr]
  rfl

theorem effGwyFreshSet_ok : effGwyFreshSet c s = .ok (setRoute i (some ⟨r.bytes, c.p 40 8⟩) s) [] 0 := by
  unfold effGwyFreshSet
  rw [existing_ok hk hi, hr]
  rfl

end

section
variable {c : Cmd} {s : State} (hn : srcOk (c.p 32 2) = true ∧ SourceGranted c s (c.p 32 2))
  (hz : c.zero 35 1 = true)
include hn hz

theorem effGwySetSource_clears (h0 : c.p 34 1 = 0) : effGwySetSource c s =
    .ok (s.withGwy (fun g => { g with defaults := tput none g.defaults (c.p 32 2) none })) [] 0 := by
  obtain ⟨hsrc, hgranted⟩ := hn
  unfold effGwySetSource
  simp only
  rw [if_neg (by simp [hsrc]), if_neg (by omega), if_neg (by simp [hz]), sourceCheck_ok hgranted, if_pos h0]
  rfl

theorem effGwySetSource_sets (h1 : c.p 34 1 = 1) (hk : KeyGranted c s (c.p 36 8)) : effGwySetSource c s =
    .ok (s.withGwy (fun g =>
      { g with defaults := tput none g.defaults (c.p 32 2) (some (leBytes 8 (c.p 36 8))) })) [] 0 := by
  obtain ⟨hsrc, hgranted⟩ := hn
  obtain ⟨hform, hdefault⟩ := hk
  unfold effGwySetSource
  simp only
  rw [if_neg (by simp [hsrc]), if_neg (by omega), if_neg (by simp [hz]), sourceCheck_ok hgranted, if_neg (by omega),
    if_neg (by simp [hform]), sourceCheck_ok hdefault]
  rfl

end

section
variable {c : Cmd} {s : State}
  (hv : fld (c.w 32) 31 6 = 0 ∧ (c.p 42 2).testBit 12 = false ∧ tunnelRange c = none ∧ c.zero 61 1 = true)
include hv

theorem effGwyTunnelCfg_stores (hd : (tunnel s c.inst).en = false) : effGwyTunnelCfg c s =
    .ok (setTunnel c.inst { tunnel s c.inst with
      flags := c.w 32, da := slice c.payload 4 6, vidPcp := c.p 42 2, streamOut := slice c.payload 12 8,
      streamIn := slice c.payload 20 8, bundleMax := c.p 60 1, maxPayload := c.p 62 2, timeoutUs := c.p 64 4,
      latencyUs := c.p 68 4 } s) [] 0 := by
  obtain ⟨hflags, htag, hrange, hreserved⟩ := hv
  unfold effGwyTunnelCfg
  simp only
  rw [if_neg (by simp [hflags]), if_neg (by simp [htag])]
  simp only [hrange]
  rw [if_neg (by simp [hreserved]), if_neg (by simp [hd])]
  rfl

/-- Of an enabled tunnel EN alone changes, after its bundle is sent (R353). -/
theorem effGwyTunnelCfg_disables (he : (tunnel s c.inst).en = true) (h0 : bitOf (c.w 32) 0 = false) :
    effGwyTunnelCfg c s = .ok (setTunnel c.inst { tunnel (closeBundle c.inst s) c.inst with
      flags := setBit (tunnel (closeBundle c.inst s) c.inst).flags 0 false } (closeBundle c.inst s)) [] 0 := by
  obtain ⟨hflags, htag, hrange, hreserved⟩ := hv
  unfold effGwyTunnelCfg
  simp only
  rw [if_neg (by simp [hflags]), if_neg (by simp [htag])]
  simp only [hrange]
  rw [if_neg (by simp [hreserved]), if_pos he, if_neg (by simp [h0])]
  rfl

end

theorem effGwyAuthProfile_ok {c : Cmd} {s : State} (hp : c.p 32 1 ≤ 63 ∧ 3 ≤ c.p 33 1 ∧ c.p 33 1 ≤ 16 ∧
    c.p 34 1 ≤ 8 ∧ c.zero 35 1 = true ∧ c.p 36 2 ≤ 1023 ∧ c.zero 38 2 = true ∧ c.p 40 4 ≠ 0) :
    effGwyAuthProfile c s = .ok (s.withGwy (fun g => { g with
      profiles := tput Profile.zero g.profiles (c.p 32 1) ⟨c.p 36 2, c.p 33 1, c.p 34 1, c.p 40 4⟩ })) [] 0 := by
  obtain ⟨hprofile, hmacLo, hmacHi, hfresh, hreserved, hkey, hreserved', hwindow⟩ := hp
  unfold effGwyAuthProfile
  simp only
  rw [if_neg (by omega), if_neg (by omega), if_neg (by omega), if_neg (by simp [hreserved]), if_neg (by omega),
    if_neg (by simp [hreserved']), if_neg hwindow]
  rfl

/-! ### GWY opcodes of the NM engines (R512, R519, R520) -/

section
variable {c : Cmd} {s : State} (hv : c.w 32 &&& ~~~ 0x0001FF0F#32 = 0 ∧ nmForm c = none ∧ 100 ≤ c.p 48 2 ∧
  100 ≤ c.p 52 2 ∧ 10 ≤ c.p 54 2) (htag : (c.p 70 2).testBit 12 = false) (hd : nmEn s c.inst = false)
include hv htag hd

/-- A disabled engine of a CAN channel takes a configuration in range. -/
theorem effGwyNmCfg_can (he : c.inst < 16) : effGwyNmCfg c s = .ok (nmEnable c.inst (bitOf (c.w 32) 0)
    ((((((s.wr (nmReg c.inst 0) (setBit (c.w 32) 0 false)).wr (nmReg c.inst 4) (c.w 36)).wr (nmReg c.inst 8)
      (c.w 40)).wr (nmReg c.inst 0xC) (c.w 44)).wr (nmReg c.inst 0x10) (c.w 48)).wr (nmReg c.inst 0x14) (c.w 52)))
    [] 0 := by
  obtain ⟨hreserved, hform, hmsg, htimers⟩ := hv
  unfold effGwyNmCfg
  simp only
  rw [if_neg (not_not_intro hreserved)]
  simp only [hform]
  rw [if_neg (by omega), if_neg (by omega), if_neg (by simp [htag]), if_neg (by omega), if_neg (by simp [hd]),
    if_pos he]
  rfl

/-- One of an Ethernet engine also takes the header that its PDUs have. -/
theorem effGwyNmCfg_ethernet (he : 16 ≤ c.inst ∧ c.p 70 2 % 4096 ≠ 0 ∧ c.p 70 2 % 4096 ≠ 4095) :
    effGwyNmCfg c s = .ok (nmEnable c.inst (bitOf (c.w 32) 0)
    ((((((((((s.wr (nmReg c.inst 0) (setBit (c.w 32) 0 false)).wr (nmReg c.inst 4) (c.w 36)).wr (nmReg c.inst 8)
      (c.w 40)).wr (nmReg c.inst 0xC) (c.w 44)).wr (nmReg c.inst 0x10) (c.w 48)).wr (nmReg c.inst 0x14) (c.w 52)).wr
      (nmReg c.inst 0x2C) (c.w 56)).wr (nmReg c.inst 0x30) (c.w 60)).wr (nmReg c.inst 0x34) (c.w 64)).wr
      (nmReg c.inst 0x38) (BitVec.ofNat 32 (c.p 68 2 + c.p 70 2 % 4096 * 2 ^ 16 + c.p 70 2 / 8192 * 2 ^ 29))))
    [] 0 := by
  obtain ⟨hreserved, hform, hmsg, htimers⟩ := hv
  unfold effGwyNmCfg
  simp only
  rw [if_neg (not_not_intro hreserved)]
  simp only [hform]
  rw [if_neg (by omega), if_neg (by omega), if_neg (by simp [htag]), if_neg (by omega), if_neg (by simp [hd]),
    if_neg (Nat.not_lt.mpr he.1)]
  rfl

end

section
variable {c : Cmd} {s : State} (hz : c.zero 33 3 = true) (hen : nmEn s c.inst = true)
include hz hen

/-- REQUEST leaves a sleep state for REPEAT_MESSAGE and READY_SLEEP for NORMAL_OPERATION with a PDU; elsewhere it is only
kept (R512). -/
theorem effGwyNmRequest_request (h1 : c.p 32 1 = 1) : effGwyNmRequest c s =
    .ok (if nmState s c.inst = 1 ∨ nmState s c.inst = 2
      then nmRepeat c.inst 0x10 (s.sb (nmReg c.inst 0x20) 3 true)
      else if nmState s c.inst = 5 then nmSend c.inst 0 (setNm c.inst 4 (s.sb (nmReg c.inst 0x20) 3 true))
      else s.sb (nmReg c.inst 0x20) 3 true) [] 0 := by
  unfold effGwyNmRequest
  simp only [h1]
  rw [if_neg (by omega), if_neg (by simp [hz]), if_neg (by simp [hen])]
  rfl

/-- RELEASE leaves NORMAL_OPERATION for READY_SLEEP, and elsewhere only drops the request (R512). -/
theorem effGwyNmRequest_release (h2 : c.p 32 1 = 2) : effGwyNmRequest c s =
    .ok (if nmState s c.inst = 4 then setNm c.inst 5 (s.sb (nmReg c.inst 0x20) 3 false)
      else s.sb (nmReg c.inst 0x20) 3 false) [] 0 := by
  unfold effGwyNmRequest
  simp only [h2]
  rw [if_neg (by omega), if_neg (by simp [hz]), if_neg (by simp [hen])]
  rfl

/-- REPEAT enters REPEAT_MESSAGE from NORMAL_OPERATION and READY_SLEEP (R512). -/
theorem effGwyNmRequest_repeat (h3 : c.p 32 1 = 3) : effGwyNmRequest c s =
    .ok (if nmState s c.inst = 4 ∨ nmState s c.inst = 5 then nmRepeat c.inst 1 s else s) [] 0 := by
  unfold effGwyNmRequest
  simp only [h3]
  rw [if_neg (by omega), if_neg (by simp [hz]), if_neg (by simp [hen])]
  rfl

end

theorem effGwyNmUdata_ok {c : Cmd} {s : State} (hz : c.zero 38 2 = true) : effGwyNmUdata c s =
    .ok ((s.wr (nmReg c.inst 0x18) (c.w 32)).wr (nmReg c.inst 0x1C) (BitVec.ofNat 32 (c.p 36 2))) [] 0 :=
  if_neg (by simp [hz])

/-- Settles O41: each opcode's execution passes its checks and answers OK with the route, default key, tunnel, profile
or engine, or with the counters read. -/
theorem gatewayOpcodes : Obligations.GatewayOpcodes := by
  refine ⟨?_, ?_, ?_, ?_, ?_, ?_, ?_, ?_, ?_, ?_, ?_, ?_, ?_, ?_, ?_, ?_, ?_, ?_⟩
  · rintro ring slot c s0 s k i h ⟨rfl, hk⟩ hp ht hi
    exact opRow_ok h (effGwyRouteWrite_replaces hk hp ht hi) (by decide) (by simp)
  · rintro ring slot c s0 s k i h ⟨rfl, hk⟩ hp ht hn hi
    exact opRow_ok h (effGwyRouteWrite_takesWay hk hp ht hn hi) (by decide) (by simp)
  · rintro ring slot c s0 s k i h ⟨rfl, hk⟩ hi
    exact opRow_ok h (effGwyRouteDelete_ok hk hi) (by decide) (by simp)
  · rintro ring slot c s0 s k i r h ⟨rfl, hk⟩ ⟨hi, hr, hlen⟩
    exact opRow_ok h (effGwyRouteRead_ok hk hi hr) (by decide) (by simp [hlen])
  · rintro ring slot c s0 s k i r h ⟨rfl, hk⟩ ⟨hi, hr⟩
    exact opRow_ok h (effGwyFreshSet_ok hk hi hr) (by decide) (by simp)
  · rintro ring slot c s0 s n h ⟨rfl, hn⟩ ⟨h0, hz⟩
    exact opRow_ok h (effGwySetSource_clears hn hz h0) (by decide) (by simp)
  · rintro ring slot c s0 s n k h ⟨rfl, hn⟩ ⟨h1, hz⟩ ⟨rfl, hk⟩
    exact opRow_ok h (effGwySetSource_sets hn hz h1 hk) (by decide) (by simp)
  · intro ring slot c s0 s h hv hd
    exact opRow_ok h (effGwyTunnelCfg_stores hv hd) (by decide) (by simp)
  · rintro ring slot c s0 s h hv ⟨he, h0⟩
    exact opRow_ok h (effGwyTunnelCfg_disables hv he h0) (by decide) (by simp)
  · intro ring slot c s0 s h hp
    exact opRow_ok h (effGwyAuthProfile_ok hp) (by decide) (by simp)
  · intro ring slot c s0 s h
    exact opRow_ok (eff := effGwyCounters) h rfl (by decide) (by simp)
  · rintro ring slot c s0 s h hv ⟨htag, he⟩ hd
    exact opRow_ok h (effGwyNmCfg_can hv htag hd he) (by decide) (by simp)
  · rintro ring slot c s0 s h hv ⟨htag, he⟩ hd
    exact opRow_ok h (effGwyNmCfg_ethernet hv htag hd he) (by decide) (by simp)
  · rintro ring slot c s0 s h ⟨h1, hz, hen⟩
    exact opRow_ok h (effGwyNmRequest_request hz hen h1) (by decide) (by simp)
  · rintro ring slot c s0 s h ⟨h2, hz, hen⟩
    exact opRow_ok h (effGwyNmRequest_release hz hen h2) (by decide) (by simp)
  · rintro ring slot c s0 s h ⟨h3, hz, hen⟩
    exact opRow_ok h (effGwyNmRequest_repeat hz hen h3) (by decide) (by simp)
  · intro ring slot c s0 s h hlen
    exact opRow_ok (eff := effGwyNmStatus) h rfl (by decide)
      (by simp only [List.length_append, readRegs_length, takeCounters_length, List.length_cons, List.length_nil, hlen,
        Nat.reduceAdd, Nat.reduceMul, Nat.reduceLeDiff])
  · intro ring slot c s0 s h hz
    exact opRow_ok h (effGwyNmUdata_ok hz) (by decide) (by simp)

end Sys2Proof.Machine
end

section
namespace Sys2Proof.Machine

/-! ### Records of a FIFO (R334, R378) -/

section
variable {n : Nat} {p : List SWord} {r : List (List SWord)} {s : State} (hq : gwyInbox s n = p :: r)
include hq

/-- A record with wrong parity is dropped and counted on its FIFO too. -/
theorem actRecord_parity : actRecord n true s = poisoned (((popRecord n s).cnt (sprReg n 0x24) 1).raise 11 2) := by
  unfold actRecord
  simp only [hq, if_true]

theorem actRecord_poison (hp : p.any (fun w => w.tag == 3) = true) :
    actRecord n false s = poisoned (popRecord n s) := by
  unfold actRecord
  simp only [hq, Bool.false_eq_true, if_false, hp, if_true]

/-- A GAP marker is counted. -/
theorem actRecord_gap (hp : p.any (fun w => w.tag == 3) = false) (hg : recordGood p = false) :
    actRecord n false s = gwyCount 0x10C (popRecord n s) := by
  unfold actRecord
  simp only [hq, Bool.false_eq_true, if_false, hp, hg, Bool.not_false, if_true]

/-- The message of a whole record that no NM engine takes is looked up. -/
theorem actRecord_message (hp : p.any (fun w => w.tag == 3) = false) (hg : recordGood p = true)
    (hnm : n < 16 → nmTakes s n (recordMsg s n (p.map (·.data))).frame = false) :
    actRecord n false s = takeMsg (recordMsg s n (p.map (·.data))) (popRecord n s) := by
  unfold actRecord
  simp only [hq, Bool.false_eq_true, if_false, hp, hg, Bool.not_true]
  exact if_neg (fun ⟨hcan, htakes⟩ => by simp [hnm hcan] at htakes)

end

/-- GWY acts on the records that have come through a FIFO by now. -/
theorem execSprueRecord_fifo {n : Nat} {par : Bool} {s t : State} (hu : s.up = true) (hn : n ≤ 24)
    (ht : actRecord n par (hwDrain n s) = t) : execSprueRecord n par s = .next t :=
  act_eq hu ((if_neg (Nat.not_lt.mpr hn)).trans ht)

/-! ### Jobs, releases and tunnel frames (R341, R345, R352, R357) -/

theorem execAuthResult_completes {i : Nat} {w : AuthWait} {j : AuthJob} {s : State} (hu : s.up = true)
    (hw : s.gwy.waits.find? (fun w => w.route == i) = some w) (hj : w.job = some j) : execAuthResult i s =
      .next (endErases (nextAuth (endAuth w j (s.withGwy (fun g => { g with waits := popWait i g.waits }))))) := by
  refine act_eq hu ?_
  simp only [hw, hj]

theorem execReleaseTime_due {x : Timed} {s : State} (hu : s.up = true) (hx : firstTimed s.gwy.timed = some x)
    (hdue : x.at_ ≤ s.now) : execReleaseTime s = .next (handOn x.mid x.target
      (if x.late then gwyCount 0x12C (s.withGwy (fun g => { g with timed := g.timed.erase x }))
        else s.withGwy (fun g => { g with timed := g.timed.erase x }))) := by
  refine act_eq hu ?_
  simp only [hx]
  exact if_neg (Nat.not_lt.mpr hdue)

theorem execTunnelFrameIn_takes {x : IgCopy} {r : List IgCopy} {t : Nat} {s : State} (hu : s.up = true)
    (hx : s.eth.igRx = x :: r) (ht : x.tunnel = some t) :
    execTunnelFrameIn s = .next (tunnelIn x t (s.withEth (fun e => { e with igRx := r }))) := by
  refine act_eq hu ?_
  simp only [hx, ht]

/-! ### Host queues (R360) -/

/-- I_TAIL is not CFG. -/
theorem rd_cfg_wr_injectTail (n : Nat) (v : Word) (s : State) :
    (s.wr (hostReg n 0x20) v).rd (hostReg n 0x10) = s.rd (hostReg n 0x10) :=
  State.rd_wr_ne s v (by simp only [hostReg, rg_eq]; omega)

theorem hostSlots_wr_injectTail (n : Nat) (v : Word) (s : State) :
    hostSlots (s.wr (hostReg n 0x20) v) n = hostSlots s n := by
  simp only [hostSlots, State.f, rd_cfg_wr_injectTail]

/-- A tail within the ring of an enabled queue reads the slots up to it. -/
theorem execInjectDoorbell_takes {m n : Nat} {v : Word} {s t : State} (hm : MayWrite s m 10 (.bit (32 + n)) = true)
    (hn : n < 16) (hv : v.toNat ≤ 65535 ∧ v.toNat < hostSlots s n) (hen : s.bit (hostReg n 0x10) 0 = true)
    (ht : injectTake n v.toNat (hostSlots s n) (s.wr (hostReg n 0x20) v) = some t) :
    execInjectDoorbell m n v s = .next t := by
  have hen' : (s.wr (hostReg n 0x20) v).bit (hostReg n 0x10) 0 = true := by
    rw [State.bit, rd_cfg_wr_injectTail]
    exact hen
  unfold execInjectDoorbell
  rw [withWrite_ok hm, if_neg (Nat.not_le.mpr hn), if_neg (Nat.not_lt.mpr hv.1)]
  simp only [hostSlots_wr_injectTail]
  rw [if_pos hen', if_neg (Nat.not_le.mpr hv.2), ht]
  rfl

/-- CFG is stored while the queue is disabled, with EN only where its ring sizes and interrupt are in range; of an
enabled queue EN alone changes. -/
theorem execHostqCfgWrite_permitted {m n : Nat} {v : Word} {s : State} (hm : MayWrite s m 10 (.bit (32 + n)) = true)
    (hn : n < 16) (hv : v &&& ~~~ 0x007F01FF#32 = 0) : execHostqCfgWrite m n v s =
      .next (if s.bit (hostReg n 0x10) 0 then s.sb (hostReg n 0x10) 0 (bitOf v 0)
        else s.wr (hostReg n 0x10) (setBit v 0 (bitOf v 0 && (decide (4 ≤ fld v 4 1) && decide (fld v 4 1 ≤ 12) &&
          decide (6 ≤ fld v 8 5) && decide (fld v 8 5 ≤ 12) && fld v 22 16 != 0)))) := by
  unfold execHostqCfgWrite
  rw [withWrite_ok hm]
  simp only
  rw [if_neg (Nat.not_le.mpr hn), if_neg (not_not_intro hv)]
  split <;> rfl

/-- Settles O42: a record by its parity and tags, and every other event by what waits for it. -/
theorem gatewayTakesMessages : Obligations.GatewayTakesMessages := by
  refine ⟨?_, ?_, ?_, ?_, ?_, ?_, ?_, ?_, ?_, ?_, ?_⟩
  · rintro n p r s u hu ⟨rfl, hq⟩ ⟨hn, hg, hp⟩ hnm
    exact execSprueRecord_fifo hu hn (actRecord_message hq hp hg hnm)
  · rintro n p r s u hu ⟨rfl, hq⟩ hn
    exact execSprueRecord_fifo hu hn (actRecord_parity hq)
  · rintro n p r s u hu ⟨rfl, hq⟩ ⟨hn, hp⟩
    exact execSprueRecord_fifo hu hn (actRecord_poison hq hp)
  · rintro n p r s u hu ⟨rfl, hq⟩ ⟨hn, hp, hg⟩
    exact execSprueRecord_fifo hu hn (actRecord_gap hq hp hg)
  · rintro i w j s t hu hw hj rfl
    exact execAuthResult_completes hu hw hj
  · rintro x s hu ⟨hx, hdue⟩
    exact execReleaseTime_due hu hx hdue
  · intro ch s hu hch
    exact act_eq hu (if_pos hch)
  · intro t s hu
    exact act_eq hu rfl
  · rintro x r t s hu ⟨hx, ht⟩
    exact execTunnelFrameIn_takes hu hx ht
  · rintro m n v s t hm ⟨hn, hlow, hin, hen⟩ ht
    exact execInjectDoorbell_takes hm hn ⟨hlow, hin⟩ hen ht
  · rintro m n v s hm ⟨hn, hv⟩
    exact execHostqCfgWrite_permitted hm hn hv

end Sys2Proof.Machine
end

section
namespace Sys2Proof.Machine

/-- Settles O1: the step's second equation. -/
theorem stepRunsTheFrontCommand : Obligations.StepRunsTheFrontCommand := fun _ _ _ => rfl

end Sys2Proof.Machine
end

section
namespace Sys2Proof.Machine

/-! ### QRY opcodes (R365–R373, R381, R384)

`<eff>_ok` says what an opcode's execution answers where the payload has the form that its checks ask for. -/

/-- A configuration in range, whose pool is well placed where it is enabled, is stored while no block is in use. -/
theorem effQryPoolCfg_ok {c : Cmd} {s : State}
    (hv : c.p 32 1 ≤ 7 ∧ c.p 33 1 ≤ 3 ∧ c.zero 34 2 = true ∧ c.p 36 4 ≤ 65536 ∧ c.p 40 8 < 2 ^ 40)
    (hplace : (c.p 33 1).testBit 0 = true →
      placeOk s (c.p 32 1) (c.p 40 8) (c.p 36 4) ((c.p 33 1).testBit 1) = true)
    (hidle : poolBusy s (c.p 32 1) = 0) :
    effQryPoolCfg c s = .ok (setPoolCfg (c.p 32 1) (c.p 40 8)
      (BitVec.ofNat 32 (c.p 36 4 + c.p 33 1 * 2 ^ 24)) s) [] 0 := by
  obtain ⟨hpool, hflags, hreserved, hcount, hbase⟩ := hv
  unfold effQryPoolCfg
  simp only
  rw [if_neg (by omega), if_neg (by omega), if_neg (by simp [hreserved]), if_neg (by omega), if_neg (by omega),
    if_neg (by simpa using hplace), if_neg (by simp [hidle])]
  rfl

theorem effQryReqCfg_ok {c : Cmd} {s : State}
    (hq : (List.range 8).find? (fun p => decide (65536 < c.p (32 + 4 * p) 4)) = none) :
    effQryReqCfg c s =
      .ok ((List.range 8).foldl (fun s p => s.wr (reqReg c.inst (4 * p)) (c.w (32 + 4 * p))) s) [] 0 := by
  unfold effQryReqCfg
  rw [hq]
  rfl

/-- An allocation that finds a pool takes that pool's next block. -/
theorem alloc_inl {r size p0 p : Nat} {s : State} (ha : allocate r size s = .inl (p0, p)) :
    alloc r size s = (.inl ((takeBlock r p0 p s).1, p), (takeBlock r p0 p s).2) := by
  unfold alloc
  rw [ha]

theorem effQryAlloc_ok {c : Cmd} {s : State} {p0 p : Nat} (ha : allocate c.inst (c.p 32 4) s = .inl (p0, p)) :
    effQryAlloc c s = .ok (takeBlock c.inst p0 p s).2
      (leBytes 8 (takeBlock c.inst p0 p s).1 ++ leBytes 1 p ++ [0, 0, 0]) 0 := by
  unfold effQryAlloc
  rw [alloc_inl ha]
  rfl

/-- A block that its own requester frees goes to scrub, or is free at once in a pool that is not zeroed (R371, R372). -/
theorem free_held {r a p k : Nat} {s : State} (hb : blockAt s a = some (p, k))
    (hh : (pool s p).held.find? (fun e => e.1 == k) = some (k, r)) :
    free r a s = (none, (setUsed r p (used s r p - 1) (setPool p
      (if poolZero s p then ⟨(pool s p).mark, (pool s p).freed, (pool s p).held.filter (fun e => e.1 != k),
          (pool s p).scrub ++ [k]⟩
        else ⟨(pool s p).mark, (pool s p).freed ++ [k], (pool s p).held.filter (fun e => e.1 != k),
          (pool s p).scrub⟩) s)).cnt (rg 11 0x84) 1) := by
  unfold free
  simp only [hb, hh, ne_eq, not_true_eq_false, if_false]

theorem effQryFree_ok {c : Cmd} {s t : State} {f : Option (Nat × Nat)} (ha : c.p 32 8 < 2 ^ 40)
    (hf : free c.inst (c.p 32 8) s = (f, t)) (hn : f = none) : effQryFree c s = .ok t [] 0 := by
  subst hn
  unfold effQryFree
  rw [if_neg (by omega), hf]
  rfl

/-- The software FIFOs are 25 to 47. -/
theorem soft_iff {n : Nat} : soft n = true ↔ 25 ≤ n ∧ n < 48 := by simp [soft]

section
variable {c : Cmd} {s : State}
  (hn : 25 ≤ c.inst ∧ c.inst < 48) (hv : c.zero 35 1 = true ∧ c.p 33 1 ≤ 127 ∧ c.p 34 1 ≤ 127)
include hn hv

/-- An idle FIFO takes its word. -/
theorem effSprCfg_stores (hf : c.p 32 1 ≤ 1) (hen : sprEn s c.inst = false) :
    effSprCfg c s = .ok (s.wr (sprReg c.inst 0)
      (BitVec.ofNat 32 (c.p 32 1 + c.p 33 1 * 256 + c.p 34 1 * 65536))) [] 0 := by
  obtain ⟨hreserved, hproducer, hconsumer⟩ := hv
  unfold effSprCfg
  simp only
  rw [if_neg (by simp [soft_iff.mpr hn]), if_neg (by omega), if_neg (by simp [hreserved]), if_neg (by omega),
    if_neg (by omega), if_neg (by simp [hen])]
  rfl

/-- One in use is emptied (R602). -/
theorem effSprCfg_disables (hf : c.p 32 1 = 0) (hen : sprEn s c.inst = true) :
    effSprCfg c s = .ok (sprDisable c.inst s) [] 0 := by
  obtain ⟨hreserved, hproducer, hconsumer⟩ := hv
  unfold effSprCfg
  simp only
  rw [if_neg (by simp [soft_iff.mpr hn]), if_neg (by omega), if_neg (by simp [hreserved]), if_neg (by omega),
    if_neg (by omega), if_pos hen, if_pos hf]
  rfl

end

/-! ### QRY registers (R366, R369, R371–R373) -/

theorem execPoolCfgWrite_stores {m p : Nat} {v : Word} {s : State} (hm : MayWrite s m 11 (.bit 32) = true)
    (hv : p < 8 ∧ v &&& ~~~ 0x301FFFF#32 = 0 ∧ fld v 16 0 ≤ 65536 ∧ poolEn s p = false)
    (hplace : bitOf v 24 = true → placeOk s p (poolBase s p) (fld v 16 0) (bitOf v 25) = true) :
    execPoolCfgWrite m p v s = .next (setPoolCfg p (poolBase s p) v s) := by
  obtain ⟨hp, hreserved, hcount, hen⟩ := hv
  unfold execPoolCfgWrite
  rw [withWrite_ok hm, if_neg (by omega), if_neg (not_not_intro hreserved), if_neg (by simp [hen]), if_neg (by omega),
    if_neg (by simpa using hplace)]
  rfl

/-- A read of ALLOC_LO takes the block, latches its high bits with the pool, and shows its low bits. -/
theorem execAllocRead_takes {m r p0 p : Nat} {s t : State} (hm : MayRead s m 11 (.bit r) = true) (hr : r < 32)
    (ha : allocate r (s.f (reqReg r 0x40) 13 0) s = .inl (p0, p))
    (ht : t = State.withQry (takeBlock r p0 p s).2 (fun q => { q with
      allocHi := tput 0 q.allocHi (m * 32 + r)
        (BitVec.ofNat 32 ((takeBlock r p0 p s).1 / 2 ^ 32 % 256 + p * 256)) })) :
    execAllocRead m r s = .next (t.reply m [BitVec.ofNat 32 (takeBlock r p0 p s).1] false) := by
  unfold execAllocRead
  rw [withRead_ok hm, if_neg (by omega), alloc_inl ha, ht]

theorem execFreeCommit_frees {m r : Nat} {v : Word} {s : State} (hm : MayWrite s m 11 (.bit r) = true)
    (hv : r < 32 ∧ fld v 31 8 = 0) : execFreeCommit m r v s =
      .next (free r (fld v 7 0 * 2 ^ 32 + (s.rd (reqReg r 0x4C)).toNat) s).2 := by
  unfold execFreeCommit
  rw [withWrite_ok hm, if_neg (by omega), if_neg (by simp [hv.2])]
  rfl

section
variable {p k : Nat} {s : State} (hu : s.up = true) (hk : p < 8 ∧ (pool s p).scrub.contains k = true)
include hu hk

/-- A finished scrub has written zeros, and the block is free. -/
theorem execScrubDone_frees
    (hb : s.badByte 0x28 (poolBase s p + k * poolSize p) (poolSize p) true = none) :
    execScrubDone p k s = .next ((setPool p
      { pool s p with scrub := (pool s p).scrub.filter (· != k), freed := (pool s p).freed ++ [k] }
      (s.dmaPut 0x28 (poolBase s p + k * poolSize p) (List.replicate (poolSize p) 0))).cnt (rg 11 0xA0) 1) := by
  refine act_eq hu ?_
  simp only
  rw [if_pos hk, hb]

/-- One whose write the fabric refuses stays in scrub. -/
theorem execScrubDone_refused {y : Nat}
    (hb : s.badByte 0x28 (poolBase s p + k * poolSize p) (poolSize p) true = some y) :
    execScrubDone p k s = .next (s.accessFault 0x28 y true) := by
  refine act_eq hu ?_
  simp only
  rw [if_pos hk, hb]

end

/-- A scrub writes nothing beside its block. -/
theorem sameMem_scrub (p counter a n : Nat) (x : Pool) (s : State) :
    SameMem a n s ((setPool p x (s.dmaPut 0x28 a (List.replicate n 0))).cnt counter 1) :=
  fun b hb => s.rdB_dmaPut (m := 0x28) (l := List.replicate n 0) rfl (by simpa using hb)

theorem execQryErrPop_pops {m : Nat} {s : State} (hm : MayRead s m 11 .none = true) :
    execQryErrPop m s = .next ((State.sf (s.withQry (fun q => { q with
      log := q.log.tail, latch := tput LogEntry.none q.latch m (q.log.headD LogEntry.none) })) (rg 11 0x48) 3 0
        s.qry.log.tail.length).reply m [(s.qry.log.headD LogEntry.none).lo] false) :=
  withRead_ok hm

/-! ### Software FIFOs (R378–R382) -/

/-- What the producer of an enabled FIFO writes to PUSH_CMD acts on it. -/
theorem sprWrite_producer {m n : Nat} {f : State → State} {s : State}
    (hm : MayWrite s m 11 (.bit (sprMask n)) = true)
    (hn : soft n = true ∧ sprProducer s n = m ∧ sprEn s n = true) :
    sprWrite m n (fun s => .ok (f s)) s = .next (f s) := by
  obtain ⟨hsoft, hproducer, hen⟩ := hn
  unfold sprWrite
  rw [withWrite_ok hm, if_neg (by simp [hsoft]), if_neg (not_not_intro hproducer), if_pos hen]
  rfl

theorem sprRewind_open {n : Nat} {s : State} (hw : (fifo s n).written ≠ 0) :
    sprRewind n s = (setFifo n (fifo s n).cycle.close s).cnt (sprReg n 0x2C) 1 := if_neg hw

/-- The consumer's read of POP_LO takes the word in stage 0, shows its data, and leaves the rest in the FIFO's
registers. -/
theorem execSpruePop_word {m n : Nat} {bad : Bool} {w : SWord} {r : List (Option SWord)} {s : State}
    (hm : MayRead s m 11 (.bit (sprMask n)) = true) (hn : soft n = true ∧ sprConsumer s n = m)
    (hw : (fifo s n).stages = some w :: r) :
    execSpruePop m n bad s = .next ((sprParity n ((fifo s n).take bad w r).2.2
      (setFifo n ((fifo s n).take bad w r).1.cycle
        ((s.wr (sprReg n 0x18) (BitVec.ofNat 32 (w.data / 2 ^ 32))).wr (sprReg n 0x1C)
          (BitVec.ofNat 32 (((fifo s n).take bad w r).2.1 + 4))))).reply m [BitVec.ofNat 32 w.data] false) := by
  obtain ⟨hsoft, hconsumer⟩ := hn
  unfold execSpruePop
  rw [withRead_ok hm, if_neg (by simp [hsoft]), if_neg (not_not_intro hconsumer)]
  simp only [hw]

/-- A word with right parity is delivered with its own tag. -/
theorem take_good {x : Fifo} {w : SWord} (r : List (Option SWord)) (hw : w.fails = false) :
    x.take false w r = ({ x with stages := none :: r, mid := !w.ends, failing := false }, w.tag, false) := by
  simp [Fifo.take, hw]

/-- One with wrong parity is delivered as POISON, and the rest of its packet fails. -/
theorem take_bad {x : Fifo} {bad : Bool} {w : SWord} (r : List (Option SWord)) (hw : (bad || w.fails) = true) :
    x.take bad w r = ({ x with stages := none :: r, mid := false, failing := !w.ends }, 3, true) := by
  simp [Fifo.take, hw]

theorem execSprueDropRest_drops {m n : Nat} {s : State} (hm : MayWrite s m 11 (.bit (sprMask n)) = true)
    (hn : soft n = true ∧ sprConsumer s n = m) (hd : (fifo s n).mid = true ∧ (fifo s n).dropping = false) :
    execSprueDropRest m n s = .next ((setFifo n (Fifo.cycle { fifo s n with dropping := true }) s).cnt
      (sprReg n 0x30) 1) := by
  obtain ⟨hsoft, hconsumer⟩ := hn
  unfold execSprueDropRest consCtrl
  rw [withWrite_ok hm]
  simp only
  rw [if_neg (by simp [hsoft]), if_neg (not_not_intro hconsumer), if_neg (by decide), if_pos (by simp [hd, bitOf])]
  rfl

/-- Settles O44: each opcode's execution passes its checks and answers OK; each register row is permitted and finds the
pool, requester or FIFO in the state it asks for. -/
theorem quarryAndSprueFifos : Obligations.QuarryAndSprueFifos := by
  refine ⟨?_, ?_, ?_, ?_, ?_, ?_, ?_, ?_, ?_, ?_, ?_, ?_, ?_, ?_, ?_, ?_, ?_, ?_, ?_, ?_⟩
  · intro ring slot c s0 s h hv hplace hidle
    exact opRow_ok h (effQryPoolCfg_ok hv hplace hidle) (by decide) (by simp)
  · intro ring slot c s0 s h hq
    exact opRow_ok h (effQryReqCfg_ok hq) (by decide) (by simp)
  · intro ring slot c s0 s p0 p h ha
    exact opRow_ok h (effQryAlloc_ok ha) (by decide) (by simp)
  · rintro ring slot c s0 s p k t h ha ⟨hb, hh⟩ rfl
    exact opRow_ok h (effQryFree_ok ha (free_held hb hh) rfl) (by decide) (by simp)
  · intro ring slot c s0 s h
    exact opRow_ok (eff := effQryStatus) h rfl (by decide) (by simp)
  · rintro ring slot c s0 s h ⟨hlo, hhi, hf, hv⟩ hen
    exact opRow_ok h (effSprCfg_stores ⟨hlo, hhi⟩ hv hf hen) (by decide) (by simp)
  · rintro ring slot c s0 s h ⟨hlo, hhi, hf, hv⟩ hen
    exact opRow_ok h (effSprCfg_disables ⟨hlo, hhi⟩ hv hf hen) (by decide) (by simp)
  · intro m p v s hm hv hplace
    exact execPoolCfgWrite_stores hm hv hplace
  · rintro m r p0 p t s hm ⟨hr, ha⟩ ht
    exact execAllocRead_takes hm hr ha ht
  · intro m r v s hm hv
    exact execFreeCommit_frees hm hv
  · rintro p k t s hu hk hb rfl
    exact ⟨execScrubDone_frees hu hk hb, sameMem_scrub p (rg 11 0xA0) _ _ _ s⟩
  · intro p k y s hu hk hb
    exact execScrubDone_refused hu hk hb
  · intro m s hm
    exact execQryErrPop_pops hm
  · intro m n s hm hn
    exact sprWrite_producer hm hn
  · intro m n s hm hn
    exact sprWrite_producer hm hn
  · intro m n s hm hn
    exact sprWrite_producer hm hn
  · intro m n s hm hn hw
    exact (sprWrite_producer hm hn).trans (congrArg _ (sprRewind_open hw))
  · rintro m n w r s hm hn ⟨hw, hgood⟩
    refine (execSpruePop_word hm hn hw).trans ?_
    rw [take_good r hgood]
    rfl
  · rintro m n bad w r s hm hn ⟨hw, hbad⟩
    refine (execSpruePop_word hm hn hw).trans ?_
    rw [take_bad r hbad]
    rfl
  · intro m n s hm hn hd
    exact execSprueDropRest_drops hm hn hd

end Sys2Proof.Machine
end

section
namespace Sys2Proof.Machine

/-! ### CRU opcodes (R390–R395, R409, R410, R413)

`<eff>_ok` says what an opcode's execution answers where the payload has the form that its checks ask for. -/

/-- An EMPTY user slot takes a key of its type's length while no erasure stands. -/
theorem effCruKeyLoad_ok {c : Cmd} {s : State}
    (hv : c.inst ≠ 0 ∧ 1 ≤ c.p 32 1 ∧ c.p 32 1 ≤ 3 ∧ c.zero 34 2 = true ∧ c.len = 12 + keyLen (c.p 32 1))
    (hf : loadFail c.inst s = none) :
    effCruKeyLoad c s = .ok (loadKey c.inst (c.p 32 1) (c.p 33 1) (c.p 36 8) (c.payload.drop 12) s) [] 0 := by
  obtain ⟨huser, hlo, hhi, hreserved, hlen⟩ := hv
  unfold effCruKeyLoad
  simp only
  rw [if_neg (by simp [hlen]), if_neg huser, if_neg (by omega), if_neg (by simp [hreserved]), hf]
  rfl

/-- A slot with the WRAP usage that may be used once more wraps with its key, and one use is counted. -/
theorem withKek_ok {n : Nat} {s : State} {k : List Byte → State → CmdOut}
    (hk : (keySlot s n).st ≠ 0 ∧ (keySlot s n).usage.testBit 4 = true ∧ (useKey n s).1 = true) :
    withKek n s k = k (keySlot s n).key (useKey n s).2 := by
  obtain ⟨hloaded, hwraps, huse⟩ := hk
  unfold withKek
  simp only
  rw [if_neg hloaded, if_neg (by simp [hwraps]), if_pos huse]

/-- An unwrapping goes on with the blob that the key opens. -/
theorem effCruKeyUnwrap_opens {c : Cmd} {s : State}
    (hv : c.inst ≠ 0 ∧ c.zero 34 2 = true ∧ c.p 32 2 ≤ 1023 ∧
      (s.aclEntry 12 c.issuer).mask.getLsbD (keyMaskBit (c.p 32 2)) = true)
    (hf : loadFail c.inst s = none)
    (hk : (keySlot s (c.p 32 2)).st ≠ 0 ∧ (keySlot s (c.p 32 2)).usage.testBit 4 = true ∧
      (useKey (c.p 32 2) s).1 = true) :
    effCruKeyUnwrap c s = ((kwUnwrap (keySlot s (c.p 32 2)).key (c.payload.drop 4)).bind blobForm).elim
      (cruFail stIntegrity 0x10B noOffset 0 (useKey (c.p 32 2) s).2)
      (fun b => .done (loadKey c.inst b.1 b.2.1 b.2.2.1 b.2.2.2 (useKey (c.p 32 2) s).2)) := by
  obtain ⟨huser, hreserved, hrange, hmask⟩ := hv
  unfold effCruKeyUnwrap
  simp only
  rw [if_neg huser, if_neg (by simp [hreserved]), slotCheckCru_ok ⟨hrange, hmask⟩, hf]
  simp only
  rw [if_neg (by simp [hk.2.1]), withKek_ok hk]
  cases (kwUnwrap (keySlot s (c.p 32 2)).key (c.payload.drop 4)).bind blobForm <;> rfl

/-- The header and key of a slot as a wrap encrypts them (R393). -/
def keyBlob (x : KeySlot) : List Byte :=
  (leBytes 1 1 ++ leBytes 1 x.typ ++ leBytes 1 x.usage ++ [0] ++ leBytes 8 x.limit ++ [0, 0, 0, 0]) ++ x.key

theorem effCruKeyWrap_ok {c : Cmd} {s : State}
    (hv : c.zero 34 2 = true ∧ c.p 32 2 ≤ 1023 ∧
      (s.aclEntry 12 c.issuer).mask.getLsbD (keyMaskBit (c.p 32 2)) = true)
    (hx : (keySlot s c.inst).st ≠ 0 ∧ (keySlot s c.inst).usage.testBit 6 = true)
    (hk : (keySlot s (c.p 32 2)).st ≠ 0 ∧ (keySlot s (c.p 32 2)).usage.testBit 4 = true ∧
      (useKey (c.p 32 2) s).1 = true) :
    effCruKeyWrap c s = .ok (useKey (c.p 32 2) s).2
      (kwWrap (keySlot s (c.p 32 2)).key (keyBlob (keySlot s c.inst))) 0 := by
  obtain ⟨hreserved, hrange, hmask⟩ := hv
  unfold effCruKeyWrap
  simp only
  rw [if_neg (by simp [hreserved]), slotCheckCru_ok ⟨hrange, hmask⟩, if_neg hx.1, if_neg (by simp [hx.2]),
    withKek_ok hk]
  rfl

/-- A key that no job holds is erased at once. -/
theorem effCruKeyErase_idle {c : Cmd} {s : State} (huser : c.inst ≠ 0) (hh : keyHeld s c.inst = false) :
    effCruKeyErase c s = .ok (eraseKey c.inst s) [] 0 := by
  unfold effCruKeyErase
  simp only
  rw [if_neg huser, if_neg (by simp [hh])]
  rfl

/-- The erasure of one that jobs hold goes on until they have completed (R394). -/
theorem effCruKeyErase_held {c : Cmd} {s : State} (huser : c.inst ≠ 0) (hh : keyHeld s c.inst = true) :
    effCruKeyErase c s = .wait (eraseKey c.inst s) := by
  unfold effCruKeyErase
  simp only
  rw [if_neg huser, if_pos hh]

/-- Settles O45: each opcode's execution passes its checks and answers OK, but for a blob that opens to nothing; an alarm
erases where its source is enabled. -/
theorem crucibleKeysAndAlarms : Obligations.CrucibleKeysAndAlarms := by
  refine ⟨?_, ?_, ?_, ?_, ?_, ?_, ?_, ?_, ?_⟩
  · intro ring slot c s0 s h hv hf
    exact opRow_ok h (effCruKeyLoad_ok hv hf) (by decide) (by simp)
  · intro ring slot c s0 s h hv hf hk
    have he := effCruKeyUnwrap_opens hv hf hk
    cases hb : (kwUnwrap (keySlot s (c.p 32 2)).key (c.payload.drop 4)).bind blobForm with
    | none =>
      rw [hb] at he
      exact (opRow_admits h).trans (by rw [he]; rfl)
    | some b =>
      rw [hb] at he
      exact opRow_ok h he (by decide) (by simp)
  · intro ring slot c s0 s h hv hx hk hlen
    exact opRow_ok h (effCruKeyWrap_ok hv hx hk) (by decide) hlen
  · intro ring slot c s0 s h huser hh
    exact opRow_ok h (effCruKeyErase_idle huser hh) (by decide) (by simp)
  · intro ring slot c s0 s h huser hh
    exact opRow_wait h (effCruKeyErase_held huser hh)
  · intro ring slot c s0 s h
    exact opRow_ok (eff := effCruKeyStatus) h rfl (by decide) (by simp)
  · intro ring slot c s0 s h
    exact opRow_ok (eff := effCruEraseAll) h rfl (by decide) (by simp)
  · intro ring slot c s0 s h
    exact opRow_ok (eff := effCruCounters) h rfl (by decide) (by simp)
  · intro src s hu hsrc hen
    exact act_eq hu (if_pos ⟨hsrc, hen⟩)

end Sys2Proof.Machine
end

section
namespace Sys2Proof.Machine

/-! ### Job rings (R396, R397, R589) -/

/-- A permitted CFG write of a ring that GWY does not drive. -/
theorem execJobRingCtrlWrite_permitted {m n : Nat} {v : Word} {s : State} (hm : MayWrite s m 12 (.bit n) = true)
    (hn : n < 16) (hg : gwyRing s n = false) (hv : v &&& ~~~ 0x17F#32 = 0) :
    execJobRingCtrlWrite m n v s = .next (ringCfg n v s) := by
  unfold execJobRingCtrlWrite
  rw [withWrite_ok hm, if_neg (by simp [hg]; omega), if_neg (not_not_intro hv)]
  rfl

/-- A disabled ring's CFG is stored, with EN where its configuration is good. -/
theorem ringCfg_stores {n : Nat} {v : Word} {s : State} (hen : s.bit (cruRing n 8) 0 = false)
    (hok : bitOf v 0 = true → cruConfigOk (s.wr (cruRing n 8) v) n = true) :
    ringCfg n v s = if bitOf v 0 then cruShow n (s.wr (cruRing n 8) v) else s.wr (cruRing n 8) v := by
  unfold ringCfg
  rw [if_neg (by simp [hen])]
  cases hb : bitOf v 0 with
  | false => rfl
  | true => exact if_pos (hok hb)

theorem ringCfg_disables {n : Nat} {v : Word} {s : State} (hen : s.bit (cruRing n 8) 0 = true)
    (hb : bitOf v 0 = false) : ringCfg n v s = cruShow n (s.sb (cruRing n 8) 0 false) := by
  unfold ringCfg
  rw [if_pos hen, if_neg (by simp [hb])]

/-- A bad configuration leaves EN = 0, with ERROR and its event. -/
theorem ringCfg_bad {n : Nat} {v : Word} {s : State} (hen : s.bit (cruRing n 8) 0 = false) (hb : bitOf v 0 = true)
    (hbad : cruConfigOk (s.wr (cruRing n 8) v) n = false) :
    ringCfg n v s =
      (((s.wr (cruRing n 8) v).sb (cruRing n 8) 0 false).sb (cruRing n 0x20) 1 true).raise 12 3 := by
  unfold ringCfg
  rw [if_neg (by simp [hen])]
  simp only
  rw [if_neg (by simp [hb]), if_neg (by simp [hbad])]

theorem ringCfg_holds {n : Nat} {v : Word} {s : State} (hen : s.bit (cruRing n 8) 0 = true) (hb : bitOf v 0 = true) :
    ringCfg n v s = s := by
  unfold ringCfg
  rw [if_pos hen, if_pos hb]

/-- The owner's tail within the free slots is stored. -/
theorem execJobDoorbell_stores {m n : Nat} {v : Word} {s : State} (hm : MayWrite s m 12 (.bit n) = true)
    (hn : n < 16 ∧ gwyRing s n = false ∧ cruOwner s n = m) (hv : v.toNat < cruSlots s n)
    (hfree : (v.toNat + cruSlots s n - s.f (cruRing n 0x10) 15 0) % cruSlots s n ≤
      (s.f (cruRing n 0x14) 15 0 + 2 * cruSlots s n - 1 - s.f (cruRing n 0x10) 15 0) % cruSlots s n) :
    execJobDoorbell m n v s = .next (s.wr (cruRing n 0x10) v) := by
  obtain ⟨hring, hg, howner⟩ := hn
  unfold execJobDoorbell jobOwned
  rw [withWrite_ok hm, if_neg (by simp [hg]; omega), if_neg (not_not_intro howner)]
  simp only
  rw [if_neg (Nat.not_le.mpr hv), if_pos hfree]
  rfl

/-! ### Starts of jobs (R395, R398, R399, R408) -/

section
variable {core n : Nat} {s u : State}
  (hc : coreFitted s core = true ∧ (s.cru.jobs.filter (fun j => j.core == core)).length < 16)
include hc

/-- A core with room takes the next job of the job ring that R408 picks, which is then the last served of its
priority. -/
theorem startJob_ring (hp : pickJobRing s core = some n) (hn : n < 16)
    (hu : u = s.withCru (fun c => { c with served := tput 16 c.served (s.f (cruRing n 8) 6 5) n })) :
    startJob core s = takeJob core n u := by
  have hring : n ≠ sharedRing := Nat.ne_of_lt hn
  subst hu
  unfold startJob
  rw [if_neg (by simp [hc.1, hc.2]), hp]
  simp only
  rw [if_neg hring, if_neg hring]

/-- Where R408 picks the shared MACsec work, the core does that. -/
theorem startJob_shared (hp : pickJobRing s core = some 16) : startJob core s =
    doShared (s.withCru (fun c => { c with served := tput 16 c.served (s.f (rg 12 4) 1 0) 16 })) := by
  unfold startJob
  rw [if_neg (by simp [hc.1, hc.2]), hp]
  rfl

end

section
variable {core n : Nat} {d : List Byte} {s t : State}
  (ht : t = s.wr (cruRing n 0x14) (BitVec.ofNat 32 ((s.f (cruRing n 0x14) 15 0 + 1) % cruSlots s n)))
include ht

/-- A job whose slot is read stands in the core with what its checks answered; the head has advanced. -/
theorem takeJob_read {r : List Byte × Chain × Option JobFail} {v : State} (hd : readSlot s n = (d, none))
    (ha : admitJob (cruOwner s n) (d, none) t = (r, v)) (hr : r.2.2.bind (·.refused) = none) :
    takeJob core n s = cruShow n (v.withCru (fun c => { c with jobs := c.jobs ++
      [⟨n, s.f (cruRing n 0x14) 15 0, core, cruOwner s n, d, r.1, r.2.1,
        r.2.2.map (fun e => (e.status, e.code))⟩] })) := by
  unfold takeJob
  simp only [hd, ← ht, ha, hr]

/-- One whose slot the fabric refuses is held as failed, and the refusal logged (R398). -/
theorem takeJob_unread {x : Nat} (hd : readSlot s n = (d, some x)) :
    takeJob core n s = cruShow n ((cruRefuse (cruOwner s n) x false t).withCru (fun c => { c with jobs := c.jobs ++
      [⟨n, s.f (cruRing n 0x14) 15 0, core, cruOwner s n, d, [], Chain.zero, some (stAborted, 0x14)⟩] })) := by
  unfold takeJob
  simp only [hd, ← ht]
  rfl

end

/-- A job that passes its checks and may use its key takes the key. -/
theorem admitJob_passes {o : Nat} {d : List Byte} {ch : Chain} {s v : State} (hj : jobCheck o (jobOf d) s = .inl ch)
    (hv : v = jobReads o (jobOf d) s) (huse : (useKey (jobOf d).key v).1 = true) :
    admitJob o (d, none) s = (((keySlot v (jobOf d).key).key, ch, none), (useKey (jobOf d).key v).2) := by
  subst hv
  unfold admitJob
  simp only [hj]
  rw [if_pos huse]

/-- One that fails before its context is restored has read nothing beside its slot. -/
theorem admitJob_fails {o : Nat} {d : List Byte} {e : JobFail} {s : State} (hj : jobCheck o (jobOf d) s = .inr e)
    (he : e.code < 0x107 ∨ 0x109 < e.code) : admitJob o (d, none) s = (([], Chain.zero, some e), s) := by
  unfold admitJob
  simp only [hj]
  rw [if_neg (by omega)]

/-! ### Completion of jobs (R398, R400, R402) -/

section
variable {ring : Nat} {x : Job} {s : State} (hx : s.cru.jobs.find? (fun j => j.ring == ring) = some x)
include hx

theorem finishJob_failed {e : Nat × Nat} (hf : x.failed = some e) :
    finishJob ring s = endErases (endJob x e.1 e.2 0 s) := by
  unfold finishJob
  simp only [hx, hf]

/-- A job whose source is readable runs over its bytes. -/
theorem finishJob_runs {j : JobSpec} {b : List Byte} {len : Nat} (hf : x.failed = none)
    (hj : j = jobOf x.slot ∧ len = jobInput j)
    (hb : cruBad s x.owner j.src len false = none ∧ b = cruBytes s x.owner j.src len) :
    finishJob ring s = endErases (if 6 ≤ j.mode then
        runWrap x j (slice b j.aadLen j.dataLen) (cruRead x.owner j.src len s)
      else runCipher x j (b.take j.aadLen) (slice b j.aadLen j.dataLen) (b.drop (j.aadLen + j.dataLen))
        (cruRead x.owner j.src len s)) := by
  obtain ⟨rfl, rfl⟩ := hj
  obtain ⟨hread, rfl⟩ := hb
  unfold finishJob
  simp only [hx, hf, hread]

/-- One whose source the fabric refuses ends ABORTED. -/
theorem finishJob_refused {j : JobSpec} {y : Nat} (hf : x.failed = none) (hj : j = jobOf x.slot)
    (hb : cruBad s x.owner j.src (jobInput j) false = some y) :
    finishJob ring s = endErases (endJob x stAborted 0x14 0 (cruRefuse x.owner y false s)) := by
  subst hj
  unfold finishJob
  simp only [hx, hf, hb]

end

/-- Settles O46: a ring's CFG by EN and the value's, a start by the slot's reading and checks, a completion by the job's
state and its source. -/
theorem crucibleJobs : Obligations.CrucibleJobs := by
  refine ⟨?_, ?_, ?_, ?_, ?_, ?_, ?_, ?_, ?_, ?_, ?_, ?_⟩
  · rintro m n v s hm ⟨hn, hg, hv, hen⟩ hok
    exact (execJobRingCtrlWrite_permitted hm hn hg hv).trans (congrArg _ (ringCfg_stores hen hok))
  · rintro m n v s hm ⟨hn, hg, hv, hen, hb⟩
    exact (execJobRingCtrlWrite_permitted hm hn hg hv).trans (congrArg _ (ringCfg_disables hen hb))
  · rintro m n v s hm ⟨hn, hg, hv, hen, hb⟩ hbad
    exact (execJobRingCtrlWrite_permitted hm hn hg hv).trans (congrArg _ (ringCfg_bad hen hb hbad))
  · rintro m n v s hm ⟨hn, hg, hv, hen, hb⟩
    exact (execJobRingCtrlWrite_permitted hm hn hg hv).trans (congrArg _ (ringCfg_holds hen hb))
  · rintro m n v s hm ⟨hn, hg, howner, hv⟩ hfree
    exact execJobDoorbell_stores hm ⟨hn, hg, howner⟩ hv hfree
  · rintro core n d ch s u t v hup ⟨hfitted, hroom, hp, hn⟩ hu ht hd ⟨hj, hv, huse⟩
    exact act_eq hup ((startJob_ring ⟨hfitted, hroom⟩ hp hn hu).trans
      (takeJob_read ht hd (admitJob_passes hj hv huse) rfl))
  · rintro core n d e s u t hup ⟨hfitted, hroom, hp, hn⟩ hu ht hd ⟨hj, href, he⟩
    exact act_eq hup ((startJob_ring ⟨hfitted, hroom⟩ hp hn hu).trans
      (takeJob_read ht hd (admitJob_fails hj he) href))
  · rintro core n x d s u t hup ⟨hfitted, hroom, hp, hn⟩ hu ht hd
    exact act_eq hup ((startJob_ring ⟨hfitted, hroom⟩ hp hn hu).trans (takeJob_unread ht hd))
  · rintro core s hup ⟨hfitted, hroom, hp⟩
    exact act_eq hup (startJob_shared ⟨hfitted, hroom⟩ hp)
  · rintro ring x e s hup ⟨hx, hf⟩
    exact act_eq hup (finishJob_failed hx hf)
  · rintro ring x j len b s hup ⟨hx, hf⟩ hj hb
    exact act_eq hup (finishJob_runs hx hf hj hb)
  · rintro ring y x j s hup ⟨hx, hf⟩ hj hb
    exact act_eq hup (finishJob_refused hx hf hj hb)

end Sys2Proof.Machine
end

section
namespace Sys2Proof.Machine

/-! ### Safety domains (R428–R432, R434) -/

theorem execLockstepMismatch_faults {d iface : Nat} {pc : Word} {s : State} (hu : s.up = true)
    (hd : d < 2 ∧ iface < 4) (hst : domState s d = 1 ∨ domState s d = 2 ∨ domState s d = 4) :
    execLockstepMismatch d iface pc s = .next (domFault d (if (dom s d).inject then 3 else 1) iface pc s) := by
  refine act_eq hu (if_neg ?_)
  rintro (hdom | hiface | hidle)
  · omega
  · omega
  · rcases hst with hst | hst | hst <;> simp [hst] at hidle

/-- The debugger that is attached may act where the domain lets it in. -/
theorem debugMay_iff {s : State} {d : Nat} : debugMay s d = true ↔ s.sys.debug = true ∧ dbgEn s d = true := by
  simp [debugMay]

/-- A domain halted by the debugger resumes. -/
theorem execDebugResume_halted {d : Nat} {cope drag : List Word} {s : State}
    (hu : s.up = true ∧ copiesOk cope drag = true)
    (hd : d < 2 ∧ domState s d = 4 ∧ s.sys.debug = true ∧ dbgEn s d = true) :
    execDebugResume d cope drag s = .next (debugGo d cope drag s) := by
  obtain ⟨hdom, hst, hmay⟩ := hd
  exact (onWords_ok _ s hu.2).trans (act_eq hu.1 (if_pos ⟨hdom, hst, debugMay_iff.mpr hmay⟩))

/-- A due timer sets its interrupt or counts a missed one, and goes to its next instant or stops. -/
theorem execActivation_due {d k : Nat} {s t : State} (hu : s.up = true)
    (hd : d < 2 ∧ k < 8 ∧ s.bit (actReg d k 0) 0 = true ∧ actNext s d k ≤ s.now)
    (ht : t = if s.bit (domReg d 0x44) (24 + k) then (s.cnt (domReg d 0x2C) 1).raise 13 (4 + d)
      else s.sb (domReg d 0x44) (24 + k) true) :
    execActivation d k s = .next (if actPeriod t d k = 0 then actEnable d k false t
      else setActNext d k (actNext s d k + actPeriod t d k) t) := by
  obtain ⟨hdom, htimer, hen, hdue⟩ := hd
  refine act_eq hu ?_
  simp only
  rw [if_neg (by simp [hen]; omega), ← ht]

/-! ### Output ports (R442–R444, R446) -/

/-- A domain's own master with the right writes its port's registers. -/
theorem portWrite_own {m d off : Nat} {f : State → Ans} {s : State}
    (hd : d < 2 ∧ domainOf m = some d ∧ domReach s m = true) (hm : MayWrite s m 13 (.bit d) = true) :
    portWrite m d off f s = .next (settle m s (f s)) := by
  obtain ⟨hdom, hown, hreach⟩ := hd
  obtain ⟨hu, hi, ha⟩ := mayWrite_parts hm
  unfold portWrite
  rw [fabricAct_go hu hi, if_neg (by omega), if_neg (by simp [hown, hreach]), if_pos ha]

section
variable {m d : Nat} {s : State} (hd : d < 2 ∧ domainOf m = some d ∧ domReach s m = true)
  (hm : MayWrite s m 13 (.bit d) = true)
include hd hm

/-- A well-formed message of a LIVE port is sent with the next number. -/
theorem execOSend_live {kind n : Nat} {v : Word} {body : List Word} (hv : v &&& ~~~ 0x1F03#32 = 0)
    (hk : kind = fld v 1 0 ∧ n = fld v 12 8 ∧ n ≤ 18 ∧ kind ≠ 3)
    (hb : body = (List.range n).map (fun i => s.rd (domReg d (0x800 + 4 * i))) ∧ bodyForm kind body = true)
    (hlive : portState s d = 2) :
    execOSend m d v s = .next (portSend d (oFrame d (portSeq s d) kind body) s) := by
  obtain ⟨rfl, rfl, hlen, hclaim⟩ := hk
  obtain ⟨rfl, hform⟩ := hb
  unfold execOSend
  rw [portWrite_own hd hm, if_pos hv]
  unfold oSend
  simp only [hlive]
  rw [if_neg (by decide), if_neg (by simp [hform]; omega), if_neg hclaim]
  rfl

/-- GO takes a port out of ALIGNING. -/
theorem execOCtrlGo_aligning (hst : portState s d = 1) : execOCtrlGo m d s = .next (setPort d 2 s) := by
  unfold execOCtrlGo portGo
  rw [portWrite_own hd hm, if_pos hst]
  rfl

/-- REJOIN takes an isolated port whose mirror is there back to ALIGNING. -/
theorem execOCtrlRejoin_isolated (hst : portState s d = 3) (hmirror : portMirror s d = true) :
    execOCtrlRejoin m d s = .next (setPort d 1 s) := by
  unfold execOCtrlRejoin portRejoin
  rw [portWrite_own hd hm, if_pos (by simp [hst, hmirror])]
  rfl

end

/-- A status frame that the peer finds good shows it the port's number, and that the mirror is there. -/
theorem execStatusFrameSend_good {d : Nat} {s t : State} (hu : s.up = true)
    (hd : d < 2 ∧ domState s d ≠ 0 ∧ domState s d ≠ 3 ∧ (dom s d).inject = false) (ht : t = portStatus d s) :
    execStatusFrameSend d false s =
      .next (((t.wr (domReg (1 - d) 0x890) (BitVec.ofNat 32 (portSeq t d))).sb (domReg (1 - d) 0x888) 2 true).sb
        (domReg (1 - d) 0x888) 3 (!faultLine (t.wr (domReg (1 - d) 0x890) (BitVec.ofNat 32 (portSeq t d))) d)) := by
  obtain ⟨hdom, hreset, hfaulted, hinject⟩ := hd
  subst ht
  refine act_eq hu ?_
  simp only
  rw [if_neg (by omega), if_neg (by simp [hinject]), if_neg Bool.false_ne_true]

/-- Domain B's port that loses its mirror in ALIGNING or LIVE is isolated. -/
theorem execMirrorLost_isolates {s t : State} (hu : s.up = true) (hl : faultLine s 0 = false)
    (ht : t = ((s.sb (domReg 1 0x888) 2 false).sb (domReg 1 0x888) 3 false).cnt (domReg 1 0x8A0) 1)
    (hst : portState t 1 = 1 ∨ portState t 1 = 2) :
    execMirrorLost 1 s =
      .next (setPort 1 3 (setPortQueue 1 ((dom t 1).queue.filter (fun f => f.kind == 0 || f.kind == 3)) t)) := by
  subst ht
  refine act_eq hu ?_
  rw [if_neg (by simp [hl])]
  exact if_pos ⟨rfl, hst⟩

/-! ### LSC opcodes (R429, R430, R434, R436, R437, R439)

`<eff>_ok` says what an opcode's execution answers where the payload has the form that its checks ask for. -/

theorem effLscSetCfg_ok {c : Cmd} {s : State}
    (hv : c.w 32 &&& ~~~ 0x3FF0F#32 = 0 ∧ syncMsOk (c.w 32) = true ∧ splitPcOk c.inst (c.p 36 4) = true)
    (hlock : bitOf (s.rd (domReg c.inst 4)) 2 = true → bitOf (s.rd (domReg c.inst 4)) 1 = bitOf (c.w 32) 1) :
    effLscSetCfg c s = .ok ((s.wr (domReg c.inst 4) (dcfgWrite (s.rd (domReg c.inst 4)) (c.w 32))).wr
      (domReg c.inst 8) (c.w 36)) [] 0 := by
  obtain ⟨hreserved, hsync, hpc⟩ := hv
  unfold effLscSetCfg
  simp only
  rw [if_neg (not_not_intro hreserved), if_neg (by simp [hsync]), if_neg (by simp [hpc]), if_neg (by simpa using hlock)]
  rfl

/-- A command's SYNC_CHECK that passes goes on with what it leaves. -/
theorem cmdSync_passes {d : Nat} {cope drag : List Word} {s : State} {k : State → CmdOut}
    (h : (syncCheck d cope drag s).1 = true) : cmdSync d cope drag s k = k (syncCheck d cope drag s).2 := if_pos h

theorem effLscRelease_ok {c : Cmd} {cope drag : List Word} {s : State}
    (hd : domState s c.inst = 1 ∧ c.issuer = 0x10 + 2 * c.inst) (hsync : (syncCheck c.inst cope drag s).1 = true) :
    effLscRelease cope drag c s = .ok (setDom c.inst 2 (syncCheck c.inst cope drag s).2) [] 0 := by
  unfold effLscRelease
  simp only
  rw [if_neg (not_not_intro hd.1), if_neg (not_not_intro hd.2), cmdSync_passes hsync]
  rfl

theorem effLscSyncCheck_ok {c : Cmd} {cope drag : List Word} {s : State}
    (hd : domState s c.inst = 1 ∨ domState s c.inst = 2) (hsync : (syncCheck c.inst cope drag s).1 = true) :
    effLscSyncCheck cope drag c s = .ok (syncCheck c.inst cope drag s).2 (leBytes 4 (syncHash cope).toNat) 0 := by
  unfold effLscSyncCheck
  simp only
  rw [if_neg (by omega), cmdSync_passes hsync]
  rfl

/-- A domain is split while its peer runs and the image allows it. -/
theorem effLscSplit_ok {c : Cmd} {s : State} (hpeer : domState s (1 - c.inst) = 2 ∧ s.bit (domReg c.inst 4) 3 = true)
    (hd : domState s c.inst = 1 ∨ domState s c.inst = 2) :
    effLscSplit none c s = .ok (splitCore c.inst (setDom c.inst 5 s)) [] 0 := by
  unfold effLscSplit
  simp only
  rw [if_neg (by omega), if_neg (not_not_intro hpeer.1), if_neg (by simp [hpeer.2])]
  rfl

/-- A split domain joins where Drag, with a copy of Cope's state, passes the SYNC_CHECK. -/
theorem effLscJoin_ok {c : Cmd} {cope drag : List Word} {s : State} (hd : domState s c.inst = 5)
    (hsync : (syncCheck c.inst cope drag
      (setCopies c.inst (dom s c.inst).cope (dom s c.inst).cope s)).1 = true) :
    effLscJoin cope drag c s = .ok (setDom c.inst 1 (syncCheck c.inst cope drag
      (setCopies c.inst (dom s c.inst).cope (dom s c.inst).cope s)).2) [] 0 := by
  unfold effLscJoin
  simp only
  rw [if_neg (not_not_intro hd), cmdSync_passes hsync]
  rfl

theorem effLscInject_ok {c : Cmd} {s : State} (hpeer : domState s (1 - c.inst) = 2)
    (hd : domState s c.inst = 1 ∨ domState s c.inst = 2) :
    effLscInject c s = .wait (setDomInfo c.inst { dom s c.inst with inject := true } s) := by
  unfold effLscInject
  simp only
  rw [if_neg (by omega), if_neg (not_not_intro hpeer)]

section
variable {c : Cmd} {s : State}
  (hv : c.p 32 1 ≤ 7 ∧ c.p 33 1 ≤ 1 ∧ c.zero 34 2 = true ∧ c.timeForm 36 = true ∧ c.timeNs 36 ≤ 999999999 ∧
    actPeriodOk (c.p 48 4) = true)
include hv

/-- A timer with EN = 0 takes its schedule, and is enabled as the flag says. -/
theorem effLscActCfg_stores (hen : s.bit (actReg c.inst (c.p 32 1) 0) 0 = false) :
    effLscActCfg c s = .ok (actEnable c.inst (c.p 32 1) (c.p 33 1 == 1)
      ((((s.wr (actReg c.inst (c.p 32 1) 0) (BitVec.ofNat 32 (c.p 44 2 * 65536))).wr (actReg c.inst (c.p 32 1) 4)
        (c.w 36)).wr (actReg c.inst (c.p 32 1) 8) (c.w 40)).wr (actReg c.inst (c.p 32 1) 0xC) (c.w 48))) [] 0 := by
  obtain ⟨htimer, hflag, hreserved, hform, hns, hperiod⟩ := hv
  unfold effLscActCfg
  simp only
  rw [if_neg (by omega), if_neg (by omega), if_neg (by simp [hreserved]), if_neg (by simp [hform]), if_neg (by omega),
    if_neg (by simp [hperiod]), if_neg (by simp [hen])]
  rfl

/-- One with EN = 1 can only be disabled. -/
theorem effLscActCfg_disables (h0 : c.p 33 1 = 0) (hen : s.bit (actReg c.inst (c.p 32 1) 0) 0 = true) :
    effLscActCfg c s = .ok (actEnable c.inst (c.p 32 1) false s) [] 0 := by
  obtain ⟨htimer, hflag, hreserved, hform, hns, hperiod⟩ := hv
  unfold effLscActCfg
  simp only
  rw [if_neg (by omega), if_neg (by omega), if_neg (by simp [hreserved]), if_neg (by simp [hform]), if_neg (by omega),
    if_neg (by simp [hperiod]), if_pos hen, if_pos h0]
  rfl

end

/-- Settles O47: each event finds the domain, timer or port in the state it asks for; each opcode's execution passes its
checks and its SYNC_CHECK. -/
theorem lockstepDomainsAndPorts : Obligations.LockstepDomainsAndPorts := by
  refine ⟨?_, ?_, ?_, ?_, ?_, ?_, ?_, ?_, ?_, ?_, ?_, ?_, ?_, ?_, ?_, ?_, ?_, ?_, ?_, ?_, ?_, ?_⟩
  · intro d iface pc s hu hd hst
    exact execLockstepMismatch_faults hu hd hst
  · intro d s hu hd
    exact act_eq hu (if_pos hd)
  · rintro d cope drag s ⟨hu, hw⟩ hd hst
    exact (onWords_ok _ s hw).trans (act_eq hu (if_pos ⟨hd, hst⟩))
  · rintro d s hu ⟨hd, hmay⟩ hst
    exact act_eq hu (if_pos ⟨hd, hst, debugMay_iff.mpr hmay⟩)
  · intro d cope drag s hu hd hstep
    exact (execDebugResume_halted hu hd).trans (congrArg _ (if_neg (by simp [hstep])))
  · intro d cope drag s hu hd hstep
    exact (execDebugResume_halted hu hd).trans (congrArg _ (if_pos hstep))
  · intro d k s t hu hd ht
    exact execActivation_due hu hd ht
  · rintro m d kind n v body s hu ⟨hd, hown, hreach, hm⟩ ⟨hv, hform⟩ hb hlive
    exact execOSend_live ⟨hd, hown, hreach⟩ hm hv hform hb hlive
  · rintro m d s ⟨hd, hown, hreach, hm⟩ hst
    exact execOCtrlGo_aligning ⟨hd, hown, hreach⟩ hm hst
  · rintro m d s ⟨hd, hown, hreach, hm⟩ ⟨hst, hmirror⟩
    exact execOCtrlRejoin_isolated ⟨hd, hown, hreach⟩ hm hst hmirror
  · rintro d s t u hu hd ht rfl
    exact execStatusFrameSend_good hu hd ht
  · intro s t hu hl ht hst
    exact execMirrorLost_isolates hu hl ht hst
  · intro ring slot c s0 s h
    exact opRow_ok (eff := effLscStatus) h rfl (by decide) (by simp)
  · intro ring slot c s0 s h hv hlock
    exact opRow_ok h (effLscSetCfg_ok hv hlock) (by decide) (by simp)
  · rintro ring slot c cope drag s0 s h ⟨hw, hd⟩ hsync
    exact (onWords_ok _ s0 hw).trans (opRow_ok h (effLscRelease_ok hd hsync) (by decide) (by simp))
  · intro ring slot c cope drag s0 s h hw hd hsync
    exact (onWords_ok _ s0 hw).trans (opRow_ok h (effLscSyncCheck_ok hd hsync) (by decide) (by simp))
  · intro ring slot c s0 s h hpeer hd
    exact opRow_ok h (effLscSplit_ok hpeer hd) (by decide) (by simp)
  · rintro ring slot c cope drag s0 s h ⟨hw, hd⟩ hsync
    exact (onWords_ok _ s0 hw).trans (opRow_ok h (effLscJoin_ok hd hsync) (by decide) (by simp))
  · intro ring slot c s0 s h hd
    exact opRow_wait h (if_neg hd)
  · intro ring slot c s0 s h hpeer hd
    exact opRow_wait h (effLscInject_ok hpeer hd)
  · intro ring slot c s0 s h hv hen
    exact opRow_ok h (effLscActCfg_stores hv hen) (by decide) (by simp)
  · rintro ring slot c s0 s h ⟨htimer, h0, hv⟩ hen
    exact opRow_ok h (effLscActCfg_disables ⟨htimer, by omega, hv⟩ h0 hen) (by decide) (by simp)

end Sys2Proof.Machine
end

section
namespace Sys2Proof.Machine

/-! ### The output receiver's lines and links (R448, R449, R455, R456, R463) -/

/-- What the power die's switched part does while the module is not OFF. -/
theorem actP_eq {f : State → State} {s t : State} (hp : s.sys.phase ≠ .off) (h : f s = t) : actP f s = .next t :=
  (if_neg (by simpa using hp)).trans (congrArg _ h)

/-- A swap test that runs ends with its reason, and link A is first. -/
theorem endSwap_running {reason : Nat} {s : State} (h : ordSwap s = true) : endSwap reason s =
    becomeFirst 0 (((setOrdBit 3 false s).wr (ordReg 0xC) (BitVec.ofNat 32 (reason * 65536))).raise 14 8) := if_pos h

section
variable {wire : Bool} {s : State} (hp : s.sys.phase ≠ .off)
include hp

/-- Line A rising ends a hold-off and a swap test. -/
theorem execFaultLineChange_aRises (hv : (wire || faultLine s 0) = true) (hl : ordLine s 0 = false) :
    execFaultLineChange 0 wire s =
      .next (chargeUpdate (endSwap 3 (setOrdBit 2 false (setOrdBit 5 true s)))) := by
  refine actP_eq hp ?_
  simp only [hv, if_true]
  exact if_neg (by simp [hl])

/-- Line B rising ends a swap test. -/
theorem execFaultLineChange_bRises (hv : (wire || faultLine s 1) = true) (hl : ordLine s 1 = false) :
    execFaultLineChange 1 wire s = .next (chargeUpdate (endSwap 4 (setOrdBit 6 true s))) := by
  refine actP_eq hp ?_
  simp only [hv, if_true]
  exact if_neg (by simp [hl])

/-- Line A clearing while B is in charge starts a hold-off. -/
theorem execFaultLineChange_aClears {t : State} (hv : faultLine s 0 = false) (hl : ordLine s 0 = true)
    (ht : t = setOrdBit 5 false s) (hc : ordCharge t = 2) :
    execFaultLineChange 0 false s = .next (chargeUpdate (startHoldoff t)) := by
  subst ht
  refine actP_eq hp ?_
  simp only [hv, Bool.or_self, Bool.false_eq_true, if_true, if_false]
  rw [if_neg (by simp [hl]), if_pos hc]

/-- A link that is up and falls silent goes down, which ends a swap test. -/
theorem execOrdLinkTimeout_down {l : Nat} {t : State} (hl : l < 2 ∧ ordUp s l = true)
    (ht : t = setOrdBit (7 + l) false s) : execOrdLinkTimeout l s =
      .next (chargeUpdate (endSwap 5 (if ordLine t l then t else t.raise 14 4))) := by
  subst ht
  exact actP_eq hp (if_pos hl)

/-! ### Arrivals (R446, R449, R450) -/

section
variable {l : Nat} {f : OFrame} (hf : onAir s l = some f)
include hf

/-- A frame that is not valid is discarded and counted. -/
theorem execCopyArrival_invalid {bad : Bool} (hv : (bad || !f.valid) = true) :
    execCopyArrival l bad s = .next (ordCount 0x120 (portPump l (setAir l none s))) := by
  refine actP_eq hp ?_
  simp only [hf]
  exact if_pos hv

variable (hv : f.valid = true)
include hv

theorem execCopyArrival_status (hk : f.isStatus = true) :
    execCopyArrival l false s = .next (ordStatusFrame l (f.body.headD 0) (portPump l (setAir l none s))) := by
  refine actP_eq hp ?_
  simp only [hf]
  rw [if_neg (by simp [hv]), if_pos hk]

variable {t : State} (hk : f.isStatus = false) (ht : t = portPump l (setAir l none s))
include hk ht

/-- A message joins the skew stage, where it waits less on the first link. -/
theorem execCopyArrival_stages (hroom : (ordStage t l).length < 64) : execCopyArrival l false s =
    .next (setOrdStage l (ordStage t l ++
      [⟨f, if l = firstLink t ∨ f.kind = 3 then 1 else 1 + 20 * t.f (ordReg 0) 9 0⟩]) t) := by
  refine actP_eq hp ?_
  simp only [hf, ← ht]
  rw [if_neg (by simp [hv]), if_neg (by simp [hk]), if_neg (Nat.not_le.mpr hroom)]

/-- A full stage drops it. -/
theorem execCopyArrival_full (hfull : 64 ≤ (ordStage t l).length) :
    execCopyArrival l false s = .next ((ordCount 0x124 t).raise 14 9) := by
  refine actP_eq hp ?_
  simp only [hf, ← ht]
  rw [if_neg (by simp [hv]), if_neg (by simp [hk]), if_pos hfull]

end

/-- A copy before which none is eligible as early leaves its stage and is judged. -/
theorem execCopyJudge_eligible {l i : Nat} {x : OCopy} (hx : (ordStage s l)[i]? = some x)
    (hfirst : ((ordStage s l).take i).all (fun y => decide (x.wait < y.wait)) = true) :
    execCopyJudge l i s = .next (ordJudge l x.frame (setOrdStage l ((ordStage s l).eraseIdx i) s)) := by
  refine actP_eq hp ?_
  simp only [hx]
  exact if_pos hfirst

end

/-! ### Judging (R451–R453, R457, R459, R464) -/

/-- The first copy of all, or one within 64 numbers after H, is accepted. -/
theorem ordJudge_next {l : Nat} {f : OFrame} {s : State} (hk : f.kind ≠ 3) (ha : admitted s l = true)
    (hn : ordAnchored s = false ∨
      (1 ≤ (f.seq + 65536 - ordH s) % 65536 ∧ (f.seq + 65536 - ordH s) % 65536 ≤ 64)) :
    ordJudge l f s = ordAccept l f s := by
  unfold ordJudge
  simp only
  rw [if_neg hk, if_neg (by simp [ha]), if_pos (by simpa using hn)]

/-- A number that was seen is a duplicate. -/
theorem ordJudge_seen {l : Nat} {f : OFrame} {s : State} (hk : f.kind ≠ 3) (ha : admitted s l = true)
    (hanchor : ordAnchored s = true) (hseen : s.ord.seen.contains f.seq = true)
    (hd : (f.seq + 65536 - ordH s) % 65536 = 0 ∨ 32768 ≤ (f.seq + 65536 - ordH s) % 65536) :
    ordJudge l f s = ordCount (0x108 + 4 * l) s := by
  unfold ordJudge
  simp only
  rw [if_neg hk, if_neg (by simp [ha]), if_neg (by simp [hanchor]; omega), if_pos hd, if_pos hseen]

/-- Settles O48: each event finds the line, link or stage in the state it asks for; a copy by its kind, its link and its
distance from H. -/
theorem outputReceiverEvents : Obligations.OutputReceiverEvents := by
  refine ⟨?_, ?_, ?_, ?_, ?_, ?_, ?_, ?_, ?_, ?_, ?_, ?_, ?_, ?_, ?_⟩
  · rintro wire s hp ⟨hv, hl⟩
    exact execFaultLineChange_aRises hp hv hl
  · rintro wire s hp ⟨hv, hl⟩
    exact execFaultLineChange_bRises hp hv hl
  · rintro s t hp ⟨hv, hl⟩ ⟨ht, hc⟩
    exact execFaultLineChange_aClears hp hv hl ht hc
  · rintro l s t hp ⟨hl, hup⟩ ht
    exact execOrdLinkTimeout_down hp ⟨hl, hup⟩ ht
  · rintro s hp ⟨hh, hr⟩
    exact actP_eq hp (if_pos (by simp [hh, hr]))
  · intro s hp hs
    exact actP_eq hp (endSwap_running hs)
  · intro l f s hp hf
    exact execCopyArrival_invalid hp hf rfl
  · rintro l f s hp ⟨hf, hv⟩
    exact execCopyArrival_invalid hp hf (by simp [hv])
  · rintro l f s hp ⟨hf, hv, hk⟩
    exact execCopyArrival_status hp hf hv hk
  · rintro l w f s t hp ⟨hf, hv, hk⟩ ⟨ht, rfl⟩ hroom
    exact execCopyArrival_stages hp hf hv hk ht hroom
  · rintro l f s t hp ⟨hf, hv, hk⟩ ht hfull
    exact execCopyArrival_full hp hf hv hk ht hfull
  · rintro l i x s t u v hp ⟨hx, hfirst⟩ rfl ⟨hk, ha⟩ hn rfl rfl
    exact (execCopyJudge_eligible hp hx hfirst).trans (congrArg _ (ordJudge_next hk ha hn))
  · rintro l i x s t hp ⟨hx, hfirst⟩ rfl ⟨hk, ha, hanchor, hseen⟩ hd
    exact (execCopyJudge_eligible hp hx hfirst).trans (congrArg _ (ordJudge_seen hk ha hanchor hseen hd))
  · rintro l i x s t hp ⟨hx, hfirst⟩ rfl hk
    exact (execCopyJudge_eligible hp hx hfirst).trans (congrArg _ (if_pos hk))
  · rintro r rest s hu ⟨hr, hheld⟩
    refine act_eq hu ((if_pos hu).trans ?_)
    unfold recordWrite
    rw [hr]
    exact if_pos hheld

end Sys2Proof.Machine
end

section
namespace Sys2Proof.Machine

/-! ### ORD opcodes (R463, R466, R467)

`<eff>_ok` says what an opcode's execution answers where the payload has the form that its checks ask for. -/

theorem effOrdSetCfg_ok {c : Cmd} {s : State}
    (hv : c.w 32 &&& ~~~ 0x7FFF3FF#32 = 0 ∧ ordCfgOk (c.w 32) = true ∧ ordSwap s = false) :
    effOrdSetCfg c s = .ok (s.wr (ordReg 0) (c.w 32)) [] 0 := by
  obtain ⟨hreserved, hcfg, hswap⟩ := hv
  unfold effOrdSetCfg
  rw [if_neg (not_not_intro hreserved), if_neg (by simp [hcfg]), if_neg (by simp [hswap])]
  rfl

/-- The conditions of R463. -/
theorem swapReady_iff {s : State} : swapReady s = true ↔ ordCharge s = 1 ∧ ordLine s 0 = false ∧
    ordLine s 1 = false ∧ ordUp s 0 = true ∧ ordUp s 1 = true ∧ ordHoldoff s = false ∧ bIsolated s = false ∧
    ordSwap s = false := by
  simp [swapReady, and_assoc]

section
variable {c : Cmd} {s : State} (hv : c.p 32 2 ≠ 0 ∧ c.p 32 2 ≤ 60000 ∧ c.zero 34 2 = true)
include hv

/-- A swap test that may begin makes link B first. -/
theorem effOrdSwapTest_begins (hr : swapReady s = true) :
    effOrdSwapTest c s = .ok (becomeFirst 1 (((setOrdBit 3 true s).wr (ordReg 0xC) 0).withOrd
      (fun o => { o with swapStart := s.sys.ticks, swapMs := c.p 32 2 }))) [] 0 := by
  obtain ⟨hlo, hhi, hreserved⟩ := hv
  unfold effOrdSwapTest
  simp only
  rw [if_neg (by omega), if_neg (by simp [hreserved]), if_neg (by simp [hr])]
  rfl

theorem effOrdSwapTest_refused (hr : ¬ swapReady s = true) :
    effOrdSwapTest c s = .fail stWrongState 0x100 noOffset (s.rd (ordReg 4)).toNat := by
  obtain ⟨hlo, hhi, hreserved⟩ := hv
  unfold effOrdSwapTest
  simp only
  rw [if_neg (by omega), if_neg (by simp [hreserved]), if_pos (by simpa using hr)]
  rfl

end

theorem effOrdSwapCancel_ok {c : Cmd} {s : State} (hs : ordSwap s = true) :
    effOrdSwapCancel c s =
      .ok (becomeFirst 0 (((setOrdBit 3 false s).wr (ordReg 0xC) 0x20000).raise 14 8)) [] 0 := by
  unfold effOrdSwapCancel
  rw [if_pos hs, endSwap_running hs]
  rfl

/-- Settles O49: each opcode's execution passes its checks, and a swap test begins where R463's conditions hold. -/
theorem outputReceiverOpcodes : Obligations.OutputReceiverOpcodes := by
  refine ⟨?_, ?_, ?_, ?_, ?_, ?_⟩
  · intro ring slot c s0 s h hv
    exact opRow_ok h (effOrdSetCfg_ok hv) (by decide) (by simp)
  · intro ring slot c s0 s h
    exact opRow_ok (eff := effOrdStatus) h rfl (by decide) (by simp)
  · intro ring slot c s0 s h hv hr
    exact opRow_ok h (effOrdSwapTest_begins hv (swapReady_iff.mpr hr)) (by decide) (by simp)
  · intro ring slot c s0 s h hv hr
    exact opRow_fail h (effOrdSwapTest_refused hv (mt swapReady_iff.mp hr))
  · intro ring slot c s0 s h hs
    exact opRow_ok h (effOrdSwapCancel_ok hs) (by decide) (by simp)
  · intro ring slot c s0 s h
    exact opRow_ok (eff := effOrdCounters) h rfl (by decide) (by simp)

end Sys2Proof.Machine
end

section
namespace Sys2Proof.Machine

/-! ### Passed commands (R474–R476, R488) -/

section
variable {ops : List Nat} {f : List Word → State → State} {b : List Word} {r : List (List Word)} {s t : State}
  (hb : s.lch.passed = b :: r) (ht : t = s.withLch (fun l => { l with passed := r }))
  (hop : ops.contains (cmdOp b) = true)
include hb ht hop

/-- The oldest passed command, of an OP that the row takes, is applied where nothing speaks against it. -/
theorem lchTake_applies (hreason : cmdReason t b = 0) : lchTake ops f s = f b (cmdApplied t) := by
  unfold lchTake
  simp only [hb, ← ht, hop, if_true, hreason]

/-- One with a reason against it is recorded and rejected. -/
theorem lchTake_rejects (hreason : cmdReason t b ≠ 0) :
    lchTake ops f s = cmdReject (b.headD 0) (cmdReason t b) t := by
  unfold lchTake
  simp only [hb, ← ht, hop, if_true]

end

/-- A CLEAR of a LATCHED channel. -/
theorem lchClear_latched {b : List Word} {s t u : State} (ht : t = setRestarts (cmdCh b) 0 (named (cmdCh b) s))
    (hl : chProt t (cmdCh b) = 3)
    (hu : u = liveFlag (cmdCh b) 7 false (liveFlag (cmdCh b) 6 false
      (t.sf (chReg (cmdCh b) 0x10) 2 0 (if live t (cmdCh b) 5 then 2 else 0)))) :
    lchClear b s =
      showChan (cmdCh b) (profileResume (cmdCh b) (setChan (cmdCh b) { chan u (cmdCh b) with left := 0 } u)) := by
  subst ht hu
  exact if_pos hl

/-- A CLEAR of any other. -/
theorem lchClear_unlatched {b : List Word} {s t : State} (ht : t = setRestarts (cmdCh b) 0 (named (cmdCh b) s))
    (hl : chProt t (cmdCh b) ≠ 3) : lchClear b s = t := by
  subst ht
  exact if_neg hl

/-! ### ARM (R492, R493) -/

/-- HOLD_MS from 10 to 2,000. -/
theorem holdMsOk_iff {n : Nat} : holdMsOk n = true ↔ 10 ≤ n ∧ n ≤ 2000 := by simp [holdMsOk]

/-- A permitted write of CTRL in range writes HOLD_MS and, with the bit set, arms. -/
theorem execArmWrite_permitted {m : Nat} {v : Word} {s t : State} (hm : MayWrite s m 15 (.bit 42) = true)
    (hv : v &&& ~~~ 0x7FF0001#32 = 0 ∧ 10 ≤ fld v 26 16 ∧ fld v 26 16 ≤ 2000)
    (ht : t = s.sf (lchReg 4) 26 16 (fld v 26 16)) :
    execArmWrite m v s = .next (if bitOf v 0 then lchArm t else t) := by
  subst ht
  unfold execArmWrite lchCtrl
  rw [withWrite_ok hm, if_neg (by rw [hv.1, holdMsOk_iff.mpr hv.2]; decide)]
  rfl

/-- Arming an armed block changes nothing. -/
theorem arm_eq (v : Word) (t : State) : (if bitOf v 0 then lchArm t else t) =
    if bitOf v 0 = true ∧ t.bit (lchReg 4) 0 = false then
      if (t.sb (lchReg 4) 0 true).f (rg 14 4) 1 0 = 0 ∧ holdRuns (t.sb (lchReg 4) 0 true) = false then
        holdStart (t.sb (lchReg 4) 0 true) else t.sb (lchReg 4) 0 true
    else t := by
  unfold lchArm
  cases bitOf v 0 <;> cases t.bit (lchReg 4) 0 <;> simp

/-! ### PWM (R478–R480, R483) -/

section
variable {c : Nat} {s : State} (hp : s.sys.phase ≠ .off)
include hp

theorem execPwmPeriodStart_due {k v1 v2 : Nat} (hk : k < 8 ∧ tbPeriod s k ≠ 0 ∧ tget 0 s.lch.tbNext k ≤ lchNow s) :
    execPwmPeriodStart k v1 v2 s = .next ((List.range 40).foldl (fun s c =>
        if chMode s c = 2 ∧ chTb s c = k then s.sf (chReg c 0x18) 13 0 (chDutyEff c s) else s)
      (s.withLch (fun l => { l with
        tbNext := tput 0 l.tbNext k (tget 0 s.lch.tbNext k + tbPeriod s k), avg := tput (0, 0) l.avg k (v1, v2) }))) := by
  obtain ⟨htb, hperiod, hdue⟩ := hk
  refine actP_eq hp ?_
  simp only
  rw [if_neg (by omega)]

section
variable (hc : c < 40 ∧ chMode s c = 2 ∧ tbPeriod s (chTb s c) ≠ 0)
include hc

/-- An on-interval starts with the D′ of its period, and ends in its time. -/
theorem execPwmEdge_starts {on : Nat} {t : State} (hdue : (chan s c).next ≤ lchNow s)
    (hon : on = onTime (tbPeriod s (chTb s c)) (chDutyEff c s))
    (ht : t = setChan c { chan s c with
        next := (chan s c).next + tbPeriod s (chTb s c)
        ends := if on = 0 then (chan s c).ends else (chan s c).ends ++ [(chan s c).next + on]
        on := on } (s.sf (chReg c 0x18) 13 0 (chDutyEff c s))) :
    execPwmEdge c true s =
      .next (showChan c (if (chan s c).starting && chConducts t c then inrushBegin c t else t)) := by
  obtain ⟨hlt, hmode, hperiod⟩ := hc
  subst hon ht
  refine actP_eq hp ?_
  simp only [if_true]
  rw [if_neg (by omega), if_neg (Nat.not_lt.mpr hdue)]

/-- The oldest on-interval in progress ends. -/
theorem execPwmEdge_ends {x : Nat} {r : List Nat} (hx : (chan s c).ends = x :: r) (hdue : x ≤ lchNow s) :
    execPwmEdge c false s = .next (showChan c (setChan c { chan s c with ends := r } s)) := by
  obtain ⟨hlt, hmode, hperiod⟩ := hc
  refine actP_eq hp ?_
  simp only [hx]
  rw [if_neg (by omega), if_neg Bool.false_ne_true, if_pos hdue]

end

/-! ### Protection (R484–R489) -/

/-- A short outside its blanking stops and latches the channel. -/
theorem execShortDetect_latches {low : Bool} {u v : State} (hu : u = stopUndo c s)
    (hc : c < 40 ∧ chConducts u c = true)
    (hb : low = false ∨ (chan s c).since + fld (chan s c).prof1 25 16 * 500 ≤ s.sys.ticks)
    (hv : v = if u.bit (lchReg 0x10) (chRail c) then liveFlag c 5 true u else u) :
    execShortDetect (c, low) s =
      .next (chEvent c 0 ((liveFlag c 6 true (setProt c 3 v)).cnt (chReg c 0x20) 1)) := by
  subst hu hv
  refine actP_eq hp ?_
  simp only
  refine if_pos ⟨hc.1, hc.2, ?_⟩
  rcases hb with rfl | hb
  · rfl
  · simp [hb]

/-- One of the limiter's inside it does nothing. -/
theorem execShortDetect_blanked (hb : s.sys.ticks < (chan s c).since + fld (chan s c).prof1 25 16 * 500) :
    execShortDetect (c, true) s = .next s := by
  refine actP_eq hp ?_
  simp only
  exact if_neg (fun ⟨_, _, hblank⟩ => by simp [hb] at hblank)

end

/-- What a stop finds and counts leaves the channel's restarts. -/
theorem chRestarts_stopMark (c ev : Nat) (t : State) :
    chRestarts ((stopMark c ev t).cnt (chReg c 0x24) 1) c = chRestarts t c := by
  unfold chRestarts State.f
  rw [State.rd_cnt_ne _ _ (by simp only [chReg, rg_eq]; omega)]
  rfl

section
variable {c dT : Nat} {hot : Bool} {s t u : State} (hp : s.sys.phase ≠ .off)
  (hc : c < 40 ∧ t = s.sf (chReg c 0x18) 23 16 (min dT 255))
include hp hc

/-- A conducting channel at its limit stops: it waits to cool while it has restarts left, and latches after them. -/
theorem execThermalTrip_trips (htrip : chConducts t c = true ∧ (dtLimit t c ≤ dT ∨ hot = true))
    (hu : u = (stopMark c (if chRestarts t c < 8 then 1 else 2) t).cnt (chReg c 0x24) 1) :
    execThermalTrip c dT hot s = .next (if chRestarts u c < 8 then
        chEvent c 1 (liveFlag c 4 true (setProt c 1 (setRestarts c (chRestarts u c + 1) u)))
      else chEvent c 2 (liveFlag c 7 true (setProt c 3 u))) := by
  have hstops : ¬ (chConducts t c = false ∨ (dT < dtLimit t c ∧ hot = false)) := by
    rintro (hoff | ⟨hbelow, hcold⟩)
    · simp [htrip.1] at hoff
    · exact htrip.2.elim (Nat.not_le.mpr hbelow) (by simp [hcold])
  obtain ⟨hlt, rfl⟩ := hc
  subst hu
  exact actP_eq hp ((if_neg (Nat.not_le.mpr hlt)).trans (if_neg hstops))

/-- A tripped channel that is cool enough is READY again. -/
theorem execThermalReady_cool (h : chProt t c = 1 ∧ dT + 10 ≤ dtLimit t c) :
    execThermalReady c dT s =
      .next (showChan c (profileResume c (liveFlag c 4 false (t.sf (chReg c 0x10) 2 0 0)))) := by
  obtain ⟨hlt, rfl⟩ := hc
  exact actP_eq hp ((if_neg (Nat.not_le.mpr hlt)).trans (if_pos h))

end

/-- A rail that was not low stops its channels. -/
theorem execRailUndervoltage_falls {r mv : Nat} {s : State} (hp : s.sys.phase ≠ .off)
    (hr : r < 2 ∧ s.bit (lchReg 0x10) r = false) :
    execRailUndervoltage r mv s = .next ((onRail ((((setRail r mv s).sb (lchReg 0x10) r true).cnt
      (lchReg (0x114 + 4 * r)) 1).raise 15 3) r).foldl (fun s c => uvStop c s)
        ((((setRail r mv s).sb (lchReg 0x10) r true).cnt (lchReg (0x114 + 4 * r)) 1).raise 15 3)) := by
  refine actP_eq hp (if_neg ?_)
  simp [hr]

/-- The state of a channel that waited for its rail: as it stood before the stop. -/
def uvRestored (c : Nat) (s : State) : State :=
  liveFlag c 4 ((chan (liveFlag c 5 false s) c).left == 1)
    ((liveFlag c 5 false s).sf (chReg c 0x10) 2 0 (chan (liveFlag c 5 false s) c).left)

/-- A rail that was low lets its channels go on. -/
theorem execRailRecovery_recovers {r mv : Nat} {s : State} (hp : s.sys.phase ≠ .off)
    (hr : r < 2 ∧ s.bit (lchReg 0x10) r = true) :
    execRailRecovery r mv s = .next ((onRail ((setRail r mv s).sb (lchReg 0x10) r false) r).foldl (fun s c =>
        if chProt (liveFlag c 5 false s) c = 2 then
          showChan c (profileResume c (setChan c { chan (uvRestored c s) c with left := 0 } (uvRestored c s)))
        else liveFlag c 5 false s)
      ((setRail r mv s).sb (lchReg 0x10) r false)) := by
  refine actP_eq hp (if_neg ?_)
  simp [hr]

section
variable {c : Nat} {s : State}

theorem openLoad_eq (i : Nat) (low : Bool) : openLoad c i low s =
    if low = true ∧ live s c i = false then chEvent c 5 (liveFlag c i low s) else liveFlag c i low s := by
  unfold openLoad
  cases low <;> cases live s c i <;> simp

variable (hp : s.sys.phase ≠ .off)
include hp

section
variable (hc : c < 40 ∧ chConducts s c = true ∧ fld (chan s c).prof1 15 8 ≠ 0)
include hc

/-- In MODE ON, outside the inrush phase, the criterion sets and clears the flag. -/
theorem execOpenLoadOn_on {low : Bool} (hm : chMode s c = 1 ∧ s.bit (chReg c 0x10) 5 = false) :
    execOpenLoadOn c low s = .next (openLoad c 2 low s) := by
  obtain ⟨hlt, hconducts, hcrit⟩ := hc
  refine actP_eq hp ?_
  simp only
  rw [if_neg (by simp [hconducts, hcrit]; omega), if_pos hm.1, if_neg (by simp [hm.2])]

/-- In MODE PWM a sample of a long on-interval counts the low ones in a row, of which the eighth sets the flag. -/
theorem execOpenLoadOn_pwm {low : Bool} {n : Nat} (hm : chMode s c ≠ 1 ∧ 100000 ≤ (chan s c).on)
    (hn : n = if low then min 8 ((chan s c).low + 1) else 0) :
    execOpenLoadOn c low s = .next (if low && decide (n < 8) then setChan c { chan s c with low := n } s
      else openLoad c 2 low (setChan c { chan s c with low := n } s)) := by
  obtain ⟨hlt, hconducts, hcrit⟩ := hc
  subst hn
  refine actP_eq hp ?_
  simp only
  rw [if_neg (by simp [hconducts, hcrit]; omega), if_neg hm.1, if_neg (by omega)]

end

theorem execOpenLoadOff_off {high : Bool}
    (hc : c < 40 ∧ chFitted s c = true ∧ chMode s c = 0 ∧ bitOf (chan s c).prof0 14 = true) :
    execOpenLoadOff c high s = .next (openLoad c 3 high s) := by
  obtain ⟨hlt, hfitted, hmode, hen⟩ := hc
  refine actP_eq hp (if_neg ?_)
  simp [hfitted, hmode, hen, hlt]

end

/-- Settles O50: a passed command by its reason, and every event by the state in which it finds its channel or rail. -/
theorem loadChannelEvents : Obligations.LoadChannelEvents := by
  refine ⟨?_, ?_, ?_, ?_, ?_, ?_, ?_, ?_, ?_, ?_, ?_, ?_, ?_, ?_, ?_, ?_, ?_, ?_, ?_, ?_, ?_, ?_, ?_, ?_, ?_, ?_⟩
  · rintro b r s t hp ⟨hb, ht⟩ ⟨hop, hreason⟩
    exact actP_eq hp (lchTake_applies hb ht (by simp [hop]) hreason)
  · rintro b r s t hp ⟨hb, ht⟩ hop hreason
    exact actP_eq hp (lchTake_rejects hb ht (by rcases hop with hop | hop <;> simp [hop]) hreason)
  · rintro b r mask value s t u hp ⟨hb, rfl⟩ ⟨hop, hreason⟩ ⟨rfl, rfl⟩ rfl
    exact actP_eq hp (lchTake_applies hb rfl (by simp [hop]) hreason)
  · rintro b r c s t hp ⟨hb, hop, hreason⟩ ⟨rfl, ht⟩ hl
    exact actP_eq hp ((lchTake_applies hb rfl (by simp [hop]) hreason).trans (lchClear_unlatched ht hl))
  · rintro b r c s t u hp ⟨hb, hop, hreason⟩ ⟨rfl, ht⟩ hl hu
    exact actP_eq hp ((lchTake_applies hb rfl (by simp [hop]) hreason).trans (lchClear_latched ht hl hu))
  · intro s hp hr
    exact actP_eq hp (if_pos hr)
  · intro m v s t hm hv ht
    exact (execArmWrite_permitted hm hv ht).trans (congrArg _ (arm_eq v t))
  · intro k v1 v2 s hp hk
    exact execPwmPeriodStart_due hp hk
  · rintro c on s t hp ⟨hlt, hmode, hperiod, hdue⟩ hon ht
    exact execPwmEdge_starts hp ⟨hlt, hmode, hperiod⟩ hdue hon ht
  · rintro c x r s hp ⟨hlt, hmode, hperiod, hx, hdue⟩
    exact execPwmEdge_ends hp ⟨hlt, hmode, hperiod⟩ hx hdue
  · intro c s hp hc
    exact actP_eq hp (if_pos hc)
  · rintro c low s u v hp ⟨hlt, hu, hconducts⟩ hb hv
    exact execShortDetect_latches hp hu ⟨hlt, hconducts⟩ hb hv
  · intro c s hp hb
    exact execShortDetect_blanked hp hb
  · intro c s hp hc
    exact actP_eq hp (if_pos hc)
  · rintro c dT hot s t u hp hc ⟨hconducts, hlimit, hr⟩ hu
    refine (execThermalTrip_trips hp hc ⟨hconducts, hlimit⟩ (u := u) ?_).trans (congrArg _ (if_pos ?_))
    · rw [if_pos hr, hu]
    · rwa [hu, chRestarts_stopMark]
  · rintro c dT hot s t u hp hc ⟨hconducts, hlimit, hr⟩ hu
    have hlast : ¬ chRestarts t c < 8 := Nat.not_lt.mpr hr
    refine (execThermalTrip_trips hp hc ⟨hconducts, hlimit⟩ (u := u) ?_).trans (congrArg _ (if_neg ?_))
    · rw [if_neg hlast, hu]
    · rwa [hu, chRestarts_stopMark]
  · intro c dT s t hp hc h
    exact execThermalReady_cool hp hc h
  · intro c s hp hc
    exact actP_eq hp (if_pos hc)
  · rintro r mv s t hp hr rfl
    exact execRailUndervoltage_falls hp hr
  · rintro c s t rfl
    rfl
  · intro r mv s hp hr
    exact execRailRecovery_recovers hp hr
  · rintro c low s hp hc hm
    exact (execOpenLoadOn_on hp hc hm).trans (congrArg _ (openLoad_eq 2 low))
  · rintro c s hp hc ⟨hmode, hon, hlow⟩
    refine (execOpenLoadOn_pwm hp hc ⟨hmode, hon⟩ (n := (chan s c).low + 1) (by simp; omega)).trans ?_
    rw [if_pos (by simp; omega)]
  · rintro c s t hp hc ⟨hmode, hon, hlow⟩ rfl
    refine (execOpenLoadOn_pwm hp hc ⟨hmode, hon⟩ (n := 8) (by simp; omega)).trans ?_
    rw [if_neg (by simp), openLoad_eq]
    cases live (setChan c { chan s c with low := 8 } s) c 2 <;> rfl
  · rintro c s t hp hc hm rfl
    exact execOpenLoadOn_pwm hp hc hm rfl
  · intro c high s hp hc
    exact (execOpenLoadOff_off hp hc).trans (congrArg _ (openLoad_eq 3 high))

end Sys2Proof.Machine
end

section
namespace Sys2Proof.Machine

/-! ### LCH opcodes (R470, R472, R477, R481, R482, R493, R495, R496)

`<eff>_ok` says what an opcode's execution answers where the payload has the form that its checks ask for. -/

/-- A channel whose target is OFF takes its profile, fail-safe target, timebase and ΔT limit. -/
theorem effLchChanCfg_ok {c : Cmd} {s : State}
    (hv : c.p 32 1 ≤ 15 ∧ c.p 33 1 ≤ 2 ∧ c.p 34 1 ≤ 7 ∧ 20 ≤ c.p 35 1 ∧ c.p 35 1 ≤ 80 ∧ c.p 36 2 ≤ 10000 ∧
      c.zero 38 2 = true)
    (htb : c.p 33 1 = 2 → tbPeriod s (c.p 34 1) ≠ 0) (hoff : chMode s c.inst = 0) :
    effLchChanCfg c s = .ok ((s.wr (chReg c.inst 0)
      (BitVec.ofNat 32 (c.p 32 1 + c.p 33 1 * 16 + c.p 34 1 * 256 + c.p 35 1 * 65536))).wr (chReg c.inst 4)
        (BitVec.ofNat 32 (c.p 36 2))) [] 0 := by
  obtain ⟨hprofile, htarget, htimebase, hlo, hhi, hduty, hreserved⟩ := hv
  unfold effLchChanCfg
  simp only
  rw [if_neg (by omega), if_neg (by omega), if_neg (by omega), if_neg (by omega), if_neg (by omega),
    if_neg (by simp [hreserved]), if_neg (fun ⟨hpwm, hunset⟩ => htb hpwm hunset), if_neg (not_not_intro hoff)]
  rfl

/-- A profile of the software's with fields in range is written. -/
theorem effLchProfile_ok {c : Cmd} {s : State}
    (hv : 6 ≤ c.p 32 1 ∧ c.p 32 1 ≤ 15 ∧ c.p 33 1 ≤ 3 ∧ c.p 34 1 ≤ 1 ∧ c.zero 35 1 = true ∧ c.p 36 2 ≤ 2000)
    (hl : 4 ≤ c.p 38 1 ∧ c.p 38 1 ≤ 64 ∧ 4 ≤ c.p 39 1 ∧ c.p 39 1 ≤ 64 ∧ 4 ≤ c.p 40 1 ∧ c.p 40 1 ≤ 64)
    (hr : c.p 42 2 ≤ 1000 ∧ 8000 ≤ c.p 44 2 ∧ c.p 44 2 ≤ 16000 ∧ c.zero 46 2 = true) :
    effLchProfile c s = .ok (((s.wr (rg 15 (0x4000 + c.p 32 1 * 0x10))
      (BitVec.ofNat 32 (c.p 36 2 + c.p 33 1 * 2 ^ 12 + c.p 34 1 * 2 ^ 14 + c.p 38 1 * 2 ^ 16 + c.p 39 1 * 2 ^ 24))).wr
        (rg 15 (0x4000 + c.p 32 1 * 0x10) + 4) (BitVec.ofNat 32 (c.p 40 1 + c.p 41 1 * 256 + c.p 42 2 * 65536))).wr
          (rg 15 (0x4000 + c.p 32 1 * 0x10) + 8) (BitVec.ofNat 32 (c.p 44 2))) [] 0 := by
  obtain ⟨hlo, hhi, hcomp, hol, hreserved, hinrush⟩ := hv
  obtain ⟨hilo, hihi, hnlo, hnhi, holo, hohi⟩ := hl
  obtain ⟨hblank, hvlo, hvhi, hreserved'⟩ := hr
  unfold effLchProfile
  simp only
  rw [if_neg (by omega), if_neg (by omega), if_neg (by omega), if_neg (by omega), if_neg (by simp [hreserved]),
    if_neg (by omega), if_neg (by simp; omega), if_neg (by simp; omega), if_neg (by simp; omega), if_neg (by omega),
    if_neg (by omega), if_neg (by simp [hreserved'])]
  rfl

/-- A timebase that no PWM channel uses takes its schedule and is armed. -/
theorem effLchTimebase_ok {c : Cmd} {s : State}
    (hv : c.p 32 1 ≤ 7 ∧ c.zero 33 3 = true ∧ c.timeForm 36 = true ∧ c.timeNs 36 ≤ 999999999 ∧
      tbPeriodOk (c.p 48 4) = true ∧ tbUser s (c.p 32 1) = none) :
    effLchTimebase c s = .ok (tbArm (c.p 32 1)
      ((((s.wr (tbReg (c.p 32 1) 0) (BitVec.ofNat 32 (c.p 44 2 * 65536))).wr (tbReg (c.p 32 1) 4) (c.w 36)).wr
        (tbReg (c.p 32 1) 8) (c.w 40)).wr (tbReg (c.p 32 1) 0xC) (c.w 48))) [] 0 := by
  obtain ⟨htb, hreserved, hform, hns, hperiod, huser⟩ := hv
  unfold effLchTimebase
  simp only
  rw [if_neg (by omega), if_neg (by simp [hreserved]), if_neg (by simp [hform]), if_neg (by omega),
    if_neg (by simp [hperiod]), huser]
  rfl

theorem effLchSetHold_ok {c : Cmd} {s : State} (hv : 10 ≤ c.p 32 2 ∧ c.p 32 2 ≤ 2000 ∧ c.zero 34 2 = true) :
    effLchSetHold c s = .ok (s.sf (lchReg 4) 26 16 (c.p 32 2)) [] 0 := by
  obtain ⟨hlo, hhi, hreserved⟩ := hv
  unfold effLchSetHold
  rw [if_neg (by simp [holdMsOk_iff.mpr ⟨hlo, hhi⟩]), if_neg (by simp [hreserved])]
  rfl

/-- Counters are those of a channel, or for channel number 42 the block's. -/
theorem effLchCounters_ok {c : Cmd} {s : State} {l : List Nat}
    (hl : (if c.inst = 42 then regRun (lchReg 0x100) 7 else regRun (chReg c.inst 0x20) 4) = l) :
    effLchCounters c s = .ok (takeCounters l s).2 (takeCounters l s).1 0 := by
  subst hl
  rfl

/-- Settles O51: each opcode's execution passes its checks and answers OK with the setting, the status or the
counters. -/
theorem loadChannelOpcodes : Obligations.LoadChannelOpcodes := by
  refine ⟨?_, ?_, ?_, ?_, ?_, ?_, ?_⟩
  · intro ring slot c s0 s h hv htb hoff
    exact opRow_ok h (effLchChanCfg_ok hv htb hoff) (by decide) (by simp)
  · intro ring slot c s0 s h hv hl hr
    exact opRow_ok h (effLchProfile_ok hv hl hr) (by decide) (by simp)
  · intro ring slot c s0 s h hv
    exact opRow_ok h (effLchTimebase_ok hv) (by decide) (by simp)
  · intro ring slot c s0 s h hv
    exact opRow_ok h (effLchSetHold_ok hv) (by decide) (by simp)
  · intro ring slot c s0 s h
    exact opRow_ok (eff := effLchChanStatus) h rfl (by decide) (by simp)
  · intro ring slot c s0 s h hi
    exact opRow_ok h (effLchCounters_ok (if_neg hi)) (by decide) (by simp)
  · intro ring slot c s0 s h hi
    exact opRow_ok h (effLchCounters_ok (if_pos hi)) (by decide) (by simp)

end Sys2Proof.Machine
end

section
namespace Sys2Proof.Machine

/-! ### A wake source fires (R502–R504, R506, R507, R515)

`keyFire_<state>` says what a source that may fire does in each state of the module. -/

theorem execWakeSourceFire_fires {src sub levels : Nat} {s : State}
    (hf : fires s (setLevels levels s) src sub = true) :
    execWakeSourceFire src sub levels s = .next (keyFire src sub (setLevels levels s)) :=
  congrArg _ (if_pos hf)

section
variable {src sub : Nat} {s : State} (hm : mayFire s src = true)
include hm

/-- OFF with the supply there: the first wake that waited is the cause of the power-up. -/
theorem keyFire_supplied {u : State} (hoff : s.sys.phase = .off)
    (hu : u = if src = 0 then powerOnFirst s else keyLog src sub 0 (powerOnFirst s)) (hg : u.key.supplyGood = true)
    {w : List (Nat × Nat)} (hw : w = u.key.latched ++ u.key.held ++ if src = 0 then [] else [(src, sub)]) :
    keyFire src sub s = powerUp (w.headD (src, sub)) (w.drop 1) u := by
  subst hu hw
  unfold keyFire
  rw [if_neg (by simp [hm]), if_pos hoff]
  exact if_pos hg

/-- OFF without the supply: the wake is held. -/
theorem keyFire_unsupplied {u : State} (hoff : s.sys.phase = .off)
    (hu : u = if src = 0 then powerOnFirst s else keyLog src sub 0 (powerOnFirst s)) (hg : u.key.supplyGood = false) :
    keyFire src sub s = u.withKey (fun k => { k with held := k.held ++ if src = 0 then [] else [(src, sub)] }) := by
  subst hu
  unfold keyFire
  rw [if_neg (by simp [hm]), if_pos hoff]
  exact if_neg (by simp [hg])

/-- Power-off under way: the wake is latched. -/
theorem keyFire_poweringOff (hon : s.sys.phase ≠ .off) (hp : poweringOff s = true) :
    keyFire src sub s =
      (if src = 1 then clearLockouts ((keyLog src sub 4 s).cnt (keyReg 0x48) 1)
        else (keyLog src sub 4 s).cnt (keyReg 0x48) 1).withKey
          (fun k => { k with latched := k.latched ++ [(src, sub)] }) := by
  unfold keyFire
  rw [if_neg (by simp [hm]), if_neg hon, if_pos hp]

/-- ON: the wake joins CAUSE_SET and the log, and once the pour is over raises WAKE_ON. -/
theorem keyFire_on {u v w x : State} (hon : s.sys.phase ≠ .off) (hp : poweringOff s = false)
    (hu : u = setPair 0x1C src true (keyLog src sub 0 s)) (hv : v = if src = 1 then clearLockouts u else u)
    (hw : w = v.withKey (fun k => { k with fired := some (pclk v) }))
    (hx : x = if src ≤ 2 || (decide (src ≤ 7) && wakeValidate w (src - 4) == 0) then keyValidate [src] w else w) :
    keyFire src sub s =
      if x.key.pouring then x else if x.up then localWake (x.raise 16 0) else x.raise 16 0 := by
  subst hu hv hw hx
  unfold keyFire
  rw [if_neg (by simp [hm]), if_neg hon, if_neg (by simp [hp])]

end

section
variable {x : Nat × Nat} {r : List (Nat × Nat)} {s : State}

/-- The supply's return starts the power-up of the first held wake. -/
theorem execWakeSupplyGood_held (hheld : s.key.held = x :: r) (hoff : s.sys.phase = .off) :
    execWakeSupplyGood s = .next (powerUp x r (s.withKey (fun k => { k with supplyGood := true }))) := by
  simp [execWakeSupplyGood, State.withKey, hheld, hoff]

/-- A wake latched during power-off starts the next power-up. -/
theorem execLatchedWakePowerUp_latched (hlatched : s.key.latched = x :: r) (hoff : s.sys.phase = .off) :
    execLatchedWakePowerUp s = .next (powerUp x r s) := by
  simp [execLatchedWakePowerUp, hlatched, hoff]

end

/-! ### Power-off (R513, R514, R554) -/

theorem beginOff_start {s : State} (h : poweringOff s = false) : beginOff s =
    (((s.withKey (fun k => { k with offReaction := false })).sb (keyReg 0) 0 true).sb (keyReg 0) 1 false).raise 16 4 :=
  if_neg (by simp [h])

/-- Mason's done on a running die: changed training records are in flash, channels stop and PoDL goes off. -/
theorem execPowerOffDone_running {s : State} (hu : s.up = true) (hp : poweringOff s = true) :
    execPowerOffDone s = .next (showChans (podlAllOff (armPorts
      { s.withEth (fun e => { e with rtFlash := e.rt }) with
        sys := { (s.withEth (fun e => { e with rtFlash := e.rt })).sys with phase := .stopping } }))) := by
  have hphase : s.sys.phase = .running := by simpa [State.up] using hu
  unfold execPowerOffDone
  rw [if_neg (by simp [hp, hphase])]
  simp only [hu, if_true]

theorem execPowerOffComplete_stopping {s : State} (h : s.sys.phase = .stopping) :
    execPowerOffComplete s = .next (goOff s) := by
  unfold execPowerOffComplete
  rw [if_pos (by simp [h])]

/-- A brown-out takes the module OFF at once, its ports watched as at a power-off. -/
theorem execBrownOut_on {s : State} (h : s.sys.phase ≠ .off) : execBrownOut s =
    .next (goOff (podlAllOff ((if s.sys.phase = .stopping then s else armPorts s).withKey
      (fun k => { k with supplyGood := false })))) := by
  unfold execBrownOut
  rw [if_neg (by simpa using h)]
  simp only [beq_iff_eq]

/-- Settles O52: a wake by the module's state and its supply; the other events find the state they ask for. -/
theorem keystoneWakesAndPowersOff : Obligations.KeystoneWakesAndPowersOff := by
  refine ⟨?_, ?_, ?_, ?_, ?_, ?_, ?_, ?_, ?_, ?_, ?_, ?_, ?_, ?_, ?_⟩
  · rintro src sub levels w s _ u ⟨rfl, hu⟩ ⟨hf, hm, hoff, hg⟩ hw
    exact (execWakeSourceFire_fires hf).trans (congrArg _ (keyFire_supplied hm hoff hu hg hw))
  · rintro src sub levels s _ u ⟨rfl, hu⟩ ⟨hf, hm, hoff, hg⟩
    exact (execWakeSourceFire_fires hf).trans (congrArg _ (keyFire_unsupplied hm hoff hu hg))
  · rintro src sub levels s _ _ ⟨rfl, rfl⟩ ⟨hf, hm, hon, hp⟩
    exact (execWakeSourceFire_fires hf).trans (congrArg _ (keyFire_poweringOff hm hon hp))
  · rintro src sub levels s _ u v w x rfl ⟨hf, hm, hon, hp⟩ hu hv hw hx
    exact (execWakeSourceFire_fires hf).trans (congrArg _ (keyFire_on hm hon hp hu hv hw hx))
  · exact fun _ => rfl
  · rintro x r s ⟨hheld, hoff⟩
    exact execWakeSupplyGood_held hheld hoff
  · rintro x r s ⟨hlatched, hoff⟩
    exact execLatchedWakePowerUp_latched hlatched hoff
  · exact fun _ => rfl
  · rintro s _ hu rfl
    exact if_pos hu
  · rintro s hu ⟨hauto, hblocks, hp⟩
    exact act_eq hu ((if_pos (by simp [hauto, hblocks])).trans (beginOff_start hp))
  · rintro s _ hu ⟨hp, rfl⟩
    exact execPowerOffDone_running hu hp
  · exact fun s hstop => execPowerOffComplete_stopping hstop
  · exact fun s hon => execBrownOut_on hon
  · exact fun _ => rfl
  · rintro s ⟨hphase, hdebug, hp⟩
    exact congrArg _ ((if_pos (by rcases hphase with h | h <;> simp [h, hdebug])).trans (beginOff_start hp))

end Sys2Proof.Machine
end

section
namespace Sys2Proof.Machine

/-! ### NM engines (R508, R509, R512, R519) -/

/-- An engine whose NM_CFG does not hand PDUs on takes its channel's next whole record off: a PDU of 2 bytes or more is
received, a shorter one is rejected. -/
theorem nmCan_takes {e : Nat} {p : List SWord} {r : List (List SWord)} {m : Msg} {u t : State}
    (hin : gwyInbox u e = p :: r) (hm : m = recordMsg u e (p.map (·.data))) (hgood : recordGood p = true)
    (htakes : nmTakes u e m.frame = true)
    (ht : (if m.frame.data.length < 2 then nmBad (popRecord e u)
      else nmReceive e m.frame.data (popRecord e u)) = t) (hkeeps : t.bit (nmReg e 0) 16 = false) : nmCan e u = t := by
  subst hm
  unfold nmCan
  rw [hin]
  simp only [hgood, htakes, Bool.and_self, if_true]
  rw [ht, if_neg (by simp [hkeeps])]

section
variable {e : Nat} {s t : State} (hu : s.up = true)
include hu

theorem execNmPduReceived_can (he : e < 16) (h : nmCan e (hwDrain e s) = t) : execNmPduReceived e s = .next t := by
  unfold execNmPduReceived
  rw [act_up hu, if_pos he, h]

/-- T_NM counts in NORMAL_OPERATION. -/
theorem execNmTimeout_normal (he : e < 20) (hst : nmState s e = 4) :
    execNmTimeout e s = .next (s.cnt (rg 10 0x880C) 1) := by
  unfold execNmTimeout
  rw [act_up hu, if_neg (by omega), if_pos hst]

/-- T_NM leads from READY_SLEEP to PREPARE_BUS_SLEEP. -/
theorem execNmTimeout_ready (he : e < 20) (hst : nmState s e = 5) : execNmTimeout e s = .next (setNm e 2 s) := by
  unfold execNmTimeout
  rw [act_up hu, if_neg (by omega), if_neg (by omega), if_pos hst]

end

/-- NM_CFG takes a valid write: EN always, the other fields while EN = 0. -/
theorem execNmCfgWrite_valid {m e : Nat} {v : Word} {s : State}
    (hm : MayWrite s m 10 (if e < 16 then .bit e else .bit 26) = true) (hf : nmFitted s e = true)
    (hv : nmCfgOk v = true) (hr : (!nmEn s e && bitOf v 0 && !nmRegsOk s e v) = false) :
    execNmCfgWrite m e v s =
      .next (nmEnable e (bitOf v 0) (if nmEn s e then s else s.wr (nmReg e 0) (setBit v 0 false))) := by
  unfold execNmCfgWrite
  rw [withWrite_ok hm, if_neg (by simp [hf]), if_neg (by simp [hv]), if_neg (by simp [hr])]
  rfl

/-- Settles O43: a PDU by its length; each timer by the engine's state. -/
theorem networkManagementRuns : Obligations.NetworkManagementRuns := by
  refine ⟨?_, ?_, ?_, ?_, ?_, ?_, ?_, ?_⟩
  · rintro e p r m s _ hu ⟨he, rfl, hin, hm⟩ ⟨hgood, htakes, hlen⟩ hkeeps
    exact execNmPduReceived_can hu he (nmCan_takes hin hm hgood htakes (if_neg (by omega)) hkeeps)
  · rintro e p r m s _ hu ⟨he, rfl, hin, hm⟩ ⟨hgood, htakes, hlen⟩ hkeeps
    exact execNmPduReceived_can hu he (nmCan_takes hin hm hgood htakes (if_pos hlen) hkeeps)
  · intro e s hu h
    exact act_eq hu (if_pos h)
  · rintro e s hu ⟨he, hst⟩
    exact execNmTimeout_normal hu he hst
  · rintro e s hu ⟨he, hst⟩
    exact execNmTimeout_ready hu he hst
  · intro e s hu h
    exact act_eq hu (if_pos h)
  · intro e s hu he hst
    exact act_eq hu (if_pos ⟨he, hst⟩)
  · rintro m e v s hm ⟨hf, hv⟩ hr
    exact execNmCfgWrite_valid hm hf hv hr

end Sys2Proof.Machine
end

section
namespace Sys2Proof.Machine

/-! ### Keystone's opcodes (R505, R507, R511, R513, R518, R520)

`<eff>_ok` says what an opcode's execution answers where its checks pass. -/

/-- Fields in range are written; an input whose VALIDATE is 0 is valid at once while the window runs. -/
theorem effKeySetCfg_ok {c : Cmd} {s : State}
    (hcfg : c.w 32 &&& ~~~ 0x03FFF7FF#32 = 0 ∧ keyCfgOk (c.w 32) = true ∧ c.p 40 4 < 2 ^ 18)
    (hwake : wakeCfgOk (c.w 44) = true ∧ c.p 48 4 < 2 ^ 17 ∧ timerOk (c.w 48) = true) :
    effKeySetCfg c s = .ok (validNow (((((s.wr (keyReg 4) (c.w 32)).wr (keyReg 8) (c.w 36)).wr (keyReg 0xC) (c.w 40)).wr
      (keyReg 0x10) (c.w 44)).wr (keyReg 0x14) (c.w 48))) [] 0 := by
  obtain ⟨hreserved, hrange, hhi⟩ := hcfg
  obtain ⟨hvalidate, hreserved', htimer⟩ := hwake
  unfold effKeySetCfg
  rw [if_neg (not_not_intro hreserved), if_neg (by simp [hrange]), if_neg (by omega), if_neg (by simp [hvalidate]),
    if_neg (by omega), if_neg (by simp [htimer])]
  rfl

/-- Power-off begins, forced or with no sleep condition against it, where no source fires in the cycle. -/
theorem effKeySleep_ok {c : Cmd} {s : State} (hv : c.p 32 4 = 1 ∨ (c.p 32 4 = 0 ∧ sleepBlocks s = 0))
    (hf : firedNow s = false) : effKeySleep c s = .ok (beginOff s) [] 0 := by
  unfold effKeySleep
  rw [if_neg (by omega), if_neg (by simp [hf]; omega)]
  rfl

/-- In the window every source of CAUSE_SET becomes valid. -/
theorem effKeyWakeValid_ok {c : Cmd} {s : State} (hv : validating s = true) :
    effKeyWakeValid c s = .ok (keyValidate ((List.range 50).filter (pairBit s 0x1C)) s) [] 0 := if_pos hv

/-- Settles O54: each opcode's execution passes its checks and answers OK. -/
theorem keystoneOpcodes : Obligations.KeystoneOpcodes := by
  refine ⟨?_, ?_, ?_, ?_, ?_, ?_, ?_⟩
  · intro ring slot c s0 s h
    exact opRow_ok (eff := effKeyStatus) h rfl (by decide) (by simp)
  · intro ring slot c s0 s h hcfg hwake
    exact opRow_ok h (effKeySetCfg_ok hcfg hwake) (by decide) (by simp)
  · intro ring slot c s0 s h hv hf
    exact opRow_ok h (effKeySleep_ok hv hf) (by decide) (by simp)
  · intro ring slot c s0 s h hv
    exact opRow_ok h (effKeyWakeValid_ok hv) (by decide) (by simp)
  · intro ring slot c s0 s h
    exact opRow_ok (eff := effKeyUnlock) h rfl (by decide) (by simp)
  · intro ring slot c s0 s h
    exact opRow_ok (eff := effKeyLogRead) h rfl (by decide) (by simp)
  · intro ring slot c s0 s h
    exact opRow_ok (eff := effKeyCounters) h rfl (by decide) (by simp)

end Sys2Proof.Machine
end

section
namespace Sys2Proof.Machine

/-! ### The health monitor's events (R409, R546, R555–R561, R580) -/

/-- Where the logic die has its clocks, HLT's event has its effect. -/
theorem actHlt_eq {f : State → State} {s t : State} (hc : clocked s = true) (h : f s = t) : actHlt f s = .next t :=
  (if_pos hc).trans (congrArg _ h)

section
variable {a : Nat} {s : State} (h : (poweringOff s && s.key.offReaction) = false)
include h

/-- Unless an OFF reaction is under way, OFF writes its record and begins power-off. -/
theorem react_off : react (some (3, a)) s =
    (beginOff (setCause (causeWord (fld s.sys.cause 3 0) 1 a (fld s.sys.cause 31 16)) s)).withKey
      (fun k => { k with ignoring := true, offReaction := true }) := if_neg (by simp [h])

theorem react_erase : react (some (1, a)) s = cruAlarm 3 s := if_neg (by simp [h])

/-- A RESET gives way to a power-off under way. -/
theorem react_reset (hp : poweringOff s = false) : react (some (2, a)) s = reactReset a s :=
  (if_neg (by simp [h])).trans (if_neg (by simp [hp]))

end

/-- An uncorrectable error marks its word (`r`), answers its reader and is counted (`t`), logged (`u`), loses its rule
(`v`), and raises its alarm. -/
theorem eccUe_eq {k addr : Nat} {m : Option Nat} {s r t u v : State}
    (hr : r = if [0, 1, 2, 5].contains k then
      { s with bad := s.bad ++ ((List.range 8).map (addr / 8 * 8 + ·)).filter (fun a => !s.bad.contains a) } else s)
    (ht : t = ((m.elim r (fun m => r.reply m [0] true)).cntF (eccReg k) 31 16 1).withLife
      (fun l => { l with ues := l.ues + 1 }))
    (hu : u = if t.hlt.ueLogged then t else ((t.wr (hltReg 0x30) (BitVec.ofNat 32 addr)).wr (hltReg 0x34)
      (BitVec.ofNat 32 (addr / 2 ^ 32 % 256 + k * 256 + 2 ^ 15))).withHlt (fun h => { h with ueLogged := true }))
    (hv : v = if k = 7 then ruleLost addr u else u) :
    eccUe k addr m s = raiseAlarms [if k = 6 then 9 else 8] v := by
  subst hr ht hu hv
  cases m <;> rfl

section
variable {k : Nat} {x : Nat × Option Nat} {s : State}

theorem execEccError_corrected (hc : clocked s = true) (hk : k < 8) :
    execEccError k false x s = .next (s.cntF (eccReg k) 15 0 1) := by
  unfold execEccError
  refine actHlt_eq hc ?_
  rw [if_neg (by omega), if_neg (by simp)]

theorem execEccError_uncorrectable (hc : clocked s = true) (hk : k < 8) :
    execEccError k true x s = .next (eccUe k x.1 x.2 s) := by
  unfold execEccError
  refine actHlt_eq hc ?_
  rw [if_neg (by omega), if_pos rfl]

/-- Without clocks, or in no memory of the list, an error changes nothing. -/
theorem execEccError_idle {ue : Bool} (h : clocked s = false ∨ 8 ≤ k) : execEccError k ue x s = .next s := by
  simp only [execEccError, actHlt]
  rcases h with hc | hk
  · rw [if_neg (by simp [hc])]
  · rw [if_pos hk, ite_self]

end

/-- The hour's evaluation; MARGIN_LOW where the guard band was at its most and the margin still low. -/
theorem execHourlyEvaluation_eq {s u : State} (hc : clocked s = true)
    (hu : u = saveLife (writeDerate (showLife (replan (s.withLife (fun l => { l with hours := l.hours + 1 })))))) :
    execHourlyEvaluation s =
      .next (if s.hlt.hourMargin.getD 35 < 35 ∧ s.hlt.life.guard = 60 then raiseAlarms [13] u else u) := by
  subst hu
  refine actHlt_eq hc ?_
  simp only [Bool.and_eq_true, decide_eq_true_eq, beq_iff_eq]

/-- Settles O55: each event on a die with its clocks; a reaction by its kind, an ECC error by whether it can be
corrected. -/
theorem healthMonitorEvents : Obligations.HealthMonitorEvents := by
  refine ⟨?_, ?_, ?_, ?_, ?_, ?_, ?_, ?_, ?_, ?_⟩
  · rintro l set s hc rfl
    exact if_pos hc
  · rintro s _ hc rfl
    exact if_pos hc
  · exact fun _ => rfl
  · exact fun a s h => ⟨react_off h, react_erase h, react_reset h⟩
  · intro k x s hc hk
    exact execEccError_corrected hc hk
  · intro k addr m s r t u v hc hk hr ht hu hv
    exact (execEccError_uncorrectable hc hk).trans (congrArg _ (eccUe_eq hr ht hu hv))
  · intro k ue x s h
    exact execEccError_idle h
  · exact fun _ => rfl
  · rintro margin vdd rth worst temp ratios swing hot m s t u v hc ⟨rfl, rfl⟩ rfl rfl rfl rfl
    exact if_pos hc
  · rintro s _ u hc rfl hu
    exact execHourlyEvaluation_eq hc hu

end Sys2Proof.Machine
end

section
namespace Sys2Proof.Machine

/-! ### Outbound requests, messages and side-band status (R530–R536, R540, R542) -/

section
variable {m a n : Nat} {wr : Bool} {data : List Byte} {s : State} (hn : n ≠ 0)
  (hr : (List.range n).all (fun i => s.reaches m (a + i) wr) = true)
include hn hr

/-- An access inside an enabled region whose function masters the bus issues a request. -/
theorem outAccess_inRegion {k : Nat} (hk : outRegion s a = some k) (hfit : a + n ≤ regionBase s k + regionSize s k)
    (hm : fnMasters s (regionFn s k) = true) : outAccess m a n wr data s =
      issueReq { tag := 0, kind := if wr then .write else .read, initiator := m, fn := regionFn s k, region := k,
                 addr := a, pciAddr := pciAddr s k a, len := n, data := data, serial := 0 } s := by
  unfold outAccess
  simp only [hr, hk, Bool.not_true, Bool.false_eq_true, if_false]
  rw [if_neg hn, if_neg (by omega), if_pos hm]

/-- An access in no region fails. -/
theorem outAccess_noRegion (hk : outRegion s a = none) : outAccess m a n wr data s =
    reqFail { tag := 0, kind := if wr then .write else .read, initiator := m, fn := 0, region := 16, addr := a,
              pciAddr := 0, len := n, data := data, serial := 0 } 5 s := by
  unfold outAccess
  simp only [hr, hk, Bool.not_true, Bool.false_eq_true, if_false]
  exact if_neg hn

end

/-- A completion ends its request: done where it is good, else failed with the kind of its status. -/
theorem execCompletionArrival_found {tag st : Nat} {data : List Byte} {r : OutReq} {s : State} (hu : s.up = true)
    (hf : s.hbr.requests.find? (fun r => r.tag == tag) = some r) : execCompletionArrival tag st data s =
      .next (quietRegions (if st = 0 then reqDone r data (dropReq tag s)
        else reqFail r (cplKind st) (dropReq tag s))) := by
  unfold execCompletionArrival
  rw [act_up hu, hf]

theorem execCompletionArrival_none {tag st : Nat} {data : List Byte} {s : State} (hu : s.up = true)
    (hf : s.hbr.requests.find? (fun r => r.tag == tag) = none) :
    execCompletionArrival tag st data s = .next (hbrCount 0x11C s) := by
  unfold execCompletionArrival
  rw [act_up hu, hf]

theorem execCompletionTimeout_found {tag : Nat} {r : OutReq} {s : State} (hu : s.up = true)
    (hf : s.hbr.requests.find? (fun r => r.tag == tag) = some r) :
    execCompletionTimeout tag s = .next (quietRegions (reqFail r 9 (dropReq tag s))) := by
  unfold execCompletionTimeout
  rw [act_up hu, hf]

/-- The message that may leave does, or becomes pending in the PBA where its vector is masked. -/
theorem execMsixSend_ready {f v mark : Nat} {s t : State} (hu : s.up = true)
    (hf : s.hbr.msixQueue.find? (fun e => fnMasters s e.1 && (s.fn e.1).msixEn && earlierDone s e.2.2) =
      some (f, v, mark))
    (ht : t = s.withHbr (fun h => { h with msixQueue := h.msixQueue.erase (f, v, mark) })) :
    execMsixSend s = .next (if vectorMasked (t.fn f) v
      then t.setFn f { t.fn f with pba := setBit (t.fn f).pba v true } else msixGo f v t) := by
  subst ht
  unfold execMsixSend
  rw [act_up hu, hf]

section
variable {f g : Nat} {x : SbGroup} {s : State} (hu : s.up = true) (hg : f < 8 ∧ g < 4 ∧ grpMode s f g = 2)
  (hx : x = sbGroup s f g)
include hu hg hx

/-- A due status write goes out, its sequence number the next. -/
theorem execSidebandWrite_due {t : State} (hw : x.want = true) (hi : x.inFlight = false)
    (he : earlierDone s x.mark = true)
    (ht : t = setSbGroup f g { x with seq := x.seq + 1, written := x.pend, since := 0, want := false,
                                      inFlight := true, retry := false } s) :
    execSidebandWrite f g s = .next (bridgeIssue
      (bridgeReq f g (.sbWrite g) 0 8 (leBytes 4 x.pend.toNat ++ leBytes 4 (x.seq + 1).toNat) t) t) := by
  subst hx ht
  exact act_eq hu (if_neg (by simp [hw, hi, he]; omega))

/-- A failed status write falls due again. -/
theorem execSidebandPoll_retry (hr : x.retry = true) (hp : x.polling = false) :
    execSidebandPoll f g s = .next (setSbGroup f g { x with retry := false, want := true } s) := by
  subst hx
  exact act_eq hu ((if_neg (by simp [hr, hp]; omega)).trans (if_pos hr))

/-- The poll goes out where the write that made PEND not zero has ended. -/
theorem execSidebandPoll_pending (hpend : x.pend ≠ 0) (hready : x.ready = true) (hr : x.retry = false)
    (hp : x.polling = false) : execSidebandPoll f g s =
      .next (bridgeIssue (bridgeReq f g (.sbPoll g) 8 4 [] s) (setSbGroup f g { x with polling := true } s)) := by
  subst hx
  have hbits : (sbGroup s f g).pend ≠ 0#32 := hpend
  exact act_eq hu ((if_neg (by simp [hbits, hready, hp, hg])).trans (if_neg (by simp [hr])))

end

/-- The oldest entry is taken off the log into the reader's latch. -/
theorem execHbrErrPop_permitted {m : Nat} {s t : State} (hm : MayRead s m 17 .none = true)
    (ht : t = s.withHbr (fun h =>
      { h with log := h.log.tail, latch := tput LogEntry.none h.latch m (s.hbr.log.headD LogEntry.none) })) :
    execHbrErrPop m s =
      .next ((t.sf (hbrReg 0x4C) 4 0 t.hbr.log.length).reply m [(s.hbr.log.headD LogEntry.none).lo] false) := by
  subst ht
  exact withRead_ok (off := 0x40) hm

/-- Settles O58: an access by its region, a completion by its request and status, a side-band write or poll by its
group. -/
theorem hostMessagesAndOutbound : Obligations.HostMessagesAndOutbound := by
  refine ⟨?_, ?_, ?_, ?_, ?_, ?_, ?_, ?_, ?_, ?_, ?_, ?_⟩
  · rintro m a k data s ⟨hu, hi⟩ ⟨hp, hn, hr⟩ ⟨hk, hfit, hm⟩
    exact (fabricAct_go hu hi).trans (congrArg _ ((if_pos hp).trans (outAccess_inRegion hn hr hk hfit hm)))
  · rintro m a k n s ⟨hu, hi⟩ ⟨hp, hn, hr⟩ ⟨hk, hfit, hm⟩
    exact (fabricAct_go hu hi).trans (congrArg _ ((if_pos hp).trans (outAccess_inRegion hn hr hk hfit hm)))
  · rintro m a n s ⟨hu, hi⟩ ⟨hp, hn, hr, hk⟩
    exact (fabricAct_go hu hi).trans (congrArg _ ((if_pos hp).trans (outAccess_noRegion hn hr hk)))
  · intro tag data r s hu hf
    exact execCompletionArrival_found hu hf
  · rintro tag st data r s hu ⟨hf, hst⟩
    exact (execCompletionArrival_found hu hf).trans (congrArg _ (congrArg _ (if_neg hst)))
  · intro tag st data s hu hf
    exact execCompletionArrival_none hu hf
  · intro tag r s hu hf
    exact execCompletionTimeout_found hu hf
  · intro f v mark s t hu hf ht
    exact execMsixSend_ready hu hf ht
  · rintro f g x s hu hg ⟨hx, hw, hi, he⟩
    exact execSidebandWrite_due hu hg hx hw hi he rfl
  · rintro f g x s hu hg ⟨hx, hr, hp⟩
    exact execSidebandPoll_retry hu hg hx hr hp
  · rintro f g x s hu hg ⟨hx, hpend, hready, hr, hp⟩
    exact execSidebandPoll_pending hu hg hx hpend hready hr hp
  · intro m s t hm ht
    exact execHbrErrPop_permitted hm ht

end Sys2Proof.Machine
end

section
namespace Sys2Proof.Machine

/-! ### The bridge's opcodes (R530, R534, R539–R542)

`<eff>_ok` says what an opcode's execution answers where its checks pass. -/

section
variable {c : Cmd} {s : State}
  (hv : c.p 32 8 % 4096 = 0 ∧ 0x8000000000 ≤ c.p 32 8 ∧ c.p 40 4 ≠ 0 ∧
    c.p 32 8 + c.p 40 4 * 4096 ≤ 0x10000000000 ∧ c.p 44 1 ≤ 7 ∧ c.p 45 1 ≤ 1 ∧ c.zero 46 2 = true ∧
    c.p 48 8 % 4096 = 0)
include hv

/-- A disabled region takes fields in range that overlap no enabled region. -/
theorem effHbrSetRegion_disabled (ho : c.p 45 1 = 1 → overlaps s c.inst (c.p 32 8) (c.p 40 4 * 4096) = none)
    (hen : regionEn s c.inst = false) : effHbrSetRegion c s =
      .ok ((((((s.wr (regionReg c.inst 0) (BitVec.ofNat 32 (c.p 32 8))).wr (regionReg c.inst 4)
        (BitVec.ofNat 32 (c.p 32 8 / 2 ^ 32))).wr (regionReg c.inst 8) (c.w 40)).wr (regionReg c.inst 0xC)
          (c.w 48)).wr (regionReg c.inst 0x10) (c.w 52)).wr (regionReg c.inst 0x14)
            (BitVec.ofNat 32 (c.p 45 1 + c.p 44 1 * 256))) [] 0 := by
  obtain ⟨halign, hlo, hsize, hhi, hfn, hbit, hreserved, hpci⟩ := hv
  have hfree : (if c.p 45 1 = 1 then overlaps s c.inst (c.p 32 8) (c.p 40 4 * 4096) else none) = none :=
    ite_eq_right_iff.mpr ho
  unfold effHbrSetRegion
  simp only
  rw [if_neg (by omega), if_neg (by omega), if_neg (by omega), if_neg (by omega), if_neg (by simp [hreserved]),
    if_neg (by omega), hfree]
  simp only [hen, Bool.false_eq_true, if_false]
  rfl

/-- EN = 0 clears EN of an enabled region: at once where nothing of it is in flight, else going on until then. -/
theorem effHbrSetRegion_clearsEn (hoff : c.p 45 1 = 0) (hen : regionEn s c.inst = true) : effHbrSetRegion c s =
    if ((s.sb (regionReg c.inst 0x14) 0 false).hbr.requests ++
        (s.sb (regionReg c.inst 0x14) 0 false).hbr.waiting).any (fun q => q.region == c.inst)
    then .wait (s.sb (regionReg c.inst 0x14) 0 false)
    else .ok (s.sb (regionReg c.inst 0x14) 0 false) [] 0 := by
  obtain ⟨halign, hlo, hsize, hhi, hfn, hbit, hreserved, hpci⟩ := hv
  unfold effHbrSetRegion
  simp only
  rw [if_neg (by omega), if_neg (by omega), if_neg (by omega), if_neg (by omega), if_neg (by simp [hreserved]),
    if_neg (by omega), if_neg (by omega)]
  simp only [hen, if_true]
  exact if_neg (by omega)

end

theorem effHbrSetCfg_ok {c : Cmd} {s : State} (hv : fld (c.w 32) 31 28 = 0 ∧ cplTimeoutOk (c.w 32) = true) :
    effHbrSetCfg c s = .ok (s.sf (hbrReg 4) 15 0 (fld (c.w 32) 15 0)) [] 0 := by
  obtain ⟨hreserved, htimeout⟩ := hv
  unfold effHbrSetCfg
  rw [if_neg (not_not_intro hreserved), if_neg (by simp [htimeout])]
  rfl

/-- Settles O59: each opcode's execution passes its checks and answers OK; a region with requests in flight closes
later. -/
theorem hostBridgeOpcodes : Obligations.HostBridgeOpcodes := by
  refine ⟨?_, ?_, ?_, ?_, ?_, ?_, ?_, ?_⟩
  · intro ring slot c s0 s h hv ho hen
    exact opRow_ok h (effHbrSetRegion_disabled hv ho hen) (by decide) (by simp)
  · rintro ring slot c s0 s h ⟨halign, hlo, hsize, hhi, hfn, hoff, hrest⟩ ⟨hen, hquiet⟩
    exact opRow_ok h ((effHbrSetRegion_clearsEn ⟨halign, hlo, hsize, hhi, hfn, by omega, hrest⟩ hoff hen).trans
      (if_neg (Bool.eq_false_iff.mp hquiet))) (by decide) (by simp)
  · rintro ring slot c s0 s h ⟨halign, hlo, hsize, hhi, hfn, hoff, hrest⟩ ⟨hen, hbusy⟩
    exact opRow_wait h ((effHbrSetRegion_clearsEn ⟨halign, hlo, hsize, hhi, hfn, by omega, hrest⟩ hoff hen).trans
      (if_pos hbusy))
  · intro ring slot c s0 s h
    exact opRow_ok (eff := effHbrLinkStatus) h rfl (by decide) (by simp)
  · intro ring slot c s0 s h
    exact opRow_ok (eff := effHbrFnStatus) h rfl (by decide) (by simp)
  · intro ring slot c s0 s h hlen
    exact opRow_ok (eff := effHbrLogRead) h rfl (by decide) (by simp [List.length_flatMap]; omega)
  · intro ring slot c s0 s h
    exact opRow_ok (eff := effHbrCounters) h rfl (by decide) (by simp)
  · intro ring slot c s0 s h hv
    exact opRow_ok h (effHbrSetCfg_ok hv) (by decide) (by simp)

end Sys2Proof.Machine
end

section
namespace Sys2Proof.Machine

/-! ### How a command with an output buffer ends (R68) -/

/-- A result of a command without a buffer is in its reply. -/
theorem finish_direct {sp : OpSpec} {c : Cmd} {r : List Byte} {v : Nat} {s t : State} (hi : c.indirect = false)
    (hr : r.length ≤ 224) : finish sp c r v s t = okReply c r v t := by
  unfold finish
  rw [if_neg (by simp [hi]), if_neg (by omega)]
  rfl

/-- A result that fits an output buffer the issuer may write goes there. -/
theorem finish_buffer {sp : OpSpec} {c : Cmd} {r : List Byte} {v : Nat} {s t : State} (hi : c.indirect = true)
    (hb : sp.buf = .output) (hr : r.length ≤ c.bufSize)
    (hbad : s.badByte c.issuer c.bufAddr r.length true = none) :
    finish sp c r v s t = complete c 0 0 noOffset v r.length [] (t.dmaPut c.issuer c.bufAddr r) := by
  unfold finish
  rw [if_pos ⟨hi, hb⟩, if_neg (by omega), hbad]

/-! ### Resets (R545, R562) -/

theorem effSysReset_module {c : Cmd} {s : State} (hv : c.p 32 1 = 1 ∧ c.p 34 1 ≤ 1 ∧ c.zero 35 1 = true) :
    effSysReset c s = .wait (moduleReset 0 0 s) := by
  obtain ⟨hkind, hreload, hreserved⟩ := hv
  have hplain : effSysResetPlain c s = .wait (moduleReset 0 0 s) := by
    unfold effSysResetPlain
    simp only
    rw [if_neg (by omega), if_neg (by simp [hreserved]), if_pos hkind]
  unfold effSysReset
  rw [hplain]

/-- A block that may be reset returns to reset; with RELOAD its image's entries then act. -/
theorem effSysReset_block {c : Cmd} {s : State}
    (hv : c.p 32 1 = 2 ∧ c.p 34 1 ≤ 1 ∧ c.zero 35 1 = true ∧ c.p 33 1 ≤ 18 ∧ blockResettable (c.p 33 1) = true)
    (hlate : c.p 34 1 = 1 → s.f (rg 0 0x24) 9 8 ≠ 1) : effSysReset c s =
      if c.p 34 1 = 1 then reloadGo (c.p 33 1) 0 (reloadList (c.p 33 1) s) (endBlockReset (c.p 33 1) s)
      else .ok (endBlockReset (c.p 33 1) s) [] 0 := by
  obtain ⟨hkind, hreload, hreserved, hblock, hmay⟩ := hv
  have hplain : effSysResetPlain c s = .ok (endBlockReset (c.p 33 1) s) [] 0 := by
    unfold effSysResetPlain
    simp only
    rw [if_neg (by omega), if_neg (by simp [hreserved]), if_neg (by omega), if_neg (by omega), if_neg (by omega),
      if_neg (by simp [hmay]), if_neg (fun ⟨hr, hl⟩ => hlate hr hl)]
    rfl
  unfold effSysReset
  rw [hplain]

/-- A reload that had to wait goes on once no command of the image's runs and none failed. -/
theorem reloadMore_done {c : Cmd} {s t : State} (hidle : s.mason.cmds.any (fun d => d.ring == imageRing) = false)
    (hgood : s.mason.image.1 = 0)
    (hgo : (s.sys.reload).map (fun x => reloadGo x.1 x.2 ((reloadList x.1 s).drop x.2) s) = some (.ok t [] 0)) :
    reloadMore c s = okReply c [] 0 t := by
  obtain ⟨⟨b, i⟩, hreload, hgo⟩ := Option.map_eq_some_iff.mp hgo
  unfold reloadMore
  rw [hreload]
  simp only at hgo ⊢
  rw [if_neg (by simp [hidle]), if_neg (not_not_intro hgood), hgo]
  rfl

/-! ### Flash (R547, R550, R562, R564) -/

/-- Outside areas 2 and 3 the bytes of a span are read. -/
theorem effSysFlashRead_ok {c : Cmd} {s : State} (hn : 1 ≤ c.p 36 4 ∧ c.p 36 4 ≤ 65536)
    (hspan : spanOk c.inst (c.p 32 4) (c.p 36 4) = true) (harea : c.inst ≠ 2 ∧ c.inst ≠ 3) :
    effSysFlashRead c s = .ok s (flashBytes s (areaBase c.inst + c.p 32 4) (c.p 36 4)) 0 := by
  unfold effSysFlashRead
  simp only
  rw [if_neg (by simp [hspan]; omega), if_neg (by omega)]
  rfl

theorem flashBytes_length (s : State) (a n : Nat) : (flashBytes s a n).length = n := by simp [flashBytes]

/-- An image area that Ladle did not pour from is written. -/
theorem writableArea_ok {c : Cmd} {s : State} {k : CmdOut} (harea : c.inst ≠ 2 ∧ c.inst ≠ 3)
    (hslot : s.sys.slot ≠ some c.inst) : writableArea c s k = k := by
  unfold writableArea
  rw [if_neg (by omega), if_neg hslot]

theorem effSysFlashErase_ok {c : Cmd} {s : State} (harea : c.inst ≠ 2 ∧ c.inst ≠ 3) (halign : c.p 32 4 % 65536 = 0)
    (hspan : spanOk c.inst (c.p 32 4) (c.p 36 4 * 65536) = true) (hslot : s.sys.slot ≠ some c.inst) :
    effSysFlashErase c s = .ok
      { s with sys := { s.sys with
          flash := tdrop (fun x => decide (areaBase c.inst + c.p 32 4 ≤ x) &&
            decide (x < areaBase c.inst + c.p 32 4 + c.p 36 4 * 65536)) s.sys.flash } } [] 0 := by
  unfold effSysFlashErase
  simp only
  rw [if_neg (by simp [hspan, halign]), writableArea_ok harea hslot]
  rfl

section
variable {c : Cmd} {s : State} (harea : c.inst ≠ 2 ∧ c.inst ≠ 3) (halign : c.p 32 4 % 256 = 0)
  (hspan : spanOk c.inst (c.p 32 4) (c.payload.drop 4).length = true) (hslot : s.sys.slot ≠ some c.inst)
include harea halign hspan hslot

/-- Bytes that need no bit set are programmed. -/
theorem effSysFlashWrite_ok
    (hclear : ∀ i, i < (c.payload.drop 4).length →
      flashByte s (areaBase c.inst + c.p 32 4 + i) &&& (c.payload.drop 4).getD i 0 = (c.payload.drop 4).getD i 0) :
    effSysFlashWrite c s = .ok { s with sys := { s.sys with
      flash := flashPut (areaBase c.inst + c.p 32 4) (c.payload.drop 4) s.sys.flash } } [] 0 := by
  have hnone : (List.range (c.payload.drop 4).length).find? (fun i =>
      flashByte s (areaBase c.inst + c.p 32 4 + i) &&& (c.payload.drop 4).getD i 0 != (c.payload.drop 4).getD i 0) =
        none := by
    rw [List.find?_eq_none]
    intro i hi
    rw [hclear i (List.mem_range.mp hi)]
    simp
  unfold effSysFlashWrite
  simp only
  rw [if_neg (by simp only [halign, hspan]; simp), writableArea_ok harea hslot, hnone]
  rfl

/-- The first byte that would need a bit set is VERIFY_FAIL. -/
theorem effSysFlashWrite_verifyFail {i : Nat}
    (hsome : (List.range (c.payload.drop 4).length).find? (fun i =>
      flashByte s (areaBase c.inst + c.p 32 4 + i) &&& (c.payload.drop 4).getD i 0 != (c.payload.drop 4).getD i 0) =
        some i) :
    effSysFlashWrite c s = .fail stIntegrity 0x104 noOffset (c.p 32 4 + i) := by
  unfold effSysFlashWrite
  simp only
  rw [if_neg (by simp only [halign, hspan]; simp), writableArea_ok harea hslot, hsome]

end

theorem effSysImageCheck_good {c : Cmd} {s : State} (h : imgCheck s c.inst = none) :
    effSysImageCheck c s = .ok s (leBytes 4 (imgVersion s c.inst)) 0 := by
  unfold effSysImageCheck
  rw [h]
  rfl

theorem effSysImageCheck_bad {c : Cmd} {s : State} {r i : Nat} (h : imgCheck s c.inst = some (r, i)) :
    effSysImageCheck c s = .fail stIntegrity 0x105 noOffset (r + i * 65536) := by
  unfold effSysImageCheck
  rw [h]

/-! ### Health (R557, R561, R563, R564) -/

/-- CFG and REACT are written where the fixed alarms keep their reactions. -/
theorem effHltSetCfg_ok {c : Cmd} {s : State}
    (hv : fld (c.w 32) 31 25 = 0 ∧ hltCfgOk (c.w 32) = true ∧ fld (c.w 36) 31 30 = 0 ∧ reactFixed s (c.w 36) = none) :
    effHltSetCfg c s = .ok ((s.wr (hltReg 0xC) (c.w 32)).wr (hltReg 4) (c.w 36)) [] 0 := by
  obtain ⟨hreserved, hcfg, hreserved', hfixed⟩ := hv
  unfold effHltSetCfg
  rw [if_neg (not_not_intro hreserved), if_neg (by simp [hcfg]), if_neg (not_not_intro hreserved'), hfixed]
  rfl

theorem lifeReport_length (l : Life) : (lifeReport l).length = 48 := by simp [lifeReport]

/-- Settles O56: each opcode's execution passes its checks; a flash read ends in the reply or in the buffer, and an
image check and a flash write by what they find. -/
theorem systemAndHealthOpcodes : Obligations.SystemAndHealthOpcodes := by
  refine ⟨?_, ?_, ?_, ?_, ?_, ?_, ?_, ?_, ?_, ?_, ?_, ?_, ?_, ?_, ?_⟩
  · intro ring slot c s0 s h hv
    exact (execSysReset_admits h).trans (opRow_wait h (effSysReset_module hv))
  · rintro ring slot c s0 s h ⟨hkind, hreload, hrest⟩
    exact (execSysReset_admits h).trans (opRow_ok h
      ((effSysReset_block ⟨hkind, by omega, hrest⟩ (by omega)).trans (if_neg (by omega))) (by decide) (by simp))
  · rintro ring slot c s0 s t h ⟨hkind, hreload, hrest⟩ hlate hgo
    exact (execSysReset_admits h).trans (opRow_ok h
      ((effSysReset_block ⟨hkind, by omega, hrest⟩ (fun _ => hlate)).trans ((if_pos hreload).trans hgo))
      (by decide) (by simp))
  · rintro ring slot c s t ⟨hu, hnone⟩ hc ⟨hidle, hgood⟩ hgo
    exact (execSysReset_more hu hnone hc).trans (congrArg _ (reloadMore_done hidle hgood hgo))
  · rintro ring slot c s0 s h ⟨hlo, hhi, hspan, harea⟩ hi
    refine (opRow_admits h).trans ?_
    rw [effSysFlashRead_ok ⟨hlo, by omega⟩ hspan harea]
    exact congrArg _ (finish_direct hi (by simpa [flashBytes_length] using hhi))
  · rintro ring slot c s0 s h ⟨hlo, hhi, hspan, harea⟩ ⟨hi, hsize, hbad⟩
    refine (opRow_admits h).trans ?_
    rw [effSysFlashRead_ok ⟨hlo, hhi⟩ hspan harea]
    have hlen := flashBytes_length s (areaBase c.inst + c.p 32 4) (c.p 36 4)
    refine congrArg _ ((finish_buffer hi rfl (by omega) (by rw [hlen]; exact hbad)).trans ?_)
    rw [hlen]
  · rintro ring slot c s0 s h ⟨hinst2, hinst3, halign, hspan, hslot⟩
    exact opRow_ok h (effSysFlashErase_ok ⟨hinst2, hinst3⟩ halign hspan hslot) (by decide) (by simp)
  · rintro ring slot c s0 s h ⟨hinst2, hinst3, halign, hspan, hslot⟩ hclear
    exact opRow_ok h (effSysFlashWrite_ok ⟨hinst2, hinst3⟩ halign hspan hslot hclear) (by decide) (by simp)
  · rintro ring slot c s0 s i h ⟨hinst2, hinst3, halign, hspan, hslot⟩ hsome
    exact opRow_fail h (effSysFlashWrite_verifyFail ⟨hinst2, hinst3⟩ halign hspan hslot hsome)
  · intro ring slot c s0 s h
    cases hx : imgCheck s c.inst with
    | none => exact opRow_ok h (effSysImageCheck_good hx) (by decide) (by simp)
    | some x => exact opRow_fail h (effSysImageCheck_bad hx)
  · intro ring slot c s0 s h
    exact opRow_ok (eff := effHltStatus) h rfl (by decide) (by simp)
  · intro ring slot c s0 s h hv
    exact opRow_ok h (effHltSetCfg_ok hv) (by decide) (by simp)
  · intro ring slot c s0 s h
    exact opRow_ok (eff := effHltEccRead) h rfl (by decide) (by simp)
  · intro ring slot c s0 s h
    exact opRow_ok (eff := effHltLifeRead) h rfl (by decide) (by simp [lifeReport_length])
  · intro ring slot c s0 s h
    exact opRow_ok (eff := effHltLifeSave) h rfl (by decide) (by simp)

end Sys2Proof.Machine
end
